-- ==== Sys2Proof/Word.lean ====
section
/-! DEFINITION. The word types of the controller and their plainest arithmetic (R2 to R14: sizes of a byte, a line, a
granule, a beat). -/

namespace Sys2Proof

/-- One byte. -/
abbrev Byte := BitVec 8

/-- One 32-bit register word. -/
abbrev Word := BitVec 32

/-- One 64-byte line; byte `i` stands in bits `8 i + 7 : 8 i`. -/
abbrev Line := BitVec 512

/-- The 64 byte enables of a line write; bit `i` enables byte `i`. -/
abbrev ByteMask := BitVec 64

/-- One received DRAM codeword: 80 symbols of 8 bits, symbol `i` in bits `8 i + 7 : 8 i`. -/
abbrev Codeword := BitVec 640

/-- One mirror frame: 544 symbols of 10 bits, symbol `s` in bits `10 s + 9 : 10 s` (R297). -/
abbrev Frame := BitVec 5440

/-- Ceiling division; a quotient by 0 is 0. -/
def cdiv (a b : Nat) : Nat := (a + b - 1) / b

/-- The larger of 0 and an integer, as a natural number. -/
def posPart (i : Int) : Nat := i.toNat

/-- The value of a two's complement field of `w` bits. -/
def signedOf (w v : Nat) : Int := if v % 2 ^ w < 2 ^ (w - 1) then (v % 2 ^ w : Int) else (v % 2 ^ w : Int) - 2 ^ w

/-- Saturating addition at a cap. -/
def satAdd (cap a b : Nat) : Nat := if a + b ≤ cap then a + b else cap

/-- The bytes of a natural number, least significant first, `n` of them. -/
def leBytes : Nat → Nat → List Byte
  | 0, _ => []
  | n + 1, v => BitVec.ofNat 8 v :: leBytes n (v / 256)

/-- The natural number that a byte list spells, least significant byte first. -/
def ofLe : List Byte → Nat
  | [] => 0
  | b :: bs => b.toNat + 256 * ofLe bs

/-- The bytes of a natural number, most significant first, `n` of them. -/
def beBytes (n v : Nat) : List Byte := (leBytes n v).reverse

/-- The natural number that a byte list spells, most significant byte first. -/
def ofBe (l : List Byte) : Nat := ofLe l.reverse

/-- Bit `i` of a natural number. -/
def bitOf (v i : Nat) : Bool := (v >>> i) % 2 = 1

/-- A natural number with bit `i` set. -/
def setBit (v i : Nat) : Nat := if (v >>> i) % 2 = 1 then v else v + 2 ^ i

/-- A natural number with bit `i` cleared. -/
def clrBit (v i : Nat) : Nat := if (v >>> i) % 2 = 1 then v - 2 ^ i else v

/-- The number of ones in the lowest `n` bits. -/
def ones : Nat → Nat → Nat
  | 0, _ => 0
  | n + 1, v => v % 2 + ones n (v / 2)

/-- Bits `lsb + w - 1 : lsb` of a natural number. -/
def bits (v lsb w : Nat) : Nat := (v / 2 ^ lsb) % 2 ^ w

/-- 1 for true and 0 for false. -/
def b2n (b : Bool) : Nat := if b then 1 else 0

end Sys2Proof
end

