-- ==== Sys2Proof/Machine/Fields.lean ====
section
/-! DEFINITION. What a register field is: its place in the control space and its access type (R470 to R478). -/

namespace Sys2Proof.Machine

/-- The agents that reach the control space (R473, R478). -/
inductive Agent where
  | hostA | hostB | stw
deriving DecidableEq, Repr

/-- The code of an agent in a per-agent key; 0 names a shared copy. -/
def Agent.code : Agent → Nat
  | .hostA => 1
  | .hostB => 2
  | .stw => 3

/-- The agent's number in registers and events (R461): 0 port A, 1 port B, 2 steward. -/
def Agent.num : Agent → Nat
  | .hostA => 0
  | .hostB => 1
  | .stw => 2

/-- The access types of the register tables (R10 to R13). -/
inductive Acc where
  | ro | rw | w1c | w1s | rc | wo | rwl
deriving DecidableEq, Repr

/-- One register field. -/
structure Fld where
  off : Nat
  lsb : Nat
  width : Nat
  acc : Acc
  reset : Nat
  ag : Nat
deriving DecidableEq, Repr

/-- The field's key in the register store. -/
def Fld.key (f : Fld) : Nat := f.ag * 2 ^ 40 + f.off * 32 + f.lsb

/-- One line of the register table: a base, two strides with their counts, whether a write is bound to the beat (R56),
and the field at an index. -/
structure RegRow where
  base : Nat
  stride1 : Nat
  count1 : Nat
  stride2 : Nat
  count2 : Nat
  bound : Bool
  fld : Nat → Nat → Agent → Fld

/-- The index of an offset in one dimension. -/
def dimIndex (d stride count : Nat) : Option (Nat × Nat) :=
  if stride = 0 then some (0, d)
  else if d / stride < count then some (d / stride, d % stride) else none

/-- The indices at which a row lies at an offset. -/
def RegRow.find (r : RegRow) (off : Nat) : Option (Nat × Nat) :=
  if off < r.base then none
  else if r.stride2 ≤ r.stride1 then
    (dimIndex (off - r.base) r.stride1 r.count1).bind fun x =>
      (dimIndex x.2 r.stride2 r.count2).bind fun y => if y.2 = 0 then some (x.1, y.1) else none
  else none

end Sys2Proof.Machine
end

