-- ==== Sys2Proof/Machine/Types.lean ====
section
/-! DEFINITION. Small types shared by commands and state: ports, operating states, per-port and per-agent copies. -/

namespace Sys2Proof.Machine

/-- The two host ports. -/
inductive Port where
  | pa | pb
deriving DecidableEq, Repr

/-- A port's number. -/
def Port.num : Port → Nat
  | .pa => 0
  | .pb => 1

/-- The host agent of a port. -/
def Port.agent : Port → Agent
  | .pa => .hostA
  | .pb => .hostB

/-- The port of a host agent. -/
def Agent.port : Agent → Option Port
  | .hostA => some .pa
  | .hostB => some .pb
  | .stw => none

/-- One copy for each port. -/
structure Two (α : Type) where
  a : α
  b : α
deriving DecidableEq, Repr

/-- The copy of a port. -/
def Two.get {α : Type} (t : Two α) : Port → α
  | .pa => t.a
  | .pb => t.b

/-- Replace the copy of a port. -/
def Two.set {α : Type} (t : Two α) (p : Port) (x : α) : Two α :=
  match p with
  | .pa => ⟨x, t.b⟩
  | .pb => ⟨t.a, x⟩

/-- One copy for each agent (R478). -/
structure Tri (α : Type) where
  a : α
  b : α
  s : α
deriving DecidableEq, Repr

/-- The copy of an agent. -/
def Tri.get {α : Type} (t : Tri α) : Agent → α
  | .hostA => t.a
  | .hostB => t.b
  | .stw => t.s

/-- Replace the copy of an agent. -/
def Tri.set {α : Type} (t : Tri α) (g : Agent) (x : α) : Tri α :=
  match g with
  | .hostA => ⟨x, t.b, t.s⟩
  | .hostB => ⟨t.a, x, t.s⟩
  | .stw => ⟨t.a, t.b, x⟩

/-- What a register write goes to: an offset of the control space, an offset and the next with the upper half of an 8-byte write, or
the function mask of the port's MSI-X capability (R470, R473, R481). -/
inductive RegTarget where
  | space (off : BitVec 27)
  | wide (off : BitVec 27) (hi : Word)
  | msixMask (b : Bool)
deriving DecidableEq, Repr

/-- The operating states of R21. -/
inductive OpState where
  | powerup | boot | restore | serve | grace | drain | sealed
deriving DecidableEq, Repr

/-- The code of an operating state in GLB_STATE (R21). -/
def OpState.code : OpState → Nat
  | .powerup => 1
  | .boot => 2
  | .restore => 3
  | .serve => 4
  | .grace => 5
  | .drain => 6
  | .sealed => 7

/-- A DIMM as its serial presence detect describes it (R107). -/
structure Dimm where
  channel : BitVec 3
  slot : BitVec 1
  registered : Bool
  checked : Bool              -- with ECC devices
  by4 : Bool                  -- x4 devices
  stacked : Bool              -- 3DS
  gib : BitVec 8              -- capacity in GiB
  ranks : BitVec 4
  gbit : BitVec 8             -- density of a device
deriving DecidableEq, Repr

/-- The ONFI parameter page of one target of a flash module's channel, with its read-retry levels (R230, R231). -/
structure ParamPage where
  mod : BitVec 2
  channel : BitVec 3          -- within the module
  target : BitVec 3
  nvLpddr4 : Bool             -- ONFI 5.1 NV-LPDDR4
  main : Nat                  -- main bytes of a page
  spare : Nat                 -- spare bytes of a page
  planes : Nat
  pages : Nat                 -- pages of an SLC block
  blocks : Nat                -- blocks of a plane
  retries : Nat               -- read-retry levels
deriving DecidableEq, Repr

/-- A factory bad-block mark of a module: channel within the module, target, plane and block. -/
structure BadMark where
  channel : BitVec 3
  target : BitVec 3
  plane : BitVec 2
  blk : BitVec 14
deriving DecidableEq, Repr

/-- What a cancel meets in its own fabric cycle (R364): a timeout of the task's wait, a steal, or a pick. -/
inductive CancelMet where
  | nothing
  | timeout (recovery : Word)
  | steal (thief : BitVec 6)
  | pick (tile : BitVec 6) (engine : BitVec 4)
deriving DecidableEq, Repr

/-- What a wait of a task waits on (R361): `met`, a delay, another task or a line serialisation; `op`, an operation that it started;
`layered`, such an operation with a recovery layer below it, a NAND read or a mirror wait (R362). -/
inductive WaitOn where
  | met
  | op
  | layered
deriving DecidableEq, Repr

/-- How a flash operation or an erase attempt ends (R427, R431, R433): verified in time, its verify or blank check failed, or over its
maximum time. -/
inductive FlashEnd where
  | verified
  | failed
  | late
deriving DecidableEq, Repr

/-- How a slice ends (R50, R348, R361): `corrected` counts the tile-store words that its reads have corrected. -/
inductive SliceResult where
  | done
  | failed
  | yield
  | wait (holds : Bool) (on : WaitOn)
  | corrected (words : BitVec 6) (last : Bool)
deriving DecidableEq, Repr

end Sys2Proof.Machine
end

