-- ==== Sys2Proof/Syntax.lean ====
section
/-! DEFINITION. The commands of the controller: one constructor for each row of the opcode table. -/

namespace Sys2Proof

open Sys2Proof.Machine

/-- A command from outside, or an event of the block's own clocks and engines that the table lists as a row. -/
inductive Instr where
  /-- BEAT_BOUNDARY (R42). -/
  | beatBoundary (back : Bool) (refclk : Bool) (aliveLow : Bool) (report : BitVec 96) (pg : BitVec 48)
  /-- CREDIT_PUBLICATION (R45). -/
  | creditPublication
  /-- HEALTH_FIGURES_STALE (R140). -/
  | healthFiguresStale
  /-- REFCLK_LOSS (R39). -/
  | refclkLoss
  /-- REFCLK_RETURN (R40). -/
  | refclkReturn
  /-- CONTROL_SAMPLE (R175). -/
  | controlSample (codes : BitVec 96)
  /-- PROTECTIVE_TRIP (R179). -/
  | protectiveTrip (codes : BitVec 96) (shoot : Bool)
  /-- FAULT_RESTART (R189). -/
  | faultRestart
  /-- BF_RUN_START (R186). -/
  | bfRunStart
  /-- BF_RUN_END (R186). -/
  | bfRunEnd
  /-- BF_RETRY (R186). -/
  | bfRetry
  /-- SETPOINT_WRITE (R516). -/
  | setpointWrite (reg : BitVec 2) (w : Word)
  /-- INMON_TRIP (R206). -/
  | inmonTrip
  /-- INPUT_COLLAPSE (R205). -/
  | inputCollapse
  /-- GRACE_TIMER_EXPIRY (R209). -/
  | graceTimerExpiry
  /-- RIDE_THROUGH (R212). -/
  | rideThrough
  /-- MRX_WINDOW_EXPIRY (R216). -/
  | mrxWindowExpiry
  /-- MIRROR_FENCE (R215). -/
  | mirrorFence
  /-- DOMAIN_SHED (R225). -/
  | domainShed (d : BitVec 7)
  /-- CROWN_WRITE (R226). -/
  | crownWrite
  /-- CROWN_COMPLETE (R226). -/
  | crownComplete
  /-- WARM_RESUME_DECISION (R227). -/
  | warmResumeDecision
  /-- WARM_SERVE_ENTRY (R283). -/
  | warmServeEntry
  /-- OFF_DELAY_EXPIRY (R390). -/
  | offDelayExpiry (rail : BitVec 6)
  /-- BANKMON_DRAIN_FLOOR (R224). -/
  | bankmonDrainFloor (code : BitVec 10)
  /-- BANKMON_SEALED_FLOOR (R173). -/
  | bankmonSealedFloor (code : BitVec 10)
  /-- POWER_UP_BEGIN (R379). -/
  | powerUpBegin
  /-- POWER_UP_COMPLETE (R383). -/
  | powerUpComplete
  /-- POWERUP_HOLD_END (R24). -/
  | powerupHoldEnd
  /-- CORE_STOP_RAIL_OFF (R388). -/
  | coreStopRailOff
  /-- CXL_MEM_WRITE (R79). -/
  | cxlMemWrite (p : Port) (hpa : BitVec 52) (data : Line) (mask : ByteMask) (poison : Bool) (tag : BitVec 16)
  /-- HELD_WRITE_ADMIT (R83). -/
  | heldWriteAdmit (p : Port)
  /-- HELD_SPAN_START (R84). -/
  | heldSpanStart (p : Port)
  /-- CXL_MEM_READ (R92). -/
  | cxlMemRead (p : Port) (hpa : BitVec 52) (tag : BitVec 16) (err : Codeword)
  /-- DECODER_COMMIT (R71). -/
  | decoderCommit (p : Port) (k : BitVec 2) (base : BitVec 52) (size : BitVec 52) (commit : Bool)
  /-- PQ_BIND_WRITE (R74). -/
  | pqBindWrite (p : Port) (k : BitVec 2) (w : Word)
  /-- STAMP_LO_WRITE (R95). -/
  | stampLoWrite (g : Agent) (p : Port) (v : Word)
  /-- STAMP_HI_WRITE (R95). -/
  | stampHiWrite (g : Agent) (p : Port) (hi : Word) (lo : Option Word)
  /-- GLOBAL_PERSISTENT_FLUSH (R105). -/
  | globalPersistentFlush (p : Port)
  /-- IDENTIFY_MEMORY_DEVICE (R106). -/
  | identifyMemoryDevice (p : Port)
  /-- GET_HEALTH_INFO (R106). -/
  | getHealthInfo (p : Port)
  /-- GET_SHUTDOWN_STATE (R106). -/
  | getShutdownState (p : Port)
  /-- SET_SHUTDOWN_STATE (R106). -/
  | setShutdownState (p : Port) (v : BitVec 8)
  /-- GET_SUPPORTED_LOGS (R106). -/
  | getSupportedLogs (p : Port)
  /-- GET_LOG (R106). -/
  | getLog (p : Port)
  /-- GET_EVENT_RECORDS (R106). -/
  | getEventRecords (p : Port)
  /-- CLEAR_EVENT_RECORDS (R106). -/
  | clearEventRecords (p : Port) (h : Option (BitVec 16))
  /-- GET_TIMESTAMP (R106). -/
  | getTimestamp (p : Port)
  /-- SET_TIMESTAMP (R455). -/
  | setTimestamp (p : Port) (ns : BitVec 64)
  /-- GET_FW_INFO (R106). -/
  | getFwInfo (p : Port)
  /-- UNSUPPORTED_MAILBOX_COMMAND (R106). -/
  | unsupportedMailboxCommand (p : Port) (op : BitVec 16)
  /-- HOST_LINK_TRAINED (R69). -/
  | hostLinkTrained (p : Port) (fast : Bool)
  /-- PERST_ASSERT (R485). -/
  | perstAssert (p : Port)
  /-- PERST_DEASSERT (R502). -/
  | perstDeassert (p : Port)
  /-- DRAM_TRAINING (R108). -/
  | dramTraining (dimms : List Dimm) (speeds : List (BitVec 2))
  /-- DRAM_READ_COMPLETE (R118). -/
  | dramReadComplete (la : BitVec 40) (err : Codeword)
  /-- CE_WINDOW_EXPIRY (R130). -/
  | ceWindowExpiry
  /-- RETIRE_COMMAND (R131). -/
  | retireCommand (n : BitVec 5)
  /-- RETIREMENT_BEGIN (R132). -/
  | retirementBegin
  /-- RETIREMENT_CUTOVER (R132). -/
  | retirementCutover
  /-- XLATE_START (R113). -/
  | xlateStart (hi : Word)
  /-- REHEARSAL_GO (R156). -/
  | rehearsalGo
  /-- REHEARSAL_SCHEDULED (R156). -/
  | rehearsalScheduled
  /-- REHEARSAL_END (R157). -/
  | rehearsalEnd
  /-- BANK_RELEASE (R160). -/
  | bankRelease (mod : BitVec 2)
  /-- BANK_RELEASE_CANCEL (R161). -/
  | bankReleaseCancel (mod : BitVec 2)
  /-- ENERGY_MODULE_RELEASED (R161). -/
  | energyModuleReleased (mod : BitVec 2)
  /-- ENERGY_MODULE_ABSENT (R162). -/
  | energyModuleAbsent (mod : BitVec 2)
  /-- BOOT_EQUALISE (R513). -/
  | bootEqualise
  /-- BOOT_EQUALISE_END (R513). -/
  | bootEqualiseEnd
  /-- HEALTH_TEST_GO (R196). -/
  | healthTestGo
  /-- HEALTH_TEST_SCHEDULED (R196). -/
  | healthTestScheduled
  /-- HEALTH_TEST_RETRY (R196). -/
  | healthTestRetry
  /-- HEALTH_TEST_STEP_END (R197). -/
  | healthTestStepEnd
  /-- HEALTH_TEST_RECHARGED (R197). -/
  | healthTestRecharged
  /-- HEALTH_TEST_ABORT (R200). -/
  | healthTestAbort
  /-- EQUALISE_GO (R201). -/
  | equaliseGo (mod : BitVec 2)
  /-- EQUALISE_DONE (R201). -/
  | equaliseDone
  /-- EQUALISE_TIMEOUT (R201). -/
  | equaliseTimeout
  /-- CHUNK_READ_COMPLETE (R239). -/
  | chunkReadComplete (ch : BitVec 5) (t : BitVec 3) (pl : BitVec 2) (blk : BitVec 14) (pg : BitVec 12) (chunk : BitVec 3) (levels : List (List Nat))
  /-- NAND_PROGRAM_COMPLETE (R259). -/
  | nandProgramComplete (ch : BitVec 5) (t : BitVec 3) (pl : BitVec 2) (blk : BitVec 14) (pg : BitVec 12) (good : Bool)
  /-- NAND_ERASE_COMPLETE (R259). -/
  | nandEraseComplete (ch : BitVec 5) (t : BitVec 3) (pl : BitVec 2) (blk : BitVec 14) (good : Bool)
  /-- BAND_OPEN (R245). -/
  | bandOpen (blk : BitVec 14)
  /-- CHECKPOINT_TRIGGER (R251). -/
  | checkpointTrigger
  /-- EPOCH_SEAL (R252). -/
  | epochSeal
  /-- TRICKLE_WRITE_COMPLETE (R125). -/
  | trickleWriteComplete (g : BitVec 40)
  /-- FULL_COPY_COMPLETE (R257). -/
  | fullCopyComplete (g : BitVec 40)
  /-- FLASH_MODULE_ABSENT (R260). -/
  | flashModuleAbsent (mod : BitVec 2)
  /-- FLASH_MODULE_RELEASE (R261). -/
  | flashModuleRelease (mod : BitVec 2)
  /-- FLASH_RELEASE_RESTRIPE (R261). -/
  | flashReleaseRestripe
  /-- FLASH_MODULE_RELEASED (R261). -/
  | flashModuleReleased (mod : BitVec 2)
  /-- FLASH_MODULE_CANCEL (R261). -/
  | flashModuleCancel (mod : BitVec 2)
  /-- FLASH_MODULE_ADD (R262). -/
  | flashModuleAdd (mod : BitVec 2) (pages : List ParamPage) (marks : List BadMark)
  /-- VAULT_FORMAT (R263). -/
  | vaultFormat (key : BitVec 16) (go : Bool)
  /-- FLASH_MODULE_INSERTED (R266). -/
  | flashModuleInserted (mod : BitVec 2) (pages : List ParamPage)
  /-- CROWN_SEARCH (R267). -/
  | crownSearch (pages : List ParamPage) (changed : BitVec 32)
  /-- VAULT_EMPTY (R271). -/
  | vaultEmpty (key : BitVec 16) (empty : Bool)
  /-- MAP_LOAD (R272). -/
  | mapLoad
  /-- NOTES_APPLY (R273). -/
  | notesApply
  /-- PORTS_OPEN (R274). -/
  | portsOpen
  /-- LAZY_RESTORE_END (R279). -/
  | lazyRestoreEnd
  /-- FETCH_COMPLETE (R278). -/
  | fetchComplete (g : BitVec 40)
  /-- RANGE_INDEX_WRITE (R285). -/
  | rangeIndexWrite (idx : BitVec 23)
  /-- LINK_TRAINING_START (R290). -/
  | linkTrainingStart
  /-- LINK_EQUALISE_END (R290). -/
  | linkEqualiseEnd (trained : BitVec 16) (pol : BitVec 16)
  /-- FRAME_RECEIVE (R301). -/
  | frameReceive (f : Frame) (missed : BitVec 16) (reversed : Bool)
  /-- ATTEMPT_TIMEOUT (R291). -/
  | attemptTimeout
  /-- RTRN_SEND_END (R292). -/
  | rtrnSendEnd
  /-- LINK_RETRAIN_COMMAND (R296). -/
  | linkRetrainCommand
  /-- INJECT_CRC_ERROR (R302). -/
  | injectCrcError
  /-- INJECT_LANE_ERRORS (R301). -/
  | injectLaneErrors (lane : BitVec 4) (n : BitVec 6)
  /-- FLIT_TRANSMIT (R304). -/
  | flitTransmit
  /-- REPLAY_TIMER_EXPIRY (R309). -/
  | replayTimerExpiry
  /-- SESSION_SETUP_START (R319). -/
  | sessionSetupStart
  /-- HELLO (R321). -/
  | hello
  /-- RESPONSE (R319). -/
  | response
  /-- REFUSE (R322). -/
  | refuse
  /-- SETUP_TIMEOUT (R319). -/
  | setupTimeout
  /-- SESSION_END_COMMAND (R322). -/
  | sessionEndCommand
  /-- QUARANTINE_CLEAR (R339). -/
  | quarantineClear
  /-- RESYNC_COMMAND (R335). -/
  | resyncCommand
  /-- GROUP_VERIFY (R325). -/
  | groupVerify
  /-- WRITE (R329). -/
  | write
  /-- DATA (R330). -/
  | data
  /-- ACK (R332). -/
  | ack
  /-- STAMP (R333). -/
  | stamp
  /-- HEARTBEAT (R340). -/
  | heartbeat
  /-- SYNC_BEGIN (R336). -/
  | syncBegin
  /-- SYNC_END (R336). -/
  | syncEnd
  /-- SYNC_REPAIRED (R333). -/
  | syncRepaired
  /-- TAKEOVER (R344). -/
  | takeover
  /-- PAD (R327). -/
  | pad
  /-- RECEIVE_WRITE_TIMEOUT (R330). -/
  | receiveWriteTimeout
  /-- SEND_COUNTED_TIMEOUT (R337). -/
  | sendCountedTimeout
  /-- SEND_ABSOLUTE_TIMEOUT (R337). -/
  | sendAbsoluteTimeout
  /-- HEARTBEAT_SEND (R340). -/
  | heartbeatSend
  /-- HEARTBEAT_LOSS (R341). -/
  | heartbeatLoss
  /-- PARTNER_ALIVE_IN_DEASSERT (R340). -/
  | partnerAliveInDeassert
  /-- QUARANTINE_END (R339). -/
  | quarantineEnd
  /-- QUARANTINE_COUNT_RESET (R339). -/
  | quarantineCountReset
  /-- FULL_SYNC_START (R336). -/
  | fullSyncStart
  /-- ADOPTED_REGION_READ (R343). -/
  | adoptedRegionRead (p : Port) (off : BitVec 48) (tag : BitVec 16) (err : Codeword)
  /-- ADOPTED_REGION_WRITE (R343). -/
  | adoptedRegionWrite (p : Port)
  /-- ADOPTED_REGION_RELEASE (R345). -/
  | adoptedRegionRelease (key : BitVec 16)
  /-- INGEST_FLUSH (R124). -/
  | ingestFlush (id : BitVec 48) (err : Codeword) (tsBad : Bool) (tsFix : BitVec 6)
  /-- INGEST_WRITE_COMPLETE (R78). -/
  | ingestWriteComplete (id : BitVec 48) (chanDead : Bool)
  /-- MIRROR_SEND (R32). -/
  | mirrorSend
  /-- TRICKLE (R125). -/
  | trickle (g : BitVec 40)
  /-- DRAIN_EXTENT (R221). -/
  | drainExtent (first : BitVec 40) (count : BitVec 32)
  /-- EXTENT_COMPLETE (R221). -/
  | extentComplete (g : BitVec 40)
  /-- RESTORE_ROW (R279). -/
  | restoreRow (first : BitVec 40) (count : BitVec 32)
  /-- DEMAND_FETCH (R276). -/
  | demandFetch (g : BitVec 40)
  /-- SCRUB (R128). -/
  | scrub (first : BitVec 40) (count : BitVec 32) (copy : Bool) (errs : List Codeword)
  /-- FULL (R257). -/
  | full (bseq : BitVec 40) (count : BitVec 32)
  /-- MAP_CKPT (R251). -/
  | mapCkpt (count : BitVec 16)
  /-- PARITY (R243). -/
  | parity (bseq : BitVec 40) (row : BitVec 16)
  /-- HEALTH (R157). -/
  | health (g : BitVec 40)
  /-- TASK_SUBMIT (R356). -/
  | taskSubmit (g : Agent) (tile : BitVec 6)
  /-- TASK_PICK (R357). -/
  | taskPick (tile : BitVec 6) (engine : BitVec 4)
  /-- TASK_STEAL (R359). -/
  | taskSteal (thief : BitVec 6) (own : Option (BitVec 4))
  /-- TASK_STEAL_DELIVERY (R359). -/
  | taskStealDelivery (thief : BitVec 6)
  /-- TASK_SLICE_END (R50). -/
  | taskSliceEnd (tid : Word) (r : SliceResult)
  /-- WAIT_CONDITION_MET (R361). -/
  | waitConditionMet (tid : Word) (recovery : Word)
  /-- WAIT_TIMEOUT (R362). -/
  | waitTimeout (tid : Word) (recovery : Word)
  /-- TASK_CANCEL (R363). -/
  | taskCancel (g : Agent) (tid : Word) (met : CancelMet)
  /-- COMPLETION_POP (R356). -/
  | completionPop (g : Agent)
  /-- TILE_QUIESCE (R365). -/
  | tileQuiesce (t : BitVec 6)
  /-- TILE_OUT (R365). -/
  | tileOut (t : BitVec 6)
  /-- QUIESCE_TIMEOUT (R366). -/
  | quiesceTimeout (t : BitVec 6)
  /-- TILE_RETURN (R366). -/
  | tileReturn (t : BitVec 6)
  /-- MICROCODE_ROLL (R367). -/
  | microcodeRoll (maxout : BitVec 5)
  /-- ROLL_ABORT (R368). -/
  | rollAbort
  /-- TILE_MICROCODE_LOADED (R367). -/
  | tileMicrocodeLoaded (t : BitVec 6)
  /-- TILE_SELF_TEST_DONE (R368). -/
  | tileSelfTestDone (t : BitVec 6) (pass : Bool)
  /-- TILE_SELF_TEST_BOOT (R349). -/
  | tileSelfTestBoot (passed : BitVec 64)
  /-- SCAN_COMPLETE (R378). -/
  | scanComplete (codes : List (BitVec 12)) (pg : BitVec 48)
  /-- RAIL_TON_EXPIRY (R380). -/
  | railTonExpiry (rail : BitVec 6)
  /-- RAIL_SETTLE_EXPIRY (R380). -/
  | railSettleExpiry (rail : BitVec 6)
  /-- RAIL_FDELAY_EXPIRY (R386). -/
  | railFdelayExpiry (rail : BitVec 6)
  /-- DOMAIN_ON_TIMEOUT (R381). -/
  | domainOnTimeout (d : BitVec 7)
  /-- DOMAIN_FAULT (R381). -/
  | domainFault (d : BitVec 7)
  /-- REPOWER (R389). -/
  | repower (rail : BitVec 6)
  /-- MANUAL_RAIL_ON (R372). -/
  | manualRailOn (rail : BitVec 6)
  /-- MANUAL_RAIL_OFF (R372). -/
  | manualRailOff (rail : BitVec 6)
  /-- WARNING_COUNT_CLEAR (R385). -/
  | warningCountClear (rail : BitVec 6)
  /-- RESET_STRETCH_EXPIRY (R394). -/
  | resetStretchExpiry (g : BitVec 4)
  /-- DROOP_TRIP (R396). -/
  | droopTrip (t : BitVec 6)
  /-- DROOP_RELEASE (R396). -/
  | droopRelease (t : BitVec 6)
  /-- SNAP_DATA_READ (R399). -/
  | snapDataRead (g : Agent)
  /-- VDDAON_POWER_ON (R376). -/
  | vddaonPowerOn (straps : BitVec 4)
  /-- VDDAON_LOSS (R501). -/
  | vddaonLoss
  /-- BOOT_IMAGE_VALIDATE (R407). -/
  | bootImageValidate
  /-- SHADE_VALIDATE (R408). -/
  | shadeValidate
  /-- SHADE_VALIDATION_DONE (R408). -/
  | shadeValidationDone
  /-- SWAP (R410). -/
  | swap (key : BitVec 16)
  /-- ROLE_RECORD_COMMITTED (R410). -/
  | roleRecordCommitted
  /-- SWAP_EFFECT (R412). -/
  | swapEffect
  /-- IMAGE_RELEASE (R55). -/
  | imageRelease
  /-- SWAP_CANCEL (R413). -/
  | swapCancel
  /-- ROLLBACK (R414). -/
  | rollback (key : BitVec 16)
  /-- NATIVE_CMD0 (R428). -/
  | nativeCmd0 (g : Agent) (w : Word) (also : List (Agent × Word))
  /-- NATIVE_CMD1 (R426). -/
  | nativeCmd1 (g : Agent) (w : Word)
  /-- NATIVE_DATA_WRITE (R426). -/
  | nativeDataWrite (g : Agent) (off : BitVec 26) (w : Word) (full : Bool)
  /-- PROGRAM (R427). -/
  | program (g : Agent) (w : Word)
  /-- ERASE_SECTOR (R431). -/
  | eraseSector (g : Agent) (w : Word)
  /-- BLANK_CHECK (R427). -/
  | blankCheck (g : Agent) (w : Word)
  /-- FLASH_OPERATION_COMPLETE (R433). -/
  | flashOperationComplete (how : FlashEnd)
  /-- FLASH_SEQUENCE_TIMEOUT (R428). -/
  | flashSequenceTimeout
  /-- COMPAT_KEY_WRITE (R430). -/
  | compatKeyWrite (g : Agent) (w : Word)
  /-- COMPAT_PROGRAM_WORD (R430). -/
  | compatProgramWord (g : Agent) (w : Word)
  /-- COMPAT_ERASE_SECTOR (R430). -/
  | compatEraseSector (g : Agent) (a : BitVec 26)
  /-- COMPAT_BLANK_CHECK (R430). -/
  | compatBlankCheck (g : Agent) (a : BitVec 26)
  /-- COMPAT_ABORT (R430). -/
  | compatAbort (g : Agent)
  /-- FLAG_SCAN (R432). -/
  | flagScan
  /-- BOOT_SELECT (R424). -/
  | bootSelect (g : Agent) (block : Bool) (key : BitVec 16)
  /-- STEWARD_START (R425). -/
  | stewardStart (good0 : Bool) (good1 : Bool)
  /-- RECORDER_FLASH_COPY (R469). -/
  | recorderFlashCopy
  /-- DIGEST_START (R439). `also` holds the requests of other agents in the same fabric cycle: a start with its algorithm and
  key slot, or a resume with its context slot. -/
  | digestStart (g : Agent) (alg : BitVec 2) (keyslot : BitVec 5) (also : List (Agent × Sum (BitVec 2 × BitVec 5) (BitVec 2)))
  /-- DIGEST_RESUME (R443). `also` as for DIGEST_START. -/
  | digestResume (g : Agent) (n : BitVec 2) (also : List (Agent × Sum (BitVec 2 × BitVec 5) (BitVec 2)))
  /-- DIGEST_ABORT (R436). -/
  | digestAbort (g : Agent)
  /-- DIGEST_DATA_WRITE (R436). -/
  | digestDataWrite (g : Agent) (w : Word)
  /-- DIGEST_BLOCK_DONE (R440). -/
  | digestBlockDone
  /-- DIGEST_OWNER_TIMEOUT (R444). -/
  | digestOwnerTimeout
  /-- DIGEST_CONTEXT_EXPIRY (R444). -/
  | digestContextExpiry (n : BitVec 2)
  /-- IMPORT (R446). -/
  | importKey (g : Agent) (slot : BitVec 5) (key : BitVec 16)
  /-- EXPORT (R447). -/
  | exportKey (g : Agent) (slot : BitVec 5) (key : BitVec 16)
  /-- LOCK (R448). -/
  | lock (g : Agent) (slot : BitVec 5) (key : BitVec 16)
  /-- ERASE (R448). -/
  | erase (g : Agent) (slot : BitVec 5) (key : BitVec 16)
  /-- COMPARE (R448). -/
  | compare (g : Agent) (slot : BitVec 5) (key : BitVec 16)
  /-- LOADESCROW (R447). -/
  | loadescrow (g : Agent) (key : BitVec 16)
  /-- KEY_OP_SEVEN (R448). -/
  | keyOpSeven (g : Agent) (key : BitVec 16)
  /-- KEY_SLOT_LOAD (R449). -/
  | keySlotLoad
  /-- WATCHDOG_EXPIRY (R451). -/
  | watchdogExpiry
  /-- STEWARD_RESTART (R451). -/
  | stewardRestart (g : Agent) (key : BitVec 16)
  /-- CONFIRM (R460). -/
  | confirm (g : Agent)
  /-- KICK (R451). -/
  | kick (g : Agent)
  /-- CONFIRM_TIMEOUT (R460). -/
  | confirmTimeout
  /-- SENSOR_READ (R453). -/
  | sensorRead (temps : List (BitVec 12)) (mv : List (BitVec 16))
  /-- GET_VERSIONS (R457). -/
  | getVersions (g : Option Port)
  /-- UPDATE_BEGIN (R458). -/
  | updateBegin (g : Option Port) (size : Word)
  /-- UPDATE_DATA (R458). -/
  | updateData (g : Option Port) (off : Word) (data : List Byte)
  /-- UPDATE_END (R459). -/
  | updateEnd (g : Option Port)
  /-- UPDATE_CANCEL (R458). -/
  | updateCancel (g : Option Port)
  /-- ACTIVATE_FW (R460). -/
  | activateFw (g : Option Port)
  /-- SET_WALLTIME (R455). -/
  | setWalltime (g : Option Port) (sec : BitVec 64)
  /-- ENTDAA (R456). -/
  | entdaa (addr : BitVec 7)
  /-- SETDASA (R456). -/
  | setdasa (static : BitVec 7) (addr : BitVec 7)
  /-- RSTDAA (R456). -/
  | rstdaa
  /-- ENEC (R456). -/
  | enec
  /-- DISEC (R456). -/
  | disec
  /-- GETPID (R456). -/
  | getpid
  /-- GETBCR (R456). -/
  | getbcr
  /-- GETDCR (R456). -/
  | getdcr
  /-- GETMWL (R456). -/
  | getmwl
  /-- GETMRL (R456). -/
  | getmrl
  /-- SET_ENDPOINT_ID (R456). -/
  | setEndpointId (eid : BitVec 8)
  /-- GET_ENDPOINT_ID (R456). -/
  | getEndpointId
  /-- GET_ENDPOINT_UUID (R456). -/
  | getEndpointUuid
  /-- GET_MCTP_VERSION_SUPPORT (R456). -/
  | getMctpVersionSupport (ty : BitVec 8)
  /-- GET_MESSAGE_TYPE_SUPPORT (R456). -/
  | getMessageTypeSupport
  /-- GET_VENDOR_DEFINED_MESSAGE_SUPPORT (R456). -/
  | getVendorDefinedMessageSupport
  /-- UNSUPPORTED_MCTP_COMMAND (R456). -/
  | unsupportedMctpCommand (cmd : BitVec 8)
  /-- UNSUPPORTED_MESSAGE_TYPE (R456). -/
  | unsupportedMessageType
  /-- SETTID (R456). -/
  | settid (tid : BitVec 8)
  /-- GETTID (R456). -/
  | gettid
  /-- GETPLDMVERSION (R456). -/
  | getpldmversion (ty : BitVec 8)
  /-- GETPLDMTYPES (R456). -/
  | getpldmtypes
  /-- GETPLDMCOMMANDS (R456). -/
  | getpldmcommands (ty : BitVec 8)
  /-- GETSENSORREADING (R456). -/
  | getsensorreading (id : BitVec 16)
  /-- GETSTATESENSORREADINGS (R456). -/
  | getstatesensorreadings (id : BitVec 16)
  /-- SETNUMERICSENSORENABLE (R456). -/
  | setnumericsensorenable (id : BitVec 16) (enable : Bool)
  /-- GETPDRREPOSITORYINFO (R456). -/
  | getpdrrepositoryinfo
  /-- GETPDR (R456). -/
  | getpdr (handle : Word)
  /-- SETEVENTRECEIVER (R456). -/
  | seteventreceiver (enable : Bool) (eid : BitVec 8)
  /-- QUERYDEVICEIDENTIFIERS (R456). -/
  | querydeviceidentifiers
  /-- GETFIRMWAREPARAMETERS (R456). -/
  | getfirmwareparameters
  /-- REQUESTUPDATE (R458). -/
  | requestupdate
  /-- PASSCOMPONENTTABLE (R456). -/
  | passcomponenttable
  /-- UPDATECOMPONENT (R458). -/
  | updatecomponent (size : Word)
  /-- ACTIVATEFIRMWARE (R460). -/
  | activatefirmware
  /-- GETSTATUS (R456). -/
  | getstatus
  /-- CANCELUPDATECOMPONENT (R456). -/
  | cancelupdatecomponent
  /-- CANCELUPDATE (R456). -/
  | cancelupdate
  /-- EVR_CURSOR_WRITE (R466). -/
  | evrCursorWrite (g : Agent) (seq : Word)
  /-- SEVERITY_QUERY (R462). -/
  | severityQuery (code : BitVec 16)
  /-- CHALLENGE (R467). -/
  | challenge (g : Agent) (key : BitVec 16)
  /-- CLEAR (R468). -/
  | clear (g : Agent) (key : BitVec 16)
  /-- CHALLENGE_EXPIRY (R467). -/
  | challengeExpiry
  /-- MSIX_MESSAGE_SEND (R481). -/
  | msixMessageSend (p : Port) (v : BitVec 6)
  /-- GLB_LOCK_SET (R483). -/
  | glbLockSet (g : Agent)
  /-- UNASSIGNED_ACCESS (R472). -/
  | unassignedAccess (g : Agent) (off : BitVec 27) (write : Bool) (full : Bool)
  /-- OFF_DOMAIN_ACCESS (R479). -/
  | offDomainAccess (g : Agent) (off : BitVec 27) (write : Bool)
  /-- LO_READ_LATCH (R64). -/
  | loReadLatch (g : Agent) (off : BitVec 27) (wide : Bool)
  /-- READ_CLEAR (R477). -/
  | readClear (g : Agent) (off : BitVec 27)
  /-- REGISTER_WRITE (R474). -/
  | registerWrite (g : Agent) (t : RegTarget) (w : Word) (be : BitVec 4) (also : List (Agent × Word × BitVec 4))
  /-- JTAG_IDCODE (R498). -/
  | jtagIdcode
  /-- JTAG_BYPASS (R498). -/
  | jtagBypass
  /-- JTAG_PIN_CONTROL (R498). -/
  | jtagPinControl
  /-- PARTNER_ALIVE_IN_ASSERT (R340). -/
  | partnerAliveInAssert
  /-- LANE_ERROR_WINDOW_EXPIRY (R292). -/
  | laneErrorWindowExpiry
  /-- HOST_LINK_DOWN (R481). -/
  | hostLinkDown (p : Port)
  /-- CONTEXT_EXPORT_IMPORT_DONE (R440). -/
  | contextExportImportDone (intact : Bool)
  /-- REQUESTFIRMWAREDATA_RESPONSE (R458). -/
  | requestfirmwaredataResponse (data : List Byte)
deriving DecidableEq, Repr

end Sys2Proof
end

