-- ==== Sys2Proof/Decode.lean ====
section
/-! DEFINITION. The word decoder. The opcode table of this block gives no row any bits: no word spells a command. -/

namespace Sys2Proof

/-- The command that a word spells by the bits of the opcode table: none, since no row of the table has bits. -/
def decodeTableWord (_nbits _w : Nat) : Option Instr := none

end Sys2Proof
end

