-- ==== Sys2Proof/Machine/RegMap.lean ====
section
/-! DEFINITION. The register fields of the control space (R470), one definition per field of the spec's register tables:
offset, lowest bit, width, access type and reset value as the table of that register gives them. An indexed register's
fields take its index; a per-agent register's fields (R478) take the agent. -/

namespace Sys2Proof.Machine

def GLB_IDENT_VENDOR : Fld := ⟨0x0, 0, 16, .ro, 0x1F5A, 0⟩
def GLB_IDENT_DEVICE : Fld := ⟨0x0, 16, 16, .ro, 0x4100, 0⟩
def GLB_STEPPING_STEP : Fld := ⟨0x4, 0, 16, .ro, 0xB0, 0⟩
def GLB_DIEID_LO_ID : Fld := ⟨0x8, 0, 32, .ro, 0, 0⟩
def GLB_DIEID_HI_ID : Fld := ⟨0xC, 0, 32, .ro, 0, 0⟩
def GLB_STATE_STATE : Fld := ⟨0x10, 0, 3, .ro, 1, 0⟩
def GLB_STATE_LAZY : Fld := ⟨0x10, 3, 1, .ro, 0, 0⟩
def GLB_STATE_BEATSRC : Fld := ⟨0x10, 4, 1, .ro, 0, 0⟩
def GLB_BEAT_LO_BEAT : Fld := ⟨0x14, 0, 32, .ro, 0, 0⟩
def GLB_BEAT_HI_BEAT : Fld := ⟨0x18, 0, 32, .ro, 0, 0⟩
def GLB_CAP_PORTS : Fld := ⟨0x1C, 0, 2, .ro, 2, 0⟩
def GLB_CAP_MIRROR : Fld := ⟨0x1C, 2, 1, .ro, 1, 0⟩
def GLB_CAP_TILES : Fld := ⟨0x1C, 3, 7, .ro, 0x40, 0⟩
def GLB_CAP_DDRCH : Fld := ⟨0x1C, 10, 4, .ro, 8, 0⟩
def GLB_CAP_NFCH : Fld := ⟨0x1C, 14, 6, .ro, 0x20, 0⟩
def GLB_CAP_KEYSLOTS : Fld := ⟨0x1C, 20, 6, .ro, 0x20, 0⟩
def GLB_ISTAT0_SRC (a : Agent) : Fld := ⟨0x20, 0, 32, .w1c, 0, a.code⟩
def GLB_ISTAT1_SRC (a : Agent) : Fld := ⟨0x24, 0, 3, .w1c, 0, a.code⟩
def GLB_IMASK0_MASK (a : Agent) : Fld := ⟨0x28, 0, 32, .rwl, 0xFFFFFFFF, a.code⟩
def GLB_IMASK1_MASK (a : Agent) : Fld := ⟨0x2C, 0, 3, .rwl, 7, a.code⟩
def GLB_LOCK_LOCK (a : Agent) : Fld := ⟨0x30, 0, 1, .w1s, 0, a.code⟩
def GLB_CTRL_RST_IRQ : Fld := ⟨0x34, 0, 1, .rw, 1, 0⟩
def GLB_CTRL_BEAT_IRQ : Fld := ⟨0x34, 1, 1, .rw, 1, 0⟩
def GLB_CTRL_THERM_IRQ : Fld := ⟨0x34, 2, 1, .rw, 1, 0⟩
def GLB_CTRL_STW_IRQ : Fld := ⟨0x34, 3, 1, .rw, 0, 0⟩
def GLB_ACCERR_COUNT : Fld := ⟨0x38, 0, 32, .rc, 0, 0⟩
def GLB_VECMAP_VEC_0 (k : Nat) (a : Agent) : Fld := ⟨0x40 + 0x4 * k, 0, 6, .rwl, 4*k+0, a.code⟩
def GLB_VECMAP_VEC_1 (k : Nat) (a : Agent) : Fld := ⟨0x40 + 0x4 * k, 8, 6, .rwl, 4*k+1, a.code⟩
def GLB_VECMAP_VEC_2 (k : Nat) (a : Agent) : Fld := ⟨0x40 + 0x4 * k, 16, 6, .rwl, 4*k+2, a.code⟩
def GLB_VECMAP_VEC_3 (k : Nat) (a : Agent) : Fld := ⟨0x40 + 0x4 * k, 24, 6, .rwl, 4*k+3, a.code⟩
def PQ_CAP_QCAP_K : Fld := ⟨0x10000, 0, 16, .ro, 0, 0⟩
def PQ_CAP_QTILES : Fld := ⟨0x10000, 16, 7, .ro, 0, 0⟩
def PQ_CTRL_HZ_IRQ : Fld := ⟨0x10004, 0, 1, .rw, 0, 0⟩
def PQ_CTRL_HELD_IRQ : Fld := ⟨0x10004, 1, 1, .rw, 0, 0⟩
def PQ_CTRL_AAMF_IRQ : Fld := ⟨0x10004, 2, 1, .rw, 0, 0⟩
def PQ_CTRL_HELD_BEATS : Fld := ⟨0x10004, 16, 16, .rw, 0x64, 0⟩
def PQ_STATUS_PA_OPEN : Fld := ⟨0x10008, 0, 1, .ro, 0, 0⟩
def PQ_STATUS_PB_OPEN : Fld := ⟨0x10008, 1, 1, .ro, 0, 0⟩
def PQ_STATUS_ADMIT_STOP : Fld := ⟨0x10008, 2, 1, .ro, 0, 0⟩
def PQ_STATUS_HELD : Fld := ⟨0x10008, 3, 1, .w1c, 0, 0⟩
def PQ_STATUS_AAM_LOCAL : Fld := ⟨0x10008, 4, 1, .w1c, 0, 0⟩
def PQ_STATUS_UMBER_HOLD : Fld := ⟨0x10008, 5, 1, .ro, 0, 0⟩
def PQ_STATUS_PA_CXL : Fld := ⟨0x10008, 6, 1, .ro, 0, 0⟩
def PQ_STATUS_PB_CXL : Fld := ⟨0x10008, 7, 1, .ro, 0, 0⟩
def PQ_STATUS_HZ_FROZEN : Fld := ⟨0x10008, 8, 1, .ro, 0, 0⟩
def PQ_OCC_OCC_LINES : Fld := ⟨0x1000C, 0, 20, .ro, 0, 0⟩
def PQ_CLASS_MIRROR (n : Nat) : Fld := ⟨0x10010 + 0x4 * n, 0, 1, .ro, 0, 0⟩
def PQ_CLASS_AAM (n : Nat) : Fld := ⟨0x10010 + 0x4 * n, 1, 1, .rw, 0, 0⟩
def PQ_CLASS_CHARGED (n : Nat) : Fld := ⟨0x10010 + 0x4 * n, 2, 1, .ro, 1, 0⟩
def PQ_CLASS_EXPENDABLE (n : Nat) : Fld := ⟨0x10010 + 0x4 * n, 3, 1, .ro, 0, 0⟩
def PQ_CLASSD_CHARGED : Fld := ⟨0x1001C, 2, 1, .ro, 0, 0⟩
def PQ_CLASSD_EXPENDABLE : Fld := ⟨0x1001C, 3, 1, .ro, 1, 0⟩
def PQ_BIND_CLASS (p : Nat) (k : Nat) : Fld := ⟨0x10040 + 0x10 * p + 0x4 * k, 0, 3, .rw, 0, 0⟩
def PQ_BIND_VALID (p : Nat) (k : Nat) : Fld := ⟨0x10040 + 0x10 * p + 0x4 * k, 3, 1, .rw, 0, 0⟩
def PQ_BIND_OFF (p : Nat) (k : Nat) : Fld := ⟨0x10040 + 0x10 * p + 0x4 * k, 16, 11, .rw, 0, 0⟩
def PQ_STAMP_LO_STAMP (p : Nat) : Fld := ⟨0x10100 + 0x100 * p, 0, 32, .wo, 0, 0⟩
def PQ_STAMP_HI_STAMP (p : Nat) : Fld := ⟨0x10104 + 0x100 * p, 0, 32, .wo, 0, 0⟩
def PQ_LHZ_LO_HZ (p : Nat) : Fld := ⟨0x10108 + 0x100 * p, 0, 32, .ro, 0, 0⟩
def PQ_LHZ_HI_HZ (p : Nat) : Fld := ⟨0x1010C + 0x100 * p, 0, 32, .ro, 0, 0⟩
def PQ_MHZ_LO_HZ (p : Nat) : Fld := ⟨0x10110 + 0x100 * p, 0, 32, .ro, 0, 0⟩
def PQ_MHZ_HI_HZ (p : Nat) : Fld := ⟨0x10114 + 0x100 * p, 0, 32, .ro, 0, 0⟩
def PQ_RESV_A_LINES (p : Nat) : Fld := ⟨0x10118 + 0x100 * p, 0, 16, .rw, 0, 0⟩
def PQ_RESV_B_LINES (p : Nat) : Fld := ⟨0x10118 + 0x100 * p, 16, 16, .rw, 0, 0⟩
def PQ_STALE_COUNT (p : Nat) : Fld := ⟨0x1011C + 0x100 * p, 0, 32, .rc, 0, 0⟩
def PQ_HOLD_HELD_NOW (p : Nat) : Fld := ⟨0x10120 + 0x100 * p, 0, 9, .ro, 0, 0⟩
def PQ_HOLD_OLDEST_BEATS (p : Nat) : Fld := ⟨0x10120 + 0x100 * p, 16, 16, .ro, 0, 0⟩
def PQ_PEND_PENDING (p : Nat) : Fld := ⟨0x10124 + 0x100 * p, 0, 7, .ro, 0, 0⟩
def PQ_PEND_MERGED (p : Nat) : Fld := ⟨0x10124 + 0x100 * p, 16, 1, .w1c, 0, 0⟩
def CCH_CFG_SPEED : Fld := ⟨0x20000, 0, 3, .ro, 0, 0⟩
def CCH_CFG_DPC2 : Fld := ⟨0x20000, 3, 1, .ro, 0, 0⟩
def CCH_CFG_RANKS2 : Fld := ⟨0x20000, 4, 1, .ro, 0, 0⟩
def CCH_CFG_SIZE32 : Fld := ⟨0x20000, 5, 1, .ro, 0, 0⟩
def CCH_CFG_SPARES : Fld := ⟨0x20000, 6, 3, .ro, 0, 0⟩
def CCH_CFG_LRANKS : Fld := ⟨0x20000, 9, 6, .ro, 0, 0⟩
def CCH_STATUS_POP_OK : Fld := ⟨0x20004, 0, 1, .ro, 0, 0⟩
def CCH_STATUS_SPEED_FALLBACK : Fld := ⟨0x20004, 1, 1, .w1c, 0, 0⟩
def CCH_STATUS_UE : Fld := ⟨0x20004, 2, 1, .w1c, 0, 0⟩
def CCH_STATUS_RETIRING : Fld := ⟨0x20004, 3, 1, .ro, 0, 0⟩
def CCH_STATUS_DEVFLAG : Fld := ⟨0x20004, 4, 1, .w1c, 0, 0⟩
def CCH_STATUS_SCRUB_OFF : Fld := ⟨0x20004, 5, 1, .ro, 0, 0⟩
def CCH_STATUS_TRICKLE_THROTTLE : Fld := ⟨0x20004, 6, 1, .ro, 0, 0⟩
def CCH_DIRTY_GRANULES (c : Nat) : Fld := ⟨0x20010 + 0x4 * c, 0, 28, .ro, 0, 0⟩
def CCH_SCRUB_PASS_HOURS : Fld := ⟨0x20024, 0, 8, .rw, 0x18, 0⟩
def CCH_SCRUB_PASSES : Fld := ⟨0x20024, 16, 16, .ro, 0, 0⟩
def CCH_BW_CAP_PCT : Fld := ⟨0x20028, 0, 7, .rw, 0x4B, 0⟩
def CCH_RET_CTRL_AUTO : Fld := ⟨0x20030, 0, 1, .rw, 1, 0⟩
def CCH_RET_CTRL_RATE_GBS : Fld := ⟨0x20030, 1, 6, .rw, 8, 0⟩
def CCH_RET_CTRL_DEV_RUN : Fld := ⟨0x20030, 8, 8, .rw, 0x40, 0⟩
def CCH_RET_CTRL_CE_THR : Fld := ⟨0x20030, 16, 16, .rw, 0x400, 0⟩
def CCH_RET_WIN_BEATS : Fld := ⟨0x20034, 0, 32, .rw, 0xD693A400, 0⟩
def CCH_RET_CMD_PRANK : Fld := ⟨0x20038, 0, 5, .wo, 0, 0⟩
def CCH_RET_CMD_GO : Fld := ⟨0x20038, 31, 1, .wo, 0, 0⟩
def CCH_RET_STATUS_FROM : Fld := ⟨0x2003C, 0, 5, .ro, 0, 0⟩
def CCH_RET_STATUS_TO : Fld := ⟨0x2003C, 5, 5, .ro, 0, 0⟩
def CCH_RET_STATUS_ACTIVE : Fld := ⟨0x2003C, 10, 1, .ro, 0, 0⟩
def CCH_RET_STATUS_REASON : Fld := ⟨0x2003C, 12, 4, .ro, 0, 0⟩
def CCH_RET_STATUS_PCT : Fld := ⟨0x2003C, 16, 7, .ro, 0, 0⟩
def CCH_UE_COUNT_COUNT : Fld := ⟨0x20040, 0, 32, .rc, 0, 0⟩
def CCH_UE_ADDR_LO_CA : Fld := ⟨0x20044, 0, 32, .ro, 0, 0⟩
def CCH_UE_ADDR_HI_CA : Fld := ⟨0x20048, 0, 32, .ro, 0, 0⟩
def CCH_XLATE_LO_CA : Fld := ⟨0x20050, 0, 32, .rw, 0, 0⟩
def CCH_XLATE_HI_CA : Fld := ⟨0x20054, 0, 32, .rw, 0, 0⟩
def CCH_XLATE_OUT_PRANK : Fld := ⟨0x20058, 0, 5, .ro, 0, 0⟩
def CCH_XLATE_OUT_SUBCH : Fld := ⟨0x20058, 5, 1, .ro, 0, 0⟩
def CCH_XLATE_OUT_BG : Fld := ⟨0x20058, 6, 3, .ro, 0, 0⟩
def CCH_XLATE_OUT_BANK : Fld := ⟨0x20058, 9, 2, .ro, 0, 0⟩
def CCH_XLATE_OUT_ROW : Fld := ⟨0x20058, 11, 17, .ro, 0, 0⟩
def CCH_XLATE_OUT_VALID : Fld := ⟨0x20058, 31, 1, .ro, 0, 0⟩
def CCH_RANK_STATE (n : Nat) : Fld := ⟨0x20100 + 0x4 * n, 0, 3, .ro, 0, 0⟩
def CCH_RANK_SET (n : Nat) : Fld := ⟨0x20100 + 0x4 * n, 3, 2, .ro, 0, 0⟩
def CCH_RANK_MEMBER (n : Nat) : Fld := ⟨0x20100 + 0x4 * n, 5, 3, .ro, 0, 0⟩
def CCH_RANK_DEVFLAG (n : Nat) : Fld := ⟨0x20100 + 0x4 * n, 8, 1, .ro, 0, 0⟩
def CCH_RANK_CE_WIN (n : Nat) : Fld := ⟨0x20100 + 0x4 * n, 16, 16, .ro, 0, 0⟩
def LDG_STATUS_ZONE : Fld := ⟨0x30000, 0, 2, .ro, 2, 0⟩
def LDG_STATUS_DEFICIT : Fld := ⟨0x30000, 2, 1, .ro, 0, 0⟩
def LDG_STATUS_STALE : Fld := ⟨0x30000, 3, 1, .ro, 0, 0⟩
def LDG_STATUS_NOVAULT : Fld := ⟨0x30000, 4, 1, .ro, 0, 0⟩
def LDG_STATUS_OCHRE_SEEN : Fld := ⟨0x30000, 5, 1, .w1c, 0, 0⟩
def LDG_STATUS_UMBER_SEEN : Fld := ⟨0x30000, 6, 1, .w1c, 0, 0⟩
def LDG_STATUS_DEFICIT_SEEN : Fld := ⟨0x30000, 7, 1, .w1c, 0, 0⟩
def LDG_STATUS_FMODS : Fld := ⟨0x30000, 8, 3, .ro, 0, 0⟩
def LDG_STATUS_KSET3 : Fld := ⟨0x30000, 11, 1, .ro, 0, 0⟩
def LDG_CTRL_UMBER_IRQ : Fld := ⟨0x30004, 0, 1, .rw, 1, 0⟩
def LDG_CTRL_OCHRE_IRQ : Fld := ⟨0x30004, 1, 1, .rw, 0, 0⟩
def LDG_CTRL_DEFICIT_IRQ : Fld := ⟨0x30004, 2, 1, .rw, 1, 0⟩
def LDG_CTRL_REH_AUTO : Fld := ⟨0x30004, 3, 1, .rw, 1, 0⟩
def LDG_CTRL_TRICKLE_WHITE : Fld := ⟨0x30004, 8, 8, .rw, 8, 0⟩
def LDG_USABLE_MJ : Fld := ⟨0x30008, 0, 32, .ro, 0, 0⟩
def LDG_COMMIT_MJ : Fld := ⟨0x3000C, 0, 32, .ro, 0, 0⟩
def LDG_MARGIN_MJ : Fld := ⟨0x30010, 0, 32, .ro, 0, 0⟩
def LDG_DEFICIT_MJ : Fld := ⟨0x30014, 0, 32, .ro, 0, 0⟩
def LDG_BRIM_MJ : Fld := ⟨0x30018, 0, 32, .ro, 0, 0⟩
def LDG_PART_MJ (n : Nat) : Fld := ⟨0x30020 + 0x4 * n, 0, 32, .ro, 0, 0⟩
def LDG_BANK_V_V : Fld := ⟨0x30040, 0, 16, .ro, 0, 0⟩
def LDG_BANK_V_VE : Fld := ⟨0x30040, 16, 16, .ro, 0, 0⟩
def LDG_BANK_C_VALUE : Fld := ⟨0x30044, 0, 32, .ro, 0, 0⟩
def LDG_BANK_ESR_VALUE : Fld := ⟨0x30048, 0, 32, .ro, 0, 0⟩
def LDG_HEALTH_H : Fld := ⟨0x3004C, 0, 16, .ro, 0, 0⟩
def LDG_HEALTH_SOURCE : Fld := ⟨0x3004C, 16, 1, .ro, 0, 0⟩
def LDG_HEALTH_AGE_HOURS : Fld := ⟨0x3004C, 20, 12, .ro, 0, 0⟩
def LDG_CRED_CREDIT (n : Nat) : Fld := ⟨0x30050 + 0x4 * n, 0, 13, .ro, 0, 0⟩
def LDG_CRED_DEBT (n : Nat) : Fld := ⟨0x30050 + 0x4 * n, 16, 13, .ro, 0, 0⟩
def LDG_CEIL_CEIL (n : Nat) : Fld := ⟨0x30060 + 0x4 * n, 0, 13, .rw, 0, 0⟩
def LDG_K_KUSE (n : Nat) : Fld := ⟨0x30070 + 0x4 * n, 0, 16, .ro, 0, 0⟩
def LDG_K_KCAL (n : Nat) : Fld := ⟨0x30070 + 0x4 * n, 16, 16, .ro, 0, 0⟩
def LDG_REH_GO : Fld := ⟨0x30090, 0, 1, .wo, 0, 0⟩
def LDG_REH_BUSY : Fld := ⟨0x30090, 1, 1, .ro, 0, 0⟩
def LDG_REH_CLASS : Fld := ⟨0x30090, 2, 2, .ro, 0, 0⟩
def LDG_REH_RESULT : Fld := ⟨0x30090, 4, 2, .ro, 0, 0⟩
def LDG_REH_HOURS : Fld := ⟨0x30090, 16, 16, .rw, 0xA8, 0⟩
def LDG_BANKREL_MOD : Fld := ⟨0x30094, 0, 2, .rw, 0, 0⟩
def LDG_BANKREL_GO : Fld := ⟨0x30094, 2, 1, .wo, 0, 0⟩
def LDG_BANKREL_CANCEL : Fld := ⟨0x30094, 3, 1, .wo, 0, 0⟩
def LDG_BANKREL_PENDING : Fld := ⟨0x30094, 4, 4, .ro, 0, 0⟩
def LDG_BANKREL_RELEASED : Fld := ⟨0x30094, 8, 4, .ro, 0, 0⟩
def LDG_BANKREL_PRESENT : Fld := ⟨0x30094, 12, 4, .ro, 0, 0⟩
def LDG_BANKREL_COUNTED : Fld := ⟨0x30094, 16, 4, .ro, 0, 0⟩
def LDG_BANKREL_JOINED : Fld := ⟨0x30094, 20, 4, .ro, 0, 0⟩
def CTL_STATUS_MODE : Fld := ⟨0x40000, 0, 3, .ro, 0, 0⟩
def CTL_STATUS_DEAD : Fld := ⟨0x40000, 3, 1, .ro, 0, 0⟩
def CTL_STATUS_FMT : Fld := ⟨0x40000, 4, 1, .ro, 0, 0⟩
def CTL_STATUS_PARALLEL : Fld := ⟨0x40000, 5, 1, .ro, 0, 0⟩
def CTL_STATUS_LIMITER : Fld := ⟨0x40000, 6, 3, .ro, 0, 0⟩
def CTL_STATUS_FAULT : Fld := ⟨0x40000, 9, 1, .w1c, 0, 0⟩
def CTL_STATUS_BF_REFUSED : Fld := ⟨0x40000, 10, 1, .w1c, 0, 0⟩
def CTL_STATUS_HT_DONE : Fld := ⟨0x40000, 11, 1, .w1c, 0, 0⟩
def CTL_STATUS_PHASE_ON : Fld := ⟨0x40000, 12, 4, .ro, 0, 0⟩
def CTL_CTRL_CHG_EN : Fld := ⟨0x40004, 0, 1, .rw, 1, 0⟩
def CTL_CTRL_BF_EN : Fld := ⟨0x40004, 1, 1, .rw, 1, 0⟩
def CTL_CTRL_FAULT_IRQ : Fld := ⟨0x40004, 2, 1, .rw, 1, 0⟩
def CTL_CTRL_HT_IRQ : Fld := ⟨0x40004, 3, 1, .rw, 0, 0⟩
def CTL_CTRL_SPERIOD : Fld := ⟨0x40004, 8, 2, .ro, 1, 0⟩
def CTL_SET_VBUS_TARGET : Fld := ⟨0x40008, 0, 16, .rw, 0, 0⟩
def CTL_SET_VBUS_NOW : Fld := ⟨0x40008, 16, 16, .ro, 0, 0⟩
def CTL_SET_VCHG_TARGET : Fld := ⟨0x4000C, 0, 16, .rw, 0, 0⟩
def CTL_SET_VCHG_NOW : Fld := ⟨0x4000C, 16, 16, .ro, 0, 0⟩
def CTL_SET_IBANK_CHG : Fld := ⟨0x40010, 0, 16, .rw, 0, 0⟩
def CTL_SET_IBANK_DIS : Fld := ⟨0x40010, 16, 16, .rw, 0, 0⟩
def CTL_REF_REF : Fld := ⟨0x40014, 0, 16, .ro, 0, 0⟩
def CTL_REF_HB : Fld := ⟨0x40014, 16, 16, .ro, 0, 0⟩
def CTL_MEAS_VALUE (n : Nat) : Fld := ⟨0x40020 + 0x4 * n, 0, 32, .ro, 0, 0⟩
def CTL_FAULT_PH_TRIP : Fld := ⟨0x40040, 0, 1, .w1c, 0, 0⟩
def CTL_FAULT_BUS_OV : Fld := ⟨0x40040, 1, 1, .w1c, 0, 0⟩
def CTL_FAULT_BANK_OV : Fld := ⟨0x40040, 2, 1, .w1c, 0, 0⟩
def CTL_FAULT_SENSE_RANGE : Fld := ⟨0x40040, 3, 1, .w1c, 0, 0⟩
def CTL_FAULT_BF_OVF : Fld := ⟨0x40040, 4, 1, .w1c, 0, 0⟩
def CTL_FAULT_SHOOT : Fld := ⟨0x40040, 5, 1, .w1c, 0, 0⟩
def CTL_FAULT_PHASES_TRIPPED : Fld := ⟨0x40040, 8, 4, .ro, 0, 0⟩
def CTL_FAULT_COUNT : Fld := ⟨0x40040, 16, 16, .ro, 0, 0⟩
def CTL_HT_CTRL_GO : Fld := ⟨0x40044, 0, 1, .wo, 0, 0⟩
def CTL_HT_CTRL_ABORT : Fld := ⟨0x40044, 1, 1, .wo, 0, 0⟩
def CTL_HT_CTRL_HOURS : Fld := ⟨0x40044, 16, 16, .rw, 0x18, 0⟩
def CTL_HT_STATUS_BUSY : Fld := ⟨0x40048, 0, 1, .ro, 0, 0⟩
def CTL_HT_STATUS_RESULT : Fld := ⟨0x40048, 1, 3, .ro, 0, 0⟩
def CTL_HT_STATUS_MODS : Fld := ⟨0x40048, 4, 4, .ro, 0, 0⟩
def CTL_HT_STATUS_STEP : Fld := ⟨0x40048, 8, 3, .ro, 0, 0⟩
def CTL_HT_C_VALUE : Fld := ⟨0x4004C, 0, 32, .ro, 0, 0⟩
def CTL_HT_ESR_VALUE : Fld := ⟨0x40050, 0, 32, .ro, 0, 0⟩
def CTL_BF_FAILS : Fld := ⟨0x40054, 0, 4, .ro, 0, 0⟩
def CTL_BF_LAST : Fld := ⟨0x40054, 4, 2, .ro, 0, 0⟩
def CTL_BF_RETRY : Fld := ⟨0x40054, 8, 1, .wo, 0, 0⟩
def CTL_EQ_MOD : Fld := ⟨0x40058, 0, 2, .rw, 0, 0⟩
def CTL_EQ_GO : Fld := ⟨0x40058, 2, 1, .wo, 0, 0⟩
def CTL_EQ_BUSY : Fld := ⟨0x40058, 3, 1, .ro, 0, 0⟩
def CTL_EQ_DONE : Fld := ⟨0x40058, 4, 1, .w1c, 0, 0⟩
def CTL_EQ_FAIL : Fld := ⟨0x40058, 5, 1, .w1c, 0, 0⟩
def DRN_STATUS_PASS : Fld := ⟨0x50000, 0, 4, .ro, 0, 0⟩
def DRN_STATUS_PD_BEGUN : Fld := ⟨0x50000, 4, 1, .ro, 0, 0⟩
def DRN_STATUS_MWIN : Fld := ⟨0x50000, 5, 1, .ro, 0, 0⟩
def DRN_STATUS_PARTNER_LOST : Fld := ⟨0x50000, 6, 1, .ro, 0, 0⟩
def DRN_STATUS_SHORT : Fld := ⟨0x50000, 7, 1, .ro, 0, 0⟩
def DRN_STATUS_DEGRADED : Fld := ⟨0x50000, 8, 1, .ro, 0, 0⟩
def DRN_STATUS_RIDE : Fld := ⟨0x50000, 9, 1, .w1c, 0, 0⟩
def DRN_STATUS_WARM : Fld := ⟨0x50000, 10, 1, .w1c, 0, 0⟩
def DRN_CTRL_DIMM_OFF : Fld := ⟨0x50004, 0, 1, .rw, 1, 0⟩
def DRN_CTRL_WIDTH : Fld := ⟨0x50004, 1, 4, .rw, 2, 0⟩
def DRN_CTRL_D_EN : Fld := ⟨0x50004, 5, 1, .rw, 1, 0⟩
def DRN_CTRL_GRACE_IRQ : Fld := ⟨0x50004, 6, 1, .rw, 1, 0⟩
def DRN_CTRL_DRAIN_IRQ : Fld := ⟨0x50004, 7, 1, .rw, 1, 0⟩
def DRN_CTRL_CROWN_IRQ : Fld := ⟨0x50004, 8, 1, .rw, 0, 0⟩
def DRN_INMON_WARN : Fld := ⟨0x50008, 0, 10, .ro, 0x300, 0⟩
def DRN_INMON_HYST : Fld := ⟨0x50008, 10, 6, .ro, 0x10, 0⟩
def DRN_INMON_COLLAPSE : Fld := ⟨0x50008, 16, 10, .ro, 0x280, 0⟩
def DRN_INMON_DEGLITCH : Fld := ⟨0x50008, 26, 3, .ro, 2, 0⟩
def DRN_GRACE_BEATS : Fld := ⟨0x5000C, 0, 15, .rw, 0x7D0, 0⟩
def DRN_MRX_BEATS : Fld := ⟨0x50010, 0, 16, .rw, 0x3E8, 0⟩
def DRN_PLAN_TILES : Fld := ⟨0x50014, 0, 7, .ro, 0, 0⟩
def DRN_PLAN_EST_MS : Fld := ⟨0x50014, 16, 16, .ro, 0, 0⟩
def DRN_DROP_GRANULES : Fld := ⟨0x50018, 0, 28, .ro, 0, 0⟩
def DRN_UNSAVED_GRANULES : Fld := ⟨0x5001C, 0, 28, .ro, 0, 0⟩
def DRN_TRIP_LO_BEAT : Fld := ⟨0x50020, 0, 32, .ro, 0, 0⟩
def DRN_TRIP_HI_BEAT : Fld := ⟨0x50024, 0, 32, .ro, 0, 0⟩
def VLT_STATUS_READY : Fld := ⟨0x60000, 0, 1, .ro, 0, 0⟩
def VLT_STATUS_DEGRADED : Fld := ⟨0x60000, 1, 1, .ro, 0, 0⟩
def VLT_STATUS_RESTRIPE : Fld := ⟨0x60000, 2, 1, .ro, 0, 0⟩
def VLT_STATUS_SPACE : Fld := ⟨0x60000, 3, 1, .ro, 0, 0⟩
def VLT_STATUS_CKPT_BUSY : Fld := ⟨0x60000, 4, 1, .ro, 0, 0⟩
def VLT_STATUS_MODFAIL : Fld := ⟨0x60000, 5, 1, .w1c, 0, 0⟩
def VLT_STATUS_UNRECOV : Fld := ⟨0x60000, 6, 1, .w1c, 0, 0⟩
def VLT_STATUS_BLANK : Fld := ⟨0x60000, 7, 1, .ro, 0, 0⟩
def VLT_CTRL_RR_THR : Fld := ⟨0x60004, 0, 8, .rw, 0x30, 0⟩
def VLT_CTRL_FULL_EN : Fld := ⟨0x60004, 8, 1, .rw, 1, 0⟩
def VLT_CTRL_MOD_IRQ : Fld := ⟨0x60004, 10, 1, .rw, 1, 0⟩
def VLT_CTRL_UNREC_IRQ : Fld := ⟨0x60004, 11, 1, .rw, 1, 0⟩
def VLT_GEOM_PLANES : Fld := ⟨0x60008, 0, 3, .ro, 0, 0⟩
def VLT_GEOM_TARGETS : Fld := ⟨0x60008, 3, 4, .ro, 0, 0⟩
def VLT_GEOM_PAGES : Fld := ⟨0x60008, 8, 13, .ro, 0, 0⟩
def VLT_GEOM_CROWN_BLOCKS : Fld := ⟨0x60008, 21, 4, .ro, 0, 0⟩
def VLT_BLOCKS_BLOCKS : Fld := ⟨0x6000C, 0, 15, .ro, 0, 0⟩
def VLT_MODS_PRESENT : Fld := ⟨0x60010, 0, 4, .ro, 0, 0⟩
def VLT_MODS_COUNTED : Fld := ⟨0x60010, 4, 4, .ro, 0, 0⟩
def VLT_MODS_FAILED : Fld := ⟨0x60010, 8, 4, .ro, 0, 0⟩
def VLT_MODS_RELEASED : Fld := ⟨0x60010, 12, 4, .ro, 0, 0⟩
def VLT_MODS_PENDING : Fld := ⟨0x60010, 16, 4, .ro, 0, 0⟩
def VLT_MODCMD_MOD : Fld := ⟨0x60014, 0, 2, .rw, 0, 0⟩
def VLT_MODCMD_RELEASE : Fld := ⟨0x60014, 2, 1, .wo, 0, 0⟩
def VLT_MODCMD_ADD : Fld := ⟨0x60014, 3, 1, .wo, 0, 0⟩
def VLT_MODCMD_CANCEL : Fld := ⟨0x60014, 4, 1, .wo, 0, 0⟩
def VLT_EPOCH_LO_EPOCH : Fld := ⟨0x60018, 0, 32, .ro, 0, 0⟩
def VLT_EPOCH_HI_EPOCH : Fld := ⟨0x6001C, 0, 32, .ro, 0, 0⟩
def VLT_BSEQ_LO_BSEQ : Fld := ⟨0x60020, 0, 32, .ro, 0, 0⟩
def VLT_BSEQ_HI_BSEQ : Fld := ⟨0x60024, 0, 32, .ro, 0, 0⟩
def VLT_FREE_FREE : Fld := ⟨0x60028, 0, 16, .ro, 0, 0⟩
def VLT_FREE_RESV : Fld := ⟨0x60028, 16, 16, .ro, 0, 0⟩
def VLT_CKPT_MIB : Fld := ⟨0x6002C, 0, 16, .rw, 0x1000, 0⟩
def VLT_CKPT_SEC : Fld := ⟨0x6002C, 16, 16, .rw, 0x258, 0⟩
def VLT_FULL_LOW : Fld := ⟨0x60030, 0, 16, .rw, 0x10, 0⟩
def VLT_FULL_BADMAX : Fld := ⟨0x60030, 16, 16, .rw, 0x40, 0⟩
def VLT_ERRCNT_RETRIES : Fld := ⟨0x60034, 0, 16, .rc, 0, 0⟩
def VLT_ERRCNT_REBUILDS : Fld := ⟨0x60034, 16, 16, .rc, 0, 0⟩
def VLT_UNREC_COUNT : Fld := ⟨0x60038, 0, 32, .rc, 0, 0⟩
def VLT_FORMAT_KEY : Fld := ⟨0x6003C, 0, 16, .wo, 0, 0⟩
def VLT_FORMAT_GO : Fld := ⟨0x6003C, 31, 1, .wo, 0, 0⟩
def VLT_RST_STATUS_KIND : Fld := ⟨0x60040, 0, 2, .ro, 0, 0⟩
def VLT_RST_STATUS_RESULT : Fld := ⟨0x60040, 2, 3, .ro, 0, 0⟩
def VLT_RST_STATUS_LOST_TAIL : Fld := ⟨0x60040, 5, 1, .ro, 0, 0⟩
def VLT_RST_STATUS_WARM_REFUSED : Fld := ⟨0x60040, 6, 1, .ro, 0, 0⟩
def VLT_RST_STATUS_CFLAGS : Fld := ⟨0x60040, 8, 6, .ro, 0, 0⟩
def VLT_RST_STATUS_PCT : Fld := ⟨0x60040, 16, 7, .ro, 0, 0⟩
def VLT_RST_EPOCH_LO_EPOCH : Fld := ⟨0x60044, 0, 32, .ro, 0, 0⟩
def VLT_RST_EPOCH_HI_EPOCH : Fld := ⟨0x60048, 0, 32, .ro, 0, 0⟩
def VLT_RST_NRANGE_COUNT : Fld := ⟨0x6004C, 0, 23, .ro, 0, 0⟩
def VLT_RST_RIDX_INDEX : Fld := ⟨0x60050, 0, 23, .rw, 0, 0⟩
def VLT_RST_RFIRST_LO_GRANULE : Fld := ⟨0x60054, 0, 32, .ro, 0, 0⟩
def VLT_RST_RFIRST_HI_GRANULE : Fld := ⟨0x60058, 0, 32, .ro, 0, 0⟩
def VLT_RST_RCOUNT_COUNT : Fld := ⟨0x6005C, 0, 32, .ro, 0, 0⟩
def VLT_RST_RINFO_CLASS : Fld := ⟨0x60060, 0, 3, .ro, 0, 0⟩
def VLT_RST_RINFO_KIND : Fld := ⟨0x60060, 3, 2, .ro, 0, 0⟩
def VLT_RST_RINFO_VALID : Fld := ⟨0x60060, 31, 1, .ro, 0, 0⟩
def VLT_RST_FETCH_FETCHES : Fld := ⟨0x60064, 0, 16, .rc, 0, 0⟩
def VLT_RST_FETCH_FAILED : Fld := ⟨0x60064, 16, 16, .rc, 0, 0⟩
def VLT_RST_CMD_KEY : Fld := ⟨0x60068, 0, 16, .wo, 0, 0⟩
def VLT_RST_CMD_EMPTY : Fld := ⟨0x60068, 31, 1, .wo, 0, 0⟩
def MLK_STATUS_LSTATE : Fld := ⟨0x70000, 0, 3, .ro, 0, 0⟩
def MLK_STATUS_ATT : Fld := ⟨0x70000, 3, 3, .ro, 0, 0⟩
def MLK_STATUS_WIDTH : Fld := ⟨0x70000, 6, 2, .ro, 0, 0⟩
def MLK_STATUS_RECOV : Fld := ⟨0x70000, 8, 1, .ro, 0, 0⟩
def MLK_STATUS_REVERSED : Fld := ⟨0x70000, 9, 1, .ro, 0, 0⟩
def MLK_STATUS_LINKDOWN : Fld := ⟨0x70000, 10, 1, .w1c, 0, 0⟩
def MLK_STATUS_DEGRADED : Fld := ⟨0x70000, 11, 1, .w1c, 0, 0⟩
def MLK_STATUS_PFAULT : Fld := ⟨0x70000, 12, 1, .w1c, 0, 0⟩
def MLK_CTRL_EN : Fld := ⟨0x70004, 0, 1, .rw, 1, 0⟩
def MLK_CTRL_DOWN_IRQ : Fld := ⟨0x70004, 1, 1, .rw, 1, 0⟩
def MLK_CTRL_DEGR_IRQ : Fld := ⟨0x70004, 2, 1, .rw, 1, 0⟩
def MLK_CTRL_REPLAY_BEATS : Fld := ⟨0x70004, 4, 4, .rw, 2, 0⟩
def MLK_CTRL_REPLAY_MAX : Fld := ⟨0x70004, 8, 4, .rw, 4, 0⟩
def MLK_CTRL_RETRAIN_MAX : Fld := ⟨0x70004, 12, 4, .rw, 3, 0⟩
def MLK_CTRL_LANE_THR : Fld := ⟨0x70004, 16, 16, .rw, 0x2710, 0⟩
def MLK_CMD_RETRAIN : Fld := ⟨0x70008, 0, 1, .wo, 0, 0⟩
def MLK_CMD_INJ_CRC : Fld := ⟨0x70008, 1, 1, .wo, 0, 0⟩
def MLK_CMD_INJ_LANE : Fld := ⟨0x70008, 2, 1, .wo, 0, 0⟩
def MLK_CMD_LANE : Fld := ⟨0x70008, 4, 4, .wo, 0, 0⟩
def MLK_CMD_INJ_SYM : Fld := ⟨0x70008, 8, 6, .wo, 0, 0⟩
def MLK_SEQ_TXNEXT : Fld := ⟨0x7000C, 0, 16, .ro, 0, 0⟩
def MLK_SEQ_RXEXPECT : Fld := ⟨0x7000C, 16, 16, .ro, 0, 0⟩
def MLK_FLOW_UNACKED : Fld := ⟨0x70010, 0, 10, .ro, 0, 0⟩
def MLK_FLOW_CREDIT : Fld := ⟨0x70010, 16, 9, .ro, 0, 0⟩
def MLK_CW_CORR_COUNT : Fld := ⟨0x70014, 0, 32, .rc, 0, 0⟩
def MLK_CW_UNCORR_COUNT : Fld := ⟨0x70018, 0, 32, .rc, 0, 0⟩
def MLK_ERRCNT_CRC : Fld := ⟨0x7001C, 0, 16, .rc, 0, 0⟩
def MLK_ERRCNT_PROTO : Fld := ⟨0x7001C, 16, 16, .rc, 0, 0⟩
def MLK_RPLCNT_REPLAYS : Fld := ⟨0x70020, 0, 16, .rc, 0, 0⟩
def MLK_RPLCNT_NAK_TX : Fld := ⟨0x70020, 16, 16, .rc, 0, 0⟩
def MLK_TRNCNT_RETRAINS : Fld := ⟨0x70024, 0, 8, .rc, 0, 0⟩
def MLK_TRNCNT_DOWNS : Fld := ⟨0x70024, 8, 8, .rc, 0, 0⟩
def MLK_LANE_CORR (n : Nat) : Fld := ⟨0x70040 + 0x4 * n, 0, 24, .rc, 0, 0⟩
def MLK_LANE_POL (n : Nat) : Fld := ⟨0x70040 + 0x4 * n, 24, 1, .ro, 0, 0⟩
def MLK_LANE_LOCK (n : Nat) : Fld := ⟨0x70040 + 0x4 * n, 25, 1, .ro, 0, 0⟩
def MLK_LANE_BAD (n : Nat) : Fld := ⟨0x70040 + 0x4 * n, 26, 1, .ro, 0, 0⟩
def MTX_STATUS_SESSION : Fld := ⟨0x80000, 0, 2, .ro, 0, 0⟩
def MTX_STATUS_SENDSYNC : Fld := ⟨0x80000, 2, 2, .ro, 0, 0⟩
def MTX_STATUS_SYNCING : Fld := ⟨0x80000, 4, 1, .ro, 0, 0⟩
def MTX_STATUS_GAP : Fld := ⟨0x80000, 5, 1, .ro, 0, 0⟩
def MTX_STATUS_QUAR : Fld := ⟨0x80000, 6, 1, .ro, 0, 0⟩
def MTX_STATUS_NOKEY : Fld := ⟨0x80000, 7, 1, .ro, 0, 0⟩
def MTX_STATUS_HBLOST : Fld := ⟨0x80000, 8, 1, .ro, 0, 0⟩
def MTX_STATUS_ALIVE_IN : Fld := ⟨0x80000, 9, 1, .ro, 0, 0⟩
def MTX_STATUS_LOSTOVF : Fld := ⟨0x80000, 10, 1, .ro, 0, 0⟩
def MTX_STATUS_PEER_ADOPTED : Fld := ⟨0x80000, 11, 1, .w1c, 0, 0⟩
def MTX_STATUS_FAULTY : Fld := ⟨0x80000, 12, 1, .w1c, 0, 0⟩
def MTX_STATUS_MAPERR : Fld := ⟨0x80000, 13, 1, .w1c, 0, 0⟩
def MTX_CTRL_EN : Fld := ⟨0x80004, 0, 1, .rw, 1, 0⟩
def MTX_CTRL_SESS_IRQ : Fld := ⟨0x80004, 1, 1, .rw, 1, 0⟩
def MTX_CTRL_FAULT_IRQ : Fld := ⟨0x80004, 2, 1, .rw, 1, 0⟩
def MTX_CTRL_ADOPT_IRQ : Fld := ⟨0x80004, 3, 1, .rw, 1, 0⟩
def MTX_CTRL_HB_BEATS : Fld := ⟨0x80004, 8, 8, .rw, 0xA, 0⟩
def MTX_CTRL_HB_LOSS : Fld := ⟨0x80004, 16, 16, .rw, 0x64, 0⟩
def MTX_NEXTSEQ_LO_VALUE : Fld := ⟨0x80008, 0, 32, .ro, 0, 0⟩
def MTX_NEXTSEQ_HI_VALUE : Fld := ⟨0x8000C, 0, 32, .ro, 0, 0⟩
def MTX_ACKED_LO_VALUE : Fld := ⟨0x80010, 0, 32, .ro, 0, 0⟩
def MTX_ACKED_HI_VALUE : Fld := ⟨0x80014, 0, 32, .ro, 0, 0⟩
def MTX_PEERTHRU_LO_VALUE : Fld := ⟨0x80018, 0, 32, .ro, 0, 0⟩
def MTX_PEERTHRU_HI_VALUE : Fld := ⟨0x8001C, 0, 32, .ro, 0, 0⟩
def MTX_MGEN_SEND_LO_VALUE : Fld := ⟨0x80020, 0, 32, .ro, 0, 0⟩
def MTX_MGEN_SEND_HI_VALUE : Fld := ⟨0x80024, 0, 32, .ro, 0, 0⟩
def MTX_MGEN_HELD_LO_VALUE : Fld := ⟨0x80028, 0, 32, .ro, 0, 0⟩
def MTX_MGEN_HELD_HI_VALUE : Fld := ⟨0x8002C, 0, 32, .ro, 0, 0⟩
def MTX_PEERID_LO_VALUE : Fld := ⟨0x80030, 0, 32, .ro, 0, 0⟩
def MTX_PEERID_HI_VALUE : Fld := ⟨0x80034, 0, 32, .ro, 0, 0⟩
def MTX_LOST_OUTSTANDING : Fld := ⟨0x80038, 0, 14, .ro, 0, 0⟩
def MTX_LOST_LOSTG : Fld := ⟨0x80038, 16, 14, .ro, 0, 0⟩
def MTX_SYNCPROG_PCT : Fld := ⟨0x8003C, 0, 7, .ro, 0, 0⟩
def MTX_SYNCPROG_CLASS : Fld := ⟨0x8003C, 8, 2, .ro, 0, 0⟩
def MTX_FAULTCNT_LENGTH : Fld := ⟨0x80040, 0, 8, .rc, 0, 0⟩
def MTX_FAULTCNT_PROTO : Fld := ⟨0x80040, 8, 8, .rc, 0, 0⟩
def MTX_FAULTCNT_DUP : Fld := ⟨0x80040, 16, 8, .rc, 0, 0⟩
def MTX_FAULTCNT_BAR2 : Fld := ⟨0x80040, 24, 8, .rc, 0, 0⟩
def MTX_QUAR_LEVEL : Fld := ⟨0x80044, 0, 3, .ro, 0, 0⟩
def MTX_QUAR_REMAIN_S : Fld := ⟨0x80044, 16, 16, .ro, 0, 0⟩
def MTX_ADOPT_ACTIVE : Fld := ⟨0x80048, 0, 1, .ro, 0, 0⟩
def MTX_ADOPT_INCOMPLETE : Fld := ⟨0x80048, 1, 1, .ro, 0, 0⟩
def MTX_ADOPT_SUSPECT : Fld := ⟨0x80048, 2, 1, .ro, 0, 0⟩
def MTX_ADOPT_HZVALID : Fld := ⟨0x80048, 3, 1, .ro, 0, 0⟩
def MTX_ADOPT_CMD_KEY : Fld := ⟨0x8004C, 0, 16, .wo, 0, 0⟩
def MTX_ADOPT_CMD_RELEASE : Fld := ⟨0x8004C, 31, 1, .wo, 0, 0⟩
def MTX_APHZ_A_LO_VALUE : Fld := ⟨0x80050, 0, 32, .ro, 0, 0⟩
def MTX_APHZ_A_HI_VALUE : Fld := ⟨0x80054, 0, 32, .ro, 0, 0⟩
def MTX_APHZ_B_LO_VALUE : Fld := ⟨0x80058, 0, 32, .ro, 0, 0⟩
def MTX_APHZ_B_HI_VALUE : Fld := ⟨0x8005C, 0, 32, .ro, 0, 0⟩
def MTX_PEERSTATE_STATE : Fld := ⟨0x80060, 0, 3, .ro, 0, 0⟩
def MTX_PEERSTATE_ZONE : Fld := ⟨0x80060, 4, 2, .ro, 0, 0⟩
def MTX_PEERSTATE_FLAGS : Fld := ⟨0x80060, 6, 4, .ro, 0, 0⟩
def MTX_PEERSTATE_AGE : Fld := ⟨0x80060, 16, 16, .ro, 0, 0⟩
def MTX_CMD_END : Fld := ⟨0x80064, 0, 1, .wo, 0, 0⟩
def MTX_CMD_CLRQ : Fld := ⟨0x80064, 1, 1, .wo, 0, 0⟩
def MTX_CMD_RESYNC : Fld := ⟨0x80064, 2, 1, .wo, 0, 0⟩
def DSP_STATUS_INSERV : Fld := ⟨0x90000, 0, 7, .ro, 0, 0⟩
def DSP_STATUS_OUT : Fld := ⟨0x90000, 8, 7, .ro, 0, 0⟩
def DSP_STATUS_ROLLING : Fld := ⟨0x90000, 16, 1, .ro, 0, 0⟩
def DSP_STATUS_ROLL_PAUSED : Fld := ⟨0x90000, 17, 1, .ro, 0, 0⟩
def DSP_CTRL_STEAL_EN : Fld := ⟨0x90004, 0, 1, .rw, 1, 0⟩
def DSP_CTRL_TMO_IRQ : Fld := ⟨0x90004, 1, 1, .rw, 0, 0⟩
def DSP_CTRL_QUIESCE_BEATS : Fld := ⟨0x90004, 16, 16, .rw, 0x2710, 0⟩
def DSP_ROLL_GO : Fld := ⟨0x90008, 0, 1, .wo, 0, 0⟩
def DSP_ROLL_ABORT : Fld := ⟨0x90008, 1, 1, .wo, 0, 0⟩
def DSP_ROLL_MAXOUT : Fld := ⟨0x90008, 8, 5, .rw, 8, 0⟩
def DSP_ROLLST_DONE : Fld := ⟨0x9000C, 0, 7, .ro, 0, 0⟩
def DSP_ROLLST_FTILE : Fld := ⟨0x9000C, 8, 6, .ro, 0, 0⟩
def DSP_ROLLST_RESULT : Fld := ⟨0x9000C, 16, 3, .ro, 0, 0⟩
def DSP_SUB_BYTES (n : Nat) (a : Agent) : Fld := ⟨0x90010 + 0x4 * n, 0, 32, .rw, 0, a.code⟩
def DSP_SUB_GO_TILE : Fld := ⟨0x90030, 0, 6, .wo, 0, 0⟩
def DSP_SUB_GO_GO : Fld := ⟨0x90030, 31, 1, .wo, 0, 0⟩
def DSP_SUB_ST_RESULT (a : Agent) : Fld := ⟨0x90034, 0, 3, .ro, 0, a.code⟩
def DSP_SUB_TID_TID (a : Agent) : Fld := ⟨0x90038, 0, 32, .ro, 0, a.code⟩
def DSP_CPL_TID_TID (a : Agent) : Fld := ⟨0x9003C, 0, 32, .ro, 0, a.code⟩
def DSP_CPL_ST_STATUS (a : Agent) : Fld := ⟨0x90040, 0, 3, .ro, 0, a.code⟩
def DSP_CPL_ST_VALID (a : Agent) : Fld := ⟨0x90040, 3, 1, .ro, 0, a.code⟩
def DSP_CPL_ST_DEPTH (a : Agent) : Fld := ⟨0x90040, 4, 7, .ro, 0, a.code⟩
def DSP_CPL_ST_POP (a : Agent) : Fld := ⟨0x90040, 31, 1, .wo, 0, a.code⟩
def DSP_CANCEL_TID : Fld := ⟨0x90044, 0, 32, .wo, 0, 0⟩
def DSP_STEALCNT_STEALS : Fld := ⟨0x90048, 0, 32, .rc, 0, 0⟩
def DSP_TMOCNT_TIMEOUTS : Fld := ⟨0x9004C, 0, 16, .rc, 0, 0⟩
def DSP_TMOCNT_SUPPRESSED : Fld := ⟨0x9004C, 16, 16, .rc, 0, 0⟩
def DSP_OUT_LO_TILES : Fld := ⟨0x90050, 0, 32, .ro, 0, 0⟩
def DSP_OUT_HI_TILES : Fld := ⟨0x90054, 0, 32, .ro, 0, 0⟩
def SEQ_STATUS_PHASE : Fld := ⟨0xA0000, 0, 3, .ro, 0, 0⟩
def SEQ_STATUS_ABANDONS : Fld := ⟨0xA0000, 3, 2, .ro, 0, 0⟩
def SEQ_STATUS_TABLE : Fld := ⟨0xA0000, 5, 2, .ro, 0, 0⟩
def SEQ_STATUS_CORESTOP : Fld := ⟨0xA0000, 7, 1, .ro, 0, 0⟩
def SEQ_STATUS_RAILPFW : Fld := ⟨0xA0000, 8, 1, .w1c, 0, 0⟩
def SEQ_STATUS_RFAULT : Fld := ⟨0xA0000, 9, 1, .w1c, 0, 0⟩
def SEQ_STATUS_DFAULT : Fld := ⟨0xA0000, 10, 1, .w1c, 0, 0⟩
def SEQ_STATUS_WSAT : Fld := ⟨0xA0000, 11, 1, .w1c, 0, 0⟩
def SEQ_STATUS_BANK_D : Fld := ⟨0xA0000, 12, 1, .ro, 0, 0⟩
def SEQ_STATUS_BANK_S : Fld := ⟨0xA0000, 13, 1, .ro, 0, 0⟩
def SEQ_STATUS_CMDREF : Fld := ⟨0xA0000, 14, 1, .w1c, 0, 0⟩
def SEQ_STATUS_LASTRAIL : Fld := ⟨0xA0000, 16, 6, .ro, 0, 0⟩
def SEQ_CTRL_FAULT_IRQ : Fld := ⟨0xA0004, 0, 1, .rw, 1, 0⟩
def SEQ_CTRL_WARN_IRQ : Fld := ⟨0xA0004, 1, 1, .rw, 0, 0⟩
def SEQ_CTRL_DOM_IRQ : Fld := ⟨0xA0004, 2, 1, .rw, 1, 0⟩
def SEQ_CMD_RAIL : Fld := ⟨0xA0008, 0, 6, .wo, 0, 0⟩
def SEQ_CMD_REPOWER : Fld := ⟨0xA0008, 8, 1, .wo, 0, 0⟩
def SEQ_CMD_ON : Fld := ⟨0xA0008, 9, 1, .wo, 0, 0⟩
def SEQ_CMD_OFF : Fld := ⟨0xA0008, 10, 1, .wo, 0, 0⟩
def SEQ_CMD_WCLR : Fld := ⟨0xA0008, 11, 1, .wo, 0, 0⟩
def SEQ_SCAN_N : Fld := ⟨0xA000C, 0, 7, .ro, 0, 0⟩
def SEQ_SCAN_S : Fld := ⟨0xA000C, 8, 5, .ro, 0, 0⟩
def SEQ_BANKMON_DFLOOR : Fld := ⟨0xA0010, 0, 10, .ro, 0, 0⟩
def SEQ_BANKMON_SFLOOR : Fld := ⟨0xA0010, 10, 10, .ro, 0, 0⟩
def SEQ_BANKMON_HYST : Fld := ⟨0xA0010, 20, 6, .ro, 0, 0⟩
def SEQ_BANKMON_DEGLITCH : Fld := ⟨0xA0010, 26, 3, .ro, 0, 0⟩
def SEQ_DROOP_DROOP_MV : Fld := ⟨0xA0014, 0, 7, .ro, 0x28, 0⟩
def SEQ_RST_ASSERTED : Fld := ⟨0xA0018, 0, 16, .ro, 0xFFFF, 0⟩
def SEQ_RST_STRETCHING : Fld := ⟨0xA0018, 16, 16, .ro, 0, 0⟩
def SEQ_DOMON_DOMAINS (k : Nat) : Fld := ⟨0xA0020 + 0x4 * k, 0, 32, .ro, 0, 0⟩
def SEQ_DOMFAIL_DOMAINS (k : Nat) : Fld := ⟨0xA002C + 0x4 * k, 0, 32, .ro, 0, 0⟩
def SEQ_SNAP_LAST_SLOT : Fld := ⟨0xA0038, 0, 4, .ro, 0, 0⟩
def SEQ_SNAP_LAST_VALID : Fld := ⟨0xA0038, 4, 1, .ro, 0, 0⟩
def SEQ_SNAP_LAST_GEN : Fld := ⟨0xA0038, 16, 16, .ro, 0, 0⟩
def SEQ_SNAP_SEL_SLOT : Fld := ⟨0xA003C, 0, 4, .rw, 0, 0⟩
def SEQ_SNAP_SEL_WORD : Fld := ⟨0xA003C, 8, 8, .rw, 0, 0⟩
def SEQ_SNAP_DATA_DATA : Fld := ⟨0xA0040, 0, 32, .ro, 0, 0⟩
def SEQ_RAIL_STATE (n : Nat) : Fld := ⟨0xA0100 + 0x4 * n, 0, 3, .ro, 0, 0⟩
def SEQ_RAIL_ORDER (n : Nat) : Fld := ⟨0xA0100 + 0x4 * n, 3, 6, .ro, 0, 0⟩
def SEQ_RAIL_WARN (n : Nat) : Fld := ⟨0xA0100 + 0x4 * n, 9, 1, .ro, 0, 0⟩
def SEQ_RAIL_PG (n : Nat) : Fld := ⟨0xA0100 + 0x4 * n, 10, 1, .ro, 0, 0⟩
def SEQ_RAIL_WCNT (n : Nat) : Fld := ⟨0xA0100 + 0x4 * n, 16, 16, .ro, 0, 0⟩
def SEQ_READ_CODE (n : Nat) : Fld := ⟨0xA0200 + 0x4 * n, 0, 12, .ro, 0, 0⟩
def SEQ_READ_LISTED (n : Nat) : Fld := ⟨0xA0200 + 0x4 * n, 12, 1, .ro, 0, 0⟩
def SEQ_DROOPCNT_TRIPS (n : Nat) : Fld := ⟨0xA0300 + 0x4 * n, 0, 16, .rc, 0, 0⟩
def SEQ_DROOPCNT_NOW (n : Nat) : Fld := ⟨0xA0300 + 0x4 * n, 16, 1, .ro, 0, 0⟩
def STI_STATUS_SHADE : Fld := ⟨0xB0000, 0, 3, .ro, 0, 0⟩
def STI_STATUS_SWAP : Fld := ⟨0xB0000, 3, 3, .ro, 0, 0⟩
def STI_STATUS_ARCH_OK : Fld := ⟨0xB0000, 6, 1, .ro, 0, 0⟩
def STI_STATUS_BOOTFALL : Fld := ⟨0xB0000, 7, 1, .w1c, 0, 0⟩
def STI_STATUS_DONE : Fld := ⟨0xB0000, 8, 1, .w1c, 0, 0⟩
def STI_STATUS_REFUSED : Fld := ⟨0xB0000, 9, 1, .w1c, 0, 0⟩
def STI_STATUS_CHANGED : Fld := ⟨0xB0000, 16, 11, .ro, 0, 0⟩
def STI_CTRL_DONE_IRQ : Fld := ⟨0xB0004, 0, 1, .rw, 1, 0⟩
def STI_CTRL_REF_IRQ : Fld := ⟨0xB0004, 1, 1, .rw, 1, 0⟩
def STI_CMD_VALIDATE : Fld := ⟨0xB0008, 0, 1, .wo, 0, 0⟩
def STI_CMD_SWAP : Fld := ⟨0xB0008, 1, 1, .wo, 0, 0⟩
def STI_CMD_ROLLBACK : Fld := ⟨0xB0008, 2, 1, .wo, 0, 0⟩
def STI_CMD_CANCEL : Fld := ⟨0xB0008, 3, 1, .wo, 0, 0⟩
def STI_CMD_KEY : Fld := ⟨0xB0008, 16, 16, .wo, 0, 0⟩
def STI_REASON_CODE : Fld := ⟨0xB000C, 0, 8, .ro, 0, 0⟩
def STI_REASON_SECTION : Fld := ⟨0xB000C, 8, 8, .ro, 0, 0⟩
def STI_REASON_OFFSET : Fld := ⟨0xB000C, 16, 16, .ro, 0, 0⟩
def STI_GEN_ACT_LO_VALUE : Fld := ⟨0xB0010, 0, 32, .ro, 0, 0⟩
def STI_GEN_ACT_HI_VALUE : Fld := ⟨0xB0014, 0, 32, .ro, 0, 0⟩
def STI_GEN_SHD_LO_VALUE : Fld := ⟨0xB0018, 0, 32, .ro, 0, 0⟩
def STI_GEN_SHD_HI_VALUE : Fld := ⟨0xB001C, 0, 32, .ro, 0, 0⟩
def STI_GEN_ARC_LO_VALUE : Fld := ⟨0xB0020, 0, 32, .ro, 0, 0⟩
def STI_GEN_ARC_HI_VALUE : Fld := ⟨0xB0024, 0, 32, .ro, 0, 0⟩
def STI_SWAPBEAT_LO_VALUE : Fld := ⟨0xB0028, 0, 32, .ro, 0, 0⟩
def STI_SWAPBEAT_HI_VALUE : Fld := ⟨0xB002C, 0, 32, .ro, 0, 0⟩
def CFL_STATUS_BUSY : Fld := ⟨0xC0000, 0, 1, .ro, 0, 0⟩
def CFL_STATUS_OWNER : Fld := ⟨0xC0000, 1, 3, .ro, 0, 0⟩
def CFL_STATUS_SCAN : Fld := ⟨0xC0000, 4, 1, .ro, 0, 0⟩
def CFL_STATUS_SECTOR : Fld := ⟨0xC0000, 16, 10, .ro, 0, 0⟩
def CFL_CTRL_COMPAT : Fld := ⟨0xC0004, 0, 1, .rw, 0, 0⟩
def CFL_CTRL_ERR_IRQ : Fld := ⟨0xC0004, 1, 1, .rw, 1, 0⟩
def CFL_RESULT_CODE (a : Agent) : Fld := ⟨0xC0008, 0, 4, .ro, 0, a.code⟩
def CFL_RESULT_BUSY (a : Agent) : Fld := ⟨0xC0008, 4, 1, .ro, 0, a.code⟩
def CFL_RESULT_VALID (a : Agent) : Fld := ⟨0xC0008, 5, 1, .ro, 0, a.code⟩
def CFL_RESULT_SECTOR (a : Agent) : Fld := ⟨0xC0008, 16, 10, .ro, 0, a.code⟩
def CFL_BOOT_BLOCK : Fld := ⟨0xC000C, 0, 1, .ro, 0, 0⟩
def CFL_BOOT_TWIN : Fld := ⟨0xC000C, 1, 1, .ro, 0, 0⟩
def CFL_BOOT_NOSEL : Fld := ⟨0xC000C, 2, 1, .ro, 0, 0⟩
def CFL_BOOT_SELGEN : Fld := ⟨0xC000C, 16, 16, .ro, 0, 0⟩
def CFL_BOOTCMD_BLOCK : Fld := ⟨0xC0010, 0, 1, .wo, 0, 0⟩
def CFL_BOOTCMD_GO : Fld := ⟨0xC0010, 1, 1, .wo, 0, 0⟩
def CFL_BOOTCMD_KEY : Fld := ⟨0xC0010, 16, 16, .wo, 0, 0⟩
def CFL_COMPAT_KEY_VALUE : Fld := ⟨0xC0014, 0, 32, .wo, 0, 0⟩
def CFL_COMPAT_CMD_VALUE : Fld := ⟨0xC0018, 0, 32, .wo, 0, 0⟩
def CFL_COMPAT_ADDR_VALUE : Fld := ⟨0xC001C, 0, 32, .wo, 0, 0⟩
def CFL_COMPAT_DATA_VALUE : Fld := ⟨0xC0020, 0, 32, .wo, 0, 0⟩
def CFL_COMPAT_STAT_CODE : Fld := ⟨0xC0024, 0, 4, .ro, 0xB, 0⟩
def CFL_COMPAT_STAT_ERR : Fld := ⟨0xC0024, 6, 1, .ro, 1, 0⟩
def CFL_COMPAT_STAT_READY : Fld := ⟨0xC0024, 7, 1, .ro, 1, 0⟩
def CFL_XOREAD_COUNT : Fld := ⟨0xC0028, 0, 32, .rc, 0, 0⟩
def CFL_FLAG_FLAGS (k : Nat) : Fld := ⟨0xC0040 + 0x4 * k, 0, 32, .ro, 0, 0⟩
def DGE_STATUS_OWNER : Fld := ⟨0xD0000, 0, 3, .ro, 0, 0⟩
def DGE_STATUS_PRIO : Fld := ⟨0xD0000, 3, 3, .ro, 0, 0⟩
def DGE_STATUS_BUSY : Fld := ⟨0xD0000, 6, 1, .ro, 0, 0⟩
def DGE_STATUS_CTXUSED : Fld := ⟨0xD0000, 8, 4, .ro, 0, 0⟩
def DGE_CTRL_EVICT_IRQ : Fld := ⟨0xD0004, 0, 1, .rw, 1, 0⟩
def DGE_CTRL_KEY_IRQ : Fld := ⟨0xD0004, 1, 1, .rw, 0, 0⟩
def DGE_CMD_START : Fld := ⟨0xD0008, 0, 1, .wo, 0, 0⟩
def DGE_CMD_RESUME : Fld := ⟨0xD0008, 1, 1, .wo, 0, 0⟩
def DGE_CMD_ABORT : Fld := ⟨0xD0008, 2, 1, .wo, 0, 0⟩
def DGE_CMD_ALG : Fld := ⟨0xD0008, 4, 2, .wo, 0, 0⟩
def DGE_CMD_CTX : Fld := ⟨0xD0008, 6, 2, .wo, 0, 0⟩
def DGE_CMD_KEYSLOT : Fld := ⟨0xD0008, 8, 5, .wo, 0, 0⟩
def DGE_LEN_LEN (a : Agent) : Fld := ⟨0xD000C, 0, 32, .rw, 0, a.code⟩
def DGE_DATA_WORD : Fld := ⟨0xD0010, 0, 32, .wo, 0, 0⟩
def DGE_AGENT_STATE (a : Agent) : Fld := ⟨0xD0014, 0, 3, .ro, 0, a.code⟩
def DGE_AGENT_BUSY (a : Agent) : Fld := ⟨0xD0014, 3, 1, .ro, 0, a.code⟩
def DGE_AGENT_STATUS (a : Agent) : Fld := ⟨0xD0014, 4, 4, .ro, 0, a.code⟩
def DGE_AGENT_CTX (a : Agent) : Fld := ⟨0xD0014, 8, 2, .ro, 0, a.code⟩
def DGE_FED_BYTES (a : Agent) : Fld := ⟨0xD0018, 0, 32, .ro, 0, a.code⟩
def DGE_RES_TAG_SEQ : Fld := ⟨0xD001C, 0, 16, .ro, 0, 0⟩
def DGE_RES_TAG_ALG : Fld := ⟨0xD001C, 16, 2, .ro, 0, 0⟩
def DGE_RES_TAG_AGENT : Fld := ⟨0xD001C, 18, 2, .ro, 0, 0⟩
def DGE_RES_DIGEST (n : Nat) : Fld := ⟨0xD0020 + 0x4 * n, 0, 32, .ro, 0, 0⟩
def DGE_CTX_VALID (n : Nat) : Fld := ⟨0xD0050 + 0x4 * n, 0, 1, .ro, 0, 0⟩
def DGE_CTX_KEYED (n : Nat) : Fld := ⟨0xD0050 + 0x4 * n, 1, 1, .ro, 0, 0⟩
def DGE_CTX_AGENT (n : Nat) : Fld := ⟨0xD0050 + 0x4 * n, 2, 3, .ro, 0, 0⟩
def DGE_CTX_PRIO (n : Nat) : Fld := ⟨0xD0050 + 0x4 * n, 5, 3, .ro, 0, 0⟩
def DGE_KEYCMD_OP : Fld := ⟨0xD0060, 0, 3, .wo, 0, 0⟩
def DGE_KEYCMD_SLOT : Fld := ⟨0xD0060, 8, 5, .wo, 0, 0⟩
def DGE_KEYCMD_KEY : Fld := ⟨0xD0060, 16, 16, .wo, 0, 0⟩
def DGE_KEYST_CODE : Fld := ⟨0xD0064, 0, 4, .ro, 0, 0⟩
def DGE_KEYST_BUSY : Fld := ⟨0xD0064, 4, 1, .ro, 0, 0⟩
def DGE_KEYIO_BYTES (n : Nat) : Fld := ⟨0xD0070 + 0x4 * n, 0, 32, .rw, 0, 0⟩
def DGE_SLOT_LOADED (s : Nat) : Fld := ⟨0xD0100 + 0x4 * s, 0, 1, .ro, 0, 0⟩
def DGE_SLOT_LOCKED (s : Nat) : Fld := ⟨0xD0100 + 0x4 * s, 1, 1, .ro, 0, 0⟩
def DGE_SLOT_USE (s : Nat) : Fld := ⟨0xD0100 + 0x4 * s, 2, 3, .ro, 0, 0⟩
def DGE_SLOT_POLICY (s : Nat) : Fld := ⟨0xD0100 + 0x4 * s, 5, 3, .ro, 0, 0⟩
def DGE_SLOT_GEN (s : Nat) : Fld := ⟨0xD0100 + 0x4 * s, 16, 16, .ro, 0, 0⟩
def EVR_STATUS_COUNT : Fld := ⟨0xE0000, 0, 14, .ro, 0, 0⟩
def EVR_STATUS_CLEARED : Fld := ⟨0xE0000, 14, 1, .w1c, 0, 0⟩
def EVR_STATUS_CLRREF : Fld := ⟨0xE0000, 15, 1, .w1c, 0, 0⟩
def EVR_STATUS_COPYABN : Fld := ⟨0xE0000, 16, 1, .w1c, 0, 0⟩
def EVR_STATUS_SEVIRQ : Fld := ⟨0xE0000, 17, 1, .w1c, 0, 0⟩
def EVR_CTRL_IRQ_SEV : Fld := ⟨0xE0004, 0, 2, .rw, 2, 0⟩
def EVR_CTRL_IRQ_EN : Fld := ⟨0xE0004, 2, 1, .rw, 0, 0⟩
def EVR_RPTWIN_BEATS : Fld := ⟨0xE0008, 0, 32, .rw, 0xF4240, 0⟩
def EVR_HEAD_SEQ : Fld := ⟨0xE000C, 0, 32, .ro, 0, 0⟩
def EVR_TAIL_SEQ : Fld := ⟨0xE0010, 0, 32, .ro, 0, 0⟩
def EVR_CLRSEQ_SEQ : Fld := ⟨0xE0014, 0, 32, .ro, 0, 0⟩
def EVR_COPYSEQ_SEQ : Fld := ⟨0xE0018, 0, 32, .ro, 0, 0⟩
def EVR_CURSOR_SEQ (a : Agent) : Fld := ⟨0xE001C, 0, 32, .rw, 0, a.code⟩
def EVR_WSTAT_GEN (a : Agent) : Fld := ⟨0xE0020, 0, 8, .ro, 0, a.code⟩
def EVR_WSTAT_MATCH (a : Agent) : Fld := ⟨0xE0020, 8, 1, .ro, 0, a.code⟩
def EVR_SEVQ_CODE : Fld := ⟨0xE0024, 0, 16, .rw, 0, 0⟩
def EVR_SEVQ_SEV : Fld := ⟨0xE0024, 16, 2, .ro, 0, 0⟩
def EVR_SEVQ_KNOWN : Fld := ⟨0xE0024, 18, 1, .ro, 0, 0⟩
def EVR_WIN_WORD (n : Nat) (a : Agent) : Fld := ⟨0xE0040 + 0x4 * n, 0, 32, .ro, 0, a.code⟩
def EVR_CLR_CMD_CHALLENGE : Fld := ⟨0xE0080, 0, 1, .wo, 0, 0⟩
def EVR_CLR_CMD_CLEAR : Fld := ⟨0xE0080, 1, 1, .wo, 0, 0⟩
def EVR_CLR_CMD_KEY : Fld := ⟨0xE0080, 16, 16, .wo, 0, 0⟩
def EVR_CLR_ST_STATE : Fld := ⟨0xE0084, 0, 3, .ro, 0, 0⟩
def EVR_CLR_ST_AGENT : Fld := ⟨0xE0084, 3, 2, .ro, 0, 0⟩
def EVR_CLR_HEAD_SEQ : Fld := ⟨0xE0088, 0, 32, .ro, 0, 0⟩
def EVR_CHAL_BYTES (n : Nat) : Fld := ⟨0xE00A0 + 0x4 * n, 0, 32, .ro, 0, 0⟩
def EVR_RESP_BYTES (n : Nat) (a : Agent) : Fld := ⟨0xE00C0 + 0x4 * n, 0, 32, .rw, 0, a.code⟩
def STW_STATUS_RUN : Fld := ⟨0xF0000, 0, 2, .ro, 0, 0⟩
def STW_STATUS_BLOCK : Fld := ⟨0xF0000, 2, 1, .ro, 0, 0⟩
def STW_STATUS_UPD : Fld := ⟨0xF0000, 4, 3, .ro, 0, 0⟩
def STW_STATUS_RESTARTS : Fld := ⟨0xF0000, 8, 8, .ro, 0, 0⟩
def STW_CTRL_WDOG_MS : Fld := ⟨0xF0004, 0, 16, .rw, 0x3E8, 0⟩
def STW_CTRL_CONFIRM_S : Fld := ⟨0xF0004, 16, 8, .rw, 0x3C, 0⟩
def STW_CTRL_PLDM_SEV : Fld := ⟨0xF0004, 24, 2, .rw, 1, 0⟩
def STW_CMD_RESTART : Fld := ⟨0xF0008, 0, 1, .wo, 0, 0⟩
def STW_CMD_CONFIRM : Fld := ⟨0xF0008, 1, 1, .wo, 0, 0⟩
def STW_CMD_KICK : Fld := ⟨0xF0008, 2, 1, .wo, 0, 0⟩
def STW_CMD_KEY : Fld := ⟨0xF0008, 16, 16, .wo, 0, 0⟩
def STW_FWVER_LO_VALUE : Fld := ⟨0xF0010, 0, 32, .ro, 0, 0⟩
def STW_FWVER_HI_VALUE : Fld := ⟨0xF0014, 0, 32, .ro, 0, 0⟩
def STW_WALL_BEAT_LO_VALUE : Fld := ⟨0xF0018, 0, 32, .ro, 0, 0⟩
def STW_WALL_BEAT_HI_VALUE : Fld := ⟨0xF001C, 0, 32, .ro, 0, 0⟩
def STW_WALL_SEC_LO_VALUE : Fld := ⟨0xF0020, 0, 32, .ro, 0, 0⟩
def STW_WALL_SEC_HI_VALUE : Fld := ⟨0xF0024, 0, 32, .ro, 0, 0⟩
def STW_TLIM_WARN : Fld := ⟨0xF0028, 0, 8, .rw, 0x64, 0⟩
def STW_TLIM_CRIT : Fld := ⟨0xF0028, 8, 8, .rw, 0x6E, 0⟩
def STW_TLIM_HYST : Fld := ⟨0xF0028, 16, 4, .rw, 3, 0⟩
def STW_TEMP_TEMP (n : Nat) : Fld := ⟨0xF0040 + 0x4 * n, 0, 12, .ro, 0, 0⟩
def STW_TEMP_VALID (n : Nat) : Fld := ⟨0xF0040 + 0x4 * n, 12, 1, .ro, 0, 0⟩
def STW_TEMP_ALARM (n : Nat) : Fld := ⟨0xF0040 + 0x4 * n, 13, 2, .ro, 0, 0⟩
def STW_VMON_MV (n : Nat) : Fld := ⟨0xF0080 + 0x4 * n, 0, 16, .ro, 0, 0⟩
def STW_MBX_CMD_OP : Fld := ⟨0xF0100, 0, 8, .wo, 0, 0⟩
def STW_MBX_STAT_CODE : Fld := ⟨0xF0104, 0, 4, .ro, 0, 0⟩
def STW_MBX_STAT_DONE : Fld := ⟨0xF0104, 4, 1, .ro, 0, 0⟩
def STW_MBX_ARG_ARG (n : Nat) : Fld := ⟨0xF0108 + 0x4 * n, 0, 32, .rw, 0, 0⟩
def STW_MBX_DATA_BYTES (n : Nat) : Fld := ⟨0xF0200 + 0x4 * n, 0, 32, .rw, 0, 0⟩
def TIL_STATUS_STATE (t : Nat) : Fld := ⟨0x100000 + 0x4000 * t, 0, 3, .ro, 0, 0⟩
def TIL_STATUS_POOLS (t : Nat) : Fld := ⟨0x100000 + 0x4000 * t, 4, 4, .ro, 0, 0⟩
def TIL_STATUS_QUEUE (t : Nat) : Fld := ⟨0x100000 + 0x4000 * t, 8, 1, .ro, 0, 0⟩
def TIL_STATUS_BUSY (t : Nat) : Fld := ⟨0x100000 + 0x4000 * t, 16, 5, .ro, 0, 0⟩
def TIL_MCVER_VERSION (t : Nat) : Fld := ⟨0x100004 + 0x4000 * t, 0, 32, .ro, 0, 0⟩
def TIL_CMD_QUIESCE (t : Nat) : Fld := ⟨0x100008 + 0x4000 * t, 0, 1, .wo, 0, 0⟩
def TIL_CMD_RETURN (t : Nat) : Fld := ⟨0x100008 + 0x4000 * t, 1, 1, .wo, 0, 0⟩
def TIL_READY_COUNT (t : Nat) (n : Nat) : Fld := ⟨0x100010 + 0x4000 * t + 0x4 * n, 0, 9, .ro, 0, 0⟩
def TIL_WAITS_WAITS (t : Nat) : Fld := ⟨0x100030 + 0x4000 * t, 0, 10, .ro, 0, 0⟩
def TIL_TSERR_CORR (t : Nat) : Fld := ⟨0x100034 + 0x4000 * t, 0, 16, .rc, 0, 0⟩
def TIL_TSERR_UNCORR (t : Nat) : Fld := ⟨0x100034 + 0x4000 * t, 16, 16, .rc, 0, 0⟩
def MSIX_ADDR_LO (v : Nat) (a : Agent) : Fld := ⟨0x200000 + 0x10 * v, 0, 32, .rw, 0, a.code⟩
def MSIX_UADDR_HI (v : Nat) (a : Agent) : Fld := ⟨0x200004 + 0x10 * v, 0, 32, .rw, 0, a.code⟩
def MSIX_DATA_DATA (v : Nat) (a : Agent) : Fld := ⟨0x200008 + 0x10 * v, 0, 32, .rw, 0, a.code⟩
def MSIX_CTL_MASK (v : Nat) (a : Agent) : Fld := ⟨0x20000C + 0x10 * v, 0, 1, .rw, 1, a.code⟩
def MSIX_PBA_PENDING (k : Nat) (a : Agent) : Fld := ⟨0x201000 + 0x4 * k, 0, 32, .ro, 0, a.code⟩


def rowsGlb0 : List RegRow := [
  ⟨0x0, 0x0, 1, 0x0, 1, false, fun _ _ _ => GLB_IDENT_VENDOR⟩,
  ⟨0x0, 0x0, 1, 0x0, 1, false, fun _ _ _ => GLB_IDENT_DEVICE⟩,
  ⟨0x4, 0x0, 1, 0x0, 1, false, fun _ _ _ => GLB_STEPPING_STEP⟩,
  ⟨0x8, 0x0, 1, 0x0, 1, false, fun _ _ _ => GLB_DIEID_LO_ID⟩,
  ⟨0xC, 0x0, 1, 0x0, 1, false, fun _ _ _ => GLB_DIEID_HI_ID⟩,
  ⟨0x10, 0x0, 1, 0x0, 1, false, fun _ _ _ => GLB_STATE_STATE⟩,
  ⟨0x10, 0x0, 1, 0x0, 1, false, fun _ _ _ => GLB_STATE_LAZY⟩,
  ⟨0x10, 0x0, 1, 0x0, 1, false, fun _ _ _ => GLB_STATE_BEATSRC⟩,
  ⟨0x14, 0x0, 1, 0x0, 1, false, fun _ _ _ => GLB_BEAT_LO_BEAT⟩,
  ⟨0x18, 0x0, 1, 0x0, 1, false, fun _ _ _ => GLB_BEAT_HI_BEAT⟩,
  ⟨0x1C, 0x0, 1, 0x0, 1, false, fun _ _ _ => GLB_CAP_PORTS⟩,
  ⟨0x1C, 0x0, 1, 0x0, 1, false, fun _ _ _ => GLB_CAP_MIRROR⟩,
  ⟨0x1C, 0x0, 1, 0x0, 1, false, fun _ _ _ => GLB_CAP_TILES⟩,
  ⟨0x1C, 0x0, 1, 0x0, 1, false, fun _ _ _ => GLB_CAP_DDRCH⟩,
  ⟨0x1C, 0x0, 1, 0x0, 1, false, fun _ _ _ => GLB_CAP_NFCH⟩,
  ⟨0x1C, 0x0, 1, 0x0, 1, false, fun _ _ _ => GLB_CAP_KEYSLOTS⟩,
  ⟨0x20, 0x0, 1, 0x0, 1, false, fun _ _ a => GLB_ISTAT0_SRC a⟩,
  ⟨0x24, 0x0, 1, 0x0, 1, false, fun _ _ a => GLB_ISTAT1_SRC a⟩,
  ⟨0x28, 0x0, 1, 0x0, 1, false, fun _ _ a => GLB_IMASK0_MASK a⟩,
  ⟨0x2C, 0x0, 1, 0x0, 1, false, fun _ _ a => GLB_IMASK1_MASK a⟩,
  ⟨0x30, 0x0, 1, 0x0, 1, false, fun _ _ a => GLB_LOCK_LOCK a⟩,
  ⟨0x34, 0x0, 1, 0x0, 1, false, fun _ _ _ => GLB_CTRL_RST_IRQ⟩,
  ⟨0x34, 0x0, 1, 0x0, 1, false, fun _ _ _ => GLB_CTRL_BEAT_IRQ⟩,
  ⟨0x34, 0x0, 1, 0x0, 1, false, fun _ _ _ => GLB_CTRL_THERM_IRQ⟩,
  ⟨0x34, 0x0, 1, 0x0, 1, false, fun _ _ _ => GLB_CTRL_STW_IRQ⟩]

def rowsGlb1 : List RegRow := [
  ⟨0x38, 0x0, 1, 0x0, 1, false, fun _ _ _ => GLB_ACCERR_COUNT⟩,
  ⟨0x40, 0x4, 9, 0x0, 1, false, fun i _ a => GLB_VECMAP_VEC_0 i a⟩,
  ⟨0x40, 0x4, 9, 0x0, 1, false, fun i _ a => GLB_VECMAP_VEC_1 i a⟩,
  ⟨0x40, 0x4, 9, 0x0, 1, false, fun i _ a => GLB_VECMAP_VEC_2 i a⟩,
  ⟨0x40, 0x4, 8, 0x0, 1, false, fun i _ a => GLB_VECMAP_VEC_3 i a⟩]

/-- The field rows of one block. -/
def rowsGlb : List RegRow := rowsGlb0 ++ rowsGlb1

def rowsPq0 : List RegRow := [
  ⟨0x10000, 0x0, 1, 0x0, 1, false, fun _ _ _ => PQ_CAP_QCAP_K⟩,
  ⟨0x10000, 0x0, 1, 0x0, 1, false, fun _ _ _ => PQ_CAP_QTILES⟩,
  ⟨0x10004, 0x0, 1, 0x0, 1, false, fun _ _ _ => PQ_CTRL_HZ_IRQ⟩,
  ⟨0x10004, 0x0, 1, 0x0, 1, false, fun _ _ _ => PQ_CTRL_HELD_IRQ⟩,
  ⟨0x10004, 0x0, 1, 0x0, 1, false, fun _ _ _ => PQ_CTRL_AAMF_IRQ⟩,
  ⟨0x10004, 0x0, 1, 0x0, 1, false, fun _ _ _ => PQ_CTRL_HELD_BEATS⟩,
  ⟨0x10008, 0x0, 1, 0x0, 1, false, fun _ _ _ => PQ_STATUS_PA_OPEN⟩,
  ⟨0x10008, 0x0, 1, 0x0, 1, false, fun _ _ _ => PQ_STATUS_PB_OPEN⟩,
  ⟨0x10008, 0x0, 1, 0x0, 1, false, fun _ _ _ => PQ_STATUS_ADMIT_STOP⟩,
  ⟨0x10008, 0x0, 1, 0x0, 1, false, fun _ _ _ => PQ_STATUS_HELD⟩,
  ⟨0x10008, 0x0, 1, 0x0, 1, false, fun _ _ _ => PQ_STATUS_AAM_LOCAL⟩,
  ⟨0x10008, 0x0, 1, 0x0, 1, false, fun _ _ _ => PQ_STATUS_UMBER_HOLD⟩,
  ⟨0x10008, 0x0, 1, 0x0, 1, false, fun _ _ _ => PQ_STATUS_PA_CXL⟩,
  ⟨0x10008, 0x0, 1, 0x0, 1, false, fun _ _ _ => PQ_STATUS_PB_CXL⟩,
  ⟨0x10008, 0x0, 1, 0x0, 1, false, fun _ _ _ => PQ_STATUS_HZ_FROZEN⟩,
  ⟨0x1000C, 0x0, 1, 0x0, 1, false, fun _ _ _ => PQ_OCC_OCC_LINES⟩,
  ⟨0x10010, 0x4, 4, 0x0, 1, false, fun i _ _ => PQ_CLASS_MIRROR i⟩,
  ⟨0x10010, 0x4, 4, 0x0, 1, true, fun i _ _ => PQ_CLASS_AAM i⟩,
  ⟨0x10010, 0x4, 3, 0x0, 1, false, fun i _ _ => PQ_CLASS_CHARGED i⟩,
  ⟨0x10010, 0x4, 3, 0x0, 1, false, fun i _ _ => PQ_CLASS_EXPENDABLE i⟩,
  ⟨0x1001C, 0x0, 1, 0x0, 1, false, fun _ _ _ => PQ_CLASSD_CHARGED⟩,
  ⟨0x1001C, 0x0, 1, 0x0, 1, false, fun _ _ _ => PQ_CLASSD_EXPENDABLE⟩,
  ⟨0x10040, 0x10, 2, 0x4, 4, false, fun i j _ => PQ_BIND_CLASS i j⟩,
  ⟨0x10040, 0x10, 2, 0x4, 4, false, fun i j _ => PQ_BIND_VALID i j⟩,
  ⟨0x10040, 0x10, 2, 0x4, 4, false, fun i j _ => PQ_BIND_OFF i j⟩]

def rowsPq1 : List RegRow := [
  ⟨0x10100, 0x100, 2, 0x0, 1, false, fun i _ _ => PQ_STAMP_LO_STAMP i⟩,
  ⟨0x10104, 0x100, 2, 0x0, 1, false, fun i _ _ => PQ_STAMP_HI_STAMP i⟩,
  ⟨0x10108, 0x100, 2, 0x0, 1, false, fun i _ _ => PQ_LHZ_LO_HZ i⟩,
  ⟨0x1010C, 0x100, 2, 0x0, 1, false, fun i _ _ => PQ_LHZ_HI_HZ i⟩,
  ⟨0x10110, 0x100, 2, 0x0, 1, false, fun i _ _ => PQ_MHZ_LO_HZ i⟩,
  ⟨0x10114, 0x100, 2, 0x0, 1, false, fun i _ _ => PQ_MHZ_HI_HZ i⟩,
  ⟨0x10118, 0x100, 2, 0x0, 1, true, fun i _ _ => PQ_RESV_A_LINES i⟩,
  ⟨0x10118, 0x100, 2, 0x0, 1, true, fun i _ _ => PQ_RESV_B_LINES i⟩,
  ⟨0x1011C, 0x100, 2, 0x0, 1, false, fun i _ _ => PQ_STALE_COUNT i⟩,
  ⟨0x10120, 0x100, 2, 0x0, 1, false, fun i _ _ => PQ_HOLD_HELD_NOW i⟩,
  ⟨0x10120, 0x100, 2, 0x0, 1, false, fun i _ _ => PQ_HOLD_OLDEST_BEATS i⟩,
  ⟨0x10124, 0x100, 2, 0x0, 1, false, fun i _ _ => PQ_PEND_PENDING i⟩,
  ⟨0x10124, 0x100, 2, 0x0, 1, false, fun i _ _ => PQ_PEND_MERGED i⟩]

/-- The field rows of one block. -/
def rowsPq : List RegRow := rowsPq0 ++ rowsPq1

def rowsCch0 : List RegRow := [
  ⟨0x20000, 0x0, 1, 0x0, 1, false, fun _ _ _ => CCH_CFG_SPEED⟩,
  ⟨0x20000, 0x0, 1, 0x0, 1, false, fun _ _ _ => CCH_CFG_DPC2⟩,
  ⟨0x20000, 0x0, 1, 0x0, 1, false, fun _ _ _ => CCH_CFG_RANKS2⟩,
  ⟨0x20000, 0x0, 1, 0x0, 1, false, fun _ _ _ => CCH_CFG_SIZE32⟩,
  ⟨0x20000, 0x0, 1, 0x0, 1, false, fun _ _ _ => CCH_CFG_SPARES⟩,
  ⟨0x20000, 0x0, 1, 0x0, 1, false, fun _ _ _ => CCH_CFG_LRANKS⟩,
  ⟨0x20004, 0x0, 1, 0x0, 1, false, fun _ _ _ => CCH_STATUS_POP_OK⟩,
  ⟨0x20004, 0x0, 1, 0x0, 1, false, fun _ _ _ => CCH_STATUS_SPEED_FALLBACK⟩,
  ⟨0x20004, 0x0, 1, 0x0, 1, false, fun _ _ _ => CCH_STATUS_UE⟩,
  ⟨0x20004, 0x0, 1, 0x0, 1, false, fun _ _ _ => CCH_STATUS_RETIRING⟩,
  ⟨0x20004, 0x0, 1, 0x0, 1, false, fun _ _ _ => CCH_STATUS_DEVFLAG⟩,
  ⟨0x20004, 0x0, 1, 0x0, 1, false, fun _ _ _ => CCH_STATUS_SCRUB_OFF⟩,
  ⟨0x20004, 0x0, 1, 0x0, 1, false, fun _ _ _ => CCH_STATUS_TRICKLE_THROTTLE⟩,
  ⟨0x20010, 0x4, 5, 0x0, 1, false, fun i _ _ => CCH_DIRTY_GRANULES i⟩,
  ⟨0x20024, 0x0, 1, 0x0, 1, false, fun _ _ _ => CCH_SCRUB_PASS_HOURS⟩,
  ⟨0x20024, 0x0, 1, 0x0, 1, false, fun _ _ _ => CCH_SCRUB_PASSES⟩,
  ⟨0x20028, 0x0, 1, 0x0, 1, false, fun _ _ _ => CCH_BW_CAP_PCT⟩,
  ⟨0x20030, 0x0, 1, 0x0, 1, false, fun _ _ _ => CCH_RET_CTRL_AUTO⟩,
  ⟨0x20030, 0x0, 1, 0x0, 1, false, fun _ _ _ => CCH_RET_CTRL_RATE_GBS⟩,
  ⟨0x20030, 0x0, 1, 0x0, 1, false, fun _ _ _ => CCH_RET_CTRL_DEV_RUN⟩,
  ⟨0x20030, 0x0, 1, 0x0, 1, false, fun _ _ _ => CCH_RET_CTRL_CE_THR⟩,
  ⟨0x20034, 0x0, 1, 0x0, 1, false, fun _ _ _ => CCH_RET_WIN_BEATS⟩,
  ⟨0x20038, 0x0, 1, 0x0, 1, false, fun _ _ _ => CCH_RET_CMD_PRANK⟩,
  ⟨0x20038, 0x0, 1, 0x0, 1, false, fun _ _ _ => CCH_RET_CMD_GO⟩,
  ⟨0x2003C, 0x0, 1, 0x0, 1, false, fun _ _ _ => CCH_RET_STATUS_FROM⟩]

def rowsCch1 : List RegRow := [
  ⟨0x2003C, 0x0, 1, 0x0, 1, false, fun _ _ _ => CCH_RET_STATUS_TO⟩,
  ⟨0x2003C, 0x0, 1, 0x0, 1, false, fun _ _ _ => CCH_RET_STATUS_ACTIVE⟩,
  ⟨0x2003C, 0x0, 1, 0x0, 1, false, fun _ _ _ => CCH_RET_STATUS_REASON⟩,
  ⟨0x2003C, 0x0, 1, 0x0, 1, false, fun _ _ _ => CCH_RET_STATUS_PCT⟩,
  ⟨0x20040, 0x0, 1, 0x0, 1, false, fun _ _ _ => CCH_UE_COUNT_COUNT⟩,
  ⟨0x20044, 0x0, 1, 0x0, 1, false, fun _ _ _ => CCH_UE_ADDR_LO_CA⟩,
  ⟨0x20048, 0x0, 1, 0x0, 1, false, fun _ _ _ => CCH_UE_ADDR_HI_CA⟩,
  ⟨0x20050, 0x0, 1, 0x0, 1, false, fun _ _ _ => CCH_XLATE_LO_CA⟩,
  ⟨0x20054, 0x0, 1, 0x0, 1, false, fun _ _ _ => CCH_XLATE_HI_CA⟩,
  ⟨0x20058, 0x0, 1, 0x0, 1, false, fun _ _ _ => CCH_XLATE_OUT_PRANK⟩,
  ⟨0x20058, 0x0, 1, 0x0, 1, false, fun _ _ _ => CCH_XLATE_OUT_SUBCH⟩,
  ⟨0x20058, 0x0, 1, 0x0, 1, false, fun _ _ _ => CCH_XLATE_OUT_BG⟩,
  ⟨0x20058, 0x0, 1, 0x0, 1, false, fun _ _ _ => CCH_XLATE_OUT_BANK⟩,
  ⟨0x20058, 0x0, 1, 0x0, 1, false, fun _ _ _ => CCH_XLATE_OUT_ROW⟩,
  ⟨0x20058, 0x0, 1, 0x0, 1, false, fun _ _ _ => CCH_XLATE_OUT_VALID⟩,
  ⟨0x20100, 0x4, 32, 0x0, 1, false, fun i _ _ => CCH_RANK_STATE i⟩,
  ⟨0x20100, 0x4, 32, 0x0, 1, false, fun i _ _ => CCH_RANK_SET i⟩,
  ⟨0x20100, 0x4, 32, 0x0, 1, false, fun i _ _ => CCH_RANK_MEMBER i⟩,
  ⟨0x20100, 0x4, 32, 0x0, 1, false, fun i _ _ => CCH_RANK_DEVFLAG i⟩,
  ⟨0x20100, 0x4, 32, 0x0, 1, false, fun i _ _ => CCH_RANK_CE_WIN i⟩]

/-- The field rows of one block. -/
def rowsCch : List RegRow := rowsCch0 ++ rowsCch1

def rowsLdg0 : List RegRow := [
  ⟨0x30000, 0x0, 1, 0x0, 1, false, fun _ _ _ => LDG_STATUS_ZONE⟩,
  ⟨0x30000, 0x0, 1, 0x0, 1, false, fun _ _ _ => LDG_STATUS_DEFICIT⟩,
  ⟨0x30000, 0x0, 1, 0x0, 1, false, fun _ _ _ => LDG_STATUS_STALE⟩,
  ⟨0x30000, 0x0, 1, 0x0, 1, false, fun _ _ _ => LDG_STATUS_NOVAULT⟩,
  ⟨0x30000, 0x0, 1, 0x0, 1, false, fun _ _ _ => LDG_STATUS_OCHRE_SEEN⟩,
  ⟨0x30000, 0x0, 1, 0x0, 1, false, fun _ _ _ => LDG_STATUS_UMBER_SEEN⟩,
  ⟨0x30000, 0x0, 1, 0x0, 1, false, fun _ _ _ => LDG_STATUS_DEFICIT_SEEN⟩,
  ⟨0x30000, 0x0, 1, 0x0, 1, false, fun _ _ _ => LDG_STATUS_FMODS⟩,
  ⟨0x30000, 0x0, 1, 0x0, 1, false, fun _ _ _ => LDG_STATUS_KSET3⟩,
  ⟨0x30004, 0x0, 1, 0x0, 1, false, fun _ _ _ => LDG_CTRL_UMBER_IRQ⟩,
  ⟨0x30004, 0x0, 1, 0x0, 1, false, fun _ _ _ => LDG_CTRL_OCHRE_IRQ⟩,
  ⟨0x30004, 0x0, 1, 0x0, 1, false, fun _ _ _ => LDG_CTRL_DEFICIT_IRQ⟩,
  ⟨0x30004, 0x0, 1, 0x0, 1, false, fun _ _ _ => LDG_CTRL_REH_AUTO⟩,
  ⟨0x30004, 0x0, 1, 0x0, 1, true, fun _ _ _ => LDG_CTRL_TRICKLE_WHITE⟩,
  ⟨0x30008, 0x0, 1, 0x0, 1, false, fun _ _ _ => LDG_USABLE_MJ⟩,
  ⟨0x3000C, 0x0, 1, 0x0, 1, false, fun _ _ _ => LDG_COMMIT_MJ⟩,
  ⟨0x30010, 0x0, 1, 0x0, 1, false, fun _ _ _ => LDG_MARGIN_MJ⟩,
  ⟨0x30014, 0x0, 1, 0x0, 1, false, fun _ _ _ => LDG_DEFICIT_MJ⟩,
  ⟨0x30018, 0x0, 1, 0x0, 1, false, fun _ _ _ => LDG_BRIM_MJ⟩,
  ⟨0x30020, 0x4, 8, 0x0, 1, false, fun i _ _ => LDG_PART_MJ i⟩,
  ⟨0x30040, 0x0, 1, 0x0, 1, false, fun _ _ _ => LDG_BANK_V_V⟩,
  ⟨0x30040, 0x0, 1, 0x0, 1, false, fun _ _ _ => LDG_BANK_V_VE⟩,
  ⟨0x30044, 0x0, 1, 0x0, 1, false, fun _ _ _ => LDG_BANK_C_VALUE⟩,
  ⟨0x30048, 0x0, 1, 0x0, 1, false, fun _ _ _ => LDG_BANK_ESR_VALUE⟩,
  ⟨0x3004C, 0x0, 1, 0x0, 1, false, fun _ _ _ => LDG_HEALTH_H⟩]

def rowsLdg1 : List RegRow := [
  ⟨0x3004C, 0x0, 1, 0x0, 1, false, fun _ _ _ => LDG_HEALTH_SOURCE⟩,
  ⟨0x3004C, 0x0, 1, 0x0, 1, false, fun _ _ _ => LDG_HEALTH_AGE_HOURS⟩,
  ⟨0x30050, 0x4, 3, 0x0, 1, false, fun i _ _ => LDG_CRED_CREDIT i⟩,
  ⟨0x30050, 0x4, 3, 0x0, 1, false, fun i _ _ => LDG_CRED_DEBT i⟩,
  ⟨0x30060, 0x4, 3, 0x0, 1, true, fun i _ _ => LDG_CEIL_CEIL i⟩,
  ⟨0x30070, 0x4, 5, 0x0, 1, false, fun i _ _ => LDG_K_KUSE i⟩,
  ⟨0x30070, 0x4, 5, 0x0, 1, false, fun i _ _ => LDG_K_KCAL i⟩,
  ⟨0x30090, 0x0, 1, 0x0, 1, false, fun _ _ _ => LDG_REH_GO⟩,
  ⟨0x30090, 0x0, 1, 0x0, 1, false, fun _ _ _ => LDG_REH_BUSY⟩,
  ⟨0x30090, 0x0, 1, 0x0, 1, false, fun _ _ _ => LDG_REH_CLASS⟩,
  ⟨0x30090, 0x0, 1, 0x0, 1, false, fun _ _ _ => LDG_REH_RESULT⟩,
  ⟨0x30090, 0x0, 1, 0x0, 1, false, fun _ _ _ => LDG_REH_HOURS⟩,
  ⟨0x30094, 0x0, 1, 0x0, 1, false, fun _ _ _ => LDG_BANKREL_MOD⟩,
  ⟨0x30094, 0x0, 1, 0x0, 1, false, fun _ _ _ => LDG_BANKREL_GO⟩,
  ⟨0x30094, 0x0, 1, 0x0, 1, false, fun _ _ _ => LDG_BANKREL_CANCEL⟩,
  ⟨0x30094, 0x0, 1, 0x0, 1, false, fun _ _ _ => LDG_BANKREL_PENDING⟩,
  ⟨0x30094, 0x0, 1, 0x0, 1, false, fun _ _ _ => LDG_BANKREL_RELEASED⟩,
  ⟨0x30094, 0x0, 1, 0x0, 1, false, fun _ _ _ => LDG_BANKREL_PRESENT⟩,
  ⟨0x30094, 0x0, 1, 0x0, 1, false, fun _ _ _ => LDG_BANKREL_COUNTED⟩,
  ⟨0x30094, 0x0, 1, 0x0, 1, false, fun _ _ _ => LDG_BANKREL_JOINED⟩]

/-- The field rows of one block. -/
def rowsLdg : List RegRow := rowsLdg0 ++ rowsLdg1

def rowsCtl0 : List RegRow := [
  ⟨0x40000, 0x0, 1, 0x0, 1, false, fun _ _ _ => CTL_STATUS_MODE⟩,
  ⟨0x40000, 0x0, 1, 0x0, 1, false, fun _ _ _ => CTL_STATUS_DEAD⟩,
  ⟨0x40000, 0x0, 1, 0x0, 1, false, fun _ _ _ => CTL_STATUS_FMT⟩,
  ⟨0x40000, 0x0, 1, 0x0, 1, false, fun _ _ _ => CTL_STATUS_PARALLEL⟩,
  ⟨0x40000, 0x0, 1, 0x0, 1, false, fun _ _ _ => CTL_STATUS_LIMITER⟩,
  ⟨0x40000, 0x0, 1, 0x0, 1, false, fun _ _ _ => CTL_STATUS_FAULT⟩,
  ⟨0x40000, 0x0, 1, 0x0, 1, false, fun _ _ _ => CTL_STATUS_BF_REFUSED⟩,
  ⟨0x40000, 0x0, 1, 0x0, 1, false, fun _ _ _ => CTL_STATUS_HT_DONE⟩,
  ⟨0x40000, 0x0, 1, 0x0, 1, false, fun _ _ _ => CTL_STATUS_PHASE_ON⟩,
  ⟨0x40004, 0x0, 1, 0x0, 1, false, fun _ _ _ => CTL_CTRL_CHG_EN⟩,
  ⟨0x40004, 0x0, 1, 0x0, 1, false, fun _ _ _ => CTL_CTRL_BF_EN⟩,
  ⟨0x40004, 0x0, 1, 0x0, 1, false, fun _ _ _ => CTL_CTRL_FAULT_IRQ⟩,
  ⟨0x40004, 0x0, 1, 0x0, 1, false, fun _ _ _ => CTL_CTRL_HT_IRQ⟩,
  ⟨0x40004, 0x0, 1, 0x0, 1, false, fun _ _ _ => CTL_CTRL_SPERIOD⟩,
  ⟨0x40008, 0x0, 1, 0x0, 1, false, fun _ _ _ => CTL_SET_VBUS_TARGET⟩,
  ⟨0x40008, 0x0, 1, 0x0, 1, false, fun _ _ _ => CTL_SET_VBUS_NOW⟩,
  ⟨0x4000C, 0x0, 1, 0x0, 1, false, fun _ _ _ => CTL_SET_VCHG_TARGET⟩,
  ⟨0x4000C, 0x0, 1, 0x0, 1, false, fun _ _ _ => CTL_SET_VCHG_NOW⟩,
  ⟨0x40010, 0x0, 1, 0x0, 1, false, fun _ _ _ => CTL_SET_IBANK_CHG⟩,
  ⟨0x40010, 0x0, 1, 0x0, 1, false, fun _ _ _ => CTL_SET_IBANK_DIS⟩,
  ⟨0x40014, 0x0, 1, 0x0, 1, false, fun _ _ _ => CTL_REF_REF⟩,
  ⟨0x40014, 0x0, 1, 0x0, 1, false, fun _ _ _ => CTL_REF_HB⟩,
  ⟨0x40020, 0x4, 8, 0x0, 1, false, fun i _ _ => CTL_MEAS_VALUE i⟩,
  ⟨0x40040, 0x0, 1, 0x0, 1, false, fun _ _ _ => CTL_FAULT_PH_TRIP⟩,
  ⟨0x40040, 0x0, 1, 0x0, 1, false, fun _ _ _ => CTL_FAULT_BUS_OV⟩]

def rowsCtl1 : List RegRow := [
  ⟨0x40040, 0x0, 1, 0x0, 1, false, fun _ _ _ => CTL_FAULT_BANK_OV⟩,
  ⟨0x40040, 0x0, 1, 0x0, 1, false, fun _ _ _ => CTL_FAULT_SENSE_RANGE⟩,
  ⟨0x40040, 0x0, 1, 0x0, 1, false, fun _ _ _ => CTL_FAULT_BF_OVF⟩,
  ⟨0x40040, 0x0, 1, 0x0, 1, false, fun _ _ _ => CTL_FAULT_SHOOT⟩,
  ⟨0x40040, 0x0, 1, 0x0, 1, false, fun _ _ _ => CTL_FAULT_PHASES_TRIPPED⟩,
  ⟨0x40040, 0x0, 1, 0x0, 1, false, fun _ _ _ => CTL_FAULT_COUNT⟩,
  ⟨0x40044, 0x0, 1, 0x0, 1, false, fun _ _ _ => CTL_HT_CTRL_GO⟩,
  ⟨0x40044, 0x0, 1, 0x0, 1, false, fun _ _ _ => CTL_HT_CTRL_ABORT⟩,
  ⟨0x40044, 0x0, 1, 0x0, 1, false, fun _ _ _ => CTL_HT_CTRL_HOURS⟩,
  ⟨0x40048, 0x0, 1, 0x0, 1, false, fun _ _ _ => CTL_HT_STATUS_BUSY⟩,
  ⟨0x40048, 0x0, 1, 0x0, 1, false, fun _ _ _ => CTL_HT_STATUS_RESULT⟩,
  ⟨0x40048, 0x0, 1, 0x0, 1, false, fun _ _ _ => CTL_HT_STATUS_MODS⟩,
  ⟨0x40048, 0x0, 1, 0x0, 1, false, fun _ _ _ => CTL_HT_STATUS_STEP⟩,
  ⟨0x4004C, 0x0, 1, 0x0, 1, false, fun _ _ _ => CTL_HT_C_VALUE⟩,
  ⟨0x40050, 0x0, 1, 0x0, 1, false, fun _ _ _ => CTL_HT_ESR_VALUE⟩,
  ⟨0x40054, 0x0, 1, 0x0, 1, false, fun _ _ _ => CTL_BF_FAILS⟩,
  ⟨0x40054, 0x0, 1, 0x0, 1, false, fun _ _ _ => CTL_BF_LAST⟩,
  ⟨0x40054, 0x0, 1, 0x0, 1, false, fun _ _ _ => CTL_BF_RETRY⟩,
  ⟨0x40058, 0x0, 1, 0x0, 1, false, fun _ _ _ => CTL_EQ_MOD⟩,
  ⟨0x40058, 0x0, 1, 0x0, 1, false, fun _ _ _ => CTL_EQ_GO⟩,
  ⟨0x40058, 0x0, 1, 0x0, 1, false, fun _ _ _ => CTL_EQ_BUSY⟩,
  ⟨0x40058, 0x0, 1, 0x0, 1, false, fun _ _ _ => CTL_EQ_DONE⟩,
  ⟨0x40058, 0x0, 1, 0x0, 1, false, fun _ _ _ => CTL_EQ_FAIL⟩]

/-- The field rows of one block. -/
def rowsCtl : List RegRow := rowsCtl0 ++ rowsCtl1

def rowsDrn0 : List RegRow := [
  ⟨0x50000, 0x0, 1, 0x0, 1, false, fun _ _ _ => DRN_STATUS_PASS⟩,
  ⟨0x50000, 0x0, 1, 0x0, 1, false, fun _ _ _ => DRN_STATUS_PD_BEGUN⟩,
  ⟨0x50000, 0x0, 1, 0x0, 1, false, fun _ _ _ => DRN_STATUS_MWIN⟩,
  ⟨0x50000, 0x0, 1, 0x0, 1, false, fun _ _ _ => DRN_STATUS_PARTNER_LOST⟩,
  ⟨0x50000, 0x0, 1, 0x0, 1, false, fun _ _ _ => DRN_STATUS_SHORT⟩,
  ⟨0x50000, 0x0, 1, 0x0, 1, false, fun _ _ _ => DRN_STATUS_DEGRADED⟩,
  ⟨0x50000, 0x0, 1, 0x0, 1, false, fun _ _ _ => DRN_STATUS_RIDE⟩,
  ⟨0x50000, 0x0, 1, 0x0, 1, false, fun _ _ _ => DRN_STATUS_WARM⟩,
  ⟨0x50004, 0x0, 1, 0x0, 1, true, fun _ _ _ => DRN_CTRL_DIMM_OFF⟩,
  ⟨0x50004, 0x0, 1, 0x0, 1, true, fun _ _ _ => DRN_CTRL_WIDTH⟩,
  ⟨0x50004, 0x0, 1, 0x0, 1, true, fun _ _ _ => DRN_CTRL_D_EN⟩,
  ⟨0x50004, 0x0, 1, 0x0, 1, true, fun _ _ _ => DRN_CTRL_GRACE_IRQ⟩,
  ⟨0x50004, 0x0, 1, 0x0, 1, true, fun _ _ _ => DRN_CTRL_DRAIN_IRQ⟩,
  ⟨0x50004, 0x0, 1, 0x0, 1, true, fun _ _ _ => DRN_CTRL_CROWN_IRQ⟩,
  ⟨0x50008, 0x0, 1, 0x0, 1, false, fun _ _ _ => DRN_INMON_WARN⟩,
  ⟨0x50008, 0x0, 1, 0x0, 1, false, fun _ _ _ => DRN_INMON_HYST⟩,
  ⟨0x50008, 0x0, 1, 0x0, 1, false, fun _ _ _ => DRN_INMON_COLLAPSE⟩,
  ⟨0x50008, 0x0, 1, 0x0, 1, false, fun _ _ _ => DRN_INMON_DEGLITCH⟩,
  ⟨0x5000C, 0x0, 1, 0x0, 1, true, fun _ _ _ => DRN_GRACE_BEATS⟩,
  ⟨0x50010, 0x0, 1, 0x0, 1, false, fun _ _ _ => DRN_MRX_BEATS⟩,
  ⟨0x50014, 0x0, 1, 0x0, 1, false, fun _ _ _ => DRN_PLAN_TILES⟩,
  ⟨0x50014, 0x0, 1, 0x0, 1, false, fun _ _ _ => DRN_PLAN_EST_MS⟩,
  ⟨0x50018, 0x0, 1, 0x0, 1, false, fun _ _ _ => DRN_DROP_GRANULES⟩,
  ⟨0x5001C, 0x0, 1, 0x0, 1, false, fun _ _ _ => DRN_UNSAVED_GRANULES⟩,
  ⟨0x50020, 0x0, 1, 0x0, 1, false, fun _ _ _ => DRN_TRIP_LO_BEAT⟩]

def rowsDrn1 : List RegRow := [
  ⟨0x50024, 0x0, 1, 0x0, 1, false, fun _ _ _ => DRN_TRIP_HI_BEAT⟩]

/-- The field rows of one block. -/
def rowsDrn : List RegRow := rowsDrn0 ++ rowsDrn1

def rowsVlt0 : List RegRow := [
  ⟨0x60000, 0x0, 1, 0x0, 1, false, fun _ _ _ => VLT_STATUS_READY⟩,
  ⟨0x60000, 0x0, 1, 0x0, 1, false, fun _ _ _ => VLT_STATUS_DEGRADED⟩,
  ⟨0x60000, 0x0, 1, 0x0, 1, false, fun _ _ _ => VLT_STATUS_RESTRIPE⟩,
  ⟨0x60000, 0x0, 1, 0x0, 1, false, fun _ _ _ => VLT_STATUS_SPACE⟩,
  ⟨0x60000, 0x0, 1, 0x0, 1, false, fun _ _ _ => VLT_STATUS_CKPT_BUSY⟩,
  ⟨0x60000, 0x0, 1, 0x0, 1, false, fun _ _ _ => VLT_STATUS_MODFAIL⟩,
  ⟨0x60000, 0x0, 1, 0x0, 1, false, fun _ _ _ => VLT_STATUS_UNRECOV⟩,
  ⟨0x60000, 0x0, 1, 0x0, 1, false, fun _ _ _ => VLT_STATUS_BLANK⟩,
  ⟨0x60004, 0x0, 1, 0x0, 1, false, fun _ _ _ => VLT_CTRL_RR_THR⟩,
  ⟨0x60004, 0x0, 1, 0x0, 1, false, fun _ _ _ => VLT_CTRL_FULL_EN⟩,
  ⟨0x60004, 0x0, 1, 0x0, 1, false, fun _ _ _ => VLT_CTRL_MOD_IRQ⟩,
  ⟨0x60004, 0x0, 1, 0x0, 1, false, fun _ _ _ => VLT_CTRL_UNREC_IRQ⟩,
  ⟨0x60008, 0x0, 1, 0x0, 1, false, fun _ _ _ => VLT_GEOM_PLANES⟩,
  ⟨0x60008, 0x0, 1, 0x0, 1, false, fun _ _ _ => VLT_GEOM_TARGETS⟩,
  ⟨0x60008, 0x0, 1, 0x0, 1, false, fun _ _ _ => VLT_GEOM_PAGES⟩,
  ⟨0x60008, 0x0, 1, 0x0, 1, false, fun _ _ _ => VLT_GEOM_CROWN_BLOCKS⟩,
  ⟨0x6000C, 0x0, 1, 0x0, 1, false, fun _ _ _ => VLT_BLOCKS_BLOCKS⟩,
  ⟨0x60010, 0x0, 1, 0x0, 1, false, fun _ _ _ => VLT_MODS_PRESENT⟩,
  ⟨0x60010, 0x0, 1, 0x0, 1, false, fun _ _ _ => VLT_MODS_COUNTED⟩,
  ⟨0x60010, 0x0, 1, 0x0, 1, false, fun _ _ _ => VLT_MODS_FAILED⟩,
  ⟨0x60010, 0x0, 1, 0x0, 1, false, fun _ _ _ => VLT_MODS_RELEASED⟩,
  ⟨0x60010, 0x0, 1, 0x0, 1, false, fun _ _ _ => VLT_MODS_PENDING⟩,
  ⟨0x60014, 0x0, 1, 0x0, 1, false, fun _ _ _ => VLT_MODCMD_MOD⟩,
  ⟨0x60014, 0x0, 1, 0x0, 1, false, fun _ _ _ => VLT_MODCMD_RELEASE⟩,
  ⟨0x60014, 0x0, 1, 0x0, 1, false, fun _ _ _ => VLT_MODCMD_ADD⟩]

def rowsVlt1 : List RegRow := [
  ⟨0x60014, 0x0, 1, 0x0, 1, false, fun _ _ _ => VLT_MODCMD_CANCEL⟩,
  ⟨0x60018, 0x0, 1, 0x0, 1, false, fun _ _ _ => VLT_EPOCH_LO_EPOCH⟩,
  ⟨0x6001C, 0x0, 1, 0x0, 1, false, fun _ _ _ => VLT_EPOCH_HI_EPOCH⟩,
  ⟨0x60020, 0x0, 1, 0x0, 1, false, fun _ _ _ => VLT_BSEQ_LO_BSEQ⟩,
  ⟨0x60024, 0x0, 1, 0x0, 1, false, fun _ _ _ => VLT_BSEQ_HI_BSEQ⟩,
  ⟨0x60028, 0x0, 1, 0x0, 1, false, fun _ _ _ => VLT_FREE_FREE⟩,
  ⟨0x60028, 0x0, 1, 0x0, 1, false, fun _ _ _ => VLT_FREE_RESV⟩,
  ⟨0x6002C, 0x0, 1, 0x0, 1, true, fun _ _ _ => VLT_CKPT_MIB⟩,
  ⟨0x6002C, 0x0, 1, 0x0, 1, true, fun _ _ _ => VLT_CKPT_SEC⟩,
  ⟨0x60030, 0x0, 1, 0x0, 1, false, fun _ _ _ => VLT_FULL_LOW⟩,
  ⟨0x60030, 0x0, 1, 0x0, 1, false, fun _ _ _ => VLT_FULL_BADMAX⟩,
  ⟨0x60034, 0x0, 1, 0x0, 1, false, fun _ _ _ => VLT_ERRCNT_RETRIES⟩,
  ⟨0x60034, 0x0, 1, 0x0, 1, false, fun _ _ _ => VLT_ERRCNT_REBUILDS⟩,
  ⟨0x60038, 0x0, 1, 0x0, 1, false, fun _ _ _ => VLT_UNREC_COUNT⟩,
  ⟨0x6003C, 0x0, 1, 0x0, 1, false, fun _ _ _ => VLT_FORMAT_KEY⟩,
  ⟨0x6003C, 0x0, 1, 0x0, 1, false, fun _ _ _ => VLT_FORMAT_GO⟩,
  ⟨0x60040, 0x0, 1, 0x0, 1, false, fun _ _ _ => VLT_RST_STATUS_KIND⟩,
  ⟨0x60040, 0x0, 1, 0x0, 1, false, fun _ _ _ => VLT_RST_STATUS_RESULT⟩,
  ⟨0x60040, 0x0, 1, 0x0, 1, false, fun _ _ _ => VLT_RST_STATUS_LOST_TAIL⟩,
  ⟨0x60040, 0x0, 1, 0x0, 1, false, fun _ _ _ => VLT_RST_STATUS_WARM_REFUSED⟩,
  ⟨0x60040, 0x0, 1, 0x0, 1, false, fun _ _ _ => VLT_RST_STATUS_CFLAGS⟩,
  ⟨0x60040, 0x0, 1, 0x0, 1, false, fun _ _ _ => VLT_RST_STATUS_PCT⟩,
  ⟨0x60044, 0x0, 1, 0x0, 1, false, fun _ _ _ => VLT_RST_EPOCH_LO_EPOCH⟩,
  ⟨0x60048, 0x0, 1, 0x0, 1, false, fun _ _ _ => VLT_RST_EPOCH_HI_EPOCH⟩,
  ⟨0x6004C, 0x0, 1, 0x0, 1, false, fun _ _ _ => VLT_RST_NRANGE_COUNT⟩]

def rowsVlt2 : List RegRow := [
  ⟨0x60050, 0x0, 1, 0x0, 1, false, fun _ _ _ => VLT_RST_RIDX_INDEX⟩,
  ⟨0x60054, 0x0, 1, 0x0, 1, false, fun _ _ _ => VLT_RST_RFIRST_LO_GRANULE⟩,
  ⟨0x60058, 0x0, 1, 0x0, 1, false, fun _ _ _ => VLT_RST_RFIRST_HI_GRANULE⟩,
  ⟨0x6005C, 0x0, 1, 0x0, 1, false, fun _ _ _ => VLT_RST_RCOUNT_COUNT⟩,
  ⟨0x60060, 0x0, 1, 0x0, 1, false, fun _ _ _ => VLT_RST_RINFO_CLASS⟩,
  ⟨0x60060, 0x0, 1, 0x0, 1, false, fun _ _ _ => VLT_RST_RINFO_KIND⟩,
  ⟨0x60060, 0x0, 1, 0x0, 1, false, fun _ _ _ => VLT_RST_RINFO_VALID⟩,
  ⟨0x60064, 0x0, 1, 0x0, 1, false, fun _ _ _ => VLT_RST_FETCH_FETCHES⟩,
  ⟨0x60064, 0x0, 1, 0x0, 1, false, fun _ _ _ => VLT_RST_FETCH_FAILED⟩,
  ⟨0x60068, 0x0, 1, 0x0, 1, false, fun _ _ _ => VLT_RST_CMD_KEY⟩,
  ⟨0x60068, 0x0, 1, 0x0, 1, false, fun _ _ _ => VLT_RST_CMD_EMPTY⟩]

/-- The field rows of one block. -/
def rowsVlt : List RegRow := rowsVlt0 ++ rowsVlt1 ++ rowsVlt2

def rowsMlk0 : List RegRow := [
  ⟨0x70000, 0x0, 1, 0x0, 1, false, fun _ _ _ => MLK_STATUS_LSTATE⟩,
  ⟨0x70000, 0x0, 1, 0x0, 1, false, fun _ _ _ => MLK_STATUS_ATT⟩,
  ⟨0x70000, 0x0, 1, 0x0, 1, false, fun _ _ _ => MLK_STATUS_WIDTH⟩,
  ⟨0x70000, 0x0, 1, 0x0, 1, false, fun _ _ _ => MLK_STATUS_RECOV⟩,
  ⟨0x70000, 0x0, 1, 0x0, 1, false, fun _ _ _ => MLK_STATUS_REVERSED⟩,
  ⟨0x70000, 0x0, 1, 0x0, 1, false, fun _ _ _ => MLK_STATUS_LINKDOWN⟩,
  ⟨0x70000, 0x0, 1, 0x0, 1, false, fun _ _ _ => MLK_STATUS_DEGRADED⟩,
  ⟨0x70000, 0x0, 1, 0x0, 1, false, fun _ _ _ => MLK_STATUS_PFAULT⟩,
  ⟨0x70004, 0x0, 1, 0x0, 1, false, fun _ _ _ => MLK_CTRL_EN⟩,
  ⟨0x70004, 0x0, 1, 0x0, 1, false, fun _ _ _ => MLK_CTRL_DOWN_IRQ⟩,
  ⟨0x70004, 0x0, 1, 0x0, 1, false, fun _ _ _ => MLK_CTRL_DEGR_IRQ⟩,
  ⟨0x70004, 0x0, 1, 0x0, 1, false, fun _ _ _ => MLK_CTRL_REPLAY_BEATS⟩,
  ⟨0x70004, 0x0, 1, 0x0, 1, false, fun _ _ _ => MLK_CTRL_REPLAY_MAX⟩,
  ⟨0x70004, 0x0, 1, 0x0, 1, false, fun _ _ _ => MLK_CTRL_RETRAIN_MAX⟩,
  ⟨0x70004, 0x0, 1, 0x0, 1, false, fun _ _ _ => MLK_CTRL_LANE_THR⟩,
  ⟨0x70008, 0x0, 1, 0x0, 1, false, fun _ _ _ => MLK_CMD_RETRAIN⟩,
  ⟨0x70008, 0x0, 1, 0x0, 1, false, fun _ _ _ => MLK_CMD_INJ_CRC⟩,
  ⟨0x70008, 0x0, 1, 0x0, 1, false, fun _ _ _ => MLK_CMD_INJ_LANE⟩,
  ⟨0x70008, 0x0, 1, 0x0, 1, false, fun _ _ _ => MLK_CMD_LANE⟩,
  ⟨0x70008, 0x0, 1, 0x0, 1, false, fun _ _ _ => MLK_CMD_INJ_SYM⟩,
  ⟨0x7000C, 0x0, 1, 0x0, 1, false, fun _ _ _ => MLK_SEQ_TXNEXT⟩,
  ⟨0x7000C, 0x0, 1, 0x0, 1, false, fun _ _ _ => MLK_SEQ_RXEXPECT⟩,
  ⟨0x70010, 0x0, 1, 0x0, 1, false, fun _ _ _ => MLK_FLOW_UNACKED⟩,
  ⟨0x70010, 0x0, 1, 0x0, 1, false, fun _ _ _ => MLK_FLOW_CREDIT⟩,
  ⟨0x70014, 0x0, 1, 0x0, 1, false, fun _ _ _ => MLK_CW_CORR_COUNT⟩]

def rowsMlk1 : List RegRow := [
  ⟨0x70018, 0x0, 1, 0x0, 1, false, fun _ _ _ => MLK_CW_UNCORR_COUNT⟩,
  ⟨0x7001C, 0x0, 1, 0x0, 1, false, fun _ _ _ => MLK_ERRCNT_CRC⟩,
  ⟨0x7001C, 0x0, 1, 0x0, 1, false, fun _ _ _ => MLK_ERRCNT_PROTO⟩,
  ⟨0x70020, 0x0, 1, 0x0, 1, false, fun _ _ _ => MLK_RPLCNT_REPLAYS⟩,
  ⟨0x70020, 0x0, 1, 0x0, 1, false, fun _ _ _ => MLK_RPLCNT_NAK_TX⟩,
  ⟨0x70024, 0x0, 1, 0x0, 1, false, fun _ _ _ => MLK_TRNCNT_RETRAINS⟩,
  ⟨0x70024, 0x0, 1, 0x0, 1, false, fun _ _ _ => MLK_TRNCNT_DOWNS⟩,
  ⟨0x70040, 0x4, 16, 0x0, 1, false, fun i _ _ => MLK_LANE_CORR i⟩,
  ⟨0x70040, 0x4, 16, 0x0, 1, false, fun i _ _ => MLK_LANE_POL i⟩,
  ⟨0x70040, 0x4, 16, 0x0, 1, false, fun i _ _ => MLK_LANE_LOCK i⟩,
  ⟨0x70040, 0x4, 16, 0x0, 1, false, fun i _ _ => MLK_LANE_BAD i⟩]

/-- The field rows of one block. -/
def rowsMlk : List RegRow := rowsMlk0 ++ rowsMlk1

def rowsMtx0 : List RegRow := [
  ⟨0x80000, 0x0, 1, 0x0, 1, false, fun _ _ _ => MTX_STATUS_SESSION⟩,
  ⟨0x80000, 0x0, 1, 0x0, 1, false, fun _ _ _ => MTX_STATUS_SENDSYNC⟩,
  ⟨0x80000, 0x0, 1, 0x0, 1, false, fun _ _ _ => MTX_STATUS_SYNCING⟩,
  ⟨0x80000, 0x0, 1, 0x0, 1, false, fun _ _ _ => MTX_STATUS_GAP⟩,
  ⟨0x80000, 0x0, 1, 0x0, 1, false, fun _ _ _ => MTX_STATUS_QUAR⟩,
  ⟨0x80000, 0x0, 1, 0x0, 1, false, fun _ _ _ => MTX_STATUS_NOKEY⟩,
  ⟨0x80000, 0x0, 1, 0x0, 1, false, fun _ _ _ => MTX_STATUS_HBLOST⟩,
  ⟨0x80000, 0x0, 1, 0x0, 1, false, fun _ _ _ => MTX_STATUS_ALIVE_IN⟩,
  ⟨0x80000, 0x0, 1, 0x0, 1, false, fun _ _ _ => MTX_STATUS_LOSTOVF⟩,
  ⟨0x80000, 0x0, 1, 0x0, 1, false, fun _ _ _ => MTX_STATUS_PEER_ADOPTED⟩,
  ⟨0x80000, 0x0, 1, 0x0, 1, false, fun _ _ _ => MTX_STATUS_FAULTY⟩,
  ⟨0x80000, 0x0, 1, 0x0, 1, false, fun _ _ _ => MTX_STATUS_MAPERR⟩,
  ⟨0x80004, 0x0, 1, 0x0, 1, false, fun _ _ _ => MTX_CTRL_EN⟩,
  ⟨0x80004, 0x0, 1, 0x0, 1, false, fun _ _ _ => MTX_CTRL_SESS_IRQ⟩,
  ⟨0x80004, 0x0, 1, 0x0, 1, false, fun _ _ _ => MTX_CTRL_FAULT_IRQ⟩,
  ⟨0x80004, 0x0, 1, 0x0, 1, false, fun _ _ _ => MTX_CTRL_ADOPT_IRQ⟩,
  ⟨0x80004, 0x0, 1, 0x0, 1, false, fun _ _ _ => MTX_CTRL_HB_BEATS⟩,
  ⟨0x80004, 0x0, 1, 0x0, 1, false, fun _ _ _ => MTX_CTRL_HB_LOSS⟩,
  ⟨0x80008, 0x0, 1, 0x0, 1, false, fun _ _ _ => MTX_NEXTSEQ_LO_VALUE⟩,
  ⟨0x8000C, 0x0, 1, 0x0, 1, false, fun _ _ _ => MTX_NEXTSEQ_HI_VALUE⟩,
  ⟨0x80010, 0x0, 1, 0x0, 1, false, fun _ _ _ => MTX_ACKED_LO_VALUE⟩,
  ⟨0x80014, 0x0, 1, 0x0, 1, false, fun _ _ _ => MTX_ACKED_HI_VALUE⟩,
  ⟨0x80018, 0x0, 1, 0x0, 1, false, fun _ _ _ => MTX_PEERTHRU_LO_VALUE⟩,
  ⟨0x8001C, 0x0, 1, 0x0, 1, false, fun _ _ _ => MTX_PEERTHRU_HI_VALUE⟩,
  ⟨0x80020, 0x0, 1, 0x0, 1, false, fun _ _ _ => MTX_MGEN_SEND_LO_VALUE⟩]

def rowsMtx1 : List RegRow := [
  ⟨0x80024, 0x0, 1, 0x0, 1, false, fun _ _ _ => MTX_MGEN_SEND_HI_VALUE⟩,
  ⟨0x80028, 0x0, 1, 0x0, 1, false, fun _ _ _ => MTX_MGEN_HELD_LO_VALUE⟩,
  ⟨0x8002C, 0x0, 1, 0x0, 1, false, fun _ _ _ => MTX_MGEN_HELD_HI_VALUE⟩,
  ⟨0x80030, 0x0, 1, 0x0, 1, false, fun _ _ _ => MTX_PEERID_LO_VALUE⟩,
  ⟨0x80034, 0x0, 1, 0x0, 1, false, fun _ _ _ => MTX_PEERID_HI_VALUE⟩,
  ⟨0x80038, 0x0, 1, 0x0, 1, false, fun _ _ _ => MTX_LOST_OUTSTANDING⟩,
  ⟨0x80038, 0x0, 1, 0x0, 1, false, fun _ _ _ => MTX_LOST_LOSTG⟩,
  ⟨0x8003C, 0x0, 1, 0x0, 1, false, fun _ _ _ => MTX_SYNCPROG_PCT⟩,
  ⟨0x8003C, 0x0, 1, 0x0, 1, false, fun _ _ _ => MTX_SYNCPROG_CLASS⟩,
  ⟨0x80040, 0x0, 1, 0x0, 1, false, fun _ _ _ => MTX_FAULTCNT_LENGTH⟩,
  ⟨0x80040, 0x0, 1, 0x0, 1, false, fun _ _ _ => MTX_FAULTCNT_PROTO⟩,
  ⟨0x80040, 0x0, 1, 0x0, 1, false, fun _ _ _ => MTX_FAULTCNT_DUP⟩,
  ⟨0x80040, 0x0, 1, 0x0, 1, false, fun _ _ _ => MTX_FAULTCNT_BAR2⟩,
  ⟨0x80044, 0x0, 1, 0x0, 1, false, fun _ _ _ => MTX_QUAR_LEVEL⟩,
  ⟨0x80044, 0x0, 1, 0x0, 1, false, fun _ _ _ => MTX_QUAR_REMAIN_S⟩,
  ⟨0x80048, 0x0, 1, 0x0, 1, false, fun _ _ _ => MTX_ADOPT_ACTIVE⟩,
  ⟨0x80048, 0x0, 1, 0x0, 1, false, fun _ _ _ => MTX_ADOPT_INCOMPLETE⟩,
  ⟨0x80048, 0x0, 1, 0x0, 1, false, fun _ _ _ => MTX_ADOPT_SUSPECT⟩,
  ⟨0x80048, 0x0, 1, 0x0, 1, false, fun _ _ _ => MTX_ADOPT_HZVALID⟩,
  ⟨0x8004C, 0x0, 1, 0x0, 1, false, fun _ _ _ => MTX_ADOPT_CMD_KEY⟩,
  ⟨0x8004C, 0x0, 1, 0x0, 1, false, fun _ _ _ => MTX_ADOPT_CMD_RELEASE⟩,
  ⟨0x80050, 0x0, 1, 0x0, 1, false, fun _ _ _ => MTX_APHZ_A_LO_VALUE⟩,
  ⟨0x80054, 0x0, 1, 0x0, 1, false, fun _ _ _ => MTX_APHZ_A_HI_VALUE⟩,
  ⟨0x80058, 0x0, 1, 0x0, 1, false, fun _ _ _ => MTX_APHZ_B_LO_VALUE⟩,
  ⟨0x8005C, 0x0, 1, 0x0, 1, false, fun _ _ _ => MTX_APHZ_B_HI_VALUE⟩]

def rowsMtx2 : List RegRow := [
  ⟨0x80060, 0x0, 1, 0x0, 1, false, fun _ _ _ => MTX_PEERSTATE_STATE⟩,
  ⟨0x80060, 0x0, 1, 0x0, 1, false, fun _ _ _ => MTX_PEERSTATE_ZONE⟩,
  ⟨0x80060, 0x0, 1, 0x0, 1, false, fun _ _ _ => MTX_PEERSTATE_FLAGS⟩,
  ⟨0x80060, 0x0, 1, 0x0, 1, false, fun _ _ _ => MTX_PEERSTATE_AGE⟩,
  ⟨0x80064, 0x0, 1, 0x0, 1, false, fun _ _ _ => MTX_CMD_END⟩,
  ⟨0x80064, 0x0, 1, 0x0, 1, false, fun _ _ _ => MTX_CMD_CLRQ⟩,
  ⟨0x80064, 0x0, 1, 0x0, 1, false, fun _ _ _ => MTX_CMD_RESYNC⟩]

/-- The field rows of one block. -/
def rowsMtx : List RegRow := rowsMtx0 ++ rowsMtx1 ++ rowsMtx2

def rowsDsp0 : List RegRow := [
  ⟨0x90000, 0x0, 1, 0x0, 1, false, fun _ _ _ => DSP_STATUS_INSERV⟩,
  ⟨0x90000, 0x0, 1, 0x0, 1, false, fun _ _ _ => DSP_STATUS_OUT⟩,
  ⟨0x90000, 0x0, 1, 0x0, 1, false, fun _ _ _ => DSP_STATUS_ROLLING⟩,
  ⟨0x90000, 0x0, 1, 0x0, 1, false, fun _ _ _ => DSP_STATUS_ROLL_PAUSED⟩,
  ⟨0x90004, 0x0, 1, 0x0, 1, false, fun _ _ _ => DSP_CTRL_STEAL_EN⟩,
  ⟨0x90004, 0x0, 1, 0x0, 1, false, fun _ _ _ => DSP_CTRL_TMO_IRQ⟩,
  ⟨0x90004, 0x0, 1, 0x0, 1, false, fun _ _ _ => DSP_CTRL_QUIESCE_BEATS⟩,
  ⟨0x90008, 0x0, 1, 0x0, 1, false, fun _ _ _ => DSP_ROLL_GO⟩,
  ⟨0x90008, 0x0, 1, 0x0, 1, false, fun _ _ _ => DSP_ROLL_ABORT⟩,
  ⟨0x90008, 0x0, 1, 0x0, 1, false, fun _ _ _ => DSP_ROLL_MAXOUT⟩,
  ⟨0x9000C, 0x0, 1, 0x0, 1, false, fun _ _ _ => DSP_ROLLST_DONE⟩,
  ⟨0x9000C, 0x0, 1, 0x0, 1, false, fun _ _ _ => DSP_ROLLST_FTILE⟩,
  ⟨0x9000C, 0x0, 1, 0x0, 1, false, fun _ _ _ => DSP_ROLLST_RESULT⟩,
  ⟨0x90010, 0x4, 8, 0x0, 1, false, fun i _ a => DSP_SUB_BYTES i a⟩,
  ⟨0x90030, 0x0, 1, 0x0, 1, false, fun _ _ _ => DSP_SUB_GO_TILE⟩,
  ⟨0x90030, 0x0, 1, 0x0, 1, false, fun _ _ _ => DSP_SUB_GO_GO⟩,
  ⟨0x90034, 0x0, 1, 0x0, 1, false, fun _ _ a => DSP_SUB_ST_RESULT a⟩,
  ⟨0x90038, 0x0, 1, 0x0, 1, false, fun _ _ a => DSP_SUB_TID_TID a⟩,
  ⟨0x9003C, 0x0, 1, 0x0, 1, false, fun _ _ a => DSP_CPL_TID_TID a⟩,
  ⟨0x90040, 0x0, 1, 0x0, 1, false, fun _ _ a => DSP_CPL_ST_STATUS a⟩,
  ⟨0x90040, 0x0, 1, 0x0, 1, false, fun _ _ a => DSP_CPL_ST_VALID a⟩,
  ⟨0x90040, 0x0, 1, 0x0, 1, false, fun _ _ a => DSP_CPL_ST_DEPTH a⟩,
  ⟨0x90040, 0x0, 1, 0x0, 1, false, fun _ _ a => DSP_CPL_ST_POP a⟩,
  ⟨0x90044, 0x0, 1, 0x0, 1, false, fun _ _ _ => DSP_CANCEL_TID⟩,
  ⟨0x90048, 0x0, 1, 0x0, 1, false, fun _ _ _ => DSP_STEALCNT_STEALS⟩]

def rowsDsp1 : List RegRow := [
  ⟨0x9004C, 0x0, 1, 0x0, 1, false, fun _ _ _ => DSP_TMOCNT_TIMEOUTS⟩,
  ⟨0x9004C, 0x0, 1, 0x0, 1, false, fun _ _ _ => DSP_TMOCNT_SUPPRESSED⟩,
  ⟨0x90050, 0x0, 1, 0x0, 1, false, fun _ _ _ => DSP_OUT_LO_TILES⟩,
  ⟨0x90054, 0x0, 1, 0x0, 1, false, fun _ _ _ => DSP_OUT_HI_TILES⟩]

/-- The field rows of one block. -/
def rowsDsp : List RegRow := rowsDsp0 ++ rowsDsp1

def rowsSeq0 : List RegRow := [
  ⟨0xA0000, 0x0, 1, 0x0, 1, false, fun _ _ _ => SEQ_STATUS_PHASE⟩,
  ⟨0xA0000, 0x0, 1, 0x0, 1, false, fun _ _ _ => SEQ_STATUS_ABANDONS⟩,
  ⟨0xA0000, 0x0, 1, 0x0, 1, false, fun _ _ _ => SEQ_STATUS_TABLE⟩,
  ⟨0xA0000, 0x0, 1, 0x0, 1, false, fun _ _ _ => SEQ_STATUS_CORESTOP⟩,
  ⟨0xA0000, 0x0, 1, 0x0, 1, false, fun _ _ _ => SEQ_STATUS_RAILPFW⟩,
  ⟨0xA0000, 0x0, 1, 0x0, 1, false, fun _ _ _ => SEQ_STATUS_RFAULT⟩,
  ⟨0xA0000, 0x0, 1, 0x0, 1, false, fun _ _ _ => SEQ_STATUS_DFAULT⟩,
  ⟨0xA0000, 0x0, 1, 0x0, 1, false, fun _ _ _ => SEQ_STATUS_WSAT⟩,
  ⟨0xA0000, 0x0, 1, 0x0, 1, false, fun _ _ _ => SEQ_STATUS_BANK_D⟩,
  ⟨0xA0000, 0x0, 1, 0x0, 1, false, fun _ _ _ => SEQ_STATUS_BANK_S⟩,
  ⟨0xA0000, 0x0, 1, 0x0, 1, false, fun _ _ _ => SEQ_STATUS_CMDREF⟩,
  ⟨0xA0000, 0x0, 1, 0x0, 1, false, fun _ _ _ => SEQ_STATUS_LASTRAIL⟩,
  ⟨0xA0004, 0x0, 1, 0x0, 1, false, fun _ _ _ => SEQ_CTRL_FAULT_IRQ⟩,
  ⟨0xA0004, 0x0, 1, 0x0, 1, false, fun _ _ _ => SEQ_CTRL_WARN_IRQ⟩,
  ⟨0xA0004, 0x0, 1, 0x0, 1, false, fun _ _ _ => SEQ_CTRL_DOM_IRQ⟩,
  ⟨0xA0008, 0x0, 1, 0x0, 1, false, fun _ _ _ => SEQ_CMD_RAIL⟩,
  ⟨0xA0008, 0x0, 1, 0x0, 1, false, fun _ _ _ => SEQ_CMD_REPOWER⟩,
  ⟨0xA0008, 0x0, 1, 0x0, 1, false, fun _ _ _ => SEQ_CMD_ON⟩,
  ⟨0xA0008, 0x0, 1, 0x0, 1, false, fun _ _ _ => SEQ_CMD_OFF⟩,
  ⟨0xA0008, 0x0, 1, 0x0, 1, false, fun _ _ _ => SEQ_CMD_WCLR⟩,
  ⟨0xA000C, 0x0, 1, 0x0, 1, false, fun _ _ _ => SEQ_SCAN_N⟩,
  ⟨0xA000C, 0x0, 1, 0x0, 1, false, fun _ _ _ => SEQ_SCAN_S⟩,
  ⟨0xA0010, 0x0, 1, 0x0, 1, false, fun _ _ _ => SEQ_BANKMON_DFLOOR⟩,
  ⟨0xA0010, 0x0, 1, 0x0, 1, false, fun _ _ _ => SEQ_BANKMON_SFLOOR⟩,
  ⟨0xA0010, 0x0, 1, 0x0, 1, false, fun _ _ _ => SEQ_BANKMON_HYST⟩]

def rowsSeq1 : List RegRow := [
  ⟨0xA0010, 0x0, 1, 0x0, 1, false, fun _ _ _ => SEQ_BANKMON_DEGLITCH⟩,
  ⟨0xA0014, 0x0, 1, 0x0, 1, false, fun _ _ _ => SEQ_DROOP_DROOP_MV⟩,
  ⟨0xA0018, 0x0, 1, 0x0, 1, false, fun _ _ _ => SEQ_RST_ASSERTED⟩,
  ⟨0xA0018, 0x0, 1, 0x0, 1, false, fun _ _ _ => SEQ_RST_STRETCHING⟩,
  ⟨0xA0020, 0x4, 3, 0x0, 1, false, fun i _ _ => SEQ_DOMON_DOMAINS i⟩,
  ⟨0xA002C, 0x4, 3, 0x0, 1, false, fun i _ _ => SEQ_DOMFAIL_DOMAINS i⟩,
  ⟨0xA0038, 0x0, 1, 0x0, 1, false, fun _ _ _ => SEQ_SNAP_LAST_SLOT⟩,
  ⟨0xA0038, 0x0, 1, 0x0, 1, false, fun _ _ _ => SEQ_SNAP_LAST_VALID⟩,
  ⟨0xA0038, 0x0, 1, 0x0, 1, false, fun _ _ _ => SEQ_SNAP_LAST_GEN⟩,
  ⟨0xA003C, 0x0, 1, 0x0, 1, false, fun _ _ _ => SEQ_SNAP_SEL_SLOT⟩,
  ⟨0xA003C, 0x0, 1, 0x0, 1, false, fun _ _ _ => SEQ_SNAP_SEL_WORD⟩,
  ⟨0xA0040, 0x0, 1, 0x0, 1, false, fun _ _ _ => SEQ_SNAP_DATA_DATA⟩,
  ⟨0xA0100, 0x4, 48, 0x0, 1, false, fun i _ _ => SEQ_RAIL_STATE i⟩,
  ⟨0xA0100, 0x4, 48, 0x0, 1, false, fun i _ _ => SEQ_RAIL_ORDER i⟩,
  ⟨0xA0100, 0x4, 48, 0x0, 1, false, fun i _ _ => SEQ_RAIL_WARN i⟩,
  ⟨0xA0100, 0x4, 48, 0x0, 1, false, fun i _ _ => SEQ_RAIL_PG i⟩,
  ⟨0xA0100, 0x4, 48, 0x0, 1, false, fun i _ _ => SEQ_RAIL_WCNT i⟩,
  ⟨0xA0200, 0x4, 64, 0x0, 1, false, fun i _ _ => SEQ_READ_CODE i⟩,
  ⟨0xA0200, 0x4, 64, 0x0, 1, false, fun i _ _ => SEQ_READ_LISTED i⟩,
  ⟨0xA0300, 0x4, 64, 0x0, 1, false, fun i _ _ => SEQ_DROOPCNT_TRIPS i⟩,
  ⟨0xA0300, 0x4, 64, 0x0, 1, false, fun i _ _ => SEQ_DROOPCNT_NOW i⟩]

/-- The field rows of one block. -/
def rowsSeq : List RegRow := rowsSeq0 ++ rowsSeq1

def rowsSti0 : List RegRow := [
  ⟨0xB0000, 0x0, 1, 0x0, 1, false, fun _ _ _ => STI_STATUS_SHADE⟩,
  ⟨0xB0000, 0x0, 1, 0x0, 1, false, fun _ _ _ => STI_STATUS_SWAP⟩,
  ⟨0xB0000, 0x0, 1, 0x0, 1, false, fun _ _ _ => STI_STATUS_ARCH_OK⟩,
  ⟨0xB0000, 0x0, 1, 0x0, 1, false, fun _ _ _ => STI_STATUS_BOOTFALL⟩,
  ⟨0xB0000, 0x0, 1, 0x0, 1, false, fun _ _ _ => STI_STATUS_DONE⟩,
  ⟨0xB0000, 0x0, 1, 0x0, 1, false, fun _ _ _ => STI_STATUS_REFUSED⟩,
  ⟨0xB0000, 0x0, 1, 0x0, 1, false, fun _ _ _ => STI_STATUS_CHANGED⟩,
  ⟨0xB0004, 0x0, 1, 0x0, 1, false, fun _ _ _ => STI_CTRL_DONE_IRQ⟩,
  ⟨0xB0004, 0x0, 1, 0x0, 1, false, fun _ _ _ => STI_CTRL_REF_IRQ⟩,
  ⟨0xB0008, 0x0, 1, 0x0, 1, false, fun _ _ _ => STI_CMD_VALIDATE⟩,
  ⟨0xB0008, 0x0, 1, 0x0, 1, false, fun _ _ _ => STI_CMD_SWAP⟩,
  ⟨0xB0008, 0x0, 1, 0x0, 1, false, fun _ _ _ => STI_CMD_ROLLBACK⟩,
  ⟨0xB0008, 0x0, 1, 0x0, 1, false, fun _ _ _ => STI_CMD_CANCEL⟩,
  ⟨0xB0008, 0x0, 1, 0x0, 1, false, fun _ _ _ => STI_CMD_KEY⟩,
  ⟨0xB000C, 0x0, 1, 0x0, 1, false, fun _ _ _ => STI_REASON_CODE⟩,
  ⟨0xB000C, 0x0, 1, 0x0, 1, false, fun _ _ _ => STI_REASON_SECTION⟩,
  ⟨0xB000C, 0x0, 1, 0x0, 1, false, fun _ _ _ => STI_REASON_OFFSET⟩,
  ⟨0xB0010, 0x0, 1, 0x0, 1, false, fun _ _ _ => STI_GEN_ACT_LO_VALUE⟩,
  ⟨0xB0014, 0x0, 1, 0x0, 1, false, fun _ _ _ => STI_GEN_ACT_HI_VALUE⟩,
  ⟨0xB0018, 0x0, 1, 0x0, 1, false, fun _ _ _ => STI_GEN_SHD_LO_VALUE⟩,
  ⟨0xB001C, 0x0, 1, 0x0, 1, false, fun _ _ _ => STI_GEN_SHD_HI_VALUE⟩,
  ⟨0xB0020, 0x0, 1, 0x0, 1, false, fun _ _ _ => STI_GEN_ARC_LO_VALUE⟩,
  ⟨0xB0024, 0x0, 1, 0x0, 1, false, fun _ _ _ => STI_GEN_ARC_HI_VALUE⟩,
  ⟨0xB0028, 0x0, 1, 0x0, 1, false, fun _ _ _ => STI_SWAPBEAT_LO_VALUE⟩,
  ⟨0xB002C, 0x0, 1, 0x0, 1, false, fun _ _ _ => STI_SWAPBEAT_HI_VALUE⟩]

/-- The field rows of one block. -/
def rowsSti : List RegRow := rowsSti0

def rowsCfl0 : List RegRow := [
  ⟨0xC0000, 0x0, 1, 0x0, 1, false, fun _ _ _ => CFL_STATUS_BUSY⟩,
  ⟨0xC0000, 0x0, 1, 0x0, 1, false, fun _ _ _ => CFL_STATUS_OWNER⟩,
  ⟨0xC0000, 0x0, 1, 0x0, 1, false, fun _ _ _ => CFL_STATUS_SCAN⟩,
  ⟨0xC0000, 0x0, 1, 0x0, 1, false, fun _ _ _ => CFL_STATUS_SECTOR⟩,
  ⟨0xC0004, 0x0, 1, 0x0, 1, false, fun _ _ _ => CFL_CTRL_COMPAT⟩,
  ⟨0xC0004, 0x0, 1, 0x0, 1, false, fun _ _ _ => CFL_CTRL_ERR_IRQ⟩,
  ⟨0xC0008, 0x0, 1, 0x0, 1, false, fun _ _ a => CFL_RESULT_CODE a⟩,
  ⟨0xC0008, 0x0, 1, 0x0, 1, false, fun _ _ a => CFL_RESULT_BUSY a⟩,
  ⟨0xC0008, 0x0, 1, 0x0, 1, false, fun _ _ a => CFL_RESULT_VALID a⟩,
  ⟨0xC0008, 0x0, 1, 0x0, 1, false, fun _ _ a => CFL_RESULT_SECTOR a⟩,
  ⟨0xC000C, 0x0, 1, 0x0, 1, false, fun _ _ _ => CFL_BOOT_BLOCK⟩,
  ⟨0xC000C, 0x0, 1, 0x0, 1, false, fun _ _ _ => CFL_BOOT_TWIN⟩,
  ⟨0xC000C, 0x0, 1, 0x0, 1, false, fun _ _ _ => CFL_BOOT_NOSEL⟩,
  ⟨0xC000C, 0x0, 1, 0x0, 1, false, fun _ _ _ => CFL_BOOT_SELGEN⟩,
  ⟨0xC0010, 0x0, 1, 0x0, 1, false, fun _ _ _ => CFL_BOOTCMD_BLOCK⟩,
  ⟨0xC0010, 0x0, 1, 0x0, 1, false, fun _ _ _ => CFL_BOOTCMD_GO⟩,
  ⟨0xC0010, 0x0, 1, 0x0, 1, false, fun _ _ _ => CFL_BOOTCMD_KEY⟩,
  ⟨0xC0014, 0x0, 1, 0x0, 1, false, fun _ _ _ => CFL_COMPAT_KEY_VALUE⟩,
  ⟨0xC0018, 0x0, 1, 0x0, 1, false, fun _ _ _ => CFL_COMPAT_CMD_VALUE⟩,
  ⟨0xC001C, 0x0, 1, 0x0, 1, false, fun _ _ _ => CFL_COMPAT_ADDR_VALUE⟩,
  ⟨0xC0020, 0x0, 1, 0x0, 1, false, fun _ _ _ => CFL_COMPAT_DATA_VALUE⟩,
  ⟨0xC0024, 0x0, 1, 0x0, 1, false, fun _ _ _ => CFL_COMPAT_STAT_CODE⟩,
  ⟨0xC0024, 0x0, 1, 0x0, 1, false, fun _ _ _ => CFL_COMPAT_STAT_ERR⟩,
  ⟨0xC0024, 0x0, 1, 0x0, 1, false, fun _ _ _ => CFL_COMPAT_STAT_READY⟩,
  ⟨0xC0028, 0x0, 1, 0x0, 1, false, fun _ _ _ => CFL_XOREAD_COUNT⟩]

def rowsCfl1 : List RegRow := [
  ⟨0xC0040, 0x4, 32, 0x0, 1, false, fun i _ _ => CFL_FLAG_FLAGS i⟩]

/-- The field rows of one block. -/
def rowsCfl : List RegRow := rowsCfl0 ++ rowsCfl1

def rowsDge0 : List RegRow := [
  ⟨0xD0000, 0x0, 1, 0x0, 1, false, fun _ _ _ => DGE_STATUS_OWNER⟩,
  ⟨0xD0000, 0x0, 1, 0x0, 1, false, fun _ _ _ => DGE_STATUS_PRIO⟩,
  ⟨0xD0000, 0x0, 1, 0x0, 1, false, fun _ _ _ => DGE_STATUS_BUSY⟩,
  ⟨0xD0000, 0x0, 1, 0x0, 1, false, fun _ _ _ => DGE_STATUS_CTXUSED⟩,
  ⟨0xD0004, 0x0, 1, 0x0, 1, false, fun _ _ _ => DGE_CTRL_EVICT_IRQ⟩,
  ⟨0xD0004, 0x0, 1, 0x0, 1, false, fun _ _ _ => DGE_CTRL_KEY_IRQ⟩,
  ⟨0xD0008, 0x0, 1, 0x0, 1, false, fun _ _ _ => DGE_CMD_START⟩,
  ⟨0xD0008, 0x0, 1, 0x0, 1, false, fun _ _ _ => DGE_CMD_RESUME⟩,
  ⟨0xD0008, 0x0, 1, 0x0, 1, false, fun _ _ _ => DGE_CMD_ABORT⟩,
  ⟨0xD0008, 0x0, 1, 0x0, 1, false, fun _ _ _ => DGE_CMD_ALG⟩,
  ⟨0xD0008, 0x0, 1, 0x0, 1, false, fun _ _ _ => DGE_CMD_CTX⟩,
  ⟨0xD0008, 0x0, 1, 0x0, 1, false, fun _ _ _ => DGE_CMD_KEYSLOT⟩,
  ⟨0xD000C, 0x0, 1, 0x0, 1, false, fun _ _ a => DGE_LEN_LEN a⟩,
  ⟨0xD0010, 0x0, 1, 0x0, 1, false, fun _ _ _ => DGE_DATA_WORD⟩,
  ⟨0xD0014, 0x0, 1, 0x0, 1, false, fun _ _ a => DGE_AGENT_STATE a⟩,
  ⟨0xD0014, 0x0, 1, 0x0, 1, false, fun _ _ a => DGE_AGENT_BUSY a⟩,
  ⟨0xD0014, 0x0, 1, 0x0, 1, false, fun _ _ a => DGE_AGENT_STATUS a⟩,
  ⟨0xD0014, 0x0, 1, 0x0, 1, false, fun _ _ a => DGE_AGENT_CTX a⟩,
  ⟨0xD0018, 0x0, 1, 0x0, 1, false, fun _ _ a => DGE_FED_BYTES a⟩,
  ⟨0xD001C, 0x0, 1, 0x0, 1, false, fun _ _ _ => DGE_RES_TAG_SEQ⟩,
  ⟨0xD001C, 0x0, 1, 0x0, 1, false, fun _ _ _ => DGE_RES_TAG_ALG⟩,
  ⟨0xD001C, 0x0, 1, 0x0, 1, false, fun _ _ _ => DGE_RES_TAG_AGENT⟩,
  ⟨0xD0020, 0x4, 12, 0x0, 1, false, fun i _ _ => DGE_RES_DIGEST i⟩,
  ⟨0xD0050, 0x4, 4, 0x0, 1, false, fun i _ _ => DGE_CTX_VALID i⟩,
  ⟨0xD0050, 0x4, 4, 0x0, 1, false, fun i _ _ => DGE_CTX_KEYED i⟩]

def rowsDge1 : List RegRow := [
  ⟨0xD0050, 0x4, 4, 0x0, 1, false, fun i _ _ => DGE_CTX_AGENT i⟩,
  ⟨0xD0050, 0x4, 4, 0x0, 1, false, fun i _ _ => DGE_CTX_PRIO i⟩,
  ⟨0xD0060, 0x0, 1, 0x0, 1, false, fun _ _ _ => DGE_KEYCMD_OP⟩,
  ⟨0xD0060, 0x0, 1, 0x0, 1, false, fun _ _ _ => DGE_KEYCMD_SLOT⟩,
  ⟨0xD0060, 0x0, 1, 0x0, 1, false, fun _ _ _ => DGE_KEYCMD_KEY⟩,
  ⟨0xD0064, 0x0, 1, 0x0, 1, false, fun _ _ _ => DGE_KEYST_CODE⟩,
  ⟨0xD0064, 0x0, 1, 0x0, 1, false, fun _ _ _ => DGE_KEYST_BUSY⟩,
  ⟨0xD0070, 0x4, 14, 0x0, 1, false, fun i _ _ => DGE_KEYIO_BYTES i⟩,
  ⟨0xD0100, 0x4, 32, 0x0, 1, false, fun i _ _ => DGE_SLOT_LOADED i⟩,
  ⟨0xD0100, 0x4, 32, 0x0, 1, false, fun i _ _ => DGE_SLOT_LOCKED i⟩,
  ⟨0xD0100, 0x4, 32, 0x0, 1, false, fun i _ _ => DGE_SLOT_USE i⟩,
  ⟨0xD0100, 0x4, 32, 0x0, 1, false, fun i _ _ => DGE_SLOT_POLICY i⟩,
  ⟨0xD0100, 0x4, 32, 0x0, 1, false, fun i _ _ => DGE_SLOT_GEN i⟩]

/-- The field rows of one block. -/
def rowsDge : List RegRow := rowsDge0 ++ rowsDge1

def rowsEvr0 : List RegRow := [
  ⟨0xE0000, 0x0, 1, 0x0, 1, false, fun _ _ _ => EVR_STATUS_COUNT⟩,
  ⟨0xE0000, 0x0, 1, 0x0, 1, false, fun _ _ _ => EVR_STATUS_CLEARED⟩,
  ⟨0xE0000, 0x0, 1, 0x0, 1, false, fun _ _ _ => EVR_STATUS_CLRREF⟩,
  ⟨0xE0000, 0x0, 1, 0x0, 1, false, fun _ _ _ => EVR_STATUS_COPYABN⟩,
  ⟨0xE0000, 0x0, 1, 0x0, 1, false, fun _ _ _ => EVR_STATUS_SEVIRQ⟩,
  ⟨0xE0004, 0x0, 1, 0x0, 1, false, fun _ _ _ => EVR_CTRL_IRQ_SEV⟩,
  ⟨0xE0004, 0x0, 1, 0x0, 1, false, fun _ _ _ => EVR_CTRL_IRQ_EN⟩,
  ⟨0xE0008, 0x0, 1, 0x0, 1, true, fun _ _ _ => EVR_RPTWIN_BEATS⟩,
  ⟨0xE000C, 0x0, 1, 0x0, 1, false, fun _ _ _ => EVR_HEAD_SEQ⟩,
  ⟨0xE0010, 0x0, 1, 0x0, 1, false, fun _ _ _ => EVR_TAIL_SEQ⟩,
  ⟨0xE0014, 0x0, 1, 0x0, 1, false, fun _ _ _ => EVR_CLRSEQ_SEQ⟩,
  ⟨0xE0018, 0x0, 1, 0x0, 1, false, fun _ _ _ => EVR_COPYSEQ_SEQ⟩,
  ⟨0xE001C, 0x0, 1, 0x0, 1, false, fun _ _ a => EVR_CURSOR_SEQ a⟩,
  ⟨0xE0020, 0x0, 1, 0x0, 1, false, fun _ _ a => EVR_WSTAT_GEN a⟩,
  ⟨0xE0020, 0x0, 1, 0x0, 1, false, fun _ _ a => EVR_WSTAT_MATCH a⟩,
  ⟨0xE0024, 0x0, 1, 0x0, 1, false, fun _ _ _ => EVR_SEVQ_CODE⟩,
  ⟨0xE0024, 0x0, 1, 0x0, 1, false, fun _ _ _ => EVR_SEVQ_SEV⟩,
  ⟨0xE0024, 0x0, 1, 0x0, 1, false, fun _ _ _ => EVR_SEVQ_KNOWN⟩,
  ⟨0xE0040, 0x4, 16, 0x0, 1, false, fun i _ a => EVR_WIN_WORD i a⟩,
  ⟨0xE0080, 0x0, 1, 0x0, 1, false, fun _ _ _ => EVR_CLR_CMD_CHALLENGE⟩,
  ⟨0xE0080, 0x0, 1, 0x0, 1, false, fun _ _ _ => EVR_CLR_CMD_CLEAR⟩,
  ⟨0xE0080, 0x0, 1, 0x0, 1, false, fun _ _ _ => EVR_CLR_CMD_KEY⟩,
  ⟨0xE0084, 0x0, 1, 0x0, 1, false, fun _ _ _ => EVR_CLR_ST_STATE⟩,
  ⟨0xE0084, 0x0, 1, 0x0, 1, false, fun _ _ _ => EVR_CLR_ST_AGENT⟩,
  ⟨0xE0088, 0x0, 1, 0x0, 1, false, fun _ _ _ => EVR_CLR_HEAD_SEQ⟩]

def rowsEvr1 : List RegRow := [
  ⟨0xE00A0, 0x4, 8, 0x0, 1, false, fun i _ _ => EVR_CHAL_BYTES i⟩,
  ⟨0xE00C0, 0x4, 8, 0x0, 1, false, fun i _ a => EVR_RESP_BYTES i a⟩]

/-- The field rows of one block. -/
def rowsEvr : List RegRow := rowsEvr0 ++ rowsEvr1

def rowsStw0 : List RegRow := [
  ⟨0xF0000, 0x0, 1, 0x0, 1, false, fun _ _ _ => STW_STATUS_RUN⟩,
  ⟨0xF0000, 0x0, 1, 0x0, 1, false, fun _ _ _ => STW_STATUS_BLOCK⟩,
  ⟨0xF0000, 0x0, 1, 0x0, 1, false, fun _ _ _ => STW_STATUS_UPD⟩,
  ⟨0xF0000, 0x0, 1, 0x0, 1, false, fun _ _ _ => STW_STATUS_RESTARTS⟩,
  ⟨0xF0004, 0x0, 1, 0x0, 1, false, fun _ _ _ => STW_CTRL_WDOG_MS⟩,
  ⟨0xF0004, 0x0, 1, 0x0, 1, false, fun _ _ _ => STW_CTRL_CONFIRM_S⟩,
  ⟨0xF0004, 0x0, 1, 0x0, 1, false, fun _ _ _ => STW_CTRL_PLDM_SEV⟩,
  ⟨0xF0008, 0x0, 1, 0x0, 1, false, fun _ _ _ => STW_CMD_RESTART⟩,
  ⟨0xF0008, 0x0, 1, 0x0, 1, false, fun _ _ _ => STW_CMD_CONFIRM⟩,
  ⟨0xF0008, 0x0, 1, 0x0, 1, false, fun _ _ _ => STW_CMD_KICK⟩,
  ⟨0xF0008, 0x0, 1, 0x0, 1, false, fun _ _ _ => STW_CMD_KEY⟩,
  ⟨0xF0010, 0x0, 1, 0x0, 1, false, fun _ _ _ => STW_FWVER_LO_VALUE⟩,
  ⟨0xF0014, 0x0, 1, 0x0, 1, false, fun _ _ _ => STW_FWVER_HI_VALUE⟩,
  ⟨0xF0018, 0x0, 1, 0x0, 1, false, fun _ _ _ => STW_WALL_BEAT_LO_VALUE⟩,
  ⟨0xF001C, 0x0, 1, 0x0, 1, false, fun _ _ _ => STW_WALL_BEAT_HI_VALUE⟩,
  ⟨0xF0020, 0x0, 1, 0x0, 1, false, fun _ _ _ => STW_WALL_SEC_LO_VALUE⟩,
  ⟨0xF0024, 0x0, 1, 0x0, 1, false, fun _ _ _ => STW_WALL_SEC_HI_VALUE⟩,
  ⟨0xF0028, 0x0, 1, 0x0, 1, false, fun _ _ _ => STW_TLIM_WARN⟩,
  ⟨0xF0028, 0x0, 1, 0x0, 1, false, fun _ _ _ => STW_TLIM_CRIT⟩,
  ⟨0xF0028, 0x0, 1, 0x0, 1, false, fun _ _ _ => STW_TLIM_HYST⟩,
  ⟨0xF0040, 0x4, 16, 0x0, 1, false, fun i _ _ => STW_TEMP_TEMP i⟩,
  ⟨0xF0040, 0x4, 16, 0x0, 1, false, fun i _ _ => STW_TEMP_VALID i⟩,
  ⟨0xF0040, 0x4, 16, 0x0, 1, false, fun i _ _ => STW_TEMP_ALARM i⟩,
  ⟨0xF0080, 0x4, 4, 0x0, 1, false, fun i _ _ => STW_VMON_MV i⟩,
  ⟨0xF0100, 0x0, 1, 0x0, 1, false, fun _ _ _ => STW_MBX_CMD_OP⟩]

def rowsStw1 : List RegRow := [
  ⟨0xF0104, 0x0, 1, 0x0, 1, false, fun _ _ _ => STW_MBX_STAT_CODE⟩,
  ⟨0xF0104, 0x0, 1, 0x0, 1, false, fun _ _ _ => STW_MBX_STAT_DONE⟩,
  ⟨0xF0108, 0x4, 4, 0x0, 1, false, fun i _ _ => STW_MBX_ARG_ARG i⟩,
  ⟨0xF0200, 0x4, 256, 0x0, 1, false, fun i _ _ => STW_MBX_DATA_BYTES i⟩]

/-- The field rows of one block. -/
def rowsStw : List RegRow := rowsStw0 ++ rowsStw1

def rowsTil0 : List RegRow := [
  ⟨0x100000, 0x4000, 64, 0x0, 1, false, fun i _ _ => TIL_STATUS_STATE i⟩,
  ⟨0x100000, 0x4000, 64, 0x0, 1, false, fun i _ _ => TIL_STATUS_POOLS i⟩,
  ⟨0x100000, 0x4000, 64, 0x0, 1, false, fun i _ _ => TIL_STATUS_QUEUE i⟩,
  ⟨0x100000, 0x4000, 64, 0x0, 1, false, fun i _ _ => TIL_STATUS_BUSY i⟩,
  ⟨0x100004, 0x4000, 64, 0x0, 1, false, fun i _ _ => TIL_MCVER_VERSION i⟩,
  ⟨0x100008, 0x4000, 64, 0x0, 1, false, fun i _ _ => TIL_CMD_QUIESCE i⟩,
  ⟨0x100008, 0x4000, 64, 0x0, 1, false, fun i _ _ => TIL_CMD_RETURN i⟩,
  ⟨0x100010, 0x4000, 64, 0x4, 8, false, fun i j _ => TIL_READY_COUNT i j⟩,
  ⟨0x100030, 0x4000, 64, 0x0, 1, false, fun i _ _ => TIL_WAITS_WAITS i⟩,
  ⟨0x100034, 0x4000, 64, 0x0, 1, false, fun i _ _ => TIL_TSERR_CORR i⟩,
  ⟨0x100034, 0x4000, 64, 0x0, 1, false, fun i _ _ => TIL_TSERR_UNCORR i⟩]

/-- The field rows of one block. -/
def rowsTil : List RegRow := rowsTil0

def rowsMsix0 : List RegRow := [
  ⟨0x200000, 0x10, 64, 0x0, 1, false, fun i _ a => MSIX_ADDR_LO i a⟩,
  ⟨0x200004, 0x10, 64, 0x0, 1, false, fun i _ a => MSIX_UADDR_HI i a⟩,
  ⟨0x200008, 0x10, 64, 0x0, 1, false, fun i _ a => MSIX_DATA_DATA i a⟩,
  ⟨0x20000C, 0x10, 64, 0x0, 1, false, fun i _ a => MSIX_CTL_MASK i a⟩,
  ⟨0x201000, 0x4, 2, 0x0, 1, false, fun i _ a => MSIX_PBA_PENDING i a⟩]

/-- The field rows of one block. -/
def rowsMsix : List RegRow := rowsMsix0

/-- The rows of the block that holds an offset (R470). -/
def rowsOf (off : Nat) : List RegRow :=
  match off / 0x10000 with
  | 0 => rowsGlb
  | 1 => rowsPq
  | 2 => rowsCch
  | 3 => rowsLdg
  | 4 => rowsCtl
  | 5 => rowsDrn
  | 6 => rowsVlt
  | 7 => rowsMlk
  | 8 => rowsMtx
  | 9 => rowsDsp
  | 10 => rowsSeq
  | 11 => rowsSti
  | 12 => rowsCfl
  | 13 => rowsDge
  | 14 => rowsEvr
  | 15 => rowsStw
  | n => if n < 0x20 then rowsTil else if n = 0x20 then rowsMsix else []

/-- The fields at an offset, as an agent meets them: none at an unassigned offset. -/
def fieldsAt (ag : Agent) (off : Nat) : List (Fld × Bool) :=
  (rowsOf off).filterMap fun r => (r.find off).map fun ij => (r.fld ij.1 ij.2 ag, r.bound)

end Sys2Proof.Machine
end

