-- ==== Sys2Proof/Machine/Flags.lean ====
section
/-! DEFINITION. The fixed tables of events and interrupts: severities (R462), the interrupt source an event raises and
the enable field of a source (R480). -/

namespace Sys2Proof.Machine

/-- Codes of severity 3 (R462). -/
def sev3Codes : List Nat := [0x0404, 0x0608, 0x0712, 0x0B0A]

/-- Codes of severity 2 (R462). -/
def sev2Codes : List Nat := [0x0302, 0x0308, 0x040A, 0x0503, 0x0609, 0x060A, 0x060D, 0x070A, 0x0715, 0x0716, 0x0808,
  0x0904, 0x0908, 0x0A08, 0x0A0B, 0x0A0C, 0x0B03, 0x0B07, 0x0B0B, 0x0B0C, 0x0B0E, 0x1007]

/-- Codes of severity 1 (R462). -/
def sev1Codes : List Nat := [0x0101, 0x0110, 0x0201, 0x0202, 0x0203, 0x0204, 0x0205, 0x0207, 0x0303, 0x0306, 0x0307,
  0x0309, 0x030B, 0x030C, 0x0401, 0x0402, 0x0405, 0x0407, 0x0408, 0x040B, 0x040C, 0x0504, 0x0505, 0x0506, 0x0508,
  0x0509, 0x050A, 0x050D, 0x0601, 0x0603, 0x0605] ++ [0x0703, 0x0706, 0x0707, 0x0708, 0x0709, 0x070C, 0x0711, 0x0718,
  0x0719, 0x0802, 0x0803, 0x0804, 0x0805, 0x0806, 0x0807, 0x0902, 0x0903, 0x0909, 0x090A, 0x090B, 0x090C, 0x090D,
  0x090E, 0x090F, 0x0914, 0x0916, 0x0917, 0x0A04, 0x0A07, 0x0A09, 0x0A0A, 0x0A0D, 0x0A0E] ++ [0x0B04, 0x0B08, 0x0B09,
  0x0B0D, 0x0B0F, 0x0B10, 0x0B11, 0x0C02, 0x0C06, 0x0C08, 0x0D01, 0x0D02, 0x0D03, 0x0D04, 0x0D05, 0x0D06, 0x0D07,
  0x0E01, 0x0E03, 0x0E04, 0x0F02, 0x0F04, 0x1002, 0x1004, 0x1005, 0x1006, 0x1008]

/-- Codes of severity 0 (R462). -/
def sev0Codes : List Nat := [0x0111, 0x0206, 0x0304, 0x0305, 0x030A, 0x0403, 0x0406, 0x0409, 0x0501, 0x0502, 0x0507,
  0x050B, 0x050C, 0x050E, 0x0602, 0x0606, 0x0607, 0x060B, 0x060C, 0x0701, 0x0704, 0x0705, 0x070E, 0x0713, 0x0714,
  0x0717, 0x0801, 0x0901, 0x0910, 0x0911, 0x0913] ++ [0x0A01, 0x0A02, 0x0A03, 0x0A06, 0x0B01, 0x0B02, 0x0B05, 0x0B06,
  0x0B12, 0x0C01, 0x0C03, 0x0C05, 0x0C07, 0x0C09, 0x0E02, 0x0F01, 0x1001, 0x1003, 0x1009]

/-- The severity of an event code (R462): a code under no severity of 1 or above has severity 0. -/
def severity (code : Nat) : Nat :=
  if sev3Codes.contains code then 3 else if sev2Codes.contains code then 2
  else if sev1Codes.contains code then 1 else 0

/-- The code is one the spec defines (EVR_SEVQ.KNOWN). -/
def knownCode (code : Nat) : Bool :=
  sev3Codes.contains code || sev2Codes.contains code || sev1Codes.contains code || sev0Codes.contains code

/-- The interrupt source that an event raises by its code (R480, the rows of the table that name events). -/
def eventSource (code : Nat) : Option Nat :=
  if code = 0x0305 ∨ code = 0x0306 ∨ code = 0x0307 then some 8
  else if code = 0x0711 ∨ code = 0x0712 ∨ code = 0x0713 ∨ code = 0x0714 ∨ code = 0x0716 ∨ code = 0x0719 then some 31
  else if code = 0x0110 ∨ code = 0x0111 then some 32
  else if code = 0x1002 ∨ code = 0x1005 then some 34
  else if code = 0x0D01 ∨ code = 0x0D02 ∨ code = 0x0D05 then some 27
  else if code = 0x0E03 ∨ code = 0x0E04 then some 29
  else none

/-- The block enable field of an interrupt source; source 8 has none and is always enabled (R480). -/
def enableField (n : Nat) : Option Fld :=
  match n with
  | 0 => some DRN_CTRL_GRACE_IRQ | 1 => some DRN_CTRL_DRAIN_IRQ | 2 => some DRN_CTRL_CROWN_IRQ
  | 3 => some PQ_CTRL_HZ_IRQ | 4 => some PQ_CTRL_HZ_IRQ
  | 5 => some PQ_CTRL_HELD_IRQ | 6 => some PQ_CTRL_HELD_IRQ | 7 => some PQ_CTRL_AAMF_IRQ
  | 9 => some LDG_CTRL_UMBER_IRQ | 10 => some LDG_CTRL_OCHRE_IRQ | 11 => some LDG_CTRL_DEFICIT_IRQ
  | 12 => some CTL_CTRL_FAULT_IRQ | 13 => some CTL_CTRL_HT_IRQ
  | 14 => some VLT_CTRL_MOD_IRQ | 15 => some VLT_CTRL_UNREC_IRQ
  | 16 => some MLK_CTRL_DOWN_IRQ | 17 => some MLK_CTRL_DEGR_IRQ
  | 18 => some MTX_CTRL_SESS_IRQ | 19 => some MTX_CTRL_FAULT_IRQ | 20 => some MTX_CTRL_ADOPT_IRQ
  | 21 => some DSP_CTRL_TMO_IRQ
  | 22 => some SEQ_CTRL_FAULT_IRQ | 23 => some SEQ_CTRL_WARN_IRQ | 24 => some SEQ_CTRL_DOM_IRQ
  | 25 => some STI_CTRL_DONE_IRQ | 26 => some STI_CTRL_REF_IRQ
  | 27 => some CFL_CTRL_ERR_IRQ
  | 28 => some DGE_CTRL_EVICT_IRQ | 29 => some DGE_CTRL_KEY_IRQ
  | 30 => some EVR_CTRL_IRQ_EN
  | 31 => some GLB_CTRL_RST_IRQ | 32 => some GLB_CTRL_BEAT_IRQ | 33 => some GLB_CTRL_THERM_IRQ
  | 34 => some GLB_CTRL_STW_IRQ
  | _ => none

/-- The vector field of an interrupt source for an agent (GLB_VECMAPk). -/
def vectorField (n : Nat) (a : Agent) : Fld :=
  match n % 4 with
  | 0 => GLB_VECMAP_VEC_0 (n / 4) a
  | 1 => GLB_VECMAP_VEC_1 (n / 4) a
  | 2 => GLB_VECMAP_VEC_2 (n / 4) a
  | _ => GLB_VECMAP_VEC_3 (n / 4) a

/-- Event source word of R461: kind in bits 15:12, number in bits 11:0. -/
def srcCause (v : Nat) : Nat := v % 4096
def srcAgent (v : Nat) : Nat := 0x1000 + v % 4096
def srcTile (v : Nat) : Nat := 0x2000 + v % 4096
def srcRail (v : Nat) : Nat := 0x3000 + v % 4096
def srcDomain (v : Nat) : Nat := 0x4000 + v % 4096
def srcScan (v : Nat) : Nat := 0x5000 + v % 4096
def srcRank (v : Nat) : Nat := 0x6000 + v % 4096
def srcChannel (v : Nat) : Nat := 0x7000 + v % 4096
def srcModule (v : Nat) : Nat := 0x8000 + v % 4096
def srcKey (v : Nat) : Nat := 0x9000 + v % 4096
def srcLane (v : Nat) : Nat := 0xA000 + v % 4096
def srcSector (v : Nat) : Nat := 0xB000 + v % 4096
/-- Where a rule records two items the first takes bits 11:6 and the second bits 5:0 (R461). -/
def srcPair (kind a b : Nat) : Nat := kind * 4096 + (a % 64) * 64 + b % 64

end Sys2Proof.Machine
end

