-- ==== Sys2Proof/Machine/Store.lean ====
section
/-! DEFINITION. A sparse table in one canonical form: key and value pairs, keys strictly rising, and no entry equal to
what an unlisted key reads as. Register fields, DRAM lines, map entries, NAND pages and flash bytes are held so. -/

namespace Sys2Proof.Machine

/-- Key and value pairs. -/
abbrev Store (α : Type) := List (Nat × α)

/-- The value at a key; `d` is what an unlisted key reads as. -/
def Store.get {α : Type} (d : α) : Store α → Nat → α
  | [], _ => d
  | (k, v) :: r, n => if k = n then v else Store.get d r n

/-- Remove a key. -/
def Store.erase {α : Type} : Store α → Nat → Store α
  | [], _ => []
  | (k, v) :: r, n => if k = n then r else (k, v) :: Store.erase r n

/-- Insert or replace a pair, keeping the keys rising. -/
def Store.insert {α : Type} : Store α → Nat → α → Store α
  | [], n, x => [(n, x)]
  | (k, v) :: r, n, x => if n < k then (n, x) :: (k, v) :: r
      else if k = n then (n, x) :: r else (k, v) :: Store.insert r n x

/-- Write a value; writing the value of an unlisted key removes the entry. -/
def Store.put {α : Type} [DecidableEq α] (d : α) (l : Store α) (n : Nat) (x : α) : Store α :=
  if x = d then Store.erase l n else Store.insert l n x

/-- Every key lies above a bound, rising, and no value is the default. -/
def Store.wfFrom {α : Type} [DecidableEq α] (d : α) : Nat → Store α → Bool
  | _, [] => true
  | b, (k, v) :: r => decide (b ≤ k) && decide (v ≠ d) && Store.wfFrom d (k + 1) r

/-- The canonical form. -/
def Store.wf {α : Type} [DecidableEq α] (d : α) (l : Store α) : Bool := Store.wfFrom d 0 l

/-- Keep the entries whose key satisfies a test. -/
def Store.keep {α : Type} (p : Nat → Bool) : Store α → Store α
  | [] => []
  | (k, v) :: r => if p k then (k, v) :: Store.keep p r else Store.keep p r

/-- The entries at or above a key. -/
def Store.after {α : Type} (n : Nat) : Store α → Store α
  | [] => []
  | (k, v) :: r => if n ≤ k then (k, v) :: r else Store.after n r

/-- The values at `n` consecutive keys, from the entries at or above the first of them. -/
def Store.slice {α : Type} (d : α) : Nat → Nat → Store α → List α
  | 0, _, _ => []
  | n + 1, a, [] => d :: Store.slice d n (a + 1) []
  | n + 1, a, (k, v) :: r => if k = a then v :: Store.slice d n (a + 1) r else d :: Store.slice d n (a + 1) ((k, v) :: r)

end Sys2Proof.Machine
end

