-- ==== Sys2Proof/Machine/State.lean ====
section
/-! DEFINITION. The state of the controller: every register field in one sparse table, the hidden state of each block as
typed data, what has been sent out, and the queue of commands that wait. -/

namespace Sys2Proof.Machine

/-- A register write that waits for its boundary (R56): the beat it takes effect at, the field and the value. -/
structure BoundWrite where
  due : Nat
  fld : Fld
  val : Nat
deriving DecidableEq, Repr

/-- The beat timer, the operating state and what GLB holds (R37 to R67, R21). -/
structure Glb where
  st : OpState            -- GLB_STATE.STATE
  lazyRestore : Bool      -- GLB_STATE.LAZY
  beatSrc : Bool          -- GLB_STATE.BEATSRC: the internal oscillator runs the beat
  beat : Nat              -- beats counted since VDDAON returned; GLB_BEAT is this plus the base
  base : Nat              -- the base of R66; 0 until it is taken
  cycle : Nat             -- the beat-clock cycle within the beat, 0 to 399 (R42)
  published : Bool        -- the close of this beat has published credit (R45)
  refBeats : Nat          -- consecutive beats with REFCLK present (R40)
  backBeats : Nat         -- consecutive beats with the input above WARN + HYST (R23)
  provisional : Bool      -- stamps still count from 0, no base taken (R66)
  bound : List BoundWrite -- writes bound to a boundary (R56)
  free : Nat              -- the model's own counter for values the spec leaves open
deriving DecidableEq, Repr

/-- Interrupt state: per-agent status bits and the MSI-X messages of each port (R480 to R482). -/
structure Irq where
  istat : Tri Nat         -- GLB_ISTAT1 and GLB_ISTAT0 as one 35-bit value
  pba : Two Nat           -- MSI-X pending bit array, bit v for vector v
  held : Two (List Nat)   -- messages held while the link is not trained (R481)
  funcMask : Two Bool     -- MSI-X function mask (PCIe 6.0)
deriving DecidableEq, Repr

/-- One recorder record (R461); its bytes are derived. -/
structure Rec where
  seq : Nat
  beat : Nat
  code : Nat
  src : Nat
  rebased : Bool
  clearRec : Bool
  rep : Nat
  lastBeat : Nat
  nsnap : Nat
  snap : List Nat
  whole : Bool            -- written to its end; false where VDDAON left its range during the write (R465)
deriving DecidableEq, Repr

/-- A live clear challenge (R467). -/
structure Challenge where
  agent : Agent
  beat : Nat
  head : Nat
  bytes : List Byte
deriving DecidableEq, Repr

/-- The event recorder (R461 to R469). -/
structure Evr where
  ring : List Rec         -- newest first, at most 8,192
  next : Nat              -- the next sequence number
  gen : Tri Nat           -- EVR_WSTAT.GEN of each agent
  cursor : Tri Nat        -- EVR_CURSOR of each agent
  sevIrq : Bool           -- EVR_STATUS.SEVIRQ
  chal : Option Challenge
  clrState : Nat          -- EVR_CLR_ST.STATE
  clrAgent : Nat          -- EVR_CLR_ST.AGENT
  copied : List (Nat × Nat) -- sequence and repeat count of each record at its last append to the flash log
  logNext : Nat           -- next slot of the flash log ring, 0 to 16,383 (R423)
  copyStart : Nat         -- beat the hourly copy counts from (R469)
  copyBusy : Bool         -- an append is in progress
  copyCut : Bool          -- the input abandoned an append (R469)
deriving DecidableEq, Repr

/-- The bytes of one structure image, parsed no further than its sections (R402 to R404). -/
structure Image where
  gen : Nat
  ownSlot : Nat
  secs : List (List Byte) -- sections 1 to 11 in ID order
deriving DecidableEq, Repr

/-- The structure images in force (R400, R410 to R414). -/
structure Sti where
  active : Option Image       -- the image that governs
  retiring : Option Image     -- the outgoing image of R55
  releaseBeat : Nat           -- the boundary at which the retiring image is released
  shade : Option Image        -- the validated shade
  requested : Option Nat      -- beat in which the swap counts as requested (R54)
  guardSecs : Nat             -- changed sections of the accepted swap, bit i - 1 for section i (R411)
  guardClasses : Nat          -- class regions that an accepted swap guards, bit c for class c (R411)
  rollback : Bool             -- the shade is the archive under R414: step 8 is not checked
deriving DecidableEq, Repr

/-- An open native sequence (R426, R428). -/
structure NatSeq where
  agent : Agent
  cc : Nat
  step : Nat                  -- 1: awaiting CMD1; 2: data writes
  words : List (Nat × Nat)    -- array offset and word, latest first
  last : Nat                  -- beat of the owner's latest write
deriving DecidableEq, Repr

/-- An open compatibility sequence (R430). -/
structure CompatSeq where
  agent : Agent
  step : Nat                  -- 1: after the first key; 2: unlocked; 3: command; 4: address
  cmd : Nat
  addr : Nat
  last : Nat
deriving DecidableEq, Repr

/-- What a write of the role record changes (R400): the swap of R410, its undoing and a plain rewriting of the roles in force (R413), the
exchange of R414, the MCSLOT of a complete roll (R459), the first record (R510), and the archive that becomes active (R407). -/
inductive RoleWrite where
  | swap
  | undo
  | keep
  | exchange
  | micro (slot : Nat)
  | first
  | fall
deriving DecidableEq, Repr

/-- The controller's own flash writes (R418 to R424). -/
inductive IWrite where
  | cell (ty : Nat) (payload : List Byte)      -- append a record to the cell of this TYPE
  | role (k : RoleWrite)                       -- append a role record (R400)
  | seqCopy (n : Nat) (bytes : List Byte)      -- erase and program copy n of the sequencer record
  | log (slots : List (List Byte))             -- append slots to the recorder log
  | staged (off : Nat) (bytes : List Byte)     -- the steward's program of a verified payload (R459)
deriving DecidableEq, Repr

/-- The operation that runs in the flash die. -/
inductive FlashOp where
  | program (agent : Agent) (compat : Bool) (sector : Nat) (words : List (Nat × Nat))
  | erase (agent : Agent) (compat : Bool) (sector : Nat) (attempt : Nat)
  | blank (agent : Agent) (compat : Bool) (sector : Nat)
  | internal (w : IWrite)                      -- the program step of an internal write
  | internalErase (w : IWrite) (sector : Nat) (attempt : Nat) -- the erase that an internal write needs first
  | refused (w : IWrite)                       -- an internal write that a worn sector refuses (R420)
deriving DecidableEq, Repr

/-- The configuration flash and its interface (R415 to R433). -/
structure Cfl where
  bytes : Store Byte          -- the array; an unlisted byte is erased, 0xFF
  flags : Nat                 -- flag cells, bit s for sector s
  half : Nat                  -- half-erased sectors that await re-erase
  worn : Nat                  -- sectors that failed their erase
  seq : Option NatSeq
  compat : Option CompatSeq
  op : Option FlashOp
  queue : List IWrite         -- internal writes in arrival order (R428)
  bg : Option (Nat × Nat)     -- the re-erase of a half-erased sector in the background: sector and attempt (R432)
  ready : Bool                -- the flag cells have been read since domain 95 came on (R432)
deriving DecidableEq, Repr

/-- The role of a digest requester (Table: Requester priorities). -/
inductive DgeWho where
  | host (g : Agent) | recClear | image | mirror | crown
deriving DecidableEq, Repr

/-- A computation of the digest engine. -/
structure DgeComp where
  who : DgeWho
  alg : Nat
  slot : Nat
  len : Nat
  fed : List Byte             -- bytes accepted, in order
  done : Nat                  -- bytes whose compression has finished
deriving DecidableEq, Repr

/-- A saved context (R440): the computation and the beat it was saved. -/
structure DgeCtx where
  comp : DgeComp
  beat : Nat
  cycle : Nat                 -- beat-clock cycle of the save in its beat: the older of two contexts (R442)
  wrapped : List Byte         -- the bytes of a keyed computation, under the internal key; its `fed` is empty (R441)
deriving DecidableEq, Repr

/-- A waiting request (R439). -/
structure DgeReq where
  who : DgeWho
  resume : Option Nat
  comp : Option DgeComp
deriving DecidableEq, Repr

/-- One key slot (R445). -/
structure KeySlot where
  key : Option (List Byte)
  gen : Nat
  locked : Bool
  use : Nat
  policy : Nat
deriving DecidableEq, Repr

/-- A key operation that waits for its cell record to commit (R446). -/
structure KeyOp where
  slot : Nat
  newSlot : KeySlot
  isImport : Bool
deriving DecidableEq, Repr

/-- The digest engine and the key slots (R434 to R449). -/
structure Dge where
  owner : Option DgeComp
  lastWrite : Nat             -- beat of the owner's latest data write (R444)
  compressing : Bool
  transfer : Nat              -- 0 none; 1 an export runs; 2 an import runs (R440, R443)
  importing : Option Nat      -- the context slot that the running import reads (R443)
  wrapKey : List Byte         -- the internal key that wraps saved keyed computations (R441)
  wait : List DgeReq          -- in arrival order
  ctx : Store (Option DgeCtx) -- the 4 context slots
  slots : Store KeySlot       -- the 32 key slots
  keyOp : Option KeyOp
  stwSha : List Byte          -- the steward's latest completed SHA-256 result (R448)
  loaded : Bool               -- the slots have loaded since domain 94 came on (R449)
deriving DecidableEq, Repr

/-- A package being received (R457, R458). -/
structure Update where
  viaPldm : Bool
  size : Nat
  bytes : List Byte
  pulled : Bool               -- the steward has asked for the next part (RequestFirmwareData)
deriving DecidableEq, Repr

/-- The steward, its sideband and its update path (R450 to R460). -/
structure Stw where
  kick : Nat                  -- beat of the latest KICK or start (R451)
  trialStart : Nat            -- beat the trial began (R460)
  unconfirmed : Nat           -- unconfirmed starts in a row
  prevBlock : Nat             -- the block before the trial
  update : Option Update
  staged : Option (Nat × Nat) -- component and slot of the staged payload
  stagedVer : Nat             -- its VERSION
  waits : Option Nat          -- who waits for the result of a staging: the agent code of a host, or 0 for the sideband
  trial : Bool                -- the firmware starts on trial (R460)
  bothFail : Bool             -- the boot ROM has found both boot blocks failing (R23, R425)
  mbxOwner : Option Agent
  lastSense : Nat             -- beat of the latest sensor read (R453)
  i3c : Bool                  -- I3C mode; false is SMBus-compatible (R456)
  dynAddr : Nat               -- dynamic address, 0 none
  events : Bool               -- target events enabled (ENEC, DISEC)
  eid : Nat                   -- MCTP endpoint identity
  tid : Nat                   -- PLDM terminus identity
  receiver : Option Nat       -- PLDM event receiver
  sensorOff : List Nat        -- numeric sensors disabled
  pldm : Nat                  -- PLDM Type 5 state: 0 idle, 1 learn components, 2 ready, 3 download, 4 verify, 5 apply, 6 activate
  straps : Nat                -- STRAP[3:0] as latched (R491)
deriving DecidableEq, Repr

/-- One HDM decoder of a port (R70, R71). -/
structure Decoder where
  base : Nat
  size : Nat
  committed : Bool
  err : Bool                  -- the standard Commit Error bit
deriving DecidableEq, Repr

/-- One persist-queue entry (R77, R78). -/
structure QEntry where
  id : Nat                    -- admission order
  tile : Nat                  -- the share that holds it
  line : Nat                  -- cache address ÷ 64
  data : Line
  mask : ByteMask
  cls : Nat
  beat : Nat                  -- admission beat
  seq : Option Nat            -- transaction sequence of a mirrored class
  poison : Bool
  issued : Bool               -- its INGEST_FLUSH has issued the DRAM write
  flushed : Bool              -- the DRAM write is complete
  sent : Bool                 -- its MIRROR_SEND has placed the line in the replay buffer
  placed : Nat                -- the beat in which its mover request was placed on the fabric (R48)
deriving DecidableEq, Repr

/-- A write that waits for admission (R83); `port` none is the partner's class M stream. -/
structure HeldWrite where
  port : Port
  cls : Nat
  line : Nat
  data : Line
  mask : ByteMask
  poison : Bool
  tag : Nat
  since : Nat                 -- beat of its arrival
deriving DecidableEq, Repr

/-- A write of an acknowledge-after-mirror class whose completion waits for the partner (R89). -/
structure AamWait where
  seq : Nat
  port : Port
  tag : Nat
  refused : Bool              -- the partner has refused its sequence (R332)
deriving DecidableEq, Repr

/-- A mailbox event record: a mirrored recorder event (R106). -/
structure MbxRec where
  handle : Nat
  code : Nat
  beat : Nat
  sev : Nat
deriving DecidableEq, Repr

/-- The memory device mailbox of each port (R106). -/
structure Mbx where
  shutdown : Two Nat          -- the shutdown state
  dirtyCount : Nat            -- Dirty Shutdown Count
  stamp : Two (Option (Nat × Nat)) -- timestamp set: beat and nanoseconds
  log : Two (List MbxRec)
deriving DecidableEq, Repr

/-- The persist path (R68 to R106). -/
structure Pq where
  dec : Store Decoder         -- decoder k of port p at key 4 p + k
  entries : List QEntry       -- oldest admission first
  nextId : Nat
  held : List HeldWrite       -- in arrival order
  span : Two Bool             -- a held span is open (R84)
  usedA : Two Nat             -- class A reserve counted this beat (R82)
  usedAB : Two Nat
  stampLo : Two Nat           -- low half held for the next stamp (R95)
  lastStamp : Two Nat         -- last accepted stamp (R97)
  pend : Two (List (Nat × Nat)) -- pending stamps with their tails, oldest first (R101)
  aam : List AamWait
  rose : Two Bool             -- the mirrored horizon rose in this beat (R101)
  lastSeq : Nat               -- last transaction sequence assigned
  lastMirror : Nat            -- sequence of the last mirrored write that a port admitted (R100)
deriving DecidableEq, Repr

/-- The host links and their pins. -/
structure Hp where
  perst : Two Bool            -- PERST_n of the port is asserted
  up : Two Bool               -- the link is trained
  fast : Two Bool             -- it settled at 8 GT/s or faster (R69)
  jtagIr : Nat                -- test port instruction: 0 BYPASS, 1 IDCODE, 2 one that takes control of pins (R498)
deriving DecidableEq, Repr

/-- A stored DRAM line: its data and whether it stands as poison (R118). The codeword is derived (R115). -/
structure LineCell where
  data : Line
  poison : Bool
deriving DecidableEq, Repr

/-- One line-map entry (R123). `cls` none stands for the class of the region that holds the granule; UNREST is held in
`Cch.unrest`. -/
structure MapEntry where
  vloc : Nat
  cls : Option Nat
  dirty : Bool
  wsince : Bool
  trk : Bool
  poison : Bool
  fetch : Bool
deriving DecidableEq, Repr

/-- Consecutive device events of a physical rank (R130). -/
structure DevRun where
  dev : Nat                   -- device 0 to 9 of subchannel a, 10 to 19 of subchannel b
  n : Nat
deriving DecidableEq, Repr

/-- A running retirement (R132). -/
structure Retire where
  src : Nat
  dst : Nat
  copied : Nat                -- lines copied
  total : Nat
  spare : Store LineCell      -- lines of the incoming rank, by cache address ÷ 64 (R132)
  paceBeat : Nat              -- a beat, and the lines copied in it (CCH_RET_CTRL.RATE_GBS)
  paceLines : Nat
  doneBeat : Nat              -- beat in which the last line was copied
deriving DecidableEq, Repr

/-- A host read that waits for a demand fetch (R92, R276). -/
structure ReadWait where
  port : Port
  tag : Nat
  line : Nat
  off : Option Nat            -- byte offset of a read through BAR2; none for CXL.mem
deriving DecidableEq, Repr

/-- The DRAM cache (R107 to R134). -/
structure Cch where
  lines : Store LineCell      -- cache lines by cache address ÷ 64; unlisted: zeros, not poisoned
  map : Store MapEntry        -- map entries by granule number
  unrest : List (Nat × Nat)   -- granules not yet restored, as (first, count), rising
  runs : Store DevRun         -- by physical rank
  remap : Store (Option Nat)  -- by natural physical rank: the rank that stands in for it
  winStart : Nat              -- beat the corrected-word window began
  ret : Option Retire
  retReq : List Nat           -- ranks whose retirement has been accepted and not begun, in order
  waiting : List ReadWait     -- host reads that wait for a fetch
  scrubAcc : Nat              -- patrol lines times passBeats that the pace has added and no task has taken (R128)
  scrubPos : Nat              -- next line of the patrol
  selfRef : Nat               -- ranks in self-refresh, bit n for physical rank n (R221)
  retired : Nat               -- physical ranks retired, one bit each (R132, R134)
  rankUe : Store Nat          -- uncorrectable words by physical rank (R118)
  mapPoison : List Nat        -- map-region lines that stand as poison: 2^23 n + line
  load : Nat                  -- bytes of DRAM data moved in this beat (R127)
  asked : Store Nat           -- bytes asked for in this beat: 0 unthrottled; 1 to 4 in the order of R127
  askedWas : Store Nat        -- the same of the beat before
  level : Nat                 -- kinds throttled in this beat, from the first of that order
deriving DecidableEq, Repr

/-- Where a task stands (R357 to R363). -/
inductive TaskSt where
  | ready
  | running (engine : Nat)
  | waiting
  | moving (thief : Nat)
deriving DecidableEq, Repr

/-- A live task: its descriptor (R353) and where it stands. -/
structure Task where
  tid : Nat
  ty : Nat
  prio : Nat
  pin : Bool
  waitBeats : Nat
  last : Nat
  lvalid : Bool
  pool : Nat
  count : Nat
  arg0 : Nat
  arg1 : Nat
  producer : Option Agent     -- none: the controller
  tile : Nat
  st : TaskSt
  order : Nat                 -- when it became ready
  moved : Bool                -- stolen in its present ready period
  cancel : Bool               -- cancelled while it runs or waits on an operation
  waitStart : Nat             -- beat its wait began
  waitOp : Bool               -- the wait is on an operation it started
  waitLow : Bool              -- that operation has a lower recovery layer (R362)
  tmo : Bool                  -- it is ready with TIMEOUT indicated (R361)
  issued : Nat                -- issue beat of its latest slice (R48)
deriving DecidableEq, Repr

/-- A microcode roll (R367). -/
structure Roll where
  done : List Nat             -- tiles that this roll has given the new version
  took : List Nat             -- tiles that it has asked to leave service
  version : Nat
  slot : Nat                  -- the staged microcode slot
  stopped : Bool              -- no further quiesce starts
  result : Nat                -- the result when the tiles already out finish
deriving DecidableEq, Repr

/-- The dispatcher (R346 to R369). -/
structure Dsp where
  tested : Bool               -- the boot self-test of R349 has run
  tasks : List Task           -- live tasks, oldest first
  serial : Nat
  order : Nat
  bucketTiles : List Nat      -- the queue tiles whose index order holds the buckets (R352)
  cpl : Tri (List (Nat × Nat)) -- completion FIFO: TID and status, head first
  leaving : List Nat          -- tiles whose quiesce begins at the next boundary
  remap : Bool                -- the queue buckets move at the next boundary (R352)
  back : List Nat             -- tiles that return to service at the next boundary
  since : Store Nat           -- beat a tile's quiesce began, plus 1
  waitQ : List Nat            -- tiles whose quiesce request waits for the limit of R366
  roll : Option Roll
  prevMc : Store Nat          -- the microcode version a loading tile carried before
  mcFrom : Store Nat          -- the microcode slot a tile runs from, plus 1 (R459)
  retried : List Nat          -- tiles that run their previous microcode's self-test (R368)
  prep : List (Nat × Nat)     -- picks prepared in the seam for the next beat: TID and engine (R53)
  handed : Store Nat          -- tasks a shard has handed out in its latest beat-clock cycle: 8 × the cycle + their count (R358)
  kept : List Nat             -- tiles whose return waits for ride-through (R369)
deriving DecidableEq, Repr

/-- The figures of a health test (R198, R199). -/
structure HTest where
  c : Nat                     -- mF
  esr : Nat                   -- µΩ
  mods : Nat                  -- modules covered
  beat : Nat                  -- beat the result was published
deriving DecidableEq, Repr

/-- A running drain rehearsal (R157). -/
structure Rehearsal where
  cls : Nat                   -- 0 to 3: A, B, C, M
  start : Nat
  bytes : Nat                 -- bytes vaulted so far
  k3 : Bool
  mods : Nat                  -- modules counted at the start: energy mask and flash count
deriving DecidableEq, Repr

/-- The energy ledger's hidden state (R135 to R166). -/
structure Ldg where
  closeUsed : Store Nat       -- lines admitted in this beat's close, by stream (R45)
  closeV : Nat                -- bank voltage of the last sample complete before the boundary, mV (R43)
  closeDirty : List Nat       -- dirty granules of A, B, C, M at the boundary (R43)
  test : Option HTest         -- the health test that governs (R140)
  newTest : Option (Nat × HTest) -- a published test and the boundary at which it begins to govern
  cal : Store Nat             -- calibrated coefficients, class c of the K4 set at c, of the K3 set at 4 + c
  newCal : List (Nat × Nat × Nat) -- boundary, key and value of calibrations that have not begun to govern
  rehRun : Option Rehearsal
  rehNext : Nat               -- the class next in the rotation
  rehSince : Nat              -- beat the rehearsal hours count from
  dropNext : Nat              -- modules that leave the count at the next boundary (R160)
  backNext : Nat              -- modules that return to the count at the next boundary (R161)
  absent : Nat                -- modules dropped because absent (R162)
  drops : Nat                 -- modules read absent that the next close drops
  whiteRun : Nat              -- consecutive white beats under the reduced reckoning (R161)
  whiteNow : Bool             -- the zone has been white in every evaluation of this beat
  flashRun : Nat              -- consecutive white beats under the K3 set (R261)
  umberBeat : Nat             -- beat of the latest 0x0402
  flashCount : Nat            -- flash modules that the latest close counted
  deficitWas : Bool           -- the latest close found a deficit (R150)
  nextZone : Nat              -- the zone that the latest close set; it governs from the publication (R47)
  lines : Nat                 -- the lines that the latest close's spare pays for (R153)
  unspent : Store Nat         -- credit left unspent, by stream (R44)
deriving DecidableEq, Repr

/-- The state values of one number form, in sixteenths of a mA or mV (R192, R194). -/
structure CtlNums where
  i1 : Int
  i2 : Int
  i3 : Int
  i7 : Int
  vbus : Int
  vchg : Int
  ichg : Int
  idis : Int
  hti : Int
  r : Int
deriving DecidableEq, Repr

/-- A running health test (R197): the step, the sample within it, and the exact sums of the windows in sixteenths. -/
structure HtRun where
  step : Nat
  k : Nat
  mods : Nat                  -- modules switched in at H1
  sumB : Int
  sumC : Int
  sumD : Int
  sumI : Int
  nI : Nat
deriving DecidableEq, Repr

/-- A parallel run of block floating point (R186). -/
structure BfRun where
  n : Nat
  bad : Nat                   -- 0 none yet; 1 decisions differed; 2 references differed; 3 fault
  nums : CtlNums
  next : CtlNums
deriving DecidableEq, Repr

/-- An equalise (R201, R513). -/
structure EqRun where
  mods : Nat                  -- modules being equalised
  boot : Bool
  start : Nat
  run : Store Nat             -- consecutive beats within the window, by module
  bad : Nat                   -- modules found outside the window in this beat
  met : Nat                   -- modules that have met the window
deriving DecidableEq, Repr

/-- The control engine's hidden state (R167 to R202). -/
structure Ctl where
  nums : CtlNums              -- the values in effect
  next : CtlNums              -- what the latest sample decided (R62)
  on : Nat                    -- phases on, in effect
  low : Nat                   -- phases with both gates low, in effect
  nextOn : Nat
  nextLow : Nat
  nextHb : Int
  hand : Nat                  -- pending hand-over: 1 discharge; 2 charge; 3 health test
  handEvent : Bool            -- the hand-over to charge records 0x0502
  hold : Nat                  -- samples of a running fault hold, plus 1; 0 none (R189)
  range4 : Nat                -- consecutive conversions of channel 4 at an end of the range
  range6 : Nat
  met : Nat                   -- limits of the comparators that the latest conversions met, by the bit of CTL_FAULT (R179)
  faults : List Nat           -- beats of the faults, latest first
  chFaults : List Nat         -- beats of the faults found in charge or equalise
  bf : Option BfRun
  runFrom : Nat               -- beat the 1,000 beats before a parallel run count from
  ht : Option HtRun
  htWant : Bool               -- a test is requested or due and has not begun (R196)
  htTry : Nat                 -- beat of the latest refusal
  htRef : Nat                 -- the latest reference moment of the schedule
  nearRun : Nat               -- consecutive beats with VBANK within 500 mV of VCHG
  nearNow : Bool
  eq : Option EqRun
  eqDone : Bool               -- the boot equalise of R513 has ended or was not needed
  sample : Nat                -- index of the next control sample of this beat (R61)
  hb : Int                    -- the half-band in effect
  zc : Nat                    -- phases held with both gates low until their next on decision (R176), in effect
  nextZc : Nat
  codes : BitVec 96           -- the conversions of the latest sample (R170)
  eqWant : List Nat           -- modules whose equalise is accepted and waits for charge (R201)
deriving DecidableEq, Repr

/-- Counts and moments of one rail (R380, R384, R385). -/
structure RailSt where
  start : Nat                 -- beat it started
  settle : Nat                -- beat its settle began
  inCnt : Nat                 -- consecutive scans in range
  outCnt : Nat                -- consecutive scans out of range while good
  warnIn : Nat                -- consecutive scans inside the warning limits
  warnOut : Nat               -- consecutive scans outside them
  fault : Nat                 -- beat of the early warning (R386)
deriving DecidableEq, Repr

/-- A power-down restricted to some rails, by the owner of a group or an image (R392). -/
structure GroupOff where
  rails : List (Nat × Nat)    -- rails still to switch off, in the order of the steps, with their off-delays
  last : Option (Nat × Nat × Nat) -- the rail whose off-delay runs, the delay, the beat it began; none before the first step
deriving DecidableEq, Repr

/-- The sequencer's hidden state (R370 to R399). -/
structure Seq where
  tbl : List (List Byte)      -- sections 5, 6 and 7 in force; empty stands for the built-in table (R376)
  en : Nat                    -- RAIL_EN levels
  rails : Store RailSt
  order : List Nat            -- the achieved order
  want : Nat                  -- sequenced rails that are to be on
  failed : Nat                -- failed groups
  offReq : Bool               -- an off request has met the power-up (R393)
  offCur : Option (Nat × Nat) -- power-down: the rail whose off-delay runs and the beat it began
  minOff : Option Nat         -- beat the latest power-down completed
  coreStop : Bool             -- a core stop is switching rails off
  domPend : Store Nat         -- domains switched on that do not report on yet: beat plus 1
  scanStart : Nat
  scanList : List Nat         -- the list of the scan in progress
  scans : List (List (Nat × Nat)) -- the last five completed scans, newest first: input and code
  offs : List GroupOff
  repower : List Nat          -- rails of the running re-powers (R389)
  fabRel : Store Nat          -- per fabric quadrant, the beat-clock cycle of the release that left fewer than 4 sensors tripped, plus 1 (R396)
  stretch : Store Nat         -- groups whose stretch runs: beat plus 1
  snaps : Store (List Byte)   -- the snapshot slots
  belowWarn : Bool            -- INMON has been below WARN during the hold of R24
  coreDue : Option (Nat × Nat)-- a core stop that begins at the next boundary: rail and source (R25, R388)
  left : Store (Nat × Nat)    -- rails that an image has made unused and that are still on: their group plus 1, and their off-delay (R392)
  abandonDue : Option Nat     -- a domain fault of a power-up, which it abandons at the next boundary (R390, R393)
  later : List (List Byte)    -- the adopted table where parents or CORE bits of rails that are on wait for the next power-up (R377)
deriving DecidableEq, Repr

/-- The drain plan (R219): what the planner rebuilds at every close. -/
structure DrainPlan where
  passes : List Nat           -- the passes in their order, as DRN_STATUS.PASS codes them
  ranks : List (Nat × List Nat) -- the rank order within each pass
  pool : List Nat             -- the tiles of the drain pool
  shed : List Nat             -- the domains in the order in which they are to be shed (R225)
  estMs : Nat                 -- the estimate of the drain time
deriving DecidableEq, Repr

/-- The hold-up and drain unit's hidden state (R203 to R230). -/
structure Drn where
  pfwIn : Bool                -- the input path asserts PFW_n (R208)
  stop : Bool                 -- admission is stopped by a trip and not yet resumed (R207)
  stopBeat : Nat              -- beat of the trip that stopped it
  graceStart : Nat            -- beat GRACE was entered (R209)
  graceLen : Nat              -- beats of its timer
  cause : Nat                 -- cause of DRAIN entry: 1 timer, 2 collapse
  start : Nat                 -- beat of DRAIN entry
  toSealed : Bool             -- an INMON trip takes POWERUP, BOOT or RESTORE to SEALED at the next boundary (R23)
  lateM : Bool                -- the class M window was open when pass M began (R220)
  open_ : List Nat            -- physical ranks open (R221)
  passM : List (Nat × Nat)    -- granules of class M dirty when pass M began
  stopExt : Nat               -- 0 none; 1 no further extent of C, late M, D; 2 no further extent at all (R224)
  dOver : Bool                -- pass D has ended (R223)
  fence : Option (Nat × Nat)  -- the fence: its sequence and the beat it was sent (R215)
  sendsEnded : Bool           -- the mirror sends have ended
  lostRanks : Nat             -- ranks lost behind a failed rail (R229)
  crownLeft : Nat             -- flash modules whose crown copy is being written
  crowned : Bool              -- every crown copy is written
  decided : Nat               -- after the crown: 0 open; 1 warm resume; 2 power-down
  lastM : Nat                 -- sequence of the last class M write applied (R217)
  heldGroups : List Nat       -- DIMM groups that the return of the input has kept on (R222)
  recCopy : Bool              -- the recorder copy after the crown has been asked for (R226)
  aliveOut : Bool             -- PARTNER_ALIVE_OUT is asserted (R340)
  plan : DrainPlan            -- the plan of the latest close; in DRAIN it is the drain schedule (R213, R219)
deriving DecidableEq, Repr

/-- A band as its state pages describe it (R245), and what the controller knows of it. -/
structure Band where
  blk : Nat                   -- erase block number
  bseq : Nat
  epoch : Nat
  beat : Nat
  mods : Nat                  -- MODMASK
  holes : Nat                 -- bit 32 c + 4 t + q
  next : Nat                  -- next slot index
  closed : Bool
  marked : Bool               -- marked for fulling (R239, R244)
deriving DecidableEq, Repr

/-- A slot whose vault write is in flight. -/
structure InFlight where
  vloc : Nat
  bseq : Nat
  idx : Nat
  granule : Nat
  kind : Nat                  -- 0 trickle; 1 drain extent; 2 relocation
  src : Nat                   -- the location a relocation copies from
deriving DecidableEq, Repr

/-- A running map checkpoint (R251). -/
structure Ckpt where
  cutB : Nat
  cutI : Nat
  todo : List Nat             -- map pieces still to write
  done : Bool                 -- the root is written
  drain : Bool
deriving DecidableEq, Repr

/-- What one of the two newest crowns names: its epoch and the erase blocks of its slots (R258). -/
structure CrownRef where
  epoch : Nat
  blocks : List Nat
deriving DecidableEq, Repr

/-- The vault on flash (R230 to R264). The NAND contents survive every loss of power. -/
structure Vlt where
  nand : Store (Option (List Byte)) -- programmed chunks: 2,048 data bytes and 16 metadata bytes, uninverted (R236, R237)
  masks : Store (Option Nat)  -- FAILMASK of parity pages, by page
  bad : List Nat              -- chunks that no read-retry level reads
  badBlocks : List Nat        -- bad erase blocks
  bands : List Band           -- bands with valid state pages, by rising sequence number
  openB : Option Nat          -- sequence number of the open band
  maxB : Nat                  -- the largest sequence number found or used
  inflight : List InFlight
  fail : Store Nat            -- FAILMASK so far of a row, by 2^16 × band sequence number + row
  ring : Store Nat            -- next page of the crown ring, by module, counted over the ring
  crowns : List CrownRef      -- the two newest crowns, newest first
  newBlocks : List Nat        -- erase blocks with slots written after the newest crown
  tree : Store Nat            -- location plus 1 of each map piece in the current tree
  dirs : Store Nat            -- location plus 1 of each directory piece
  root : Nat                  -- location of the root
  dirtyPieces : List Nat      -- map pieces changed since the previous cut
  startB : Nat                -- EPOCH_START
  startI : Nat
  cutB : Nat                  -- cut of the latest checkpoint
  cutI : Nat
  cutBeat : Nat
  sinceCut : Nat              -- slots written since the cut
  tagDone : List (Nat × Nat)  -- 256-slot spans of this epoch that have their tag table
  tagPlain : List (List Byte) -- plaintexts of this epoch's tag tables, in log order
  notes : List Nat            -- note indexes of the epoch to be sealed
  wide : Bool                 -- RANGES_WIDE
  ckpt : Option Ckpt
  prevEpoch : Nat             -- epoch of the newest crown
  crownBeat : Nat             -- beat of the crown in use
  maxEpoch : Nat              -- the largest EPOCH of any crown page seen or written
  released2 : Nat             -- modules whose release has passed step 2 (R261)
  reissueQ : List Nat         -- locations whose sheet failed and that wait for a later row (R259)
  halfErased : List Nat       -- erase blocks that await an erase (R246)
  lost : List Nat             -- slots counted as unrecoverable, by chunk key ÷ 2 (R239)
  trkCredit : Nat             -- bytes that trickles may still write in white (LDG_CTRL.TRICKLE_WHITE)
deriving DecidableEq, Repr

/-- One range of a crown's notes (R249). -/
structure Range where
  first : Nat
  count : Nat
  cls : Nat
  kind : Nat
deriving DecidableEq, Repr

/-- Restore and resumption (R265 to R285). -/
structure Rst where
  scanned : Bool              -- the ring search and the state-page scan have run
  crown : List Byte           -- the crown that is restored from; empty stands for none
  empty : Bool                -- the vault was emptied or formatted: no granule has a copy
  mapped : Bool               -- the map is loaded and the tail replayed
  noted : Bool                -- the notes are applied
  ranges : List Range
  rangeEpoch : Nat            -- epoch of the crown whose ranges are readable
  overlay : Store Nat         -- flushed lines of unrestored granules (R277)
  fetching : Store Nat        -- location, plus 1, that the issued vault read of a granule reads
  refetch : Store Nat         -- lines of a restored granule that a fetch is to write (R122)
  total : Nat                 -- granules to restore
  warm : Bool                 -- a warm resume runs
  coldRanks : Bool            -- the resume was refused: the cold path from the ring search (R284)
  spd : Nat                   -- physical ranks whose DIMM shows another serial number (R134)
  fits : Nat                  -- present modules found to agree with the image (R231, R266)
deriving DecidableEq, Repr

/-- A data flit of the mirror link: its sequence, its TXF field and its 304 payload bytes (R302). -/
structure LFlit where
  seq : Nat
  txf : Nat
  data : List Byte
deriving DecidableEq, Repr

/-- The mirror link's hidden state (R286 to R314). -/
structure Mlk where
  eqStart : Nat               -- beat equalise began
  trained : Nat               -- lanes that completed training, by logical lane
  att : Nat                   -- attempt of a running walk, or in use
  attStart : Nat              -- beat the attempt was entered
  lock : Store Nat            -- marker frames in a row, by lane
  lockBeat : Option Nat       -- beat in which every lane of the attempt had locked
  attFail : Nat               -- lanes that failed the check of the attempt
  attUncorr : Bool            -- an uncorrectable codeword in the check span
  attCorr : Store Nat         -- corrected symbols of the check span, by lane
  rtrn : Option Nat           -- beat of retrain entry while RTRN is sent
  rounds : Nat                -- failed rounds in a row
  downAt : Option Nat         -- beat the link went down under R294
  fcnt : Nat                  -- FCNT of the next frame
  half : Option (List Byte)   -- flit 0 of the frame being filled
  txq : List LFlit            -- data flits that wait for their first transmission
  buf : List LFlit            -- replay buffer, oldest first
  txnext : Nat
  acked : Nat                 -- last acknowledged sequence
  sentNew : Nat               -- new data flits since up, modulo 4,096
  peerFreed : Nat             -- the partner's CRDC
  freed : Nat                 -- own freed slots since up, modulo 4,096
  expect_ : Nat               -- expected sequence e
  rx : List LFlit             -- receive buffer, oldest first
  nakPend : Bool
  nakSend : Bool              -- the NAK has not left yet
  replay : Option Nat         -- next sequence to resend of a running replay
  replayTo : Option Nat       -- last flit sent before the replay began, until acknowledged (R313)
  replays : Nat               -- replays since the acknowledged sequence last advanced
  timer : Option Nat          -- beat the replay timer started
  proto : List Nat            -- beats of protocol errors
  winStart : Nat              -- beat the lane window began
  winCorr : Store Nat         -- corrected symbols of the window, by lane
  missed : Store Nat          -- marker frames missed in a row, by lane
  injCrc : Bool
  injLane : Option (Nat × Nat) -- lane and symbols to corrupt in the next flit frame
  recovBeat : Bool            -- RECOV was 1 at some moment of this beat (R60)
  level : Store Nat           -- the level last sent on each logical lane, from which precoding goes on (R299)
  precode : Nat               -- lanes on which training agreed precoding
deriving DecidableEq, Repr

/-- The pair record (R317). -/
structure PairRec where
  peerId : Nat
  sessCnt : Nat
  mgenSend : Nat
  mgenHeld : Nat
  syncing : Bool
  gap : Bool
  phzA : Nat
  phzB : Nat
deriving DecidableEq, Repr

/-- An open receive write (R329). -/
structure RxWrite where
  seq : Nat
  ocls : Nat
  caddr : Nat
  len : Nat
  be : Nat
  sync : Bool
  zero : Bool
  skip : Bool                 -- a duplicate or out-of-window write, whose DATA is only consumed
  lines : List Line
  start : Nat                 -- beat of the WRITE
  clean : Nat                 -- counted beats at its start
deriving DecidableEq, Repr

/-- One entry of the outstanding ring (R332). -/
structure RingEntry where
  seq : Nat
  granule : Option Nat        -- the granule it touched; none for a fence or a SYNC record
  beat : Nat
  clean : Nat
deriving DecidableEq, Repr

/-- The mirror transaction layer's hidden state (R315 to R345). -/
structure Mtx where
  count : Nat                 -- running session counter (R319)
  pair : PairRec              -- the values that the next pair record carries
  pairBusy : Bool             -- a pair-record write that later records wait for (R336)
  pairBeat : Nat              -- beat of the latest pair-record write
  helloWait : Bool            -- a HELLO waits for its ceiling to commit
  myHello : List Byte         -- the HELLO sent in this setup; empty stands for none
  peerHello : List Byte
  helloBeat : Nat
  respSent : Bool
  hold : Option (Nat × Nat)   -- a new HELLO waits this many beats from this beat
  keyTx : List Byte
  keyRx : List Byte
  saltTx : List Byte
  saltRx : List Byte
  kconf : List Byte
  gTx : Nat
  gRx : Nat
  open_ : List Byte           -- plaintext of the group being filled
  plain : List Byte           -- what remains of the verified group being executed
  raised : Bool               -- the group being executed has raised H
  wr : Option RxWrite
  zeroSeq : Option Nat        -- sequence of the latest write that was complete at once
  floor : Nat                 -- F of the session
  begun : Bool                -- a sequence has been processed in the session
  firstRec : Bool             -- no record of the session has been executed
  ring : List RingEntry
  lost : List Nat
  lostValid : Bool
  lostNew : List Nat          -- granules refused behind what the running repair or sync has sent, which its end does not clear
  peerAck : Nat               -- the partner has acknowledged through this sequence
  brk : Option Nat            -- lowest sequence of an open break
  brkNew : Option Nat         -- lowest such sequence behind the REPAIRED or END that awaits its acknowledgement
  endSeq : Option Nat         -- sequence of a sent REPAIRED or END that awaits its acknowledgement
  resync : Bool               -- a full sync is forced (MTX_CMD.RESYNC)
  sync : Nat                  -- 0 none; 1 repair; 2 full sync chosen; 3 full sync running
  todo : List Nat             -- granules the repair still has to send
  cursor : Nat                -- next granule index of the full sync
  starts : Nat                -- starts of the granule being re-mirrored (R334)
  pendSync : Option Nat       -- sequence of a BEGIN that waits for the records before it
  stampQ : List (Nat × Nat × Nat) -- stamps that wait for their tail to be sent: port, stamp, tail
  lenBeats : List Nat         -- beats of length mismatches
  protoBeats : List Nat       -- beats of transaction protocol errors
  quarStart : Nat
  upSince : Nat
  hbLast : Nat                -- beat of the last good heartbeat, or of the session's end
  hbPeer : Option Nat         -- beat of the last good heartbeat
  hbSent : Nat
  gone : Bool                 -- the partner has been found lost
  aliveLow : Nat              -- consecutive beats with PARTNER_ALIVE_IN low
  clean : Nat                 -- beats in which RECOV was 0 throughout (R337)
  newStamp : Two Nat          -- newest stamp executed for each port of the partner
  cursors : Store Nat         -- highest CADDR of a received sync write, by class, plus 1
  adoptBeat : Nat             -- beat of the latest adoption (R344)
  adoptThru : Nat             -- last sequence of the adopted copy (R344)
  faultEnd : Bool             -- the partner's last session ended with a fault mark
deriving DecidableEq, Repr

/-- What the controller sends out, in the order it happened, latest first. -/
inductive Output where
  /-- Completion of a CXL.mem write (R88). -/
  | wrCpl (p : Port) (tag : Nat)
  /-- Completion of a CXL.mem read: the line and its poison (R92). -/
  | rdCpl (p : Port) (tag : Nat) (data : Line) (poison : Bool)
  /-- Data of a register read. -/
  | regData (g : Agent) (off : Nat) (val : Nat)
  /-- Answer of a mailbox command: the opcode, the return code and the payload. -/
  | mbx (p : Port) (op : Nat) (code : Nat) (payload : List Nat)
  /-- Both phases of a Global Persistent Flush answered (R105). -/
  | gpf (p : Port)
  /-- An MSI-X message: the port and the vector (R481). -/
  | msix (p : Port) (vec : Nat)
  /-- A mirror frame: the flit or marker sent (R301, R304). -/
  | frame (words : List Nat)
  /-- The PAM4 levels of a frame, 0 to 3 in the order sent, by logical lane (R299). -/
  | lanes (levels : List (Nat × List Nat))
  /-- A sideband or PLDM answer: the command's code, its completion code and payload. -/
  | sideband (op : Nat) (code : Nat) (payload : List Nat)
  /-- A PLDM event message sent to the event receiver (R456). -/
  | event (code : Nat) (sev : Nat) (ibi : Bool)
  /-- The test port's answer to an instruction (R498). -/
  | jtag (val : Nat) (width : Nat)
  /-- Data of a read through BAR2 with its poison; none is Unsupported Request (R343). -/
  | bar2 (g : Agent) (val : Option Nat) (poison : Bool)
deriving DecidableEq, Repr

/-- Why a command stops the block. -/
inductive Fault where
  /-- Raised by no command of this model: the spec lets every command run to an effect. Safe: it never stops a run. -/
  | none
deriving DecidableEq, Repr

/-- Why a command has no meaning. -/
inductive Refusal where
  /-- The dispatcher, for a command whose meaning is not written. Safe: nothing is claimed of it. -/
  | notModelled (mnemonic : String)
deriving DecidableEq, Repr

/-- The state of the controller. -/
structure State where
  regs : Store Nat             -- register fields, each held as its difference from the reset value
  glb : Glb
  irq : Irq
  evr : Evr
  sti : Sti
  cfl : Cfl
  dge : Dge
  stw : Stw
  pq : Pq
  mbx : Mbx
  hp : Hp
  cch : Cch
  dsp : Dsp
  ldg : Ldg
  ctl : Ctl
  seq : Seq
  drn : Drn
  vlt : Vlt
  rst : Rst
  mlk : Mlk
  mtx : Mtx
  out : List Output            -- what has been sent out, latest first
  pending : List Instr         -- commands that wait, first in first out
deriving DecidableEq, Repr

/-- Glb at the release of the VDDAON power-on reset. -/
def Glb.reset : Glb where
  st := .powerup
  lazyRestore := false
  beatSrc := false
  beat := 0
  base := 0
  cycle := 0
  published := false
  refBeats := 0
  backBeats := 0
  provisional := true
  bound := []
  free := 0

/-- Irq at the release of the VDDAON power-on reset. -/
def Irq.reset : Irq where
  istat := ⟨0, 0, 0⟩
  pba := ⟨0, 0⟩
  held := ⟨[], []⟩
  funcMask := ⟨false, false⟩

/-- Evr at the release of the VDDAON power-on reset. -/
def Evr.reset : Evr where
  ring := []
  next := 0
  gen := ⟨0, 0, 0⟩
  cursor := ⟨0, 0, 0⟩
  sevIrq := false
  chal := none
  clrState := 0
  clrAgent := 0
  copied := []
  logNext := 0
  copyStart := 0
  copyBusy := false
  copyCut := false

/-- Sti at the release of the VDDAON power-on reset. -/
def Sti.reset : Sti where
  active := none
  retiring := none
  releaseBeat := 0
  shade := none
  requested := none
  guardSecs := 0
  guardClasses := 0
  rollback := false

/-- Cfl at the release of the VDDAON power-on reset. -/
def Cfl.reset : Cfl where
  bytes := []
  flags := 0
  half := 0
  worn := 0
  seq := none
  compat := none
  op := none
  queue := []
  bg := none
  ready := false

/-- Dge at the release of the VDDAON power-on reset. -/
def Dge.reset : Dge where
  owner := none
  lastWrite := 0
  compressing := false
  transfer := 0
  importing := none
  wrapKey := []
  wait := []
  ctx := []
  slots := []
  keyOp := none
  stwSha := []
  loaded := false

/-- Stw at the release of the VDDAON power-on reset. -/
def Stw.reset : Stw where
  kick := 0
  trialStart := 0
  unconfirmed := 0
  prevBlock := 0
  update := none
  staged := none
  stagedVer := 0
  waits := none
  trial := false
  bothFail := false
  mbxOwner := none
  lastSense := 0
  i3c := false
  dynAddr := 0
  events := false
  eid := 0
  tid := 0
  receiver := none
  sensorOff := []
  pldm := 0
  straps := 0

/-- Pq at the release of the VDDAON power-on reset. -/
def Pq.reset : Pq where
  dec := []
  entries := []
  nextId := 0
  held := []
  span := ⟨false, false⟩
  usedA := ⟨0, 0⟩
  usedAB := ⟨0, 0⟩
  stampLo := ⟨0, 0⟩
  lastStamp := ⟨0, 0⟩
  pend := ⟨[], []⟩
  aam := []
  rose := ⟨false, false⟩
  lastSeq := 0
  lastMirror := 0

/-- Mbx at the release of the VDDAON power-on reset. -/
def Mbx.reset : Mbx where
  shutdown := ⟨0, 0⟩
  dirtyCount := 0
  stamp := ⟨none, none⟩
  log := ⟨[], []⟩

/-- Hp at the release of the VDDAON power-on reset. -/
def Hp.reset : Hp where
  perst := ⟨true, true⟩
  up := ⟨false, false⟩
  fast := ⟨false, false⟩
  jtagIr := 0

/-- Cch at the release of the VDDAON power-on reset. -/
def Cch.reset : Cch where
  lines := []
  map := []
  unrest := []
  runs := []
  remap := []
  winStart := 0
  ret := none
  retReq := []
  waiting := []
  scrubAcc := 0
  scrubPos := 0
  selfRef := 0
  retired := 0
  rankUe := []
  mapPoison := []
  load := 0
  asked := []
  askedWas := []
  level := 0

/-- Dsp at the release of the VDDAON power-on reset. -/
def Dsp.reset : Dsp where
  tested := false
  tasks := []
  serial := 0
  order := 0
  bucketTiles := []
  cpl := ⟨[], [], []⟩
  leaving := []
  remap := false
  back := []
  since := []
  waitQ := []
  roll := none
  prevMc := []
  mcFrom := []
  retried := []
  prep := []
  handed := []
  kept := []

/-- Ldg at the release of the VDDAON power-on reset. DESIGN CHOICE: no close has yet found a deficit (`deficitWas`), so that a first close
in BOOT that finds DEFICIT above 0 is a rise; R150 speaks of a close after one that found it 0. -/
def Ldg.reset : Ldg where
  closeUsed := []
  closeV := 0
  closeDirty := []
  test := none
  newTest := none
  cal := []
  newCal := []
  rehRun := none
  rehNext := 0
  rehSince := 0
  dropNext := 0
  backNext := 0
  absent := 0
  drops := 0
  whiteRun := 0
  whiteNow := false
  flashRun := 0
  umberBeat := 0
  flashCount := 0
  deficitWas := false
  nextZone := 2
  lines := 0
  unspent := []

/-- Ctl at the release of the VDDAON power-on reset. -/
def Ctl.reset : Ctl where
  nums := ⟨0, 0, 0, 0, 0, 0, 0, 0, 0, 0⟩
  next := ⟨0, 0, 0, 0, 0, 0, 0, 0, 0, 0⟩
  on := 0
  low := 0
  nextOn := 0
  nextLow := 0
  nextHb := 0
  hand := 0
  handEvent := false
  hold := 0
  range4 := 0
  range6 := 0
  met := 0
  faults := []
  chFaults := []
  bf := none
  runFrom := 0
  ht := none
  htWant := false
  htTry := 0
  htRef := 0
  nearRun := 0
  nearNow := false
  eq := none
  eqDone := false
  sample := 0
  hb := 0
  zc := 0
  nextZc := 0
  codes := 0
  eqWant := []

/-- Seq at the release of the VDDAON power-on reset. -/
def Seq.reset : Seq where
  tbl := []
  en := 0
  rails := []
  order := []
  want := 0
  failed := 0
  offReq := false
  offCur := none
  minOff := none
  coreStop := false
  domPend := []
  scanStart := 0
  scanList := []
  scans := []
  offs := []
  repower := []
  fabRel := []
  stretch := []
  snaps := []
  belowWarn := false
  coreDue := none
  left := []
  abandonDue := none
  later := []

def DrainPlan.empty : DrainPlan := ⟨[], [], [], [], 0⟩

/-- Drn at the release of the VDDAON power-on reset. -/
def Drn.reset : Drn where
  pfwIn := true
  stop := false
  stopBeat := 0
  graceStart := 0
  graceLen := 0
  cause := 0
  start := 0
  toSealed := false
  lateM := false
  open_ := []
  passM := []
  stopExt := 0
  dOver := false
  fence := none
  sendsEnded := false
  lostRanks := 0
  crownLeft := 0
  crowned := false
  decided := 0
  lastM := 0
  heldGroups := []
  recCopy := false
  aliveOut := false
  plan := DrainPlan.empty

/-- Vlt at the release of the VDDAON power-on reset. -/
def Vlt.reset : Vlt where
  nand := []
  masks := []
  bad := []
  badBlocks := []
  bands := []
  openB := none
  maxB := 0
  inflight := []
  fail := []
  ring := []
  crowns := []
  newBlocks := []
  tree := []
  dirs := []
  root := 0
  dirtyPieces := []
  startB := 0
  startI := 0
  cutB := 0
  cutI := 0
  cutBeat := 0
  sinceCut := 0
  tagDone := []
  tagPlain := []
  notes := []
  wide := false
  ckpt := none
  prevEpoch := 0
  crownBeat := 0
  maxEpoch := 0
  released2 := 0
  reissueQ := []
  halfErased := []
  lost := []
  trkCredit := 0

/-- Rst at the release of the VDDAON power-on reset. -/
def Rst.reset : Rst where
  scanned := false
  crown := []
  empty := false
  mapped := false
  noted := false
  ranges := []
  rangeEpoch := 0
  overlay := []
  fetching := []
  refetch := []
  total := 0
  warm := false
  coldRanks := false
  spd := 0
  fits := 0

/-- Mlk at the release of the VDDAON power-on reset. -/
def Mlk.reset : Mlk where
  eqStart := 0
  trained := 0
  att := 0
  attStart := 0
  lock := []
  lockBeat := none
  attFail := 0
  attUncorr := false
  attCorr := []
  rtrn := none
  rounds := 0
  downAt := none
  fcnt := 0
  half := none
  txq := []
  buf := []
  txnext := 0
  acked := 0xFFFF
  sentNew := 0
  peerFreed := 0
  freed := 0
  expect_ := 0
  rx := []
  nakPend := false
  nakSend := false
  replay := none
  replayTo := none
  replays := 0
  timer := none
  proto := []
  winStart := 0
  winCorr := []
  missed := []
  injCrc := false
  injLane := none
  recovBeat := false
  level := []
  precode := 0

/-- Mtx at the release of the VDDAON power-on reset. -/
def Mtx.reset : Mtx where
  count := 0
  pair := ⟨0, 0, 0, 0, false, false, 0, 0⟩
  pairBusy := false
  pairBeat := 0
  helloWait := false
  myHello := []
  peerHello := []
  helloBeat := 0
  respSent := false
  hold := none
  keyTx := []
  keyRx := []
  saltTx := []
  saltRx := []
  kconf := []
  gTx := 0
  gRx := 0
  open_ := []
  plain := []
  raised := false
  wr := none
  zeroSeq := none
  floor := 0
  begun := false
  firstRec := false
  ring := []
  lost := []
  lostValid := false
  lostNew := []
  peerAck := 0
  brk := none
  brkNew := none
  endSeq := none
  resync := false
  sync := 0
  todo := []
  cursor := 0
  starts := 0
  pendSync := none
  stampQ := []
  lenBeats := []
  protoBeats := []
  quarStart := 0
  upSince := 0
  hbLast := 0
  hbPeer := none
  hbSent := 0
  gone := false
  aliveLow := 0
  clean := 0
  newStamp := ⟨0, 0⟩
  cursors := []
  adoptBeat := 0
  adoptThru := 0
  faultEnd := false

/-- The state right after reset: the VDDAON power-on reset has just released (R21, R484). -/
def State.reset : State where
  regs := []
  glb := Glb.reset
  irq := Irq.reset
  evr := Evr.reset
  sti := Sti.reset
  cfl := Cfl.reset
  dge := Dge.reset
  stw := Stw.reset
  pq := Pq.reset
  mbx := Mbx.reset
  hp := Hp.reset
  cch := Cch.reset
  dsp := Dsp.reset
  ldg := Ldg.reset
  ctl := Ctl.reset
  seq := Seq.reset
  drn := Drn.reset
  vlt := Vlt.reset
  rst := Rst.reset
  mlk := Mlk.reset
  mtx := Mtx.reset
  out := []
  pending := []

/-- Change Glb alone. -/
def State.updGlb (s : State) (f : Glb → Glb) : State := { s with glb := f s.glb }

/-- Change Irq alone. -/
def State.updIrq (s : State) (f : Irq → Irq) : State := { s with irq := f s.irq }

/-- Change Evr alone. -/
def State.updEvr (s : State) (f : Evr → Evr) : State := { s with evr := f s.evr }

/-- Change Sti alone. -/
def State.updSti (s : State) (f : Sti → Sti) : State := { s with sti := f s.sti }

/-- Change Cfl alone. -/
def State.updCfl (s : State) (f : Cfl → Cfl) : State := { s with cfl := f s.cfl }

/-- Change Dge alone. -/
def State.updDge (s : State) (f : Dge → Dge) : State := { s with dge := f s.dge }

/-- Change Stw alone. -/
def State.updStw (s : State) (f : Stw → Stw) : State := { s with stw := f s.stw }

/-- Change Pq alone. -/
def State.updPq (s : State) (f : Pq → Pq) : State := { s with pq := f s.pq }

/-- Change Mbx alone. -/
def State.updMbx (s : State) (f : Mbx → Mbx) : State := { s with mbx := f s.mbx }

/-- Change Hp alone. -/
def State.updHp (s : State) (f : Hp → Hp) : State := { s with hp := f s.hp }

/-- Change Cch alone. -/
def State.updCch (s : State) (f : Cch → Cch) : State := { s with cch := f s.cch }

/-- Change Dsp alone. -/
def State.updDsp (s : State) (f : Dsp → Dsp) : State := { s with dsp := f s.dsp }

/-- Change Ldg alone. -/
def State.updLdg (s : State) (f : Ldg → Ldg) : State := { s with ldg := f s.ldg }

/-- Change Ctl alone. -/
def State.updCtl (s : State) (f : Ctl → Ctl) : State := { s with ctl := f s.ctl }

/-- Change Seq alone. -/
def State.updSeq (s : State) (f : Seq → Seq) : State := { s with seq := f s.seq }

/-- Change Drn alone. -/
def State.updDrn (s : State) (f : Drn → Drn) : State := { s with drn := f s.drn }

/-- Change Vlt alone. -/
def State.updVlt (s : State) (f : Vlt → Vlt) : State := { s with vlt := f s.vlt }

/-- Change Rst alone. -/
def State.updRst (s : State) (f : Rst → Rst) : State := { s with rst := f s.rst }

/-- Change Mlk alone. -/
def State.updMlk (s : State) (f : Mlk → Mlk) : State := { s with mlk := f s.mlk }

/-- Change Mtx alone. -/
def State.updMtx (s : State) (f : Mtx → Mtx) : State := { s with mtx := f s.mtx }

end Sys2Proof.Machine
end

