-- ==== Sys2Proof/Machine/Codes.lean ====
section
/-! DEFINITION. Check codes of records and frames, and the bytes of an event record (R461, R418, R301). -/

namespace Sys2Proof.Machine

/-- `n` steps of a reflected CRC with polynomial `poly`. -/
def crcShift (poly : Nat) : Nat → Nat → Nat
  | 0, c => c
  | n + 1, c => crcShift poly n (if c % 2 = 1 then (c / 2) ^^^ poly else c / 2)

/-- A reflected CRC over bytes, from a start value. -/
def crcRefl (poly : Nat) : Nat → List Byte → Nat
  | c, [] => c
  | c, b :: bs => crcRefl poly (crcShift poly 8 (c ^^^ b.toNat)) bs

/-- CRC-32C (Castagnoli), as the cells, records and directories of the spec use it. -/
def crc32c (l : List Byte) : Nat := crcRefl 0x82F63B78 0xFFFFFFFF l ^^^ 0xFFFFFFFF

/-- The flags byte of a record: severity, REBASED, CLEARREC (R461). -/
def Rec.flags (r : Rec) : Nat := severity r.code + 4 * b2n r.rebased + 8 * b2n r.clearRec

/-- Bytes 0 to 59 of a record. -/
def Rec.body (r : Rec) : List Byte :=
  leBytes 4 r.seq ++ leBytes 8 r.beat ++ leBytes 2 r.code ++ leBytes 2 r.src ++ leBytes 1 r.flags ++ leBytes 1 r.nsnap
    ++ leBytes 2 r.rep ++ leBytes 8 r.lastBeat ++ ((List.range 8).map fun i => leBytes 4 (r.snap.getD i 0)).flatten

/-- The 64 bytes of a record (Table: Event record). A partial record's CRC does not agree (R465). -/
def Rec.bytes (r : Rec) : List Byte :=
  r.body ++ leBytes 4 (if r.whole then crc32c r.body else crc32c r.body ^^^ 0xFFFFFFFF)

/-- The bytes of an ASCII string. -/
def ascii (t : String) : List Byte := t.toList.map fun c => BitVec.ofNat 8 c.toNat

end Sys2Proof.Machine
end

