-- ==== Sys2Proof/Machine/Ecc.lean ====
section
/-! DEFINITION. Reed-Solomon and BCH codes over GF(2^m): the line code RS(80,64) of R115, the frame code of the mirror link
and the chunk code of the vault use these. -/

namespace Sys2Proof.Machine

/-- A field GF(2^m) with its polynomial, and a code over it: the exponent of the first root of the generator and the
count of roots. -/
structure Code where
  m : Nat
  poly : Nat
  first : Nat
  roots : Nat
deriving DecidableEq, Repr

/-- Multiplication, one bit of `b` at a time. -/
def Code.mulBits (c : Code) : Nat → Nat → Nat → Nat
  | 0, _, _ => 0
  | n + 1, a, b =>
    (if b % 2 = 1 then a else 0) ^^^
      c.mulBits n (if 2 ^ c.m ≤ 2 * a then (2 * a) ^^^ c.poly else 2 * a) (b / 2)

/-- Multiplication in the field. -/
def Code.mul (c : Code) (a b : Nat) : Nat := if a = 0 ∨ b = 0 then 0 else c.mulBits c.m a b

/-- Power, `n` bits of exponent. -/
def Code.powBits (c : Code) : Nat → Nat → Nat → Nat
  | 0, _, _ => 1
  | n + 1, a, e =>
    let h := c.powBits n (c.mul a a) (e / 2)
    if e % 2 = 1 then c.mul a h else h

/-- The element alpha^e; alpha is the element x. -/
def Code.alpha (c : Code) (e : Nat) : Nat := c.powBits c.m 2 (e % (2 ^ c.m - 1))

/-- The inverse of a nonzero element. -/
def Code.inv (c : Code) (a : Nat) : Nat := c.powBits c.m a (2 ^ c.m - 2)

/-- Value at `x` of a polynomial whose coefficients stand highest first. -/
def Code.evalHi (c : Code) (x : Nat) (p : List Nat) : Nat := p.foldl (fun acc k => c.mul acc x ^^^ k) 0

/-- Value at `x` of a polynomial whose coefficients stand lowest first. -/
def Code.evalLo (c : Code) (x : Nat) (p : List Nat) : Nat := c.evalHi x p.reverse

/-- The syndromes of a word whose first symbol has the highest power. -/
def Code.syndromes (c : Code) (w : List Nat) : List Nat :=
  (List.range c.roots).map fun j => c.evalHi (c.alpha (c.first + j)) w

/-- Sum of two polynomials, lowest first. -/
def polyAdd : List Nat → List Nat → List Nat
  | [], q => q
  | p, [] => p
  | a :: p, b :: q => (a ^^^ b) :: polyAdd p q

/-- The state of the Berlekamp-Massey algorithm. -/
structure Bm where
  cur : List Nat
  prev : List Nat
  len : Nat
  gap : Nat
  disc : Nat
  seen : List Nat      -- syndromes taken in, latest first
deriving DecidableEq, Repr

/-- One step of the Berlekamp-Massey algorithm. -/
def Code.bmStep (c : Code) (st : Bm) (syn : Nat) : Bm :=
  let seen := syn :: st.seen
  let d := ((List.zipWith c.mul st.cur seen).take (st.len + 1)).foldl (· ^^^ ·) 0
  if d = 0 then { st with gap := st.gap + 1, seen := seen }
  else
    let k := c.mul d (c.inv st.disc)
    let next := polyAdd st.cur (List.replicate st.gap 0 ++ st.prev.map (c.mul k))
    if 2 * st.len ≤ st.seen.length then
      { cur := next, prev := st.cur, len := st.seen.length + 1 - st.len, gap := 1, disc := d, seen := seen }
    else { st with cur := next, gap := st.gap + 1, seen := seen }

/-- The error locator of a syndrome list, lowest first, and its length. -/
def Code.locator (c : Code) (syn : List Nat) : List Nat × Nat :=
  let st := syn.foldl c.bmStep ⟨[1], [1], 0, 1, 1, []⟩
  (st.cur, st.len)

/-- The error value at a locator `x` (Forney). -/
def Code.errorValue (c : Code) (lam syn : List Nat) (x : Nat) : Nat :=
  let xi := c.inv x
  let omega := (List.range c.roots).map fun i =>
    ((List.range (i + 1)).map fun j => c.mul (lam.getD j 0) (syn.getD (i - j) 0)).foldl (· ^^^ ·) 0
  let dLam := (List.range lam.length).map fun i => if i % 2 = 0 then lam.getD (i + 1) 0 else 0
  let v := c.mul (c.evalLo xi omega) (c.inv (c.evalLo xi dLam))
  c.mul v (c.powBits c.m x ((2 ^ c.m - 1 + 1 - c.first % (2 ^ c.m - 1)) % (2 ^ c.m - 1)))

/-- Decode a word of symbols: the corrected word and the positions corrected, where it lies within half the count of
roots of a codeword; none otherwise. -/
def Code.decode (c : Code) (w : List Nat) : Option (List Nat × List Nat) :=
  let syn := c.syndromes w
  if syn.all (· = 0) then some (w, [])
  else
    let lam := (c.locator syn).1
    let n := w.length
    let pos := (List.range n).filter fun i => c.evalLo (c.inv (c.alpha (n - 1 - i))) lam = 0
    let w' := (List.range n).map fun i =>
      if pos.contains i then w.getD i 0 ^^^ c.errorValue lam syn (c.alpha (n - 1 - i)) else w.getD i 0
    if pos.length ≤ c.roots / 2 ∧ (c.syndromes w').all (· = 0) then some (w', pos) else none

/-- The generator polynomial of a Reed-Solomon code, lowest first. -/
def Code.generator (c : Code) : List Nat :=
  (List.range c.roots).foldl
    (fun g j => polyAdd (0 :: g) (g.map (c.mul (c.alpha (c.first + j))))) [1]

/-- One step of the systematic encoder: the register highest first. -/
def Code.encStep (c : Code) (gen : List Nat) (reg : List Nat) (s : Nat) : List Nat :=
  let fb := s ^^^ reg.headD 0
  polyAdd (reg.drop 1 ++ [0]) ((gen.reverse.drop 1).map (c.mul fb))

/-- The check symbols of a message, highest first. -/
def Code.checks (c : Code) (msg : List Nat) : List Nat :=
  msg.foldl (c.encStep c.generator) (List.replicate c.roots 0)

/-- RS(80,64) over GF(2^8) with x^8 + x^4 + x^3 + x^2 + 1 and roots alpha^0 to alpha^15 (R115). -/
def lineCode : Code := ⟨8, 0x11D, 0, 16⟩

/-- The symbols of a line. -/
def lineSyms (l : Line) : List Nat := (List.range 64).map fun i => bits l.toNat (8 * i) 8

/-- The line that 64 symbols spell. -/
def symsLine (l : List Nat) : Line := BitVec.ofNat 512 (ofLe ((l.take 64).map (BitVec.ofNat 8)))

/-- The codeword of a line, its check symbols inverted where it stands as poison (R118). -/
def encodeLine (l : Line) (poison : Bool) : List Nat :=
  lineSyms l ++ (lineCode.checks (lineSyms l)).map fun x => if poison then x ^^^ 0xFF else x

/-- The symbols of a received codeword. -/
def codewordSyms (w : Codeword) : List Nat := (List.range 80).map fun i => bits w.toNat (8 * i) 8

/-- Invert the check symbols of a word. -/
def invertChecks (w : List Nat) : List Nat := w.take 64 ++ (w.drop 64).map (· ^^^ 0xFF)

/-- The outcomes of a DRAM read (Table: Decode outcomes). -/
inductive ReadOutcome where
  | good (l : Line)
  | poison (l : Line) (positions : List Nat)
  | corrected (l : Line) (positions : List Nat)
  | uncorrectable
deriving DecidableEq, Repr

/-- Decode a read word by taking the first outcome of the table that applies (R118). -/
def decodeLine (w : Codeword) : ReadOutcome :=
  let a := codewordSyms w
  let b := invertChecks a
  if (lineCode.syndromes a).all (· = 0) then .good (symsLine a)
  else if (lineCode.syndromes b).all (· = 0) then .poison (symsLine b) []
  else match lineCode.decode a with
    | some (x, ps) => .corrected (symsLine x) ps
    | none => match lineCode.decode b with
      | some (x, ps) => .poison (symsLine x) ps
      | none => .uncorrectable

/-- The device of a symbol (R116). -/
def deviceOf (sym : Nat) : Nat := sym / 8

/-- The data or check-bit line that bit `i` of a symbol crosses, numbered 0 to 31 for DQ and 32 to 39 for CB, and its transfer
in the burst of 16 (R116): line 4 d + i of device d, the low nibble at transfer 2 k and the high one at 2 k + 1. -/
def burstLine (sym i : Nat) : Nat := 4 * deviceOf sym + i % 4
def burstTransfer (sym i : Nat) : Nat := 2 * (sym % 8) + i / 4

/-- The symbol and the bit that cross a line at a transfer. -/
def burstSymbol (line transfer : Nat) : Nat := 8 * (line / 4) + transfer / 2
def burstBit (line transfer : Nat) : Nat := line % 4 + 4 * (transfer % 2)

/-- The 40 bits of a codeword on the lines of a subchannel at one transfer. -/
def burstAt (w : Codeword) (transfer : Nat) : BitVec 40 :=
  BitVec.ofNat 40 (((List.range 40).map fun l =>
    bits w.toNat (8 * burstSymbol l transfer + burstBit l transfer) 1 * 2 ^ l).foldl (· + ·) 0)

/-- Whether all positions lie on one device (R118). -/
def oneDevice (ps : List Nat) : Option Nat :=
  match ps with
  | [] => none
  | p :: rest => if rest.all fun q => deviceOf q = deviceOf p then some (deviceOf p) else none

end Sys2Proof.Machine
end

