-- ==== Sys2Proof/Config.lean ====
section
/-! DEFINITION. What an implementation fixes and what the spec leaves open. A value the spec leaves open is an opaque
constant: no proof can see it. -/

namespace Sys2Proof.Config

/-- A fresh value the spec leaves open, for the `n`-th such value of a run. -/
opaque freeValue : Nat → Nat

/-- The fused 64-bit die identity (R316; GLB_DIEID reads the fused value). -/
opaque dieId : BitVec 64

/-- The device key fused into the die, under which the key backing cell is wrapped (R449). -/
opaque deviceKey : BitVec 256

/-- The 32 bytes the entropy source gives for the `n`-th draw (R441, R467, R320). -/
opaque entropy : Nat → BitVec 256

/-- The bank group, bank and row of an offset in a rank: the mapping is internal (R113). -/
opaque dramPlace : Nat → Nat × Nat × Nat

/-- The parameter pages and the factory bad marks that a flash module shows when a register write adds it, for the `n`-th open
value of a run (R231, R262). -/
opaque paramPages : Nat → BitVec 2 → List Machine.ParamPage
opaque factoryMarks : Nat → BitVec 2 → List Machine.BadMark

/-- The lanes on which training agrees precoding, by the beat of the training (R286, R290). -/
opaque precoding : Nat → BitVec 16

/-- Whether a scan code of a module's presence contact reads present; the spec gives no threshold (R162, R260). -/
opaque presenceReads : Nat → Bool

/-- The terminal voltage in mV that a scan code of energy module `m` stands for: the board's divider (R505). -/
opaque moduleMv : Nat → Nat → Nat

/-- The sensor reading that a rail's scan code stands for, by rail and code: the image's scaling, which no section of the
image gives (R456, R404). -/
opaque railReading : Nat → Nat → Nat

/-- The version of the microcode in a slot's bytes, read from the payload's package VERSION; the slot layout is not given. -/
opaque microcodeVersion : Nat → Nat

/-- The version of the firmware in a boot block; the block layout is not given (R425, STW_FWVER). -/
opaque firmwareVersion : Nat → Nat

/-- The bytes that a sideband or mailbox query returns where the spec names the query and not the content:
the query's code and the index asked. -/
opaque responseBytes : Nat → Nat → List Byte

/-- Byte `i` of a sector that a failed erase left open, for the `n`-th such sector (R431). -/
opaque freeByte : Nat → Nat → Byte

/-- The raw bytes of a class of states that the spec names and whose layout it does not give. -/
opaque openBytes : Nat → List Byte → List Byte

/-- The low byte of the event code that logs a refused maintenance action of a block; R36 asks for the log and names no code. -/
opaque refusalCode : Nat → Byte

end Sys2Proof.Config
end

