-- ==== Sys2Proof/Machine/ImageFields.lean ====
section
/-! DEFINITION. The fields of a structure image by section and byte (R404). -/

namespace Sys2Proof.Machine

/-- The little-endian number of `n` bytes at an offset; bytes past the end read 0. -/
def leAt (l : List Byte) (off n : Nat) : Nat := ofLe ((l.drop off).take n)

/-- The image with no sections: every field reads 0. -/
def Image.empty : Image := ⟨0, 0, []⟩

/-- Section `k`, 1 to 11. -/
def Image.sec (i : Image) (k : Nat) : List Byte := (i.secs.drop (k - 1)).headD []

/-- The byte at an offset of a section. -/
def Image.u8 (i : Image) (k off : Nat) : Nat := leAt (i.sec k) off 1
def Image.u16 (i : Image) (k off : Nat) : Nat := leAt (i.sec k) off 2
def Image.u32 (i : Image) (k off : Nat) : Nat := leAt (i.sec k) off 4
def Image.u64 (i : Image) (k off : Nat) : Nat := leAt (i.sec k) off 8

/-- Section 1: the tile mask of pool 0 to 3, and of the queue tiles as 4. -/
def Image.pool (i : Image) (p : Nat) : Nat := i.u64 1 (8 * p)
def Image.queueMask (i : Image) : Nat := i.u64 1 32
def Image.qcapLines (i : Image) : Nat := i.u8 1 40 * 16384

/-- Section 2: spares, mirrored and acknowledge-after-mirror masks, ceilings and class regions. -/
def Image.spares (i : Image) : Nat := i.u8 2 0
def Image.mirrorBit (i : Image) (c : Nat) : Bool := c < 3 && bitOf (i.u8 2 1) c
def Image.aamBit (i : Image) (c : Nat) : Bool := c < 3 && bitOf (i.u8 2 2) c
def Image.ceil (i : Image) (n : Nat) : Nat := i.u16 2 (4 + 2 * n)
def Image.base (i : Image) (c : Nat) : Nat := i.u64 2 (16 + 16 * c)
def Image.size (i : Image) (c : Nat) : Nat := i.u64 2 (24 + 16 * c)

/-- The class, 0 to 4, whose region holds a cache address. -/
def Image.classAt (i : Image) (ca : Nat) : Option Nat :=
  [0, 1, 2, 3, 4].find? fun c => decide (i.base c ≤ ca) && decide (ca < i.base c + i.size c)

/-- Section 3: the ledger figures in table order, 4 bytes each. -/
def Image.vfloor (i : Image) : Nat := i.u32 3 0
def Image.eta (i : Image) : Nat := i.u16 3 4
def Image.pcap (i : Image) : Nat := i.u32 3 8
def Image.hconf (i : Image) : Nat := i.u16 3 12
def Image.hconfStale (i : Image) : Nat := i.u16 3 16
def Image.cminMod (i : Image) : Nat := i.u32 3 20
def Image.esrmaxMod (i : Image) : Nat := i.u32 3 24
def Image.hstale (i : Image) : Nat := i.u32 3 28
def Image.fixMj (i : Image) : Nat := i.u32 3 32
def Image.brim (i : Image) : Nat := i.u32 3 36
def Image.graceMw (i : Image) : Nat := i.u32 3 40
def Image.pdrainMw (i : Image) : Nat := i.u32 3 44
/-- The design coefficient of class slot `n` (A, B, C, M, queue) in the K4 set or the K3 set. -/
def Image.kdes (i : Image) (k3 : Bool) (n : Nat) : Nat := i.u32 3 ((if k3 then 68 else 48) + 4 * n)
def Image.graceBeats (i : Image) : Nat := i.u16 3 88
def Image.pres (i : Image) (m : Nat) : Nat := i.u8 3 (90 + m)

/-- Section 4: the control figures. -/
def Image.sdiv (i : Image) : Nat := i.u8 4 0
def Image.phases (i : Image) : Nat := i.u8 4 1
def Image.dt (i : Image) : Nat := i.u8 4 2
def Image.tscan (i : Image) : Nat := i.u8 4 3
def Image.lNh (i : Image) : Nat := i.u32 4 4
def Image.fswKhz (i : Image) : Nat := i.u16 4 8
def Image.hbMin (i : Image) : Nat := i.u16 4 10
def Image.hbMax (i : Image) : Nat := i.u16 4 12
def Image.vbusSet (i : Image) : Nat := i.u16 4 14
def Image.vbusSag (i : Image) : Nat := i.u16 4 16
def Image.vbusOv (i : Image) : Nat := i.u16 4 18
def Image.vchg (i : Image) : Nat := i.u16 4 20
def Image.vchgMax (i : Image) : Nat := i.u16 4 22
def Image.ibankChg (i : Image) : Nat := i.u16 4 24
def Image.ibankDis (i : Image) : Nat := i.u16 4 26
def Image.htI (i : Image) : Nat := i.u16 4 28
def Image.iphMax (i : Image) : Nat := i.u16 4 30
def Image.iphTrip (i : Image) : Nat := i.u16 4 32
def Image.tStart (i : Image) : Int := signedOf 16 (i.u16 4 34)
def Image.tStop (i : Image) : Int := signedOf 16 (i.u16 4 36)
def Image.slewV (i : Image) : Nat := i.u16 4 38
def Image.slewI (i : Image) : Nat := i.u16 4 40
def Image.htSlew (i : Image) : Nat := i.u16 4 42
def Image.eqWindow (i : Image) : Nat := i.u16 4 44
def Image.ctlPcap (i : Image) : Nat := i.u32 4 48
def Image.htBeats (i : Image) : Nat := i.u32 4 52
def Image.eqBeats (i : Image) : Nat := i.u32 4 56
/-- Loop figures of slot 0 to 3 (loops 1, 2, 3, 7): KP c and sh, KI c and sh (R192). -/
def Image.kpC (i : Image) (j : Nat) : Nat := i.u32 4 (64 + 16 * j)
def Image.kpSh (i : Image) (j : Nat) : Nat := i.u8 4 (68 + 16 * j)
def Image.kiSh (i : Image) (j : Nat) : Nat := i.u8 4 (69 + 16 * j)
def Image.kiC (i : Image) (j : Nat) : Nat := i.u32 4 (72 + 16 * j)
def Image.gain (i : Image) (n : Nat) : Nat := i.u32 4 (128 + 4 * n)
def Image.offset (i : Image) (n : Nat) : Nat := i.u16 4 (160 + 2 * n)
def Image.modv (i : Image) (m : Nat) : Nat := i.u8 4 (176 + m)
def Image.toff (i : Image) : Int := signedOf 16 (i.u16 4 180)
def Image.tslope (i : Image) : Int := signedOf 16 (i.u16 4 182)

/-- Sections 5, 6 and 7 as one table: rails and groups, scan list and thresholds, domain rules (R376). -/
def Image.table (i : Image) : List (List Byte) := [i.sec 5, i.sec 6, i.sec 7]

/-- Section 6: INMON and BANKMON figures, the bank millivolts per code, the droop depth. -/
def Image.inWarn (i : Image) : Nat := i.u16 6 68
def Image.inCollapse (i : Image) : Nat := i.u16 6 70
def Image.inHyst (i : Image) : Nat := i.u8 6 72
def Image.inDeglitch (i : Image) : Nat := i.u8 6 73
def Image.dfloor (i : Image) : Nat := i.u16 6 74
def Image.sfloor (i : Image) : Nat := i.u16 6 76
def Image.bankHyst (i : Image) : Nat := i.u8 6 78
def Image.bankDeglitch (i : Image) : Nat := i.u8 6 79
def Image.bmv (i : Image) : Nat := i.u16 6 80
def Image.droopMv (i : Image) : Nat := i.u8 6 82

/-- Section 8: register `n` of the snapshot list of trigger class `k`. -/
def Image.snapReg (i : Image) (k n : Nat) : Nat := i.u32 8 (32 * k + 4 * n)

/-- Section 9: the channel class and the mirror extents. -/
def Image.chclass (i : Image) : Nat := i.u8 9 0
def Image.next (i : Image) : Nat := i.u8 9 1
def Image.extClass (i : Image) (x : Nat) : Nat := i.u8 9 (8 + 32 * x)
def Image.extBase (i : Image) (x : Nat) : Nat := i.u64 9 (16 + 32 * x)
def Image.extLen (i : Image) (x : Nat) : Nat := i.u64 9 (24 + 32 * x)
def Image.extOff (i : Image) (x : Nat) : Nat := i.u64 9 (32 + 32 * x)

/-- Section 10: the vault geometry. -/
def Image.planes (i : Image) : Nat := i.u8 10 0
def Image.targets (i : Image) : Nat := i.u8 10 1
def Image.pages (i : Image) : Nat := i.u16 10 2
def Image.blocks (i : Image) : Nat := i.u16 10 4
def Image.crownBlocks (i : Image) : Nat := i.u8 10 6
def Image.modGroup (i : Image) (m : Nat) : Nat := i.u8 10 (8 + m)
def Image.modPres (i : Image) (m : Nat) : Nat := i.u8 10 (12 + m)

/-- Section 11: the slot that serves a role, and each slot's use and policy. -/
def Image.dataKey (i : Image) : Nat := i.u8 11 0
def Image.sealKey (i : Image) : Nat := i.u8 11 1
def Image.pairKey (i : Image) : Nat := i.u8 11 2
def Image.ownerKey (i : Image) : Nat := i.u8 11 3
def Image.clearKey (i : Image) : Nat := i.u8 11 4
def Image.escrowKey (i : Image) : Nat := i.u8 11 5
def Image.updKey (i : Image) : Nat := i.u8 11 6
def Image.slotUse (i : Image) (k : Nat) : Nat := i.u8 11 (8 + 4 * k)
def Image.slotPolicy (i : Image) (k : Nat) : Nat := i.u8 11 (9 + 4 * k) % 8

/-- The tiles of a mask, ascending. -/
def tilesOf (mask : Nat) : List Nat := (List.range 64).filter fun t => bitOf mask t

end Sys2Proof.Machine
end

