-- ==== Sys2Proof/Machine/Regs.lean ====
section
/-! DEFINITION. Reading and writing register fields: the field store, the fields whose value is the live state of a block,
and the word an agent reads at an offset (R470 to R479). -/

namespace Sys2Proof.Machine

/-- The stored value of a field. The store holds the difference from the reset value, so that it is empty after reset. -/
def State.get (s : State) (f : Fld) : Nat := Store.get 0 s.regs f.key ^^^ f.reset

/-- Store a value in a field, cut to the field's width. -/
def State.set (s : State) (f : Fld) (v : Nat) : State :=
  { s with regs := Store.put 0 s.regs f.key ((v % 2 ^ f.width) ^^^ f.reset) }

/-- A one-bit field as a truth value. -/
def State.bit (s : State) (f : Fld) : Bool := s.get f = 1

/-- Store a truth value in a one-bit field. -/
def State.setB (s : State) (f : Fld) (b : Bool) : State := s.set f (b2n b)

/-- Count events in a saturating field. -/
def State.count (s : State) (f : Fld) (n : Nat) : State := s.set f (satAdd (2 ^ f.width - 1) (s.get f) n)

/-- A 64-bit value held in a _LO and a _HI field. -/
def State.get64 (s : State) (lo hi : Fld) : Nat := s.get lo + 2 ^ 32 * s.get hi

/-- Store a 64-bit value. -/
def State.set64 (s : State) (lo hi : Fld) (v : Nat) : State := (s.set lo v).set hi (v / 2 ^ 32)

/-- The structure image that governs; every field reads 0 while there is none. -/
def State.img (s : State) : Image := s.sti.active.getD Image.empty

/-- On-die domain `d` is on (SEQ_DOMONk). -/
def State.domOn (s : State) (d : Nat) : Bool := bitOf (s.get (SEQ_DOMON_DOMAINS (d / 32))) (d % 32)

/-- GLB_BEAT: the base plus the beats counted since VDDAON returned (R66). -/
def State.beat (s : State) : Nat := s.glb.base + s.glb.beat

/-- The seam of the beat (R42). -/
def State.inSeam (s : State) : Bool := 360 ≤ s.glb.cycle

/-- The boundary at which a bound change takes effect (R54, R56). -/
def State.boundBeat (s : State) : Nat := if s.inSeam then s.glb.beat + 2 else s.glb.beat + 1

/-- A timeout of `k` beats that started in beat `n` has expired (R58, R59). -/
def State.expired (s : State) (n k : Nat) : Bool := if k = 0 then n + 1 ≤ s.glb.beat else n + k + 1 ≤ s.glb.beat

/-- The state admits host writes: SERVE or GRACE (R21). -/
def State.serving (s : State) : Bool := s.glb.st = .serve || s.glb.st = .grace

/-- CXL.mem is trained on a port: its link is up at 8 GT/s or faster (R69). -/
def State.cxl (s : State) (p : Port) : Bool := s.hp.up.get p && s.hp.fast.get p

/-- The port is open to CXL.mem (R21, R22). -/
def State.portOpen (s : State) (p : Port) : Bool := s.serving && s.cxl p

/-- Entries held in a tile's share. -/
def State.shareOcc (s : State) (t : Nat) : Nat := (s.pq.entries.filter fun e => e.tile = t).length

/-- The record of the slot an agent's cursor names (R466). -/
def State.slotRec (s : State) (g : Agent) : Option Rec :=
  s.evr.ring.find? fun r => r.seq % 8192 = s.evr.cursor.get g % 8192

/-- The agent an agent code stands for. -/
def agentOf (ag : Nat) : Agent := if ag = 1 then .hostA else if ag = 2 then .hostB else .stw

/-- A queued interrupt register value. -/
def State.istat (s : State) (ag : Nat) : Nat := s.irq.istat.get (agentOf ag)

/-- Beats a held write has waited. -/
def State.heldFor (s : State) (h : HeldWrite) : Nat := s.glb.beat - h.since

/-- The held writes of a port, oldest first. -/
def State.heldOf (s : State) (p : Port) : List HeldWrite := s.pq.held.filter fun h => h.port = p

/-- The state code of tile `t` (TIL_STATUS.STATE). -/
def State.tile (s : State) (t : Nat) : Nat := s.get (TIL_STATUS_STATE t)

/-- The tile has passed its self-test and is in service. The count of R349 stands in DSP_STATUS through this. -/
def State.inService (s : State) (t : Nat) : Bool := s.dsp.tested && s.domOn t && s.tile t = 0

/-- Live fields of block GLB. -/
def State.liveGlb (s : State) (f : Fld) : Option Nat :=
  if f.off = 0x08 then some (Config.dieId.toNat % 2 ^ 32)
  else if f.off = 0x10 then
    some (if f.lsb = 0 then s.glb.st.code else if f.lsb = 3 then b2n s.glb.lazyRestore else b2n s.glb.beatSrc)
  else if f.off = 0x14 then some (s.beat % 2 ^ 32)
  else if f.off = 0x20 then some (s.istat f.ag % 2 ^ 32)
  else if f.off = 0x24 then some (s.istat f.ag / 2 ^ 32)
  else none

/-- Live fields of block PQ. -/
def State.livePq (s : State) (f : Fld) : Option Nat :=
  if f.off = 0x10008 then
    match f.lsb with
    | 0 => some (b2n (s.portOpen .pa))
    | 1 => some (b2n (s.portOpen .pb))
    | 2 => some (b2n s.drn.stop)
    | 5 => some (b2n (s.serving && s.get LDG_STATUS_ZONE = 2))
    | 6 => some (b2n (s.cxl .pa))
    | 7 => some (b2n (s.cxl .pb))
    | _ => none
  else if f.off = 0x1000C then some s.pq.entries.length
  else if f.off = 0x10120 ∨ f.off = 0x10220 then
    let h := s.heldOf (if f.off = 0x10120 then .pa else .pb)
    if f.lsb = 0 then some h.length
    else some (match h with | [] => 0 | w :: _ => min 65535 (s.heldFor w))
  else if f.off = 0x10124 ∧ f.lsb = 0 then some s.pq.pend.a.length
  else if f.off = 0x10224 ∧ f.lsb = 0 then some s.pq.pend.b.length
  else none

/-- The tiles out of service: quiescing, out, loading, self-testing or failed. -/
def State.outMask (s : State) : Nat :=
  ((List.range 64).filter fun t => !s.inService t).foldl (fun m t => m + 2 ^ t) 0

/-- Live fields of block DSP. -/
def State.liveDsp (s : State) (f : Fld) : Option Nat :=
  if f.off = 0x90000 then
    match f.lsb with
    | 0 => some ((List.range 64).filter fun t => s.inService t).length
    | 8 => some (if s.dsp.tested then ((List.range 64).filter fun t => s.tile t ≠ 0).length else 0)
    | 16 => some (b2n s.dsp.roll.isSome)
    | _ => none
  else if f.off = 0x9003C then some (((s.dsp.cpl.get (agentOf f.ag)).headD (0, 0)).1)
  else if f.off = 0x90040 then
    let q := s.dsp.cpl.get (agentOf f.ag)
    match f.lsb with
    | 0 => some ((q.headD (0, 0)).2)
    | 3 => some (b2n (!q.isEmpty))
    | 4 => some (min 64 q.length)
    | _ => none
  else if f.off = 0x90050 then some (if s.dsp.tested then s.outMask % 2 ^ 32 else 0)
  else if f.off = 0x90054 then some (if s.dsp.tested then s.outMask / 2 ^ 32 else 0)
  else none

/-- A task runs on an engine. -/
def TaskSt.isRunning : TaskSt → Bool
  | .running _ => true
  | _ => false

/-- Live fields of a TIL window. -/
def State.liveTil (s : State) (f : Fld) : Option Nat :=
  let t := (f.off - 0x100000) / 0x4000
  let o := (f.off - 0x100000) % 0x4000
  if o = 0 then
    match f.lsb with
    | 4 => some (if s.tile t = 0 then
        ((List.range 4).filter fun p => bitOf (s.img.pool p) t).foldl (fun m p => m + 2 ^ p) 0 else 0)
    | 8 => some (b2n (bitOf s.img.queueMask t))
    | 16 => some ((s.dsp.tasks.filter fun k => k.tile = t && k.st.isRunning).length)
    | _ => none
  else if 0x10 ≤ o ∧ o < 0x30 then
    some ((s.dsp.tasks.filter fun k => k.tile = t && k.prio = (o - 0x10) / 4 && k.st = .ready).length)
  else if o = 0x30 then some ((s.dsp.tasks.filter fun k => k.tile = t && k.st = .waiting).length)
  else none

/-- The first sector of the cell of a TYPE (Table: Sector map, Table: Cell contents). -/
def cellSector (ty : Nat) : Nat := if ty ≤ 2 then 30 + 2 * ty else 32 + 2 * ty

/-- The first sector an internal write works on. -/
def IWrite.sector : IWrite → Nat
  | .cell ty _ => cellSector ty
  | .role _ => cellSector 2
  | .seqCopy n _ => 36 + n
  | .log _ => 48
  | .staged off _ => off / 65536

/-- The sector an operation of the flash works on. -/
def FlashOp.sector : FlashOp → Nat
  | .program _ _ n _ => n
  | .erase _ _ n _ => n
  | .blank _ _ n => n
  | .internal w => w.sector
  | .internalErase _ n _ => n
  | .refused w => w.sector

/-- The owner code of an agent in CFL_STATUS. -/
def ownerCode : Agent → Nat
  | .stw => 2
  | .hostA => 3
  | .hostB => 4

/-- The owner of the running operation. -/
def FlashOp.owner : FlashOp → Nat
  | .program g _ _ _ => ownerCode g
  | .erase g _ _ _ => ownerCode g
  | .blank g _ _ => ownerCode g
  | _ => 1

/-- The compatibility method runs an operation. -/
def FlashOp.isCompat : FlashOp → Bool
  | .program _ c _ _ => c
  | .erase _ c _ _ => c
  | .blank _ c _ => c
  | _ => false

/-- Live fields of block CFL. -/
def State.liveCfl (s : State) (f : Fld) : Option Nat :=
  if f.off = 0xC0000 then
    match f.lsb with
    | 0 => some (b2n (s.cfl.op.isSome || s.cfl.bg.isSome))
    | 1 => some (match s.cfl.op, s.cfl.seq, s.cfl.compat with
        | some o, _, _ => o.owner
        | _, some q, _ => ownerCode q.agent
        | _, _, some c => ownerCode c.agent
        | _, _, _ => b2n s.cfl.bg.isSome)
    | 4 => some (b2n (s.cfl.half ≠ 0))
    | 16 => some (match s.cfl.op with | some o => o.sector | none => (s.cfl.bg.getD (0, 0)).1)
    | _ => none
  else if f.off = 0xC0024 then
    let code := if s.bit CFL_CTRL_COMPAT then s.get CFL_COMPAT_STAT_CODE else 11
    match f.lsb with
    | 0 => some code
    | 6 => some (b2n (code ≠ 0 && code ≠ 1))
    | 7 => some (b2n (!(match s.cfl.op with | some o => o.isCompat | none => false)))
    | _ => none
  else if 0xC0040 ≤ f.off ∧ f.off < 0xC00C0 then some (bits s.cfl.flags (8 * (f.off - 0xC0040)) 32)
  else none

/-- The block size of an algorithm: 64 bytes for SHA-256, 128 for SHA-384. -/
def blockSize (alg : Nat) : Nat := if alg % 2 = 0 then 64 else 128

/-- The filling block is full while the compressing block has not finished (R436). -/
def DgeComp.full (c : DgeComp) (compressing : Bool) : Bool := compressing && c.done + 2 * blockSize c.alg ≤ c.fed.length

/-- The owner code of a requester in DGE_STATUS. -/
def DgeWho.code : DgeWho → Nat
  | .host .hostA => 1
  | .host .hostB => 2
  | .host .stw => 3
  | _ => 4

/-- The priority of a requester (Table: Requester priorities). -/
def DgeWho.prio : DgeWho → Nat
  | .crown => 5
  | .mirror => 4
  | .image => 3
  | .recClear => 2
  | .host .stw => 1
  | .host _ => 0

/-- Live fields of block DGE. -/
def State.liveDge (s : State) (f : Fld) : Option Nat :=
  if f.off = 0xD0000 then
    match f.lsb with
    | 0 => some (match s.dge.owner with | some c => c.who.code | none => 0)
    | 3 => some (match s.dge.owner with | some c => c.who.prio | none => 0)
    | 6 => some (b2n s.dge.compressing)
    | 8 => some (((List.range 4).filter fun n => (Store.get none s.dge.ctx n).isSome).foldl (fun m n => m + 2 ^ n) 0)
    | _ => none
  else if f.off = 0xD0014 ∧ f.lsb = 3 then
    some (b2n (match s.dge.owner with
      | some c => c.who = .host (agentOf f.ag) && c.full s.dge.compressing
      | none => false))
  else if 0xD0050 ≤ f.off ∧ f.off < 0xD0060 then
    match Store.get none s.dge.ctx ((f.off - 0xD0050) / 4) with
    | none => some 0
    | some c => match f.lsb with
      | 0 => some 1
      | 1 => some (b2n (2 ≤ c.comp.alg))
      | 2 => some c.comp.who.code
      | 5 => some c.comp.who.prio
      | _ => none
  else if 0xD0100 ≤ f.off ∧ f.off < 0xD0180 then
    let k := Store.get ⟨none, 0, false, 0, 0⟩ s.dge.slots ((f.off - 0xD0100) / 4)
    match f.lsb with
    | 0 => some (b2n k.key.isSome)
    | 1 => some (b2n k.locked)
    | 2 => some k.use
    | 5 => some k.policy
    | 16 => some (k.gen % 65536)
    | _ => none
  else none

/-- Live fields of block EVR. -/
def State.liveEvr (s : State) (f : Fld) : Option Nat :=
  if f.off = 0xE0000 ∧ f.lsb = 0 then some s.evr.ring.length
  else if f.off = 0xE0000 ∧ f.lsb = 17 then some (b2n s.evr.sevIrq)
  else if f.off = 0xE000C then some (match s.evr.ring with | r :: _ => r.seq | [] => 0)
  else if f.off = 0xE0010 then some (match s.evr.ring.getLast? with | some r => r.seq | none => 0)
  else if f.off = 0xE001C then some (s.evr.cursor.get (agentOf f.ag))
  else if f.off = 0xE0020 then
    if f.lsb = 0 then some (s.evr.gen.get (agentOf f.ag))
    else some (b2n (match s.slotRec (agentOf f.ag) with
      | some r => r.seq = s.evr.cursor.get (agentOf f.ag)
      | none => false))
  else if f.off = 0xE0024 ∧ f.lsb = 16 then some (severity (s.get EVR_SEVQ_CODE))
  else if f.off = 0xE0024 ∧ f.lsb = 18 then some (b2n (knownCode (s.get EVR_SEVQ_CODE)))
  else if 0xE0040 ≤ f.off ∧ f.off < 0xE0080 then
    some (match s.slotRec (agentOf f.ag) with
      | some r => leAt r.bytes (f.off - 0xE0040) 4
      | none => 0)
  else if f.off = 0xE0084 then some (if f.lsb = 0 then s.evr.clrState else s.evr.clrAgent)
  else if f.off = 0xE0088 then some (match s.evr.chal with | some c => c.head | none => 0)
  else if 0xE00A0 ≤ f.off ∧ f.off < 0xE00C0 then
    some (match s.evr.chal with | some c => leAt c.bytes (f.off - 0xE00A0) 4 | none => 0)
  else none

/-- Live fields of block CTL: the faults of the latest 1,000,000 beats (R190). -/
def State.liveCtl (s : State) (f : Fld) : Option Nat :=
  if f.off = 0x40040 ∧ f.lsb = 16 then some (min 65535 (s.ctl.faults.filter fun b => s.glb.beat - b < 1000000).length)
  else none

/-- The link layer is in recovery (R313). -/
def State.recov (s : State) : Bool := s.mlk.nakPend || s.mlk.replayTo.isSome || s.get MLK_STATUS_LSTATE = 4

/-- Credits that the transmitter holds (R311). -/
def Mlk.credit (m : Mlk) : Nat := 256 - (m.sentNew + 4096 - m.peerFreed % 4096) % 4096

/-- Live fields of block MLK. -/
def State.liveMlk (s : State) (f : Fld) : Option Nat :=
  if f.off = 0x70000 ∧ f.lsb = 8 then some (b2n s.recov)
  else if f.off = 0x7000C then some (if f.lsb = 0 then s.mlk.txnext else s.mlk.expect_)
  else if f.off = 0x70010 then some (if f.lsb = 0 then s.mlk.buf.length else if s.get MLK_STATUS_LSTATE = 3 ∨
    s.get MLK_STATUS_LSTATE = 4 then s.mlk.credit else 0)
  else none

/-- The length in beats of the quarantine of a level (R339). -/
def quarBeats (level : Nat) : Nat := 10000000 * 2 ^ (min level 5 - 1)

/-- Live fields of block MTX. -/
def State.liveMtx (s : State) (f : Fld) : Option Nat :=
  if f.off = 0x80038 then some (if f.lsb = 0 then s.mtx.ring.length else s.mtx.lost.length)
  else if f.off = 0x80044 ∧ f.lsb = 16 then
    some (if s.get MTX_STATUS_QUAR = 1 then
      cdiv (s.mtx.quarStart + quarBeats (s.get MTX_QUAR_LEVEL) + 1 - s.glb.beat) 1000000 else 0)
  else if f.off = 0x80060 ∧ f.lsb = 16 then
    some (match s.mtx.hbPeer with | some b => min 65535 (s.glb.beat - b) | none => 0)
  else none

/-- Live fields of the MSI-X structures: the pending bit array of the port (R470). -/
def State.liveMsix (s : State) (f : Fld) : Option Nat :=
  if f.off = 0x201000 ∨ f.off = 0x201004 then
    some (match (agentOf f.ag).port with | some p => bits (s.irq.pba.get p) (8 * (f.off - 0x201000)) 32 | none => 0)
  else none

/-- The offsets of the _LO registers whose read latches the _HI shadow of the reading agent (R64, R102). -/
def latchLo : List Nat := [0x08, 0x14, 0x10108, 0x10110, 0x10208, 0x10210, 0x20044, 0x50020, 0x60018, 0x60020, 0x60044,
  0x60054, 0x80008, 0x80010, 0x80018, 0x80020, 0x80028, 0x80030, 0x80050, 0x80058, 0xB0010, 0xB0018, 0xB0020, 0xB0028,
  0xF0010, 0xF0018, 0xF0020]

/-- The shadow field of an agent for a _HI register. -/
def shadowFld (g : Agent) (hi : Nat) : Fld := ⟨hi, 0, 32, .ro, 0, g.code⟩

/-- The value a field reads: the live state where the field shows live state, else the stored value. -/
def State.view (s : State) (f : Fld) : Nat :=
  let live := match f.off / 0x10000 with
    | 0x0 => s.liveGlb f
    | 0x1 => s.livePq f
    | 0x4 => s.liveCtl f
    | 0x7 => s.liveMlk f
    | 0x8 => s.liveMtx f
    | 0x9 => s.liveDsp f
    | 0xC => s.liveCfl f
    | 0xD => s.liveDge f
    | 0xE => s.liveEvr f
    | n => if 0x10 ≤ n ∧ n < 0x20 then s.liveTil f else if n = 0x20 then s.liveMsix f else none
  live.getD (s.get f)

/-- The domain an offset's block stands in, where that domain is switched (R479). -/
def domainOf (off : Nat) : Option Nat :=
  if 0x100000 ≤ off ∧ off < 0x200000 then some ((off - 0x100000) / 0x4000)
  else if off / 0x10000 = 7 ∨ off / 0x10000 = 8 then some 90
  else none

/-- The offset's block is switched off (R479). -/
def State.blockOff (s : State) (off : Nat) : Bool :=
  match domainOf off with
  | some d => !s.domOn d
  | none => false

/-- The upper half of the 64-bit value of a latching pair as it stands now. -/
def State.liveHi (s : State) (lo : Nat) : Nat :=
  if lo = 0x08 then Config.dieId.toNat / 2 ^ 32
  else if lo = 0x14 then s.beat / 2 ^ 32
  else s.get ⟨lo + 4, 0, 32, .ro, 0, 0⟩

/-- The word an agent reads at an aligned offset, before any effect of the read. The key registers answer the steward
only, and the steward has no vector map (R482). -/
def State.word (s : State) (g : Agent) (off : Nat) : Nat :=
  if s.blockOff off then 0
  else if latchLo.contains (off - 4) ∧ 4 ≤ off then s.get (shadowFld g off)
  else if (0xD0060 ≤ off ∧ off < 0xD00A8) ∧ g ≠ .stw then 0
  else if (0x40 ≤ off ∧ off < 0x64) ∧ g = .stw then 0
  else (fieldsAt g off).foldl (fun w fb => if fb.1.acc = .wo then w else w + s.view fb.1 % 2 ^ fb.1.width * 2 ^ fb.1.lsb) 0

end Sys2Proof.Machine
end

