-- ==== Sys2Proof/Machine/Ops.lean ====
section
/-! DEFINITION. The operations that the meanings share: answering, sending, recording an event, raising an interrupt,
free values, beat-bound writes. -/

namespace Sys2Proof.Machine

/-- The outcome of a meaning. -/
abbrev Out := Host.Outcome State Fault Refusal

/-- The next state. -/
abbrev ok (s : State) : Out := .next s

/-- Send something out. -/
def State.emit (s : State) (o : Output) : State := { s with out := o :: s.out }

/-- A value the spec leaves open, with the state that has drawn it. -/
def State.draw (s : State) : Nat × State := (Config.freeValue s.glb.free, s.updGlb fun g => { g with free := g.free + 1 })

/-- 32 bytes of the entropy source, with the state that has drawn them. -/
def State.entropy (s : State) : List Byte × State :=
  (leBytes 32 (Config.entropy s.glb.free).toNat, s.updGlb fun g => { g with free := g.free + 1 })

/-- The beat-clock cycle now, counted over the beats. -/
def State.cycleNow (s : State) : Nat := 400 * s.glb.beat + s.glb.cycle

/-- The moment stands at a beat boundary: no cycle of the beat has passed (R42). -/
def State.atBoundary (s : State) : Bool := s.glb.cycle = 0

/-- The control space answers an agent: the steward always, a host from BOOT onward until its port's domains are off (R22). -/
def State.answers (s : State) (g : Agent) : Bool :=
  match g.port with
  | none => true
  | some p => decide (s.glb.st ≠ .powerup) && s.domOn (80 + p.num) && s.domOn (82 + p.num)

/-- A command of the steward's mailbox reaches it: from the steward's own side, or from a host that the control space answers. -/
def State.answersOpt (s : State) : Option Port → Bool
  | none => true
  | some p => s.answers p.agent

/-- A port answers what a link below 8 GT/s does not: everything but configuration requests and BAR0 (R22, R69). -/
def State.answersFast (s : State) (p : Port) : Bool := s.answers p.agent && s.cxl p

/-- Send an MSI-X message on a vector of a port: drop it where the port's domains are off, pend it where a mask holds it,
hold it while the link is not trained, else send it (R481). -/
def State.sendMsix (s : State) (p : Port) (v : Nat) : State :=
  if !(s.domOn (80 + p.num) && s.domOn (82 + p.num)) then s
  else if s.irq.funcMask.get p || s.get (MSIX_CTL_MASK v p.agent) = 1 then
    s.updIrq fun i => { i with pba := i.pba.set p (setBit (i.pba.get p) v) }
  else if !(s.hp.up.get p) then
    s.updIrq fun i => { i with held := i.held.set p ((i.held.get p) ++ [v]) }
  else s.emit (.msix p v)

/-- The block enable of an interrupt source. -/
def State.enabled (s : State) (n : Nat) : Bool :=
  match enableField n with
  | some f => s.get f = 1
  | none => n = 8

/-- The interrupt mask of an agent as one 35-bit value. -/
def State.imask (s : State) (g : Agent) : Nat := s.get (GLB_IMASK0_MASK g) + 2 ^ 32 * s.get (GLB_IMASK1_MASK g)

/-- Events of interrupt sources in one fabric cycle at one agent: sources that map to one vector send one message (R480, R481). -/
def State.raiseAt (s : State) (g : Agent) (l : List Nat) : State :=
  let due := l.filter fun n => !bitOf (s.irq.istat.get g) n && s.enabled n && !bitOf (s.imask g) n
  let s' := s.updIrq fun i => { i with istat := i.istat.set g (l.foldl (fun m n => setBit m n) (i.istat.get g)) }
  match g.port with
  | none => s'
  | some p => ((due.map fun n => s.get (vectorField n g)).eraseDups).foldl (fun t v => t.sendMsix p v) s'

/-- Events of interrupt sources in one fabric cycle: the status bits of every agent, and the messages (R480, R481). -/
def State.raiseAll (s : State) (l : List Nat) : State := ((s.raiseAt .hostA l).raiseAt .hostB l).raiseAt .stw l

/-- The event of an interrupt source (R480, R481). -/
def State.raise (s : State) (n : Nat) : State := s.raiseAll [n]

/-- The steward's interrupt line (R482). -/
def State.stwLine (s : State) : Bool :=
  (List.range 35).any fun n => bitOf (s.irq.istat.get .stw) n && !bitOf (s.imask .stw) n && s.enabled n

/-- The snapshot words of a trigger class, read as the steward reads them and with no effect of the read (R404, R463). -/
def State.snapshot (s : State) (k : Nat) : List Nat :=
  if s.sti.active.isNone then []
  else (List.range 8).map fun i => if s.img.snapReg k i = 0xFFFFFFFF then 0 else s.word .stw (s.img.snapReg k i)

/-- The number of snapshot words in use of a trigger class. -/
def State.snapCount (s : State) (k : Nat) : Nat :=
  if s.sti.active.isNone then 0 else ((List.range 8).filter fun i => s.img.snapReg k i ≠ 0xFFFFFFFF).length

/-- Count a change of a recorder slot at the agents whose cursor names it (R466). -/
def Evr.touch (e : Evr) (slot : Nat) : Evr :=
  let bump := fun (g : Agent) => if e.cursor.get g % 8192 = slot % 8192 then (e.gen.get g + 1) % 256 else e.gen.get g
  { e with gen := ⟨bump .hostA, bump .hostB, bump .stw⟩ }

/-- A new event folds into the newest record (R464). -/
def Rec.folds (r : Rec) (code src beat win : Nat) : Bool :=
  r.code = code && r.src = src && (beat - r.lastBeat ≤ win) && r.rep < 65535 && win ≠ 0

/-- Write a record or fold it into the newest one (R461, R464). -/
def Evr.record (e : Evr) (beat code src win : Nat) (nsnap : Nat) (snap : List Nat) (clr : Bool) : Evr :=
  let fresh : Rec := ⟨e.next, beat, code, src, false, clr, 0, beat, nsnap, snap, true⟩
  let add := ({ e with ring := (fresh :: e.ring).take 8192, next := (e.next + 1) % 2 ^ 32 } : Evr).touch e.next
  match e.ring with
  | [] => add
  | r :: rest =>
    if r.folds code src beat win && !clr then
      ({ e with ring := { r with rep := r.rep + 1, lastBeat := beat } :: rest } : Evr).touch r.seq
    else add

/-- The mailbox event logs mirror the recorder's events of PQ, CCH and LDG (R106). DESIGN CHOICE: every event adds a record, one that
the recorder folds into a repeat too; the log has no bound, and handles count from 1. The spec says none of this. -/
def Mbx.mirror (m : Mbx) (code beat : Nat) : Mbx :=
  if 2 ≤ code / 256 ∧ code / 256 ≤ 4 then
    let add := fun (l : List MbxRec) => l ++ [⟨(match l.getLast? with | some r => r.handle | none => 0) + 1, code, beat, severity code⟩]
    { m with log := ⟨add m.log.a, add m.log.b⟩ }
  else m

/-- The steward sends a PLDM event for every recorder event of severity at or above PLDM_SEV (R456); it needs a running
steward and an event receiver. In I3C mode, with target events enabled, an in-band interrupt goes with it. -/
def State.pldmEvent (s : State) (code : Nat) : State :=
  if s.stw.receiver.isSome && (s.get STW_STATUS_RUN = 2 || s.get STW_STATUS_RUN = 3)
      && s.get STW_CTRL_PLDM_SEV ≤ severity code then s.emit (.event code (severity code) (s.stw.i3c && s.stw.events)) else s

/-- Record an event with given snapshot words, and raise what it raises (R461 to R464, R480). -/
def State.eventWith (s : State) (code src : Nat) (nsnap : Nat) (snap : List Nat) (clr : Bool) : State :=
  let s1 := s.updEvr fun e => e.record s.beat code src (s.get EVR_RPTWIN_BEATS) nsnap snap clr
  let s2 := s1.updMbx fun m => m.mirror code s.beat
  let s3 := s2.pldmEvent code
  let hit := decide (s.get EVR_CTRL_IRQ_SEV ≤ severity code)
  let s4 := s3.updEvr fun e => { e with sevIrq := e.sevIrq || hit }
  s4.raiseAll ((eventSource code).toList ++ if hit && !s.evr.sevIrq then [30] else [])

/-- Record an event. Severity 2 and 3 carry the image's snapshot words (R463). -/
def State.event (s : State) (code src : Nat) : State :=
  if 2 ≤ severity code then
    s.eventWith code src (s.snapCount (code / 256 - 1)) (s.snapshot (code / 256 - 1)) false
  else s.eventWith code src 0 [] false

/-- A maintenance action is refused outside SERVE and the refusal is logged (R36). The spec names no code for the blocks LDG, VLT,
DSP and STI: the low byte of the code is a value left open. -/
def State.logRefusal (s : State) (block : Nat) : State := s.event (256 * block + (Config.refusalCode block).toNat) 0

/-- The drain pool has fewer than 40 tiles in service: every tile in service then serves the drain (R214). -/
def State.poolShort (s : State) (pool : Nat) : Bool :=
  pool = 1 && decide (((tilesOf (s.img.pool 1)).filter s.inService).length < 40)

/-- The tiles in service of a pool (R350, R214). -/
def State.poolTiles (s : State) (pool : Nat) : List Nat :=
  (if s.poolShort pool then List.range 64 else tilesOf (s.img.pool pool)).filter s.inService

/-- The home tile of a task under R351. -/
def State.homeTile (s : State) (pool first : Nat) : Nat :=
  let l := s.poolTiles pool
  l.getD (first % l.length) 0

/-- The next serial number that no live task's TID carries (R353). -/
def Dsp.fresh (d : Dsp) : Nat :=
  (((List.range (d.tasks.length + 1)).map fun i => (d.serial + i) % 2 ^ 26).find? fun n =>
    !(d.tasks.any fun k => k.tid / 64 = n)).getD d.serial

/-- Put a task on its tile's ready list under a TID of its own, newest there (R353, R357). -/
def State.addTask (s : State) (k : Task) : State :=
  s.updDsp fun d => { d with
    tasks := d.tasks ++ [{ k with tid := k.tile + 64 * d.fresh, st := .ready, order := d.order }]
    serial := (d.fresh + 1) % 2 ^ 26, order := d.order + 1 }

/-- Put a task of the controller's own on a tile's ready list (R353, R354). -/
def State.putTask (s : State) (tile ty prio pool count a0 a1 : Nat) (pin : Bool) : State :=
  s.addTask ⟨0, ty, prio, pin, 0, 0, false, pool, count, a0, a1, none, tile, .ready, 0, false, false, 0, false, false, false, 0⟩

/-- Enqueue a task of the controller's own on its home tile (R351, R354); with nothing to do it is done at once (R355). -/
def State.enqueue (s : State) (ty prio pool count a0 a1 : Nat) (pin : Bool) : State :=
  if count = 0 then s else s.putTask (s.homeTile pool a0) ty prio pool count a0 a1 pin

/-- Put a write on the list of those bound to a boundary (R56). -/
def State.bindWrite (s : State) (f : Fld) (v : Nat) : State :=
  s.updGlb fun g => { g with bound := g.bound ++ [⟨s.boundBeat, f, v⟩] }

/-- Count an access that changes nothing (R472, R473, R479). -/
def State.accErr (s : State) : State := s.count GLB_ACCERR_COUNT 1

/-- A write of a register: while the domain of its block is off it is ignored and counted (R479). -/
def State.whileOn (s : State) (off : Nat) (t : Out) : Out := if s.blockOff off then ok s.accErr else t

/-- Change the operating state (R23). -/
def State.enter (s : State) (o : OpState) : State := s.updGlb fun g => { g with st := o }

/-- Remove the fields of the register store whose key satisfies a test: each then reads its reset value (R484). -/
def State.dropRegs (s : State) (p : Nat → Bool) : State := { s with regs := Store.keep (fun k => !p k) s.regs }

/-- The block number of a register key, and whether it is a per-agent copy. -/
def keyBlock (k : Nat) : Nat := (k % 2 ^ 40) / 32 / 0x10000
def keyAgent (k : Nat) : Nat := k / 2 ^ 40

end Sys2Proof.Machine
end

