-- ==== Sys2Proof/Machine/FlashOps.lean ====
section
/-! DEFINITION. The configuration flash as the blocks use it: reading the array, the cells and the record in force,
programming and erasing, and the queue of internal writes (R415 to R433). -/

namespace Sys2Proof.Machine

/-- A byte of the array; an unlisted byte is erased. -/
def Cfl.byte (c : Cfl) (a : Nat) : Byte := Store.get 0xFF c.bytes a

/-- The array bytes [off, off + n), half-erased sectors reading all ones (R432). -/
def Cfl.read (c : Cfl) (off n : Nat) : List Byte :=
  if c.half = 0 then Store.slice 0xFF n off (Store.after off c.bytes)
  else (List.range n).map fun i => if bitOf c.half ((off + i) / 65536) then 0xFF else c.byte (off + i)

/-- Program bytes: a program changes bits from 1 to 0 only (R415). -/
def Cfl.programBytes (c : Cfl) : Nat → List Byte → Cfl
  | _, [] => c
  | a, b :: bs => Cfl.programBytes { c with bytes := Store.put 0xFF c.bytes a (c.byte a &&& b) } (a + 1) bs

/-- Program 32-bit words at array offsets. -/
def Cfl.programWords (c : Cfl) : List (Nat × Nat) → Cfl
  | [] => c
  | w :: ws => (c.programBytes w.1 (leBytes 4 w.2)).programWords ws

/-- Erase a sector to all ones. -/
def Cfl.eraseSector (c : Cfl) (n : Nat) : Cfl := { c with bytes := Store.keep (fun a => a / 65536 ≠ n) c.bytes }

/-- A sector is blank. -/
def Cfl.blank (c : Cfl) (n : Nat) : Bool := (Store.keep (fun a => a / 65536 = n) c.bytes).isEmpty

/-- The bytes a failed erase leaves in a sector: open values (R431). -/
def Cfl.openSector (c : Cfl) (n k : Nat) : Cfl :=
  (c.eraseSector n).programBytes (n * 65536) ((List.range 65536).map fun i => Config.freeByte k i)

/-- The array after a staged payload's program: the payload, or, where it failed, bits of it whose change is open (R427, R459). -/
def Cfl.programStaged (c : Cfl) (off : Nat) (b : List Byte) (good : Bool) (k : Nat) : Cfl :=
  c.programBytes off (if good then b else (List.range b.length).map fun i => Config.freeByte k (off + i))

/-- A number rounded up to a multiple of 16. -/
def pad16 (n : Nat) : Nat := (n + 15) / 16 * 16

/-- One cell record found by the scan of R419. -/
structure CellRec where
  gen : Nat
  sector : Nat
  payload : List Byte
deriving DecidableEq, Repr

/-- Scan a sector from an offset, record after record, up to a header whose MAGIC reads 0xFFFF: the valid records, and
where the scan stopped (R419). -/
def Cfl.scan (c : Cfl) (sector : Nat) : Nat → Nat → List CellRec × Nat
  | 0, off => ([], off)
  | fuel + 1, off =>
    let h := c.read (sector * 65536 + off) 16
    let len := leAt h 4 4
    let total := 32 + pad16 len
    if leAt h 0 2 = 0xFFFF ∨ 65536 < off + total then ([], off)
    else
      let body := c.read (sector * 65536 + off) (16 + pad16 len)
      let t := c.read (sector * 65536 + off + 16 + pad16 len) 16
      let rest := c.scan sector fuel (off + total)
      if leAt h 0 2 = 0x4C43 ∧ leAt t 4 4 = 0 ∧ leAt t 0 4 = crc32c body then
        (⟨leAt h 8 8, sector, (body.drop 16).take len⟩ :: rest.1, rest.2)
      else rest

/-- The valid record with the largest generation (R419). -/
def newest : List CellRec → Option CellRec
  | [] => none
  | r :: rs => match newest rs with
    | none => some r
    | some q => some (if q.gen < r.gen then r else q)

/-- The record in force of the cell of a TYPE (R419). -/
def Cfl.inForce (c : Cfl) (ty : Nat) : Option CellRec :=
  newest ((c.scan (cellSector ty) 2048 0).1 ++ (c.scan (cellSector ty + 1) 2048 0).1)

/-- The bytes of a new record, COMMIT programmed (R418). -/
def cellBytes (ty gen : Nat) (payload : List Byte) : List Byte :=
  let body := leBytes 2 0x4C43 ++ leBytes 1 ty ++ leBytes 1 0 ++ leBytes 4 payload.length ++ leBytes 8 gen
    ++ payload ++ List.replicate (pad16 payload.length - payload.length) 0xFF
  body ++ leBytes 4 (crc32c body) ++ leBytes 4 0 ++ List.replicate 8 0xFF

/-- Where a cell write appends: the sector, the offset, and whether that sector must be erased first (R420). -/
def Cfl.cellPlace (c : Cfl) (ty len : Nat) : Nat × Nat × Bool :=
  let cur := match c.inForce ty with | some r => r.sector | none => cellSector ty
  let fin := (c.scan cur 2048 0).2
  if fin + 32 + pad16 len ≤ 65536 then (cur, fin, false)
  else (2 * cellSector ty + 1 - cur, 0, true)

/-- The sectors that a payload covers. -/
def stagedSectors (off len : Nat) : List Nat := (List.range (cdiv len 65536)).map fun i => off / 65536 + i

/-- Some tile runs microcode from a slot (R459). -/
def State.mcInUse (s : State) (slot : Nat) : Bool := (List.range 64).any fun t => Store.get 0 s.dsp.mcFrom t = slot + 1

/-- The record in force of a cell as the controller reads it: none while domain 95 is off, when a read returns all ones (R416). -/
def State.cell (s : State) (ty : Nat) : Option CellRec := if s.domOn 95 then s.cfl.inForce ty else none

/-- The array bytes as the controller's blocks read them: all ones while domain 95 is off. The sequencer has a read port of its own
(R416). -/
def State.cflRead (s : State) (off n : Nat) : List Byte := if s.domOn 95 then s.cfl.read off n else List.replicate n 0xFF

/-- The role record: slots of the active image, the shade and the archive, and MCSLOT (R400). -/
structure Roles where
  act : Nat
  shd : Nat
  arc : Nat
  mc : Nat
deriving DecidableEq, Repr

/-- The payload of a role record (Table: Cell contents). -/
def Roles.bytes (r : Roles) : List Byte :=
  leBytes 1 r.act ++ leBytes 1 r.shd ++ leBytes 1 r.arc ++ leBytes 1 r.mc ++ List.replicate 12 0

/-- The roles a payload spells. -/
def rolesOf (l : List Byte) : Roles := ⟨leAt l 0 1, leAt l 1 1, leAt l 2 1, leAt l 3 1⟩

/-- The role record in force; none makes the controller unconfigured (R510). -/
def State.roles (s : State) : Option Roles := (s.cell 2).map fun r => rolesOf r.payload

/-- The roles that a write of the role record leaves, from those in force as it is programmed. -/
def Roles.next (r : Roles) : RoleWrite → Roles
  | .swap => { r with act := r.shd, shd := r.arc, arc := r.act }
  | .undo => { r with act := r.arc, shd := r.act, arc := r.shd }
  | .keep => r
  | .exchange => { r with shd := r.arc, arc := r.shd }
  | .micro slot => { r with mc := slot }
  | .first => ⟨0, 1, 2, 0⟩
  | .fall => { r with act := r.arc, arc := r.act }

/-- The payload of a write of the role record. -/
def State.roleBytes (s : State) (k : RoleWrite) : List Byte := ((s.roles.getD ⟨0, 1, 2, 0⟩).next k).bytes

/-- The block the selector names; BOOT0 with no selector record in force (R425). -/
def State.selBlock (s : State) : Nat :=
  match s.cell 1 with
  | some r => leAt r.payload 0 1
  | none => 0

/-- An agent may program and erase a sector (R417, R459). -/
def State.mayWrite (s : State) (g : Agent) (sec : Nat) : Bool :=
  if sec < 32 then g = .stw && decide (s.selBlock ≠ sec / 16)
  else if 64 ≤ sec ∧ sec < 112 then
    g = .stw && (match s.roles with | some r => r.shd = (sec - 64) / 16 | none => false)
  else if 112 ≤ sec ∧ sec < 176 then
    let slot := (sec - 112) / 32
    g = .stw && (match s.roles with | some r => r.mc ≠ slot | none => false) && !s.mcInUse slot
  else decide (176 ≤ sec) && decide (sec ≤ 1022)

/-- The steward may still stage a payload at an offset (R401, R417): the slot is still the one it may write, slot 0 of an unconfigured
controller included (R510). -/
def State.mayStage (s : State) (off : Nat) : Bool :=
  s.mayWrite .stw (off / 65536) || (s.roles.isNone && decide (off / 1048576 = 4))

/-- The sector and the erase an internal write needs at its start: none where it can be programmed at once. -/
def State.writeErase (s : State) (w : IWrite) : Option Nat :=
  match w with
  | .cell ty payload => let p := s.cfl.cellPlace ty payload.length; if p.2.2 then some p.1 else none
  | .role _ => let p := s.cfl.cellPlace 2 16; if p.2.2 then some p.1 else none
  | .seqCopy n _ => some (36 + n)
  | .log _ => let sec := 48 + s.evr.logNext / 1024 % 16
    if s.evr.logNext % 1024 = 0 ∧ !s.cfl.blank sec then some sec else none
  | .staged off b => (stagedSectors off b.length).head?

/-- The sector that an internal write erases after one: a staged payload erases every sector it covers (R459). -/
def IWrite.nextErase (w : IWrite) (sec : Nat) : Option Nat :=
  match w with
  | .staged off b => (stagedSectors off b.length).find? fun n => sec < n
  | _ => none

/-- The next step of an internal write in the die: the erase of a sector, whose flag cell is set first (R431), its refusal by a worn
sector (R420, R432), or, with nothing to erase, its program. -/
def State.writeStep (s : State) (w : IWrite) (next : Option Nat) : State :=
  match next with
  | none => s.updCfl fun c => { c with op := some (.internal w) }
  | some sec =>
    if bitOf s.cfl.worn sec then
      (s.updCfl fun c => { c with op := some (.refused w) }).event 0x0D05 (srcSector sec)
    else s.updCfl fun c => { c with op := some (.internalErase w sec 1), flags := setBit c.flags sec }

/-- Start an internal write (R428). A payload whose slot has become protected while it waited is refused (R401, R417). -/
def State.startWrite (s : State) (w : IWrite) : State :=
  let open_ := match w with | .staged off _ => s.mayStage off | _ => true
  if open_ then s.writeStep w (s.writeErase w) else s.updCfl fun c => { c with op := some (.refused w) }

/-- The interface accepts operations: domain 95 is on and every flag cell has been read (R416, R432). -/
def State.flashOn (s : State) : Bool := s.domOn 95 && s.cfl.ready

/-- The flash answers an agent's writes (R22, R416, R432). -/
def State.flashAnswers (s : State) (g : Agent) : Bool := s.answers g && s.flashOn

/-- The lowest half-erased sector is re-erased in the background, beside what else runs (R432). -/
def State.backErase (s : State) : State :=
  if s.cfl.bg.isSome then s
  else s.updCfl fun c => { c with bg := ((List.range 1024).find? fun n => bitOf c.half n).map fun n => (n, 1) }

/-- The interface starts the next internal write when nothing runs and no sequence is open (R428). -/
def State.flashNext (s : State) : State :=
  if !s.flashOn then s
  else if s.cfl.op.isSome || s.cfl.seq.isSome || s.cfl.compat.isSome then s.backErase
  else match s.cfl.queue with
    | w :: rest => ((s.updCfl fun c => { c with queue := rest }).startWrite w).backErase
    | [] => s.backErase

/-- Queue an internal write (R428). -/
def State.flashWrite (s : State) (w : IWrite) : State :=
  (s.updCfl fun c => { c with queue := c.queue ++ [w] }).flashNext

/-- The array offset of an image slot and of a microcode slot. -/
def imageSlotOff (n : Nat) : Nat := 0x0400000 + 0x100000 * n
def mcSlotOff (n : Nat) : Nat := 0x0700000 + 0x200000 * n

/-- A data read of a sector returns ones for hosts and the steward (Table: Sector map). -/
def readsOnes (sec : Nat) : Bool := sec < 32 || (44 ≤ sec && sec < 48) || (112 ≤ sec && sec < 176) || sec = 1023

/-- A region is execute-only (Table: Sector map). -/
def executeOnly (sec : Nat) : Bool := sec < 32

/-- Set an agent's result word, and record event 0x0D04 for every result other than OK and BUSY (R427). -/
def State.flashResult (s : State) (g : Agent) (code sec : Nat) : State :=
  let s1 := (((s.set (CFL_RESULT_CODE g) code).setB (CFL_RESULT_BUSY g) (code = 1)).setB (CFL_RESULT_VALID g) true).set
    (CFL_RESULT_SECTOR g) sec
  if code ≤ 1 then s1 else s1.event 0x0D04 (srcCause code)

/-- Set the compatibility status, and record event 0x0D04 as for a native result (R430, R427). -/
def State.compatResult (s : State) (code : Nat) : State :=
  let s1 := s.set CFL_COMPAT_STAT_CODE code
  if code ≤ 1 then s1 else s1.event 0x0D04 (srcCause code)

/-- End the open native sequence with a result (R426, R428). -/
def State.endSeq (s : State) (q : NatSeq) (code : Nat) : State :=
  let sec := match q.words with | [] => 0 | w :: _ => w.1 / 65536
  ((s.updCfl fun c => { c with seq := none }).flashResult q.agent code sec).flashNext

/-- End the open compatibility sequence with a result. -/
def State.endCompat (s : State) (code : Nat) : State :=
  ((s.updCfl fun c => { c with compat := none }).compatResult code).flashNext

/-- End an agent's open sequence with ABANDONED (R429, R451, R485). -/
def State.abandonFlash (s : State) (g : Agent) : State :=
  let s1 := match s.cfl.seq with
    | some q => if q.agent = g then (s.endSeq q 9).event 0x0D07 0 else s
    | none => s
  match s1.cfl.compat with
  | some q => if q.agent = g then (s1.endCompat 9).event 0x0D07 0 else s1
  | none => s1

end Sys2Proof.Machine
end

