-- ==== Sys2Proof/Machine/CacheOps.lean ====
section
/-! DEFINITION. The DRAM cache as the blocks use it: placement, lines, map entries, decode outcomes, retirement
(R107 to R134). -/

namespace Sys2Proof.Machine

/-- Physical ranks per channel (R107). -/
def State.ranksPerChannel (s : State) : Nat := (1 + s.get CCH_CFG_DPC2) * (1 + s.get CCH_CFG_RANKS2)

/-- Data granules of a rank: a 32 GiB rank or a 16 GiB rank (R110). -/
def State.rankGranules (s : State) : Nat :=
  if s.bit CCH_CFG_SIZE32 ∧ !s.bit CCH_CFG_RANKS2 then 8372224 else 4186112

/-- All granules of a rank, the map region's included (R110). -/
def State.rankAll (s : State) : Nat := if s.bit CCH_CFG_SIZE32 ∧ !s.bit CCH_CFG_RANKS2 then 8388608 else 4194304

/-- The physical rank of index `i` on channel `c`: n = 4 c + 2 d + r (R110). -/
def State.natRank (s : State) (i c : Nat) : Nat :=
  if s.bit CCH_CFG_RANKS2 then 4 * c + 2 * (i / 2) + i % 2 else 4 * c + 2 * i

/-- Members of a rank set: the last set gives up the spares (R111). -/
def State.members (s : State) (spares set : Nat) : Nat :=
  if set + 1 = s.ranksPerChannel then 8 - spares else 8

/-- Where a granule lies: set, channel and local granule (R112). -/
def State.placeIn (s : State) (spares : Nat) : Nat → Nat → Nat → Option (Nat × Nat × Nat)
  | 0, _, _ => none
  | fuel + 1, set, j =>
    let m := s.members spares set
    if j < m * s.rankGranules then some (set, j % m, j / m)
    else s.placeIn spares fuel (set + 1) (j - m * s.rankGranules)

/-- Where a granule lies under the image in force. -/
def State.place (s : State) (g : Nat) : Option (Nat × Nat × Nat) := s.placeIn s.img.spares s.ranksPerChannel 0 g

/-- The physical rank that holds a granule, through the remap table (R112, R132). -/
def State.rankOf (s : State) (g : Nat) : Option Nat :=
  (s.place g).map fun p =>
    let n := s.natRank p.1 p.2.1
    (Store.get none s.cch.remap n).getD n

/-- The physical rank at a rank set and member of the image in force; none where the set has no such member (R111, R132). -/
def State.physical (s : State) (set mem : Nat) : Option Nat :=
  if set < s.ranksPerChannel ∧ mem < s.members s.img.spares set then
    some ((Store.get none s.cch.remap (s.natRank set mem)).getD (s.natRank set mem))
  else none

/-- The cache data capacity in bytes with a count of spares (R109, R112). -/
def State.capacityWith (s : State) (spares : Nat) : Nat :=
  if s.bit CCH_STATUS_POP_OK then (8 * s.ranksPerChannel - spares) * s.rankGranules * 4096 else 0

/-- The offsets in its rank of a cache address and of a granule's map entry (R112). -/
def State.rankOffset (s : State) (ca : Nat) : Option Nat :=
  (s.place (ca / 4096)).map fun p => 4096 * p.2.2 + 64 * (ca % 4096 / 64)
def State.mapOffset (s : State) (g : Nat) : Option Nat := (s.place g).map fun p => 4096 * s.rankGranules + 8 * p.2.2

/-- The granule that a local granule of a logical rank holds: the inverse of R112. -/
def State.granuleAt (s : State) (set mem loc : Nat) : Nat :=
  ((List.range set).map fun k => s.members s.img.spares k * s.rankGranules).foldl (· + ·) 0
    + loc * s.members s.img.spares set + mem

/-- The bytes that one beat may move under CCH_BW.CAP_PCT of the peak data bandwidth (R109, R127). -/
def State.dramCap (s : State) : Nat := (256000 + 51200 * s.get CCH_CFG_SPEED) * s.get CCH_BW_CAP_PCT / 100

/-- DRAM data moved for work that is never throttled (R127). -/
def State.dramMove (s : State) (n : Nat) : State :=
  s.updCch fun c => { c with load := c.load + n, asked := Store.put 0 c.asked 0 (Store.get 0 c.asked 0 + n) }

/-- What the kinds that are throttled after kind `k`, or never, moved in the beat before and have not asked for yet in this one. -/
def State.dramOwed (s : State) (k : Nat) : Nat :=
  ((List.range 5).map fun j =>
    if j = 0 ∨ k < j then Store.get 0 s.cch.askedWas j - Store.get 0 s.cch.asked j else 0).foldl (· + ·) 0

/-- Whether work of kind `k` may move `n` bytes now: 1 RESTORE_ROW, 2 scrub, 3 migration, 4 trickle reads (R127). It leaves room for what
the kinds behind it in the throttle order may be expected to move. -/
def State.dramMay (s : State) (k n : Nat) : Bool :=
  decide (s.cch.level < k) && decide (s.cch.load + s.dramOwed k + n < s.dramCap)

/-- Work of kind `k` asks to move `n` bytes: they are moved, or the work is throttled (R127). -/
def State.dramAsk (s : State) (k n : Nat) : State :=
  let may := s.dramMay k n
  let s1 := s.updCch fun c => { c with
    load := if may then c.load + n else c.load
    asked := Store.put 0 c.asked k (Store.get 0 c.asked k + n) }
  if k = 4 ∧ !may then s1.setB CCH_STATUS_TRICKLE_THROTTLE true else s1

/-- At a boundary: the least part of the throttle order whose absence brings the demand of the beat below the cap is what the
next beat throttles (R127). DESIGN CHOICE: the spec gives the order and not how fast it follows the demand. -/
def State.dramBoundary (s : State) : State :=
  let need := fun (l : Nat) => ((List.range 5).map fun k =>
    if k = 0 ∨ l < k then Store.get 0 s.cch.asked k else 0).foldl (· + ·) 0
  let l := ((List.range 5).find? fun l => need l < s.dramCap).getD 4
  (s.updCch fun c => { c with load := 0, asked := [], askedWas := c.asked, level := l }).setB CCH_STATUS_TRICKLE_THROTTLE (decide (4 ≤ l))

/-- The map entry with no vault copy and nothing set. -/
def MapEntry.none : MapEntry := ⟨0xFFFFFFFFFF, Option.none, false, false, false, false, false⟩

/-- The word of an entry with no location, no valid class and nothing set. -/
def noEntry : Nat := 0xFFFFFFFFFF + 2 ^ 40 * 5

/-- The map entry of a granule (R123). -/
def State.entry (s : State) (g : Nat) : MapEntry := Store.get MapEntry.none s.cch.map g

/-- Replace a map entry. -/
def State.setEntry (s : State) (g : Nat) (e : MapEntry) : State :=
  s.updCch fun c => { c with map := Store.put MapEntry.none c.map g e }

/-- The class of a granule: its entry's, or its region's. -/
def State.classOf (s : State) (g : Nat) : Nat :=
  match (s.entry g).cls with
  | some c => c
  | none => (s.img.classAt (4096 * g)).getD 5

/-- A number lies in a list of (first, count) ranges. -/
def inRanges (l : List (Nat × Nat)) (g : Nat) : Bool := l.any fun r => decide (r.1 ≤ g) && decide (g < r.1 + r.2)

/-- Take one number out of a list of ranges. -/
def cutRange (l : List (Nat × Nat)) (g : Nat) : List (Nat × Nat) :=
  (l.map fun r =>
    if r.1 ≤ g ∧ g < r.1 + r.2 then
      (if r.1 < g then [(r.1, g - r.1)] else []) ++ (if g + 1 < r.1 + r.2 then [(g + 1, r.1 + r.2 - g - 1)] else [])
    else [r]).flatten

/-- The granule is not yet restored (UNREST). -/
def State.unrest (s : State) (g : Nat) : Bool := inRanges s.cch.unrest g

/-- The 64 bits of a granule's map entry as the map region holds them (Table: Map entry). -/
def State.entryWord (s : State) (g : Nat) : Nat :=
  let e := s.entry g
  e.vloc + 2 ^ 40 * s.classOf g + 2 ^ 43 * b2n e.dirty + 2 ^ 44 * b2n e.wsince + 2 ^ 45 * b2n e.trk + 2 ^ 46 * b2n e.poison
    + 2 ^ 47 * b2n (s.unrest g) + 2 ^ 48 * b2n e.fetch

/-- Line `k` of the map region of a logical rank: eight entries. Those of the map region's own granules are never used
(R110). -/
def State.mapLine (s : State) (set mem k : Nat) : Line :=
  BitVec.ofNat 512 (ofLe (((List.range 8).map fun i =>
    leBytes 8 (if 8 * k + i < s.rankGranules then s.entryWord (s.granuleAt set mem (8 * k + i)) else noEntry)).flatten))

/-- A stored line: zeros, not poisoned, where nothing was written. -/
def LineCell.zero : LineCell := ⟨0, false⟩

/-- The base line in DRAM. -/
def State.line (s : State) (la : Nat) : LineCell := Store.get LineCell.zero s.cch.lines la

/-- Write a line to DRAM. A poisoned line sets the granule's POISON bit (R123); it clears when no line stands as poison. While
the line's rank is migrating out, the write goes to both ranks (R127, R132); a refetch aimed at the line is cancelled (R119). -/
def State.writeLine (s : State) (la : Nat) (c : LineCell) : State :=
  let g := la / 64
  let both := fun (r : Retire) => if s.rankOf g = some r.src then { r with spare := Store.put LineCell.zero r.spare la c } else r
  let dual := match s.cch.ret with | some r => decide (s.rankOf g = some r.src) | none => false
  let s0 := (if dual then s.dramMove 64 else s).updCch fun x => { x with
    lines := Store.put LineCell.zero x.lines la c, ret := x.ret.map both }
  let s1 := s0.updRst fun r => { r with refetch := Store.put 0 r.refetch g (clrBit (Store.get 0 r.refetch g) (la % 64)) }
  let any := (List.range 64).any fun i => (s1.line (64 * g + i)).poison
  if (s.entry g).poison = any then s1 else s1.setEntry g { s.entry g with poison := any }

/-- Count dirty granules of a class (R125). -/
def State.dirtyAdd (s : State) (c : Nat) : State := s.set (CCH_DIRTY_GRANULES c) (s.get (CCH_DIRTY_GRANULES c) + 1)
def State.dirtySub (s : State) (c : Nat) : State := s.set (CCH_DIRTY_GRANULES c) (s.get (CCH_DIRTY_GRANULES c) - 1)

/-- A flush marks its granule: DIRTY and WSINCE, counted once in its class (R124). -/
def State.markDirty (s : State) (g : Nat) : State :=
  let e := s.entry g
  let s1 := s.setEntry g { e with dirty := true, wsince := true }
  if e.dirty then s1 else s1.dirtyAdd (s.classOf g)

/-- Clear a granule's DIRTY bit and count it out (R125). -/
def State.clean (s : State) (g : Nat) : State :=
  let e := s.entry g
  if e.dirty then (s.setEntry g { e with dirty := false }).dirtySub (s.classOf g) else s

/-- Merge the enabled bytes of a write over a line (R92). -/
def mergeLine (old new : Line) (mask : ByteMask) : Line :=
  let m := BitVec.ofNat 512 (ofLe ((List.range 64).map fun i => if mask.getLsbD i then 0xFF else 0x00))
  (new &&& m) ||| (old &&& ~~~m)

/-- All 64 byte enables. -/
def fullMask : ByteMask := BitVec.allOnes 64

/-- Apply one queue entry to a line (R92). -/
def applyEntry (c : LineCell) (e : QEntry) : LineCell :=
  if e.mask = fullMask then ⟨e.data, e.poison⟩ else ⟨mergeLine c.data e.data e.mask, c.poison || e.poison⟩

/-- Queue entries of a line, oldest admission first. -/
def State.entriesOf (s : State) (la : Nat) : List QEntry := s.pq.entries.filter fun e => e.line = la

/-- CCH_STATUS.UE sets, and its interrupt event (R480). -/
def State.setUe (s : State) : State :=
  let s1 := s.setB CCH_STATUS_UE true
  if s.bit CCH_STATUS_UE then s1 else s1.raise 8

/-- The reason a retirement of a rank is refused now; 0 = none (R131). DESIGN CHOICE: where several conditions fail at once the
spec gives no order; the reason reported is the first that fails of state, LAZY, running, active, spare. -/
def State.retireReason (s : State) (n : Nat) : Nat :=
  if s.glb.st ≠ .serve then 2
  else if s.glb.lazyRestore then 3
  else if s.cch.ret.isSome then 4
  else if s.get (CCH_RANK_STATE n) ≠ 1 then 5
  else if ((List.range 32).all fun k => s.get (CCH_RANK_STATE k) ≠ 2) then 1
  else 0

/-- Refuse a retirement (R131). -/
def State.retireRefuse (s : State) (n reason : Nat) : State :=
  (s.set CCH_RET_STATUS_REASON reason).event 0x0306 (srcRank n)

/-- Request the retirement of a rank: refused unless its conditions hold (R131, R411). -/
def State.retireRequest (s : State) (n : Nat) : State :=
  if s.retireReason n ≠ 0 then s.retireRefuse n (s.retireReason n)
  else if bitOf s.sti.guardClasses 7 then let d := s.draw; d.2.retireRefuse n d.1
  else s.updCch fun c => { c with retReq := c.retReq ++ [n] }

/-- Flag a physical rank (R130). -/
def State.flagRank (s : State) (n : Nat) : State :=
  let s1 := (s.setB (CCH_RANK_DEVFLAG n) true).setB CCH_STATUS_DEVFLAG true
  let s2 := s1.event 0x0303 (srcRank n)
  let s3 := if s.bit CCH_STATUS_DEVFLAG then s2 else s2.raise 8
  if s.bit CCH_RET_CTRL_AUTO then s3.retireRequest n else s3

/-- Count a corrected word against its rank: it flags the rank when a count reaches its threshold, and on any later word while a
count stands above a lowered threshold and the rank is not flagged (R118, R130). -/
def State.countCe (s : State) (n : Nat) (dev : Option Nat) : State :=
  let s1 := s.count (CCH_RANK_CE_WIN n) 1
  let r := Store.get ⟨0, 0⟩ s.cch.runs n
  let r' : DevRun := match dev with
    | none => ⟨0, 0⟩
    | some d => if r.n ≠ 0 ∧ r.dev = d then ⟨d, r.n + 1⟩ else ⟨d, 1⟩
  let s2 := s1.updCch fun c => { c with runs := Store.put ⟨0, 0⟩ c.runs n r' }
  let thr := s.get CCH_RET_CTRL_CE_THR
  let run := s.get CCH_RET_CTRL_DEV_RUN
  let n1 := s1.get (CCH_RANK_CE_WIN n)
  let new := !s.bit (CCH_RANK_DEVFLAG n)
  let hit := (thr ≠ 0 && s.get CCH_RET_WIN_BEATS ≠ 0 && (decide (n1 = thr) || new && decide (thr < n1)))
    || (run ≠ 0 && (decide (r'.n = run) || new && decide (run < r'.n)))
  if hit then s2.flagRank n else s2

/-- Count an uncorrectable word against its rank, and flag the rank (R118, R130). CE_WIN counts corrected words alone; DESIGN CHOICE: R118
names no register for the others, and their count shows in none. -/
def State.countUeRank (s : State) (rank : Option Nat) : State :=
  match rank with
  | some n => (s.updCch fun c => { c with rankUe := Store.put 0 c.rankUe n (Store.get 0 c.rankUe n + 1) }).flagRank n
  | none => s

/-- Count an uncorrectable word of a rank: its count, its cache address, its rank's flag (R122, R130). -/
def State.countUeOf (s : State) (ca : Nat) (rank : Option Nat) : State :=
  (((s.count CCH_UE_COUNT_COUNT 1).set64 CCH_UE_ADDR_LO_CA CCH_UE_ADDR_HI_CA ca).setUe).countUeRank rank

/-- Count an uncorrectable word of a line (R122, R130). -/
def State.countUe (s : State) (la : Nat) : State := s.countUeOf (64 * la) (s.rankOf (la / 64))

/-- The codeword that a cell stands as in DRAM (R115, R118). -/
def LineCell.codeword (c : LineCell) : Codeword := BitVec.ofNat 640 (ofLe ((encodeLine c.data c.poison).map (BitVec.ofNat 8)))

/-- A read of a cell on a rank and a subchannel, met by an error pattern: the outcome, with what it counts (R118, R120). A
corrected word is written back, which moves data (R127) and leaves the stored cell as it is. A rank lost behind a failed rail reads as
uncorrectable (R386). -/
def State.readCell (s : State) (c : LineCell) (rank : Option Nat) (sub : Nat) (err : Codeword) : ReadOutcome × State :=
  let lost := match rank with | some n => bitOf s.drn.lostRanks n | none => false
  let o := if lost then .uncorrectable else decodeLine (c.codeword ^^^ err)
  let count := fun (ps : List Nat) =>
    if ps.isEmpty then s else match rank with
      | some n => (s.dramMove 64).countCe n ((oneDevice ps).map (· + 10 * sub))
      | none => s.dramMove 64
  match o with
  | .good _ => (o, s)
  | .corrected _ ps => (o, count ps)
  | .poison _ ps => (o, count ps)
  | .uncorrectable => (o, s)

/-- A DRAM read of a line: even lines lie on subchannel a, odd ones on b (R113). -/
def State.dramRead (s : State) (la : Nat) (err : Codeword) : ReadOutcome × State :=
  s.readCell (s.line la) (s.rankOf (la / 64)) (la % 2) err

/-- A clean granule with a vault copy: an uncorrectable line of it can be fetched again (R122). -/
def State.refetchable (s : State) (g : Nat) : Bool := !(s.entry g).dirty && (s.entry g).vloc ≠ 0xFFFFFFFFFF

/-- The vault read of a granule's fetch has issued. -/
def State.inFetch (s : State) (g : Nat) : Bool := decide (Store.get 0 s.rst.fetching g ≠ 0)

/-- Queue a demand fetch of a granule once (R276, R354): FETCH sets while it is in flight. -/
def State.queueFetch (s : State) (g : Nat) : State :=
  if (s.entry g).fetch then s
  else
    (s.setEntry g { s.entry g with fetch := true }).enqueue 6 6 (if s.glb.lazyRestore then 2 else 0) 1 g 0 false

/-- Queue the refetch of one line of a restored granule (R122). -/
def State.queueRefetch (s : State) (la : Nat) : State :=
  let g := la / 64
  (s.updRst fun r => { r with refetch := Store.put 0 r.refetch g (setBit (Store.get 0 r.refetch g) (la % 64)) }).queueFetch g

/-- An uncorrectable read other than that of a read-modify-write (R122). DESIGN CHOICE: the spec is silent on the data bytes of the
line written as poison; the stored ones stay under it. -/
def State.ueLine (s : State) (la : Nat) : State :=
  let s1 := s.countUe la
  let g := la / 64
  if s.refetchable g then (s1.queueRefetch la).event 0x030B 0
  else ((s1.dramMove 64).writeLine la ⟨(s.line la).data, true⟩).event 0x0302 0

/-- The DRAM write of a queue entry (R121): a full mask replaces the line, a partial one merges into the line read. DESIGN CHOICE: an
uncorrectable read of a read-modify-write sets CCH_STATUS.UE and the rank's count, and neither counts in CCH_UE_COUNT nor latches
CCH_UE_ADDR: R122 gives those to the other reads, and the registers' table speaks of uncorrectable words at large. -/
def State.flushLine (s : State) (e : QEntry) (err : Codeword) : State :=
  if e.mask = fullMask then s.writeLine e.line ⟨e.data, e.poison⟩
  else
    let r := s.dramRead e.line err
    match r.1 with
    | .good l => r.2.writeLine e.line ⟨mergeLine l e.data e.mask, e.poison⟩
    | .corrected l _ => r.2.writeLine e.line ⟨mergeLine l e.data e.mask, e.poison⟩
    | .poison l _ => r.2.writeLine e.line ⟨mergeLine l e.data e.mask, true⟩
    | .uncorrectable =>
      let d := r.2.draw
      (((d.2.setUe).countUeRank (s.rankOf (e.line / 64))).writeLine e.line
        ⟨mergeLine (BitVec.ofNat 512 d.1) e.data e.mask, true⟩).event 0x0302 0

/-- DRAIN entry refuses the accepted requests that wait for their begin, and abandons a retirement (R131, R133). -/
def State.retireAbandon (s : State) : State :=
  let s0 := s.cch.retReq.foldl (fun t n => t.retireRefuse n (t.retireReason n)) (s.updCch fun c => { c with retReq := [] })
  match s.cch.ret with
  | none => s0
  | some r =>
    let s1 := s0.updCch fun c => { c with ret := none }
    let s2 := ((s1.set (CCH_RANK_STATE r.src) 1).set (CCH_RANK_STATE r.dst) 2).setB CCH_STATUS_RETIRING false
    ((s2.set CCH_RET_STATUS_REASON 6).setB CCH_RET_STATUS_ACTIVE false).event 0x0307 (srcRank r.src)

/-- REMAP of the crown and of the calibration cell: the state of every physical rank and the rank that serves its logical place
(Table: Crown layout, Table: Cell contents, R134). -/
def State.crownRemap (s : State) : List Byte :=
  (List.range 32).map fun n => BitVec.ofNat 8 (s.get (CCH_RANK_STATE n) + 8 * ((Store.get none s.cch.remap n).getD n))

end Sys2Proof.Machine
end

