-- ==== Sys2Proof/Machine/SwitchOps.lean ====
section
/-! DEFINITION. The table that governs the sequencer, its rail descriptors, and the switch rails that the ledger and the
control engine use (R370 to R376). -/

namespace Sys2Proof.Machine

/-- The descriptor of rail `n` of the built-in table (R376, R373). -/
def builtinRail (n : Nat) : List Byte :=
  leBytes 1 1 ++ leBytes 1 1 ++ leBytes 1 1 ++ leBytes 1 0 ++ leBytes 1 (if n = 0 then 0xFF else n - 1)
    ++ leBytes 3 0xFFFFFF ++ leBytes 1 0xFF ++ leBytes 1 1 ++ leBytes 1 0xFF ++ leBytes 1 0 ++ leBytes 2 0 ++ leBytes 2 4095
    ++ leBytes 2 0 ++ leBytes 2 4095 ++ leBytes 4 10000 ++ leBytes 4 1000 ++ leBytes 4 1000 ++ leBytes 4 0 ++ leBytes 4 0

/-- The built-in table: rails 0 to 3, no scan list, no groups, every domain enabled (R376). -/
def builtinTable : List (List Byte) :=
  [((List.range 4).map builtinRail).flatten ++ List.replicate 1888 0, leBytes 1 0 ++ List.replicate 87 0xFF,
    (List.replicate 96 (leBytes 4 0x00FFFF01)).flatten]

/-- The table in force. -/
def State.table (s : State) : List (List Byte) := if s.seq.tbl = [] then builtinTable else s.seq.tbl

/-- `n` bytes at an offset of section 5, 6 or 7 of a table, the section by its place 0 to 2. -/
def tblAt (t : List (List Byte)) (k off n : Nat) : Nat := leAt (t.getD k []) off n

/-- The fields of rail descriptor `n` (Table: Rail descriptor fields). -/
def State.railKind (s : State) (n : Nat) : Nat := tblAt s.table 0 (40 * n) 1
def State.railCore (s : State) (n : Nat) : Bool := tblAt s.table 0 (40 * n + 1) 1 = 1
def State.railPgUse (s : State) (n : Nat) : Bool := tblAt s.table 0 (40 * n + 2) 1 = 1
def State.railPfw (s : State) (n : Nat) : Bool := tblAt s.table 0 (40 * n + 3) 1 = 1
def State.railParents (s : State) (n : Nat) : List Nat :=
  ([4, 5, 6, 7].map fun i => tblAt s.table 0 (40 * n + i) 1).filter (· ≠ 0xFF)
def State.railScan (s : State) (n : Nat) : Nat := tblAt s.table 0 (40 * n + 8) 1
def State.railFilt (s : State) (n : Nat) : Nat := tblAt s.table 0 (40 * n + 9) 1
def State.railGroup (s : State) (n : Nat) : Nat := tblAt s.table 0 (40 * n + 10) 1
def State.railOwn (s : State) (n : Nat) : Nat := tblAt s.table 0 (40 * n + 11) 1 % 4
def State.railMod (s : State) (n : Nat) : Nat := tblAt s.table 0 (40 * n + 11) 1 / 4 % 4
def State.railFlo (s : State) (n : Nat) : Nat := tblAt s.table 0 (40 * n + 12) 2
def State.railFhi (s : State) (n : Nat) : Nat := tblAt s.table 0 (40 * n + 14) 2
def State.railWlo (s : State) (n : Nat) : Nat := tblAt s.table 0 (40 * n + 16) 2
def State.railWhi (s : State) (n : Nat) : Nat := tblAt s.table 0 (40 * n + 18) 2
def State.railTon (s : State) (n : Nat) : Nat := tblAt s.table 0 (40 * n + 20) 4
def State.railSettle (s : State) (n : Nat) : Nat := tblAt s.table 0 (40 * n + 24) 4
def State.railOffDly (s : State) (n : Nat) : Nat := tblAt s.table 0 (40 * n + 28) 4
def State.railFDelay (s : State) (n : Nat) : Nat := tblAt s.table 0 (40 * n + 32) 4

/-- Owner, target and stretch of rail group `g` (R374). -/
def State.groupOwner (s : State) (g : Nat) : Nat := tblAt s.table 0 (1920 + 8 * g) 1
def State.groupTarget (s : State) (g : Nat) : Nat := tblAt s.table 0 (1921 + 8 * g) 1
def State.groupStretch (s : State) (g : Nat) : Nat := tblAt s.table 0 (1924 + 8 * g) 4

/-- The scan list in force. -/
def State.scanInputs (s : State) : List Nat :=
  (List.range (tblAt s.table 1 0 1)).map fun i => tblAt s.table 1 (4 + i) 1

/-- Domain `d` is enabled, and the rails it needs besides (R382). -/
def State.domEnabled (s : State) (d : Nat) : Bool := tblAt s.table 2 (4 * d) 1 % 2 = 1
def State.domRails (s : State) (d : Nat) : List Nat :=
  ([1, 2].map fun i => tblAt s.table 2 (4 * d + i) 1).filter (· ≠ 0xFF)

/-- The rails 0 to 47. -/
def railList : List Nat := List.range 48

/-- The switch rail of an energy module: OWN 1 isolation, 2 precharge (R371). -/
def State.switchRail (s : State) (own m : Nat) : Option Nat :=
  railList.find? fun n => s.railKind n = 2 && s.railOwn n = own && s.railMod n = m

/-- Drive a switch rail (R371). -/
def State.setSwitch (s : State) (own m : Nat) (lvl : Bool) : State :=
  match s.switchRail own m with
  | none => s
  | some n => (s.updSeq fun q => { q with en := if lvl then setBit q.en n else clrBit q.en n }).set (SEQ_RAIL_STATE n)
      (if lvl then 6 else 0)

/-- A switch rail is on. -/
def State.switchOn (s : State) (own m : Nat) : Bool :=
  match s.switchRail own m with
  | none => false
  | some n => bitOf s.seq.en n

/-- The latest conversion of a scan input. -/
def State.scanCode (s : State) (n : Nat) : Nat := s.get (SEQ_READ_CODE n)

/-- The energy modules of a mask. -/
def modsOf (mask : Nat) : List Nat := [0, 1, 2, 3].filter fun m => bitOf mask m

/-- The terminal voltage of an energy module in mV, read on its scan input (R201). -/
def State.moduleMv (s : State) (m : Nat) : Nat := Config.moduleMv m (s.scanCode (s.img.modv m))

end Sys2Proof.Machine
end

