-- ==== Sys2Proof/Machine/ControlOps.lean ====
section
/-! DEFINITION. The arithmetic of the control engine and its hand-overs (R167 to R202). Every signal is held in sixteenths
of a mA or a mV. -/

namespace Sys2Proof.Machine

/-- Saturate to 32 bits (R192). -/
def sat32 (x : Int) : Int := max (-2147483648) (min 2147483647 x)

/-- Division rounded to nearest, ties upward. -/
def roundDiv (a b : Int) : Int := (2 * a + b) / (2 * b)

/-- Multiply by the coefficient c ÷ 2^sh in fixed point (R192). -/
def fxMul (x : Int) (c sh : Nat) : Int :=
  let p := x * signedOf 32 c
  sat32 ((if sh = 0 then p else p + 2 ^ (sh - 1)) / 2 ^ sh)

/-- Code `k` of channel `n` as a value in sixteenths (R169). -/
def Image.sense (i : Image) (n k : Nat) : Int := sat32 (roundDiv (((k : Int) - i.offset n) * i.gain n) 4096)

/-- The sample period in ns (R61). -/
def Image.tsNs (i : Image) : Nat := i.sdiv * 5 / 2

/-- The samples of a beat. -/
def Image.samplesPerBeat (i : Image) : Nat := 400 / i.sdiv

/-- IPH_MAX × PHASES in sixteenths, the clamp of the integrators and the per-phase limit (R180, R181). -/
def Image.rMax (i : Image) : Int := 16 * (i.iphMax * i.phases : Nat)

/-- A stage of block floating point (R193): results in units of 2^-32 sixteenths, rounded to the smallest exponent at which
all fit in 18 bits; none where that exponent would pass 13. -/
def bfStage (l : List Int) : Option (List Int) :=
  let at_ := fun (e : Nat) => l.map fun x => roundDiv x (2 ^ (32 + e))
  ((List.range 18).find? fun e => (at_ e).all fun m => decide (-131072 ≤ m) && decide (m < 131072)).map fun e =>
    (at_ e).map fun m => m * 2 ^ e

/-- A value in sixteenths as a stage operand. -/
def bfIn (x : Int) : Int := x * 2 ^ 32

/-- The mantissa and the places of a coefficient c ÷ 2^sh rounded to 18 significant bits (R193). -/
def bfCoef (c sh : Nat) : Int × Int :=
  let v := signedOf 32 c
  let k := ((List.range 16).find? fun k =>
    decide (-131072 ≤ roundDiv v (2 ^ k)) && decide (roundDiv v (2 ^ k) < 131072)).getD 15
  (roundDiv v (2 ^ k), (k : Int) - sh)

/-- A product with a rounded coefficient, exact, as a stage operand. -/
def bfMul (x : Int) (c sh : Nat) : Int :=
  let q := bfCoef c sh
  let e := q.2 + 32
  if 0 ≤ e then x * q.1 * 2 ^ e.toNat else x * q.1 / 2 ^ (-e).toNat

/-- The half-band of R178, in sixteenths, from the bank and the bus voltage in sixteenths; `div` is the division of the form:
rounded to nearest in fixed point, truncated toward zero in block floating point (R194). -/
def Image.halfBand (i : Image) (div : Int → Int → Int) (vh vl : Int) : Int :=
  let lo := 16 * (i.hbMin : Int)
  let hi := 16 * (i.hbMax : Int)
  if vh ≤ vl then lo
  else
    let n := 2000000 * (vh - vl) * vl - 3 * i.tsNs * vh * i.fswKhz * vh
    max lo (min hi (div n (4 * i.lNh * i.fswKhz * vh)))

/-- The temperature of the TSCAN code in 0.1 °C (R180). -/
def Image.temp (i : Image) (code : Nat) : Int := i.toff + ((code : Int) * i.tslope) / 65536

/-- The thermally derated limit: loop 5 (R180). DESIGN CHOICE: the spec does not say how IPH_MAX × PHASES × d is rounded to sixteenths;
it is rounded down. -/
def Image.derated (i : Image) (code : Nat) : Int :=
  let t := i.temp code
  if t ≤ i.tStart then i.rMax
  else if i.tStop ≤ t then 0
  else i.rMax * (i.tStop - t) / (i.tStop - i.tStart)

/-- The power cap: loop 6 (R180, R194). DESIGN CHOICE: for a bus voltage of 0 or less the spec gives no value; the cap is then the
largest 32-bit value and does not bind. -/
def Image.powerCap (i : Image) (vbus : Int) : Int :=
  if vbus ≤ 0 then 2147483647 else sat32 (256000 * (i.ctlPcap : Int) / vbus)

/-- The slew limiter (R182). -/
def slew (x t s : Int) : Int := if x < t then min t (x + s) else max t (x - s)

/-- What a sample measures: currents of the phases, bank, bus and load, in sixteenths; the TSCAN code. -/
structure Sense where
  il : List Int
  vbank : Int
  ibank : Int
  vbus : Int
  iload : Int
  tcode : Nat
deriving DecidableEq, Repr

/-- The 12-bit code of channel `n` in a sample of eight conversions. -/
def codeOf (codes : BitVec 96) (n : Nat) : Nat := bits codes.toNat (12 * n) 12

/-- The values of a sample (R169). -/
def State.senseOf (s : State) (codes : BitVec 96) : Sense :=
  let v := fun n => s.img.sense n (codeOf codes n)
  ⟨[v 0, v 1, v 2, v 3], v 4, v 5, v 6, v 7, s.scanCode s.img.tscan⟩

/-- One PI loop of a mode: its code, its slot of figures, its error, its integrator. -/
structure Loop where
  code : Nat
  slot : Nat
  e : Int
  i : Int
deriving DecidableEq, Repr

/-- The PI loops of a mode (Table: Outer loops); errors saturate to 32 bits (R192). -/
def Image.loops (im : Image) (mode : Nat) (n : CtlNums) (m : Sense) : List Loop :=
  let ib := sat32 (m.ibank.natAbs : Int)
  if mode = 1 then
    [⟨1, 0, sat32 (m.vbus - 16 * (im.vbusSag : Int)), n.i1⟩, ⟨2, 1, sat32 (n.vchg - m.vbank), n.i2⟩,
      ⟨3, 2, sat32 (n.ichg - ib), n.i3⟩]
  else if mode = 2 then [⟨1, 0, sat32 (n.vbus - m.vbus), n.i1⟩, ⟨3, 2, sat32 (n.idis - ib), n.i3⟩]
  else if mode = 3 then [⟨1, 0, sat32 (n.vbus + 4800 - m.vbus), n.i1⟩, ⟨7, 3, sat32 (n.hti - m.ibank), n.i7⟩]
  else []

/-- The limits of a mode beside its PI loops: code and reference. -/
def Image.limits (im : Image) (mode : Nat) (m : Sense) : List (Nat × Int) :=
  [(4, im.rMax), (5, im.derated m.tcode)] ++ (if mode = 2 then [(6, im.powerCap m.vbus)] else [])

/-- The least reference, the lowest code among equals (R180). -/
def leastRef : List (Nat × Int) → Nat × Int
  | [] => (0, 0)
  | [x] => x
  | x :: xs =>
    let y := leastRef xs
    if y.2 < x.2 ∨ (y.2 = x.2 ∧ y.1 < x.1) then y else x

/-- Put a loop's integrator back. -/
def CtlNums.setI (n : CtlNums) (code : Nat) (v : Int) : CtlNums :=
  if code = 1 then { n with i1 := v } else if code = 2 then { n with i2 := v }
  else if code = 3 then { n with i3 := v } else { n with i7 := v }

/-- What a sample decides: values, limiter, half-band, phases on, phases with both gates low, and those of them that wait for an on
decision. -/
structure Decision where
  nums : CtlNums
  lim : Nat
  hb : Int
  on : Nat
  low : Nat
  zc : Nat
deriving DecidableEq, Repr

/-- The gates of the phases: on, both gates low, and held low until the next on decision (R176). -/
structure Gates where
  on : Nat
  low : Nat
  zc : Nat
deriving DecidableEq, Repr

/-- The inner law over the phases in use (R175, R176): an off decision raises the rectifier, unless the current does not run in the
mode's direction or the phase waits for an on decision; without a decision the phase stays as it is. -/
def innerLaw (mode phases : Nat) (ip hb : Int) (il : List Int) (g : Gates) : Gates :=
  (List.range phases).foldl (fun r p =>
    let x := il.getD p 0
    let i := if mode = 1 then -x else x
    let was := bitOf g.on p
    let off := ip + hb < i
    let now := if i < ip - hb then true else if off then false else was
    let zc := !now && (decide (i ≤ 0) || (bitOf g.zc p && !was))
    let lo := zc || (!now && !was && !off && bitOf g.low p)
    ⟨if now then setBit r.on p else r.on, if lo then setBit r.low p else r.low, if zc then setBit r.zc p else r.zc⟩) ⟨0, 0, 0⟩

/-- The slewed set-points of a sample; `hti` is the target of the test current. -/
def State.slewed (s : State) (n : CtlNums) (hti : Int) : CtlNums :=
  let sv := 16 * (s.img.slewV : Int)
  let si := 16 * (s.img.slewI : Int)
  let t := fun (f : Fld) => 16 * (s.get f : Int)
  { n with
    vbus := slew n.vbus (t CTL_SET_VBUS_TARGET) sv
    vchg := slew n.vchg (t CTL_SET_VCHG_TARGET) sv
    ichg := slew n.ichg (t CTL_SET_IBANK_CHG) si
    idis := slew n.idis (t CTL_SET_IBANK_DIS) si
    hti := slew n.hti hti (16 * (s.img.htSlew : Int)) }

/-- The integrators after a sample: the winner's adds KI × e, every other is back-calculated (R181). -/
def Image.integrate (im : Image) (mul : Int → Nat → Nat → Int) (ls : List Loop) (win : Nat) (n : CtlNums) : CtlNums :=
  ls.foldl (fun n l =>
    let v := if l.code = win then l.i + mul l.e (im.kiC l.slot) (im.kiSh l.slot)
      else n.r - mul l.e (im.kpC l.slot) (im.kpSh l.slot)
    n.setI l.code (max 0 (min im.rMax (sat32 v)))) n

/-- One sample in fixed point (R175 to R182, R192). -/
def Image.fixedStep (im : Image) (mode : Nat) (n : CtlNums) (m : Sense) (g0 : Gates) : Decision :=
  let ls := im.loops mode n m
  let refs := (ls.map fun l => (l.code, sat32 (l.i + fxMul l.e (im.kpC l.slot) (im.kpSh l.slot)))) ++ im.limits mode m
  let w := leastRef refs
  let r := slew n.r (max 0 w.2) (16 * (im.slewI : Int))
  let n1 := im.integrate fxMul ls w.1 { n with r := r }
  let hb := im.halfBand roundDiv m.vbank m.vbus
  let g := innerLaw mode im.phases (r / im.phases) hb m.il g0
  ⟨n1, w.1, hb, g.on, g.low, g.zc⟩

/-- Stage S1 of block floating point: the sense values (R193). -/
def bfSense (m : Sense) : Option Sense :=
  (bfStage ((m.il ++ [m.vbank, m.ibank, m.vbus, m.iload]).map bfIn)).map fun s1 =>
    ⟨s1.take 4, s1.getD 4 0, s1.getD 5 0, s1.getD 6 0, s1.getD 7 0, m.tcode⟩

/-- Stage S5: the comparisons with the reference of a phase and the half-band. -/
def Image.bfCompare (im : Image) (mode : Nat) (ip hb : Int) (il : List Int) (g0 : Gates) : Option Gates :=
  (bfStage [bfIn (ip - hb), bfIn (ip + hb)]).map fun s5 =>
    let lo := s5.getD 0 0
    let hi := s5.getD 1 0
    innerLaw mode im.phases ((lo + hi) / 2) ((hi - lo) / 2) il g0

/-- One sample in block floating point, in its five stages (R193, R194); none is the fault BF_OVF. The errors and the references share
the exponent of stage S3, the selection and the per-phase reference that of S4. -/
def Image.bfStep (im : Image) (mode : Nat) (n : CtlNums) (m : Sense) (g0 : Gates) : Option Decision :=
  (bfSense m).bind fun m1 =>
  (bfStage [bfIn (im.halfBand Int.tdiv m1.vbank m1.vbus)]).bind fun s2 =>
  let hb := s2.getD 0 0
  let l0 := im.loops mode n m1
  let lims := im.limits mode m1
  (bfStage ((l0.map fun l => bfIn l.e) ++ (l0.map fun l => bfIn l.i + bfMul l.e (im.kpC l.slot) (im.kpSh l.slot))
    ++ lims.map fun l => bfIn l.2)).bind fun s3 =>
  let ls := List.zipWith (fun (l : Loop) e => { l with e := e }) l0 s3
  let w := leastRef (List.zip (l0.map Loop.code ++ lims.map Prod.fst) (s3.drop l0.length))
  let r := slew n.r (max 0 w.2) (16 * (im.slewI : Int))
  (bfStage [bfIn w.2, bfIn (r.tdiv im.phases)]).bind fun s4 =>
  let bm := fun (x : Int) (c sh : Nat) => roundDiv (bfMul x c sh) (2 ^ 32)
  let n1 := im.integrate bm ls w.1 { n with r := r }
  (im.bfCompare mode (s4.getD 1 0) hb m1.il g0).map fun g => ⟨n1, w.1, hb, g.on, g.low, g.zc⟩

/-- The discharge decisions of a start, in the two forms: the reference is the seeded one (R184 step 2, R195). -/
def Image.fixedStart (im : Image) (n : CtlNums) (m : Sense) : Decision :=
  let ls := im.loops 2 n m
  let refs := (ls.map fun l => (l.code, sat32 (l.i + fxMul l.e (im.kpC l.slot) (im.kpSh l.slot)))) ++ im.limits 2 m
  let hb := im.halfBand roundDiv m.vbank m.vbus
  let g := innerLaw 2 im.phases (n.r / im.phases) hb m.il ⟨0, 15, 0⟩
  ⟨n, (leastRef refs).1, hb, g.on, g.low, g.zc⟩
def Image.bfStart (im : Image) (n : CtlNums) (m : Sense) : Option Decision :=
  (bfSense m).bind fun m1 =>
  (bfStage [bfIn (im.halfBand Int.tdiv m1.vbank m1.vbus)]).bind fun s2 =>
  (bfStage [bfIn n.r, bfIn (n.r.tdiv im.phases)]).bind fun s4 =>
  (im.bfCompare 2 (s4.getD 1 0) (s2.getD 0 0) m1.il ⟨0, 15, 0⟩).map fun g =>
    ⟨n, (im.fixedStart n m1).lim, s2.getD 0 0, g.on, g.low, g.zc⟩

/-- The mode of the engine, and its change. -/
def State.mode (s : State) : Nat := s.get CTL_STATUS_MODE
def State.setMode (s : State) (m : Nat) : State := s.set CTL_STATUS_MODE m

/-- Lower all gates at once: neither the decisions in effect nor those to come drive a phase. -/
def State.gatesLow (s : State) : State :=
  (s.updCtl fun c => { c with on := 0, low := 15, zc := 0, nextOn := 0, nextLow := 15, nextZc := 0 }).set CTL_STATUS_PHASE_ON 0

/-- The gate pins in effect: high-side and low-side masks (R167, R175, R176). -/
def State.gates (s : State) : Nat × Nat :=
  let ph := 2 ^ s.img.phases - 1
  let drive := s.mode = 1 || s.mode = 2 || s.mode = 3
  let ctrl := if drive then s.ctl.on &&& ph else 0
  let rect := if drive then (ph ^^^ ctrl) &&& (15 ^^^ s.ctl.low) else 0
  if s.mode = 1 then (rect, ctrl) else (ctrl, rect)

/-- A parallel run ends without being judged (R188). -/
def State.dropBf (s : State) : State :=
  if s.ctl.bf.isSome then (s.updCtl fun c => { c with bf := none, runFrom := s.glb.beat }).setB CTL_STATUS_PARALLEL false
  else s

/-- An equalise in progress releases its precharge switches (R184). -/
def State.eqRelease (s : State) : State :=
  match s.ctl.eq with
  | none => s
  | some e => ((modsOf e.mods).foldl (fun t m => t.setSwitch 2 m false)
      (s.updCtl fun c => { c with eq := none, eqDone := c.eqDone || e.boot })).setB CTL_EQ_BUSY false

/-- The engine leaves for off: all gates low (R171, R173). -/
def State.ctlOff (s : State) : State :=
  ((((s.eqRelease.dropBf.gatesLow.setMode 0).set CTL_STATUS_LIMITER 0).setB CTL_STATUS_DEAD false).setB CTL_STATUS_FMT
    false).updCtl fun c => { c with hand := 0, hold := 0, eqWant := [] }

/-- Ask for a hand-over to charge (R185): the next sample is the dead sample. Where charge is not allowed the engine goes
off (CTL_CTRL.CHG_EN). From off it enters fixed point, and the failure count clears (R186, R195). -/
def State.toCharge (s : State) (event : Bool) : State :=
  let s0 := s.dropBf.gatesLow
  if !s.bit CTL_CTRL_CHG_EN then s0.ctlOff
  else
    let s1 := s0.updCtl fun c => { c with hand := 2, handEvent := event, runFrom := s.glb.beat, hold := 0 }
    if s.mode = 0 then (s1.set CTL_BF_FAILS 0).setB CTL_STATUS_FMT false else s1

/-- A health test ends without a result (R200, R190): RESULT 2 and event 0x0508; in step H5 the published result stands. A test whose
dead sample has not begun does not enter health test any more. -/
def State.htEnd (s : State) : State :=
  match s.ctl.ht with
  | none => s
  | some h =>
    let s1 := (((s.updCtl fun c => { c with ht := none, hand := if c.hand = 3 then 0 else c.hand }).setB CTL_HT_STATUS_BUSY false).set CTL_HT_STATUS_STEP 0)
    if h.step = 5 then s1
    else ((s1.set CTL_HT_STATUS_RESULT 2).setB CTL_STATUS_HT_DONE true).event 0x0508 0

/-- Abandon a health test and return to charge (R200). -/
def State.htAbandon (s : State) : State :=
  match s.ctl.ht with
  | none => s
  | some h => if h.step = 5 then s.htEnd else s.htEnd.toCharge false

/-- The control section of an image has validated. -/
def State.ctlValid (s : State) : Bool := s.sti.active.isSome

/-- An INMON trip at the engine (R174, R179, R184): all gates low, and the next sample is the dead sample of discharge. From off it
needs a control section in force, outside SEALED. A trip before the dead sample of a hand-over to charge takes its place. DESIGN
CHOICE: the spec does not say whether R184 or R189 prevails for a trip during the 40 samples of a fault hold; the hand-over does, and
the hold ends (so does `toCharge` for a hand-over to charge). -/
def State.ctlTrip (s : State) : State :=
  if s.mode = 2 && s.ctl.hand ≠ 2 || s.ctl.hand = 1 then s
  else if s.mode = 0 && s.ctl.hand = 0 && (!s.ctlValid || s.glb.st = .sealed) then s
  else s.htEnd.eqRelease.dropBf.gatesLow.updCtl fun c => { c with hand := 1, hold := 0 }

/-- The engine enters charge in BOOT, once the control section is in force and the equalise of R513 has ended (R171). -/
def State.bootCharge (s : State) : State :=
  if s.ctlValid && s.ctl.eqDone && s.mode = 0 && s.ctl.hand = 0 && s.ctl.eq.isNone
      && (s.glb.st = .boot || s.glb.st = .restore || s.serving) then s.toCharge false
  else s

/-- Count a fault found in a mode (R190, CTL_FAULT.COUNT): those of charge and equalise apart. -/
def State.countFault (s : State) (m : Nat) : State :=
  s.updCtl fun c => { c with
    faults := s.glb.beat :: (c.faults.filter fun b => s.glb.beat - b < 1000000)
    chFaults := (if m = 1 || m = 4 then [s.glb.beat] else []) ++ c.chFaults.filter fun b => s.glb.beat - b < 1000000
    runFrom := s.glb.beat }

/-- The 8th fault of charge and equalise within 1,000,000 beats sends the engine to off (R190). -/
def State.judgeFault (s : State) (m : Nat) : State :=
  if (m = 1 ∨ m = 4) ∧ 8 ≤ s.ctl.chFaults.length then (s.ctlOff.setB CTL_CTRL_CHG_EN false).event 0x050A 0 else s

/-- Latch a fault found in mode `m` (R189, R190): its cause, event 0x0503, its interrupt, the hold of 40 samples. `cause` is the bit of
CTL_FAULT. A fault during a parallel run fails it; one in block floating point hands over to fixed point (R187). -/
def State.ctlFault (s : State) (m cause phases : Nat) : State :=
  let f : Fld := if cause = 0 then CTL_FAULT_PH_TRIP else if cause = 1 then CTL_FAULT_BUS_OV
    else if cause = 2 then CTL_FAULT_BANK_OV else if cause = 3 then CTL_FAULT_SENSE_RANGE
    else if cause = 4 then CTL_FAULT_BF_OVF else CTL_FAULT_SHOOT
  let s1 := (s.setB f true).setB CTL_STATUS_FAULT true
  let s2 := if cause = 0 then s1.set CTL_FAULT_PHASES_TRIPPED phases else s1
  let s4 := ((s2.countFault m).event 0x0503 0).raise 12
  let s5 := match s4.ctl.bf with
    | some b => s4.updCtl fun c => { c with bf := some { b with bad := 3, n := 64 } }
    | none => s4
  let s6 := if s5.bit CTL_STATUS_FMT then (s5.setB CTL_STATUS_FMT false).event 0x0506 0 else s5
  let s7 := s6.htEnd.gatesLow
  let s8 := if s.ctl.ht.isSome ∧ m = 3 then s7.setMode 1 else s7
  (s8.updCtl fun c => { c with hold := 2 }).judgeFault m

/-- The engine drives or waits to drive gates: outside off and outside a running hold. -/
def State.comparing (s : State) : Bool := (s.mode ≠ 0 || s.ctl.hand ≠ 0) && s.ctl.hold = 0

/-- The protective comparators on one set of conversions (R179): every limit that it meets latches its fault. DESIGN CHOICE: during the
40 samples of a hold (R189) a limit that the conversions before met too is the fault found already; one that they did not meet is a
fault of its own, and the 40 samples count anew. -/
def State.protect (s : State) (codes : BitVec 96) : State :=
  let m := s.senseOf codes
  let edge := fun (n : Nat) => codeOf codes n = 0 || codeOf codes n = 4095
  let s1 := s.updCtl fun c => { c with
    range4 := if edge 4 then c.range4 + 1 else 0, range6 := if edge 6 then c.range6 + 1 else 0 }
  if s.mode = 0 && s.ctl.hand = 0 then s1
  else
    let tripped := (List.range s.img.phases).foldl (fun k p =>
      if 16 * s.img.iphTrip ≤ (m.il.getD p 0).natAbs then setBit k p else k) 0
    let met := [decide (tripped ≠ 0), decide (16 * (s.img.vbusOv : Int) ≤ m.vbus),
      decide (16 * ((s.img.vchgMax : Int) + 1000) ≤ m.vbank), decide (4 ≤ s1.ctl.range4) || decide (4 ≤ s1.ctl.range6)]
    let found := (List.range 4).filter fun i => met.getD i false && (s.ctl.hold = 0 || !bitOf s.ctl.met i)
    found.foldl (fun t i => t.ctlFault s.mode i tripped) (s1.updCtl fun c => { c with
      met := (List.range 4).foldl (fun k i => if met.getD i false then setBit k i else k) 0 })

/-- The target of the test current (R197): the ramp of H1 begins after the dead sample. -/
def State.htTarget (s : State) : Int :=
  match s.ctl.ht with
  | some h => if (h.step = 1 ∨ h.step = 2) ∧ s.ctl.hand ≠ 3 then 16 * (s.img.htI : Int) else 0
  | none => 0

/-- Every integrator but the bus loop's by back-calculation, for a start in discharge (R184). -/
def Image.seedDischarge (im : Image) (n : CtlNums) (m : Sense) : CtlNums :=
  let n0 := { n with r := m.iload, vbus := 16 * (im.vbusSet : Int) }
  let n1 := (im.loops 2 n0 m).foldl (fun n l =>
    n.setI l.code (max 0 (min im.rMax (sat32 (m.iload - fxMul l.e (im.kpC l.slot) (im.kpSh l.slot)))))) n0
  { n1 with i1 := m.iload }

/-- A fault BF_OVF (R187, R193): fixed point takes over in the same sample. The fault counts as any other of its mode (R190). -/
def State.bfOverflow (s : State) : State :=
  (((((s.setB CTL_FAULT_BF_OVF true).setB CTL_STATUS_FAULT true).countFault s.mode).setB CTL_STATUS_FMT false).event 0x0506
    0).judgeFault s.mode

/-- Keep what a sample decided, to apply at the next one (R62). -/
def State.keepDecision (s : State) (d : Decision) : State :=
  (s.updCtl fun c => { c with next := d.nums, nextOn := d.on, nextLow := d.low, nextZc := d.zc, nextHb := d.hb }).set
    CTL_STATUS_LIMITER d.lim

/-- Start in discharge from a sample: seeds, and the decisions for the next sample, in the form that drives the gates (R184 step 2,
R195). -/
def State.startDischarge (s : State) (m : Sense) : State :=
  let n := s.img.seedDischarge s.ctl.nums m
  let s1 := s.updCtl fun c => { c with nums := n, next := n }
  if s.bit CTL_STATUS_FMT && s.bit CTL_CTRL_BF_EN then
    match s.img.bfStart n m with
    | some d => s1.keepDecision d
    | none => s1.bfOverflow.keepDecision (s.img.fixedStart n m)
  else s1.keepDecision (s.img.fixedStart n m)

/-- The registers that show the values in effect (CTL_REF, CTL_SET). -/
def State.showCtl (s : State) : State :=
  let n := s.ctl.nums
  (((((s.set CTL_REF_REF (n.r / 16).toNat).set CTL_REF_HB (s.ctl.hb / 16).toNat).set CTL_SET_VBUS_NOW
    (n.vbus / 16).toNat).set CTL_SET_VCHG_NOW (n.vchg / 16).toNat).set CTL_STATUS_PHASE_ON s.ctl.on)

/-- The values of the latest sample (CTL_MEASn). -/
def State.showMeas (s : State) (codes : BitVec 96) : State :=
  (List.range 8).foldl (fun t n => t.set (CTL_MEAS_VALUE n) ((s.img.sense n (codeOf codes n)) % 2 ^ 32).toNat) s

/-- The value of a channel in the latest sample, in sixteenths. -/
def State.meas (s : State) (n : Nat) : Int := signedOf 32 (s.get (CTL_MEAS_VALUE n))

/-- VBANK of the latest sample in whole mV, rounded down (R170). -/
def State.bankMv (s : State) : Nat := (s.meas 4 / 16).toNat

/-- VBANK stands within 500 mV of the slewed VCHG (R196, R197). -/
def State.nearVchg (s : State) : Bool := (s.meas 4 - s.ctl.nums.vchg).natAbs ≤ 8000

end Sys2Proof.Machine
end

