-- ==== Sys2Proof/Machine/Control.lean ====
section
/-! DEFINITION. The commands of the hold-up converter control engine (R167 to R202, R516). -/

namespace Sys2Proof.Machine

/-- The decisions of the sample before take effect (R62). -/
def State.applyDecision (s : State) : State :=
  (s.updCtl fun c => { c with nums := c.next, on := c.nextOn, low := c.nextLow, zc := c.nextZc, hb := c.nextHb }).setB
    CTL_STATUS_DEAD false

/-- A sample in which no law runs: the set-points slew (R182). -/
def State.restSample (s : State) : State :=
  s.updCtl fun c => { c with next := s.slewed c.nums s.htTarget, nextOn := 0, nextLow := 15, nextZc := 0 }

/-- A dead sample (R184, R185, R197): the mode changes, all gates stay low, and a start in discharge or in charge seeds its values;
no other value steps (R183). -/
def State.deadSample (s : State) (codes : BitVec 96) (fresh : Bool) : State :=
  let m := s.senseOf codes
  let h := s.ctl.hand
  let s1 := (s.gatesLow.restSample.updCtl fun c => { c with hand := 0 }).setB CTL_STATUS_DEAD true
  let s2 := if h = 1 then (s1.setMode 2).event 0x0501 0
    else if h = 2 then (if s.ctl.handEvent then (s1.setMode 1).event 0x0502 0 else s1.setMode 1)
    else s1.setMode 3
  let s3 := if fresh then s2.protect codes else s2
  if s3.ctl.hold ≠ 0 then s3
  else if h = 1 then (s3.updCtl fun c => { c with nums := c.next }).startDischarge m
  else if h = 2 then
    s3.updCtl fun c =>
      let n : CtlNums := { c.next with i1 := 0, i2 := 0, i3 := 0, i7 := 0, r := 0, vchg := m.vbank }
      { c with nums := n, next := n }
  else s3

/-- Sums of a health test's windows over one sample (R197). -/
def HtRun.sample (h : HtRun) (n : Nat) (m : Sense) : HtRun :=
  let inB := h.step = 2 ∧ 64 ≤ h.k ∧ h.k < 128
  let inC := h.step = 2 ∧ n - 64 ≤ h.k ∧ h.k < n
  let inI := h.step = 2 ∧ 64 ≤ h.k ∧ h.k < n
  let inD := h.step = 4 ∧ 64 ≤ h.k ∧ h.k < 128
  { h with
    k := h.k + 1
    sumB := if inB then h.sumB + m.vbank else h.sumB
    sumC := if inC then h.sumC + m.vbank else h.sumC
    sumD := if inD then h.sumD + m.vbank else h.sumD
    sumI := if inI then h.sumI + m.ibank else h.sumI
    nI := if inI then h.nI + 1 else h.nI }

/-- The samples of step H2 (R197). -/
def Image.htN (i : Image) : Nat := i.htBeats * i.samplesPerBeat

/-- The parallel run over one sample (R186): the block-floating path beside the fixed-point decision. -/
def State.bfSample (s : State) (m : Sense) (fx : Decision) : State :=
  match s.ctl.bf with
  | none => s
  | some b =>
    if 64 ≤ b.n then s
    else
      let n := s.slewed (if b.n = 0 then s.ctl.nums else b.next) s.htTarget
      match s.img.bfStep s.mode n m ⟨s.ctl.on, s.ctl.low, s.ctl.zc⟩ with
      | none => ((((s.setB CTL_FAULT_BF_OVF true).setB CTL_STATUS_FAULT true).countFault s.mode).updCtl fun c => { c with
          bf := some { b with n := 64, bad := 3 } }).judgeFault s.mode
      | some d =>
        let bad := if b.bad ≠ 0 then b.bad
          else if d.on ≠ fx.on ∨ d.low ≠ fx.low then 1
          else if s.img.gain 0 < 4096 * (d.nums.r - fx.nums.r).natAbs then 2 else 0
        s.updCtl fun c => { c with bf := some { n := b.n + 1, bad := bad, nums := b.next, next := d.nums } }

/-- The law over one sample in the form that drives the gates (R175 to R182, R195). A fault that sends the engine to off ends it. -/
def State.lawSample (s : State) (m : Sense) : State :=
  let n := s.slewed s.ctl.nums s.htTarget
  let g : Gates := ⟨s.ctl.on, s.ctl.low, s.ctl.zc⟩
  let fx := s.img.fixedStep s.mode n m g
  let s0 := if s.bit CTL_STATUS_FMT && !s.bit CTL_CTRL_BF_EN then
      (s.setB CTL_STATUS_FMT false).updCtl fun c => { c with runFrom := s.glb.beat } else s
  let d := if s0.bit CTL_STATUS_FMT then s.img.bfStep s.mode n m g else some fx
  let s1 := match d with
    | some _ => if s0.bit CTL_STATUS_FMT then s0 else s0.bfSample m fx
    | none => s0.bfOverflow
  if s1.mode = 0 then s1.restSample
  else
    let s2 := s1.keepDecision (d.getD fx)
    match s.ctl.ht with
    | some h =>
      if s.mode = 3 then
        let s3 := s2.updCtl fun c => { c with ht := some (h.sample s.img.htN m) }
        if h.step = 4 then s3.updCtl fun c => { c with nextOn := 0, nextLow := 15 } else s3
      else s2
    | none => s2

/-- Beat-clock cycles of a sample (R61); 25 ns while no control section is in force. -/
def State.sampleCycles (s : State) : Nat := if s.img.sdiv = 0 then 10 else s.img.sdiv

/-- The index of the next sample of the beat: the first that has not run and has not yet begun (R61). -/
def State.sampleIndex (s : State) : Nat := max s.ctl.sample (cdiv s.glb.cycle s.sampleCycles)

/-- A sample that begins now with its eight conversions; `fresh` where no earlier sample has used them (R170). -/
def State.sampleNow (s : State) (codes : BitVec 96) (fresh : Bool) : State :=
  let m := s.senseOf codes
  let s0 := (s.showMeas codes).applyDecision.updCtl fun c => { c with hold := if c.hold = 0 then 0 else min 41 (c.hold + 1) }
  let s1 :=
    if s0.ctl.hand ≠ 0 ∧ ¬(s0.ctl.hand = 3 ∧ s0.ctl.hold ≠ 0) then s0.deadSample codes fresh
    else if s0.ctl.hold ≠ 0 then if fresh then s0.restSample.protect codes else s0.restSample
    else
      let t := if fresh then s0.protect codes else s0
      if (t.mode = 1 ∨ t.mode = 2 ∨ t.mode = 3) ∧ t.ctl.hold = 0 then t.lawSample m else t.restSample
  let s2 := if s1.mode = 0 then s1 else s1.showCtl
  s2.updCtl fun c => { c with codes := codes, nearNow := c.nearNow && s2.mode = 1 && s2.nearVchg }

/-- CONTROL_SAMPLE (R61, R62, R170, R175): the next sample of the beat begins, at its place in the beat, with the eight conversions
it uses; at 20 ns every fifth conversion serves two samples. A beat whose samples have all begun has no further one. -/
def execControlSample (codes : BitVec 96) (s : State) : Out :=
  let k := s.sampleIndex
  if 400 / s.sampleCycles ≤ k then ok s
  else
    let t := (s.updGlb fun g => { g with cycle := k * s.sampleCycles }).updCtl fun c => { c with sample := k + 1 }
    if s.sampleCycles = 8 ∧ k % 5 = 1 then ok (t.sampleNow s.ctl.codes false) else ok (t.sampleNow codes true)

/-- PROTECTIVE_TRIP (R179, R168): a conversion outside a sample meets a limit, or the gate interlock finds both gates of a
phase requested (`shoot`). -/
def execProtectiveTrip (codes : BitVec 96) (shoot : Bool) (s : State) : Out :=
  let s1 := s.protect codes
  if shoot ∧ s.comparing then ok (s1.ctlFault s.mode 5 0) else ok s1

/-- FAULT_RESTART (R189, R190): after the hold the engine restarts in fixed point in its mode. -/
def execFaultRestart (s : State) : Out :=
  if s.ctl.hold ≠ 41 then ok s
  else
    let s0 := (s.updCtl fun c => { c with hold := 0 }).setB CTL_STATUS_FMT false
    if s.mode = 2 then
      let v := fun n => s.meas n
      ok (s0.startDischarge ⟨[v 0, v 1, v 2, v 3], v 4, v 5, v 6, v 7, s.scanCode s.img.tscan⟩)
    else if s.mode = 0 ∨ s.ctl.hand = 1 ∨ s.ctl.hand = 3 then ok s0
    else if s.mode = 4 then ok (s0.eqRelease.toCharge false)
    else ok (s0.toCharge false)

/-- BF_RUN_START (R186, R188, R195). -/
def execBfRunStart (s : State) : Out :=
  if (s.mode = 1 ∨ s.mode = 2) ∧ s.ctl.hand = 0 ∧ s.ctl.hold = 0 ∧ s.bit CTL_CTRL_BF_EN ∧ !s.bit CTL_STATUS_FMT
      ∧ s.ctl.bf.isNone ∧ s.get CTL_BF_FAILS < 8 ∧ s.expired s.ctl.runFrom 1000 then
    ok ((s.updCtl fun c => { c with bf := some ⟨0, 0, c.nums, c.nums⟩ }).setB CTL_STATUS_PARALLEL true)
  else ok s

/-- BF_RUN_END (R186): the run is judged at its 64th sample. With CTL_CTRL.BF_EN cleared meanwhile fixed point stays (R195). DESIGN
CHOICE: the run then ends without being judged. -/
def execBfRunEnd (s : State) : Out :=
  match s.ctl.bf with
  | none => ok s
  | some b =>
    if b.n < 64 then ok s
    else if !s.bit CTL_CTRL_BF_EN then ok s.dropBf
    else
      let s1 := (s.updCtl fun c => { c with bf := none, runFrom := s.glb.beat }).setB CTL_STATUS_PARALLEL false
      if b.bad = 0 then
        ok ((((s1.updCtl fun c => { c with next := b.next }).setB CTL_STATUS_FMT true).set CTL_BF_FAILS 0).event 0x050B 0)
      else
        let n := s.get CTL_BF_FAILS + 1
        let s2 := (((s1.set CTL_BF_FAILS n).set CTL_BF_LAST b.bad).setB CTL_STATUS_BF_REFUSED true).event 0x0504 0
        ok (if n = 8 then s2.event 0x0505 0 else s2)

/-- BF_RETRY (R186): a write of CTL_BF.RETRY. -/
def execBfRetry (s : State) : Out := ok (s.set CTL_BF_FAILS 0)

/-- The bounds of a set-point field under the image in force (R516). -/
def State.setpointFine (s : State) (f : Fld) (v : Nat) : Bool :=
  if f = CTL_SET_VBUS_TARGET then 10800 ≤ v && v ≤ 13200
  else if f = CTL_SET_VCHG_TARGET then s.img.vfloor + 1000 ≤ v && v ≤ s.img.vchgMax
  else if f = CTL_SET_IBANK_CHG then 1 ≤ v && v ≤ s.img.ibankChg
  else 1 ≤ v && v ≤ s.img.ibankDis

/-- Write a set-point that stands within its bounds. -/
def State.setpoint (s : State) (f : Fld) (v : Nat) : State := if s.setpointFine f v then s.set f v else s

/-- SETPOINT_WRITE (R516, R57): a write to CTL_SET_VBUS, CTL_SET_VCHG or CTL_SET_IBANK (`reg` 0, 1, 2). -/
def execSetpointWrite (reg : BitVec 2) (w : Word) (s : State) : Out :=
  let lo := w.toNat % 65536
  let hi := w.toNat / 65536
  if reg.toNat = 0 then ok (s.setpoint CTL_SET_VBUS_TARGET lo)
  else if reg.toNat = 1 then ok (s.setpoint CTL_SET_VCHG_TARGET lo)
  else if reg.toNat = 2 then ok ((s.setpoint CTL_SET_IBANK_CHG lo).setpoint CTL_SET_IBANK_DIS hi)
  else ok s

/-- The energy modules whose isolation switch is closed: counted and joined (R199). -/
def State.modsIn (s : State) : Nat := s.get LDG_BANKREL_COUNTED ||| s.get LDG_BANKREL_JOINED

/-- Begin a health test or refuse it; while one runs no other begins (R196, R199). A test that begins during a fault hold has its dead
sample after the hold. -/
def State.htTry (s : State) : State :=
  if s.ctl.ht.isNone ∧ s.glb.st = .serve ∧ s.get LDG_STATUS_ZONE = 0 ∧ s.mode = 1 ∧ s.ctl.hand ≠ 1
      ∧ 1000 ≤ s.ctl.nearRun ∧ s.get LDG_BANKREL_PENDING = 0 then
    let s1 := s.dropBf.gatesLow.updCtl fun c => { c with
      ht := some ⟨1, 0, s.modsIn, 0, 0, 0, 0, 0⟩, htWant := false, htRef := s.glb.beat, hand := 3 }
    ((s1.setB CTL_HT_STATUS_BUSY true).set CTL_HT_STATUS_STEP 1).setB CTL_STATUS_FMT false
  else
    (((s.updCtl fun c => { c with htWant := true, htTry := s.glb.beat }).set CTL_HT_STATUS_RESULT 4).setB
      CTL_STATUS_HT_DONE true).event 0x0508 0

/-- HEALTH_TEST_GO (R196): a write of CTL_HT_CTRL.GO. -/
def execHealthTestGo (s : State) : Out := ok s.htTry

/-- HEALTH_TEST_SCHEDULED (R196): HOURS hours have passed since the reference moment. -/
def execHealthTestScheduled (s : State) : Out :=
  if s.get CTL_HT_CTRL_HOURS ≠ 0 ∧ s.expired s.ctl.htRef (s.get CTL_HT_CTRL_HOURS * 3600000000) ∧ !s.ctl.htWant then
    ok s.htTry
  else ok s

/-- HEALTH_TEST_RETRY (R196): 1,000 beats after a refusal. -/
def execHealthTestRetry (s : State) : Out :=
  if s.ctl.htWant ∧ s.expired s.ctl.htTry 1000 then ok s.htTry else ok s

/-- Samples of the ramp of a health test (R197). -/
def Image.htRamp (i : Image) : Nat := cdiv i.htI i.htSlew

/-- Ceiling division of integers. -/
def icdiv (a b : Int) : Int := -((-a) / b)

/-- The estimates of R198: C in mF, ESR in µΩ. -/
def HtRun.estimate (h : HtRun) (im : Image) : Int × Int :=
  let ts : Int := im.tsNs
  let n : Int := im.htN
  let c := (h.sumI * (n - 128) * ts * 64) / (h.nI * (h.sumB - h.sumC) * 1000000)
  let a := (h.sumD - h.sumC) * 15625 * h.nI
  let b := (64 + (im.htRamp : Int)) * ts
  (c, icdiv (a * 2 * c + b * h.sumI) (2 * c * h.sumI))

/-- The result is plausible (R199). -/
def HtRun.plausible (h : HtRun) (im : Image) (now : Nat) : Bool :=
  let n : Int := ones 4 h.mods
  let e := h.estimate im
  decide (ones 4 h.mods = ones 4 now) && decide (0 < h.sumI) && decide (h.sumC < h.sumB)
    && decide (n * im.cminMod ≤ 2 * e.1) && decide (e.1 ≤ 2 * n * im.cminMod) && decide (0 < e.1)
    && decide (0 < e.2) && decide (e.2 * n ≤ 2 * im.esrmaxMod)

/-- Publish the result at the first sample of H5 (R199). -/
def State.htPublish (s : State) (h : HtRun) : State :=
  let s1 :=
    if h.plausible s.img s.modsIn then
      let e := h.estimate s.img
      let t : HTest := ⟨e.1.toNat, e.2.toNat, s.modsIn, s.glb.beat⟩
      (((((s.set CTL_HT_C_VALUE t.c).set CTL_HT_ESR_VALUE t.esr).set CTL_HT_STATUS_MODS t.mods).set CTL_HT_STATUS_RESULT 1).updLdg
        fun l => { l with newTest := some (s.boundBeat, t) }).event 0x0507 0
    else (s.set CTL_HT_STATUS_RESULT 3).event 0x0509 0
  ((s1.setB CTL_STATUS_HT_DONE true).raise 13)

/-- HEALTH_TEST_STEP_END (R197, R199): the step has run its samples. -/
def execHealthTestStepEnd (s : State) : Out :=
  match s.ctl.ht with
  | none => ok s
  | some h =>
    let len := if h.step = 1 ∨ h.step = 3 then s.img.htRamp else if h.step = 2 then s.img.htN else 128
    if s.mode ≠ 3 ∨ h.k < len ∨ 5 ≤ h.step then ok s
    else
      let s1 := (s.updCtl fun c => { c with ht := some { h with step := h.step + 1, k := 0 } }).set CTL_HT_STATUS_STEP (h.step + 1)
      if h.step = 3 then ok s1.gatesLow
      else if h.step = 4 then ok ((s1.htPublish h).toCharge false)
      else ok s1

/-- HEALTH_TEST_RECHARGED (R197, R199): step H5 ends. -/
def execHealthTestRecharged (s : State) : Out :=
  match s.ctl.ht with
  | some h =>
    if h.step = 5 ∧ s.mode = 1 ∧ s.ctl.hand = 0 ∧ s.nearVchg then ok s.htEnd else ok s
  | none => ok s

/-- HEALTH_TEST_ABORT (R200): a write of CTL_HT_CTRL.ABORT. -/
def execHealthTestAbort (s : State) : Out := ok s.htAbandon

/-- An equalise of a module is accepted: SERVE, the module present and not counted (R201 step 1). -/
def State.eqMay (s : State) (m : Nat) : Bool :=
  s.glb.st = .serve && bitOf (s.get LDG_BANKREL_PRESENT) m && !bitOf (s.get LDG_BANKREL_COUNTED) m

/-- The engine enters equalise from charge for an accepted module, oldest first, and asserts its precharge (R171, R201 step 2). DESIGN
CHOICE: one that begins during step H5 of a health test ends H5; the spec names only the recharge and the events of R200. -/
def State.eqStart (s : State) : State :=
  match s.ctl.eqWant with
  | [] => s
  | m :: rest =>
    if s.mode ≠ 1 || s.ctl.hand ≠ 0 || s.ctl.eq.isSome then s
    else
      let s0 := s.updCtl fun c => { c with eqWant := rest }
      if !s.eqMay m then s0.setB CTL_EQ_FAIL true
      else
        let s1 := ((s0.htEnd.dropBf.gatesLow.setMode 4).set CTL_STATUS_LIMITER 0).setB CTL_STATUS_FMT false
        ((s1.updCtl fun c => { c with eq := some ⟨2 ^ m, false, s.glb.beat, [], 2 ^ m, 0⟩, hold := 0 }).setSwitch 2 m true).setB
          CTL_EQ_BUSY true

/-- EQUALISE_GO (R201 steps 1 and 2): a write of CTL_EQ with GO. An accepted equalise begins once the engine is in charge with no
hand-over pending. -/
def execEqualiseGo (mod : BitVec 2) (s : State) : Out :=
  let m := mod.toNat
  let s0 := s.set CTL_EQ_MOD m
  if s.eqMay m then ok (s0.updCtl fun c => { c with eqWant := c.eqWant ++ [m] }).eqStart
  else ok (s0.setB CTL_EQ_FAIL true)

/-- EQUALISE_DONE (R201 steps 3 to 5). -/
def execEqualiseDone (s : State) : Out :=
  match s.ctl.eq with
  | none => ok s
  | some e =>
    if e.boot ∨ e.met ≠ e.mods ∨ s.mode ≠ 4 then ok s
    else
      let s1 := (modsOf e.mods).foldl (fun t m => t.setSwitch 1 m true) s
      let s2 := s1.eqRelease.setB CTL_EQ_DONE true
      let s3 := (s2.set LDG_BANKREL_JOINED (s2.get LDG_BANKREL_JOINED ||| e.mods)).set LDG_BANKREL_RELEASED
        (s2.get LDG_BANKREL_RELEASED &&& (15 ^^^ e.mods))
      ok ((s3.toCharge false).event 0x050C 0).htTry

/-- EQUALISE_TIMEOUT (R201): EQ_BEATS pass before step 3 completes. -/
def execEqualiseTimeout (s : State) : Out :=
  match s.ctl.eq with
  | none => ok s
  | some e =>
    if e.boot ∨ !s.expired e.start s.img.eqBeats ∨ s.mode ≠ 4 then ok s
    else ok (((s.eqRelease.setB CTL_EQ_FAIL true).toCharge false).event 0x050D 0)

/-- BOOT_EQUALISE (R513 step 1): after a VDDAON power-on, once the control section is in force. -/
def execBootEqualise (s : State) : Out :=
  if s.glb.st = .boot ∧ s.ctlValid ∧ !s.ctl.eqDone ∧ s.ctl.eq.isNone ∧ s.mode = 0 then
    let mods := s.get LDG_BANKREL_PRESENT
    if mods = 0 then ok (s.updCtl fun c => { c with eqDone := true }).bootCharge
    else ok ((modsOf mods).foldl (fun t m => t.setSwitch 2 m true)
      ((s.setMode 4).updCtl fun c => { c with eq := some ⟨mods, true, s.glb.beat, [], mods, 0⟩ }))
  else ok s

/-- BOOT_EQUALISE_END (R513 steps 2 and 3). -/
def execBootEqualiseEnd (s : State) : Out :=
  match s.ctl.eq with
  | none => ok s
  | some e =>
    if !e.boot ∨ s.mode ≠ 4 ∨ (e.met ≠ e.mods ∧ !s.expired e.start s.img.eqBeats) then ok s
    else
      let s1 := (modsOf e.met).foldl (fun t m => t.setSwitch 1 m true) s
      let s2 := (s1.eqRelease.set LDG_BANKREL_COUNTED e.met).setMode 0
      let s3 := ((modsOf e.mods).filter fun m => !bitOf e.met m).foldl (fun t m => t.event 0x050D (srcModule m)) s2
      ok s3.bootCharge

/-- What a scan shows of the equalise window (R201, R513). -/
def State.eqScan (s : State) : State :=
  match s.ctl.eq with
  | none => s
  | some e =>
    let out := (modsOf e.mods).foldl (fun b m =>
      if s.img.eqWindow < ((s.moduleMv m : Int) - s.bankMv).natAbs then setBit b m else b) 0
    s.updCtl fun c => { c with eq := some { e with bad := out } }

/-- The beats of the engine at a boundary (R60): the windows of equalise, and VBANK near VCHG. -/
def State.ctlBoundary (s : State) : State :=
  (s.updCtl fun c => { c with
    nearRun := if c.nearNow then c.nearRun + 1 else 0
    nearNow := s.mode = 1 && s.nearVchg
    eq := c.eq.map fun e =>
      let run := (modsOf e.mods).foldl (fun r m =>
        Store.put 0 r m (if bitOf e.bad m then 0 else Store.get 0 e.run m + 1)) e.run
      { e with run := run, met := (modsOf e.mods).foldl (fun b m =>
        if 100 ≤ Store.get 0 run m then setBit b m else b) e.met } }).eqStart

end Sys2Proof.Machine
end

