-- ==== Sys2Proof/Machine/ImageCheck.lean ====
section
/-! DEFINITION. Step 9 and step 10 of validation: the fields of each section, and the checks across sections (R406). A check
is an offset in its section and whether it stands; the checks of a section run in rising offset. -/

namespace Sys2Proof.Machine

/-- A check at an offset. -/
def chk (o : Nat) (g : Bool) : Nat × Bool := (o, g)

/-- The offset of the first check that fails. -/
def firstBad : List (Nat × Bool) → Option Nat
  | [] => none
  | (o, g) :: r => if g then firstBad r else some o

/-- Bytes [a, b) of a section are 0: the table names none of them (R404). -/
def Image.zeros (i : Image) (k a b : Nat) : Nat × Bool := (a, ((i.sec k).drop a).take (b - a) |>.all (· = 0))

/-- A value lies in a range. -/
def inRange (lo hi v : Nat) : Bool := decide (lo ≤ v) && decide (v ≤ hi)

/-- A scan input, or none. -/
def scanOrNone (v : Nat) : Bool := v < 64 || v = 0xFF

/-- The scan list of section 6 (R378). -/
def Image.scanList (i : Image) : List Nat := (List.range (min 64 (i.u8 6 0))).map fun n => i.u8 6 (4 + n)

/-- The scan list holds an input. -/
def Image.scanned (i : Image) (v : Nat) : Bool := i.scanList.contains v

/-- The fields of section 1 (R350, R75). -/
def Image.checks1 (i : Image) : List (Nat × Bool) :=
  [(0, 40 ≤ ones 64 (i.pool 0)), (8, 40 ≤ ones 64 (i.pool 1)), (16, 1 ≤ ones 64 (i.pool 2)), (24, ones 64 (i.pool 3) = 40),
   (40, inRange 16 32 (i.u8 1 40)), i.zeros 1 41 48]

/-- The fields of section 2 (R111, R154, R404). -/
def Image.checks2 (i : Image) : List (Nat × Bool) :=
  [chk 0 (i.spares ≤ 4), (1, i.u8 2 1 < 8), (2, i.u8 2 2 < 8), i.zeros 2 3 4, (4, i.ceil 0 ≤ 4096), (6, i.ceil 1 ≤ 4096),
   (8, i.ceil 2 ≤ 4096), i.zeros 2 10 16] ++
  [0, 1, 2, 3, 4].flatMap fun c => [chk (16 + 16 * c) (i.base c % 2 ^ 28 = 0), chk (24 + 16 * c) (i.size c % 2 ^ 28 = 0)]

/-- A coefficient set at an offset of section 3: no 0, KQ at least every class coefficient, K3 at least K4 (R145). DESIGN CHOICE: the last
is asked of KQ too, though the rule names coefficients of one class. -/
def Image.checksK (i : Image) (k3 : Bool) : List (Nat × Bool) :=
  (List.range 5).map fun n =>
    ((if k3 then 68 else 48) + 4 * n,
      i.kdes k3 n ≠ 0 && (!k3 || decide (i.kdes false n ≤ i.kdes true n))
        && (n ≠ 4 || [0, 1, 2, 3].all fun c => i.kdes k3 c ≤ i.kdes k3 4))

/-- The fields of section 3 (R141, R145, R147, R209, R162, Table: Inputs to usable energy). -/
def Image.checks3 (i : Image) : List (Nat × Bool) :=
  [(0, inRange 16000 60000 i.vfloor), (4, i.eta ≠ 0), i.zeros 3 6 8, (8, inRange 1 1000000 i.pcap), (12, i.hconf ≠ 0),
   i.zeros 3 14 16, (16, i.hconfStale ≠ 0 && decide (i.hconfStale ≤ i.hconf)), i.zeros 3 18 20, (20, i.cminMod ≠ 0),
   (24, i.esrmaxMod ≠ 0), (28, inRange 1 720 i.hstale), (32, i.fixMj ≠ 0), (36, i.brim ≠ 0)] ++
  i.checksK false ++ i.checksK true ++ [chk 88 (i.graceBeats ≤ 20000)] ++
  ((List.range 4).map fun m => (90 + m, scanOrNone (i.pres m))) ++ [i.zeros 3 94 96]

/-- The figures of a control loop (R192, Table: Control figures). -/
def Image.checksLoop (i : Image) (j : Nat) : List (Nat × Bool) :=
  [(64 + 16 * j, inRange 1 (2 ^ 31 - 1) (i.kpC j)), (68 + 16 * j, i.kpSh j ≤ 31), (69 + 16 * j, i.kiSh j ≤ 31),
   i.zeros 4 (70 + 16 * j) (72 + 16 * j), (72 + 16 * j, i.kiC j < 2 ^ 31), i.zeros 4 (76 + 16 * j) (80 + 16 * j)]

/-- The fields of section 4 (R202, Table: Control figures). -/
def Image.checks4 (i : Image) : List (Nat × Bool) :=
  [(0, [8, 10, 16, 20].contains i.sdiv), (1, inRange 1 4 i.phases), (2, inRange 1 7 i.dt && decide (i.dt < i.sdiv)),
   (3, i.tscan < 64), (4, inRange 100 100000 i.lNh), (8, inRange 50 2000 i.fswKhz), (10, 1 ≤ i.hbMin),
   (12, 1 ≤ i.hbMax && decide (i.hbMin ≤ i.hbMax)), (14, inRange 10800 13200 i.vbusSet),
   (16, inRange 9000 (i.vbusSet - 200) i.vbusSag), (18, inRange (i.vbusSet + 500) 16000 i.vbusOv),
   (20, inRange (i.vfloor + 1000) i.vchgMax i.vchg), (22, i.vchgMax ≤ 60000), (24, 1 ≤ i.ibankChg), (26, 1 ≤ i.ibankDis),
   (28, inRange 1 i.ibankDis i.htI), (30, 1 ≤ i.iphMax), (32, i.iphMax < i.iphTrip), (34, i.tStart < i.tStop),
   (38, 1 ≤ i.slewV), (40, 1 ≤ i.slewI), (42, 1 ≤ i.htSlew), (44, inRange 1 5000 i.eqWindow), i.zeros 4 46 48,
   (52, inRange 1000 100000 i.htBeats), (56, inRange 1 600000000 i.eqBeats), i.zeros 4 60 64] ++
  (List.range 4).flatMap i.checksLoop ++
  ((List.range 8).map fun n => chk (128 + 4 * n) (i.gain n ≠ 0)) ++
  ((List.range 8).map fun n => chk (160 + 2 * n) (i.offset n ≤ 4095)) ++
  ((List.range 4).map fun m => (176 + m, scanOrNone (i.modv m))) ++ [chk 182 (i.tslope ≠ 0)]

/-- The kind of a rail, its parents, its group and its core bit, as section 5 gives them. -/
def Image.kind (i : Image) (n : Nat) : Nat := i.u8 5 (40 * n)
def Image.parents (i : Image) (n : Nat) : List Nat :=
  ((List.range 4).map fun k => i.u8 5 (40 * n + 4 + k)).filter fun p => p ≠ 0xFF
def Image.group (i : Image) (n : Nat) : Nat := i.u8 5 (40 * n + 10)
def Image.core (i : Image) (n : Nat) : Bool := i.u8 5 (40 * n + 1) = 1
def Image.groupOwner (i : Image) (g : Nat) : Nat := i.u8 5 (1920 + 8 * g)
def Image.groupTarget (i : Image) (g : Nat) : Nat := i.u8 5 (1921 + 8 * g)

/-- A rail lies in a group with an owner. -/
def Image.owned (i : Image) (n : Nat) : Bool := i.group n < 16 && i.groupOwner (i.group n) ≠ 0

/-- The rails that chains of `k` steps to parents reach: without a cycle, none is left after 48 steps. -/
def Image.chainFrom (i : Image) : Nat → List Nat → List Nat
  | 0, l => l
  | k + 1, l => i.chainFrom k ((l.flatMap i.parents).eraseDups)

/-- The parents of a sequenced rail stand under R375. -/
def Image.parentsFine (i : Image) (n : Nat) : Bool :=
  (i.parents n).all (fun p => p < 48 && i.kind p = 1 && (!i.core n || i.core p)
    && (!i.owned p || i.group n = i.group p))
    && (n ≠ 0 || (i.parents n).isEmpty) && (!(1 ≤ n && n ≤ 3) || (i.parents n).contains (n - 1))

/-- The fields of a rail that its kind uses (R370, R373, R375, Table: Rail descriptor fields), and the bits of its descriptor that the
table names for no kind, which are 0 (R404). -/
def Image.checksRail (i : Image) (n : Nat) : List (Nat × Bool) :=
  let b := 40 * n
  let low := chk (b + 11) (i.u8 5 (b + 11) < 16)
  let rest := i.zeros 5 (b + 36) (b + 40)
  if i.kind n = 1 then
    [(b + 1, i.u8 5 (b + 1) ≤ 1 && (3 < n || i.core n)), (b + 2, i.u8 5 (b + 2) ≤ 1), (b + 3, i.u8 5 (b + 3) ≤ 1),
     (b + 4, i.parentsFine n), (b + 8, i.u8 5 (b + 8) < 64 && i.scanned (i.u8 5 (b + 8))), (b + 9, inRange 1 15 (i.u8 5 (b + 9))),
     (b + 10, (i.group n < 16 || i.group n = 0xFF) && !(i.core n && i.owned n)), low,
     (b + 12, i.u16 5 (b + 12) < i.u16 5 (b + 14)), (b + 14, i.u16 5 (b + 14) ≤ 4095),
     (b + 16, decide (i.u16 5 (b + 12) ≤ i.u16 5 (b + 16)) && decide (i.u16 5 (b + 16) < i.u16 5 (b + 18))),
     (b + 18, i.u16 5 (b + 18) ≤ i.u16 5 (b + 14)), (b + 20, inRange 1 1000000 (i.u32 5 (b + 20))),
     (b + 24, i.u32 5 (b + 24) ≤ 100000), (b + 28, i.u32 5 (b + 28) ≤ 1000000), (b + 32, i.u32 5 (b + 32) ≤ 100000), rest]
  else if i.kind n = 2 then
    [(b, decide (3 < n)), (b + 11, (i.u8 5 (b + 11) % 4 = 1 || i.u8 5 (b + 11) % 4 = 2)
      && (List.range n).all fun m => i.kind m ≠ 2 || i.u8 5 (40 * m + 11) % 16 ≠ i.u8 5 (b + 11) % 16), low, rest]
  else [(b, decide (3 < n) && (i.kind n = 0 || i.kind n = 3)), low, rest]

/-- A rail group: owner, target and stretch (R374). -/
def Image.checksGroup (i : Image) (g : Nat) : List (Nat × Bool) :=
  let b := 1920 + 8 * g
  let holds := (List.range 48).any fun n => i.kind n = 1 && i.group n = g
  [(b, i.groupOwner g ≤ 2), (b + 1, match i.groupOwner g with | 1 => i.groupTarget g < 16 | 2 => i.groupTarget g < 4 | _ => true),
   i.zeros 5 (b + 2) (b + 4), (b + 4, decide (i.u32 5 (b + 4) ≤ 100000) && (!holds || i.u32 5 (b + 4) ≠ 0))]

/-- The fields of section 5 (R375). -/
def Image.checks5 (i : Image) : List (Nat × Bool) :=
  (List.range 48).flatMap i.checksRail ++ [chk 4 (i.chainFrom 48 ((List.range 48).filter fun n => i.kind n = 1) = [])] ++
    (List.range 16).flatMap i.checksGroup

/-- The fields of section 6 (R204, R375, R378, R395, R396). -/
def Image.checks6 (i : Image) : List (Nat × Bool) :=
  [(0, i.u8 6 0 ≤ 64), i.zeros 6 1 4, (4, i.scanList.all (· < 64) && i.scanList.eraseDups.length = i.scanList.length
      && (List.range 64).all fun n => n < i.u8 6 0 || i.u8 6 (4 + n) = 0xFF),
   (68, i.inWarn + i.inHyst ≤ 1023), (70, i.inCollapse < i.inWarn), (72, i.inHyst ≠ 0), (73, i.inDeglitch ≤ 4),
   (74, i.dfloor ≤ 1023 && decide (i.dfloor * i.bmv < i.vfloor)), (76, i.sfloor ≠ 0 && decide (i.sfloor < i.dfloor)),
   (78, i.bankHyst ≠ 0), (79, i.bankDeglitch ≤ 4), (82, inRange 10 80 i.droopMv), i.zeros 6 83 88]

/-- Section 7 enables a domain. -/
def Image.domEn (i : Image) (d : Nat) : Bool := i.u8 7 (4 * d) % 2 = 1

/-- The fields of section 7 (R382). -/
def Image.checks7 (i : Image) : List (Nat × Bool) :=
  let portOff := fun (l : List Nat) => l.any fun d => !i.domEn d
  ((List.range 96).flatMap fun d =>
    let extra := fun (v : Nat) => v = 0xFF || (v < 48 && i.kind v = 1)
    [(4 * d, i.u8 7 (4 * d) ≤ 1 && (i.domEn d || !(inRange 64 75 d || inRange 93 95 d
        || (inRange 76 79 d && i.modGroup (d - 76) ≠ 0xFF)))),
     (4 * d + 1, extra (i.u8 7 (4 * d + 1))), (4 * d + 2, extra (i.u8 7 (4 * d + 2))), i.zeros 7 (4 * d + 3) (4 * d + 4)]) ++
  [chk 0 (((List.range 64).filter fun d => !i.domEn d).length ≤ 24),
   (320, !(portOff [80, 82, 84, 85] && portOff [81, 83, 86, 87]))]

/-- A snapshot entry names a register that a snapshot may read (R404). -/
def snapFine (off : Nat) : Bool :=
  let f := (fieldsAt .hostA off).map (·.1)
  off = 0xFFFFFFFF || (off % 4 = 0 && off < 0x200000 && off ≠ SEQ_SNAP_DATA_DATA.off && !f.isEmpty
    && f.all (fun x => x.acc ≠ .rc) && f.any fun x => x.acc ≠ .wo)

/-- The fields of section 8. -/
def Image.checks8 (i : Image) : List (Nat × Bool) := (List.range 128).map fun n => (4 * n, snapFine (i.u32 8 (4 * n)))

/-- The fields of section 9. -/
def Image.checks9 (i : Image) : List (Nat × Bool) :=
  [chk 0 (i.chclass ≤ 1), chk 1 (i.next ≤ 3), i.zeros 9 2 8] ++
  (List.range 3).flatMap fun x => [chk (8 + 32 * x) (i.next ≤ x || i.extClass x ≤ 2), i.zeros 9 (9 + 32 * x) (16 + 32 * x)]

/-- The fields of section 10; `cap` is the cache data space in bytes (R230, R235, R253). -/
def Image.checks10 (i : Image) (cap : Nat) : List (Nat × Bool) :=
  let slots := (i.blocks - i.crownBlocks) * ((i.pages - 1) * i.targets) * (64 * i.planes)
  [(0, i.planes = 1 || i.planes = 2 || i.planes = 4), (1, inRange 1 8 i.targets), (2, inRange 64 4096 i.pages),
   (4, inRange 8 16384 i.blocks && decide (9 * (cap + 2 ^ 30) ≤ 4 * slots * 4096)), (6, inRange 3 15 i.crownBlocks),
   i.zeros 10 7 8] ++
  ((List.range 4).map fun m => (8 + m, i.modGroup m < 16 || i.modGroup m = 0xFF)) ++
  ((List.range 4).map fun m => (12 + m, scanOrNone (i.modPres m)))

/-- A role names a slot of its USE, or none where none is allowed. -/
def Image.roleFine (i : Image) (slot use : Nat) (mayNone : Bool) : Bool :=
  (slot < 32 && i.slotUse slot = use) || (mayNone && slot = 0xFF)

/-- The fields of section 11. -/
def Image.checks11 (i : Image) : List (Nat × Bool) :=
  [(0, i.roleFine i.dataKey 1 false && i.dataKey ≠ i.sealKey), (1, i.roleFine i.sealKey 1 false),
   (2, i.roleFine i.pairKey 2 true), (3, i.roleFine i.ownerKey 3 false && i.ownerKey = i.ownSlot),
   (4, i.roleFine i.clearKey 4 true), (5, i.roleFine i.escrowKey 5 true), (6, i.roleFine i.updKey 6 true), i.zeros 11 7 8,
   chk 8 (((List.range 32).filter fun k => i.slotUse k = 1).length = 2)] ++
  (List.range 32).flatMap fun k =>
    [chk (8 + 4 * k) (i.slotUse k ≤ 6), chk (9 + 4 * k) (i.u8 11 (9 + 4 * k) < 8), i.zeros 11 (10 + 4 * k) (12 + 4 * k)]

/-- Step 9: the first section, in ID order, with a field that fails, and its offset (R406). -/
def Image.fieldFault (i : Image) (cap : Nat) : Option (Nat × Nat) :=
  let all := [i.checks1, i.checks2, i.checks3, i.checks4, i.checks5, i.checks6, i.checks7, i.checks8, i.checks9,
    i.checks10 cap, i.checks11]
  ((List.range 11).filterMap fun k => (firstBad (all.getD k [])).map fun o => (k + 1, o)).head?

/-- Two spans of addresses do not meet. -/
def apart (a b : Nat × Nat) : Bool := a.2 = 0 || b.2 = 0 || decide (a.1 + a.2 ≤ b.1) || decide (b.1 + b.2 ≤ a.1)

/-- Every span of a list lies apart from the later ones. -/
def allApart : List (Nat × Nat) → Bool
  | [] => true
  | a :: r => r.all (apart a) && allApart r

/-- Step 10: the checks across sections (R406), each with the section and the offset of the field that it names. DESIGN CHOICE: of the
fields that a check compares it names the one of the later section, or of the later entry. -/
def Image.across (i : Image) : List ((Nat × Nat) × Bool) :=
  let ext := fun (x : Nat) => (i.extOff x, i.extLen x)
  let region := fun (c : Nat) => (i.base c, i.size c)
  let fitted := fun (m : Nat) => i.pres m ≠ 0xFF
  ([((4, 48), decide (i.pcap = i.ctlPcap)), ((1, 32), decide (i.u8 1 40 ≤ ones 64 i.queueMask / 2))] : List ((Nat × Nat) × Bool)) ++
  ((List.range 5).map fun c => ((2, 16 + 16 * c), (List.range c).all fun d => apart (region d) (region c))) ++
  ((List.range i.next).map fun x => ((9, 32 + 32 * x),
    decide (i.extOff x + i.extLen x ≤ i.size 4) && (List.range x).all fun y => apart (ext y) (ext x))) ++
  [((4, 3), i.scanned i.tscan)] ++
  ((List.range 4).flatMap fun m =>
    [((3, 90 + m), !fitted m || i.scanned (i.pres m)),
     ((4, 176 + m), (i.modv m = 0xFF || i.scanned (i.modv m)) && (fitted m = (i.modv m ≠ 0xFF))),
     ((10, 8 + m), i.modGroup m = 0xFF || (i.groupOwner (i.modGroup m) = 2 && i.groupTarget (i.modGroup m) = m)),
     ((10, 12 + m), i.modPres m = 0xFF || i.scanned (i.modPres m))]) ++
  (List.range 48).map fun n => ((5, 40 * n + 11), i.kind n ≠ 2 || fitted (i.u8 5 (40 * n + 11) / 4 % 4))

/-- The field that step 10 names, none where every check stands. -/
def Image.acrossFault (i : Image) : Option (Nat × Nat) := (i.across.find? fun x => !x.2).map Prod.fst

/-- Every check across sections stands. -/
def Image.acrossFine (i : Image) : Bool := i.acrossFault.isNone

end Sys2Proof.Machine
end

