-- ==== Sys2Proof/Machine/PersistOps.lean ====
section
/-! DEFINITION. The persist path as the blocks use it: windows, queue shares, admission, horizons (R70 to R104). -/

namespace Sys2Proof.Machine

/-- 256 MiB, the unit of windows and regions (R70). -/
def mib256 : Nat := 268435456

/-- The decoder with nothing committed. -/
def Decoder.off : Decoder := ⟨0, 0, false, false⟩

/-- Decoder `k` of a port. -/
def State.decoder (s : State) (p : Port) (k : Nat) : Decoder := Store.get Decoder.off s.pq.dec (4 * p.num + k)

/-- Replace a decoder. -/
def State.setDecoder (s : State) (p : Port) (k : Nat) (d : Decoder) : State :=
  s.updPq fun q => { q with dec := Store.put Decoder.off q.dec (4 * p.num + k) d }

/-- The class and the cache address that a port's host address maps to; none outside every committed window (R70, R515). -/
def State.window (s : State) (p : Port) (hpa : Nat) : Option (Nat × Nat) :=
  ([0, 1, 2, 3].find? fun k =>
    let d := s.decoder p k
    d.committed && decide (d.base ≤ hpa) && decide (hpa < d.base + d.size)).map fun k =>
      let c := s.get (PQ_BIND_CLASS p.num k)
      (c, s.img.base c + s.get (PQ_BIND_OFF p.num k) * mib256 + (hpa - (s.decoder p k).base))

/-- Tiles that hold queue shares under an image, ascending (R75). -/
def Image.queueTiles (i : Image) : List Nat := tilesOf i.queueMask

/-- The lines a tile's share holds under an image: floor(QCAP ÷ n), one more for the QCAP mod n lowest tiles (R75). -/
def Image.shareSize (i : Image) (t : Nat) : Nat :=
  let q := i.queueTiles
  if q.contains t then i.qcapLines / q.length + b2n (q.idxOf t < i.qcapLines % q.length) else 0

/-- The tile whose share takes a line: the holder of the bucket of its granule (R76, R352). -/
def State.tileOf (s : State) (line : Nat) : Option Nat :=
  match s.dsp.bucketTiles with
  | [] => none
  | l => some (l.getD (line / 64 % 4096 % l.length) 0)

/-- The size of a tile's share for admission: while an accepted swap changes the queue, the smaller of its present and its
new size, and none in a tile that leaves the QUEUE mask (R411). -/
def State.shareRoom (s : State) (t : Nat) : Nat :=
  let now := s.img.shareSize t
  match s.sti.shade with
  | some sh => if bitOf s.sti.guardSecs 0 then min now (sh.shareSize t) else now
  | none => now

/-- The line's share has a free entry (R79). -/
def State.queueFree (s : State) (line : Nat) : Bool :=
  match s.tileOf line with
  | some t => s.shareOcc t < s.shareRoom t
  | none => false

/-- The credit of a stream that is left unspent (R44), and its change. -/
def State.unspent (s : State) (n : Nat) : Nat := Store.get 0 s.ldg.unspent n
def State.setUnspent (s : State) (n v : Nat) : State :=
  s.updLdg fun l => { l with unspent := Store.put 0 l.unspent n v }

/-- A stream's credit becomes 0, carry included (R152, R206, R213). -/
def State.voidCredit (s : State) (n : Nat) : State := (s.set (LDG_CRED_CREDIT n) 0).setUnspent n 0

/-- The port's credit for the beat allows a write of a class (R82). -/
def State.creditAllows (s : State) (p : Port) (c : Nat) : Bool :=
  let spareA := if s.inSeam then 0 else s.get (PQ_RESV_A_LINES p.num) - s.pq.usedA.get p
  let spareB := if s.inSeam then 0 else s.get (PQ_RESV_B_LINES p.num) - s.pq.usedAB.get p
  let need := if c = 1 then spareA else if c = 2 then spareA + spareB else 0
  need + 1 ≤ s.unspent p.num

/-- The class is mirrored (PQ_CLASSn_CFG.MIRROR). -/
def State.mirrored (s : State) (c : Nat) : Bool := s.bit (PQ_CLASS_MIRROR c)

/-- Granules of the mirrored regions up to a class, and in all (R336). -/
def State.syncSize (s : State) (c : Nat) : Nat := if s.mirrored c then s.img.size c / 4096 else 0
def State.syncTotal (s : State) : Nat := s.syncSize 0 + s.syncSize 1 + s.syncSize 2

/-- The class and the granule at a place of the full sync: classes A, B, C, each by rising cache address (R336). -/
def State.syncAt (s : State) (n : Nat) : Nat × Nat :=
  if n < s.syncSize 0 then (0, s.img.base 0 / 4096 + n)
  else if n < s.syncSize 0 + s.syncSize 1 then (1, s.img.base 1 / 4096 + (n - s.syncSize 0))
  else (2, s.img.base 2 / 4096 + (n - s.syncSize 0 - s.syncSize 1))

/-- The granule that is being re-mirrored (R334). -/
def State.remirror (s : State) : Option Nat :=
  if s.mtx.sync = 1 then s.mtx.todo.head?
  else if s.mtx.sync = 3 ∧ s.mtx.cursor < s.syncTotal then some (s.syncAt s.mtx.cursor).2 else none

/-- The admission check of a write (R79). A zero-length transfer takes no credit and no entry (R81).
Writes to a granule whose re-mirror has started for the 4th time are held (R334). -/
def State.admits (s : State) (w : HeldWrite) : Bool :=
  s.portOpen w.port && !s.drn.stop &&
    (w.mask = 0 || (!(decide (4 ≤ s.mtx.starts) && s.remirror = some (w.line / 64)) && s.queueFree w.line && (w.cls = 3 || s.creditAllows w.port w.cls)))

/-- The mirror session is up. -/
def State.sessionUp (s : State) : Bool := s.get MTX_STATUS_SESSION = 2

/-- PQ_STATUS.AAM_LOCAL sets, with event 0x0202 and its interrupt (R90, R480). -/
def State.aamLocal (s : State) : State :=
  let s1 := (s.setB PQ_STATUS_AAM_LOCAL true).event 0x0202 0
  if s.bit PQ_STATUS_AAM_LOCAL then s1 else s1.raise 7

/-- The completion of an admitted write: at once, or after the partner's acknowledgement (R88 to R90). -/
def State.acknowledge (s : State) (w : HeldWrite) (seq : Option Nat) : State :=
  match seq with
  | none => s.emit (.wrCpl w.port w.tag)
  | some q =>
    if s.bit (PQ_CLASS_AAM w.cls) then
      if s.sessionUp then s.updPq fun x => { x with aam := x.aam ++ [⟨q, w.port, w.tag, false⟩] }
      else (s.emit (.wrCpl w.port w.tag)).aamLocal
    else s.emit (.wrCpl w.port w.tag)

/-- Charge an admitted write of class A, B or C to its port (R80, R82). -/
def State.charge (s : State) (p : Port) (c : Nat) : State :=
  if 3 ≤ c then s
  else
    let s1 := s.setUnspent p.num (s.unspent p.num - 1)
    if c = 0 ∧ s.pq.usedA.get p < s.get (PQ_RESV_A_LINES p.num) then
      s1.updPq fun q => { q with usedA := q.usedA.set p (q.usedA.get p + 1) }
    else if c ≤ 1 then s1.updPq fun q => { q with usedAB := q.usedAB.set p (q.usedAB.get p + 1) }
    else s1

/-- Count lines admitted in this beat's close against the stream, for the publication (R44, R45). -/
def State.countClose (s : State) (n c : Nat) : State :=
  if s.glb.published ∨ 3 ≤ c then s
  else s.updLdg fun l => { l with closeUsed := Store.put 0 l.closeUsed n (Store.get 0 l.closeUsed n + 1) }

/-- Queue the tasks that an entry needs: its flush and, for a mirrored class, its send (R78, R354). -/
def State.entryTasks (s : State) (e : QEntry) : State :=
  let p := fun (n : Nat) => if s.glb.st = .drain then 7 else n
  let s1 := s.putTask e.tile 1 (p 6) 0 1 e.id 0 true
  if e.seq.isSome then s1.putTask e.tile 2 (p 5) 0 1 e.id 0 true else s1

/-- Admit a write: one queue entry, its credit, its sequence, its acknowledgement (R77, R79 to R81, R88). -/
def State.admitWrite (s : State) (w : HeldWrite) : State :=
  if w.mask = 0 then s.emit (.wrCpl w.port w.tag)
  else
    let seq := if s.mirrored w.cls then some ((s.pq.lastSeq + 1) % 2 ^ 48) else none
    let e : QEntry := ⟨s.pq.nextId, (s.tileOf w.line).getD 0, w.line, w.data, w.mask, w.cls, s.glb.beat, seq, w.poison,
      false, false, seq.isNone, 0⟩
    let s1 := s.updPq fun q => { q with
      entries := q.entries ++ [e], nextId := q.nextId + 1, lastSeq := seq.getD q.lastSeq, lastMirror := seq.getD q.lastMirror }
    let s2 := match seq with
      | some q => s1.set64 MTX_NEXTSEQ_LO_VALUE MTX_NEXTSEQ_HI_VALUE ((q + 1) % 2 ^ 48)
      | none => s1
    (((s2.charge w.port w.cls).countClose w.port.num w.cls).acknowledge w seq).entryTasks e

/-- Admit held writes of one class from the head of its queue until one is not admitted (R83). -/
def State.admitHeld (p : Port) (c : Nat) : Nat → State → State
  | 0, s => s
  | fuel + 1, s =>
    match s.pq.held.find? fun h => h.port = p && h.cls = c with
    | none => s
    | some w =>
      if s.admits w then State.admitHeld p c fuel ((s.updPq fun q => { q with held := q.held.erase w }).admitWrite w) else s

/-- Admit held writes class by class in the order A, B, C, D (R83). -/
def State.admitAll (s : State) (p : Port) : State :=
  [0, 1, 2, 3].foldl (fun t c => t.admitHeld p c t.pq.held.length) s

/-- The local horizon of a port. -/
def State.lhz (s : State) (p : Port) : Nat := s.get64 (PQ_LHZ_LO_HZ p.num) (PQ_LHZ_HI_HZ p.num)
def State.setLhz (s : State) (p : Port) (v : Nat) : State := s.set64 (PQ_LHZ_LO_HZ p.num) (PQ_LHZ_HI_HZ p.num) v
/-- The mirrored horizon of a port. -/
def State.mhz (s : State) (p : Port) : Nat := s.get64 (PQ_MHZ_LO_HZ p.num) (PQ_MHZ_HI_HZ p.num)

/-- The mirrored horizon of a port takes a value (R101). -/
def State.liftMhz (s : State) (p : Port) (v : Nat) : State :=
  let s1 := s.set64 (PQ_MHZ_LO_HZ p.num) (PQ_MHZ_HI_HZ p.num) v
  if s.mhz p < v then s1.updPq fun q => { q with rose := q.rose.set p true } else s1

/-- The interrupt events of the mirrored horizons that rose since `s`, each once per beat (R480). -/
def State.mhzEvents (s t : State) : State :=
  t.raiseAll (([Port.pa, Port.pb].filter fun p => t.pq.rose.get p && !s.pq.rose.get p).map fun p => 3 + p.num)

/-- The mirrored horizon of a port rises (R101, R480). -/
def State.raiseMhz (s : State) (p : Port) (v : Nat) : State := s.mhzEvents (s.liftMhz p v)

/-- The highest sequence through which the partner has acknowledged all. -/
def State.acked (s : State) : Nat := s.get64 MTX_ACKED_LO_VALUE MTX_ACKED_HI_VALUE

/-- Pop the pending stamps of a port whose tail is acknowledged (R101). -/
def State.popStamps (p : Port) (q : Nat) : Nat → State → State
  | 0, s => s
  | fuel + 1, s =>
    match s.pq.pend.get p with
    | (st, tail) :: rest =>
      if tail ≤ q then
        State.popStamps p q fuel ((s.updPq fun x => { x with pend := x.pend.set p rest }).liftMhz p st)
      else s
    | [] => s

/-- Waiting completions that satisfy a test return (R89). -/
def State.aamDone (s : State) (p : AamWait → Bool) : State :=
  (s.pq.aam.filter p).foldl (fun t a => t.emit (.wrCpl a.port a.tag))
    (s.updPq fun x => { x with aam := x.aam.filter fun a => !p a })

/-- The acknowledged sequence rises to `q`: mirrored horizons advance unless frozen, and waiting completions of acknowledged
writes return (R89, R101, R103). -/
def State.ackRise (s : State) (q : Nat) : State :=
  let s1 := s.set64 MTX_ACKED_LO_VALUE MTX_ACKED_HI_VALUE q
  let s2 := if s.bit PQ_STATUS_HZ_FROZEN then s1
    else s1.mhzEvents (State.popStamps .pb q 64 (State.popStamps .pa q 64 s1))
  s2.aamDone fun a => decide (a.seq ≤ q)

/-- The controller acknowledges every waiting write of an AAM class at its queue entry (R90). -/
def State.aamRelease (s : State) : State :=
  if s.pq.aam.isEmpty then s
  else (s.pq.aam.foldl (fun t a => t.emit (.wrCpl a.port a.tag)) (s.updPq fun x => { x with aam := [] })).aamLocal

/-- Append a stamp, or replace the newest of 64 pending (R101). -/
def State.pendStamp (s : State) (p : Port) (v tail : Nat) : State :=
  let l := s.pq.pend.get p
  if l.length < 64 then s.updPq fun q => { q with pend := q.pend.set p (l ++ [(v, tail)]) }
  else ((s.updPq fun q => { q with pend := q.pend.set p (l.dropLast ++ [(v, tail)]) }).setB (PQ_PEND_MERGED p.num) true).event
    0x0205 (srcAgent p.num)

/-- A stamp commits (R97, R101): the horizons, without the transaction to the partner. -/
def State.commitStamp (s : State) (p : Port) (v : Nat) : State :=
  if v ≤ s.pq.lastStamp.get p then s.count (PQ_STALE_COUNT p.num) 1
  else
    let tail := s.pq.lastMirror
    let s1 := (s.updPq fun q => { q with lastStamp := q.lastStamp.set p v }).setLhz p v
    if tail ≤ s.acked ∧ (s.pq.pend.get p).isEmpty then s1.raiseMhz p v else s1.pendStamp p v tail

end Sys2Proof.Machine
end

