-- ==== Sys2Proof/Machine/Crypto.lean ====
section
/-! DEFINITION. The cryptographic functions the spec names by their standards: SHA-256 and SHA-384 (FIPS 180-4), HMAC
(FIPS 198-1), HKDF (RFC 5869), AES-256 (FIPS 197), GCM (SP 800-38D), AES key wrap (RFC 3394), ECDSA P-384 (FIPS 186-5). -/

namespace Sys2Proof.Machine

/-- Bytes in blocks of `n`, with fuel for the count of blocks. -/
def blocksOf (n : Nat) : Nat → List Byte → List (List Byte)
  | 0, _ => []
  | fuel + 1, l => if l.isEmpty then [] else l.take n :: blocksOf n fuel (l.drop n)

/-- The padded message of FIPS 180-4: a one bit, zeros, and the bit length in `lb` bytes, to a multiple of `n` bytes. -/
def shaPad (n lb : Nat) (m : List Byte) : List Byte :=
  m ++ [0x80] ++ List.replicate ((n - (m.length + 1 + lb) % n) % n) 0 ++ beBytes lb (8 * m.length)

/-- Big-endian words of `n` bytes. -/
def beWords (n fuel : Nat) (l : List Byte) : List Nat := (blocksOf n fuel l).map ofBe

/-- Round constants of SHA-256. -/
def sha256K : List (BitVec 32) := [0x428a2f98, 0x71374491, 0xb5c0fbcf, 0xe9b5dba5, 0x3956c25b, 0x59f111f1, 0x923f82a4, 0xab1c5ed5] ++
  [0xd807aa98, 0x12835b01, 0x243185be, 0x550c7dc3, 0x72be5d74, 0x80deb1fe, 0x9bdc06a7, 0xc19bf174] ++
  [0xe49b69c1, 0xefbe4786, 0x0fc19dc6, 0x240ca1cc, 0x2de92c6f, 0x4a7484aa, 0x5cb0a9dc, 0x76f988da] ++
  [0x983e5152, 0xa831c66d, 0xb00327c8, 0xbf597fc7, 0xc6e00bf3, 0xd5a79147, 0x06ca6351, 0x14292967] ++
  [0x27b70a85, 0x2e1b2138, 0x4d2c6dfc, 0x53380d13, 0x650a7354, 0x766a0abb, 0x81c2c92e, 0x92722c85] ++
  [0xa2bfe8a1, 0xa81a664b, 0xc24b8b70, 0xc76c51a3, 0xd192e819, 0xd6990624, 0xf40e3585, 0x106aa070] ++
  [0x19a4c116, 0x1e376c08, 0x2748774c, 0x34b0bcb5, 0x391c0cb3, 0x4ed8aa4a, 0x5b9cca4f, 0x682e6ff3] ++
  [0x748f82ee, 0x78a5636f, 0x84c87814, 0x8cc70208, 0x90befffa, 0xa4506ceb, 0xbef9a3f7, 0xc67178f2]

/-- Round constants of SHA-384. -/
def sha512K : List (BitVec 64) := [0x428a2f98d728ae22, 0x7137449123ef65cd, 0xb5c0fbcfec4d3b2f, 0xe9b5dba58189dbbc, 0x3956c25bf348b538] ++
  [0x59f111f1b605d019, 0x923f82a4af194f9b, 0xab1c5ed5da6d8118, 0xd807aa98a3030242, 0x12835b0145706fbe] ++
  [0x243185be4ee4b28c, 0x550c7dc3d5ffb4e2, 0x72be5d74f27b896f, 0x80deb1fe3b1696b1, 0x9bdc06a725c71235] ++
  [0xc19bf174cf692694, 0xe49b69c19ef14ad2, 0xefbe4786384f25e3, 0x0fc19dc68b8cd5b5, 0x240ca1cc77ac9c65] ++
  [0x2de92c6f592b0275, 0x4a7484aa6ea6e483, 0x5cb0a9dcbd41fbd4, 0x76f988da831153b5, 0x983e5152ee66dfab] ++
  [0xa831c66d2db43210, 0xb00327c898fb213f, 0xbf597fc7beef0ee4, 0xc6e00bf33da88fc2, 0xd5a79147930aa725] ++
  [0x06ca6351e003826f, 0x142929670a0e6e70, 0x27b70a8546d22ffc, 0x2e1b21385c26c926, 0x4d2c6dfc5ac42aed] ++
  [0x53380d139d95b3df, 0x650a73548baf63de, 0x766a0abb3c77b2a8, 0x81c2c92e47edaee6, 0x92722c851482353b] ++
  [0xa2bfe8a14cf10364, 0xa81a664bbc423001, 0xc24b8b70d0f89791, 0xc76c51a30654be30, 0xd192e819d6ef5218] ++
  [0xd69906245565a910, 0xf40e35855771202a, 0x106aa07032bbd1b8, 0x19a4c116b8d2d0c8, 0x1e376c085141ab53] ++
  [0x2748774cdf8eeb99, 0x34b0bcb5e19b48a8, 0x391c0cb3c5c95a63, 0x4ed8aa4ae3418acb, 0x5b9cca4f7763e373] ++
  [0x682e6ff3d6b2b8a3, 0x748f82ee5defb2fc, 0x78a5636f43172f60, 0x84c87814a1f0ab72, 0x8cc702081a6439ec] ++
  [0x90befffa23631e28, 0xa4506cebde82bde9, 0xbef9a3f7b2c67915, 0xc67178f2e372532b, 0xca273eceea26619c] ++
  [0xd186b8c721c0c207, 0xeada7dd6cde0eb1e, 0xf57d4f7fee6ed178, 0x06f067aa72176fba, 0x0a637dc5a2c898a6] ++
  [0x113f9804bef90dae, 0x1b710b35131c471b, 0x28db77f523047d84, 0x32caab7b40c72493, 0x3c9ebe0a15c9bebc] ++
  [0x431d67c49c100d4c, 0x4cc5d4becb3e42b6, 0x597f299cfc657e2a, 0x5fcb6fab3ad6faec, 0x6c44198c4a475817]

/-- Initial values. -/
def sha256H : List (BitVec 32) := [0x6a09e667, 0xbb67ae85, 0x3c6ef372, 0xa54ff53a, 0x510e527f, 0x9b05688c, 0x1f83d9ab, 0x5be0cd19]
def sha384H : List (BitVec 64) := [0xcbbb9d5dc1059ed8, 0x629a292a367cd507, 0x9159015a3070dd17, 0x152fecd8f70e5939, 0x67332667ffc00b31] ++
  [0x8eb44a8768581511, 0xdb0c2e0d64f98fa7, 0x47b5481dbefa4fa4]

/-- Extend a message schedule held latest first. -/
def sha256Sched : Nat → List (BitVec 32) → List (BitVec 32)
  | 0, w => w
  | n + 1, w =>
    let a := w.getD 14 0; let b := w.getD 1 0
    let s0 := a.rotateRight 7 ^^^ a.rotateRight 18 ^^^ (a >>> 3)
    let s1 := b.rotateRight 17 ^^^ b.rotateRight 19 ^^^ (b >>> 10)
    sha256Sched n ((w.getD 15 0 + s0 + w.getD 6 0 + s1) :: w)

def sha512Sched : Nat → List (BitVec 64) → List (BitVec 64)
  | 0, w => w
  | n + 1, w =>
    let a := w.getD 14 0; let b := w.getD 1 0
    let s0 := a.rotateRight 1 ^^^ a.rotateRight 8 ^^^ (a >>> 7)
    let s1 := b.rotateRight 19 ^^^ b.rotateRight 61 ^^^ (b >>> 6)
    sha512Sched n ((w.getD 15 0 + s0 + w.getD 6 0 + s1) :: w)

/-- One round over the eight working variables. -/
def sha256Round (v : List (BitVec 32)) (kw : BitVec 32) : List (BitVec 32) :=
  match v with
  | [a, b, c, d, e, f, g, h] =>
    let t1 := h + (e.rotateRight 6 ^^^ e.rotateRight 11 ^^^ e.rotateRight 25) + ((e &&& f) ^^^ (~~~e &&& g)) + kw
    let t2 := (a.rotateRight 2 ^^^ a.rotateRight 13 ^^^ a.rotateRight 22) + ((a &&& b) ^^^ (a &&& c) ^^^ (b &&& c))
    [t1 + t2, a, b, c, d + t1, e, f, g]
  | x => x

def sha512Round (v : List (BitVec 64)) (kw : BitVec 64) : List (BitVec 64) :=
  match v with
  | [a, b, c, d, e, f, g, h] =>
    let t1 := h + (e.rotateRight 14 ^^^ e.rotateRight 18 ^^^ e.rotateRight 41) + ((e &&& f) ^^^ (~~~e &&& g)) + kw
    let t2 := (a.rotateRight 28 ^^^ a.rotateRight 34 ^^^ a.rotateRight 39) + ((a &&& b) ^^^ (a &&& c) ^^^ (b &&& c))
    [t1 + t2, a, b, c, d + t1, e, f, g]
  | x => x

/-- Compress one block into a chaining value. -/
def sha256Block (h : List (BitVec 32)) (b : List Byte) : List (BitVec 32) :=
  let w := (sha256Sched 48 ((beWords 4 16 b).map (BitVec.ofNat 32)).reverse).reverse
  let v := ((w.zip sha256K).map fun x => x.1 + x.2).foldl sha256Round h
  (h.zip v).map fun x => x.1 + x.2

def sha512Block (h : List (BitVec 64)) (b : List Byte) : List (BitVec 64) :=
  let w := (sha512Sched 64 ((beWords 8 16 b).map (BitVec.ofNat 64)).reverse).reverse
  let v := ((w.zip sha512K).map fun x => x.1 + x.2).foldl sha512Round h
  (h.zip v).map fun x => x.1 + x.2

/-- SHA-256. -/
def sha256 (m : List Byte) : List Byte :=
  (((blocksOf 64 (m.length / 64 + 2) (shaPad 64 8 m)).foldl sha256Block sha256H).map fun x => beBytes 4 x.toNat).flatten

/-- SHA-384. -/
def sha384 (m : List Byte) : List Byte :=
  ((((blocksOf 128 (m.length / 128 + 2) (shaPad 128 16 m)).foldl sha512Block sha384H).take 6).map
    fun x => beBytes 8 x.toNat).flatten

/-- Exclusive or of byte lists. -/
def xorBytes (a b : List Byte) : List Byte := List.zipWith (· ^^^ ·) a b

/-- HMAC over a hash with a block of `n` bytes (FIPS 198-1). -/
def hmac (hash : List Byte → List Byte) (n : Nat) (key m : List Byte) : List Byte :=
  let k0 := if key.length ≤ n then key ++ List.replicate (n - key.length) 0
    else hash key ++ List.replicate (n - (hash key).length) 0
  hash (k0.map (· ^^^ 0x5C) ++ hash (k0.map (· ^^^ 0x36) ++ m))

def hmacSha256 (key m : List Byte) : List Byte := hmac sha256 64 key m
def hmacSha384 (key m : List Byte) : List Byte := hmac sha384 128 key m

/-- HKDF-Expand with SHA-256 (RFC 5869): `n` blocks after block `i`, whose value is `t`. -/
def hkdfExpand (prk info : List Byte) : Nat → Nat → List Byte → List Byte
  | 0, _, _ => []
  | n + 1, i, t =>
    let t' := hmacSha256 prk (t ++ info ++ [BitVec.ofNat 8 i])
    t' ++ hkdfExpand prk info n (i + 1) t'

/-- HKDF with SHA-256 to `len` bytes. -/
def hkdf (salt ikm info : List Byte) (len : Nat) : List Byte :=
  (hkdfExpand (hmacSha256 salt ikm) info ((len + 31) / 32) 1 []).take len

/-- Multiplication by x in the field of AES. -/
def aesX (a : Nat) : Nat := if a < 128 then 2 * a else (2 * a) ^^^ 0x11B

/-- Multiplication in the field of AES. -/
def aesMul : Nat → Nat → Nat → Nat
  | 0, _, _ => 0
  | n + 1, a, b => (if b % 2 = 1 then a else 0) ^^^ aesMul n (aesX a) (b / 2)

/-- The multiplicative inverse, as the 254th power. -/
def aesPow : Nat → Nat → Nat
  | 0, _ => 1
  | n + 1, a => aesMul 8 a (aesPow n a)

/-- The S-box (FIPS 197). -/
def aesSub (a : Nat) : Nat :=
  let i := if a = 0 then 0 else aesPow 254 a
  let rot := fun (n : Nat) => ((i <<< n) ||| (i >>> (8 - n))) % 256
  i ^^^ rot 1 ^^^ rot 2 ^^^ rot 3 ^^^ rot 4 ^^^ 0x63

/-- The S-box and its inverse as tables. -/
def aesSbox : List Nat := (List.range 256).map aesSub
def aesInvSbox : List Nat := (List.range 256).map fun y => ((List.range 256).find? fun x => aesSub x = y).getD 0

/-- Key expansion of a 256-bit key: words held latest first, `n` more to make, `i` the index of the next. -/
def aesExpand (sb : List Nat) : Nat → Nat → Nat → List (List Nat) → List (List Nat)
  | 0, _, _, w => w
  | n + 1, i, rc, w =>
    let t := w.headD []
    let t' := if i % 8 = 0 then
        match (t.drop 1 ++ t.take 1).map fun x => sb.getD x 0 with
        | x :: r => (x ^^^ rc) :: r
        | [] => []
      else if i % 8 = 4 then t.map fun x => sb.getD x 0 else t
    aesExpand sb n (i + 1) (if i % 8 = 0 then aesX rc else rc) (List.zipWith (· ^^^ ·) (w.getD 7 []) t' :: w)

/-- The 15 round keys of a 32-byte key, 16 bytes each. -/
def aesKeys (key : List Byte) : List (List Nat) :=
  let w0 := ((blocksOf 4 8 key).map fun b => b.map BitVec.toNat).reverse
  let w := (aesExpand aesSbox 52 8 1 w0).reverse
  (List.range 15).map fun r => ((w.drop (4 * r)).take 4).flatten

/-- ShiftRows over a state in column order. -/
def aesShift (s : List Nat) (inv : Bool) : List Nat :=
  (List.range 16).map fun i => s.getD ((i % 4) + 4 * ((i / 4 + (if inv then 4 - i % 4 else i % 4)) % 4)) 0

/-- MixColumns with the given coefficients of the first row. -/
def aesMix (s : List Nat) (m : List Nat) : List Nat :=
  (List.range 16).map fun i =>
    (List.range 4).foldl (fun acc k => acc ^^^ aesMul 8 (s.getD (4 * (i / 4) + k) 0) (m.getD ((k + 4 - i % 4) % 4) 0)) 0

def xorNats (a b : List Nat) : List Nat := List.zipWith (· ^^^ ·) a b

/-- AES-256 encryption of one block. -/
def aesEnc (keys : List (List Nat)) (b : List Byte) : List Byte :=
  let s0 := xorNats (b.map BitVec.toNat) (keys.getD 0 [])
  let sub := fun (s : List Nat) => aesShift (s.map fun x => aesSbox.getD x 0) false
  let s1 := (List.range 13).foldl (fun s r => xorNats (aesMix (sub s) [2, 3, 1, 1]) (keys.getD (r + 1) [])) s0
  (xorNats (sub s1) (keys.getD 14 [])).map (BitVec.ofNat 8)

/-- AES-256 decryption of one block. -/
def aesDec (keys : List (List Nat)) (b : List Byte) : List Byte :=
  let inv := fun (s : List Nat) => (aesShift s true).map fun x => aesInvSbox.getD x 0
  let s0 := inv (xorNats (b.map BitVec.toNat) (keys.getD 14 []))
  let s1 := (List.range 13).foldl (fun s r => inv (aesMix (xorNats s (keys.getD (13 - r) [])) [14, 11, 13, 9])) s0
  (xorNats s1 (keys.getD 0 [])).map (BitVec.ofNat 8)

/-- Multiplication in the field of GCM: bit 127 of the number is the first bit of the block. -/
def gcmMul : Nat → Nat → Nat → Nat → Nat
  | 0, _, _, z => z
  | n + 1, x, v, z =>
    gcmMul n x (if v % 2 = 1 then (v / 2) ^^^ (0xE1 * 2 ^ 120) else v / 2) (if bitOf x n then z ^^^ v else z)

/-- GHASH over 16-byte blocks. -/
def ghash (h : Nat) (blocks : List (List Byte)) : Nat :=
  blocks.foldl (fun y b => gcmMul 128 (y ^^^ ofBe (b ++ List.replicate (16 - b.length) 0)) h 0) 0

/-- The counter key stream of GCM over `n` blocks from counter `c`. -/
def gcmStream (keys : List (List Nat)) (iv : List Byte) (c n : Nat) : List Byte :=
  ((List.range n).map fun i => aesEnc keys (iv ++ beBytes 4 (c + i))).flatten

/-- The GCM tag of a ciphertext under a 96-bit IV. -/
def gcmTag (keys : List (List Nat)) (iv aad ct : List Byte) : List Byte :=
  let h := ofBe (aesEnc keys (List.replicate 16 0))
  let y := ghash h (blocksOf 16 (aad.length / 16 + 1) aad ++ blocksOf 16 (ct.length / 16 + 1) ct
    ++ [beBytes 8 (8 * aad.length) ++ beBytes 8 (8 * ct.length)])
  xorBytes (beBytes 16 y) (aesEnc keys (iv ++ beBytes 4 1))

/-- AES-256-GCM encryption or decryption of a text (the same stream both ways). -/
def gcmCrypt (key iv t : List Byte) : List Byte := xorBytes t (gcmStream (aesKeys key) iv 2 (t.length / 16 + 1))

/-- AES-256-GCM: ciphertext and tag. -/
def gcmSeal (key iv aad t : List Byte) : List Byte × List Byte :=
  let ct := gcmCrypt key iv t
  (ct, gcmTag (aesKeys key) iv aad ct)

/-- Open a ciphertext if its tag agrees. -/
def gcmOpen (key iv aad ct tag : List Byte) : Option (List Byte) :=
  if gcmTag (aesKeys key) iv aad ct = tag then some (gcmCrypt key iv ct) else none

/-- One pass over the words of a key wrap, counter from `t` (RFC 3394). -/
def kwPass (keys : List (List Nat)) : Nat → List Byte → List (List Byte) → List Byte × List (List Byte)
  | _, a, [] => (a, [])
  | t, a, r :: rs =>
    let b := aesEnc keys (a ++ r)
    let x := kwPass keys (t + 1) (xorBytes (b.take 8) (beBytes 8 t)) rs
    (x.1, b.drop 8 :: x.2)

/-- RFC 3394 key wrap. -/
def keyWrap (kek p : List Byte) : List Byte :=
  let keys := aesKeys kek
  let n := p.length / 8
  let x := (List.range 6).foldl (fun (x : List Byte × List (List Byte)) j => kwPass keys (n * j + 1) x.1 x.2)
    (List.replicate 8 0xA6, blocksOf 8 n p)
  x.1 ++ x.2.flatten

/-- One pass back over the words of a key unwrap, the words reversed, counter from `t` down. -/
def kwBack (keys : List (List Nat)) : Nat → List Byte → List (List Byte) → List Byte × List (List Byte)
  | _, a, [] => (a, [])
  | t, a, r :: rs =>
    let b := aesDec keys (xorBytes a (beBytes 8 t) ++ r)
    let x := kwBack keys (t - 1) (b.take 8) rs
    (x.1, b.drop 8 :: x.2)

/-- RFC 3394 key unwrap; none where the integrity check fails. -/
def keyUnwrap (kek c : List Byte) : Option (List Byte) :=
  let keys := aesKeys kek
  let n := c.length / 8 - 1
  let x := (List.range 6).foldl
    (fun (x : List Byte × List (List Byte)) j =>
      let y := kwBack keys (n * (6 - j)) x.1 x.2.reverse
      (y.1, y.2.reverse))
    (c.take 8, blocksOf 8 n (c.drop 8))
  if x.1 = List.replicate 8 0xA6 then some x.2.flatten else none

/-- The field and the curve of P-384. -/
def p384P : Nat := 2 ^ 384 - 2 ^ 128 - 2 ^ 96 + 2 ^ 32 - 1
def p384N : Nat := 0xFFFFFFFFFFFFFFFFFFFFFFFFFFFFFFFFFFFFFFFFFFFFFFFFC7634D81F4372DDF581A0DB248B0A77AECEC196ACCC52973
def p384B : Nat := 0xB3312FA7E23EE7E4988E056BE3F82D19181D9C6EFE8141120314088F5013875AC656398D8A2ED19D2A85C8EDD3EC2AEF
def p384Gx : Nat := 0xAA87CA22BE8B05378EB1C71EF320AD746E1D3B628BA79B9859F741E082542A385502F25DBF55296C3A545E3872760AB7
def p384Gy : Nat := 0x3617DE4A96262C6F5D9E98BF9292DC29F8F41DBD289A147CE9DA3113B5F0B8C00A60B1CE1D7E819D7A431D7C90EA0E5F

/-- Modular power, `n` bits of exponent. -/
def powMod (m : Nat) : Nat → Nat → Nat → Nat
  | 0, _, _ => 1
  | n + 1, a, e => let h := powMod m n (a * a % m) (e / 2); if e % 2 = 1 then a * h % m else h

/-- Inverse modulo a prime below 2^384. -/
def invMod (m a : Nat) : Nat := powMod m 384 (a % m) (m - 2)

/-- A point of the curve; none is the point at infinity. -/
abbrev EcPoint := Option (Nat × Nat)

/-- Point addition on P-384. -/
def ecAdd (a b : EcPoint) : EcPoint :=
  match a, b with
  | none, q => q
  | q, none => q
  | some (x1, y1), some (x2, y2) =>
    if x1 = x2 ∧ (y1 + y2) % p384P = 0 then none
    else
      let l := if x1 = x2 ∧ y1 = y2 then (3 * x1 * x1 + (p384P - 3)) * invMod p384P (2 * y1) % p384P
        else (y2 + p384P - y1) * invMod p384P (x2 + p384P - x1) % p384P
      let x3 := (l * l + 2 * p384P - x1 - x2) % p384P
      some (x3, (l * (x1 + p384P - x3) + p384P - y1) % p384P)

/-- Scalar multiplication, `n` bits of scalar. -/
def ecMul : Nat → Nat → EcPoint → EcPoint
  | 0, _, _ => none
  | n + 1, k, q => let h := ecMul n (k / 2) (ecAdd q q); if k % 2 = 1 then ecAdd q h else h

/-- ECDSA P-384 verification of a SHA-384 digest: public key x then y, signature r then s, 48 bytes each. -/
def ecdsaVerify (pub digest sig : List Byte) : Bool :=
  let qx := ofBe (pub.take 48); let qy := ofBe ((pub.drop 48).take 48)
  let r := ofBe (sig.take 48); let t := ofBe ((sig.drop 48).take 48)
  let z := ofBe digest
  let w := invMod p384N t
  let onCurve := qx < p384P && qy < p384P && (qy * qy) % p384P = (qx * qx * qx + (p384P - 3) * qx + p384B) % p384P
  onCurve && 0 < r && r < p384N && 0 < t && t < p384N &&
    (match ecAdd (ecMul 384 (z * w % p384N) (some (p384Gx, p384Gy))) (ecMul 384 (r * w % p384N) (some (qx, qy))) with
     | some (x, _) => x % p384N = r
     | none => false)

end Sys2Proof.Machine
end

