-- ==== Sys2Proof/Machine/ImageRead.lean ====
section
/-! DEFINITION. Reading a structure image from its slot: header, directory and sections (R402 to R404, steps 1 to 5 of R406). -/

namespace Sys2Proof.Machine

/-- Where an image failed: the code, the section and the offset of STI_REASON; code 0 passes. -/
structure Verdict where
  code : Nat
  sec : Nat
  off : Nat
deriving DecidableEq, Repr

/-- The verdict that passes. -/
def Verdict.pass : Verdict := ⟨0, 0, 0⟩

/-- The lengths of sections 1 to 11 (R404). -/
def sectionLengths : List Nat := [48, 96, 96, 184, 2048, 88, 384, 512, 104, 16, 136]

/-- One directory entry (R403). -/
structure DirEntry where
  id : Nat
  off : Nat
  len : Nat
  crc : Nat
  fine : Bool                 -- version 1, zero bytes zero, offset a multiple of 8
deriving DecidableEq, Repr

/-- The directory entries of a header. -/
def dirOf (b : List Byte) : List DirEntry :=
  (List.range 11).map fun i =>
    let e := (b.drop (64 + 16 * i)).take 16
    ⟨leAt e 0 1, leAt e 4 4, leAt e 8 4, leAt e 12 4, leAt e 1 1 = 1 && leAt e 2 2 = 0 && leAt e 4 4 % 8 = 0⟩

/-- The directory stands under R403: every ID once, sections between directory and trailer, none overlapping. -/
def dirFine (d : List DirEntry) (length : Nat) : Bool :=
  d.all (fun e => e.fine && decide (240 ≤ e.off) && decide (e.off + e.len + 32 ≤ length))
    && (List.range 11).all (fun i => (d.filter fun e => e.id = i + 1).length = 1)
    && d.all fun e => d.all fun f => e.id = f.id || decide (e.off + e.len ≤ f.off) || decide (f.off + f.len ≤ e.off)

/-- Steps 1 to 5 of validation over the bytes of a slot (R406): the verdict, and the image where they pass. -/
def parseImage (b : List Byte) : Verdict × Option Image :=
  let length := leAt b 8 4
  if leAt b 0 4 ≠ 0x4D495453 then (⟨1, 0, 0⟩, none)
  else if leAt b 4 2 ≠ 1 then (⟨2, 0, 0⟩, none)
  else if ¬(length % 8 = 0 ∧ 272 ≤ length ∧ length ≤ 1048576 ∧ leAt b 12 4 = 64 ∧ leAt b 6 2 = 11 ∧ 1 ≤ leAt b 16 8) then
    (⟨3, 0, 0⟩, none)
  else if leAt b 24 2 ≠ 0xB0 then (⟨4, 0, 0⟩, none)
  else
    let d := dirOf b
    if !dirFine d length then (⟨5, 0, 0⟩, none)
    else
      let bad := d.find? fun e =>
        e.len ≠ sectionLengths.getD (e.id - 1) 0 || crc32c ((b.drop e.off).take e.len) ≠ e.crc
      match bad with
      | some e => (⟨6, e.id, 0⟩, none)
      | none => (Verdict.pass, some ⟨leAt b 16 8, leAt b 26 1, (List.range 11).map fun i =>
          match d.find? fun e => e.id = i + 1 with
          | some e => (b.drop e.off).take e.len
          | none => []⟩)

/-- The bytes of the image in a slot: as many as its LENGTH says, and at least the smallest image's (R402, R403). -/
def State.slotBytes (s : State) (n : Nat) : List Byte :=
  let l := leAt (s.cflRead (imageSlotOff n) 16) 8 4
  s.cflRead (imageSlotOff n) (if 272 ≤ l ∧ l ≤ 1048576 then l else 272)

end Sys2Proof.Machine
end

