-- ==== Sys2Proof/Machine/DigestOps.lean ====
section
/-! DEFINITION. The digest engine and the key slots as the blocks use them (R434 to R449). -/

namespace Sys2Proof.Machine

/-- The key slot of a number. -/
def State.slot (s : State) (n : Nat) : KeySlot := Store.get ⟨none, 0, false, 0, 0⟩ s.dge.slots n

/-- Replace a key slot. -/
def State.setSlot (s : State) (n : Nat) (k : KeySlot) : State :=
  s.updDge fun d => { d with slots := Store.put ⟨none, 0, false, 0, 0⟩ d.slots n k }

/-- The key of a slot; 0xFF names none. -/
def State.keyOf (s : State) (n : Nat) : Option (List Byte) := if n < 32 then (s.slot n).key else none

/-- The digest of a message under an algorithm and a key (R434). -/
def digestOf (alg : Nat) (key m : List Byte) : List Byte :=
  match alg % 4 with
  | 0 => sha256 m
  | 1 => sha384 m
  | 2 => hmacSha256 key m
  | _ => hmacSha384 key m

/-- Set an agent's digest state and status. -/
def State.dgeSt (s : State) (g : Agent) (st : Nat) : State := s.set (DGE_AGENT_STATE g) st
def State.dgeStatus (s : State) (g : Agent) (code : Nat) : State := s.set (DGE_AGENT_STATUS g) code

/-- The end of a requester's computation with a status: the agent goes idle (R436). -/
def State.dgeEnd (s : State) (w : DgeWho) (code : Nat) : State :=
  match w with
  | .host g => (s.dgeSt g 0).dgeStatus g code
  | _ => s

/-- A saved context of a requester is gone (R442, R444): the agent reads the status; where it waits or owns again, it goes on. -/
def State.dgeLost (s : State) (w : DgeWho) (code : Nat) : State :=
  match w with
  | .host g => (if s.get (DGE_AGENT_STATE g) = 3 then s.dgeSt g 0 else s).dgeStatus g code
  | _ => s

/-- A request is not served now (R439, R442): its agent reads OWNED and waits. -/
def State.dgeOwned (s : State) (w : DgeWho) : State :=
  match w with
  | .host g => s.dgeStatus g 2
  | _ => s

/-- Write the results of a computation that an agent drove (R437). -/
def State.dgeResult (s : State) (g : Agent) (alg : Nat) (d : List Byte) : State :=
  let s1 := (List.range 12).foldl (fun t n => t.set (DGE_RES_DIGEST n) (leAt d (4 * n) 4)) s
  let s2 := ((s1.set DGE_RES_TAG_SEQ (s.get DGE_RES_TAG_SEQ + 1)).set DGE_RES_TAG_ALG alg).set DGE_RES_TAG_AGENT
    (ownerNum g)
  let s3 := (s2.dgeSt g 4).dgeStatus g 1
  if g = .stw ∧ alg = 0 then s3.updDge fun x => { x with stwSha := d } else s3
where
  /-- The agent code of DGE_RES_TAG.AGENT. -/
  ownerNum : Agent → Nat
    | .hostA => 1
    | .hostB => 2
    | .stw => 3

/-- A free context slot. -/
def Dge.freeCtx (d : Dge) : Option Nat := [0, 1, 2, 3].find? fun n => (Store.get none d.ctx n).isNone

/-- The bytes of a computation as a key wrap takes them: their count and themselves, in whole words of 8 bytes (R441). -/
def savedBytes (fed : List Byte) : List Byte :=
  leBytes 8 fed.length ++ fed ++ List.replicate (8 + (8 - fed.length % 8) % 8) 0

/-- Save a computation in a context slot: the agent reads STATE 3 and the slot (R440). The bytes of a keyed computation are saved
under the internal key only (R441). -/
def State.dgeSave (s : State) (n : Nat) (c : DgeComp) : State :=
  let x : DgeCtx := if 2 ≤ c.alg then ⟨{ c with fed := [] }, s.glb.beat, s.glb.cycle, keyWrap s.dge.wrapKey (savedBytes c.fed)⟩
    else ⟨c, s.glb.beat, s.glb.cycle, []⟩
  let s1 := s.updDge fun d => { d with ctx := Store.put none d.ctx n (some x), owner := none, compressing := false }
  match c.who with
  | .host g => (s1.dgeSt g 3).set (DGE_AGENT_CTX g) n
  | _ => s1

/-- The bytes that a saved context held; none where the unwrap of a keyed one fails its integrity check (R443). -/
def State.dgeRestored (s : State) (x : DgeCtx) : Option (List Byte) :=
  if 2 ≤ x.comp.alg then (keyUnwrap s.dge.wrapKey x.wrapped).map fun b => (b.drop 8).take (leAt b 0 8) else some x.comp.fed

/-- The saved context of lowest priority, and among equals the oldest (R442). -/
def Dge.victim (d : Dge) : Option Nat :=
  let full := [0, 1, 2, 3].filterMap fun n => (Store.get none d.ctx n).map fun c => (n, c.comp.who.prio, 400 * c.beat + c.cycle)
  match full with
  | [] => none
  | x :: xs => some (xs.foldl (fun b y => if y.2.1 < b.2.1 ∨ (y.2.1 = b.2.1 ∧ y.2.2 < b.2.2) then y else b) x).1

/-- Free a context slot; a request that waits to resume it ends with it. -/
def State.dgeFree (s : State) (n : Nat) : State :=
  s.updDge fun d => { d with ctx := Store.put none d.ctx n none, wait := d.wait.filter fun r => r.resume ≠ some n }

/-- A context slot falls free with a status for its agent (R442, R444); a resume of that slot that waits ends with it. -/
def State.dgeLose (s : State) (n : Nat) (w : DgeWho) (code : Nat) : State :=
  if s.dge.wait.any fun r => r.resume = some n then (s.dgeFree n).dgeEnd w code else (s.dgeFree n).dgeLost w code

/-- A saved context expires (R444). -/
def State.dgeExpire (s : State) (n : Nat) : State :=
  match Store.get none s.dge.ctx n with
  | some c => s.dgeLose n c.comp.who 12
  | none => s

/-- The agent owns the engine. -/
def State.dgeOwns (s : State) (g : Agent) : Bool :=
  match s.dge.owner with
  | some c => c.who = .host g
  | none => false

/-- The crown writer displaces a saved context: EVICTED, event 0x0E01, interrupt (R442). -/
def State.dgeEvict (s : State) : State :=
  match s.dge.victim with
  | none => s
  | some n => match Store.get none s.dge.ctx n with
    | none => s
    | some c => ((s.dgeLose n c.comp.who 4).event 0x0E01 0).raise 28

/-- Give the free engine to a computation (R439). An agent's message of 0 bytes completes at once (R434); an internal requester's
message is at hand, and its compression runs until the block is done (DIGEST_BLOCK_DONE). -/
def State.dgeOwn (s : State) (c : DgeComp) : State :=
  match c.who with
  | .host g =>
    let s1 := (s.updDge fun d => { d with owner := some c, lastWrite := s.glb.beat, compressing := false }).dgeSt g 2
    if c.len = 0 then
      (s1.updDge fun d => { d with owner := none }).dgeResult g c.alg (digestOf c.alg ((s.keyOf c.slot).getD []) [])
    else s1
  | _ => s.updDge fun d => { d with owner := some c, lastWrite := s.glb.beat, compressing := true }

/-- The waiting request of highest priority, and among equals the earliest (R439). -/
def bestReq : List DgeReq → Option DgeReq
  | [] => none
  | r :: rs => match bestReq rs with
    | none => some r
    | some q => some (if r.who.prio < q.who.prio then q else r)

/-- Grant one request: a new computation, or a saved one whose import begins and whose slot stays taken until the import is done
(R443). In the beat in which the context expires the expiry wins (R444). -/
def State.dgeGrant (s : State) (r : DgeReq) : State :=
  match r.resume, r.comp with
  | some n, _ => match Store.get none s.dge.ctx n with
    | none => s.dgeEnd r.who 10
    | some c =>
      if c.comp.who ≠ r.who then s.dgeEnd r.who 10
      else if s.expired c.beat 1000000 then (s.dgeFree n).dgeEnd r.who 12
      else
        let s1 := s.updDge fun d => { d with
          owner := some c.comp, lastWrite := s.glb.beat, compressing := false, transfer := 2, importing := some n }
        match r.who with
        | .host g => s1.dgeSt g 2
        | _ => s1
  | none, some c => s.dgeOwn c
  | none, none => s

/-- The engine falls free: it goes to the waiting requests in turn until one owns it (R439). -/
def State.dgeNext : Nat → State → State
  | 0, s => s
  | fuel + 1, s =>
    if s.dge.owner.isSome ∨ s.dge.transfer ≠ 0 then s
    else match bestReq s.dge.wait with
      | none => s
      | some r => State.dgeNext fuel ((s.updDge fun d => { d with wait := d.wait.erase r }).dgeGrant r)

/-- Hand the engine on after an owner has ended. -/
def State.dgeRelease (s : State) : State :=
  let s1 := s.updDge fun d => { d with owner := none, compressing := false }
  s1.dgeNext (s1.dge.wait.length + 1)

/-- Pre-empt the owner at a block boundary: save its state and begin the export (R440). -/
def State.dgePreempt (s : State) (n : Nat) : State :=
  match s.dge.owner with
  | none => s
  | some c => (s.dgeSave n c).updDge fun d => { d with transfer := 1 }

/-- A block boundary, or a request while no block compresses: the waiting request of highest priority pre-empts an owner of lower
priority where a context slot is free, or where the crown writer frees one; otherwise its agent reads OWNED (R439, R440, R442). -/
def State.dgeYield (s : State) : State :=
  match s.dge.owner, bestReq s.dge.wait with
  | some c, some r =>
    if r.who.prio ≤ c.who.prio then s.dgeOwned r.who
    else if s.dge.compressing ∨ s.dge.transfer ≠ 0 then s
    else
      let s1 := if s.dge.freeCtx.isNone ∧ r.who = .crown then s.dgeEvict else s
      match s1.dge.freeCtx with
      | some n => s1.dgePreempt n
      | none => s1.dgeOwned r.who
  | _, _ => s

/-- A request of an agent for the engine (R439, R440, R442). -/
def State.dgeAsk (s : State) (g : Agent) (r : DgeReq) : State :=
  match s.dge.owner with
  | none =>
    if s.dge.transfer = 0 then s.dgeGrant r
    else (s.updDge fun d => { d with wait := d.wait ++ [r] }).dgeSt g 1
  | some c =>
    let s1 := (s.updDge fun d => { d with wait := d.wait ++ [r] }).dgeSt g 1
    if c.who.prio < r.who.prio ∧ s.dge.freeCtx.isSome then s1.dgeYield else s1.dgeStatus g 2

/-- An internal requester owns the engine. -/
def State.dgeHolds (s : State) (w : DgeWho) : Bool :=
  match s.dge.owner with
  | some c => c.who = w
  | none => false

/-- The internal equivalent of a start (R439, R440, R442): the requester owns the free engine at once, and otherwise waits its turn.
A requester that owns the engine or waits for it asks once. -/
def State.dgeRequest (s : State) (w : DgeWho) : State :=
  let c : DgeComp := ⟨w, 0, 0, 0, [], 0⟩
  if s.dgeHolds w || s.dge.wait.any (fun r => r.who = w) then s
  else if s.dge.owner.isNone ∧ s.dge.transfer = 0 then s.dgeOwn c
  else (s.updDge fun d => { d with wait := d.wait ++ [⟨w, none, some c⟩] }).dgeYield

/-- An internal requester asks for the engine; whether it owns it now. -/
def State.dgeTake (s : State) (w : DgeWho) : Bool × State := ((s.dgeRequest w).dgeHolds w, s.dgeRequest w)

/-- A computation, a request or a saved context is one of these agents'. -/
def DgeWho.among (l : List Agent) : DgeWho → Bool
  | .host g => l.contains g
  | _ => false

/-- The agent has something in the engine: its ownership, a request that waits or a saved context. -/
def Dge.has (d : Dge) (g : Agent) : Bool :=
  (match d.owner with | some c => c.who = .host g | none => false)
    || d.wait.any (fun r => r.who = .host g)
    || [0, 1, 2, 3].any (fun n => match Store.get none d.ctx n with | some c => c.comp.who = .host g | none => false)

/-- End everything these agents have in the engine with a status, and hand the engine on only then (R444). -/
def State.dgeDropAll (s : State) (l : List Agent) (code : Nat) : State :=
  let s1 := s.updDge fun d => { d with
    wait := d.wait.filter fun r => !r.who.among l,
    ctx := [0, 1, 2, 3].foldl (fun (m : Store (Option DgeCtx)) n =>
      match Store.get none m n with | some c => if c.comp.who.among l then Store.put none m n none else m | none => m) d.ctx }
  let s2 := (l.filter fun g => s.dge.has g).foldl (fun t g => t.dgeEnd (.host g) code) s1
  match s2.dge.owner with
  | some c => if c.who.among l then s2.dgeRelease else s2
  | none => s2

/-- End everything an agent has in the engine with a status (R436, R444, R451, R485). -/
def State.dgeDrop (s : State) (g : Agent) (code : Nat) : State := s.dgeDropAll [g] code

/-- The policy image of the key checks: the active image, or of an unconfigured controller the image in slot 0 where it has
passed steps 1 to 5 (R510). -/
def State.policyImage (s : State) : Image :=
  match s.roles with
  | some _ => s.img
  | none => s.sti.active.getD ((parseImage (s.slotBytes 0)).2.getD Image.empty)

/-- Byte list of the key registers DGE_KEYIO0 to DGE_KEYIO13. -/
def State.keyIo (s : State) : List Byte := ((List.range 14).map fun n => leBytes 4 (s.get (DGE_KEYIO_BYTES n))).flatten

/-- Write the key registers. -/
def State.setKeyIo (s : State) (l : List Byte) : State :=
  (List.range 14).foldl (fun t n => t.set (DGE_KEYIO_BYTES n) (leAt l (4 * n) 4)) s

/-- One entry of the key backing cell (R449): the wrap stands in bytes 55:16. -/
def keyEntry (n : Nat) (k : KeySlot) : List Byte :=
  match k.key with
  | none => List.replicate 64 0
  | some key => leBytes 1 n ++ leBytes 1 k.use ++ leBytes 1 k.policy ++ List.replicate 5 0 ++ leBytes 8 k.gen
      ++ keyWrap (leBytes 32 Config.deviceKey.toNat) key ++ List.replicate 8 0

/-- The whole key table as the cell's payload, with one slot replaced (R449). -/
def State.keyTable (s : State) (n : Nat) (k : KeySlot) : List Byte :=
  ((List.range 32).map fun i => keyEntry i (if i = n then k else s.slot i)).flatten

/-- Set the status of the latest key operation; the key registers read 0 after every operation but an export. -/
def State.keyDone (s : State) (code : Nat) : State :=
  ((s.set DGE_KEYST_CODE code).setB DGE_KEYST_BUSY false).setKeyIo []

/-- A key operation that waits for the backing cell (R446, R448, R449). -/
def State.keyCell (s : State) (op : KeyOp) : State :=
  ((s.updDge fun d => { d with keyOp := some op }).setB DGE_KEYST_BUSY true).flashWrite
    (.cell 6 (s.keyTable op.slot op.newSlot))

/-- What a key operation leaves in its slot: the slot's use and policy as they stand when the cell write commits (R445, R449). Before
an image is active an import's are those of the policy image. -/
def State.keyLeaves (s : State) (op : KeyOp) : KeySlot :=
  if s.sti.active.isSome then { op.newSlot with use := (s.slot op.slot).use, policy := (s.slot op.slot).policy } else op.newSlot

/-- The backing cell write of a key operation ends (R446 check 6, R449). -/
def State.keyCellDone (s : State) (good : Bool) : State :=
  match s.dge.keyOp with
  | none => s
  | some op =>
    let s1 := s.updDge fun d => { d with keyOp := none }
    if good then
      let s2 := (s1.setSlot op.slot (s.keyLeaves op)).keyDone 1
      if op.isImport then s2.event 0x0E02 (srcKey op.slot) else s2
    else
      let s2 := s1.keyDone 7
      if op.isImport then s2.event 0x0E03 (srcKey op.slot) else s2

/-- Refuse a key operation with a code; an import's refusal records event 0x0E03 (R446). -/
def State.keyRefuse (s : State) (isImport : Bool) (slot code : Nat) : State :=
  let s1 := s.keyDone code
  if isImport then s1.event 0x0E03 (srcKey slot) else s1

end Sys2Proof.Machine
end

