-- ==== Sys2Proof/Machine/RecorderOps.lean ====
section
/-! DEFINITION. The recorder's flash log and its clear (R423, R467 to R469). -/

namespace Sys2Proof.Machine

/-- Records to append to the flash log, oldest first: those not yet copied and those whose repeat count has grown (R423). -/
def Evr.toCopy (e : Evr) : List Rec :=
  (e.ring.filter fun r => !(e.copied.any fun c => c.1 = r.seq && c.2 = r.rep)).reverse

/-- Append to the flash log (R423, R469). -/
def State.recorderCopy (s : State) : State :=
  let l := s.evr.toCopy
  let s1 := s.updEvr fun e => { e with
    copied := e.ring.map fun r => (r.seq, r.rep), copyBusy := !l.isEmpty }
  if l.isEmpty then s1 else s1.flashWrite (.log (l.map Rec.bytes))

/-- The internal writes that wait or run, the running one first. -/
def Cfl.writes (c : Cfl) : List IWrite :=
  (match c.op with
    | some (.internal w) => [w]
    | some (.internalErase w _ _) => [w]
    | some (.refused w) => [w]
    | _ => []) ++ c.queue

/-- Drop the internal writes that a test takes, the running one where it stands. -/
def Cfl.dropWrites (c : Cfl) (p : IWrite → Bool) : Cfl :=
  { c with
    queue := c.queue.filter fun w => !p w
    op := match c.op with
      | some (.internal w) => if p w then none else c.op
      | some (.internalErase w _ _) => if p w then none else c.op
      | some (.refused w) => if p w then none else c.op
      | o => o }

/-- Records whose append has not been made count as not copied (R423). -/
def Evr.unmark (e : Evr) (slots : List (List Byte)) : Evr :=
  { e with copied := e.copied.filter fun c => !(slots.any fun b => leAt b 0 4 = c.1) }

/-- A write appends to the recorder log. -/
def IWrite.isLog : IWrite → Bool
  | .log _ => true
  | _ => false

/-- The slots that an append holds. -/
def IWrite.slots : IWrite → List (List Byte)
  | .log l => l
  | _ => []

/-- The input collapses during an append: the controller abandons it, and what has not been appended waits for the next append (R423,
R469). -/
def State.copyAbandon (s : State) : State :=
  if s.evr.copyBusy then
    let left := s.cfl.writes.flatMap IWrite.slots
    let s1 := ((s.updCfl fun c => c.dropWrites IWrite.isLog).setB EVR_STATUS_COPYABN true).updEvr fun e =>
      { e.unmark left with copyBusy := false, copyCut := true }
    s1.flashNext
  else s

/-- After power returns, the abandoned copy is recorded (R469). -/
def State.copyReport (s : State) : State :=
  if s.evr.copyCut then (s.updEvr fun e => { e with copyCut := false }).event 0x0F04 0 else s

/-- The response a clear expects (R467). -/
def clearResponse (key : List Byte) (c : Challenge) : List Byte :=
  hmacSha256 key (ascii "TV4100 CLEAR" ++ c.bytes ++ beBytes 8 Config.dieId.toNat ++ beBytes 4 c.head)

/-- The response an agent has written to its EVR_RESP registers. -/
def State.response (s : State) (g : Agent) : List Byte :=
  ((List.range 8).map fun n => leBytes 4 (s.get (EVR_RESP_BYTES n g))).flatten

/-- Refuse a clear (R468). -/
def State.clearRefuse (s : State) : State :=
  (((s.setB EVR_STATUS_CLRREF true).updEvr fun e => { e with clrState := 4 })).event 0x0F02 0

/-- Clear the ring (R468). -/
def State.clearRing (s : State) (g : Agent) (c : Challenge) : State :=
  let top := match s.evr.ring with | r :: _ => r.seq | [] => 0
  let s1 := ((s.set EVR_CLRSEQ_SEQ top).setB EVR_STATUS_CLEARED true).updEvr fun e => { e with
    ring := [], copied := [], clrState := 3, chal := none }
  let words := [top, g.num, (s.glb.base + c.beat) % 2 ^ 32, (s.glb.base + c.beat) / 2 ^ 32] ++ (List.range 4).map fun i => leAt c.bytes (4 * i) 4
  (s1.eventWith 0x0F01 (srcAgent g.num) 8 words true).recorderCopy

/-- The recorder takes its base (R66, R67, R465): stamps and sequences of provisional records move, the REBASED flag sets. It
changes the slots that the records leave and those they come to (R466). -/
def State.rebase (s : State) (base seqBase : Nat) : State :=
  if !s.glb.provisional then s
  else
    let mv := fun (r : Rec) => { r with
      beat := r.beat + base, lastBeat := r.lastBeat + base, seq := (r.seq + seqBase) % 2 ^ 32, rebased := true }
    let s1 := s.updEvr fun e => { e with ring := e.ring.map mv, next := (e.next + seqBase) % 2 ^ 32 }
    let now := s1.evr.ring.map fun r => r.seq % 8192
    let was := (s.evr.ring.map fun r => r.seq % 8192).filter fun n => !now.contains n
    let s2 := s1.updEvr fun e => (was ++ now).foldl Evr.touch e
    s2.updGlb fun g => { g with base := base, provisional := false }

/-- The slots of the flash log that are not erased, rising: each slot number once. -/
def logSlotsOf : Nat → Store Byte → List Nat
  | _, [] => []
  | b, (k, _) :: r =>
    if k < 0x300000 + 64 * b then logSlotsOf b r
    else if 0x400000 ≤ k then []
    else (k - 0x300000) / 64 :: logSlotsOf ((k - 0x300000) / 64 + 1) r

/-- Parse the slots of the flash log whose CRC agrees: slot, sequence and stamp of each (R423). An erased slot's does not. -/
def State.logParsed (s : State) : List (Nat × Nat × Nat) :=
  (logSlotsOf 0 s.cfl.bytes).filterMap fun i =>
    let b := s.cflRead (0x300000 + 64 * i) 64
    if leAt b 60 4 = crc32c (b.take 60) then some (i, leAt b 0 4, leAt b 4 8) else none

/-- The sequence and the stamp of each record of the flash log. -/
def State.logRecords (s : State) : List (Nat × Nat) := s.logParsed.map Prod.snd

/-- The largest of a list of numbers, and whether there is one. -/
def maxOf : List Nat → Option Nat
  | [] => none
  | x :: xs => match maxOf xs with | none => some x | some y => some (max x y)

end Sys2Proof.Machine
end

