-- ==== Sys2Proof/Machine/StiOps.lean ====
section
/-! DEFINITION. Structure images: reading a slot, validation in its steps, the swap conditions (R400 to R414). -/

namespace Sys2Proof.Machine

/-- Steps 6 and 7: the owner key and the trailer MAC (R406, R402). -/
def State.ownerCheck (s : State) (b : List Byte) (im : Image) : Verdict :=
  let policy := (s.sti.active.getD im).slotUse im.ownSlot
  let length := leAt b 8 4
  match s.keyOf im.ownSlot with
  | none => ⟨7, 0, 0⟩
  | some k =>
    if policy ≠ 3 then ⟨7, 0, 0⟩
    else if hmacSha256 k (b.take (length - 32)) ≠ (b.drop (length - 32)).take 32 then ⟨8, 0, 0⟩
    else Verdict.pass

/-- Step 11: the population is accepted and trained, and holds the class regions, reckoned with the image's own SPARES (R107 to
R109). -/
def State.memoryFits (s : State) (im : Image) : Bool :=
  s.bit CCH_STATUS_POP_OK && [0, 1, 2, 3, 4].all fun c => im.size c = 0 || decide (im.base c + im.size c ≤ s.capacityWith im.spares)

/-- Validate the image of a slot (R406); `step8` asks for a generation greater than the active image's. -/
def State.validate (s : State) (n : Nat) (step8 : Bool) : Verdict × Option Image :=
  let b := s.slotBytes n
  match parseImage b with
  | (v, none) => (v, none)
  | (_, some im) =>
    let o := s.ownerCheck b im
    if o.code ≠ 0 then (o, none)
    else if step8 && decide (im.gen ≤ (s.sti.active.getD Image.empty).gen) then (⟨9, 0, 0⟩, none)
    else match im.fieldFault (s.capacityWith im.spares) with
      | some f => (⟨0x10 + f.1, f.1, f.2⟩, none)
      | none => match im.acrossFault with
      | some f => (⟨0x20, f.1, f.2⟩, none)
      | none =>
        if !s.memoryFits im then (⟨0x21, 0, 0⟩, none)
        else (Verdict.pass, some im)

/-- Validation of a slot comes to its MAC step: steps 1 to 6 pass (R406). -/
def State.macNeeded (s : State) (n : Nat) : Bool :=
  match parseImage (s.slotBytes n) with
  | (_, some im) => (s.keyOf im.ownSlot).isSome && (s.sti.active.getD im).slotUse im.ownSlot = 3
  | _ => false

/-- The archive passes steps 1 to 7 (R414). -/
def State.archOk (s : State) (n : Nat) : Bool :=
  match parseImage (s.slotBytes n) with
  | (_, some im) => (s.ownerCheck (s.slotBytes n) im).code = 0
  | _ => false

/-- Sections in which two images differ, bit i - 1 for section i. -/
def changedMask (a b : Image) : Nat :=
  (List.range 11).foldl (fun m i => if a.sec (i + 1) = b.sec (i + 1) then m else m + 2 ^ i) 0

/-- Set STI_REASON: the latest failure (R406, R413). -/
def State.stiReason (s : State) (v : Verdict) : State :=
  ((s.set STI_REASON_CODE v.code).set STI_REASON_SECTION v.sec).set STI_REASON_OFFSET v.off

/-- Set STI_REASON and REFUSED, with its interrupt (R406, R410, R480). -/
def State.stiRefuse (s : State) (v : Verdict) : State :=
  let s1 := (s.stiReason v).setB STI_STATUS_REFUSED true
  if s.bit STI_STATUS_REFUSED then s1 else s1.raise 26

/-- The region of a class changes under a shade other than by growth with its BASE unchanged (R409). -/
def regionGuarded (a b : Image) (c : Nat) : Bool :=
  !(a.base c = b.base c && decide (a.size c ≤ b.size c))

/-- A class region holds a dirty granule or a queue entry. -/
def State.regionDirty (s : State) (c : Nat) : Bool :=
  decide (s.get (CCH_DIRTY_GRANULES c) ≠ 0) || s.pq.entries.any fun e => e.cls = c

/-- A committed decoder of either port maps a class region. -/
def State.regionMapped (s : State) (c : Nat) : Bool :=
  [Port.pa, Port.pb].any fun p => [0, 1, 2, 3].any fun k =>
    (s.decoder p k).committed && s.get (PQ_BIND_CLASS p.num k) = c

/-- The mirror stands in the way of a change of class M: a session is up or a copy is adopted (R409). -/
def State.mirrorBusy (s : State) : Bool := s.sessionUp || s.bit MTX_ADOPT_ACTIVE

/-- Under the queue tiles and share sizes of the shade, every tile's occupied entries fit (R409 section 1). -/
def State.queueFits (s : State) (b : Image) : Bool := (List.range 64).all fun t => s.shareOcc t ≤ b.shareSize t

/-- The guarded conditions of class regions in the table's order: the first failing code, 0 where all stand. -/
def State.regionCode (s : State) (l : List Nat) : Nat :=
  if l.any s.regionDirty then 0x33 else if l.any s.regionMapped then 0x34
  else if l.contains 4 ∧ s.mirrorBusy then 0x35 else 0

/-- The first failing code of the swap conditions in table order; 0 where all stand (R409, R410). -/
def State.swapCode (s : State) (a b : Image) : Nat :=
  let queueCh := a.u8 1 40 ≠ b.u8 1 40 || a.queueMask ≠ b.queueMask
  let code := s.regionCode ([0, 1, 2, 3, 4].filter fun c => regionGuarded a b c)
  let sparesCh := a.spares ≠ b.spares
  let extCh := (a.sec 9).drop 1 ≠ (b.sec 9).drop 1
  let heldKey := (List.range 32).any fun k =>
    ((s.slot k).key.isSome || (match s.dge.keyOp with | some op => op.slot = k && op.newSlot.key.isSome | none => false))
      && ((b.sec 11).drop (8 + 4 * k)).take 4 ≠ ((a.sec 11).drop (8 + 4 * k)).take 4
  if queueCh && !s.queueFits b then 0x36
  else if code ≠ 0 then code
  else if sparesCh && (s.cch.ret.isSome || s.glb.lazyRestore || decide (s.regionCode [0, 1, 2, 3, 4] ≠ 0)) then 0x3B
  else if extCh && decide (s.regionCode [4] ≠ 0) then 0x35
  else if a.sec 10 ≠ b.sec 10 then 0x37
  else if heldKey then 0x38
  else 0

/-- The class regions a swap guards, bit c for class c; bit 7 stands for a change of SPARES (R411). -/
def guardMask (a b : Image) : Nat :=
  let m := [0, 1, 2, 3, 4].foldl (fun m c =>
    if regionGuarded a b c || (c = 4 && (a.sec 9).drop 1 ≠ (b.sec 9).drop 1) || a.spares ≠ b.spares then m + 2 ^ c else m) 0
  if a.spares ≠ b.spares then m + 128 else m

/-- End a swap that has not taken effect: nothing is guarded any more. -/
def State.swapClear (s : State) : State :=
  (s.updSti fun x => { x with requested := none, guardSecs := 0, guardClasses := 0 }).set STI_STATUS_SWAP 0

/-- A swap between acceptance and effect. -/
def State.swapOpen (s : State) : Bool := s.get STI_STATUS_SWAP = 1 || s.get STI_STATUS_SWAP = 2

/-- The role record of a swap is dropped (R413); where the cell's other sector is being erased for it, the erase runs on and the
previous roles are written behind it. -/
def Cfl.dropSwap (c : Cfl) : Cfl :=
  let keep := fun (w : IWrite) => w ≠ .role .swap
  match c.op with
  | some (.internalErase (.role .swap) sec n) =>
    { c with queue := c.queue.filter keep, op := some (.internalErase (.role .keep) sec n) }
  | _ => c.dropWrites fun w => !keep w

/-- A swap ends without effect: its role record is dropped, and the previous roles are written again (R413, R401). -/
def State.swapUndo (s : State) : State :=
  let k : RoleWrite := if s.get STI_STATUS_SWAP = 2 then .undo else .keep
  (s.updCfl Cfl.dropSwap).swapClear.flashWrite (.role k)

/-- A trip cancels a swap between acceptance and effect (R413). -/
def State.swapTrip (s : State) : State :=
  if s.swapOpen then (s.swapUndo.stiReason ⟨0x39, 0, 0⟩).event 0x0C08 0 else s

/-- The role record of a swap is committed: the swap counts as requested now (R410, R54), or at the release of an image that is
still retiring (R55). -/
def State.swapRequested (s : State) : State :=
  if s.get STI_STATUS_SWAP = 1 then
    (s.updSti fun x => { x with requested := if x.retiring.isSome then none else some s.boundBeat }).set STI_STATUS_SWAP 2
  else s

/-- A failed role record program refuses the swap (R410). -/
def State.swapFailed (s : State) : State :=
  if s.get STI_STATUS_SWAP = 1 then s.swapClear.stiRefuse ⟨0x3A, 0, 0⟩ else s

/-- The program of the exchange of R414 has failed: the old roles stand. -/
def State.exchangeFailed (s : State) : State :=
  if s.sti.rollback ∧ s.get STI_STATUS_SHADE = 2 then
    ((s.updSti fun x => { x with rollback := false }).set STI_STATUS_SHADE 1).stiRefuse ⟨0x3A, 0, 0⟩
  else s

/-- A write to the shade slot sets SHADE to loaded and cancels validation and swap of the previous shade (R401). A retiring image is
held to its end all the same. -/
def State.shadeLoaded (s : State) : State :=
  let b := match s.roles with | some r => s.slotBytes r.shd | none => s.slotBytes 0
  let s1 := (if s.swapOpen then s.swapUndo else s).updSti fun x => { x with shade := none, rollback := false }
  ((s1.set STI_STATUS_SHADE 1).set STI_STATUS_CHANGED 0).set64 STI_GEN_SHD_LO_VALUE STI_GEN_SHD_HI_VALUE (leAt b 16 8)

/-- A payload of the update path has been written at an offset: the shade slot takes it as loaded (R401). -/
def State.slotWritten (s : State) (off : Nat) : State :=
  if 0x400000 ≤ off ∧ off < 0x700000 then s.shadeLoaded else s

/-- A sector of the shade slot has been programmed or erased, in whole or in part: SHADE takes it as loaded (R401). -/
def State.shadeTouched (s : State) (sec : Nat) : State :=
  match s.roles with
  | some r => if 64 ≤ sec ∧ sec < 112 ∧ (sec - 64) / 16 = r.shd then s.shadeLoaded else s
  | none => s

end Sys2Proof.Machine
end

