-- ==== Sys2Proof/Machine/TileOps.lean ====
section
/-! DEFINITION. Tasks and tiles as the blocks use them (R346 to R369). -/

namespace Sys2Proof.Machine

/-- A task ends with a completion status: 0 DONE, 1 CANCELLED, 2 TIMEOUT, 3 FAILED; a submitted task's completion enters its
agent's FIFO (R356, R364). DESIGN CHOICE: completions that find the 64 places taken wait behind them, in order, for a pop. -/
def State.endTask (s : State) (k : Task) (status : Nat) : State :=
  s.updDsp fun d =>
    let d1 := { d with tasks := d.tasks.filter fun x => x.tid ≠ k.tid }
    match k.producer with
    | none => d1
    | some g => { d1 with cpl := d1.cpl.set g ((d1.cpl.get g) ++ [(k.tid, status)]) }

/-- Replace a live task. -/
def State.setTask (s : State) (k : Task) : State :=
  s.updDsp fun d => { d with tasks := d.tasks.map fun x => if x.tid = k.tid then k else x }

/-- A roll starts no new quiesce: those it has asked for and that have not begun are dropped (R368). -/
def State.rollHalt (s : State) : State :=
  match s.dsp.roll with
  | some r => s.updDsp fun d => { d with leaving := d.leaving.filter fun t => !r.took.contains t }
  | none => s

/-- The tiles that a trip or the drain has kept out return at the next boundary (R212, R369). -/
def State.keptBack (s : State) : State :=
  s.updDsp fun d => { d with back := d.back ++ d.kept.filter (fun t => s.tile t = 1 || s.tile t = 2), kept := [] }

/-- After a drain a roll does not resume (R369). -/
def State.rollDrop (s : State) : State := (s.updDsp fun d => { d with roll := none }).setB DSP_STATUS_ROLL_PAUSED false

/-- A cancel of a live task, by its state (R363). -/
def State.cancelTask (s : State) (k : Task) : State :=
  match k.st with
  | .ready => s.endTask k 1
  | .moving _ => s.endTask k 1
  | .running _ => s.setTask { k with cancel := true }
  | .waiting => if k.waitOp then s.setTask { k with cancel := true } else s.endTask k 1

/-- Cancel the live tasks that satisfy a test (R363). -/
def State.cancelTasks (s : State) (p : Task → Bool) : State := (s.dsp.tasks.filter p).foldl State.cancelTask s

/-- The live task of a TID. -/
def State.taskOf (s : State) (tid : Nat) : Option Task := s.dsp.tasks.find? fun k => k.tid = tid

/-- A task becomes ready at a tile: a new ready period begins (R357). -/
def State.makeReady (s : State) (k : Task) (tile : Nat) (moved : Bool) : State :=
  (s.setTask { k with st := .ready, tile := tile, order := s.dsp.order, moved := moved }).updDsp
    fun d => { d with order := d.order + 1 }

/-- The tile on whose list a task becomes ready: its own, or its home tile once its own has left service (R365). -/
def State.readyTile (s : State) (k : Task) : Nat := if s.tile k.tile = 0 ∨ k.pin then k.tile else s.homeTile k.pool k.arg0

/-- The first live task that satisfies a test completes with DONE: its work has been done by its own row. -/
def State.retireTask (s : State) (p : Task → Bool) : State :=
  match s.dsp.tasks.find? p with
  | some k => s.endTask k (if k.cancel then 1 else 0)
  | none => s

/-- Tiles out of service or quiescing, those whose domain is off among them, counted against the limit of 24 (R366). -/
def State.outCount (s : State) : Nat := ((List.range 64).filter fun t => !s.inService t).length + s.dsp.leaving.length

/-- Ask for a quiesce of a tile: it begins at the next boundary, or waits for the limit (R365, R366). -/
def State.askQuiesce (s : State) (t : Nat) : State :=
  if !s.inService t || s.dsp.leaving.contains t then s
  else if s.outCount + 1 ≤ 24 then s.updDsp fun d => { d with leaving := d.leaving ++ [t], waitQ := d.waitQ.erase t }
  else if s.dsp.waitQ.contains t then s else s.updDsp fun d => { d with waitQ := d.waitQ ++ [t] }

/-- Assign the queue buckets to the queue tiles in service (R352). -/
def State.moveBuckets (s : State) : State :=
  s.updDsp fun d => { d with bucketTiles := s.img.queueTiles.filter s.inService }

/-- Tiles that a roll has taken out and that have not come back. -/
def State.rollOut (s : State) : Nat :=
  ((List.range 64).filter fun t => 1 ≤ s.tile t && s.tile t ≤ 4).length + s.dsp.leaving.length

/-- The next tile that a roll is to quiesce: the lowest in service without the new version (R367). -/
def State.rollNext (s : State) (r : Roll) : Option Nat :=
  (List.range 64).find? fun t => s.inService t && !s.dsp.leaving.contains t && !r.done.contains t

/-- A running roll takes further tiles, in ascending order, while at most MAXOUT are out (R367). -/
def State.rollStep : Nat → State → State
  | 0, s => s
  | fuel + 1, s =>
    match s.dsp.roll with
    | none => s
    | some r =>
      if r.stopped || s.bit DSP_STATUS_ROLL_PAUSED then s
      else match s.rollNext r with
        | none => s
        | some t =>
          if s.rollOut < s.get DSP_ROLL_MAXOUT ∧ s.outCount + 1 ≤ 24 then
            State.rollStep fuel (s.updDsp fun d => { d with leaving := d.leaving ++ [t], roll := some { r with took := r.took ++ [t] } })
          else s

/-- A roll ends when no tile of it is out: complete when every tile in service carries the new version (R367, R368, R459). A
paused roll does not end (R369). -/
def State.rollEnd (s : State) : State :=
  match s.dsp.roll with
  | none => s
  | some r =>
    let going := (List.range 64).any fun t => s.tile t = 1 || s.tile t = 3 || s.tile t = 4
    if going || s.bit DSP_STATUS_ROLL_PAUSED || decide (s.dsp.leaving ≠ []) || decide (s.dsp.back ≠ []) then s
    else if r.stopped then (s.updDsp fun d => { d with roll := none }).set DSP_ROLLST_RESULT r.result
    else if s.rollNext r = none then
      let s1 := ((s.updDsp fun d => { d with roll := none }).set DSP_ROLLST_RESULT 2).event 0x0A06 0
      s1.flashWrite (.role (.micro r.slot))
    else s

/-- The beat in which the slice that does a piece of work was issued: the present one where no running task is named (R48). -/
def State.issueBeat (s : State) (p : Task → Bool) : Nat :=
  match s.dsp.tasks.find? fun k => k.st.isRunning && p k with
  | some k => k.issued
  | none => s.glb.beat

/-- The image that was active in a beat (R49): the retiring image for work issued before its swap. -/
def State.imageOf (s : State) (b : Nat) : Option Image :=
  if s.sti.retiring.isSome && decide (b + 3 < s.sti.releaseBeat) then s.sti.retiring else s.sti.active

/-- The state as work of a beat meets it: under the image of its issue beat (R49). -/
def State.underBeat (s : State) (b : Nat) : State := s.updSti fun x => { x with active := s.imageOf b }

/-- The active image again, once that work is done. -/
def State.restoreImage (t : State) (i : Option Image) : State := t.updSti fun x => { x with active := i }

/-- What a boundary does to tiles: quiesces begin, tiles return, buckets move, a roll goes on (R352, R365 to R367). A task that moves
stays in its ready period (R359). -/
def State.tileBoundary (s : State) : State :=
  let out := s.dsp.leaving
  let back := s.dsp.back
  let s1 := out.foldl (fun t k => (((t.set (TIL_STATUS_STATE k) 1).updDsp fun d => { d with
    since := Store.put 0 d.since k (s.glb.beat + 1) })).event 0x0A01 (srcTile k))
    (s.updDsp fun d => { d with leaving := [], back := [], remap := false })
  let s2 := back.foldl (fun t k => (t.set (TIL_STATUS_STATE k) 0).event 0x0A03 (srcTile k)) s1
  let s3 := if out = [] ∧ back = [] ∧ !s.dsp.remap then s2 else s2.moveBuckets
  let s4 := (s3.dsp.tasks.filter fun k => out.contains k.tile && !k.pin && k.st = .ready).foldl
    (fun t k => t.makeReady k (t.homeTile k.pool k.arg0) k.moved) s3
  let s5 := s4.dsp.waitQ.foldl (fun t k => t.askQuiesce k) s4
  (State.rollStep 64 s5).rollEnd

/-- A trip abandons every quiesce not yet finished, keeps out the tiles that are out, and pauses a roll (R369). -/
def State.tileTrip (s : State) : State :=
  let q := (List.range 64).filter fun t => s.tile t = 1
  let s1 := s.updDsp fun d => { d with
    leaving := [], waitQ := [], back := q, kept := d.kept ++ d.back.filter fun t => s.tile t ≠ 1 }
  if s.dsp.roll.isSome && !s.bit DSP_STATUS_ROLL_PAUSED then (s1.setB DSP_STATUS_ROLL_PAUSED true).event 0x0A0E 0 else s1

end Sys2Proof.Machine
end

