-- ==== Sys2Proof/Machine/LedgerOps.lean ====
section
/-! DEFINITION. The arithmetic of the energy ledger and its close (R135 to R166). -/

namespace Sys2Proof.Machine

/-- The largest 32-bit energy (R135). -/
def mjMax : Nat := 0xFFFFFFFF

/-- Energy modules counted, and flash modules counted. -/
def State.bankMods (s : State) : Nat := ones 4 (s.get LDG_BANKREL_COUNTED)
def State.flashMods (s : State) : Nat := ones 4 (s.get VLT_MODS_COUNTED)

/-- Flash modules present as the ledger reckons them: those counted, or those that read present until the ring search has counted
any (R151, R164, R166). -/
def State.flashHere (s : State) : Nat :=
  if (s.glb.st = .boot ∨ s.glb.st = .restore) ∧ s.get VLT_MODS_COUNTED = 0 ∧ s.get VLT_RST_STATUS_RESULT = 0 then
    ones 4 (s.get VLT_MODS_PRESENT)
  else s.flashMods

/-- A planned flash-module release is pending: PENDING of a counted module (R165, R261). -/
def State.flashReleasing (s : State) : Bool := s.get VLT_MODS_PENDING &&& s.get VLT_MODS_COUNTED ≠ 0

/-- The K3 set is in use (R144, R164, R165). DESIGN CHOICE: the spec names the sets for four and for three modules; with fewer than
three the K3 set stays in use. -/
def State.useK3 (s : State) : Bool := s.flashHere < 4 || s.flashReleasing

/-- The key of a calibrated coefficient: class 0 to 3 of the K4 or the K3 set. -/
def calKey (k3 : Bool) (c : Nat) : Nat := (if k3 then 4 else 0) + c

/-- The calibrated value of a class; 0 stands for none (R159). -/
def State.kcal (s : State) (k3 : Bool) (c : Nat) : Nat := Store.get 0 s.ldg.cal (calKey k3 c)

/-- The coefficient of a class in use (R144). -/
def State.kUse (s : State) (k3 : Bool) (c : Nat) : Nat := max (s.img.kdes k3 c) (s.kcal k3 c)

/-- The largest class coefficient in use, and KQ in use (R144, R153). -/
def State.kMax (s : State) (k3 : Bool) : Nat := max (max (s.kUse k3 0) (s.kUse k3 1)) (max (s.kUse k3 2) (s.kUse k3 3))
def State.kQueue (s : State) (k3 : Bool) : Nat := max (s.img.kdes k3 4) (s.kMax k3)

/-- Bank figures in use. -/
structure BankFig where
  c : Nat
  esr : Nat
  h : Nat
  source : Nat
deriving DecidableEq, Repr

/-- A mask is contained in another. -/
def maskIn (a b : Nat) : Bool := a &&& b = a

/-- The governing test is HSTALE hours or older (R140 rule 2). -/
def State.testStale (s : State) : Bool :=
  match s.ldg.test with
  | some t => maskIn (s.get LDG_BANKREL_COUNTED) t.mods && s.expired t.beat (s.img.hstale * 3600000000)
  | none => false

/-- C, ESR and h by the first rule of R140 that applies, under the reduced reckoning of R160. -/
def State.bankFig (s : State) : BankFig :=
  let cnt := s.get LDG_BANKREL_COUNTED
  let n := s.bankMods
  let old : BankFig := ⟨n * s.img.cminMod, cdiv s.img.esrmaxMod n, s.img.hconfStale, 1⟩
  match s.ldg.test with
  | none => old
  | some t =>
    if !maskIn cnt t.mods then old
    else
      let h := if s.testStale then s.img.hconfStale else s.img.hconf
      if cnt = t.mods then ⟨t.c, t.esr, h, 0⟩
      else
        let w := ones 4 t.mods
        ⟨min (t.c * n / w) (n * s.img.cminMod), max (cdiv (t.esr * w) n) (cdiv s.img.esrmaxMod n), h, 0⟩

/-- The effective floor ve in mV (R139). -/
def State.effFloor (s : State) (esr : Nat) : Nat :=
  let ipk := cdiv (s.img.pcap * 65536000) (s.img.eta * s.img.vfloor)
  s.img.vfloor + cdiv (esr * ipk) 1000000

/-- USABLE in mJ (R139). -/
def State.usable (s : State) (v : Nat) (f : BankFig) : Nat :=
  let ve := s.effFloor f.esr
  if v ≤ ve then 0
  else
    let e0 := f.c * (v * v - ve * ve) / 2000000
    let e1 := e0 * s.img.eta / 65536
    min (e1 * f.h / 65536) mjMax

/-- The beats of grace that the ledger charges (R143). -/
def State.graceLeft (s : State) : Nat :=
  if s.glb.st = .serve then s.get DRN_GRACE_BEATS
  else if s.glb.st = .grace then s.drn.graceStart + s.drn.graceLen + 1 - s.glb.beat
  else 0

/-- The terms of COMMIT in the order of LDG_PARTn (R142), each rounded up and saturated. -/
def State.commitParts (s : State) : List Nat :=
  let k3 := s.useK3
  let g := s.graceLeft
  let cls := fun (c : Nat) => cdiv (s.kUse k3 c * s.ldg.closeDirty.getD c 0) 262144
  ([s.img.fixMj, cdiv (s.kQueue k3 * s.img.qcapLines) 262144,
    if s.glb.beatSrc then cdiv (s.img.graceMw * g * 101) 100000000 else cdiv (s.img.graceMw * g) 1000000,
    cls 0, cls 1, cls 2, cls 3]).map (min mjMax)

/-- What a close finds. -/
structure CloseFig where
  usable : Nat
  parts : List Nat
  commit : Nat
  margin : Nat
  deficit : Nat
  novault : Bool
  zone : Nat
deriving DecidableEq, Repr

/-- OCHRE_TOP (R147). -/
def Image.ochreTop (i : Image) : Nat := i.brim + cdiv i.brim 10

/-- The figures of a close and its zone (R135, R142, R147, R148, R166). -/
def State.closeFig (s : State) : CloseFig :=
  let u := s.usable s.ldg.closeV s.bankFig
  let parts := s.commitParts
  let commit := min (parts.foldl (· + ·) 0) mjMax
  let margin := u - commit
  let novault := s.flashHere < 3
  ⟨u, parts, commit, margin, commit - u, novault,
    if novault ∨ margin < s.img.brim then 2 else if margin < s.img.ochreTop then 1 else 0⟩

/-- The lines that the spare margin pays for (R153). -/
def State.spareLines (s : State) (margin : Nat) : Nat :=
  if s.kMax s.useK3 = 0 then 0 else (margin - s.img.brim) * 262144 / s.kMax s.useK3

/-- A stream's ceiling. -/
def State.ceiling (s : State) (n : Nat) : Nat := s.get (LDG_CEIL_CEIL n)

/-- The grant of a stream (R153). -/
def State.grant (s : State) (lines n : Nat) : Nat :=
  let total := s.ceiling 0 + s.ceiling 1 + s.ceiling 2
  if total ≤ lines then s.ceiling n else if total = 0 then 0 else lines * s.ceiling n / total

/-- The stream receives credit in the present state (Table: Credit by state). -/
def State.streamOpen (s : State) (n : Nat) : Bool :=
  s.serving || (s.glb.st = .drain && n = 2 && s.bit DRN_STATUS_MWIN)

/-- Publish a stream's credit, net of its debt and of the close's admissions (R45, R152, R153). A stream whose publication is
void, or that receives none in this state or zone, has a grant of 0. -/
def State.publish (s : State) (void : Bool) (n : Nat) : State :=
  let owed := s.get (LDG_CRED_DEBT n) + Store.get 0 s.ldg.closeUsed n
  let g := if s.streamOpen n && !void && s.ldg.nextZone ≠ 2 then s.grant s.ldg.lines n else 0
  ((s.set (LDG_CRED_CREDIT n) (g - owed)).set (LDG_CRED_DEBT n) (owed - g)).setUnspent n (g - owed)

/-- A close sets a zone: its seen bit (R148). The zone governs, with its warnings, from the publication on (R47). -/
def State.enterZone (s : State) (z : Nat) : State :=
  let s1 := s.updLdg fun l => { l with nextZone := z }
  if z = 1 then s1.setB LDG_STATUS_OCHRE_SEEN true else if z = 2 then s1.setB LDG_STATUS_UMBER_SEEN true else s1

/-- The zone that the close has set governs: on entry its event and its interrupt, and in umber the event again once per 1,000,000
beats (R47, R148, R149). -/
def State.showZone (s : State) : State :=
  let z := s.ldg.nextZone
  let s1 := s.set LDG_STATUS_ZONE z
  if z = s.get LDG_STATUS_ZONE then
    if z = 2 ∧ 1000000 ≤ s.glb.beat - s.ldg.umberBeat then
      (s1.event 0x0402 0).updLdg fun l => { l with umberBeat := s.glb.beat }
    else s1
  else if z = 0 then s1.event 0x0403 0
  else if z = 1 then (s1.event 0x0401 0).raise 10
  else ((s1.event 0x0402 0).raise 9).updLdg fun l => { l with umberBeat := s.glb.beat }

/-- Set STALE when the governing test has aged, with event 0x0405 on entry (R140 rule 2). -/
def State.checkStale (s : State) : State :=
  if s.testStale then
    if s.bit LDG_STATUS_STALE then s else (s.setB LDG_STATUS_STALE true).event 0x0405 0
  else s.setB LDG_STATUS_STALE false

/-- Drop the energy modules that have read absent (R162). -/
def State.dropAbsent (s : State) : State :=
  if s.ldg.drops = 0 then s
  else
    let m := s.ldg.drops
    let s1 := (s.set LDG_BANKREL_COUNTED (s.get LDG_BANKREL_COUNTED &&& (15 ^^^ m))).updLdg fun l => { l with
      drops := 0, absent := l.absent ||| m, whiteRun := 0 }
    let s2 := (modsOf m).foldl (fun t k => t.event 0x040A (srcModule k)) s1
    s2.htAbandon

/-- Abandon a rehearsal (R158). -/
def State.rehAbandon (s : State) : State :=
  match s.ldg.rehRun with
  | none => s
  | some _ => ((((s.updLdg fun l => { l with rehRun := none }).setB LDG_REH_BUSY false).set LDG_REH_RESULT 2).event 0x0408 0).cancelTasks
      fun k => (k.ty = 11 || k.ty = 3 && k.prio = 7) && k.producer.isNone

/-- The modules a rehearsal stands on: the energy mask and the flash count (R158). -/
def State.rehMods (s : State) : Nat := s.get LDG_BANKREL_COUNTED + 16 * s.get VLT_MODS_COUNTED

/-- Count flash modules at a close: an absent or failed one brings the K3 set and event 0x040B (R164, R166). -/
def State.closeFlash (s : State) : State :=
  let n := s.flashHere
  let s1 := if n < s.ldg.flashCount then s.event 0x040B 0 else s
  let s2 := if n < 3 ∧ !s.bit LDG_STATUS_NOVAULT then s1.event 0x040C 0 else s1
  ((((s2.setB LDG_STATUS_NOVAULT (n < 3)).set LDG_STATUS_FMODS s.flashMods).setB LDG_STATUS_KSET3 s.useK3).updLdg
    fun l => { l with flashCount := n })

/-- The registers of a close. DESIGN CHOICE: a coefficient above 65,535 shows as 65,535 in the 16-bit fields KUSE and KCAL, a voltage
above 65,535 mV in VE; the spec does not say what they show. -/
def State.showClose (s : State) (f : CloseFig) : State :=
  let b := s.bankFig
  let k3 := s.useK3
  let age := match s.ldg.test with | some t => min 4095 ((s.glb.beat - t.beat) / 3600000000) | none => 0
  let s1 := ((((s.set LDG_USABLE_MJ f.usable).set LDG_COMMIT_MJ f.commit).set LDG_MARGIN_MJ f.margin).set LDG_DEFICIT_MJ
    f.deficit).set LDG_BRIM_MJ s.img.brim
  let s2 := (List.range 7).foldl (fun t n => t.set (LDG_PART_MJ n) (f.parts.getD n 0)) s1
  let s3 := ((((s2.set LDG_BANK_V_V s.ldg.closeV).set LDG_BANK_V_VE (min 65535 (s.effFloor b.esr))).set LDG_BANK_C_VALUE
    (min mjMax b.c)).set LDG_BANK_ESR_VALUE (min mjMax b.esr)).set LDG_HEALTH_H b.h
  let s4 := (s3.set LDG_HEALTH_SOURCE b.source).set LDG_HEALTH_AGE_HOURS age
  let s5 := [0, 1, 2, 3].foldl (fun t c => (t.set (LDG_K_KUSE c) (min 65535 (s.kUse k3 c))).set (LDG_K_KCAL c)
    (min 65535 (s.kcal k3 c))) s4
  s5.set (LDG_K_KUSE 4) (min 65535 (s.kQueue k3))

/-- The deficit of a close (R150). -/
def State.showDeficit (s : State) (d : Nat) : State :=
  let s1 := (s.setB LDG_STATUS_DEFICIT (d ≠ 0)).updLdg fun l => { l with deficitWas := decide (d ≠ 0) }
  if d ≠ 0 ∧ !s.ldg.deficitWas then ((s1.setB LDG_STATUS_DEFICIT_SEEN true).event 0x0404 0).raise 11 else s1

/-- The close of a beat (R43, R135 to R150, R158, R166); it runs from BOOT on, once an image gives its figures. -/
def State.closeLedger (s : State) : State :=
  if s.sti.active.isNone ∨ s.glb.st = .powerup then s
  else
    let s1 := s.dropAbsent.checkStale.closeFlash
    let f := s1.closeFig
    let s2 := ((s1.showClose f).enterZone f.zone).showDeficit f.deficit
    let s3 := s2.updLdg fun l => { l with
      lines := if f.zone = 2 then 0 else s2.spareLines f.margin, whiteNow := decide (f.zone = 0) }
    let s4 := if f.zone ≠ 0 then s3.rehAbandon.htAbandon else s3
    match s4.ldg.rehRun with
    | some r => if r.mods ≠ s4.rehMods then s4.rehAbandon else s4
    | none => s4

/-- The publication of a beat (R45, R47, R153): the zone governs, the streams have their credit. -/
def State.publishCredit (s : State) (void : Bool) : State :=
  let s1 := if s.sti.active.isNone ∨ s.glb.st = .powerup then s else s.showZone
  ([0, 1, 2].foldl (fun t n => t.publish void n) s1).updLdg fun l => { l with closeUsed := [] }

/-- The calibration cell: the beat, the remap table, the calibrated K4 and K3 values (Table: Cell contents, TYPE 4). -/
def State.calCell (s : State) : List Byte :=
  leBytes 8 s.beat ++ s.crownRemap
    ++ ([0, 1, 2, 3].map fun c => leBytes 4 (s.kcal false c)).flatten
    ++ ([0, 1, 2, 3].map fun c => leBytes 4 (s.kcal true c)).flatten

/-- What the ledger takes at a boundary: the figures of the close (R43), modules that leave or return (R160, R161), tests and
calibrations that begin to govern (R140, R158), the white beats (R161). -/
def State.ldgBoundary (s : State) : State :=
  let l := s.ldg
  let cnt := (s.get LDG_BANKREL_COUNTED &&& (15 ^^^ l.dropNext)) ||| l.backNext
  let s1 := if cnt = s.get LDG_BANKREL_COUNTED then s else (s.set LDG_BANKREL_COUNTED cnt).htAbandon
  let due := match l.newTest with | some (b, _) => decide (b ≤ s.glb.beat) | none => false
  let s2 := match l.newTest with
    | some (b, t) =>
      if b ≤ s.glb.beat then
        let j := s1.get LDG_BANKREL_JOINED
        let mv := j &&& t.mods
        let s0 := if mv = 0 then s1 else s1.htAbandon
        ((s0.set LDG_BANKREL_COUNTED (s1.get LDG_BANKREL_COUNTED ||| mv)).set LDG_BANKREL_JOINED (j &&& (15 ^^^ mv))).updLdg
          fun x => { x with test := some t, newTest := none }
      else s1
    | none => s1
  let cals := l.newCal.filter fun c => c.1 ≤ s.glb.beat
  s2.updLdg fun x => { x with
    closeV := s.bankMv
    closeDirty := [s.get (CCH_DIRTY_GRANULES 0), s.get (CCH_DIRTY_GRANULES 1), s.get (CCH_DIRTY_GRANULES 2),
      s.get (CCH_DIRTY_GRANULES 4)]
    cal := cals.foldl (fun m c => Store.put 0 m c.2.1 c.2.2) x.cal
    newCal := x.newCal.filter fun c => ¬ c.1 ≤ s.glb.beat
    whiteRun := if l.dropNext ≠ 0 ∨ l.backNext ≠ 0 ∨ due ∨ !l.whiteNow then 0 else l.whiteRun + 1
    flashRun := if s.flashReleasing && l.whiteNow && s.bit LDG_STATUS_KSET3 then l.flashRun + 1 else 0
    dropNext := 0, backNext := 0 }

end Sys2Proof.Machine
end

