-- ==== Sys2Proof/Machine/Cache.lean ====
section
/-! DEFINITION. The commands of the DRAM cache (R107 to R134). -/

namespace Sys2Proof.Machine

/-- Set the state, set and member of every physical rank from the population, the spares, the remap table and the ranks that are
retired or migrating (R111, R132, R134). -/
def State.layRanks (s : State) : State :=
  let per := s.ranksPerChannel
  let clr := (List.range 32).foldl (fun t n => ((t.set (CCH_RANK_STATE n) 0).set (CCH_RANK_SET n) 0).set (CCH_RANK_MEMBER n) 0) s
  let nat := (List.range per).foldl (fun t i => (List.range 8).foldl (fun u c => u.set (CCH_RANK_STATE (s.natRank i c)) 2) t) clr
  let placed := (List.range per).foldl (fun t i => (List.range (s.members s.img.spares i)).foldl (fun u c =>
    let n := (Store.get none s.cch.remap (s.natRank i c)).getD (s.natRank i c)
    ((u.set (CCH_RANK_STATE n) 1).set (CCH_RANK_SET n) i).set (CCH_RANK_MEMBER n) c) t) nat
  let gone := ((List.range 32).filter fun n => bitOf s.cch.retired n && placed.get (CCH_RANK_STATE n) = 2).foldl (fun t n =>
    t.set (CCH_RANK_STATE n) 5) placed
  let moving := match s.cch.ret with
    | some r => (gone.set (CCH_RANK_STATE r.src) 3).set (CCH_RANK_STATE r.dst) 4
    | none => gone
  (moving.set CCH_CFG_SPARES s.img.spares).set CCH_CFG_LRANKS
    (if s.bit CCH_STATUS_POP_OK then 8 * per - s.img.spares else 0)

/-- A DIMM of a kind that the controller supports: registered, with ECC devices, x4, not stacked, and of a row of the table
(R107). -/
def Dimm.supported (d : Dimm) : Bool :=
  d.registered && d.checked && d.by4 && !d.stacked
    && [(16, 1, 8), (32, 1, 16), (32, 2, 8)].contains (d.gib.toNat, d.ranks.toNat, d.gbit.toNat)

/-- Two DIMMs are of one organisation. -/
def Dimm.like (a b : Dimm) : Bool := a.gib = b.gib && a.ranks = b.ranks && a.gbit = b.gbit

/-- The population that DIMMs make (Table: Supported DIMM populations): two per channel, two ranks, 32 GiB; none where the
controller does not accept it. Slot 0 of every channel is fitted, slot 1 of every channel or of none, all alike (R107). -/
def populationOf (l : List Dimm) : Option (Bool × Bool × Bool) :=
  let at_ := fun (c d : Nat) => l.filter fun x => x.channel.toNat = c && x.slot.toNat = d
  match l with
  | [] => none
  | a :: _ =>
    let first := (List.range 8).all fun c => decide ((at_ c 0).length = 1)
    let two := (List.range 8).all fun c => decide ((at_ c 1).length = 1)
    if l.all (fun x => x.supported && a.like x) && first && decide (l.length = if two then 16 else 8) then
      some (two, decide (a.ranks.toNat = 2), decide (a.gib.toNat = 32))
    else none

/-- DRAM_TRAINING (R107, R108): the DIMMs found and the speed each channel reached, 1 to 3 as CCH_CFG.SPEED, 0 for a channel that
fails at DDR5-4800. In BOOT the failure is recorded when the image's fit to memory is validated (R109); in RESTORE at once
(R284). -/
def execDramTraining (dimms : List Dimm) (speeds : List (BitVec 2)) (s : State) : Out :=
  if s.glb.st ≠ .boot ∧ ¬(s.glb.st = .restore ∧ s.rst.coldRanks) then ok s
  else
    let refuse := fun (t : State) =>
      let u := (t.set CCH_CFG_SPEED 0).setB CCH_STATUS_POP_OK false
      if s.glb.st = .boot then u else u.event 0x0308 0
    match populationOf dimms with
    | none => ok (refuse s)
    | some p =>
      let rated := if p.1 then 2 else 3
      let low := speeds.foldl (fun m x => min m x.toNat) rated
      let s1 := ((s.setB CCH_CFG_DPC2 p.1).setB CCH_CFG_RANKS2 p.2.1).setB CCH_CFG_SIZE32 p.2.2
      if low = 0 then ok (refuse s1)
      else
        let s2 := (((s1.set CCH_CFG_SPEED low).setB CCH_STATUS_POP_OK true).layRanks.updDrn fun d =>
          { d with lostRanks := 0 }).updRst fun r => { r with coldRanks := false }
        if low < rated then ok (((s2.setB CCH_STATUS_SPEED_FALLBACK true).event 0x0309 0).raise 8) else ok s2

/-- DRAM_READ_COMPLETE (R118, R120, R122): a read of a line other than a host's returns its codeword, met by an error
pattern. -/
def execDramReadComplete (la : BitVec 40) (err : Codeword) (s : State) : Out :=
  let r := (s.dramMove 64).dramRead la.toNat err
  match r.1 with
  | .uncorrectable => ok (r.2.ueLine la.toNat)
  | _ => ok r.2

/-- CE_WINDOW_EXPIRY (R130): the corrected-word window expires and restarts. -/
def execCeWindowExpiry (s : State) : Out :=
  if s.get CCH_RET_WIN_BEATS ≠ 0 ∧ s.expired s.cch.winStart (s.get CCH_RET_WIN_BEATS) then
    ok ((List.range 32).foldl (fun t n => t.set (CCH_RANK_CE_WIN n) 0) (s.updCch fun c => { c with winStart := s.glb.beat }))
  else ok s

/-- RETIRE_COMMAND (R131): a write of CCH_RET_CMD with GO. -/
def execRetireCommand (n : BitVec 5) (s : State) : Out := ok (s.retireRequest n.toNat)

/-- RETIREMENT_BEGIN (R131, R132 step 1): the oldest accepted request begins at a boundary, or is refused where its conditions
no longer hold; while an accepted swap changes SPARES it waits (R411). DESIGN CHOICE: a begin sets CCH_RET_STATUS.REASON, the latest
refusal or abandonment, to 0; the spec does not say what a begin does to it. -/
def execRetirementBegin (s : State) : Out :=
  match s.cch.retReq with
  | [] => ok s
  | n :: rest =>
    if !s.atBoundary ∨ bitOf s.sti.guardClasses 7 then ok s
    else
      let s0 := s.updCch fun c => { c with retReq := rest }
      if s.retireReason n ≠ 0 then ok (s0.retireRefuse n (s.retireReason n))
      else match (List.range 32).find? fun k => s.get (CCH_RANK_STATE k) = 2 with
        | none => ok (s0.retireRefuse n 1)
        | some k =>
          let s1 := s0.updCch fun c => { c with ret := some ⟨n, k, 0, s.rankAll * 64, [], 0, 0, 0⟩ }
          let s2 := ((s1.set (CCH_RANK_STATE n) 3).set (CCH_RANK_STATE k) 4).setB CCH_STATUS_RETIRING true
          let s3 := ((s2.set CCH_RET_STATUS_FROM n).set CCH_RET_STATUS_TO k).setB CCH_RET_STATUS_ACTIVE true
          ok (((s3.set CCH_RET_STATUS_PCT 0).set CCH_RET_STATUS_REASON 0).event 0x0304 (srcRank n))

/-- RETIREMENT_CUTOVER (R129, R132 steps 4 and 5, R134): taken in SERVE at the first boundary after the last line is copied. The
logical rank's lines are from then on those of the former spare. -/
def execRetirementCutover (s : State) : Out :=
  match s.cch.ret with
  | none => ok s
  | some r =>
    if r.copied < r.total ∨ s.glb.st ≠ .serve ∨ !s.atBoundary ∨ s.glb.beat ≤ r.doneBeat then ok s
    else
      let key := ((List.range 32).find? fun n => Store.get none s.cch.remap n = some r.src).getD r.src
      let s1 := s.updCch fun c => { c with
        ret := none, remap := Store.put none c.remap key (some r.dst), retired := setBit c.retired r.src
        lines := r.spare.foldl (fun m l => Store.put LineCell.zero m l.1 l.2)
          (Store.keep (fun k => s.rankOf (k / 64) ≠ some r.src) c.lines) }
      let s2 := ((s1.set (CCH_RANK_STATE r.src) 5).set (CCH_RANK_STATE r.dst) 1).setB CCH_STATUS_RETIRING false
      let s3 := (s2.set (CCH_RANK_SET r.dst) (s.get (CCH_RANK_SET r.src))).set (CCH_RANK_MEMBER r.dst) (s.get (CCH_RANK_MEMBER r.src))
      let s4 := (s3.setB CCH_RET_STATUS_ACTIVE false).event 0x0305 (srcRank r.src)
      ok (s4.flashWrite (.cell 4 s4.calCell))

/-- XLATE_START (R113): a write to CCH_XLATE_HI translates the address of _HI and the latest _LO. -/
def execXlateStart (hi : Word) (s : State) : Out :=
  let s1 := s.set CCH_XLATE_HI_CA hi.toNat
  let ca := s.get CCH_XLATE_LO_CA + 2 ^ 32 * hi.toNat
  match s.rankOf (ca / 4096), s.rankOffset ca with
  | some n, some o =>
    let x := Config.dramPlace o
    ok ((((((s1.set CCH_XLATE_OUT_PRANK n).set CCH_XLATE_OUT_SUBCH (ca / 64 % 2)).set CCH_XLATE_OUT_BG x.1).set
      CCH_XLATE_OUT_BANK x.2.1).set CCH_XLATE_OUT_ROW x.2.2).setB CCH_XLATE_OUT_VALID true)
  | _, _ => ok (s1.setB CCH_XLATE_OUT_VALID false)

end Sys2Proof.Machine
end

