-- ==== Sys2Proof/Machine/Digest.lean ====
section
/-! DEFINITION. The commands of the digest engine and the key slots (R434 to R449). -/

namespace Sys2Proof.Machine

/-- A write of DGE_CMD.START (R436, R438, R439). -/
def State.digestStart (s : State) (g : Agent) (alg : BitVec 2) (keyslot : BitVec 5) : State :=
  let w := DgeWho.host g
  if !s.answers g then s
  else if s.dgeOwns g then (s.dgeEnd w 5).dgeRelease
  else
    let k := s.slot keyslot.toNat
    if 2 ≤ alg.toNat ∧ ¬(k.key.isSome ∧ k.use = 0) then s.dgeEnd w 7
    else
      let c : DgeComp := ⟨w, alg.toNat, keyslot.toNat, s.get (DGE_LEN_LEN g), [], 0⟩
      let s1 := (s.updDge fun d => { d with wait := d.wait.filter fun r => r.who ≠ w }).set (DGE_FED_BYTES g) 0
      (s1.dgeStatus g 0).dgeAsk g ⟨w, none, some c⟩

/-- A write of DGE_CMD.RESUME (R443, R436). In the beat in which the context expires the expiry wins (R444). -/
def State.digestResume (s : State) (g : Agent) (n : BitVec 2) : State :=
  let w := DgeWho.host g
  if !s.answers g then s
  else if s.dgeOwns g then (s.dgeEnd w 5).dgeRelease
  else match Store.get none s.dge.ctx n.toNat with
    | none => s.dgeStatus g 10
    | some c =>
      if c.comp.who ≠ w then s.dgeStatus g 10
      else if s.expired c.beat 1000000 then s.dgeExpire n.toNat
      else s.dgeAsk g ⟨w, some n.toNat, none⟩

/-- One agent's request: a start or a resume. -/
def State.digestRequest (s : State) (x : Agent × Sum (BitVec 2 × BitVec 5) (BitVec 2)) : State :=
  match x.2 with
  | .inl p => s.digestStart x.1 p.1 p.2
  | .inr n => s.digestResume x.1 n

/-- The requests of one fabric cycle in the engine's order: priority first, then port A before port B (R439). -/
def requestOrder {α : Type} (l : List (Agent × α)) : List (Agent × α) :=
  (l.filter fun x => x.1 = .stw) ++ (l.filter fun x => x.1 = .hostA) ++ (l.filter fun x => x.1 = .hostB)

/-- DIGEST_START (R439, R436, R438): a write of DGE_CMD.START. -/
def execDigestStart (g : Agent) (alg : BitVec 2) (keyslot : BitVec 5) (also : List (Agent × Sum (BitVec 2 × BitVec 5) (BitVec 2)))
    (s : State) : Out :=
  ok ((requestOrder ((g, Sum.inl (alg, keyslot)) :: also)).foldl State.digestRequest s)

/-- DIGEST_RESUME (R443, R436): a write of DGE_CMD.RESUME. -/
def execDigestResume (g : Agent) (n : BitVec 2) (also : List (Agent × Sum (BitVec 2 × BitVec 5) (BitVec 2))) (s : State) : Out :=
  ok ((requestOrder ((g, Sum.inr n) :: also)).foldl State.digestRequest s)

/-- DIGEST_ABORT (R436): a write of DGE_CMD.ABORT. -/
def execDigestAbort (g : Agent) (s : State) : Out :=
  if !s.answers g then ok s else ok (s.dgeDrop g 9)

/-- DIGEST_DATA_WRITE (R435, R436, R440): a write of DGE_DATA. -/
def execDigestDataWrite (g : Agent) (w : Word) (s : State) : Out :=
  if !s.answers g then ok s else
  match s.dge.owner with
  | some c =>
    if c.who = .host g ∧ s.dge.transfer ≠ 2 then
      if c.full s.dge.compressing then ok ((s.dgeEnd c.who 8).dgeRelease)
      else if c.len ≤ c.fed.length then ok ((s.dgeEnd c.who 5).dgeRelease)
      else
        let fed := c.fed ++ (leBytes 4 w.toNat).take (c.len - c.fed.length)
        let start := decide (c.done + blockSize c.alg ≤ fed.length) || decide (fed.length = c.len)
        ok ((s.updDge fun d => { d with owner := some { c with fed := fed }, lastWrite := s.glb.beat,
                                        compressing := d.compressing || start }).set (DGE_FED_BYTES g) fed.length)
    else if s.get (DGE_AGENT_STATE g) = 3 then ok (s.dgeStatus g 3) else ok s
  | none => if s.get (DGE_AGENT_STATE g) = 3 then ok (s.dgeStatus g 3) else ok s

/-- The owner's next block compresses once it is full, or holds the message's last byte (R436). -/
def State.dgeFill (s : State) : State :=
  match s.dge.owner with
  | some c => s.updDge fun d => { d with
      compressing := decide (c.done + blockSize c.alg ≤ c.fed.length) || decide (c.fed.length = c.len) }
  | none => s

/-- DIGEST_BLOCK_DONE (R437, R440): a block compression ends. A requester of higher priority takes over at this boundary; an internal
requester's computation is done, and the engine goes on to the next. -/
def execDigestBlockDone (s : State) : Out :=
  match s.dge.owner with
  | none => ok s
  | some c =>
    if !s.dge.compressing then ok s
    else
      let done := min c.fed.length (c.done + blockSize c.alg)
      if c.fed.length = c.len ∧ done = c.len then
        match c.who with
        | .host g => ok ((s.dgeResult g c.alg (digestOf c.alg ((s.keyOf c.slot).getD []) c.fed)).dgeRelease)
        | _ => ok s.dgeRelease
      else
        let c' := { c with done := done }
        let s1 := s.updDge fun d => { d with owner := some c', compressing := false }
        ok (s1.dgeYield).dgeFill

/-- DIGEST_OWNER_TIMEOUT (R444): an agent that owns the engine has written no data for 1,000 beats. -/
def execDigestOwnerTimeout (s : State) : Out :=
  match s.dge.owner with
  | some c => if s.expired s.dge.lastWrite 1000 ∧ c.who.among [.hostA, .hostB, .stw] then ok ((s.dgeEnd c.who 6).dgeRelease) else ok s
  | none => ok s

/-- DIGEST_CONTEXT_EXPIRY (R444): a saved context not resumed within 1,000,000 beats is freed. One whose import runs is resumed. -/
def execDigestContextExpiry (n : BitVec 2) (s : State) : Out :=
  match Store.get none s.dge.ctx n.toNat with
  | some c => if s.expired c.beat 1000000 ∧ s.dge.importing ≠ some n.toNat then ok (s.dgeExpire n.toNat) else ok s
  | none => ok s

/-- The import of a saved state ends and its slot falls free (R443): the owner goes on from byte DGE_FED, or a wrapped state that fails
its integrity check ends with UNWRAP. -/
def State.dgeImported (s : State) (n : Nat) (intact : Bool) : State :=
  let s1 := s.dgeFree n
  match s.dge.owner, Store.get none s.dge.ctx n with
  | some c, some x =>
    match if 2 ≤ c.alg ∧ !intact then none else s.dgeRestored x with
    | none => (s1.dgeEnd c.who 11).dgeRelease
    | some fed =>
      let s2 := s1.updDge fun d => { d with owner := some { c with fed := fed }, lastWrite := s.glb.beat }
      let s3 := match c.who with
        | .host g => s2.set (DGE_FED_BYTES g) fed.length
        | _ => s2
      s3.dgeYield.dgeFill
  | _, _ => s1.dgeRelease

/-- CONTEXT_EXPORT_IMPORT_DONE (R440, R443): the transfer ends; an export hands the engine to the new owner. `intact` says that the unwrap
of an imported state passes its integrity check (R441). -/
def execContextExportImportDone (intact : Bool) (s : State) : Out :=
  let s1 := s.updDge fun d => { d with transfer := 0, importing := none }
  if s.dge.transfer = 1 then ok (s1.dgeNext (s1.dge.wait.length + 1))
  else match s.dge.transfer, s.dge.importing with
    | 2, some n => ok (s1.dgeImported n intact)
    | _, _ => ok s1

/-- A key command acts only for the steward, with its key, while no key operation runs (R446). -/
def State.keyCmdOk (s : State) (g : Agent) (key : BitVec 16) : Bool :=
  g = .stw && key = 0x4B59 && !s.bit DGE_KEYST_BUSY

/-- An accepted swap that has not taken effect changes this slot's use or policy (R409, R445). -/
def State.slotGuarded (s : State) (n : Nat) : Bool :=
  match s.sti.shade with
  | some b => (s.get STI_STATUS_SWAP = 1 || s.get STI_STATUS_SWAP = 2)
      && decide (b.slotUse n ≠ s.img.slotUse n ∨ b.slotPolicy n ≠ s.img.slotPolicy n)
  | none => false

/-- IMPORT (R446). No swap changes a slot that holds a key (R445): DESIGN CHOICE: an import into a slot that an accepted swap changes
is refused with POLICY. The record's POLICY byte is not one of the checks: the slot's policy is the image's (DEDUCED). -/
def execImport (g : Agent) (slot : BitVec 5) (key : BitVec 16) (s : State) : Out :=
  if !s.answers g then ok s else
  if !s.keyCmdOk g key then ok s
  else
    let n := slot.toNat
    let im := s.policyImage
    match (s.keyOf im.escrowKey).bind fun e => keyUnwrap e s.keyIo with
    | none => ok (s.keyRefuse true n 2)
    | some p =>
      let k := s.slot n
      if ¬(leAt p 0 1 = n ∧ leAt p 1 1 = im.slotUse n) ∨ s.slotGuarded n then ok (s.keyRefuse true n 3)
      else if k.locked then ok (s.keyRefuse true n 4)
      else if bitOf (im.slotPolicy n) 1 && k.key.isSome then ok (s.keyRefuse true n 5)
      else
        let gen := ofBe ((p.drop 8).take 8)
        if gen ≤ k.gen then ok (s.keyRefuse true n 6)
        else ok (s.keyCell ⟨n, ⟨some ((p.drop 16).take 32), gen, k.locked, im.slotUse n, im.slotPolicy n⟩, true⟩)

/-- EXPORT (R447). -/
def execExport (g : Agent) (slot : BitVec 5) (key : BitVec 16) (s : State) : Out :=
  if !s.answers g then ok s else
  if !s.keyCmdOk g key then ok s
  else
    let n := slot.toNat
    let im := s.policyImage
    let k := s.slot n
    match k.key, s.keyOf im.escrowKey with
    | some v, some e =>
      if bitOf k.policy 0 && decide (n ≠ im.escrowKey) then
        let p := leBytes 1 n ++ leBytes 1 k.use ++ leBytes 1 k.policy ++ List.replicate 5 0 ++ beBytes 8 k.gen ++ v
        ok (((s.set DGE_KEYST_CODE 1).setB DGE_KEYST_BUSY false).setKeyIo (keyWrap e p))
      else ok (s.set DGE_KEYST_CODE 3)
    | _, _ => ok (s.set DGE_KEYST_CODE 3)

/-- LOCK (R448). -/
def execLock (g : Agent) (slot : BitVec 5) (key : BitVec 16) (s : State) : Out :=
  if !s.answers g then ok s else
  if !s.keyCmdOk g key then ok s
  else
    let k := s.slot slot.toNat
    if bitOf k.policy 2 then ok ((s.setSlot slot.toNat { k with locked := true }).keyDone 1) else ok (s.keyRefuse false 0 3)

/-- ERASE (R448, R449). -/
def execErase (g : Agent) (slot : BitVec 5) (key : BitVec 16) (s : State) : Out :=
  if !s.answers g then ok s else
  if !s.keyCmdOk g key then ok s
  else
    let k := s.slot slot.toNat
    if k.locked then ok (s.keyRefuse false 0 4)
    else if bitOf k.policy 1 then ok (s.keyRefuse false 0 5)
    else ok (s.keyCell ⟨slot.toNat, { k with key := none }, false⟩)

/-- COMPARE (R448). -/
def execCompare (g : Agent) (slot : BitVec 5) (key : BitVec 16) (s : State) : Out :=
  if !s.answers g then ok s else
  if !s.keyCmdOk g key then ok s
  else
    let k := s.slot slot.toNat
    if k.use ≠ 6 then ok (s.keyRefuse false 0 3)
    else ok (s.keyDone (if k.key = some s.dge.stwSha then 1 else 8))

/-- LOADESCROW (R447): the escrow slot takes its first key in clear. The generation it then has is not stated. -/
def execLoadescrow (g : Agent) (key : BitVec 16) (s : State) : Out :=
  if !s.answers g then ok s else
  if !s.keyCmdOk g key then ok s
  else
    let im := s.policyImage
    let n := im.escrowKey
    let d := s.draw
    if n < 32 ∧ (s.slot n).key.isNone ∧ bitOf (im.slotPolicy n) 1 ∧ !s.slotGuarded n then
      ok (d.2.keyCell ⟨n, ⟨some (s.keyIo.take 32), d.1 % (2 ^ 64 - 1) + 1, (s.slot n).locked, im.slotUse n, im.slotPolicy n⟩, false⟩)
    else ok (s.keyRefuse false 0 3)

/-- KEY_OP_SEVEN (R448): OP 7 sets POLICY and changes nothing else. -/
def execKeyOpSeven (g : Agent) (key : BitVec 16) (s : State) : Out :=
  if !s.answers g then ok s else
  if !s.keyCmdOk g key then ok s else ok (s.set DGE_KEYST_CODE 3)

/-- One slot of the key backing cell at power-on (R449). -/
def State.loadSlot (s : State) (table : List Byte) (n : Nat) : State :=
  let e := (table.drop (64 * n)).take 64
  let old := s.slot n
  if e.all (· = 0) then s.setSlot n { old with key := none, gen := 0 }
  else match keyUnwrap (leBytes 32 Config.deviceKey.toNat) ((e.drop 16).take 40) with
    | some k => s.setSlot n ⟨some k, leAt e 8 8, old.locked, leAt e 1 1, leAt e 2 1⟩
    | none => (s.setSlot n { old with key := none, gen := 0 }).event 0x0E04 (srcKey n)

/-- KEY_SLOT_LOAD (R449): at power-on of domain 94 every slot loads from the record in force. -/
def execKeySlotLoad (s : State) : Out :=
  if !s.domOn 94 ∨ s.dge.loaded then ok s
  else
    let s1 := s.updDge fun d => { d with loaded := true }
    match s.cell 6 with
    | some r => ok ((List.range 32).foldl (fun t n => t.loadSlot r.payload n) s1)
    | none => ok s1

end Sys2Proof.Machine
end

