-- ==== Sys2Proof/Machine/LinkOps.lean ====
section
/-! DEFINITION. The mirror link as the blocks use it: frames, flits, the transmitter and its replay buffer (R286 to R311). -/

namespace Sys2Proof.Machine

/-- Lanes and first logical lane of a width attempt (Table: Width attempts). -/
def attWidth (a : Nat) : Nat := if a = 0 then 16 else if a ≤ 2 then 8 else 4
def attFirst (a : Nat) : Nat := if a ≤ 1 then 0 else if a = 2 then 8 else 4 * (a - 3)

/-- The logical lanes of an attempt. -/
def attLanes (a : Nat) : List Nat := (List.range (attWidth a)).map (· + attFirst a)

/-- The code of a width in MLK_STATUS.WIDTH. -/
def widthCode (w : Nat) : Nat := if w = 16 then 3 else if w = 8 then 2 else if w = 4 then 1 else 0

/-- The frame code RS(544,514) over GF(2^10) (R297). -/
def frameCode : Code := ⟨10, 0x409, 0, 30⟩

/-- `n` bits of a number, the most significant first. -/
def bitsHi (n v : Nat) : List Nat := (List.range n).map fun i => bits v (n - 1 - i) 1

/-- Numbers of ten bits each, the first bit the most significant (R298). -/
def tens (l : List Nat) (n : Nat) : List Nat :=
  (List.range n).map fun k => (List.range 10).foldl (fun a j => 2 * a + l.getD (10 * k + j) 0) 0

/-- The codeword header (Table: Codeword header). -/
def frameHeader (kind fcnt att : Nat) (chk rtrn : Bool) : Nat :=
  kind + 4 * fcnt + 2 ^ 14 * att + 2 ^ 17 * b2n chk + 2 ^ 18 * b2n rtrn

/-- The 544 symbols of a flit frame (R297, R298). -/
def flitFrame (hdr : Nat) (flits : List Byte) : List Nat :=
  let m := tens (bitsHi 20 hdr ++ flits.flatMap fun b => bitsHi 8 b.toNat) 514
  m ++ frameCode.checks m

/-- The 544 symbols of a marker frame (R300). -/
def markerFrame (hdr w : Nat) : List Nat :=
  let m := tens (bitsHi 20 hdr) 2 ++ (List.range 512).map fun i => 0x3C0 + (i + 2) % w
  m ++ frameCode.checks m

/-- The symbols of a received frame. -/
def frameSyms (f : Frame) : List Nat := (List.range 544).map fun i => bits f.toNat (10 * i) 10

/-- The header and the 640 bytes of a decoded frame. -/
def frameParts (w : List Nat) : Nat × List Byte :=
  let b := (w.take 514).flatMap (bitsHi 10)
  ((b.take 20).foldl (fun a x => 2 * a + x) 0,
    (List.range 640).map fun i => BitVec.ofNat 8 ((List.range 8).foldl (fun a j => 2 * a + b.getD (20 + 8 * i + j) 0) 0))

/-- `n` steps of the CRC-64 register. -/
def crc64Shift : Nat → Nat → Nat
  | 0, c => c
  | n + 1, c => crc64Shift n (if bitOf c 63 then (2 * c % 2 ^ 64) ^^^ 0x42F0E1EBA9EA3693 else 2 * c)

/-- The CRC-64 of ECMA-182 over bytes, most significant bit first, from 0 (R303). -/
def crc64 (l : List Byte) : Nat := l.foldl (fun c b => crc64Shift 8 (c ^^^ (b.toNat * 2 ^ 56))) 0

/-- The 320 bytes of a flit (R302). -/
def flitBytes (seq ack ftype txf crdc : Nat) (payload : List Byte) : List Byte :=
  let h := seq + 2 ^ 16 * ack + 2 ^ 32 * ftype + 2 ^ 40 * txf + 2 ^ 44 * crdc
  let b := leBytes 8 h ++ (payload ++ List.replicate 304 0).take 304
  b ++ beBytes 8 (crc64 b)

/-- The link is up. -/
def State.linkUp (s : State) : Bool := s.get MLK_STATUS_LSTATE = 3

/-- RECOV stands in this beat (R60, R313). -/
def State.markRecov (s : State) : State := s.updMlk fun m => { m with recovBeat := true }

/-- The span of the attempt's receive check has not ended yet: what follows it changes nothing (R291). -/
def State.checking (s : State) : Bool :=
  match s.mlk.lockBeat with
  | some b => !s.expired b 1000
  | none => true

/-- The receive check of the attempt has passed: 1,000 beats after the lock without a fault (R291). -/
def State.chkPass (s : State) : Bool :=
  match s.mlk.lockBeat with
  | some b => s.expired b 1000 && s.mlk.attFail = 0 && !s.mlk.attUncorr
  | none => false

/-- A lane is bad: its bit and event 0x0807. -/
def State.badLane (s : State) (n : Nat) : State := (s.setB (MLK_LANE_BAD n) true).event 0x0807 (srcLane n)

/-- Enter an attempt (R291). -/
def State.enterAtt (s : State) (a : Nat) : State :=
  (List.range 16).foldl (fun t n => t.setB (MLK_LANE_LOCK n) false) (s.updMlk fun m => { m with
    att := a, attStart := s.glb.beat, lock := [], lockBeat := none, attFail := 0, attUncorr := false, attCorr := [] })

/-- Every lane idle and nothing kept: what a link that is not in use holds (R294). -/
def State.linkClear (s : State) : State :=
  let s1 := ((s.set MLK_STATUS_LSTATE 0).set MLK_STATUS_ATT 0).set MLK_STATUS_WIDTH 0
  (List.range 16).foldl (fun t n => t.setB (MLK_LANE_LOCK n) false) (s1.updMlk fun m => { Mlk.reset with
    downAt := m.downAt, proto := m.proto, winStart := m.winStart, recovBeat := m.recovBeat,
    injCrc := m.injCrc, injLane := m.injLane })

/-- The flit that the transmitter sends next: FTYPE, sequence, TXF, payload, and whether it is a new data flit (R304 to R308). -/
def State.nextFlit (s : State) : (Nat × LFlit × Bool) × State :=
  let m := s.mlk
  let idle : LFlit := ⟨m.txnext, 0, []⟩
  if m.nakSend && decide (2 ≤ s.get MLK_STATUS_LSTATE) then ((2, idle, false), (s.updMlk fun m => { m with nakSend := false }).count MLK_RPLCNT_NAK_TX 1)
  else if !s.linkUp then ((0, idle, false), s)
  else match m.replay with
    | some q =>
      match m.buf.find? fun f => f.seq = q with
      | some f =>
        let more := m.buf.any fun g => g.seq = (q + 1) % 65536
        ((1, f, false), s.updMlk fun m => { m with replay := if more then some ((q + 1) % 65536) else none })
      | none => ((0, idle, false), s.updMlk fun m => { m with replay := none })
    | none =>
      match m.txq with
      | f :: rest =>
        if m.buf.length < 512 ∧ 1 ≤ m.credit then
          let g : LFlit := { f with seq := m.txnext }
          ((1, g, true), s.updMlk fun m => { m with
            txq := rest, buf := m.buf ++ [g], txnext := (m.txnext + 1) % 65536, sentNew := (m.sentNew + 1) % 4096,
            timer := if m.buf.isEmpty then some s.glb.beat else m.timer })
        else ((0, idle, false), s)
      | [] => ((0, idle, false), s)

/-- Corrupt symbols of a frame on a lane: which error each takes is open (R301, MLK_CMD.INJ_LANE). -/
def corruptLane (w first lane n x : Nat) (l : List Nat) : List Nat :=
  (List.range l.length).map fun i =>
    if i % w + first = lane ∧ i / w < n then l.getD i 0 ^^^ (1 + x % 1023) else l.getD i 0

/-- The level of a bit pair in Gray code (R299). PRESUMED: 00, 01, 11, 10 are the levels 0 to 3, as IEEE 802.3 maps PAM4. -/
def grayLevel (p : Nat) : Nat := if p = 0 then 0 else if p = 1 then 1 else if p = 3 then 2 else 3

/-- The five levels of a symbol, bits 9:8 first (R299). -/
def symbolLevels (c : Nat) : List Nat := [8, 6, 4, 2, 0].map fun i => grayLevel (bits c i 2)

/-- The symbols of a codeword that the `j`-th lane of `w` carries, in their order (R299). -/
def laneSymbols (w j : Nat) (l : List Nat) : List Nat := (List.range (544 / w)).map fun i => l.getD (i * w + j) 0

/-- Precoded levels after the level `p`: each is the level to send less the one sent before it, modulo 4. PRESUMED: the precoder of
IEEE 802.3ck. -/
def precodeLevels : Nat → List Nat → List Nat
  | _, [] => []
  | p, g :: rest => ((g + 4 - p % 4) % 4) :: precodeLevels ((g + 4 - p % 4) % 4) rest

/-- A frame leaves on the lanes of the attempt in use: its codeword, and the levels on each lane (R299). -/
def State.emitFrame (s : State) (l : List Nat) : State :=
  let a := s.mlk.att
  let out := (attLanes a).map fun n =>
    let g := (laneSymbols (attWidth a) (n - attFirst a) l).flatMap symbolLevels
    (n, if bitOf s.mlk.precode n then precodeLevels (Store.get 0 s.mlk.level n) g else g)
  let last := out.foldl (fun (x : Store Nat) o => Store.put 0 x o.1 (o.2.getLastD 0)) s.mlk.level
  ((s.emit (.frame l)).emit (.lanes out)).updMlk fun m => { m with level := last }

/-- Send one flit: frames leave in pairs of flits, with a marker frame where FCNT is 0 (R298 to R302). -/
def State.sendFlit (s : State) : State :=
  let c := s.nextFlit
  let ft := c.1.1
  let fl := c.1.2.1
  let s1 := c.2
  let b := flitBytes fl.seq ((s1.mlk.expect_ + 65535) % 65536) ft fl.txf s1.mlk.freed fl.data
  let hit := c.1.2.2 && s1.mlk.injCrc
  let d := s1.draw
  let s2 := if hit then d.2.updMlk fun m => { m with injCrc := false } else s1
  let b2 := if hit then b.take 312 ++ beBytes 8 (ofBe (b.drop 312) ^^^ (1 + d.1 % (2 ^ 64 - 1))) else b
  let w := attWidth s.mlk.att
  let chk := s2.linkUp || s2.chkPass
  let hdr := fun (kind fcnt : Nat) => frameHeader kind fcnt s.mlk.att chk s.mlk.rtrn.isSome
  let s3 := if s2.mlk.fcnt = 0 then
      (s2.emitFrame (markerFrame (hdr 1 0) w)).updMlk fun m => { m with fcnt := 1 } else s2
  match s3.mlk.half with
  | none => s3.updMlk fun m => { m with half := some b2 }
  | some a =>
    let f := flitFrame (hdr 0 s3.mlk.fcnt) (a ++ b2)
    let e := s3.draw
    let out := match s3.mlk.injLane with
      | some (lane, n) => (corruptLane w (attFirst s.mlk.att) lane n e.1 f, e.2.updMlk fun m => { m with injLane := none })
      | none => (f, s3)
    (out.2.emitFrame out.1).updMlk fun m => { m with half := none, fcnt := (m.fcnt + 1) % 4096 }

/-- Send the data flits that wait, as far as credit and the replay buffer allow, before the lanes go idle. -/
def State.linkFlush : Nat → State → State
  | 0, s => s
  | n + 1, s => if s.mlk.txq.isEmpty && s.mlk.half.isNone then s else State.linkFlush n s.sendFlit

/-- Port M goes to electrical idle on the controller's own account: a quarantine, the shed mirror domains, or MLK_CTRL.EN = 0, after
which nothing more leaves (R295). -/
def State.linkIdle (s : State) : State :=
  if s.get MLK_STATUS_LSTATE = 0 then s
  else ((if s.linkUp && s.bit MLK_CTRL_EN then State.linkFlush (s.mlk.txq.length + 2) s else s).linkClear).updMlk fun m => { m with downAt := none }

end Sys2Proof.Machine
end

