-- ==== Sys2Proof/Machine/MtxOps.lean ====
section
/-! DEFINITION. The mirror transaction layer as the blocks use it: records sent, the pair record, the ring and the lost set,
session ends, fault marks, adoption (R315 to R345). -/

namespace Sys2Proof.Machine

/-- The pair key (R315). -/
def State.pairKey (s : State) : Option (List Byte) := s.keyOf s.img.pairKey

/-- The highest sequence of the peer that has been processed, H (R328). -/
def State.peerThru (s : State) : Nat := s.get64 MTX_PEERTHRU_LO_VALUE MTX_PEERTHRU_HI_VALUE

/-- The bytes of a pair record (Table: Pair record, Table: Cell contents). -/
def PairRec.bytes (p : PairRec) : List Byte :=
  leBytes 8 p.peerId ++ leBytes 8 p.sessCnt ++ leBytes 8 p.mgenSend ++ leBytes 8 p.mgenHeld
    ++ leBytes 1 (b2n p.syncing + 2 * b2n p.gap) ++ leBytes 7 0 ++ leBytes 8 p.phzA ++ leBytes 8 p.phzB

/-- The pair record that a payload spells. -/
def pairOf (l : List Byte) : PairRec :=
  ⟨leAt l 0 8, leAt l 8 8, leAt l 16 8, leAt l 24 8, bitOf (leAt l 32 1) 0, bitOf (leAt l 32 1) 1, leAt l 40 8, leAt l 48 8⟩

/-- The registers that show the pair record and the held peer horizons (R317, R333). -/
def State.showPair (s : State) : State :=
  let p := s.mtx.pair
  ((((((s.set64 MTX_MGEN_SEND_LO_VALUE MTX_MGEN_SEND_HI_VALUE p.mgenSend).set64 MTX_MGEN_HELD_LO_VALUE
    MTX_MGEN_HELD_HI_VALUE p.mgenHeld).set64 MTX_PEERID_LO_VALUE MTX_PEERID_HI_VALUE p.peerId).set64 MTX_APHZ_A_LO_VALUE
    MTX_APHZ_A_HI_VALUE p.phzA).set64 MTX_APHZ_B_LO_VALUE MTX_APHZ_B_HI_VALUE p.phzB).setB MTX_STATUS_SYNCING p.syncing).setB
    MTX_STATUS_GAP p.gap

/-- Change the pair record's values. -/
def State.updPair (s : State) (f : PairRec → PairRec) : State := (s.updMtx fun m => { m with pair := f m.pair }).showPair

/-- Write the pair record (R317); `busy` holds later records until it commits (R336). -/
def State.writePair (s : State) (busy : Bool) : State :=
  (s.updMtx fun m => { m with pairBusy := m.pairBusy || busy }).flashWrite (.cell 3 s.mtx.pair.bytes)

/-- The pair record in force is taken over: the running counter starts at its ceiling (R319). -/
def State.loadPair (s : State) : State :=
  match s.cell 3 with
  | some r => (s.updMtx fun m => { m with pair := pairOf r.payload, count := (pairOf r.payload).sessCnt }).showPair
  | none => s

/-- Port M's registers take their reset values and the pair record is loaded again (R484); the running counter, the filtered
PARTNER_ALIVE_IN, the received cursors and how the partner's last session ended stay. -/
def State.mirrorReset (s : State) : State :=
  let s1 := (s.dropRegs fun k => keyBlock k = 7 || keyBlock k = 8).setB MTX_STATUS_ALIVE_IN (s.bit MTX_STATUS_ALIVE_IN)
  let p := if !s.domOn 95 then s.mtx.pair else match s.cell 3 with | some r => pairOf r.payload | none => Mtx.reset.pair
  State.showPair { s1 with mlk := Mlk.reset, mtx := { Mtx.reset with
    count := s.mtx.count, pairBeat := s.mtx.pairBeat, aliveLow := s.mtx.aliveLow, clean := s.mtx.clean, pair := p
    cursors := s.mtx.cursors, faultEnd := s.mtx.faultEnd } }

/-- Port M's domains are on again at a warm resume (R484): what is no register stays, the lost set, the open break and the
acknowledgements with it (R332, R338). -/
def State.mirrorRepower (s : State) : State :=
  let m := s.mtx
  s.mirrorReset.updMtx fun x => { x with
    lost := m.lost, lostValid := m.lostValid && !s.bit MTX_STATUS_LOSTOVF, peerAck := m.peerAck, brk := m.brk
    newStamp := m.newStamp, resync := m.resync, gone := m.gone, lenBeats := m.lenBeats, protoBeats := m.protoBeats
    adoptBeat := m.adoptBeat, adoptThru := m.adoptThru, hold := m.hold }

/-- Send a clear data flit (R322, R323). -/
def State.sendClear (s : State) (b : List Byte) : State :=
  s.updMlk fun m => { m with txq := m.txq ++ [⟨0, 0, (b ++ List.replicate 304 0).take 304⟩] }

/-- Close the open group: seal it and queue its sixteen flits (R323, R324, R326). -/
def State.closeGroup (s : State) : State :=
  if s.mtx.open_.isEmpty then s
  else
    let plain := (s.mtx.open_ ++ List.replicate 4848 0).take 4848
    let first := (s.mlk.txnext + s.mlk.txq.length) % 65536
    let aad := beBytes 8 s.mtx.gTx ++ beBytes 2 first ++ List.replicate 6 0
    let e := gcmSeal s.mtx.keyTx (s.mtx.saltTx ++ beBytes 8 s.mtx.gTx) aad plain
    let all := e.1 ++ e.2
    let flits := (List.range 16).map fun i => (⟨0, if i = 0 then 3 else 1, (all.drop (304 * i)).take 304⟩ : LFlit)
    (s.updMlk fun m => { m with txq := m.txq ++ flits }).updMtx fun m => { m with open_ := [], gTx := m.gTx + 1 }

/-- Send a record in an encrypted group; no record crosses a group (R326, R327). -/
def State.sendRec (s : State) (b : List Byte) : State :=
  let s1 := if 4848 < s.mtx.open_.length + b.length then s.closeGroup else s
  s1.updMtx fun m => { m with open_ := m.open_ ++ b }

/-- The layouts of the records that are sent (Table: Record layouts). -/
def recWrite (flags ocls len seq caddr be : Nat) : List Byte :=
  leBytes 1 1 ++ leBytes 1 flags ++ leBytes 1 ocls ++ leBytes 1 0 ++ leBytes 2 len ++ leBytes 2 0 ++ leBytes 6 seq
    ++ leBytes 2 0 ++ leBytes 8 caddr ++ leBytes 8 be
def recData (last : Bool) (seq : Nat) (lines : List Line) : List Byte :=
  leBytes 1 2 ++ leBytes 1 (b2n last) ++ leBytes 1 lines.length ++ leBytes 1 0 ++ leBytes 4 seq
    ++ lines.flatMap fun l => leBytes 64 l.toNat
def recAck (kind reason seq : Nat) : List Byte :=
  leBytes 1 3 ++ leBytes 1 kind ++ leBytes 2 reason ++ leBytes 4 0 ++ leBytes 6 seq ++ leBytes 2 0
def recStamp (port v tail : Nat) : List Byte :=
  leBytes 1 4 ++ leBytes 1 port ++ leBytes 6 0 ++ leBytes 8 v ++ leBytes 6 tail ++ leBytes 2 0
def recSync (kind mgen seq : Nat) : List Byte :=
  leBytes 1 6 ++ leBytes 1 kind ++ leBytes 6 0 ++ leBytes 8 mgen ++ leBytes 6 seq ++ leBytes 2 0
def recTakeover (beat mgen thru : Nat) : List Byte :=
  leBytes 1 7 ++ leBytes 7 0 ++ leBytes 8 beat ++ leBytes 8 mgen ++ leBytes 6 thru ++ leBytes 2 0
def recRefuse (reason : Nat) : List Byte := leBytes 1 10 ++ leBytes 1 reason ++ leBytes 6 0

/-- Add granules to the lost set; those that do not fit overflow it (R332). -/
def State.lose (s : State) (gs : List Nat) : State :=
  gs.foldl (fun t g =>
    if t.mtx.lost.contains g then t
    else if t.mtx.lost.length < 8192 then t.updMtx fun m => { m with lost := m.lost ++ [g] }
    else t.setB MTX_STATUS_LOSTOVF true) s

/-- A break opens at a sequence, or stays open from an earlier one (R332). -/
def State.openBreak (s : State) (q : Nat) : State :=
  s.updMtx fun m => { m with brk := some (match m.brk with | some b => min b q | none => q) }

/-- acked_through as it follows from the acknowledgements and the open break (R332). -/
def State.ackShow (s : State) : State :=
  let q := match s.mtx.brk with | some b => min (b - 1) s.mtx.peerAck | none => s.mtx.peerAck
  if s.acked < q then s.ackRise q else s

/-- The acknowledgement of a REPAIRED or END closes the break and empties the lost set (R335, R336), but for the granules and the break of
sequences that were refused behind it, and of those refused behind a full sync's re-mirror. -/
def State.syncAcked (s : State) : State :=
  let rep := s.mtx.sync = 1
  let s1 := s.updMtx fun m => { m with
    brk := m.brkNew, brkNew := none, endSeq := none, sync := 0, lost := m.lostNew, lostNew := [], lostValid := true }
  let s2 := (((s1.set MTX_STATUS_SENDSYNC 0).setB MTX_STATUS_LOSTOVF false).set MTX_SYNCPROG_PCT 0).set MTX_SYNCPROG_CLASS 0
  if rep then s2.event 0x0913 0 else s2

/-- The partner acknowledges everything through a sequence (R332): a write that waits for its own sequence completes, an open
break or none (R89). -/
def State.ackThrough (s : State) (q0 : Nat) : State :=
  let q := min q0 s.pq.lastSeq
  let s0 := s.aamDone fun a => decide (a.seq ≤ q) && !a.refused
  let s1 := s0.updMtx fun m => { m with ring := m.ring.filter fun r => q < r.seq, peerAck := max m.peerAck q }
  let s2 := match s1.mtx.endSeq with | some e => if e ≤ q then s1.syncAcked else s1 | none => s1
  s2.ackShow

/-- A refusal during a repair or a full sync (R332, R335): the repair sends the granule again before its REPAIRED; behind a REPAIRED or END,
and in a full sync, it stays for the next repair. -/
def Mtx.refusedNow (m : Mtx) (q : Nat) (g : List Nat) : Mtx :=
  let behind : Bool := match m.endSeq with | some e => decide (e < q) | none => false
  let m1 := if m.sync = 1 ∧ m.endSeq.isNone then { m with todo := m.todo ++ g.filter fun x => !m.todo.contains x }
    else if m.sync = 3 ∨ behind then { m with lostNew := m.lostNew ++ g.filter fun x => !m.lostNew.contains x }
    else m
  if behind then { m1 with brkNew := some (match m.brkNew with | some b => min b q | none => q) } else m1

/-- The partner refuses a sequence: its granule is lost and a break opens (R332). -/
def State.ackRefused (s : State) (q : Nat) : State :=
  match s.mtx.ring.find? fun r => r.seq = q with
  | none => s
  | some r =>
    let s1 := s.updPq fun x => { x with aam := x.aam.map fun a => if a.seq = q then { a with refused := true } else a }
    ((s1.updMtx fun m => ({ m with ring := m.ring.filter fun x => x.seq ≠ q }).refusedNow q r.granule.toList).lose (r.granule.toList)).openBreak q

/-- Send the stamps whose tails have been sent (R95, R100). -/
def State.sendStamps (s : State) : State :=
  let unsent := fun (tail : Nat) => s.pq.entries.any fun e => !e.sent && (match e.seq with | some q => decide (q ≤ tail) | none => false)
  let go := s.mtx.stampQ.filter fun x => !unsent x.2.2
  go.foldl (fun t x => t.sendRec (recStamp x.1 x.2.1 x.2.2)) (s.updMtx fun m => { m with
    stampQ := m.stampQ.filter fun x => unsent x.2.2 })

/-- The stamp transaction of an accepted stamp (R95): it needs a session. -/
def State.sendStamp (s : State) (p : Port) (v tail : Nat) : State :=
  if s.sessionUp then (s.updMtx fun m => { m with stampQ := m.stampQ ++ [(p.num, v, tail)] }).sendStamps else s

/-- A session, or a setup, ends with what it held (R322): `cause` of Table: Session end causes where the session was up. -/
def State.sessionEnd (s : State) (cause : Nat) : State :=
  let was := s.get MTX_STATUS_SESSION
  let s1 := (s.set MTX_STATUS_SESSION 0).updMtx fun m => { m with
    myHello := [], peerHello := [], helloWait := false, respSent := false, keyTx := [], keyRx := [], saltTx := [],
    saltRx := [], kconf := [], open_ := [], plain := [], wr := none, zeroSeq := none, raised := false, stampQ := [] }
  let s2 := s1.updMlk fun m => { m with rx := [], freed := (m.freed + m.rx.length) % 4096 }
  if was ≠ 2 then s2
  else
    let gs := s.mtx.ring.filterMap RingEntry.granule
    let s3 := (s2.updMtx fun m => { m with
      ring := [], hold := some (s.glb.beat, 10000), hbLast := s.glb.beat, endSeq := none, todo := [], sync := 0, starts := 0, pendSync := none,
      brkNew := none, lostNew := [],
      faultEnd := decide (cause = 5) }).lose gs
    let s4 := match s.mtx.ring with | r :: _ => s3.openBreak r.seq | [] => s3
    (((((s4.set MTX_STATUS_SENDSYNC 0).set MTX_SYNCPROG_PCT 0).set MTX_SYNCPROG_CLASS 0).event 0x0902 (srcCause cause)).raise 18).aamRelease

/-- This side ends the session with a REFUSE of reason 8, which it records (R321, R322). -/
def State.sessionQuit (s : State) (cause : Nat) : State :=
  if s.sessionUp then ((s.sendClear (recRefuse 8)).event 0x0903 (srcCause 8)).sessionEnd cause
  else if s.get MTX_STATUS_SESSION = 1 then s.sessionEnd cause else s

/-- A fault mark (R338, R339): the session ends, the quarantine begins, port M goes idle. -/
def State.faultMark (s : State) : State :=
  let s1 := ((s.setB MTX_STATUS_FAULTY true).event 0x0908 0).raise 19
  let s2 := (if s1.sessionUp then ((s1.sendClear (recRefuse 8)).event 0x0903 (srcCause 8)).sessionEnd 5 else s1.sessionEnd 5).updMtx fun m =>
    { m with faultEnd := true, quarStart := s.glb.beat }
  let s3 := (s2.set MTX_QUAR_LEVEL (min 5 (s.get MTX_QUAR_LEVEL + 1))).setB MTX_STATUS_QUAR true
  (s3.event 0x0909 0).linkIdle

/-- A transaction protocol error: the 16th within 1,000,000 beats places a fault mark (R338). -/
def State.mtxProto (s : State) : State :=
  let l := s.glb.beat :: s.mtx.protoBeats.filter fun b => decide (s.glb.beat ≤ b + 1000000)
  let s1 := (s.count MTX_FAULTCNT_PROTO 1).updMtx fun m => { m with protoBeats := l }
  if 16 ≤ l.length then (s1.updMtx fun m => { m with protoBeats := [] }).faultMark else s1

/-- A session is refused (R321): REFUSE with the reason, event 0x0903, and another HELLO after 100,000 beats. -/
def State.sessionRefuse (s : State) (reason : Nat) : State :=
  let s1 := ((s.sendClear (recRefuse reason)).event 0x0903 (srcCause reason)).sessionEnd 1
  (if reason = 2 then s1.setB MTX_STATUS_MAPERR true else s1).updMtx fun m => { m with hold := some (s.glb.beat, 100000) }

/-- The class lists of R405: the mirrored classes of an image, and the sender-side triples of its extents. -/
def Image.sendList (i : Image) : List Byte :=
  ([0, 1, 2].filter i.mirrorBit).flatMap fun c => leBytes 1 c ++ leBytes 8 (i.base c) ++ leBytes 8 (i.size c)
def Image.recvList (i : Image) : List Byte :=
  (List.range i.next).flatMap fun x => leBytes 1 (i.extClass x) ++ leBytes 8 (i.extBase x) ++ leBytes 8 (i.extLen x)

/-- The HELLO of this side (R319, Table: Record layouts). -/
def State.helloBytes (s : State) (key : List Byte) : List Byte :=
  let nonce := hmacSha256 key (ascii "TV4100 NONCE" ++ beBytes 8 Config.dieId.toNat ++ beBytes 8 s.mtx.count)
  leBytes 1 8 ++ leBytes 1 1 ++ leBytes 6 0 ++ leBytes 8 Config.dieId.toNat ++ nonce ++ leBytes 8 s.mtx.count
    ++ leBytes 8 s.mtx.pair.mgenSend ++ leBytes 8 (if s.mtx.pair.syncing then 0 else s.mtx.pair.mgenHeld)
    ++ leBytes 6 s.peerThru ++ leBytes 2 0 ++ leBytes 6 (s.pq.lastSeq + 1) ++ leBytes 2 0 ++ sha256 s.img.sendList
    ++ sha256 s.img.recvList

/-- Send the HELLO (R319 step 3). -/
def State.sendHello (s : State) : State :=
  match s.pairKey with
  | none => s
  | some k =>
    let h := s.helloBytes k
    ((s.dgeRequest .mirror).sendClear h).updMtx fun m => { m with myHello := h, helloWait := false, helloBeat := s.glb.beat }

/-- An accepted swap guards class M: no mirror session starts until it takes effect (R411). DESIGN CHOICE: a setup that runs then stands
still, and its time limit (R319) ends it. -/
def State.mirrorGuarded (s : State) : Bool := bitOf s.sti.guardClasses 4

/-- The session keys (R320). -/
def State.deriveKeys (s : State) (key mine peer : List Byte) : State :=
  let low := leAt mine 8 8 < leAt peer 8 8
  let h0 := if low then mine else peer
  let h1 := if low then peer else mine
  let okm := hkdf ((h0.drop 16).take 32 ++ (h1.drop 16).take 32) key
    (ascii "TV4100 MTX 1" ++ beBytes 8 (leAt h0 8 8) ++ beBytes 8 (leAt h1 8 8)) 104
  let cut := fun (a n : Nat) => (okm.drop a).take n
  (s.dgeRequest .mirror).updMtx fun m => { m with
    keyTx := if low then cut 0 32 else cut 32 32, keyRx := if low then cut 32 32 else cut 0 32,
    saltTx := if low then cut 64 4 else cut 68 4, saltRx := if low then cut 68 4 else cut 64 4,
    kconf := cut 72 32, gTx := 0, gRx := 0 }

/-- The response of a side: HMAC over both HELLOs and the side (R320). -/
def State.responseOf (s : State) (mine : Bool) : List Byte :=
  let low := leAt s.mtx.myHello 8 8 < leAt s.mtx.peerHello 8 8
  let h0 := if low then s.mtx.myHello else s.mtx.peerHello
  let h1 := if low then s.mtx.peerHello else s.mtx.myHello
  hmacSha256 s.mtx.kconf (h0 ++ h1 ++ leBytes 1 (if low = mine then 0 else 1))

/-- The first reason to refuse a peer's HELLO (R321); 0 stands for none. -/
def State.helloReason (s : State) (h : List Byte) : Nat :=
  if leAt h 1 1 ≠ 1 then 1
  else if leAt h 8 8 = Config.dieId.toNat then 7
  else if (h.drop 88).take 32 ≠ sha256 s.img.recvList ∨ (h.drop 120).take 32 ≠ sha256 s.img.sendList then 2
  else if s.glb.st ≠ .serve then 6
  else 0

/-- Both HELLOs are known: check the peer's, derive the keys, send RESPONSE (R319 steps 4 and 5). -/
def State.setupStep (s : State) : State :=
  if s.mtx.myHello = [] ∨ s.mtx.peerHello = [] ∨ s.mtx.respSent = true ∨ s.mirrorGuarded = true then s
  else if s.helloReason s.mtx.peerHello ≠ 0 then s.sessionRefuse (s.helloReason s.mtx.peerHello)
  else
    let s1 := s.deriveKeys (s.pairKey.getD []) s.mtx.myHello s.mtx.peerHello
    ((s1.dgeRequest .mirror).sendClear (leBytes 1 9 ++ leBytes 7 0 ++ s1.responseOf true)).updMtx fun m => { m with respSent := true }

/-- A pair-record write has committed or failed: what waits for it goes on. A HELLO waits for the write that raises its ceiling (R319),
records wait for the write that carries the BEGIN's generation (R336). -/
def State.pairCommitted (s : State) (b : List Byte) (good : Bool) : State :=
  let s1 := s.updMtx fun m => { m with
    pairBusy := m.pairBusy && !((pairOf b).mgenHeld = m.pair.mgenHeld && (pairOf b).syncing = m.pair.syncing)
    pairBeat := if good then s.beat else m.pairBeat }
  if !s.mtx.helloWait ∨ (pairOf b).sessCnt < s.mtx.count then s1
  else if good then s1.sendHello.setupStep
  else (s1.sessionEnd 1).updMtx fun m => { m with hold := some (s.glb.beat, 100000) }

/-- Class M granules of one extent that lie beyond the received cursor of its class (R342). -/
def State.beyondCursor (s : State) (x : Nat) : List Nat :=
  let c := s.img.extClass x
  let cur := Store.get 0 s.mtx.cursors c
  ((List.range (s.img.extLen x / 4096)).filter fun i => cur ≤ s.img.extBase x + 4096 * i).map fun i =>
    (s.img.base 4 + s.img.extOff x) / 4096 + i

/-- The controller adopts the class M data (R342): INCOMPLETE, SUSPECT and HZVALID, and a trickle of the region at full rate; `thru` is the last
sequence of the adopted copy (R344). -/
def State.adoptMirror (s : State) (thru : Nat) : State :=
  if s.mtx.pair.mgenHeld = 0 ∨ s.bit MTX_ADOPT_ACTIVE then s
  else
    let inc := s.mtx.pair.syncing
    let gs := if inc then (List.range s.img.next).flatMap s.beyondCursor else []
    let s1 := gs.foldl (fun t g => ((List.range 64).foldl (fun u i => u.writeLine (64 * g + i) ⟨0, true⟩)
      (t.updCch fun c => { c with unrest := cutRange c.unrest g })).markDirty g) (s.updMtx fun m => { m with
        adoptBeat := s.beat, adoptThru := thru })
    let s2 := (((s1.setB MTX_ADOPT_ACTIVE true).setB MTX_ADOPT_INCOMPLETE inc).setB MTX_ADOPT_SUSPECT s.mtx.faultEnd).setB
      MTX_ADOPT_HZVALID (decide (s.vlt.crownBeat ≤ s.mtx.pairBeat))
    (((s2.event 0x090E 0).raise 20)).enqueue 3 4 0 (s.img.size 4 / 4096) (s.img.base 4 / 4096) 0 false

end Sys2Proof.Machine
end

