-- ==== Sys2Proof/Machine/StewardOps.lean ====
section
/-! DEFINITION. The steward as the blocks use it: its restart, its mailbox, the verification and staging of a package
(R450 to R460). -/

namespace Sys2Proof.Machine

/-- The steward runs, on trial or not (R451, R460). -/
def State.stwUp (s : State) : Bool := 2 ≤ s.get STW_STATUS_RUN

/-- The write of a staged payload. -/
def IWrite.isStaged : IWrite → Bool
  | .staged _ _ => true
  | _ => false

/-- A staged payload is written, or waits to be. -/
def State.staging (s : State) : Bool := s.cfl.writes.any IWrite.isStaged

/-- The write of a staged payload stops where it stands (R451, R459): the bytes of a program or of an erase that runs are open, and the
flag cell of that erase stays set. -/
def State.stagedStop (s : State) : State :=
  let d := s.draw
  let s1 := match s.cfl.op with
    | some (.internal (.staged off b)) => (d.2.updCfl fun c => c.programStaged off b false d.1).slotWritten off
    | some (.internalErase (.staged _ _) sec _) => (d.2.updCfl fun c => c.openSector sec d.1).shadeTouched sec
    | _ => s
  if s.staging then (s1.updCfl fun c => c.dropWrites IWrite.isStaged).flashNext else s

/-- A restart ends the steward's program of a staged payload with ABANDONED, and the update with it: a host that waits for its result
reads NOSTEWARD (R417, R428, R451). -/
def State.stagedAbandon (s : State) : State :=
  if !s.staging then s
  else
    let sec := match s.cfl.writes.find? IWrite.isStaged with | some (.staged off _) => off / 65536 | _ => 0
    let s1 := (s.stagedStop.flashResult .stw 9 sec).event 0x0D07 0
    let s2 := if s.stw.waits = some 1 ∨ s.stw.waits = some 2 then (s1.set STW_MBX_STAT_CODE 10).setB STW_MBX_STAT_DONE true else s1
    (s2.updStw fun w => { w with update := none, waits := none, pldm := 0 }).set STW_STATUS_UPD 0

/-- A restart of the steward ends its open work, a sideband transaction in progress among it; the boot ROM starts it again (R451, R456,
R483). It needs domain 93. -/
def State.stwRestart (s : State) : State :=
  if !s.domOn 93 then s
  else
    let s1 := (s.stagedAbandon.abandonFlash .stw).dgeDrop .stw 13
    let s2 := (s1.updDsp fun d => { d with cpl := d.cpl.set .stw [] }).updStw fun w => { w with
      i3c := false, dynAddr := 0, update := w.update.map fun u => { u with pulled := false } }
    (((s2.count STW_STATUS_RESTARTS 1).set STW_STATUS_RUN 1).set (GLB_LOCK_LOCK .stw) 0).event 0x1002 0

/-- The answer of a mailbox command: to the host's STAT and ARG registers, or on the sideband where no host sent it
(R456, Table: Steward mailbox commands). -/
def State.stwAnswer (s : State) (g : Option Port) (op code : Nat) (results : List Nat) : State :=
  match g with
  | some _ =>
    let s1 := (s.set STW_MBX_STAT_CODE code).setB STW_MBX_STAT_DONE true
    (List.range results.length).foldl (fun t i => t.set (STW_MBX_ARG_ARG i) (results.getD i 0)) s1
  | none => s.emit (.sideband (0x7E00 + op) code results)

/-- Run a mailbox command (R452): the first host owns the mailbox until STAT reads a result, and a command of the other host
changes nothing; without a steward a host reads NOSTEWARD, and the sideband is not acknowledged. -/
def State.stwCommand (s : State) (g : Option Port) (op : Nat) (f : State → State) : State :=
  match g with
  | some p =>
    if s.stw.mbxOwner.isSome && s.stw.mbxOwner ≠ some p.agent then s
    else
      let s1 := ((s.updStw fun w => { w with mbxOwner := some p.agent }).set STW_MBX_STAT_CODE 0).setB STW_MBX_STAT_DONE false
      if s1.stwUp then f s1 else s1.stwAnswer g op 10 []
  | none => if s.stwUp then f s else s

/-- The controller is unconfigured: its role cell holds no record in force (R510). -/
def State.unconfigured (s : State) : Bool := s.roles.isNone

/-- The steward may begin an update: in SERVE, or in BOOT of an unconfigured controller (R458, R510). -/
def State.mayUpdate (s : State) : Bool := s.glb.st = .serve || (s.glb.st = .boot && s.unconfigured)

/-- The result codes of the mailbox (STW_MBX_STAT.CODE). -/
def mbxOk : Nat := 1
def mbxBusy : Nat := 2
def mbxState : Nat := 9
def mbxRange : Nat := 11

/-- A package size lies in range (Table: Steward mailbox commands). -/
def packageSize (n : Nat) : Bool := 289 ≤ n && n ≤ 2097440

/-- Begin an update (R458). -/
def State.updateBegin (s : State) (viaPldm : Bool) (size : Nat) : State :=
  (s.updStw fun w => { w with update := some ⟨viaPldm, size, [], false⟩, staged := none, waits := none }).set STW_STATUS_UPD 1

/-- Take the next bytes of the package. -/
def State.updateTake (s : State) (b : List Byte) : State :=
  s.updStw fun w => { w with update := w.update.map fun u => { u with bytes := u.bytes ++ b, pulled := false } }

/-- Drop the update and the staged payload (Table: Steward mailbox commands, UPDATE_CANCEL); a write of it stops. -/
def State.updateDrop (s : State) : State :=
  let s1 := s.stagedStop.updStw fun w => { w with update := none, staged := none, waits := none }
  if s.get STW_STATUS_UPD = 4 then s1 else s1.set STW_STATUS_UPD 0

/-- The verification of R458 in its order: 1 where the package passes, else the failing code. An unconfigured controller takes
a structure image only and skips the key (R510). -/
def State.verifyPackage (s : State) (u : Update) : Nat :=
  let b := u.bytes
  let comp := leAt b 6 1
  let plen := leAt b 8 4
  let pub := (b.drop 32).take 96
  let payload := (b.drop 288).take plen
  let version := leAt b 16 8
  if ¬(leAt b 0 4 = 0x4B505553 ∧ leAt b 4 2 = 1 ∧ 1 ≤ comp ∧ comp ≤ 3 ∧ 1 ≤ plen
      ∧ plen ≤ (if comp = 2 then 2097152 else 1048576) ∧ leAt b 24 2 = 0xB0 ∧ b.length = u.size ∧ u.size = 288 + plen)
      ∨ (s.unconfigured ∧ comp ≠ 3) then 3
  else if !s.unconfigured ∧ s.keyOf s.img.updKey ≠ some (sha256 pub) then 4
  else if sha384 payload ≠ (b.drop 128).take 48 then 5
  else if !ecdsaVerify pub (sha384 (b.take 176)) ((b.drop 176).take 96) then 6
  else if comp = 1 ∧ version ≤ s.get64 STW_FWVER_LO_VALUE STW_FWVER_HI_VALUE then 7
  else if comp = 2 ∧ ((List.range 64).any fun t => version ≤ s.get (TIL_MCVER_VERSION t)) then 7
  else 1

/-- The target slot of a component and its array offset (R459, R417, R510). -/
def State.stageTarget (s : State) (comp : Nat) : Nat × Nat :=
  match s.roles with
  | none => (0, imageSlotOff 0)
  | some r =>
    if comp = 1 then (1 - s.selBlock, 0x100000 * (1 - s.selBlock))
    else if comp = 2 then (1 - r.mc, mcSlotOff (1 - r.mc))
    else (r.shd, imageSlotOff r.shd)

/-- The end of an update with a result: the asker is answered (R458, R459). -/
def State.updateAnswer (s : State) (code : Nat) : State :=
  let viaPldm := match s.stw.update with | some u => u.viaPldm | none => false
  if viaPldm then s.emit (.sideband (if code = 1 ∨ code = 8 then 0x518 else 0x517) (if code = 1 then 0 else code) [])
  else match s.stw.waits with
    | some 1 => s.stwAnswer (some .pa) 4 code []
    | some 2 => s.stwAnswer (some .pb) 4 code []
    | _ => s.stwAnswer none 4 code []

/-- A refused package: event 0x1004, the answer, and the update is over (R458). -/
def State.updateRefused (s : State) (code : Nat) : State :=
  let s1 := (s.event 0x1004 0).updateAnswer code
  (s1.updStw fun w => { w with update := none, waits := none, pldm := 0 }).set STW_STATUS_UPD 0

/-- The program of a staged payload has ended: staged with event 0x1003, or STAGE (R459). -/
def State.stageDone (s : State) (good : Bool) : State :=
  match s.stw.update with
  | none => s
  | some u =>
    let comp := leAt u.bytes 6 1
    if good then
      let s1 := ((s.set STW_STATUS_UPD 3).event 0x1003 0).updateAnswer 1
      s1.updStw fun w => { w with
        update := none, waits := none, staged := some (comp, (s.stageTarget comp).1), stagedVer := leAt u.bytes 16 8,
        pldm := if u.viaPldm then 2 else w.pldm }
    else
      let s1 := s.updateAnswer 8
      (s1.updStw fun w => { w with update := none, waits := none, pldm := 0 }).set STW_STATUS_UPD 0

/-- Verify the received package and stage its payload (R458, R459). `waits` is who is answered: 1 or 2 a host, 0 the
sideband. A protected or worn target is a failed program. -/
def State.updateEnd (s : State) (waits : Nat) : State :=
  match s.stw.update with
  | none => s
  | some u =>
    let s0 := s.updStw fun w => { w with waits := some waits }
    let code := s.verifyPackage u
    if code ≠ 1 then s0.updateRefused code
    else
      let comp := leAt u.bytes 6 1
      let t := s.stageTarget comp
      let payload := u.bytes.drop 288
      let s1 := s0.set STW_STATUS_UPD 2
      let s2 := if u.viaPldm then (s1.emit (.sideband 0x517 0 [])).updStw fun w => { w with pldm := 5 } else s1
      if (comp = 2 ∧ s.mcInUse t.1) ∨ (stagedSectors t.2 payload.length).any (fun n => bitOf s.cfl.worn n) then s2.stageDone false
      else s2.flashWrite (.staged t.2 payload)

/-- Activate the staged firmware (R460): the selector record, the restart, the trial. -/
def State.activate (s : State) (block : Nat) : State :=
  let s1 := (s.updStw fun w => { w with prevBlock := s.selBlock, trial := true, unconfirmed := 0, staged := none, pldm := 0 }).set
    STW_STATUS_UPD 4
  (s1.flashWrite (.cell 1 (leBytes 1 block ++ List.replicate 15 0))).stwRestart

/-- Firmware may be activated: in SERVE, with a boot block staged (R460). -/
def State.mayActivate (s : State) : Option Nat :=
  match s.stw.staged with
  | some (1, b) => if s.glb.st = .serve then some b else none
  | _ => none

/-- A start on trial is unconfirmed; after the second in a row the previous block is named again and event 0x1005 has
cause 2 (R460). -/
def State.unconfirmedStart (s : State) : State :=
  if s.stw.unconfirmed + 1 < 2 then s.updStw fun w => { w with unconfirmed := w.unconfirmed + 1 }
  else
    ((s.updStw fun w => { w with unconfirmed := 0, trial := false }).flashWrite
      (.cell 1 (leBytes 1 s.stw.prevBlock ++ List.replicate 15 0))).event 0x1005 (srcCause 2)

/-- The steward latches the pair of the beat and the time in seconds, with event 0x1009 (R455). It needs a running steward. -/
def State.wallTime (s : State) (sec : Nat) : State :=
  if s.get STW_STATUS_RUN < 2 then s
  else
    let s1 := (s.set64 STW_WALL_BEAT_LO_VALUE STW_WALL_BEAT_HI_VALUE s.beat).set64 STW_WALL_SEC_LO_VALUE
      STW_WALL_SEC_HI_VALUE sec
    s1.eventWith 0x1009 0 4 [s.beat % 2 ^ 32, s.beat / 2 ^ 32, sec % 2 ^ 32, sec / 2 ^ 32] false

end Sys2Proof.Machine
end

