-- ==== Sys2Proof/Machine/Flash.lean ====
section
/-! DEFINITION. The commands of the configuration flash (R415 to R433). -/

namespace Sys2Proof.Machine

/-- The steward reads the staged slot back: its SHA-384 is the package's PDIGEST (R459). -/
def State.stagedReads (s : State) (off : Nat) (b : List Byte) : Bool :=
  match s.stw.update with
  | some u => sha384 (s.cflRead off b.length) = (u.bytes.drop 128).take 48
  | none => false

/-- An internal write commits or fails: what waits on it goes on (R410, R446, R319, R424). -/
def State.writeDone (s : State) (w : IWrite) (good : Bool) : State :=
  match w with
  | .cell 1 _ => if good then (s.set CFL_BOOT_SELGEN (((s.cfl.inForce 1).map CellRec.gen).getD 0)).setB CFL_BOOT_NOSEL
      false else s.updStw fun x => { x with trial := false }
  | .role .swap => if good then s.swapRequested else s.swapFailed
  | .role .exchange => if good then s else s.exchangeFailed
  | .cell 3 b => s.pairCommitted b good
  | .cell 6 _ => s.keyCellDone good
  | .staged off b =>
    let t := s.slotWritten off
    t.stageDone (good && t.stagedReads off b)
  | .log l => if good then s else s.updEvr fun e => { e.unmark l with copyBusy := (s.cfl.writes.any IWrite.isLog) }
  | _ => s

/-- Append a record to a cell (R418, R420). -/
def Cfl.appendCell (c : Cfl) (ty : Nat) (p : List Byte) : Cfl :=
  let at_ := c.cellPlace ty p.length
  c.programBytes (at_.1 * 65536 + at_.2.1) (cellBytes ty (((c.inForce ty).map CellRec.gen).getD 0 + 1) p)

/-- Program the bytes of an internal write whose program step has completed (R418, R422, R423, R459). -/
def State.commitWrite (s : State) (w : IWrite) : State :=
  match w with
  | .cell ty p => (s.updCfl fun c => c.appendCell ty p).writeDone w true
  | .role k => (s.updCfl fun c => c.appendCell 2 (s.roleBytes k)).writeDone w true
  | .seqCopy n b => s.updCfl fun c => c.programBytes ((36 + n) * 65536) b
  | .log slots =>
    let room := 1024 - s.evr.logNext % 1024
    let now := slots.take room
    let s1 := (s.updCfl fun c => c.programBytes (0x300000 + 64 * (s.evr.logNext % 16384)) now.flatten).updEvr fun e =>
      { e with logNext := (e.logNext + now.length) % 16384 }
    if slots.length ≤ room then
      (s1.updEvr fun e => { e with copyBusy := s.cfl.writes.any IWrite.isLog }).set EVR_COPYSEQ_SEQ (leAt (now.getLast?.getD []) 0 4)
    else s1.updCfl fun c => { c with queue := .log (slots.drop room) :: c.queue }
  | .staged off b => (s.updCfl fun c => c.programStaged off b true 0).writeDone w true

/-- The program step of an internal write fails: a payload's bytes are open; what waits on it goes on (R427, R459). -/
def State.failWrite (s : State) (w : IWrite) : State :=
  match w with
  | .staged off b => let d := s.draw; (d.2.updCfl fun c => c.programStaged off b false d.1).writeDone w false
  | _ => s.writeDone w false

/-- An erase has left a sector blank: its flag clears, and it is half-erased no more (R431). -/
def Cfl.erased (c : Cfl) (sec : Nat) : Cfl :=
  { c.eraseSector sec with
    flags := clrBit c.flags sec, half := clrBit c.half sec, bg := if (c.bg.map Prod.fst) = some sec then none else c.bg }

/-- An attempt of the background re-erase ends: a sector that four attempts do not erase, or one over its maximum time, is worn, its
bytes open (R431 to R433). -/
def State.backDone (s : State) (how : FlashEnd) : State :=
  match s.cfl.bg with
  | none => s
  | some (sec, n) =>
    if how = .verified then (s.updCfl fun c => c.erased sec).flashNext
    else if how = .failed ∧ n < 4 then s.updCfl fun c => { c with bg := some (sec, n + 1) }
    else
      let d := s.draw
      let t := d.2.updCfl fun c => { c.openSector sec d.1 with half := clrBit c.half sec, worn := setBit c.worn sec, bg := none }
      (if how = .failed then t.event 0x0D05 (srcSector sec) else t).flashNext

/-- The words of a program that failed: which of their bits it has changed to 0 is open (R415, R427). -/
def openWords (k : Nat) (words : List (Nat × Nat)) : List (Nat × Nat) :=
  words.map fun x => (x.1, ofLe ((List.range 4).map fun i => Config.freeByte k (x.1 + i)))

/-- The sector of an erase that has failed: its bytes are open; four failed attempts record event 0x0D05 (R431, R433). -/
def State.eraseFailed (s : State) (sec : Nat) (how : FlashEnd) : State :=
  let d := s.draw
  let t := (d.2.updCfl fun c => c.openSector sec d.1).shadeTouched sec
  if how = .failed then t.event 0x0D05 (srcSector sec) else t

/-- The running operation ends (R427, R431 to R433). An erase whose check fails runs up to four attempts; one over its maximum time
ends at once. With none running it is the background re-erase that ends. -/
def State.flashDone (s : State) (how : FlashEnd) : State :=
  match s.cfl.op with
  | none => s.backDone how
  | some o =>
    let s0 := s.updCfl fun c => { c with op := none }
    let good := decide (how = .verified)
    let report := fun (t : State) (g : Agent) (compat : Bool) (code sec : Nat) =>
      if compat then t.compatResult code else t.flashResult g code sec
    match o with
    | .program g compat sec words =>
      if good then (report ((s0.updCfl fun c => c.programWords words).shadeTouched sec) g compat 0 sec).flashNext
      else
        let d := s0.draw
        (report ((d.2.updCfl fun c => c.programWords (openWords d.1 words)).shadeTouched sec) g compat 8 sec).flashNext
    | .erase g compat sec n =>
      if good then
        (report ((s0.updCfl fun c => c.erased sec).shadeTouched sec) g compat 0 sec).flashNext
      else if how = .failed ∧ n < 4 then s.updCfl fun c => { c with op := some (.erase g compat sec (n + 1)) }
      else (report (s0.eraseFailed sec how) g compat 8 sec).flashNext
    | .blank g compat sec => (report s0 g compat (if !good then 8 else if s.cfl.blank sec then 0 else 2) sec).flashNext
    | .internal w => (if good then s0.commitWrite w else s0.failWrite w).flashNext
    | .internalErase w sec n =>
      if good then ((s0.updCfl fun c => c.erased sec).shadeTouched sec).writeStep w (w.nextErase sec)
      else if how = .failed ∧ n < 4 then s.updCfl fun c => { c with op := some (.internalErase w sec (n + 1)) }
      else ((s0.eraseFailed sec how).writeDone w false).flashNext
    | .refused w => (s0.writeDone w false).flashNext

/-- A write of CMD0 by one agent (R426, R428). Within its own open sequence any value is a wrong one. An internal write that waits starts
before a new sequence. -/
def State.cmd0 (s : State) (x : Agent × Word) : State :=
  let g := x.1
  let own : Bool := match s.cfl.seq with | some q => decide (q.agent = g) | none => false
  if !s.flashAnswers g ∨ (x.2.toNat / 65536 ≠ 0x5AFE ∧ !own) then s
  else match s.cfl.seq, s.cfl.compat, s.cfl.op with
    | some q, _, _ => if own then s.endSeq q 4 else s.flashResult g 5 0
    | none, some c, _ => if c.agent = g then s.endCompat 4 else s.flashResult g 5 0
    | none, none, some o => if o.owner = ownerCode g then s else s.flashResult g 5 0
    | none, none, none =>
      let t := s.flashNext
      if t.cfl.op.isSome then t.flashResult g 5 0
      else t.updCfl fun c => { c with seq := some ⟨g, x.2.toNat % 256, 1, [], s.glb.beat⟩ }

/-- The writes of CMD0 of one fabric cycle in the order in which they are taken: the steward's, port A's, port B's (R428). -/
def cmd0Order (l : List (Agent × Word)) : List (Agent × Word) :=
  (l.filter fun x => x.1 = .stw) ++ (l.filter fun x => x.1 = .hostA) ++ (l.filter fun x => x.1 = .hostB)

/-- NATIVE_CMD0 (R426, R428): a write to CMD0 opens a sequence. `also` holds the writes of CMD0 by other agents in the same fabric
cycle. -/
def execNativeCmd0 (g : Agent) (w : Word) (also : List (Agent × Word)) (s : State) : Out :=
  ok ((cmd0Order ((g, w) :: also)).foldl State.cmd0 s)

/-- NATIVE_CMD1 (R426): the owner confirms the command code. -/
def execNativeCmd1 (g : Agent) (w : Word) (s : State) : Out :=
  if !s.flashAnswers g then ok s else
  match s.cfl.seq with
  | some q =>
    if q.agent ≠ g then ok s
    else if q.step = 1 ∧ w.toNat = 0xA5A50000 + (q.cc ^^^ 0xFF) then
      ok (s.updCfl fun c => { c with seq := some { q with step := 2, last := s.glb.beat } })
    else ok (s.endSeq q 4)
  | none => ok s

/-- NATIVE_DATA_WRITE (R426): a write in the array window during an open sequence; `full` says that it is 32 bits wide. DESIGN CHOICE: a
second write to one offset, and an offset that is no multiple of 4, end the sequence with SEQ_ERR; the rule names no code for them. -/
def execNativeDataWrite (g : Agent) (off : BitVec 26) (w : Word) (full : Bool) (s : State) : Out :=
  if !s.flashAnswers g then ok s else
  match s.cfl.seq with
  | some q =>
    let a := off.toNat
    if q.agent ≠ g then ok s
    else if !full || q.step ≠ 2 || a / 65536 = 1023 || a % 4 ≠ 0 then ok (s.endSeq q 4)
    else
      let far : Bool := match q.words.getLast? with
        | some f => if q.cc = 0x10 then f.1 / 256 ≠ a / 256 else true
        | none => false
      if far then ok (s.endSeq q 7)
      else if q.words.any fun x => x.1 = a then ok (s.endSeq q 4)
      else ok (s.updCfl fun c => { c with seq := some { q with words := (a, w.toNat) :: q.words, last := s.glb.beat } })
  | none => ok s

/-- Start an operation for an agent after the target's checks: PROTECTED, then WORN, then the half-erased sector that
refuses programs with BUSY (R427, R432). -/
def State.startOp (s : State) (g : Agent) (compat : Bool) (sec : Nat) (isProgram : Bool) (o : FlashOp) : State :=
  let report := fun (t : State) (code : Nat) => if compat then t.compatResult code else t.flashResult g code sec
  let isErase := match o with | .erase _ _ _ _ => true | _ => false
  if !s.mayWrite g sec then (report s 3).flashNext
  else if bitOf s.cfl.worn sec then (report s 10).flashNext
  else if bitOf s.cfl.half sec && isProgram then (report s 1).flashNext
  else
    let s1 := s.updCfl fun c => { c with op := some o, flags := if isErase then setBit c.flags sec else c.flags }
    report s1 1

/-- The CMD2 write of a sequence whose command code is `cc` (R426, R427). -/
def State.cmd2 (s : State) (g : Agent) (cc : Nat) (w : Word) : State :=
  match s.cfl.seq with
  | none => s
  | some q =>
    if q.agent ≠ g then s
    else if q.step ≠ 2 ∨ q.cc ≠ cc ∨ w.toNat ≠ 0x600D0000 + cc then s.endSeq q 4
    else
      let s0 := s.updCfl fun c => { c with seq := none }
      match q.words, cc with
      | [], 0x10 => (s0.flashResult g 0 0).flashNext
      | [], _ => s.endSeq q 4
      | x :: _, 0x10 =>
        let sec := x.1 / 65536
        if s.mayWrite g sec ∧ !bitOf s.cfl.worn sec ∧ !bitOf s.cfl.half sec
            ∧ q.words.any (fun y => s.cfl.read y.1 4 ≠ [0xFF, 0xFF, 0xFF, 0xFF]) then
          (s0.flashResult g 2 sec).flashNext
        else s0.startOp g false sec true (.program g false sec q.words)
      | x :: _, 0x20 => s0.startOp g false (x.1 / 65536) false (.erase g false (x.1 / 65536) 1)
      | x :: _, _ => s0.startOp g false (x.1 / 65536) false (.blank g false (x.1 / 65536))

/-- PROGRAM (R427): the CMD2 write of a PROGRAM sequence. -/
def execProgram (g : Agent) (w : Word) (s : State) : Out :=
  if !s.flashAnswers g then ok s else ok (s.cmd2 g 0x10 w)

/-- ERASE_SECTOR (R431): the CMD2 write of an ERASE SECTOR sequence. -/
def execEraseSector (g : Agent) (w : Word) (s : State) : Out :=
  if !s.flashAnswers g then ok s else ok (s.cmd2 g 0x20 w)

/-- BLANK_CHECK (R427): the CMD2 write of a BLANK CHECK sequence. -/
def execBlankCheck (g : Agent) (w : Word) (s : State) : Out :=
  if !s.flashAnswers g then ok s else ok (s.cmd2 g 0x30 w)

/-- FLASH_OPERATION_COMPLETE (R433): the running operation completes: verified in time, failed, or over its maximum time. -/
def execFlashOperationComplete (how : FlashEnd) (s : State) : Out := ok (s.flashDone how)

/-- FLASH_SEQUENCE_TIMEOUT (R428): 1,000 beats pass without a write from the owner. -/
def execFlashSequenceTimeout (s : State) : Out :=
  match s.cfl.seq, s.cfl.compat with
  | some q, _ => if s.expired q.last 1000 then ok ((s.endSeq q 6).event 0x0D06 0) else ok s
  | none, some q => if s.expired q.last 1000 then ok ((s.endCompat 6).event 0x0D06 0) else ok s
  | none, none => ok s

/-- COMPAT_KEY_WRITE (R430): a write to CFL_COMPAT_KEY. -/
def execCompatKeyWrite (g : Agent) (w : Word) (s : State) : Out :=
  if !s.flashAnswers g then ok s else
  if !s.bit CFL_CTRL_COMPAT then ok s
  else
    let k := w.toNat % 256
    match s.cfl.compat with
    | some c =>
      if c.agent ≠ g then ok (s.compatResult 5)
      else if c.step = 1 ∧ k = 0x55 then ok (s.updCfl fun x => { x with compat := some { c with step := 2, last := s.glb.beat } })
      else ok (s.endCompat 4)
    | none =>
      if s.cfl.seq.isSome ∨ s.cfl.op.isSome then ok (s.compatResult 5)
      else if s.flashNext.cfl.op.isSome then ok (s.flashNext.compatResult 5)
      else if k = 0xAA then ok (s.updCfl fun x => { x with compat := some ⟨g, 1, 0, 0, s.glb.beat⟩ })
      else ok (s.compatResult 4)

/-- A write to CFL_COMPAT_CMD: the command of an unlocked sequence (R430). -/
def State.compatCmd (s : State) (g : Agent) (cmd : Nat) : State :=
  if !s.bit CFL_CTRL_COMPAT then s
  else match s.cfl.compat with
    | none => s
    | some c =>
      if c.agent ≠ g then s
      else if cmd = 0xF0 then (s.updCfl fun x => { x with compat := none }).flashNext
      else if c.step = 2 ∧ (cmd = 0xA0 ∨ cmd = 0x80 ∨ cmd = 0x70) then
        s.updCfl fun x => { x with compat := some { c with step := 3, cmd := cmd, last := s.glb.beat } }
      else s.endCompat 4

/-- A write to CFL_COMPAT_ADDR: it executes an erase or a blank check, and holds a program's address (R430). -/
def State.compatAddr (s : State) (g : Agent) (a : Nat) : State :=
  if !s.bit CFL_CTRL_COMPAT then s
  else match s.cfl.compat with
    | none => s
    | some c =>
      if c.agent ≠ g then s
      else if c.step ≠ 3 then s.endCompat 4
      else
        let s0 := s.updCfl fun x => { x with compat := none }
        if c.cmd = 0x80 then s0.startOp g true (a / 65536) false (.erase g true (a / 65536) 1)
        else if c.cmd = 0x70 then s0.startOp g true (a / 65536) false (.blank g true (a / 65536))
        else s.updCfl fun x => { x with compat := some { c with step := 4, addr := a, last := s.glb.beat } }

/-- COMPAT_PROGRAM_WORD (R430, R427): the write of CFL_COMPAT_DATA. -/
def execCompatProgramWord (g : Agent) (w : Word) (s : State) : Out :=
  if !s.flashAnswers g then ok s else
  if !s.bit CFL_CTRL_COMPAT then ok s
  else match s.cfl.compat with
    | none => ok s
    | some c =>
      if c.agent ≠ g then ok s
      else if c.step ≠ 4 then ok (s.endCompat 4)
      else
        let sec := c.addr / 65536
        let s0 := s.updCfl fun x => { x with compat := none }
        if s.mayWrite g sec ∧ !bitOf s.cfl.worn sec ∧ !bitOf s.cfl.half sec
            ∧ s.cfl.read c.addr 4 ≠ [0xFF, 0xFF, 0xFF, 0xFF] then ok ((s0.compatResult 2).flashNext)
        else ok (s0.startOp g true sec true (.program g true sec [(c.addr, w.toNat)]))

/-- COMPAT_ERASE_SECTOR (R430): the write of CFL_COMPAT_ADDR under the erase command. -/
def execCompatEraseSector (g : Agent) (a : BitVec 26) (s : State) : Out :=
  if !s.flashAnswers g then ok s else ok (s.compatAddr g a.toNat)

/-- COMPAT_BLANK_CHECK (R430): the write of CFL_COMPAT_ADDR under the blank check command. -/
def execCompatBlankCheck (g : Agent) (a : BitVec 26) (s : State) : Out :=
  if !s.flashAnswers g then ok s else ok (s.compatAddr g a.toNat)

/-- COMPAT_ABORT (R430): the abort command ends the sequence with no effect. -/
def execCompatAbort (g : Agent) (s : State) : Out :=
  if !s.flashAnswers g then ok s else ok (s.compatCmd g 0xF0)

/-- FLAG_SCAN (R432): at power-on of domain 95, once, every sector with its flag set is half-erased. The pair record is loaded where none
has been since VDDAON power-on, and the running counter starts at its ceiling (R319, R416). -/
def execFlagScan (s : State) : Out :=
  if !s.domOn 95 ∨ s.cfl.ready then ok s
  else
    let s0 := s.updCfl fun c => { c with half := c.flags, worn := 0, ready := true }
    let s1 := if s.mtx.count = 0 then s0.loadPair else s0
    let s2 := ((List.range 1024).filter fun n => bitOf s.cfl.flags n).foldl (fun t n => t.event 0x0D01 (srcSector n)) s1
    ok s2.flashNext

/-- BOOT_SELECT (R424): a write of CFL_BOOTCMD with GO; only the steward's, with its key, appends a selector record. -/
def execBootSelect (g : Agent) (block : Bool) (key : BitVec 16) (s : State) : Out :=
  if !s.flashAnswers g then ok s else
  if g = .stw ∧ key = 0x4254 then
    ok (s.flashWrite (.cell 1 (leBytes 1 (b2n block) ++ List.replicate 15 0)))
  else ok s

end Sys2Proof.Machine
end

