-- ==== Sys2Proof/Machine/Ledger.lean ====
section
/-! DEFINITION. The commands of the energy ledger (R135 to R166). -/

namespace Sys2Proof.Machine

/-- HEALTH_FIGURES_STALE (R140 rule 2). -/
def execHealthFiguresStale (s : State) : Out := ok s.checkStale

/-- A rehearsal may begin (R156). DESIGN CHOICE: a flash-module change is running while VLT_MODS.PENDING shows one; the re-striping
that follows a loss or an addition is no part of it. -/
def State.rehMay (s : State) : Bool :=
  s.glb.st = .serve && !s.glb.lazyRestore && s.get LDG_STATUS_ZONE = 0 && s.cch.ret.isNone
    && s.get LDG_BANKREL_PENDING = 0 && s.get VLT_MODS_PENDING = 0 && s.ctl.eq.isNone && s.ldg.rehRun.isNone
    && decide (40 ≤ ((List.range 64).filter s.inService).length)

/-- Begin the rehearsal of the next class, or skip the class under 4 GiB dirty (R156, R157). DESIGN CHOICE: LDG_REH.CLASS names a
skipped class too, so that RESULT and CLASS speak of one class. DESIGN CHOICE: a skip ends this start and advances the rotation, and the
next class is tried at the next start (R156). -/
def State.rehBegin (s : State) : State :=
  let c := s.ldg.rehNext
  let s1 := (s.updLdg fun l => { l with rehNext := (c + 1) % 4 }).set LDG_REH_CLASS c
  if s.get (CCH_DIRTY_GRANULES (if c = 3 then 4 else c)) < 1048576 then s1.set LDG_REH_RESULT 3
  else
    let s2 := s1.updLdg fun l => { l with rehRun := some ⟨c, s.glb.beat, 0, s.useK3, s.rehMods⟩ }
    (s2.setB LDG_REH_BUSY true).enqueue 11 7 3 20000 (if c = 3 then 4 else c) 0 false

/-- REHEARSAL_GO (R156): a write of LDG_REH.GO. -/
def execRehearsalGo (s : State) : Out := if s.rehMay then ok s.rehBegin else ok s

/-- REHEARSAL_SCHEDULED (R156). DESIGN CHOICE: the spec does not say from when the hours count; they count from beat 0 until the first
scheduled rehearsal, and from the latest one after it. -/
def execRehearsalScheduled (s : State) : Out :=
  if s.get LDG_REH_HOURS ≠ 0 ∧ s.bit LDG_CTRL_REH_AUTO ∧ s.expired s.ldg.rehSince (s.get LDG_REH_HOURS * 3600000000)
      ∧ s.rehMay then
    ok ((s.updLdg fun l => { l with rehSince := s.glb.beat }).rehBegin)
  else ok s

/-- REHEARSAL_END (R157, R158, R159). With no byte vaulted the spec states no coefficient: a free value. -/
def execRehearsalEnd (s : State) : Out :=
  match s.ldg.rehRun with
  | none => ok s
  | some r =>
    if !s.expired r.start 20000 then ok s
    else
      let d := s.draw
      let s0 := if r.bytes = 0 then d.2 else s
      let k := if r.bytes = 0 then d.1 else cdiv (s.img.pdrainMw * 1073741824 * 20000) (r.bytes * 1000000)
      let s1 := s0.updLdg fun l => { l with rehRun := none, newCal := l.newCal ++ [(s.boundBeat, calKey r.k3 r.cls, k)] }
      let s2 := ((s1.setB LDG_REH_BUSY false).set LDG_REH_RESULT 1).event 0x0406 0
      let s3 := if 125 * s.img.kdes r.k3 r.cls < 100 * k then s2.event 0x0407 0 else s2
      let stored := { s3 with ldg := { s3.ldg with cal := Store.put 0 s3.ldg.cal (calKey r.k3 r.cls) k } }
      ok (s3.flashWrite (.cell 4 stored.calCell))

/-- BANK_RELEASE (R160, R161): a write of LDG_BANKREL with GO. DESIGN CHOICE: a refusal in SERVE (the last counted module, or one not
counted) changes nothing but MOD and records nothing, since no event is named for it; one outside SERVE is logged (R36). -/
def execBankRelease (mod : BitVec 2) (s : State) : Out :=
  let m := mod.toNat
  let s0 := s.set LDG_BANKREL_MOD m
  let cnt := s.get LDG_BANKREL_COUNTED &&& (15 ^^^ s.ldg.dropNext)
  if s.glb.st = .serve ∧ bitOf cnt m ∧ cnt ≠ 2 ^ m then
    ok ((s0.set LDG_BANKREL_PENDING (setBit (s.get LDG_BANKREL_PENDING) m)).updLdg fun l => { l with
      dropNext := setBit l.dropNext m, backNext := clrBit l.backNext m })
  else ok (if s.glb.st = .serve then s0 else s0.logRefusal 4)

/-- BANK_RELEASE_CANCEL (R161): a write of LDG_BANKREL with CANCEL. -/
def execBankReleaseCancel (mod : BitVec 2) (s : State) : Out :=
  let m := mod.toNat
  let s0 := s.set LDG_BANKREL_MOD m
  if bitOf (s.get LDG_BANKREL_PENDING) m then
    ok ((s0.set LDG_BANKREL_PENDING (clrBit (s.get LDG_BANKREL_PENDING) m)).updLdg fun l => { l with
      dropNext := clrBit l.dropNext m, backNext := setBit l.backNext m })
  else ok s0

/-- ENERGY_MODULE_RELEASED (R161, R211): 100 consecutive white beats under the reduced reckoning. -/
def execEnergyModuleReleased (mod : BitVec 2) (s : State) : Out :=
  let m := mod.toNat
  if s.glb.st = .serve ∧ bitOf (s.get LDG_BANKREL_PENDING) m ∧ !bitOf (s.get LDG_BANKREL_COUNTED) m ∧ 100 ≤ s.ldg.whiteRun then
    ok ((((s.setSwitch 1 m false).set LDG_BANKREL_PENDING (clrBit (s.get LDG_BANKREL_PENDING) m)).set LDG_BANKREL_RELEASED
      (setBit (s.get LDG_BANKREL_RELEASED) m)).event 0x0409 (srcModule m))
  else ok s

/-- ENERGY_MODULE_ABSENT (R162): the presence input of a counted module reads absent. -/
def execEnergyModuleAbsent (mod : BitVec 2) (s : State) : Out :=
  let m := mod.toNat
  if bitOf (s.get LDG_BANKREL_COUNTED) m ∧ !bitOf (s.get LDG_BANKREL_PRESENT) m then
    ok (s.updLdg fun l => { l with drops := setBit l.drops m })
  else ok s

end Sys2Proof.Machine
end

