-- ==== Sys2Proof/Machine/SeqOps.lean ====
section
/-! DEFINITION. The sequencer as the blocks use it: rails, reset outputs, domains, snapshots, power-down, adoption of an
image's tables (R370 to R399). -/

namespace Sys2Proof.Machine

/-- The counts of a rail. -/
def RailSt.zero : RailSt := ⟨0, 0, 0, 0, 0, 0, 0⟩
def State.railSt (s : State) (n : Nat) : RailSt := Store.get RailSt.zero s.seq.rails n
def State.setRailSt (s : State) (n : Nat) (r : RailSt) : State :=
  s.updSeq fun q => { q with rails := Store.put RailSt.zero q.rails n r }

/-- The state code of a rail (SEQ_RAILn.STATE). -/
def State.rail (s : State) (n : Nat) : Nat := s.get (SEQ_RAIL_STATE n)
def State.setRail (s : State) (n v : Nat) : State := s.set (SEQ_RAIL_STATE n) v

/-- RAIL_EN of a rail is high. -/
def State.railOn (s : State) (n : Nat) : Bool := bitOf s.seq.en n

/-- The sequenced rails, and those in a group. -/
def State.seqRails (s : State) : List Nat := railList.filter fun n => s.railKind n = 1
def State.groupRails (s : State) (g : Nat) : List Nat := s.seqRails.filter fun n => g < 16 && s.railGroup n = g

/-- Add to a mask of rails every sequenced rail with a parent in it. -/
def State.childrenOf (s : State) (mask : Nat) : Nat :=
  s.seqRails.foldl (fun m n => if (s.railParents n).any (bitOf mask) then setBit m n else m) mask

/-- A rail and every descendant, as a mask. -/
def State.descMask (s : State) : Nat → Nat → Nat
  | 0, m => m
  | fuel + 1, m => s.descMask fuel (s.childrenOf m)

/-- A rail with its descendants, ascending. -/
def State.withDesc (s : State) (rails : List Nat) : List Nat :=
  let m := s.descMask 48 (rails.foldl setBit 0)
  railList.filter (bitOf m)

/-- The rails in the achieved order show their place in it. -/
def State.showOrder (s : State) : State :=
  railList.foldl (fun t n => t.set (SEQ_RAIL_ORDER n) (if s.seq.order.contains n then s.seq.order.idxOf n else 0)) s

/-- Assert a reset output and cancel its stretch (R394). -/
def State.assertRst (s : State) (g : Nat) : State :=
  if 16 ≤ g then s
  else ((s.set SEQ_RST_ASSERTED (setBit (s.get SEQ_RST_ASSERTED) g)).set SEQ_RST_STRETCHING
    (clrBit (s.get SEQ_RST_STRETCHING) g)).updSeq fun q => { q with stretch := Store.put 0 q.stretch g 0 }

/-- The group and the off-delay of a rail that goes off (R390, R392): its descriptor's where the rail is sequenced; those it had where
an image has made it unused since. A manual rail has neither (R370). -/
def State.offGroup (s : State) (n : Nat) : Nat :=
  if s.railKind n = 1 then s.railGroup n else match (Store.get (0, 0) s.seq.left n).1 with | 0 => 255 | g + 1 => g
def State.offDly (s : State) (n : Nat) : Nat := if s.railKind n = 1 then s.railOffDly n else (Store.get (0, 0) s.seq.left n).2

/-- Switch a rail off: its enable falls, its group's reset output asserts, it leaves the achieved order (R390, R392, R394). An unused
rail shows STATE 7. -/
def State.railOff (s : State) (n code : Nat) : State :=
  let s1 := (s.updSeq fun q => { q with
    en := clrBit q.en n, order := q.order.erase n, rails := Store.put RailSt.zero q.rails n RailSt.zero
    left := Store.put (0, 0) q.left n (0, 0) })
  (((s1.setRail n (if s.railKind n = 0 then 7 else code)).set (SEQ_RAIL_ORDER n) 0).setB (SEQ_RAIL_WARN n) false).assertRst
    (s.offGroup n) |>.showOrder

/-- Switch rails off at once, without off-delays; those that are on. -/
def State.railsOff (s : State) (l : List Nat) : State := l.foldl (fun t n => if t.railOn n then t.railOff n 0 else t) s

/-- The next snapshot slot and its bytes (R397, R398). -/
def State.snapBytes (s : State) (code rail gen : Nat) : List Byte :=
  let scan := fun (k i : Nat) => match ((s.seq.scans.getD k []).find? fun x => x.1 = i) with
    | some x => 0x8000 + x.2
    | none => 0
  let n := s.seq.scanList.length
  let body := leBytes 8 s.beat ++ leBytes 2 code ++ leBytes 1 rail ++ leBytes 1 0 ++ leBytes 2 (max 1 (cdiv n 4))
    ++ leBytes 2 n ++ leBytes 2 gen ++ List.replicate 14 0
    ++ ((List.range 5).map fun k => ((List.range 64).map fun i => leBytes 2 (scan k i)).flatten).flatten
  body ++ leBytes 4 (crc32c body) ++ leBytes 4 0

/-- The snapshot words of an event of R397: its class's list, and SEQ_SNAP_LAST, which the record always carries. DESIGN CHOICE: where
the list does not name SEQ_SNAP_LAST it takes the first free word, and the last word of a full list. -/
def State.seqWords (s : State) (k : Nat) : Nat × List Nat :=
  let free := fun (i : Nat) => s.sti.active.isNone || s.img.snapReg k i = 0xFFFFFFFF
  if (List.range 8).any fun i => !free i && s.img.snapReg k i = 0xA0038 then (s.snapCount k, s.snapshot k)
  else
    let i := ((List.range 8).find? free).getD 7
    let l := if s.sti.active.isNone then List.replicate 8 0 else s.snapshot k
    (min 8 (s.snapCount k + 1), l.set i (s.word .stw 0xA0038))

/-- Write a snapshot into the next slot, then record its event (R397). -/
def State.seqEvent (s : State) (code rail src : Nat) : State :=
  let slot := if s.bit SEQ_SNAP_LAST_VALID then (s.get SEQ_SNAP_LAST_SLOT + 1) % 16 else 0
  let gen := (s.get SEQ_SNAP_LAST_GEN + 1) % 65536
  let s1 := s.updSeq fun q => { q with snaps := Store.put [] q.snaps slot (s.snapBytes code rail gen) }
  let s2 := ((s1.set SEQ_SNAP_LAST_SLOT slot).setB SEQ_SNAP_LAST_VALID true).set SEQ_SNAP_LAST_GEN gen
  let w := s2.seqWords (code / 256 - 1)
  s2.eventWith code src w.1 w.2 false

/-- Put a list of domains into the on mask, or take them out. -/
def State.setDom (s : State) (d : Nat) (on : Bool) : State :=
  let f := SEQ_DOMON_DOMAINS (d / 32)
  s.set f (if on then setBit (s.get f) (d % 32) else clrBit (s.get f) (d % 32))

/-- The domain has failed until the next cold power-up (SEQ_DOMFAILk). -/
def State.domFailed (s : State) (d : Nat) : Bool := bitOf (s.get (SEQ_DOMFAIL_DOMAINS (d / 32))) (d % 32)

/-- The domains that a domain needs on (Table: Domain dependencies). -/
def domNeeds (d : Nat) : List Nat :=
  if d < 64 then [64 + 2 * (d / 8 / 4) + d % 8 / 4]
  else if d = 82 then [80] else if d = 83 then [81]
  else if d = 84 ∨ d = 85 then [82] else if d = 86 ∨ d = 87 then [83]
  else if d = 90 then [88, 89] else if d = 91 ∨ d = 92 then [90]
  else if d = 93 ∨ d = 94 then [95] else []

/-- The domains that need a domain, directly or through others, the farthest first, and the domain itself last. -/
def domWithDeps : Nat → Nat → List Nat
  | 0, d => [d]
  | fuel + 1, d => (((List.range 96).filter fun x => (domNeeds x).contains d).map (domWithDeps fuel)).flatten ++ [d]

/-- What goes with a domain that switches off (R479, R484, R381): a tile's register window, a host port's link or its CXL.mem
service, port M's link, the steward, the key slots' keys and contexts, the operations of the flash (R416). -/
def State.domLoses (s : State) (d : Nat) : State :=
  if d < 64 then
    let t := s.dropRegs fun k => decide (0x100000 + 0x4000 * d ≤ k % 2 ^ 40 / 32) && decide (k % 2 ^ 40 / 32 < 0x104000 + 0x4000 * d)
    if s.tile d = 5 then t.set (TIL_STATUS_STATE d) 5 else t
  else if d = 80 ∨ d = 82 then s.updHp fun h => { h with up := h.up.set .pa false }
  else if d = 81 ∨ d = 83 then s.updHp fun h => { h with up := h.up.set .pb false }
  else if d = 84 ∨ d = 85 then s.updHp fun h => { h with fast := h.fast.set .pa false }
  else if d = 86 ∨ d = 87 then s.updHp fun h => { h with fast := h.fast.set .pb false }
  else if 88 ≤ d ∧ d ≤ 90 then s.linkClear
  else if d = 93 then s.set STW_STATUS_RUN 0
  else if d = 95 then s.updCfl fun c => { c with seq := none, compat := none, op := none, bg := none, queue := [], ready := false }
  else if d = 94 then s.updDge fun x => { Dge.reset with
    slots := x.slots.map fun e => (e.1, { e.2 with key := none }), stwSha := x.stwSha, wrapKey := x.wrapKey }
  else s

/-- Switch domains off (R225, R388, R390). -/
def State.domsOff (s : State) (l : List Nat) : State :=
  l.foldl (fun t d =>
    let u := (t.setDom d false).updSeq fun q => { q with domPend := Store.put 0 q.domPend d 0 }
    if t.domOn d then u.domLoses d else u) s

/-- Every domain that is on, dependants first. -/
def State.allDomsOff (s : State) : State :=
  s.domsOff ((List.range 64) ++ [84, 85, 86, 87, 82, 83, 80, 81, 91, 92, 90, 88, 89, 93, 94, 95] ++ ((List.range 16).map (· + 64)))

/-- PFW_n is asserted: by the input path or by a rail (R208, R387). -/
def State.pfw (s : State) : Bool := s.drn.pfwIn || s.bit SEQ_STATUS_RAILPFW

/-- The sequencer may start rails: a power-up or service, no off request, no core stop. -/
def State.seqStarts (s : State) : Bool :=
  (s.get SEQ_STATUS_PHASE = 1 || s.get SEQ_STATUS_PHASE = 2) && !s.seq.offReq && !s.seq.coreStop

/-- Start every rail that may start, at a boundary (R379). -/
def State.startRails (s : State) : State :=
  if !s.seqStarts ∨ !s.atBoundary then s
  else
    let go := s.seqRails.filter fun n => bitOf s.seq.want n && s.rail n = 0 && !s.railOn n
      && !(s.railGroup n < 16 && bitOf s.seq.failed (s.railGroup n)) && (s.railParents n).all fun p => s.rail p = 3
    go.foldl (fun t n => ((t.updSeq fun q => { q with en := setBit q.en n }).setRail n 1).setRailSt n
      { RailSt.zero with start := s.glb.beat }) s

/-- The external rails of a domain's needs are good (R381, R382). -/
def State.domRailsGood (s : State) (d : Nat) : Bool :=
  [0, 1, 2, 3].all (fun n => s.rail n = 3) && (s.domRails d).all fun n => s.rail n = 3

/-- Start at most 8 domains whose needs are met, in ascending code (R381). -/
def State.startDoms (s : State) : State :=
  if !s.seqStarts ∨ s.glb.st = .drain ∨ s.glb.st = .sealed then s
  else
    let go := ((List.range 96).filter fun d => s.domEnabled d && !s.domOn d && !s.domFailed d
      && Store.get 0 s.seq.domPend d = 0 && s.domRailsGood d && (domNeeds d).all s.domOn).take 8
    go.foldl (fun t d => t.updSeq fun q => { q with domPend := Store.put 0 q.domPend d (s.glb.beat + 1) }) s

/-- Domains that report on (R381). -/
def State.domReport (s : State) (mask : Nat) : State :=
  ((List.range 96).filter fun d => bitOf mask d && Store.get 0 s.seq.domPend d ≠ 0).foldl
    (fun t d => (t.setDom d true).updSeq fun q => { q with domPend := Store.put 0 q.domPend d 0 }) s

/-- The achieved order with a rail that becomes good at this boundary: rails good at one boundary stand in ascending number (R380). -/
def State.orderWith (s : State) (n : Nat) : List Nat :=
  let late := fun k => decide ((s.railSt k).settle = s.glb.beat) && decide (n < k)
  let tail := (s.seq.order.reverse.takeWhile late).reverse
  s.seq.order.take (s.seq.order.length - tail.length) ++ n :: tail

/-- The stretch of a group whose rails are all good begins at this boundary (R394). -/
def State.startStretch (s : State) (g : Nat) : State :=
  (s.updSeq fun q => { q with stretch := Store.put 0 q.stretch g (s.glb.beat + 1) }).set SEQ_RST_STRETCHING
    (setBit (s.get SEQ_RST_STRETCHING) g)

/-- A rail becomes good: the achieved order, its group's stretch, the rails that may start now (R380, R394). -/
def State.railGood (s : State) (n : Nat) : State :=
  let s0 := (s.setRail n 3).setRailSt n { s.railSt n with settle := s.glb.beat }
  let s1 := (s0.updSeq fun q => { q with order := s.orderWith n }).showOrder
  let g := s.railGroup n
  let s2 := if g < 16 ∧ (s1.groupRails g).all (fun k => s1.rail k = 3) then s1.startStretch g else s1
  s2.startRails

/-- The last rail of the achieved order that is still on. -/
def State.lastRail (s : State) : Option Nat := (s.seq.order.filter s.railOn).getLast?

/-- A power-down ends: events, phase, minimum off time (R390, R24). A core stop records neither 0x0B05 nor 0x0B06 (R388). -/
def State.pdDone (s : State) : State :=
  let hold := s.get SEQ_STATUS_ABANDONS = 3 ∧ s.glb.st = .powerup ∧ !s.drn.toSealed
  let s1 := (s.updSeq fun q => { q with
    offCur := none, minOff := some s.glb.beat, offReq := false, coreStop := false }).set SEQ_STATUS_PHASE (if hold then 4 else 0)
  let s2 := if s.seq.coreStop then s1 else s1.event 0x0B06 0
  let s3 := if hold then s2.event 0x0B04 0 else s2
  if s.glb.st = .drain then s3.enter .sealed else s3

/-- One step of a power-down: the next rail in reverse achieved order, or its end (R390). -/
def State.pdStep (s : State) : State :=
  match s.lastRail with
  | none => s.pdDone
  | some n =>
    let s1 := if s.railCore n ∧ (List.range 3).any (fun k => s.get (SEQ_DOMON_DOMAINS k) ≠ 0) then s.allDomsOff else s
    (s1.railOff n 0).updSeq fun q => { q with offCur := some (n, s.glb.beat) }

/-- Begin a power-down (R390): manual rails and rails still ramping off, event 0x0B05, the first step; PARTNER_ALIVE_OUT
deasserts (R218). -/
def State.powerDown (s : State) : State :=
  let s1 := ((s.set SEQ_STATUS_PHASE 3).setB SEQ_STATUS_CORESTOP false).updDrn fun d => { d with aliveOut := false }
  let s2 := (railList.filter fun n => (s.railKind n = 3 || s.rail n = 1 || s.rail n = 2) && s.railOn n).foldl (fun t n => t.railOff n 0) s1
  let s3 := (s2.updSeq fun q => { q with offs := [], repower := [], want := 0 }).event 0x0B05 0
  s3.pdStep

/-- One step of a group's power-down (R392): switch the next rail off; none left ends it. -/
def GroupOff.step (s : State) (g : GroupOff) : State × Option GroupOff :=
  match g.rails.filter fun x => s.railOn x.1 with
  | [] => (s, none)
  | x :: rest => (s.railOff x.1 0, some ⟨rest, some (x.1, x.2, s.glb.beat)⟩)

/-- The next step of a group's power-down, which then waits for its off-delay or ends (R392). -/
def State.groupStep (s : State) (g : GroupOff) : State :=
  let s1 := s.updSeq fun q => { q with offs := q.offs.erase g }
  match GroupOff.step s1 g with
  | (t, some h) => t.updSeq fun q => { q with offs := q.offs ++ [h] }
  | (t, none) => t

/-- The group power-downs that have been asked for take their first step at a boundary (R390, R392). -/
def State.groupBegin (s : State) : State :=
  if !s.atBoundary then s else (s.seq.offs.filter fun g => g.last.isNone).foldl State.groupStep s

/-- Switch rails and their descendants off with their off-delays, in reverse achieved order, from a boundary on (R392). -/
def State.groupDown (s : State) (rails : List Nat) : State :=
  let all := s.withDesc rails
  let mask := all.foldl setBit 0
  let s1 := s.updSeq fun q => { q with want := q.want &&& (2 ^ 48 - 1 - mask) }
  let ramp := all.filter fun n => s.rail n = 1 ∨ s.rail n = 2
  let s2 := s1.railsOff ramp
  let l := (s2.seq.order.filter fun n => bitOf mask n).reverse.map fun n => (n, s.offDly n)
  (s2.updSeq fun q => { q with offs := if l.isEmpty then q.offs else q.offs ++ [⟨l, none⟩] }).groupBegin

/-- Ask that the rails of a group be on (R392): each starts once its parents are good. -/
def State.groupUp (s : State) (g : Nat) : State :=
  let mask := (s.groupRails g).foldl setBit 0
  let s1 := s.updSeq fun q => { q with want := q.want ||| mask, failed := clrBit q.failed g }
  ((s.groupRails g).foldl (fun t n => if t.rail n = 5 then t.setRail n 0 else t) s1).startRails

/-- Every rail of a group is off; every rail is good. -/
def State.groupIsOff (s : State) (g : Nat) : Bool := (s.groupRails g).all fun n => !s.railOn n
def State.groupIsGood (s : State) (g : Nat) : Bool := (s.groupRails g).all fun n => s.rail n = 3

/-- The group an image names for DIMM slot d of channel c, and for flash module m (R374). -/
def State.dimmGroup (s : State) (c d : Nat) : Option Nat :=
  (List.range 16).find? fun g => s.groupOwner g = 1 && s.groupTarget g = 2 * c + d && !(s.groupRails g).isEmpty
def State.flashGroup (s : State) (m : Nat) : Option Nat :=
  (List.range 16).find? fun g => s.groupOwner g = 2 && s.groupTarget g = m && !(s.groupRails g).isEmpty

/-- The bytes of a sequencer record (R422). -/
def seqRecord (gen : Nat) (t : List (List Byte)) : List Byte :=
  let body := [0x53, 0x51, 0x52, 0x43] ++ leBytes 4 0xFFFFFFFF ++ leBytes 8 gen ++ t.getD 0 [] ++ t.getD 1 [] ++ t.getD 2 []
  body ++ leBytes 4 (crc32c body)

/-- A copy of the sequencer record that verifies: its three sections (R376, R422). -/
def State.seqCopy (s : State) (n : Nat) : Option (List (List Byte)) :=
  let b := s.cfl.read ((36 + n) * 65536) 2540
  if b.take 4 = [0x53, 0x51, 0x52, 0x43] ∧ leAt b 2536 4 = crc32c (b.take 2536) ∧ !bitOf s.cfl.flags (36 + n) then
    some [(b.drop 16).take 2048, (b.drop 2064).take 88, (b.drop 2152).take 384]
  else none

/-- The sequencer record in force: the first copy that verifies. -/
def State.seqRecordIn (s : State) : Option (List (List Byte)) :=
  match s.seqCopy 0 with
  | some t => some t
  | none => s.seqCopy 1

/-- The registers that the adopted figures load (R377, R204, R395, R396). -/
def State.adoptFigures (s : State) (im : Image) : State :=
  let s1 := (((s.set DRN_INMON_WARN im.inWarn).set DRN_INMON_COLLAPSE im.inCollapse).set DRN_INMON_HYST im.inHyst).set
    DRN_INMON_DEGLITCH im.inDeglitch
  let s2 := (((s1.set SEQ_BANKMON_DFLOOR im.dfloor).set SEQ_BANKMON_SFLOOR im.sfloor).set SEQ_BANKMON_HYST im.bankHyst).set
    SEQ_BANKMON_DEGLITCH im.bankDeglitch
  s2.set SEQ_DROOP_DROOP_MV im.droopMv

/-- Kinds of the rails as the registers show them: an unused rail reads 7 (SEQ_RAILn.STATE). -/
def State.showKinds (s : State) : State :=
  railList.foldl (fun t n =>
    if t.railKind n = 0 then t.setRail n 7
    else if t.rail n = 7 then t.setRail n (if t.railOn n then 6 else 0) else t) s

/-- The table that an adopted one puts in force: a rail that is on keeps its parents and CORE bit until the next power-up (R377). -/
def State.keepGraph (s : State) (new : List (List Byte)) : List (List Byte) :=
  let old := s.table.getD 0 []
  let sec := new.getD 0 []
  let rail := fun (n : Nat) =>
    let d := (sec.drop (40 * n)).take 40
    if s.railOn n && s.railKind n = 1 && decide (leAt d 0 1 = 1) then
      d.take 1 ++ (old.drop (40 * n + 1)).take 1 ++ (d.drop 2).take 2 ++ (old.drop (40 * n + 4)).take 4 ++ d.drop 8
    else d
  (railList.flatMap rail ++ sec.drop 1920) :: new.drop 1

/-- A switch or manual rail that the image makes unused or sequenced: RAIL_EN goes low (R370). -/
def State.enLow (s : State) (n : Nat) : State := (s.updSeq fun q => { q with en := clrBit q.en n }).setRail n 0

/-- Scans begin on a list at this boundary (R377, R378); the registers show the list. -/
def State.startScans (s : State) (l : List Nat) : State :=
  let s1 := (List.range 64).foldl (fun t n => t.setB (SEQ_READ_LISTED n) (l.contains n)) s
  ((s1.updSeq fun q => { q with scanList := l, scanStart := s.glb.beat }).set SEQ_SCAN_N l.length).set SEQ_SCAN_S (cdiv l.length 4)

/-- The reset outputs under an adopted table (R394): a group whose rails are all good already and whose output is asserted begins its
stretch; the output of a group that holds no rail is asserted. -/
def State.adoptRst (s : State) : State :=
  (List.range 16).foldl (fun t g =>
    if (t.groupRails g).isEmpty then t.assertRst g
    else if (t.groupRails g).all (fun k => t.rail k = 3) && bitOf (t.get SEQ_RST_ASSERTED) g && Store.get 0 t.seq.stretch g = 0 then
      t.startStretch g
    else t) s

/-- Domains that go off with those an image disables: every domain on that needs one of them, dependants first (R381). -/
def State.disabledDoms (s : State) : List Nat :=
  ((((List.range 96).filter fun d => !s.domEnabled d).flatMap (domWithDeps 4)).eraseDups).filter s.domOn

/-- The sequencer adopts an image's sections (R377). -/
def State.adopt (s : State) (im : Image) : State :=
  let old := s.table
  let new := s.keepGraph im.table
  let gone := railList.filter fun n => tblAt old 0 (40 * n) 1 = 1 && tblAt new 0 (40 * n) 1 ≠ 1
  let down0 := if gone.any s.railOn then s.groupDown (gone.filter s.railOn) else s
  let down := down0.updSeq fun q => { q with left := (gone.filter down0.railOn).foldl (fun l n =>
    Store.put (0, 0) l n (if s.railGroup n < 16 then s.railGroup n + 1 else 0, s.railOffDly n)) q.left }
  let moved := railList.filter fun n => tblAt old 0 (40 * n + 8) 2 ≠ tblAt new 0 (40 * n + 8) 2
  let s1 := moved.foldl (fun t n => let r := t.railSt n
    t.setRailSt n { r with inCnt := 0, outCnt := 0, warnIn := 0, warnOut := 0 }) down
  let s2 := (s1.updSeq fun q => { q with tbl := new, later := if new = im.table then [] else im.table }).set SEQ_STATUS_TABLE 2
  let owned := fun (n : Nat) => decide (s2.railGroup n < 16) && s2.groupOwner (s2.railGroup n) ≠ 0
    && tblAt old 0 (40 * n) 1 = 1
  let freed := railList.filter fun n => (tblAt old 0 (40 * n) 1 = 2 ∨ tblAt old 0 (40 * n) 1 = 3) ∧ tblAt new 0 (40 * n) 1 < 2
  let s3 := (freed.foldl State.enLow (s2.updSeq fun q => { q with
    want := (s2.seqRails.filter fun n => !owned n || bitOf q.want n).foldl setBit 0 })).showKinds
  let s4 := (s3.seqRails.filter fun n => !owned n).foldl (fun t n => if t.rail n = 5 then t.setRail n 0 else t) s3
  let s5 := ((s4.domsOff s4.disabledDoms).adoptRst).adoptFigures im
  let s6 := if s5.seq.scanList.isEmpty then s5.startScans s5.scanInputs else s5
  let differ := s6.seqRecordIn ≠ some im.table
  let record := seqRecord im.gen im.table
  let s7 := if differ then (s6.flashWrite (.seqCopy 0 record)).flashWrite (.seqCopy 1 record) else s6
  s7.startRails

/-- What a boundary does in the sequencer: domains report, rails and domains start, group power-downs begin (R379, R381, R392). -/
def State.seqBoundary (s : State) (report : Nat) : State := (((s.domReport report).startRails).startDoms).groupBegin

/-- The fabric quadrant of a tile (R381). -/
def quadrantOf (t : Nat) : Nat := 2 * (t / 8 / 4) + t % 8 / 4

/-- Sensors of a fabric quadrant that stand tripped (R396). -/
def State.droopsIn (s : State) (q : Nat) : Nat :=
  ((List.range 64).filter fun t => quadrantOf t = q && s.bit (SEQ_DROOPCNT_NOW t)).length

/-- The engine clock of a tile in MHz (R396). -/
def State.engineMhz (s : State) (t : Nat) : Nat := if s.bit (SEQ_DROOPCNT_NOW t) then 1000 else 2000

/-- The fabric clock of a quadrant in MHz (R396). The 32 cycles of its release are 20 ns, 4 ns more than a tile's: its clock is
whole again two beat-clock cycles after the release that leaves fewer than four sensors tripped. -/
def State.fabricMhz (s : State) (q : Nat) : Nat :=
  let r := Store.get 0 s.seq.fabRel q
  if 4 ≤ s.droopsIn q ∨ (r ≠ 0 ∧ s.cycleNow < r + 1) then 800 else 1600

end Sys2Proof.Machine
end

