-- ==== Sys2Proof/Machine/VaultOps.lean ====
section
/-! DEFINITION. The vault as the blocks use it: chunks, slots, bands, parity, tag tables, crowns, modules (R230 to R263). -/

namespace Sys2Proof.Machine

/-- The chunk code: BCH over GF(2^15) with 144 consecutive roots, correcting 72 bits (R236). -/
def chunkCode : Code := ⟨15, 0x8003, 1, 144⟩

/-- The bits of a chunk message in the order of R236: bytes in order, most significant bit first. -/
def chunkBits (l : List Byte) : List Nat :=
  (l.map fun b => [7, 6, 5, 4, 3, 2, 1, 0].map fun i => bits b.toNat i 1).flatten

/-- The bytes that bits spell, most significant first. -/
def bitsBytes (n : Nat) (l : List Nat) : List Byte :=
  (List.range n).map fun i => BitVec.ofNat 8 ((List.range 8).foldl (fun a j => 2 * a + l.getD (8 * i + j) 0) 0)

/-- Remainder of a division by a binary polynomial, one message bit at a time; polynomials as numbers. -/
def crcStep (g deg : Nat) (r b : Nat) : Nat :=
  let t := 2 * r + b
  if bitOf t deg then t ^^^ g else t

/-- The generator of the chunk code as a number: the product of the distinct minimal polynomials (R236). -/
def bchGenerator : Nat :=
  let minimal := fun (i : Nat) =>
    let orbit := (List.range 15).map fun j => chunkCode.alpha (i * 2 ^ j)
    orbit.foldl (fun (p : List Nat) a =>
      (List.range (p.length + 1)).map fun k => (if k = 0 then 0 else p.getD (k - 1) 0) ^^^ chunkCode.mul a (p.getD k 0)) [1]
  (List.range 72).foldl (fun g i =>
    (List.range 16).foldl (fun acc k => if (minimal (2 * i + 1)).getD k 0 = 1 then acc ^^^ (g * 2 ^ k) else acc) 0) 1

/-- The 135 parity bytes of a chunk message (R236). -/
def chunkParity (m : List Byte) : List Byte :=
  let r := (chunkBits m ++ List.replicate 1080 0).foldl (crcStep bchGenerator 1080) 0
  beBytes 135 r

/-- One page on flash as its raw bytes: the stored chunks inverted, with parity, FAILMASK, and 0xFF to the end of its `spare`
bytes (R237, R238). -/
def rawPage (chunks : List (List Byte)) (mask : Option Nat) (spare : Nat) : List Byte :=
  let inv := fun (l : List Byte) => l.map (· ^^^ 0xFF)
  (chunks.map fun c => inv (c.take 2048)).flatten ++ (chunks.map fun c => inv (c.drop 2048 ++ chunkParity c)).flatten
    ++ (match mask with
      | some f => leBytes 3 f ++ leBytes 3 (f ^^^ 0xFFFFFF)
      | none => List.replicate 6 0xFF) ++ List.replicate (spare - 1214) 0xFF

/-- The read of a chunk with bits flipped: the message and the count of corrected bits. Up to 72 flips are corrected, which
is what the code does (R236); more go through the decoder. -/
def chunkDecode (m : List Byte) (flips : List Nat) : Option (List Byte × Nat) :=
  let fs := flips.eraseDups
  if fs.length ≤ 72 then some (m, fs.length)
  else
    let par := chunkParity m
    let w := chunkBits (m ++ par)
    let w' := (List.range w.length).map fun i => if fs.contains i then 1 - w.getD i 0 else w.getD i 0
    match chunkCode.decode w' with
    | some (c, pos) => if c.all (· < 2) then some (bitsBytes 2064 c, pos.length) else none
    | none => none

/-- The address of an erase block, a page and a chunk as one number. -/
def eblockKey (ch t pl blk : Nat) : Nat := ((ch * 8 + t) * 4 + pl) * 16384 + blk
def pageKey (ch t pl blk pg : Nat) : Nat := eblockKey ch t pl blk * 4096 + pg
def chunkKey (ch t pl blk pg c : Nat) : Nat := pageKey ch t pl blk pg * 8 + c

/-- An erase block as an entry of the bad-block cell: channel, target, plane, erase block from bit 0 up (R418, TYPE 5). -/
def badEntry (eb : Nat) : Nat := eb / 16384 / 32 + 2 ^ 5 * (eb / 16384 / 4 % 8) + 2 ^ 8 * (eb / 16384 % 4) + 2 ^ 10 * (eb % 16384)

/-- The payload of the bad-block cell. -/
def badPayload (l : List Nat) : List Byte := (l.map fun eb => leBytes 4 (badEntry eb)).flatten

/-- The channel and the erase block number of a page or chunk key. -/
def keyChannel (eb : Nat) : Nat := eb / 16384 / 32
def keyBlk (eb : Nat) : Nat := eb % 16384

/-- No vault location (R234). -/
def noVloc : Nat := 0xFFFFFFFFFF

/-- The fields of a vault location (Table: VLOC). -/
def vlocSlot (v : Nat) : Nat := bits v 0 2
def vlocPlane (v : Nat) : Nat := bits v 2 2
def vlocPage (v : Nat) : Nat := bits v 4 12
def vlocBlk (v : Nat) : Nat := bits v 16 14
def vlocTarget (v : Nat) : Nat := bits v 30 3
def vlocChannel (v : Nat) : Nat := bits v 33 5
def mkVloc (ch t blk pg pl k : Nat) : Nat := k + 4 * pl + 16 * pg + 2 ^ 16 * blk + 2 ^ 30 * t + 2 ^ 33 * ch

/-- Data sheets of a row: 24 with four modules, 16 with three (R233). -/
def Band.ndata (b : Band) : Nat := if ones 4 b.mods = 4 then 24 else 16

/-- The parity module and the data modules of row `r` (R233). -/
def Band.parityMod (b : Band) (r : Nat) : Nat :=
  if ones 4 b.mods = 4 then (r + b.bseq) % 4 else (modsOf b.mods).getD ((r + b.bseq) % 3) 0
def Band.dataMods (b : Band) (r : Nat) : List Nat := (modsOf b.mods).filter (· ≠ b.parityMod r)

/-- Slots of a row, rows of a band, slots of a band (R232, R234). -/
def Image.rowSlots (i : Image) (b : Band) : Nat := b.ndata * i.planes * 4
def Image.bandRows (i : Image) : Nat := (i.pages - 1) * i.targets
def Image.bandSlots (i : Image) (b : Band) : Nat := i.bandRows * i.rowSlots b

/-- The erase block of a channel, target and plane is a hole of the band (R245). -/
def Band.hole (b : Band) (ch t q : Nat) : Bool := bitOf b.holes (32 * ch + 4 * t + q)

/-- The location of a slot index (R232, R234). -/
def Image.slotPlace (i : Image) (b : Band) (x : Nat) : Nat :=
  let r := x / i.rowSlots b
  let y := x % i.rowSlots b
  let j := y / (4 * i.planes)
  mkVloc (8 * (b.dataMods r).getD (j / 8) 0 + j % 8) (r % i.targets) b.blk (1 + r / i.targets) (y / 4 % i.planes) (y % 4)

/-- The row of a location, and its slot index in band (R232, R234). -/
def Image.rowOf (i : Image) (v : Nat) : Nat := (vlocPage v - 1) * i.targets + vlocTarget v
def Image.slotIndex (i : Image) (b : Band) (v : Nat) : Nat :=
  let r := i.rowOf v
  let j := (b.dataMods r).idxOf (vlocChannel v / 8) * 8 + vlocChannel v % 8
  r * i.rowSlots b + (j * i.planes + vlocPlane v) * 4 + vlocSlot v

/-- The band of a sequence number, and the newest band of an erase block number. -/
def State.band (s : State) (bseq : Nat) : Option Band := s.vlt.bands.find? fun b => b.bseq = bseq
def State.bandAt (s : State) (blk : Nat) : Option Band := (s.vlt.bands.filter fun b => b.blk = blk).getLast?

/-- Replace a band. -/
def State.setBand (s : State) (b : Band) : State :=
  s.updVlt fun v => { v with bands := v.bands.map fun x => if x.bseq = b.bseq then b else x }

/-- A module is counted and in use. -/
def State.modUp (s : State) (m : Nat) : Bool := bitOf (s.get VLT_MODS_COUNTED) m

/-- A chunk as the flash holds it: a blank chunk is 2,064 zero bytes (R237). -/
def State.rawChunk (s : State) (key : Nat) : List Byte := (Store.get none s.vlt.nand key).getD (List.replicate 2064 0)

/-- A chunk read directly: its module is counted and some read-retry level reads it. -/
def State.directChunk (s : State) (ch t pl blk pg c : Nat) : Option (List Byte) :=
  if s.modUp (ch / 8) && !s.vlt.bad.contains (chunkKey ch t pl blk pg c) then some (s.rawChunk (chunkKey ch t pl blk pg c))
  else none

/-- FAILMASK of a row: from its first parity page that holds one (R244). -/
def State.rowMask (s : State) (b : Band) (t pg r : Nat) : Option Nat :=
  let pages := (List.range 8).map fun n => (List.range 4).map fun q => pageKey (8 * b.parityMod r + n) t q b.blk pg
  if s.modUp (b.parityMod r) then pages.flatten.findSome? fun k => Store.get none s.vlt.masks k else none

/-- Rebuild a chunk from the parity of its row (R244). -/
def State.rebuild (s : State) (ch t pl blk pg c : Nat) : Option (List Byte) :=
  match s.bandAt blk with
  | none => none
  | some b =>
    let r := (pg - 1) * s.img.targets + t
    let n := ch % 8
    let idx := fun (m : Nat) => (b.dataMods r).idxOf m * 8 + n
    match s.rowMask b t pg r with
    | none => none
    | some f =>
      if pg = 0 ∨ bitOf f (idx (ch / 8)) ∨ ch / 8 = b.parityMod r ∨ b.hole (8 * b.parityMod r + n) t pl then none
      else
        let others := (b.dataMods r).filter fun m => m ≠ ch / 8 && !bitOf f (idx m)
        let parts := (s.directChunk (8 * b.parityMod r + n) t pl blk pg c) :: others.map fun m =>
          s.directChunk (8 * m + n) t pl blk pg c
        if parts.all Option.isSome then
          some (parts.foldl (fun a p => xorBytes a (p.getD [])) (List.replicate 2064 0))
        else none

/-- A chunk as a read delivers it: directly, or rebuilt (R239). -/
def State.readChunk (s : State) (ch t pl blk pg c : Nat) : Option (List Byte) :=
  match s.directChunk ch t pl blk pg c with
  | some m => some m
  | none => s.rebuild ch t pl blk pg c

/-- A key of the vault: the data key or the seal key by its slot; with no key in the slot the value is open. -/
def State.vaultKey (s : State) (slot : Nat) : List Byte := (s.keyOf slot).getD (Config.openBytes slot [])

/-- A slot as read and decrypted: the fields of its descriptor and its plaintext (R240, R241). -/
structure SlotRead where
  ty : Nat
  cls : Nat
  reloc : Bool
  poison : Bool
  pline : Nat
  key : Nat
  aux : Nat
  tag : List Byte
  plain : List Byte
deriving DecidableEq, Repr

/-- The IV of a slot (R241). -/
def slotIv (bseq idx : Nat) : List Byte := beBytes 5 bseq ++ beBytes 3 idx ++ [0, 0, 0, 1]

/-- Read the slot at a location: none where it is unrecoverable, blank, of an earlier use of its block, or its tag fails. -/
def State.readSlot (s : State) (v : Nat) : Option SlotRead :=
  if 2 ^ 38 ≤ v then none
  else match s.bandAt (vlocBlk v) with
    | none => none
    | some b =>
      let rd := fun (j : Nat) => s.readChunk (vlocChannel v) (vlocTarget v) (vlocPlane v) (vlocBlk v) (vlocPage v)
        (2 * vlocSlot v + j)
      match rd 0, rd 1 with
      | some c0, some c1 =>
        let d := c1.drop 2048
        let ty := leAt d 0 1
        if ty = 0 ∨ 9 ≤ ty ∨ leAt d 13 3 ≠ b.bseq % 2 ^ 24 then none
        else match gcmOpen (s.vaultKey s.img.dataKey) (slotIv b.bseq (s.img.slotIndex b v)) d (c0.take 2048 ++ c1.take 2048)
            (c0.drop 2048) with
          | some p => some ⟨ty, leAt d 1 1 % 8, bitOf (leAt d 1 1) 3, bitOf (leAt d 1 1) 4, leAt d 2 1, leAt d 4 4, leAt d 8 5,
              c0.drop 2048, p⟩
          | none => none
      | _, _ => none

/-- The tag and the type of a slot as stored, without decryption. -/
def State.slotTag (s : State) (v : Nat) : Nat × List Byte :=
  let rd := fun (j : Nat) => (s.readChunk (vlocChannel v) (vlocTarget v) (vlocPlane v) (vlocBlk v) (vlocPage v)
    (2 * vlocSlot v + j)).getD []
  (leAt ((rd 1).drop 2048) 0 1, (rd 0).drop 2048)

/-- Cache data granules, and the reserve in bands (R235). -/
def State.dataGranules (s : State) : Nat := s.capacityWith s.img.spares / 4096
def State.resvBands (s : State) : Nat :=
  let per := s.img.bandRows * 64 * s.img.planes
  if per = 0 then 0 else cdiv (s.dataGranules + 262144 + cdiv s.img.qcapLines 64) per + 2

/-- An erase block number that no live slot names: the band on it is free (R258). -/
def State.bandFree (s : State) (blk : Nat) : Bool :=
  !(s.cch.map.any fun e => e.2.vloc < 2 ^ 38 && vlocBlk e.2.vloc = blk)
    && !(s.vlt.tree.any fun e => vlocBlk (e.2 - 1) = blk) && !(s.vlt.dirs.any fun e => vlocBlk (e.2 - 1) = blk)
    && !(s.vlt.root < 2 ^ 38 && vlocBlk s.vlt.root = blk)
    && !(s.vlt.crowns.any fun c => c.blocks.contains blk) && !s.vlt.newBlocks.contains blk
    && !(s.vlt.bands.any fun b => b.blk = blk && some b.bseq = s.vlt.openB)
    && !(s.vlt.inflight.any fun f => vlocBlk f.vloc = blk)
    && !(s.rst.fetching.any fun f => f.2 ≤ 2 ^ 38 && vlocBlk (f.2 - 1) = blk)

/-- The free bands, ascending. -/
def State.freeBands (s : State) : List Nat :=
  ((List.range s.img.blocks).drop s.img.crownBlocks).filter s.bandFree

/-- Show the free bands and the reserve; SPACE sets with event 0x070C (R235). -/
def State.showSpace (s : State) : State :=
  let n := s.freeBands.length
  let s1 := (s.set VLT_FREE_FREE n).set VLT_FREE_RESV s.resvBands
  let low := decide (n ≤ s.resvBands)
  if low ∧ !s.bit VLT_STATUS_SPACE then (s1.setB VLT_STATUS_SPACE true).event 0x070C 0 else s1.setB VLT_STATUS_SPACE low

/-- The parameter page of a target meets the NAND requirements and states the image's geometry (R230, R231). -/
def Image.pageFits (i : Image) (p : ParamPage) : Bool :=
  p.nvLpddr4 && decide (p.main = 16384) && decide (1216 ≤ p.spare) && decide (1 ≤ p.retries) && decide (p.planes = i.planes)
    && decide (p.pages = i.pages) && decide (p.blocks = i.blocks)

/-- Every target of every channel of a module agrees with the image (R231). -/
def State.modFits (s : State) (ps : List ParamPage) (m : Nat) : Bool :=
  let mine := ps.filter fun p => p.mod.toNat = m
  mine.all s.img.pageFits && decide (mine.length = 8 * s.img.targets) && (List.range 8).all fun c =>
    (List.range s.img.targets).all fun t => mine.any fun p => p.channel.toNat = c && p.target.toNat = t

/-- The modules on which new bands are opened: counted, less those whose release has passed step 2 (R260, R261). -/
def State.bandMods (s : State) : Nat := s.get VLT_MODS_COUNTED &&& (15 ^^^ s.vlt.released2)

/-- The state page of a band (R245). -/
def Image.statePage (i : Image) (b : Band) : List Byte :=
  let d := [0x42, 0x41, 0x4E, 0x44] ++ leBytes 2 1 ++ leBytes 2 0 ++ leBytes 8 b.bseq ++ leBytes 8 b.epoch ++ leBytes 8 b.beat
    ++ leBytes 1 b.mods ++ leBytes 1 b.ndata ++ leBytes 1 i.planes ++ leBytes 1 i.targets ++ leBytes 2 i.pages ++ leBytes 2 0
    ++ leBytes 128 b.holes
  d ++ List.replicate (2064 - d.length) 0

/-- Erase blocks of an erase block number on the modules of a mask: channel, target, plane. -/
def Image.bandBlocks (i : Image) (mods : Nat) : List (Nat × Nat × Nat) :=
  (modsOf mods).flatMap fun m => (List.range 8).flatMap fun n => (List.range i.targets).flatMap fun t =>
    (List.range i.planes).map fun q => (8 * m + n, t, q)

/-- Erase blocks of the flash whose key satisfies a test. -/
def Vlt.eraseWhere (v : Vlt) (p : Nat → Bool) : Vlt :=
  { v with
    nand := Store.keep (fun k => !p (k / 32768)) v.nand
    masks := Store.keep (fun k => !p (k / 4096)) v.masks
    bad := v.bad.filter fun k => !p (k / 32768)
    lost := v.lost.filter fun k => !p (k / 16384)
    halfErased := v.halfErased.filter fun k => !p k }

/-- Open a band on an erase block number: erase, write the state pages, make it the open band (R245, R250). -/
def State.openBand (s : State) (blk : Nat) : State :=
  let mods := s.bandMods
  let holes := (s.img.bandBlocks 15).foldl (fun h x =>
    if s.vlt.badBlocks.contains (eblockKey x.1 x.2.1 x.2.2 blk) then setBit h (32 * x.1 + 4 * x.2.1 + x.2.2) else h) 0
  let b : Band := ⟨blk, s.vlt.maxB + 1, s.get64 VLT_EPOCH_LO_EPOCH VLT_EPOCH_HI_EPOCH, s.beat, mods, holes, 0, false, false⟩
  let s1 := s.updVlt fun v => v.eraseWhere fun eb => keyBlk eb = blk && bitOf mods (keyChannel eb / 8)
  let page := s.img.statePage b
  let s2 := ((s.img.bandBlocks mods).filter fun x => !b.hole x.1 x.2.1 x.2.2).foldl (fun t x => t.updVlt fun v => { v with
    nand := Store.put none v.nand (chunkKey x.1 x.2.1 x.2.2 blk 0 0) (some page) }) s1
  ((s2.updVlt fun v => { v with
    bands := (v.bands.filter fun x => x.blk ≠ blk) ++ [b], openB := some b.bseq, maxB := b.bseq,
    newBlocks := v.newBlocks ++ [blk]
    fail := Store.keep (fun k => !(v.bands.any fun x => x.blk = blk && k / 65536 = x.bseq)) v.fail }).set64
      VLT_BSEQ_LO_BSEQ VLT_BSEQ_HI_BSEQ b.bseq).showSpace

/-- The open band. -/
def State.openBandOf (s : State) : Option Band := s.vlt.openB.bind s.band

/-- The next slot index of a band that no hole takes. -/
def Image.nextUsable (i : Image) (b : Band) : Nat → Nat → Nat
  | 0, x => x
  | fuel + 1, x =>
    let v := i.slotPlace b x
    if b.hole (vlocChannel v) (vlocTarget v) (vlocPlane v) then i.nextUsable b fuel (x + 1) else x

/-- A slot can be written: a band is open with room, or a band is free and three modules are in use. -/
def State.slotRoom (s : State) : Bool :=
  (match s.openBandOf with
    | some b => decide (s.img.nextUsable b (s.img.bandSlots b) b.next < s.img.bandSlots b)
    | none => false) || (!s.freeBands.isEmpty && decide (3 ≤ ones 4 s.bandMods))

/-- The open band with room, opening the lowest free band where none has room (R250). -/
def State.roomy (s : State) : State :=
  match s.openBandOf with
  | some b =>
    if s.img.nextUsable b (s.img.bandSlots b) b.next < s.img.bandSlots b then s
    else match s.freeBands with
      | [] => s
      | blk :: _ => (s.setBand { b with closed := true }).openBand blk
  | none => match s.freeBands with
    | [] => s
    | blk :: _ => s.openBand blk

/-- The bytes of a slot descriptor (R240). -/
def descriptor (ty flags pline key aux bseq : Nat) : List Byte :=
  leBytes 1 ty ++ leBytes 1 flags ++ leBytes 1 pline ++ leBytes 1 1 ++ leBytes 4 key ++ leBytes 5 aux ++ leBytes 3 bseq

/-- Write one slot into the log: its location, its index, and the state (R240, R241, R250). A row in which no usable slot is left,
holes apart, is over, and its PARITY task is queued (R243, R245). -/
def State.writeSlot (s0 : State) (ty flags pline key aux : Nat) (plain : List Byte) : InFlight × State :=
  let s := s0.roomy
  match s.openBandOf with
  | none => (⟨noVloc, 0, 0, 0, 0, 0⟩, s)
  | some b =>
    let x := s.img.nextUsable b (s.img.bandSlots b) b.next
    let v := s.img.slotPlace b x
    let d := descriptor ty flags pline key aux b.bseq
    let e := gcmSeal (s.vaultKey s.img.dataKey) (slotIv b.bseq x) d plain
    let at_ := fun (j : Nat) => chunkKey (vlocChannel v) (vlocTarget v) (vlocPlane v) b.blk (vlocPage v) (2 * vlocSlot v + j)
    let per := s.img.rowSlots b
    let rowEnd := decide ((x / per + 1) * per ≤ s.img.nextUsable b (s.img.bandSlots b) (x + 1))
    let s1 := (s.setBand { b with next := if rowEnd then (x / per + 1) * per else x + 1 }).updVlt fun w => { w with
      nand := Store.put none (Store.put none w.nand (at_ 0) (some (e.1.take 2048 ++ e.2))) (at_ 1) (some (e.1.drop 2048 ++ d)),
      sinceCut := w.sinceCut + 1,
      newBlocks := if w.newBlocks.contains b.blk then w.newBlocks else w.newBlocks ++ [b.blk] }
    let s2 := if rowEnd then
        s1.enqueue 10 (if s.glb.st = .drain then 7 else 5) (b2n (s.glb.st = .drain)) 1 b.bseq (x / per) false
      else s1
    (⟨v, b.bseq, x, 0, 0, 0⟩, s2)

/-- The parity pages of a row (R243). -/
def State.writeParity (s : State) (b : Band) (r : Nat) : State :=
  let t := r % s.img.targets
  let pg := 1 + r / s.img.targets
  let f := Store.get 0 s.vlt.fail (65536 * b.bseq + r)
  let p := b.parityMod r
  (List.range 8).foldl (fun u n => (List.range s.img.planes).foldl (fun w q =>
    if b.hole (8 * p + n) t q then w.setBand { (w.band b.bseq).getD b with marked := true }
    else
      let chunks := (List.range 8).foldl (fun (m : Store (Option (List Byte))) c =>
        let x := (List.range (b.ndata / 8)).foldl (fun a j =>
          if bitOf f (8 * j + n) then a
          else xorBytes a (s.rawChunk (chunkKey (8 * (b.dataMods r).getD j 0 + n) t q b.blk pg c))) (List.replicate 2064 0)
        Store.put none m (chunkKey (8 * p + n) t q b.blk pg c) (some x)) w.vlt.nand
      w.updVlt fun v => { v with nand := chunks, masks := Store.put none v.masks (pageKey (8 * p + n) t q b.blk pg) (some f) }) u) s

/-- A slot of a row is still being written. -/
def State.rowBusy (s : State) (b : Band) (r : Nat) : Bool :=
  s.vlt.inflight.any fun f => f.bseq = b.bseq && f.idx / max 1 (s.img.rowSlots b) = r

/-- Close the open row: the slots left in it stay blank, and its parity is written, by a PARITY task where a slot of the row is
still being written (R243, R250, R252). -/
def State.closeRow (s : State) : State :=
  match s.openBandOf with
  | none => s
  | some b =>
    let per := s.img.rowSlots b
    if b.next % per = 0 then s
    else
      let r := b.next / per
      let t := s.setBand { b with next := (r + 1) * per }
      if s.rowBusy b r then t.enqueue 10 (if s.glb.st = .drain then 7 else 5) (b2n (s.glb.st = .drain)) 1 b.bseq r false
      else t.writeParity b r

/-- Close the open band (R260, R261): no further slot goes to it. -/
def State.closeBand (s : State) : State :=
  match s.openBandOf with
  | none => s
  | some b =>
    let s1 := s.closeRow
    ((s1.setBand { (s1.band b.bseq).getD b with closed := true }).updVlt fun v => { v with openB := none }).set64
      VLT_BSEQ_LO_BSEQ VLT_BSEQ_HI_BSEQ 0

/-- A place in the log lies at or after another: band sequence, then slot index (R250). -/
def logLe (b i b' i' : Nat) : Bool := b < b' || (b = b' && i ≤ i')

/-- The plaintext of a tag table: the tags of 256 slots that were written in this epoch (R248). -/
def State.tagTable (s : State) (b : Band) (n : Nat) : List Byte :=
  ((List.range 256).map fun i =>
    let x := 256 * n + i
    if x < b.next && logLe s.vlt.startB s.vlt.startI b.bseq x then
      let v := s.img.slotPlace b x
      let t := s.slotTag v
      if t.1 = 0 ∨ t.1 = 7 then List.replicate 16 0 else t.2
    else List.replicate 16 0).flatten

/-- Write the tag table of one span, where a slot can be written. -/
def State.writeTags (s : State) (b : Band) (n : Nat) : State :=
  if !s.slotRoom then s else
  let p := s.tagTable b n
  let w := s.writeSlot 7 0 0 n b.bseq p
  w.2.updVlt fun v => { v with tagDone := v.tagDone ++ [(b.bseq, n)], tagPlain := v.tagPlain ++ [p] }

/-- The spans of 256 slots of a band that hold slots of this epoch and have no tag table yet; `whole` keeps those whose
slots have all completed (R248). -/
def State.tagSpans (s : State) (b : Band) (whole : Bool) : List Nat :=
  let first := if b.bseq = s.vlt.startB then s.vlt.startI / 256 else 0
  if b.bseq < s.vlt.startB then []
  else ((List.range (cdiv b.next 256)).drop first).filter fun n =>
    !s.vlt.tagDone.contains (b.bseq, n) && (!whole || (decide (256 * (n + 1) ≤ b.next)
      && !(s.vlt.inflight.any fun f => f.bseq = b.bseq && f.idx / 256 = n)))

/-- Write the tag tables that are due (R248), or every one that remains of the epoch (R252 step 1). -/
def State.tagAll (s : State) (whole : Bool) : State :=
  let due := s.vlt.bands.flatMap fun b => (s.tagSpans b whole).map fun n => (b.bseq, n)
  due.foldl (fun t x => match t.band x.1 with | some b => t.writeTags b x.2 | none => t) s

/-- The map piece of a granule has changed since the previous cut (R251). -/
def State.touchPiece (s : State) (g : Nat) : State :=
  if s.vlt.dirtyPieces.contains (g / 512) then s
  else s.updVlt fun v => { v with dirtyPieces := v.dirtyPieces ++ [g / 512] }

/-- Set the vault location and class of a granule's entry. -/
def State.setVloc (s : State) (g v c : Nat) : State :=
  (s.setEntry g { s.entry g with vloc := v, cls := some c }).touchPiece g

/-- The 64 bits of a map entry with VLOC and CLASS alone (R247). -/
def State.entryBits (s : State) (g : Nat) : Nat := (s.entry g).vloc + 2 ^ 40 * s.classOf g

/-- The plaintext of a granule slot: data, with the poison mask in the lowest poisoned line (R242). -/
def State.granuleBytes (s : State) (g : Nat) : Bool × Nat × List Byte :=
  let cells := (List.range 64).map fun i => s.line (64 * g + i)
  let mask := (List.range 64).foldl (fun m i => if (cells.getD i LineCell.zero).poison then m + 2 ^ i else m) 0
  let p := ((List.range 64).find? fun i => bitOf mask i).getD 0
  (mask ≠ 0, p, ((List.range 64).map fun i =>
    let c := cells.getD i LineCell.zero
    if c.poison then (if i = p then leBytes 8 mask ++ List.replicate 56 0 else List.replicate 64 0)
    else leBytes 64 c.data.toNat).flatten)

/-- The lines of a granule slot's plaintext (R242). -/
def slotLines (r : SlotRead) : List LineCell :=
  let mask := if r.poison then leAt r.plain (64 * r.pline) 8 else 0
  (List.range 64).map fun i =>
    if bitOf mask i then ⟨0, true⟩ else ⟨BitVec.ofNat 512 (leAt r.plain (64 * i) 64), false⟩

/-- Write a granule of DRAM into the log: the slot's flight, and the state (R242, R256). -/
def State.writeGranule (s : State) (g kind : Nat) : InFlight × State :=
  let d := s.granuleBytes g
  let w := s.writeSlot 1 (s.classOf g + 16 * b2n d.1) (if d.1 then d.2.1 else 0) g noVloc d.2.2
  let f := { w.1 with granule := g, kind := kind }
  (f, w.2.updVlt fun v => { v with inflight := v.inflight ++ [f] })

/-- The calibrated coefficients of a set as the crown carries them. -/
def State.calBytes (s : State) (k3 : Bool) : List Byte := ([0, 1, 2, 3].map fun c => leBytes 4 (s.kcal k3 c)).flatten

/-- What a crown records beside the state of the vault. -/
structure CrownIn where
  flags : Nat
  epoch : Nat
  t0 : Nat
  cause : Nat
  lastM : Nat
  drop : Nat
  unsaved : Nat
  stamps : List Nat           -- local horizon, mirrored horizon, last stamp of port A, then of port B
deriving DecidableEq, Repr

/-- The 16,384 bytes of a crown (Table: Crown layout). -/
def State.crownBytes (s : State) (c : CrownIn) (root : Nat) (startB startI cutB cutI endB endI : Nat) (digest : List Byte)
    (notes : List Nat) : List Byte :=
  let place := fun (b i : Nat) => leBytes 8 b ++ leBytes 4 i ++ leBytes 4 0
  let body := [0x43, 0x52, 0x57, 0x4E] ++ leBytes 2 1 ++ leBytes 2 c.flags ++ leBytes 8 c.epoch ++ leBytes 8 s.beat
    ++ leBytes 8 c.t0 ++ leBytes 1 c.cause ++ leBytes 1 (s.get VLT_MODS_COUNTED) ++ leBytes 6 0
    ++ (c.stamps.map (leBytes 8)).flatten ++ digest ++ leBytes 8 root ++ place startB startI ++ place cutB cutI
    ++ place endB endI ++ leBytes 8 c.lastM ++ leBytes 4 c.drop ++ leBytes 4 c.unsaved ++ s.calBytes false ++ s.calBytes true
    ++ s.crownRemap ++ ((List.range 32).map fun i => leBytes 8 (notes.getD i noVloc)).flatten ++ leBytes 8 s.vlt.prevEpoch
  let full := body ++ List.replicate (16352 - body.length) 0
  full ++ hmacSha256 (s.vaultKey s.img.sealKey) full

/-- The horizons and stamps as they stand (R252). -/
def State.crownStamps (s : State) : List Nat :=
  [s.lhz .pa, s.mhz .pa, s.pq.lastStamp.a, s.lhz .pb, s.mhz .pb, s.pq.lastStamp.b]

/-- Program a crown page on a module's ring (R253): the next page, with the erase its block needs first. -/
def State.ringWrite (s : State) (m : Nat) (bytes : List Byte) : State :=
  let per := s.img.pages
  let total := per * s.img.crownBlocks
  let at_ := Store.get 0 s.vlt.ring m % max 1 total
  let blk := at_ / max 1 per
  let s1 := if at_ % max 1 per = 0 then s.updVlt fun v => v.eraseWhere fun eb => eb = eblockKey (8 * m) 0 0 blk else s
  (List.range 8).foldl (fun t c => t.updVlt fun v => { v with
    nand := Store.put none v.nand (chunkKey (8 * m) 0 0 blk (at_ % max 1 per) c)
      (some ((bytes.drop (2048 * c)).take 2048 ++ List.replicate 16 0)) })
    (s1.updVlt fun v => { v with ring := Store.put 0 v.ring m (at_ + 1) })

/-- The erase blocks that the current tree, the tail, the tag tables and the notes of an epoch lie in (R258). -/
def State.crownBlockList (s : State) (cutB : Nat) : List Nat :=
  ((s.vlt.tree.map fun e => vlocBlk (e.2 - 1)) ++ (s.vlt.dirs.map fun e => vlocBlk (e.2 - 1))
    ++ (if s.vlt.root < 2 ^ 38 then [vlocBlk s.vlt.root] else [])
    ++ ((s.vlt.bands.filter fun b => cutB ≤ b.bseq || s.vlt.startB ≤ b.bseq).map Band.blk)
    ++ (s.vlt.notes.map vlocBlk)).eraseDups

/-- A tag table of this epoch has moved to the end of the log: so has its plaintext in the digest (R252). -/
def Vlt.tagLast (v : Vlt) (b n : Nat) : Vlt :=
  let i := v.tagDone.idxOf (b, n)
  if !v.tagDone.contains (b, n) then v
  else { v with tagDone := v.tagDone.eraseIdx i ++ [(b, n)], tagPlain := v.tagPlain.eraseIdx i ++ [v.tagPlain.getD i []] }

/-- The slots of a sheet whose program failed are written again in a later row, and what named them follows (R259). -/
def State.reissue (s : State) (v : Nat) (r : SlotRead) : State :=
  let w := s.writeSlot r.ty (r.cls + 8 * b2n r.reloc + 16 * b2n r.poison) r.pline r.key r.aux r.plain
  let n := w.1.vloc
  let mv := fun (x : Nat) => if x = v then n else x
  let mv1 := fun (x : Nat) => if x = v + 1 then n + 1 else x
  let s1 := w.2.updVlt fun t => { t with
    inflight := t.inflight.map fun f => if f.vloc = v then { f with vloc := n, bseq := w.1.bseq, idx := w.1.idx } else f
    tree := t.tree.map fun e => (e.1, mv1 e.2), dirs := t.dirs.map fun e => (e.1, mv1 e.2), root := mv t.root
    notes := t.notes.map mv
    dirtyPieces := if r.ty = 3 then t.dirtyPieces ++ [r.key] else t.dirtyPieces }
  if r.ty = 7 then s1.updVlt fun t => t.tagLast r.aux r.key
  else if r.ty = 1 ∧ (s1.entry r.key).vloc = v then s1.setVloc r.key n (s1.classOf r.key) else s1

/-- The row of a location is full or closed. -/
def State.rowOver (s : State) (v : Nat) : Bool :=
  match s.bandAt (vlocBlk v) with
  | some b => decide ((s.img.rowOf v + 1) * s.img.rowSlots b ≤ b.next)
  | none => true

/-- Reissue the slots of failed sheets whose row is over: read back, written in a later row, and lost where they failed. -/
def State.flushReissue (s : State) : State :=
  let due := s.vlt.reissueQ.filter s.rowOver
  let got := due.filterMap fun v => (s.readSlot v).map fun r => (v, r)
  let keys := due.flatMap fun v => [0, 1].map fun j =>
    chunkKey (vlocChannel v) (vlocTarget v) (vlocPlane v) (vlocBlk v) (vlocPage v) (2 * vlocSlot v + j)
  got.foldl (fun x y => x.reissue y.1 y.2) (s.updVlt fun w => { w with
    reissueQ := w.reissueQ.filter fun v => !due.contains v
    nand := Store.keep (fun k => !keys.contains k) w.nand
    bad := w.bad ++ keys.filter fun k => !w.bad.contains k })

/-- Seal the epoch (R252): tag tables, row, digest, the crown on every counted module; the next epoch begins. The slots of failed
sheets are written again first, so that the crown names their new places (R259). -/
def State.seal (s : State) (c : CrownIn) : State :=
  let s0 := if s.vlt.reissueQ.isEmpty then s else s.closeRow.flushReissue
  let s1 := (s0.tagAll false).closeRow
  let v := s1.vlt
  let end_ := match s1.openBandOf with | some b => (b.bseq, b.next) | none => (v.maxB + 1, 0)
  let bytes := s1.crownBytes c v.root v.startB v.startI v.cutB v.cutI end_.1 end_.2 (sha256 v.tagPlain.flatten) v.notes
  let blocks := s1.crownBlockList v.cutB
  let s2 := (modsOf (s1.get VLT_MODS_COUNTED)).foldl (fun t m => t.ringWrite m bytes) s1
  let s3 := s2.updVlt fun w => { w with
    crowns := (⟨c.epoch, blocks⟩ :: w.crowns).take 2, newBlocks := [], startB := end_.1, startI := end_.2, tagDone := [],
    tagPlain := [], notes := [], wide := false, ckpt := none, prevEpoch := c.epoch, crownBeat := s.beat, maxEpoch := max w.maxEpoch c.epoch }
  ((s3.set64 VLT_EPOCH_LO_EPOCH VLT_EPOCH_HI_EPOCH (c.epoch + 1)).setB VLT_STATUS_CKPT_BUSY false).showSpace

/-- The epoch in progress. -/
def State.epoch (s : State) : Nat := s.get64 VLT_EPOCH_LO_EPOCH VLT_EPOCH_HI_EPOCH

/-- A band needs re-striping: it is closed and lacks a counted module, or names one that is absent (R257). -/
def State.needsRestripe (s : State) (b : Band) : Bool := b.closed && decide (b.mods ≠ s.bandMods)

/-- Show whether re-striping runs, and whether striping is degraded (VLT_STATUS). -/
def State.showStripe (s : State) : State :=
  let used := s.vlt.bands.filter fun b => !s.bandFree b.blk
  let r := used.any s.needsRestripe
  let deg := decide (ones 4 s.bandMods < 4) || used.any fun b => b.mods &&& s.get VLT_MODS_COUNTED ≠ b.mods
  (s.setB VLT_STATUS_RESTRIPE r).setB VLT_STATUS_DEGRADED deg

/-- FAILED and MODFAIL set, with event 0x0703 and the interrupt (R260). -/
def State.moduleFailed (s : State) (m : Nat) : State :=
  let s1 := (s.set VLT_MODS_FAILED (setBit (s.get VLT_MODS_FAILED) m)).setB VLT_STATUS_MODFAIL true
  let s2 := s1.event 0x0703 (srcModule m)
  if s.bit VLT_STATUS_MODFAIL then s2 else s2.raise 14

/-- A flash module is absent or failed (R260). One that is not counted is reported once; one that was released is expected to be
taken out (R261). -/
def State.moduleAbsent (s : State) (m : Nat) : State :=
  if !s.modUp m then
    (if bitOf (s.get VLT_MODS_FAILED) m || bitOf (s.get VLT_MODS_RELEASED) m then s else s.moduleFailed m)
  else
    let s1 := (s.set VLT_MODS_COUNTED (clrBit (s.get VLT_MODS_COUNTED) m)).set VLT_MODS_PENDING (clrBit (s.get VLT_MODS_PENDING) m)
    let s2 := s1.updVlt fun v => { v with released2 := clrBit v.released2 m }
    let s4 := ((s2.moduleFailed m).closeBand.tagAll true).showStripe
    let s5 := s4.rehAbandon
    if s.glb.st = .drain then s5.setB DRN_STATUS_DEGRADED true else s5

/-- Mark an erase block bad (R259): it enters the bad-block cell; too many fail the module, and so does an entry that the
cell cannot hold (R421). -/
def State.markBad (s : State) (eb : Nat) : State :=
  let m := keyChannel eb / 8
  if s.vlt.badBlocks.contains eb then s
  else if 16376 ≤ s.vlt.badBlocks.length then s.moduleAbsent m
  else
    let s1 := s.updVlt fun v => { v with badBlocks := v.badBlocks ++ [eb] }
    let s2 := s1.flashWrite (.cell 5 (badPayload s1.vlt.badBlocks))
    if s.get VLT_FULL_BADMAX < (s1.vlt.badBlocks.filter fun k => keyChannel k / 8 = m).length then s2.moduleAbsent m else s2

end Sys2Proof.Machine
end

