-- ==== Sys2Proof/Machine/LogOps.lean ====
section
/-! DEFINITION. What the vault's tasks do: chunk outcomes, checkpoints, fulling, trickle (R239, R251, R256 to R259). -/

namespace Sys2Proof.Machine

/-- A slot is unrecoverable (R239), named by the key of a chunk of it: once for each slot, event 0x070A, its count, its flag with
the interrupt. -/
def State.unrecoverable (s : State) (key : Nat) : State :=
  if s.vlt.lost.contains (key / 2) then s
  else
    let s0 := s.updVlt fun v => { v with lost := v.lost ++ [key / 2] }
    let s1 := ((s0.event 0x070A (srcChannel (keyChannel (key / 32768)))).count VLT_UNREC_COUNT 1).setB VLT_STATUS_UNRECOV true
    if s.bit VLT_STATUS_UNRECOV then s1 else s1.raise 15

/-- The key of the first chunk of a slot. -/
def slotKey (v : Nat) : Nat := chunkKey (vlocChannel v) (vlocTarget v) (vlocPlane v) (vlocBlk v) (vlocPage v) (2 * vlocSlot v)

/-- Mark the band on an erase block number for fulling (R239, R244). -/
def State.markBand (s : State) (blk : Nat) : State :=
  match s.bandAt blk with
  | some b => s.setBand { b with marked := true }
  | none => s

/-- A chunk that no read delivers directly: rebuilt with event 0x0709, or its slot is unrecoverable (R239). -/
def State.chunkLost (s : State) (ch t pl blk pg c : Nat) : State :=
  match s.rebuild ch t pl blk pg c with
  | some _ => ((s.event 0x0709 (srcChannel ch)).count VLT_ERRCNT_REBUILDS 1).markBand blk
  | none => s.unrecoverable (chunkKey ch t pl blk pg c)

/-- The levels of a chunk read, the first read and then the read-retry levels: the first good one (R239). -/
def State.goodLevel (s : State) (m : List Byte) : List (List Nat) → Bool
  | [] => false
  | e :: es => (match chunkDecode m e with
      | some r => decide (r.2 ≤ s.get VLT_CTRL_RR_THR)
      | none => false) || s.goodLevel m es

/-- The place at which a checkpoint or an epoch begins: the next slot index of the open band, or the start of the next
band. -/
def State.logPlace (s : State) : Nat × Nat :=
  match s.openBandOf with
  | some b => (b.bseq, b.next)
  | none => (s.vlt.maxB + 1, 0)

/-- Bands that a fulling would choose from: closed, holding live slots (R257). -/
def State.closedBands (s : State) : List Band := s.vlt.bands.filter fun b => b.closed && !s.bandFree b.blk

/-- Granules whose map entry names a slot of a band. -/
def State.liveGranules (s : State) (b : Band) : List Nat :=
  (s.cch.map.filter fun e => e.2.vloc < 2 ^ 38 && vlocBlk e.2.vloc = b.blk).map Prod.fst

/-- The band with the fewest live slots. -/
def State.fewestLive (s : State) : List Band → Option Band
  | [] => none
  | b :: bs => match s.fewestLive bs with
    | none => some b
    | some c => some (if (s.liveGranules c).length < (s.liveGranules b).length then c else b)

/-- Fulling is wanted: free bands are below RESV + LOW and fulling is allowed, or they are at or below RESV + 2 (R257,
VLT_CTRL.FULL_EN, VLT_FULL.LOW). -/
def State.fullWanted (s : State) : Bool :=
  let n := s.freeBands.length
  (s.bit VLT_CTRL_FULL_EN && decide (n < s.resvBands + s.get VLT_FULL_LOW)) || decide (n ≤ s.resvBands + 2)

/-- The victim of fulling in the order of R257; re-striping goes on whatever the free bands. -/
def State.victim (s : State) : Option Band :=
  let l := s.closedBands
  let restripe := l.find? s.needsRestripe
  if s.fullWanted then
    match l.find? Band.marked with
    | some b => some b
    | none => match restripe with
      | some b => some b
      | none => s.fewestLive l
  else restripe

/-- A vault write that may not take a band of the reserve has room (R235). -/
def State.roomKept (s : State) : Bool :=
  (match s.openBandOf with
    | some b => decide (s.img.nextUsable b (s.img.bandSlots b) b.next < s.img.bandSlots b)
    | none => false) || (decide (s.resvBands < s.freeBands.length) && s.slotRoom)

/-- Copy one live granule of a victim band (R257). -/
def State.relocate (s : State) (g : Nat) : State :=
  let src := (s.entry g).vloc
  if !s.roomKept then s
  else match s.readSlot src with
    | none => s.unrecoverable (slotKey src)
    | some r =>
      let w := s.writeSlot 1 (r.cls + 8 + 16 * b2n r.poison) r.pline g src r.plain
      w.2.updVlt fun v => { v with inflight := v.inflight ++ [{ w.1 with granule := g, kind := 2, src := src }] }

/-- The plaintext of 512 locations (R247). -/
def vlocList (f : Nat → Nat) : List Byte := (List.range 512).flatMap fun i => leBytes 8 (f i)

/-- The location of a map piece, and of a directory piece; none is the value of R234. -/
def State.pieceAt (s : State) (n : Nat) : Nat := match Store.get 0 s.vlt.tree n with | 0 => noVloc | v + 1 => v
def State.dirAt (s : State) (n : Nat) : Nat := match Store.get 0 s.vlt.dirs n with | 0 => noVloc | v + 1 => v

/-- Write one map piece (R247, R251). -/
def State.writePiece (s : State) (n : Nat) : State :=
  let w := s.writeSlot 3 0 0 n noVloc ((List.range 512).flatMap fun i => leBytes 8 (s.entryBits (512 * n + i)))
  w.2.updVlt fun v => { v with tree := Store.put 0 v.tree n (w.1.vloc + 1) }

/-- Write one directory piece. -/
def State.writeDir (s : State) (d : Nat) : State :=
  let w := s.writeSlot 4 0 0 d noVloc (vlocList fun i => s.pieceAt (512 * d + i))
  w.2.updVlt fun v => { v with dirs := Store.put 0 v.dirs d (w.1.vloc + 1) }

/-- The directory pieces that name map pieces and no longer agree with them, or that lie in the victim band (R251, R257). -/
def State.staleDirs (s : State) : List Nat :=
  ((s.vlt.tree.map fun e => e.1 / 512).eraseDups).filter fun d =>
    (match s.readSlot (s.dirAt d) with
      | some r => r.plain ≠ vlocList fun i => s.pieceAt (512 * d + i)
      | none => true) || (match s.victim with | some b => vlocBlk (s.dirAt d) = b.blk | none => false)

/-- The directory pieces and the root of a checkpoint whose map pieces are written (R251). -/
def State.ckptRoot (s : State) : State :=
  let s1 := s.staleDirs.foldl State.writeDir s
  let w := s1.writeSlot 5 0 0 0 noVloc (vlocList s1.dirAt)
  w.2.updVlt fun v => match v.ckpt with
    | some k => { v with root := w.1.vloc, cutB := k.cutB, cutI := k.cutI, ckpt := some { k with done := true } }
    | none => v

/-- Begin a map checkpoint (R251): its cut, and the pieces to write. -/
def State.ckptBegin (s : State) (drain : Bool) : State :=
  let cut := s.logPlace
  let chosen := match s.victim with
    | some b => (s.vlt.tree.filter fun e => vlocBlk (e.2 - 1) = b.blk).map Prod.fst
    | none => []
  let old := match s.vlt.ckpt with | some k => k.todo | none => []
  let todo := (old ++ s.vlt.dirtyPieces ++ chosen).eraseDups
  let s1 := s.updVlt fun v => { v with
    ckpt := some ⟨cut.1, cut.2, todo, false, drain⟩, dirtyPieces := [], cutBeat := s.glb.beat, sinceCut := 0 }
  (s1.setB VLT_STATUS_CKPT_BUSY true).enqueue 9 (if drain then 7 else 4) (b2n drain) (max 1 todo.length) (todo.headD 0) cut.2 false

/-- Map pieces of a running checkpoint are written, `n` of them; after the last the directory pieces and the root follow. -/
def State.ckptPieces : Nat → State → State
  | 0, s => s
  | fuel + 1, s =>
    match s.vlt.ckpt with
    | none => s
    | some k =>
      if k.done || !s.slotRoom then s
      else match k.todo with
        | [] => s.ckptRoot
        | p :: rest => State.ckptPieces fuel ((s.writePiece p).updVlt fun v => { v with
            ckpt := v.ckpt.map fun x => { x with todo := rest } })

/-- A trickle of a granule starts (R125, R256): WSINCE clears, TRK sets, the granule is written; in white its bytes come out of what
LDG_CTRL.TRICKLE_WHITE allows. -/
def State.trickle (s : State) (g : Nat) : State :=
  let s1 := (s.setEntry g { s.entry g with wsince := false, trk := true }).updVlt fun v => { v with trkCredit := v.trkCredit - 4096 }
  (s1.writeGranule g 0).2

/-- A granule may be trickled: it is dirty, restored, with no trickle in flight, and free bands stand above the reserve
(R123, R235). -/
def State.trickleMay (s : State) (g : Nat) : Bool :=
  (s.entry g).dirty && !(s.entry g).trk && !s.unrest g && s.serving && decide (s.resvBands < s.freeBands.length) && s.slotRoom

/-- Trickles run at full rate: in ochre and umber, in GRACE, for a rehearsal, and for class M after an adoption (R148, R157, R211,
R342). -/
def State.fullRate (s : State) (g : Nat) : Bool :=
  s.get LDG_STATUS_ZONE ≠ 0 || s.glb.st = .grace || (s.bit MTX_ADOPT_ACTIVE && s.classOf g = 4)
    || (match s.ldg.rehRun with | some r => s.classOf g = (if r.cls = 3 then 4 else r.cls) | none => false)

/-- The zone allows a trickle now: in white at the rate of LDG_CTRL.TRICKLE_WHITE, else at full rate; a re-mirror's trickle waits for
neither (R47, R148, R334). -/
def State.tricklePace (s : State) (g : Nat) : Bool :=
  s.fullRate g || decide (4096 ≤ s.vlt.trkCredit) || s.dsp.tasks.any fun k => k.ty = 3 && k.prio = 5 && k.arg0 = g

/-- What a beat adds to what trickles may write in white: TRICKLE_WHITE GB/s for 1 µs; less than a granule is carried over. -/
def State.trickleBeat (s : State) : State :=
  let w := 1000 * s.get LDG_CTRL_TRICKLE_WHITE
  s.updVlt fun v => { v with trkCredit := if w = 0 then 0 else min (v.trkCredit + w) (w + 4095) }

/-- A sheet's program has failed (R259): its erase block is bad; a data sheet's bit in FAILMASK sets and its slots are reissued; a
parity sheet is no parity from then on (R244); the state page has neither. -/
def State.sheetFailed (s : State) (ch t pl blk pg : Nat) : State :=
  let s1 := (s.event 0x0706 (srcChannel ch)).markBad (eblockKey ch t pl blk)
  match s.bandAt blk with
  | none => s1
  | some b =>
    let row := (pg - 1) * s.img.targets + t
    let slots := (List.range s.img.planes).flatMap fun q => (List.range 4).map fun k => mkVloc ch t blk pg q k
    let j := (b.dataMods row).idxOf (ch / 8) * 8 + ch % 8
    let key := 65536 * b.bseq + row
    if pg = 0 then s1
    else if j < b.ndata then
      (s1.updVlt fun v => { v with
        fail := Store.put 0 v.fail key (setBit (Store.get 0 v.fail key) j), reissueQ := v.reissueQ ++ slots }).flushReissue
    else
      let pages := (List.range s.img.planes).map fun q => pageKey ch t q blk pg
      (s1.updVlt fun v => { v with
        masks := Store.keep (fun k => !pages.contains k) v.masks
        nand := Store.keep (fun k => !pages.contains (k / 8)) v.nand
        bad := v.bad ++ (pages.flatMap fun p => (List.range 8).map fun c => 8 * p + c).filter fun k => !v.bad.contains k }).markBand blk

end Sys2Proof.Machine
end

