-- ==== Sys2Proof/Machine/PortOps.lean ====
section
/-! DEFINITION. Host ports as the blocks use them: forming a read line, per-agent copies, PERST (R68 to R106, R485). -/

namespace Sys2Proof.Machine

/-- The event source of a port: kind 1, the port's number. -/
def srcPort (p : Port) : Nat := srcAgent p.num

/-- DRAM holds the base line: its granule is restored and no refetch of the line waits, or the overlay holds the line (R92, R122,
R277). -/
def State.inDram (s : State) (la : Nat) : Bool :=
  if s.unrest (la / 64) then bitOf (Store.get 0 s.rst.overlay (la / 64)) (la % 64)
  else !bitOf (Store.get 0 s.rst.refetch (la / 64)) (la % 64)

/-- The rank that serves a line is lost behind a failed rail (R229, R386). -/
def State.lineLost (s : State) (la : Nat) : Bool :=
  match s.rankOf (la / 64) with
  | some n => bitOf s.drn.lostRanks n
  | none => false

/-- How a read of a line stands (R92): formed, or waiting for a fetch of its granule. -/
inductive Formed where
  | line (c : LineCell)
  | wait

/-- The line that a base line and the queue entries form (R92 step 2). -/
def State.overEntries (s : State) (la : Nat) (base : LineCell) : LineCell := (s.entriesOf la).foldl applyEntry base

/-- Some queue entry replaces the whole line. -/
def State.replaced (s : State) (la : Nat) : Bool := (s.entriesOf la).any fun e => e.mask = fullMask

/-- Form the line that a read returns; the DRAM read is met by an error pattern (R92, R118, R122, R276). -/
def State.formRead (s : State) (la : Nat) (err : Codeword) : Formed × State :=
  if s.replaced la then (.line (s.overEntries la LineCell.zero), s)
  else if !s.inDram la then (.wait, s.queueFetch (la / 64))
  else
    let r := (s.dramMove 64).dramRead la err
    match r.1 with
    | .good l => (.line (s.overEntries la ⟨l, false⟩), r.2)
    | .corrected l _ => (.line (s.overEntries la ⟨l, false⟩), r.2)
    | .poison l _ => (.line (s.overEntries la ⟨l, true⟩), r.2)
    | .uncorrectable =>
      if s.refetchable (la / 64) then (.wait, r.2.ueLine la)
      else (.line (s.overEntries la ⟨(s.line la).data, true⟩), r.2.ueLine la)

/-- Answer a read that has its line: a CXL.mem read, or a byte through BAR2 (R92, R343). -/
def State.answerRead (s : State) (w : ReadWait) (c : LineCell) : State :=
  match w.off with
  | none => s.emit (.rdCpl w.port w.tag c.data c.poison)
  | some o => s.emit (.bar2 w.port.agent (some (bits c.data.toNat (8 * (o % 64)) 8)) c.poison)

/-- Serve a read: answer it, or let it wait for the fetch (R92, R276). -/
def State.serveRead (s : State) (w : ReadWait) (err : Codeword) : State :=
  match s.formRead w.line err with
  | (.line c, t) => t.answerRead w c
  | (.wait, t) => t.updCch fun x => { x with waiting := x.waiting ++ [w] }

/-- The per-agent copies of an agent take their reset values (R478, R485). -/
def State.agentReset (s : State) (g : Agent) : State :=
  ((s.dropRegs fun k => keyAgent k = g.code).updIrq fun i => { i with istat := i.istat.set g 0 }).updEvr fun e =>
    { e with cursor := e.cursor.set g 0, gen := e.gen.set g 0 }

/-- A port's configuration and MSI-X state take their reset values (R485). -/
def State.portReset (s : State) (p : Port) : State :=
  let s1 := (s.agentReset p.agent).updIrq fun i => { i with
    pba := i.pba.set p 0, held := i.held.set p [], funcMask := i.funcMask.set p false }
  let s2 := s1.updDsp fun d => { d with cpl := d.cpl.set p.agent [] }
  let s3 := [0, 1, 2, 3].foldl (fun t k => t.setDecoder p k Decoder.off) s2
  s3.updMbx fun m => { m with stamp := m.stamp.set p none, shutdown := m.shutdown.set p 0, log := m.log.set p [] }

end Sys2Proof.Machine
end

