-- ==== Sys2Proof/Machine/Vault.lean ====
section
/-! DEFINITION. The commands of the vault (R230 to R263), and its tasks. -/

namespace Sys2Proof.Machine

/-- CHUNK_READ_COMPLETE (R239): the bits in error of the first read, then of each read-retry level. A module that is not
counted delivers nothing: its chunks come from parity (R260). -/
def execChunkReadComplete (ch : BitVec 5) (t : BitVec 3) (pl : BitVec 2) (blk : BitVec 14) (pg : BitVec 12) (chunk : BitVec 3) (levels : List (List Nat)) (s : State) : Out :=
  let c := ch.toNat
  let key := chunkKey c t.toNat pl.toNat blk.toNat pg.toNat chunk.toNat
  if !s.modUp (c / 8) then ok (s.chunkLost c t.toNat pl.toNat blk.toNat pg.toNat chunk.toNat)
  else
    let m := s.rawChunk key
    let heal := s.updVlt fun v => { v with bad := v.bad.filter (· ≠ key) }
    if s.goodLevel m (levels.take 1) then ok heal
    else
      let s1 := (s.count VLT_ERRCNT_RETRIES 1).markBand blk.toNat
      if s.goodLevel m ((levels.drop 1).take 16) then ok (s1.updVlt fun v => { v with bad := v.bad.filter (· ≠ key) })
      else ok ((s1.updVlt fun v => { v with bad := if v.bad.contains key then v.bad else v.bad ++ [key] }).chunkLost c
        t.toNat pl.toNat blk.toNat pg.toNat chunk.toNat)

/-- NAND_PROGRAM_COMPLETE (R259): a sheet's multi-plane program ends; on a failure `pl` names the failing plane. -/
def execNandProgramComplete (ch : BitVec 5) (t : BitVec 3) (pl : BitVec 2) (blk : BitVec 14) (pg : BitVec 12) (good : Bool) (s : State) : Out :=
  if good then ok s else ok (s.sheetFailed ch.toNat t.toNat pl.toNat blk.toNat pg.toNat)

/-- NAND_ERASE_COMPLETE (R259, R246): an erase ends; a failed one marks its erase block bad. While RESULT = 3 nothing is erased (R270). -/
def execNandEraseComplete (ch : BitVec 5) (t : BitVec 3) (pl : BitVec 2) (blk : BitVec 14) (good : Bool) (s : State) : Out :=
  let eb := eblockKey ch.toNat t.toNat pl.toNat blk.toNat
  if good then ok (if s.vlt.halfErased.contains eb && s.get VLT_RST_STATUS_RESULT ≠ 3 then s.updVlt fun v => v.eraseWhere fun k => k = eb else s)
  else ok ((s.markBad eb).event 0x0707 (srcChannel ch.toNat))

/-- BAND_OPEN (R245): a free band is erased, its state pages are written, and it becomes the open band; not before the vault is open
for writes (R270, R274). -/
def execBandOpen (blk : BitVec 14) (s : State) : Out :=
  let room := match s.openBandOf with
    | some b => decide (s.img.nextUsable b (s.img.bandSlots b) b.next < s.img.bandSlots b)
    | none => false
  if s.bit VLT_STATUS_READY ∧ s.img.crownBlocks ≤ blk.toNat ∧ blk.toNat < s.img.blocks ∧ s.bandFree blk.toNat ∧ !room ∧ 3 ≤ ones 4 s.bandMods then
    ok (((s.closeBand.openBand blk.toNat).tagAll true).showSpace)
  else ok s

/-- CHECKPOINT_TRIGGER (R251). -/
def execCheckpointTrigger (s : State) : Out :=
  let byMib := decide (s.get VLT_CKPT_MIB ≠ 0) && decide (256 * s.get VLT_CKPT_MIB ≤ s.vlt.sinceCut)
  let bySec := decide (s.get VLT_CKPT_SEC ≠ 0) && decide (1 ≤ s.vlt.sinceCut)
    && s.expired s.vlt.cutBeat (s.get VLT_CKPT_SEC * 1000000)
  if s.bit VLT_STATUS_READY ∧ s.vlt.ckpt.isNone ∧ s.glb.st ≠ .drain ∧ (byMib ∨ bySec) then ok (s.ckptBegin false) else ok s

/-- EPOCH_SEAL (R252): a checkpoint's root is written; the sheets of the open row have completed (R243). A drain seals after its
notes (R226). The crown writer has the digest engine first (R439), and the crown is followed by the pair record (R317) and the
recorder copy (R469). -/
def execEpochSeal (s : State) : Out :=
  match s.vlt.ckpt with
  | some k =>
    let busy := match s.openBandOf with | some b => s.rowBusy b (b.next / max 1 (s.img.rowSlots b)) | none => false
    if k.done ∧ !k.drain ∧ !busy then
      let e := s.dgeTake .crown
      let c : CrownIn := ⟨32 * b2n s.vlt.wide, s.epoch, 0, 0, s.drn.lastM, 0, 0, s.crownStamps⟩
      if e.1 then ok (((e.2.seal c).writePair false).event 0x0701 0).recorderCopy else ok e.2
    else ok s
  | none => ok s

/-- FULL_COPY_COMPLETE (R257): the copy of a granule completes; the entry moves only if it still holds the source. -/
def execFullCopyComplete (g : BitVec 40) (s : State) : Out :=
  match s.vlt.inflight.find? fun f => f.kind = 2 && f.granule = g.toNat with
  | none => ok s
  | some f =>
    let s1 := s.updVlt fun v => { v with inflight := v.inflight.erase f }
    let s2 := if (s1.entry g.toNat).vloc = f.src then s1.setVloc g.toNat f.vloc (s1.classOf g.toNat) else s1
    ok ((s2.tagAll true).showSpace.showStripe)

/-- FLASH_MODULE_ABSENT (R260): a counted module reads absent. -/
def execFlashModuleAbsent (mod : BitVec 2) (s : State) : Out :=
  if bitOf (s.get VLT_MODS_PRESENT) mod.toNat then ok s else ok (s.moduleAbsent mod.toNat)

/-- FLASH_MODULE_RELEASE (R261): a write of VLT_MODCMD with RELEASE. -/
def execFlashModuleRelease (mod : BitVec 2) (s : State) : Out :=
  let s0 := s.set VLT_MODCMD_MOD mod.toNat
  if s.glb.st = .serve ∧ s.get VLT_MODS_COUNTED = 15 ∧ s.get VLT_MODS_PENDING = 0 then
    ok ((s0.set VLT_MODS_PENDING (2 ^ mod.toNat)).updLdg fun l => { l with flashRun := 0 })
  else ok (if s.glb.st = .serve then s0 else s0.logRefusal 7)

/-- FLASH_RELEASE_RESTRIPE (R261 step 2): 100 consecutive white beats under the K3 set. -/
def execFlashReleaseRestripe (s : State) : Out :=
  let m := s.get VLT_MODS_PENDING &&& s.get VLT_MODS_COUNTED
  if m ≠ 0 ∧ s.vlt.released2 = 0 ∧ 100 ≤ s.ldg.flashRun then
    ok (((s.closeBand.updVlt fun v => { v with released2 := m }).tagAll true).showStripe)
  else ok s

/-- FLASH_MODULE_RELEASED (R261 steps 3 and 4): no band in use names the module. -/
def execFlashModuleReleased (mod : BitVec 2) (s : State) : Out :=
  let m := mod.toNat
  if bitOf s.vlt.released2 m ∧ s.vlt.bands.all (fun b => !bitOf b.mods m || s.bandFree b.blk) then
    let s1 := ((s.set VLT_MODS_COUNTED (clrBit (s.get VLT_MODS_COUNTED) m)).set VLT_MODS_RELEASED
      (setBit (s.get VLT_MODS_RELEASED) m)).set VLT_MODS_PENDING (clrBit (s.get VLT_MODS_PENDING) m)
    let s2 := s1.groupDown (s.groupRails (s.img.modGroup m))
    let s3 := (s2.updVlt fun v => { v with released2 := 0 }).updLdg fun l => { l with flashCount := s1.flashMods }
    ok ((s3.event 0x0704 (srcModule m)).showStripe)
  else ok s

/-- FLASH_MODULE_CANCEL (R261): a write of VLT_MODCMD with CANCEL, before step 2. -/
def execFlashModuleCancel (mod : BitVec 2) (s : State) : Out :=
  let m := mod.toNat
  let s0 := s.set VLT_MODCMD_MOD m
  if bitOf (s.get VLT_MODS_PENDING) m ∧ bitOf (s.get VLT_MODS_COUNTED) m ∧ !bitOf s.vlt.released2 m then
    ok (s0.set VLT_MODS_PENDING (clrBit (s.get VLT_MODS_PENDING) m))
  else ok s0

/-- FLASH_MODULE_ADD (R262, R230, R231, R374): a write of VLT_MODCMD with ADD; the parameter pages that its targets answer, and its
factory bad marks. Bad erase blocks beyond VLT_FULL.BADMAX, or beyond what the bad-block cell holds, make it a failed module (R259,
R421). -/
def execFlashModuleAdd (mod : BitVec 2) (pages : List ParamPage) (marks : List BadMark) (s : State) : Out :=
  let m := mod.toNat
  let s00 := s.set VLT_MODCMD_MOD m
  let s0 := if s.groupIsOff (s.img.modGroup m) then s00.groupUp (s.img.modGroup m) else s00
  if s.glb.st ≠ .serve then ok (s00.logRefusal 7)
  else if bitOf (s.get VLT_MODS_PRESENT) m ∧ !bitOf (s.get VLT_MODS_COUNTED) m then
    if !s.modFits pages m then ok (s0.event 0x0703 (srcModule m))
    else
      let found := marks.map fun x => eblockKey (8 * m + x.channel.toNat) x.target.toNat x.plane.toNat x.blk.toNat
      let all := (s0.vlt.badBlocks ++ found).eraseDups
      let s1 := s0.updVlt fun v => { (v.eraseWhere fun eb => keyChannel eb / 8 = m) with
        badBlocks := all.take 16376, ring := Store.put 0 v.ring m 0, released2 := clrBit v.released2 m }
      let s2 := if s1.vlt.badBlocks = s0.vlt.badBlocks then s1 else s1.flashWrite (.cell 5 (badPayload s1.vlt.badBlocks))
      let tooMany := decide (16376 < all.length)
        || decide (s.get VLT_FULL_BADMAX < (all.filter fun k => keyChannel k / 8 = m).length)
      if tooMany then ok (s2.moduleFailed m) else
      let s3 := ((s2.set VLT_MODS_COUNTED (setBit (s.get VLT_MODS_COUNTED) m)).set VLT_MODS_FAILED
        (clrBit (s.get VLT_MODS_FAILED) m)).set VLT_MODS_RELEASED (clrBit (s.get VLT_MODS_RELEASED) m)
      ok (((s3.closeBand.tagAll true).event 0x0705 (srcModule m)).showStripe)
  else ok s00

/-- The vault with nothing on it: bad blocks stay known, and no band sequence number comes back (R241). The log begins at the next
band. -/
def Vlt.blank (v : Vlt) : Vlt :=
  { Vlt.reset with
    badBlocks := v.badBlocks, root := noVloc, maxEpoch := v.maxEpoch, maxB := v.maxB, startB := v.maxB + 1, cutB := v.maxB + 1 }

/-- VAULT_FORMAT (R263): a write of VLT_FORMAT. -/
def execVaultFormat (key : BitVec 16) (go : Bool) (s : State) : Out :=
  if go ∧ key = 0x5646 ∧ s.glb.st = .restore ∧ s.bit VLT_STATUS_BLANK then
    let s1 := (((s.updVlt Vlt.blank).updRst fun r => { r with empty := true }).updPq fun q => { q with pend := ⟨[], []⟩ }).setB
      PQ_STATUS_HZ_FROZEN false
    let s2 := ((s1.dgeRequest .crown).seal ⟨0, 1, 0, 0, s.drn.lastM, 0, 0, s.crownStamps⟩).writePair false
    ok (((s2.setB VLT_STATUS_BLANK false).set VLT_RST_STATUS_RESULT 5).event 0x070E 0).recorderCopy
  else ok s

/-- TRICKLE (R125, R127, R148, R256): a task reads a dirty granule and writes it to the vault, at the rate of the zone, unless trickle
reads are throttled. -/
def execTrickle (g : BitVec 40) (s : State) : Out :=
  let n := g.toNat
  if !s.trickleMay n || !s.tricklePace n then ok s
  else if !s.dramMay 4 4096 then ok (s.dramAsk 4 4096)
  else
    let u := (s.dramAsk 4 4096).underBeat (s.issueBeat fun k => k.ty = 3 && k.arg0 ≤ n && n < k.arg0 + k.count)
    ok (((u.trickle n).restoreImage s.sti.active).retireTask fun k => k.ty = 3 && k.arg0 + k.count = n + 1)

/-- TRICKLE_WRITE_COMPLETE (R125, R256): VLOC and CLASS are set, TRK clears, and DIRTY clears if no flush intervened. A
rehearsal counts the bytes of its class (R157). -/
def execTrickleWriteComplete (g : BitVec 40) (s : State) : Out :=
  let n := g.toNat
  match s.vlt.inflight.find? fun f => f.kind = 0 && f.granule = n with
  | none => ok s
  | some f =>
    let c := s.classOf n
    let s1 := (s.updVlt fun v => { v with inflight := v.inflight.erase f }).setVloc n f.vloc c
    let s2 := s1.setEntry n { s1.entry n with trk := false }
    let s3 := if (s2.entry n).wsince then s2 else s2.clean n
    let s4 := s3.updLdg fun l => { l with rehRun := l.rehRun.map fun r =>
      if c = (if r.cls = 3 then 4 else r.cls) then { r with bytes := r.bytes + 4096 } else r }
    ok ((s4.tagAll true).showSpace)

/-- FULL (R257): a task relocates live granules of a victim band, `count` of them. -/
def execFull (bseq : BitVec 40) (count : BitVec 32) (s : State) : Out :=
  match s.band bseq.toNat with
  | none => ok s
  | some b =>
    let asked := s.dsp.tasks.any fun k => k.ty = 8 && k.arg0 = b.bseq
    if s.serving ∧ b.closed ∧ (asked ∨ s.victim = some b) then
      let busy := fun (g : Nat) => s.vlt.inflight.any fun f => f.kind = 2 && f.granule = g
      let u := s.underBeat (s.issueBeat fun k => k.ty = 8 && k.arg0 = b.bseq)
      let s1 := (((s.liveGranules b).filter fun g => !busy g).take count.toNat |>.foldl State.relocate u).restoreImage s.sti.active
      ok ((s1.retireTask fun k => k.ty = 8 && k.arg0 = b.bseq).showSpace.showStripe)
    else ok s

/-- MAP_CKPT (R251): a task writes `count` map pieces of the running checkpoint; the directory pieces and the root follow the
last. -/
def execMapCkpt (count : BitVec 16) (s : State) : Out :=
  if s.vlt.ckpt.isNone then ok s
  else
    let u := s.underBeat (s.issueBeat fun k => k.ty = 9)
    let s1 := ((State.ckptPieces (count.toNat + 1) u).tagAll true).restoreImage s.sti.active
    match s1.vlt.ckpt with
    | some k => if k.done then ok (s1.retireTask fun t => t.ty = 9) else ok s1
    | none => ok s1

/-- PARITY (R243): a task writes a row's parity pages after every slot of the row has completed. -/
def execParity (bseq : BitVec 40) (row : BitVec 16) (s : State) : Out :=
  match s.band bseq.toNat with
  | none => ok s
  | some b =>
    let r := row.toNat
    let may := s.bit VLT_STATUS_READY || s.glb.st = .drain
    if may ∧ (r + 1) * s.img.rowSlots b ≤ b.next ∧ r < s.img.bandRows ∧ !s.rowBusy b r then
      let u := s.underBeat (s.issueBeat fun k => k.ty = 10 && k.arg0 = b.bseq && k.arg1 = r)
      ok ((((u.writeParity b r).flushReissue.tagAll true).restoreImage s.sti.active).retireTask fun k => k.ty = 10 && k.arg0 = b.bseq && k.arg1 = r)
    else ok s

/-- HEALTH (R157): the rehearsal's driver issues a TRICKLE of a dirty granule of the class at drain priority. -/
def execHealth (g : BitVec 40) (s : State) : Out :=
  match s.ldg.rehRun with
  | none => ok s
  | some r =>
    if s.classOf g.toNat = (if r.cls = 3 then 4 else r.cls) ∧ (s.entry g.toNat).dirty then
      ok (s.enqueue 3 7 3 1 g.toNat 0 false)
    else ok s

end Sys2Proof.Machine
end

