-- ==== Sys2Proof/Machine/RestoreOps.lean ====
section
/-! DEFINITION. Restore as the blocks use it: the state-page scan, the crown rings, usability, the map, the notes, a fetch
(R246, R254, R255, R265 to R279). -/

namespace Sys2Proof.Machine

/-- A field of a crown's bytes (Table: Crown layout). -/
def crEpoch (c : List Byte) : Nat := leAt c 8 8
def crFlags (c : List Byte) : Nat := leAt c 6 2
def crBeat (c : List Byte) : Nat := leAt c 16 8
def crRoot (c : List Byte) : Nat := leAt c 120 8
def crStart (c : List Byte) : Nat × Nat := (leAt c 128 8, leAt c 136 4)
def crCut (c : List Byte) : Nat × Nat := (leAt c 144 8, leAt c 152 4)
def crEnd (c : List Byte) : Nat × Nat := (leAt c 160 8, leAt c 168 4)
def crNotes (c : List Byte) : List Nat := ((List.range 32).map fun i => leAt c (256 + 8 * i) 8).filter (· < 2 ^ 38)

/-- The state page that the bytes of chunk 0 of page 0 spell; none where it is not valid (R245). -/
def Image.stateOf (i : Image) (blk : Nat) (c : List Byte) : Option Band :=
  if c.take 4 = [0x42, 0x41, 0x4E, 0x44] ∧ leAt c 4 2 = 1 ∧ (c.drop 168).all (· = 0) ∧ leAt c 34 1 = i.planes
      ∧ leAt c 35 1 = i.targets ∧ leAt c 36 2 = i.pages then
    let b : Band := ⟨blk, leAt c 8 8 % 2 ^ 40, leAt c 16 8, leAt c 24 8, leAt c 32 1, leAt c 40 128, 0, true, false⟩
    some { b with next := i.bandSlots b }
  else none

/-- Page 0 of the erase blocks of the counted modules that are not blank: block and chunk 0 (R246). -/
def State.firstPages (s : State) : List (Nat × List Byte) :=
  (s.vlt.nand.filter fun e => e.1 % 32768 = 0 && s.modUp (keyChannel (e.1 / 32768) / 8)
    && decide (s.img.crownBlocks ≤ keyBlk (e.1 / 32768)) && (e.2.getD []).any (· ≠ 0)).map fun e =>
      (e.1 / 32768, if s.vlt.bad.contains e.1 then [] else e.2.getD [])

/-- Insert a band by rising sequence number, keeping the newest of an erase block number. -/
def insertBand : List Band → Band → List Band
  | [], b => [b]
  | x :: xs, b => if b.bseq < x.bseq then b :: x :: xs else if b.bseq = x.bseq then x :: xs else x :: insertBand xs b

/-- The state-page scan (R246): the bands found, the half-erased blocks with event 0x0708 each, the largest sequence number. -/
def State.pageScan (s : State) : State :=
  let ps := s.firstPages.map fun p => (p.1, s.img.stateOf (keyBlk p.1) p.2)
  let half := (ps.filter fun p => p.2.isNone).map Prod.fst
  let all := (ps.filterMap Prod.snd).foldl insertBand []
  let keep := all.filter fun b => !(all.any fun x => x.blk = b.blk && decide (b.bseq < x.bseq))
  half.foldl (fun t eb => t.event 0x0708 (srcChannel (keyChannel eb))) (s.updVlt fun v => { v with
    bands := keep, openB := none, maxB := all.foldl (fun m b => max m b.bseq) 0, halfErased := half })

/-- The pages of a module's crown ring that are not blank, in ring order: position and the 16,384 bytes read (R253). -/
def State.ringPages (s : State) (m : Nat) : List (Nat × List Byte) :=
  let per := s.img.pages
  (List.range (per * s.img.crownBlocks)).filterMap fun i =>
    let keys := (List.range 8).map fun c => chunkKey (8 * m) 0 0 (i / max 1 per) (i % max 1 per) c
    if keys.any fun k => (Store.get none s.vlt.nand k).isSome then
      some (i, keys.flatMap fun k => if s.vlt.bad.contains k then [] else (s.rawChunk k).take 2048)
    else none

/-- A ring page whose MAGIC matches, and one that is sound (R254). -/
def crownMagic (c : List Byte) : Bool := c.take 4 = [0x43, 0x52, 0x57, 0x4E]
def State.crownSound (s : State) (c : List Byte) : Bool :=
  crownMagic c && decide (c.length = 16384) && leAt c 4 2 = 1
    && decide (c.drop 16352 = hmacSha256 (s.vaultKey s.img.sealKey) (c.take 16352))

/-- The sound crowns of the counted modules, one of each epoch, newest first (R267). -/
def insertCrown : List (List Byte) → List Byte → List (List Byte)
  | [], c => [c]
  | x :: xs, c => if crEpoch x < crEpoch c then c :: x :: xs else if crEpoch c = crEpoch x then x :: xs else x :: insertCrown xs c
def State.candidates (s : State) : List (List Byte) :=
  (((modsOf (s.get VLT_MODS_COUNTED)).flatMap fun m => (s.ringPages m).map Prod.snd).filter s.crownSound).foldl insertCrown []

/-- The slots of a band in index order: index and location. -/
def State.slotsOf (s : State) (b : Band) : List (Nat × Nat) :=
  s.vlt.nand.foldl (fun (l : Store Nat) e =>
    let k := e.1
    let pg := k / 8 % 4096
    let eb := k / 32768
    if k % 2 = 1 ∧ keyBlk eb = b.blk ∧ 1 ≤ pg then
      let v := mkVloc (keyChannel eb) (eb / 16384 / 4 % 8) b.blk pg (eb / 16384 % 4) (k % 8 / 2)
      if keyChannel eb / 8 ≠ b.parityMod (s.img.rowOf v) ∧ bitOf b.mods (keyChannel eb / 8) then
        Store.insert l (s.img.slotIndex b v) v
      else l
    else l) []

/-- The slots of the log from one place up to another, in log order: band sequence, index, location. -/
def State.logSlots (s : State) (a z : Nat × Nat) : List (Nat × Nat × Nat) :=
  (s.vlt.bands.filter fun b => a.1 ≤ b.bseq && b.bseq ≤ z.1).flatMap fun b =>
    ((s.slotsOf b).filter fun x => logLe a.1 a.2 b.bseq x.1 && !logLe z.1 z.2 b.bseq x.1).map fun x => (b.bseq, x.1, x.2)

/-- The tag tables of a crown's epoch in log order: band, span and plaintext (R248). -/
def State.tagsOf (s : State) (c : List Byte) : List (Nat × Nat × List Byte) :=
  (s.logSlots (crStart c) (crEnd c)).filterMap fun x => match s.readSlot x.2.2 with
    | some r => if r.ty = 7 then some (r.aux, r.key, r.plain) else none
    | none => none

/-- The tag-table entry of a place in the log; none where its table is absent (R248). -/
def tagAt (tags : List (Nat × Nat × List Byte)) (bseq x : Nat) : Option (List Byte) :=
  (tags.find? fun t => t.1 = bseq && t.2.1 = x / 256).map fun t => (t.2.2.drop (16 * (x % 256))).take 16

/-- Read a slot as a crown vouches for it: a slot of the crown's tail whose GCM tag is not its tag-table entry is invalid
(R255). -/
def State.readUnder (s : State) (c : List Byte) (tags : List (Nat × Nat × List Byte)) (v : Nat) : Option SlotRead :=
  match s.readSlot v, s.bandAt (vlocBlk v) with
  | some r, some b =>
    let x := s.img.slotIndex b v
    if logLe (crCut c).1 (crCut c).2 b.bseq x ∧ !logLe (crEnd c).1 (crEnd c).2 b.bseq x then
      if tagAt tags b.bseq x = some r.tag then some r else none
    else some r
  | _, _ => none

/-- The locations that a slot of 512 locations names, with their places; none where it cannot be used. -/
def State.readVlocs (s : State) (c : List Byte) (tags : List (Nat × Nat × List Byte)) (ty v : Nat) : Option (List (Nat × Nat)) :=
  match s.readUnder c tags v with
  | some r => if r.ty = ty then
      some (((List.range 512).map fun i => (i, leAt r.plain (8 * i) 8)).filter fun x => x.2 < 2 ^ 38) else none
  | none => none

/-- The checkpoint tree of a crown: directory pieces and map pieces with their numbers and locations (R247). -/
def State.treeOf (s : State) (c : List Byte) : Option (List (Nat × Nat) × List (Nat × Nat)) :=
  let tags := s.tagsOf c
  if 2 ^ 38 ≤ crRoot c then some ([], [])
  else match s.readVlocs c tags 5 (crRoot c) with
    | none => none
    | some ds =>
      let ps := ds.map fun d => (s.readVlocs c tags 4 d.2).map fun l => l.map fun x => (512 * d.1 + x.1, x.2)
      if ps.all Option.isSome then
        let pieces := ps.flatMap fun o => o.getD []
        if pieces.all fun p => (match s.readUnder c tags p.2 with | some r => r.ty = 3 && r.key = p.1 | none => false) then
          some (ds, pieces)
        else none
      else none

/-- A crown is usable (R254). -/
def State.crownUsable (s : State) (c : List Byte) : Bool :=
  decide (sha256 ((s.tagsOf c).flatMap fun t => t.2.2) = (c.drop 88).take 32) && (s.treeOf c).isSome

/-- The erase blocks that a crown names through its tree, its tail, its tag tables and its notes (R258). -/
def State.crownRefOf (s : State) (c : List Byte) : CrownRef :=
  let t := (s.treeOf c).getD ([], [])
  let low := if logLe (crCut c).1 (crCut c).2 (crStart c).1 (crStart c).2 then crCut c else crStart c
  ⟨crEpoch c, ((if crRoot c < 2 ^ 38 then [vlocBlk (crRoot c)] else []) ++ (t.1.map fun x => vlocBlk x.2)
    ++ (t.2.map fun x => vlocBlk x.2) ++ ((s.logSlots low (crEnd c)).map fun x => vlocBlk x.2.2)
    ++ (crNotes c).flatMap fun n => vlocBlk n :: ((s.readVlocs c (s.tagsOf c) 8 n).getD []).map fun x => vlocBlk x.2).eraseDups⟩

/-- A slot was written after the crown (R269). -/
def State.tailLost (s : State) (c : List Byte) : Bool :=
  let used := fun (b : Band) (r : Nat) => (s.slotsOf b).any fun x => x.1 / max 1 (s.img.rowSlots b) = r
  (s.vlt.bands.any fun b => decide (crEpoch c < b.epoch) && used b 0)
    || match s.band (crEnd c).1 with
      | some b => let r := cdiv (crEnd c).2 (s.img.rowSlots b); decide (r < s.img.bandRows) && used b r
      | none => false

/-- The remap table that 32 bytes spell, the ranks that they say are retired, and the calibrated values in a list of bytes from an
offset (R134, R159). -/
def remapOf (l : List Byte) : Store (Option Nat) :=
  (List.range 32).filterMap fun n => let k := leAt l n 1 / 8; if k = n then none else some (n, some k)
def retiredOf (l : List Byte) : Nat := ((List.range 32).filter fun n => leAt l n 1 % 8 = 5).foldl setBit 0
def calOf (l : List Byte) (off : Nat) : Store Nat := (List.range 8).foldl (fun m k => Store.put 0 m k (leAt l (off + 4 * k) 4)) []

/-- Take a remap table and calibrated values into use. -/
def State.putFigures (s : State) (remap : List Byte) (cal : Store Nat) : State :=
  ((s.updCch fun x => { x with remap := remapOf remap, retired := retiredOf remap }).updLdg fun x => { x with cal := cal }).layRanks

/-- The remap table and the calibrated values of configuration flash, where it holds them (R134, R159). -/
def State.loadCell (s : State) : State :=
  match s.cell 4 with
  | some l => s.putFigures ((l.payload.drop 8).take 32) (calOf l.payload 40)
  | none => s

/-- The remap table and the calibrated values of a crown, or of the newer flash copy (R134, R159). -/
def State.loadFigures (s : State) (c : List Byte) : State :=
  match s.cell 4 with
  | some l => if crBeat c < leAt l.payload 0 8 then s.loadCell else s.putFigures ((c.drop 224).take 32) (calOf c 192)
  | none => s.putFigures ((c.drop 224).take 32) (calOf c 192)

/-- The horizons and stamps of a crown (R104), and the last class M sequence applied. -/
def State.loadHorizons (s : State) (c : List Byte) : State :=
  let h := fun (i : Nat) => leAt c (40 + 8 * i) 8
  let s1 := (s.setLhz .pa (h 0)).setLhz .pb (h 3)
  let s2 := (s1.set64 (PQ_MHZ_LO_HZ 0) (PQ_MHZ_HI_HZ 0) (h 1)).set64 (PQ_MHZ_LO_HZ 1) (PQ_MHZ_HI_HZ 1) (h 4)
  (s2.updPq fun q => { q with lastStamp := ⟨h 2, h 5⟩, pend := ⟨[], []⟩ }).setB PQ_STATUS_HZ_FROZEN false |>.updDrn fun d => { d with lastM := leAt c 176 6 }

/-- The controller restores from a crown (R268, R269). -/
def State.takeCrown (s : State) (c : List Byte) (refs : List CrownRef) (result : Nat) : State :=
  let lost := s.tailLost c
  let t := (s.treeOf c).getD ([], [])
  let s1 := (s.loadFigures c).loadHorizons c
  let s2 := ((s1.set VLT_RST_STATUS_RESULT result).set VLT_RST_STATUS_CFLAGS (crFlags c)).set64 VLT_RST_EPOCH_LO_EPOCH
    VLT_RST_EPOCH_HI_EPOCH (crEpoch c)
  let s3 := (s2.setB VLT_RST_STATUS_LOST_TAIL (lost || result = 2)).updRst fun r => { r with crown := c, empty := false }
  let s4 := s3.updVlt fun v => { v with
    crowns := refs, newBlocks := [], prevEpoch := crEpoch c, crownBeat := crBeat c, root := crRoot c, cutB := (crCut c).1, cutI := (crCut c).2,
    tree := t.2.foldl (fun m x => Store.put 0 m x.1 (x.2 + 1)) [], dirs := t.1.foldl (fun m x => Store.put 0 m x.1 (x.2 + 1)) [] }
  if lost then s4.event 0x0716 0 else s4

/-- No usable crown (R270). -/
def State.noCrown (s : State) : State :=
  ((s.set VLT_RST_STATUS_RESULT 3).updMbx fun m => { m with dirtyCount := m.dirtyCount + 1 }).event 0x0712 (srcCause 2)

/-- The ring search over the counted modules, and the choice of the crown (R263, R267 to R270). -/
def State.crownSearch (s : State) : State :=
  let mods := modsOf (s.get VLT_MODS_COUNTED)
  let pages := mods.map fun m => (m, s.ringPages m)
  let magic := (pages.flatMap fun p => p.2.map Prod.snd).filter crownMagic
  let top := magic.foldl (fun n c => max n (crEpoch c)) 0
  let nextPos := fun (l : List (Nat × List Byte)) =>
    (l.foldl (fun (a : Nat × Nat) p => if a.1 ≤ crEpoch p.2 + 1 ∧ crownMagic p.2 then (crEpoch p.2 + 1, p.1 + 1) else a) (0, 0)).2
  let s1 := (s.loadCell.pageScan.updVlt fun v => { v with
    maxEpoch := top, root := noVloc, tree := [], dirs := [], ring := pages.foldl (fun m p => Store.put 0 m p.1 (nextPos p.2)) [] }).updRst
      fun r => { r with scanned := true, crown := [], mapped := false, noted := false }
  if magic.isEmpty then s1.setB VLT_STATUS_BLANK true
  else match s1.candidates with
    | [] => s1.noCrown
    | c :: rest =>
      let refs := (c :: rest.take 1).map s1.crownRefOf
      if s1.crownUsable c then s1.takeCrown c refs 1
      else match rest with
        | d :: _ => if s1.crownUsable d then (s1.takeCrown d refs 2).event 0x0711 0 else s1.noCrown
        | [] => s1.noCrown

/-- Count modules by their crown rings: those with a page whose MAGIC matches, or all where none has one (R266). With fewer than
three counted nothing is searched. -/
def State.countMods (s : State) (fits : Nat) : State :=
  let cand := modsOf (s.get VLT_MODS_PRESENT &&& fits)
  let has := cand.filter fun m => (s.ringPages m).any fun p => crownMagic p.2
  ((s.set VLT_MODS_COUNTED ((if has.isEmpty then cand else has).foldl setBit 0)).updRst fun r => { r with fits := fits }).showStripe

/-- Count the present modules that agree with the image (R231, R266), and search once three are counted. -/
def State.countAndSearch (s : State) (ps : List ParamPage) : State :=
  let fits := ((List.range 4).filter (s.modFits ps)).foldl setBit 0
  let s1 := (modsOf (s.get VLT_MODS_PRESENT &&& (15 ^^^ fits))).foldl (fun t m => t.event 0x0703 (srcModule m)) s
  let s2 := s1.countMods fits
  if ones 4 (s2.get VLT_MODS_COUNTED) < 3 then (s2.set VLT_RST_STATUS_RESULT 6).event 0x0712 (srcCause 1)
  else (s2.set VLT_RST_STATUS_RESULT 0).crownSearch

/-- The map that a crown's tree and tail spell: entries of location and class (R255). A slot whose tag is not that of its tag
table is invalid. -/
def State.treeMap (s : State) : Store MapEntry :=
  s.vlt.tree.foldl (fun m p => match s.readSlot (p.2 - 1) with
    | some r => (List.range 512).foldl (fun (x : Store MapEntry) i =>
        let v := leAt r.plain (8 * i) 5
        let e : MapEntry := { MapEntry.none with vloc := v, cls := some (leAt r.plain (8 * i + 5) 1 % 8) }
        if v = noVloc ∧ s.img.classAt (4096 * (512 * p.1 + i)) = e.cls then x else Store.insert x (512 * p.1 + i) e) m
    | none => m) []

/-- The tail replayed over the tree's map, with the granules that it changed. -/
def State.replay (s : State) (c : List Byte) : Store MapEntry × List Nat :=
  let tags := s.tagsOf c
  (s.logSlots (crCut c) (crEnd c)).foldl (fun (a : Store MapEntry × List Nat) x =>
    match s.readSlot x.2.2 with
    | none => a
    | some r =>
      let want := tagAt tags x.1 x.2.1
      let e := Store.get MapEntry.none a.1 r.key
      if r.ty ≠ 1 ∨ want ≠ some r.tag then a
      else if !r.reloc then (Store.insert a.1 r.key { e with vloc := x.2.2, cls := some r.cls }, r.key :: a.2)
      else if e.vloc = r.aux then (Store.insert a.1 r.key { e with vloc := x.2.2 }, r.key :: a.2)
      else a) (s.treeMap, [])

/-- The map check of one entry (R126). -/
def State.checkEntry (s : State) (g : Nat) : State :=
  match s.img.classAt (4096 * g), (s.entry g).cls with
  | some c, some d =>
    if c = d then s
    else
      let s1 := ((s.setEntry g { s.entry g with cls := some c, dirty := true }).dirtyAdd c).touchPiece g
      s1.event 0x030C 0
  | _, _ => s

/-- Every line of a granule as poison; POISON and DIRTY set, UNREST clears (R273). -/
def State.poisonGranule (s : State) (g : Nat) : State :=
  let s1 := (List.range 64).foldl (fun t i => t.writeLine (64 * g + i) ⟨0, true⟩) s
  let s2 := s1.setEntry g { s1.entry g with poison := true }
  let s3 := if (s2.entry g).dirty then s2 else (s2.setEntry g { s2.entry g with dirty := true }).dirtyAdd (s2.classOf g)
  (s3.touchPiece g).updCch fun c => { c with unrest := cutRange c.unrest g }

/-- The lines of a granule's vault copy at a location: zeros where there is none, nothing where the copy cannot be read (R273,
R278). -/
def State.vaultAt (s : State) (g v : Nat) : Option (List LineCell) :=
  if v = noVloc then some (List.replicate 64 LineCell.zero)
  else match s.readSlot v with
    | some r => if r.ty = 1 ∧ r.key = g then some (slotLines r) else none
    | none => none

/-- The lines of a granule's newest vault copy. -/
def State.vaultLines (s : State) (g : Nat) : Option (List LineCell) := s.vaultAt g (s.entry g).vloc

/-- Apply one line slot (R249, R273): its granules are written whole and become dirty. -/
def State.applyLineSlot (s : State) (r : SlotRead) : State :=
  let es := ((List.range 56).map fun i => (i, leAt r.plain (8 * i) 8)).filter fun x => bitOf x.2 63
  es.foldl (fun t x =>
    let la := x.2 % 2 ^ 33
    let g := la / 64
    let t1 := if !t.unrest g then t
      else match t.vaultLines g with
        | some ls => (List.range 64).foldl (fun u i => u.writeLine (64 * g + i) (ls.getD i LineCell.zero)) t
        | none => (List.range 64).foldl (fun u i => u.writeLine (64 * g + i) ⟨0, true⟩) t
    let t2 := t1.writeLine la ⟨if bitOf x.2 62 then 0 else BitVec.ofNat 512 (leAt r.plain (512 + 64 * x.1) 64), bitOf x.2 62⟩
    let t3 := if (t2.entry g).dirty then t2 else (t2.setEntry g { t2.entry g with dirty := true }).dirtyAdd (t2.classOf g)
    (t3.touchPiece g).updCch fun c => { c with unrest := cutRange c.unrest g }) s

/-- The slots that a crown's note indexes name, in log order. -/
def State.noteSlots (s : State) (c : List Byte) : List SlotRead :=
  let tags := s.tagsOf c
  let locs := (crNotes c).flatMap fun n => ((s.readVlocs c tags 8 n).getD []).map Prod.snd
  let keyed := locs.foldl (fun (m : Store Nat) v => match s.bandAt (vlocBlk v) with
    | some b => Store.insert m (b.bseq * 2 ^ 24 + s.img.slotIndex b v) v
    | none => m) []
  keyed.filterMap fun x => s.readUnder c tags x.2

/-- The ranges of a range list (R249). -/
def rangesOf (r : SlotRead) : List Range :=
  ((List.range 256).map fun i => (⟨leAt r.plain (16 * i) 8, leAt r.plain (16 * i + 8) 4, leAt r.plain (16 * i + 12) 1,
    leAt r.plain (16 * i + 13) 1⟩ : Range)).filter fun x => x.count ≠ 0

/-- Percent of granules restored (VLT_RST_STATUS.PCT). -/
def State.showPct (s : State) : State :=
  let left := s.cch.unrest.foldl (fun n r => n + r.2) 0
  s.set VLT_RST_STATUS_PCT (if s.rst.total = 0 then 100 else (s.rst.total - left) * 100 / s.rst.total)

/-- Answer the reads that wait for a granule: each forms its line afresh (R276). -/
def State.answerWaiting (s : State) (g : Nat) : State :=
  let l := s.cch.waiting.filter fun w => w.line / 64 = g
  l.foldl (fun t w => t.answerRead w (t.overEntries w.line (t.line w.line))) (s.updCch fun c => { c with
    waiting := c.waiting.filter fun w => w.line / 64 ≠ g })

/-- A fetch of a granule completes (R278): the lines that have received no flush since its read are written. In a restored granule
those are the lines whose refetch still stands (R122). -/
def State.fetchDone (s : State) (g : Nat) : State :=
  let mask := if s.unrest g then Store.get 0 s.rst.overlay g else 2 ^ 64 - 1 - Store.get 0 s.rst.refetch g
  let ls := s.vaultAt g (match Store.get 0 s.rst.fetching g with | 0 => (s.entry g).vloc | v + 1 => v)
  let s1 := (List.range 64).foldl (fun t i => if bitOf mask i then t else t.writeLine (64 * g + i) (match ls with
    | some l => l.getD i LineCell.zero
    | none => ⟨0, true⟩)) s
  let s2 := (s1.setEntry g { s1.entry g with fetch := false }).updCch fun c => { c with unrest := cutRange c.unrest g }
  let s3 := s2.updRst fun r => { r with
    overlay := Store.put 0 r.overlay g 0, fetching := Store.put 0 r.fetching g 0, refetch := Store.put 0 r.refetch g 0 }
  let s4 := if ls.isSome then s3
    else
      let u := s3.setEntry g { s3.entry g with poison := true }
      let u1 := if (u.entry g).dirty then u else (u.setEntry g { u.entry g with dirty := true }).dirtyAdd (u.classOf g)
      (u1.count VLT_RST_FETCH_FAILED 1).event 0x0715 0
  (if s.glb.lazyRestore then s4.showPct else s4).answerWaiting g

end Sys2Proof.Machine
end

