-- ==== Sys2Proof/Machine/Restore.lean ====
section
/-! DEFINITION. The commands of restore and resumption, and their tasks (R265 to R285). -/

namespace Sys2Proof.Machine

/-- A retired rank whose DIMM shows another serial number is a spare (R134). -/
def State.newDimms (s : State) : State :=
  (s.updCch fun c => { c with retired := c.retired &&& (2 ^ 32 - 1 ^^^ s.rst.spd) }).layRanks

/-- CROWN_SEARCH (R265 to R270): the parameter pages that the present modules answer, and the physical ranks whose DIMM shows another
serial number, which makes a retired one a spare (R134). -/
def execCrownSearch (pages : List ParamPage) (changed : BitVec 32) (s : State) : Out :=
  if s.glb.st = .restore ∧ !s.rst.scanned ∧ !s.rst.warm ∧ !s.rst.coldRanks then
    let s0 := (s.set VLT_RST_STATUS_KIND 1).updRst fun r => { r with spd := changed.toNat }
    ok (if s.bit VLT_RST_STATUS_WARM_REFUSED then s0.crownSearch else s0.countAndSearch pages).newDimms
  else ok s

/-- FLASH_MODULE_INSERTED (R266, R231): a module becomes present while RESTORE waits for modules; it answers its parameter pages. -/
def execFlashModuleInserted (mod : BitVec 2) (pages : List ParamPage) (s : State) : Out :=
  if s.glb.st = .restore ∧ s.get VLT_RST_STATUS_RESULT = 6 ∧ bitOf (s.get VLT_MODS_PRESENT) mod.toNat
      ∧ !bitOf (s.get VLT_MODS_COUNTED) mod.toNat then
    if !s.modFits pages mod.toNat then ok (s.event 0x0703 (srcModule mod.toNat))
    else
      let t := s.countMods (setBit s.rst.fits mod.toNat)
      if ones 4 (t.get VLT_MODS_COUNTED) < 3 then ok t else ok (t.set VLT_RST_STATUS_RESULT 0).crownSearch.newDimms
  else ok s

/-- VAULT_EMPTY (R271): a write of VLT_RST_CMD. -/
def execVaultEmpty (key : BitVec 16) (empty : Bool) (s : State) : Out :=
  if empty ∧ key = 0x4554 ∧ s.get VLT_RST_STATUS_RESULT = 3 then
    let s1 := s.updVlt fun v => { v with
      root := noVloc, tree := [], dirs := [], crowns := [], newBlocks := [], notes := [], tagDone := [], tagPlain := [],
      openB := none, bands := [], inflight := [], reissueQ := [], startB := v.maxB + 1, startI := 0, cutB := v.maxB + 1, cutI := 0 }
    let s3 := (s1.loadHorizons []).updDrn fun d => { d with lastM := s.drn.lastM }
    let s4 := (s3.seal ⟨0, s.vlt.maxEpoch + 1, 0, 0, s.drn.lastM, 0, 0, [0, 0, 0, 0, 0, 0]⟩).writePair false
    ok (((s4.updRst fun r => { r with empty := true, crown := [] }).set VLT_RST_STATUS_RESULT 4).event 0x0718 0)
  else ok s

/-- A restore may go on: a crown is chosen, or the vault was emptied or formatted (R274). -/
def State.restorable (s : State) : Bool := [1, 2, 4, 5].contains (s.get VLT_RST_STATUS_RESULT)

/-- MAP_LOAD (R272, R126). -/
def execMapLoad (s : State) : Out :=
  if s.glb.st = .restore ∧ !s.rst.warm ∧ s.rst.scanned ∧ s.restorable ∧ !s.rst.mapped then
    let m := if s.rst.empty then ([], []) else s.replay s.rst.crown
    let n := s.dataGranules
    let s1 := (List.range 5).foldl (fun t c => t.set (CCH_DIRTY_GRANULES c) 0) s
    let s2 := (s1.updCch fun c => { c with map := m.1, unrest := if n = 0 then [] else [(0, n)], lines := [] }).updRst fun r =>
      { r with mapped := true, total := n, overlay := [], fetching := [], refetch := [] }
    let s3 := s2.updVlt fun v => { v with dirtyPieces := (m.2.map (· / 512)).eraseDups }
    ok (((m.1.map Prod.fst).foldl State.checkEntry s3).set VLT_RST_STATUS_PCT 0)
  else ok s

/-- NOTES_APPLY (R273): line slots, ranges and counts of the crown. -/
def execNotesApply (s : State) : Out :=
  if s.glb.st = .restore ∧ s.rst.mapped ∧ !s.rst.noted then
    if s.rst.empty then ok (((s.set DRN_DROP_GRANULES 0).set DRN_UNSAVED_GRANULES 0).updRst fun r => { r with noted := true, ranges := [] })
    else
      let notes := s.noteSlots s.rst.crown
      let s1 := (notes.filter fun r => r.ty = 2).foldl State.applyLineSlot s
      let ranges := (notes.filter fun r => r.ty = 6).flatMap rangesOf
      let s2 := ranges.foldl (fun t r => (List.range r.count).foldl (fun u i => u.poisonGranule (r.first + i)) t) s1
      let s3 := (s2.set DRN_DROP_GRANULES (leAt s.rst.crown 184 4)).set DRN_UNSAVED_GRANULES (leAt s.rst.crown 188 4)
      ok ((s3.set VLT_RST_NRANGE_COUNT ranges.length).updRst fun r => { r with
        noted := true, ranges := ranges, rangeEpoch := crEpoch s.rst.crown })
  else ok s

/-- The granule ranges that no class region holds, from `a` to the end of the cache data space, by rising regions. -/
def gapsFrom : List (Nat × Nat) → Nat → Nat → List (Nat × Nat)
  | [], a, z => if a < z then [(a, z - a)] else []
  | r :: rs, a, z => (if a < min r.1 z then [(a, min r.1 z - a)] else []) ++ gapsFrom rs (max a (r.1 + r.2)) z

/-- Insert a range by rising first granule. -/
def insertRange : List (Nat × Nat) → Nat × Nat → List (Nat × Nat)
  | [], r => [r]
  | x :: xs, r => if r.1 < x.1 then r :: x :: xs else x :: insertRange xs r

/-- The ranges of the background restore in its order: the class regions A, B, M, C, D, then what lies in no region (R279). DESIGN
CHOICE: the spec names no place in the order for granules of no class; they come last. -/
def State.restoreOrder (s : State) : List (Nat × Nat) :=
  let regions := ([0, 1, 4, 2, 3].map fun c => (s.img.base c / 4096, s.img.size c / 4096)).filter fun r => 0 < r.2
  regions ++ gapsFrom (regions.foldl insertRange []) 0 s.dataGranules

/-- The tasks of the background restore. -/
def State.restoreTasks (s : State) : State := s.restoreOrder.foldl (fun t r => t.enqueue 5 2 2 r.2 r.1 0 false) s

/-- The granule that the background restore comes to next: the first in its order that is unrestored with no fetch in flight. -/
def State.restoreNext (s : State) : Option Nat :=
  let left := (s.cch.map.filter fun e => e.2.fetch).foldl (fun l e => cutRange l e.1) s.cch.unrest
  s.restoreOrder.findSome? fun r => left.findSome? fun u =>
    if max r.1 u.1 < min (r.1 + r.2) (u.1 + u.2) then some (max r.1 u.1) else none

/-- Restore one granule in its turn, unless RESTORE_ROW is throttled (R279, R280). -/
def State.restoreStep (s : State) (g : Nat) : State :=
  if s.restoreNext ≠ some g then s
  else if s.dramMay 1 4096 then (s.dramAsk 1 4096).fetchDone g
  else s.dramAsk 1 4096

/-- LAZY_RESTORE_END (R279): the last granule is restored; LAZY falls at the next boundary. -/
def execLazyRestoreEnd (s : State) : Out :=
  if s.atBoundary ∧ s.glb.lazyRestore ∧ s.cch.unrest.isEmpty then
    let s1 := (s.dsp.tasks.filter fun k => k.ty = 5).foldl (fun t k => t.endTask k 0) (s.updGlb fun g => { g with lazyRestore := false })
    ok ((s1.set VLT_RST_STATUS_PCT 100).event 0x0714 0)
  else ok s

/-- DEMAND_FETCH (R276, R122): a task's vault read of a granule issues. -/
def execDemandFetch (g : BitVec 40) (s : State) : Out :=
  let n := g.toNat
  if s.serving ∧ ((s.entry n).fetch ∨ s.unrest n) ∧ !s.inFetch n then
    ok (((s.setEntry n { s.entry n with fetch := true }).updRst fun r => { r with
      fetching := Store.put 0 r.fetching n ((s.entry n).vloc + 1) }).count VLT_RST_FETCH_FETCHES 1)
  else ok s

/-- FETCH_COMPLETE (R278, R122): a fetch completes and the reads that wait for it are answered. -/
def execFetchComplete (g : BitVec 40) (s : State) : Out :=
  if s.inFetch g.toNat ∧ s.serving then
    ok (((s.dramMove 4096).fetchDone g.toNat).retireTask fun k => k.ty = 6 && k.arg0 = g.toNat)
  else ok s

/-- RESTORE_ROW (R279, R280): a task restores granules of its range in the order of the background restore, skipping those restored
or being fetched. -/
def execRestoreRow (first : BitVec 40) (count : BitVec 32) (s : State) : Out :=
  if s.glb.lazyRestore ∧ s.serving then
    let u := s.underBeat (s.issueBeat fun k => k.ty = 5)
    let s1 := (((List.range count.toNat).map (· + first.toNat)).foldl State.restoreStep u).restoreImage s.sti.active
    ok (s1.retireTask fun k => k.ty = 5 && (List.range k.count).all fun i => !s1.unrest (k.arg0 + i))
  else ok s

/-- RANGE_INDEX_WRITE (R285): a write of VLT_RST_RIDX loads a range. -/
def execRangeIndexWrite (idx : BitVec 23) (s : State) : Out :=
  let s0 := s.set VLT_RST_RIDX_INDEX idx.toNat
  let show_ := fun (t : State) (r : Range) (v : Bool) =>
    ((((t.set64 VLT_RST_RFIRST_LO_GRANULE VLT_RST_RFIRST_HI_GRANULE r.first).set VLT_RST_RCOUNT_COUNT r.count).set
      VLT_RST_RINFO_CLASS r.cls).set VLT_RST_RINFO_KIND r.kind).setB VLT_RST_RINFO_VALID v
  if idx.toNat < s.get VLT_RST_NRANGE_COUNT then
    match s.rst.ranges[idx.toNat]? with
    | some r => ok (show_ s0 r true)
    | none => ok (show_ s0 ⟨0, 0, 0, 0⟩ false)
  else ok (show_ s0 ⟨0, 0, 0, 0⟩ false)

/-- Every enabled domain that has not failed is on. -/
def State.domsUp (s : State) : Bool := (List.range 96).all fun d => !s.domEnabled d || s.domOn d || s.domFailed d

end Sys2Proof.Machine
end

