-- ==== Sys2Proof/Machine/DrainOps.lean ====
section
/-! DEFINITION. The trip, DRAIN entry, the passes of the drain, its shedding and its crown as the blocks use them
(R203 to R229). -/

namespace Sys2Proof.Machine

/-- The class M window ends (R216), with its cause; a transaction that is incomplete is discarded whole. -/
def State.mwinEnd (s : State) (cause : Nat) : State :=
  if s.bit DRN_STATUS_MWIN then
    (((s.setB DRN_STATUS_MWIN false).voidCredit 2).updMtx fun m => { m with wr := none }).event 0x060B (srcCause cause)
  else s

/-- The tiles that the drain runs on (R214). -/
def State.drainPool (s : State) : List Nat := s.poolTiles 1

/-- Dirty granules of a class that no extent in flight carries and whose rank is not lost (R220, R229). -/
def State.dirtyLeft (s : State) (c : Nat) : List Nat :=
  (s.cch.map.filter fun e => e.2.dirty && s.classOf e.1 = c && !s.lineLost (64 * e.1)
    && !(s.vlt.inflight.any fun f => f.kind = 1 && f.granule = e.1)).map Prod.fst

/-- The granules that a pass has still to issue, by its code in DRN_STATUS.PASS (R220). Until pass M begins, every dirty class M
granule is its; from then on late M has those that pass M has not. -/
def State.passLeft (s : State) (p : Nat) : List Nat :=
  let now := s.get DRN_STATUS_PASS
  if p = 2 then s.dirtyLeft 0 else if p = 3 then s.dirtyLeft 1
  else if p = 4 then (if now < 4 then s.dirtyLeft 4 else (s.dirtyLeft 4).filter fun g => inRanges s.drn.passM g)
  else if p = 5 then s.dirtyLeft 2
  else if p = 6 then
    (if now < 4 then [] else if now = 4 then (s.dirtyLeft 4).filter fun g => !inRanges s.drn.passM g else s.dirtyLeft 4)
  else if p = 7 then s.dirtyLeft 3 else []

/-- A pass issues no further extent: it is stopped (R224), or it is pass D and it has ended or may not run (R223). -/
def State.passStopped (s : State) (p : Nat) : Bool :=
  s.drn.stopExt = 2 || (s.drn.stopExt = 1 && decide (5 ≤ p)) || (p = 6 && !s.drn.lateM)
    || (p = 7 && (s.drn.dOver || !s.bit DRN_CTRL_D_EN))

/-- A pass has issued its last extent. The queue pass waits for every entry's flush to issue; late M runs while the class M
window is open. -/
def State.passDone (s : State) (p : Nat) : Bool :=
  if p = 1 then s.drn.stopExt = 2 || s.pq.entries.all fun e => e.issued
  else s.passStopped p || ((s.passLeft p).isEmpty
    && !(p = 6 && (s.bit DRN_STATUS_MWIN || s.pq.entries.any fun e => e.cls = 4)))

/-- Class D granules still dirty when pass D ends are dropped, with event 0x0605; DRN_DROP takes their count (R223). -/
def State.dropD (s : State) : State :=
  let n := (s.dirtyLeft 3).length
  if n = 0 ∨ s.drn.dOver then s.updDrn fun d => { d with dOver := true }
  else ((s.updDrn fun d => { d with dOver := true }).count DRN_DROP_GRANULES n).event 0x0605 0

/-- Go on to the passes that may run next. After the last data pass and its extents the drain's checkpoint begins (R251). -/
def State.drainNext : Nat → State → State
  | 0, s => s
  | fuel + 1, s =>
    let p := s.get DRN_STATUS_PASS
    if p = 0 ∨ 8 < p then s
    else if p = 8 then
      if (s.vlt.inflight.any fun f => f.kind = 1) || (match s.vlt.ckpt with | some k => k.drain | none => false)
          || s.drn.crownLeft ≠ 0 || s.drn.crowned then s else s.ckptBegin true
    else if !s.passDone p then s
    else
      let s1 := if p = 7 then s.dropD else s
      let s2 := s1.set DRN_STATUS_PASS (p + 1)
      State.drainNext fuel (if p = 3 then s2.updDrn fun d => { d with
        passM := (s.dirtyLeft 4).map fun g => (g, 1), lateM := s.bit DRN_STATUS_MWIN, open_ := [] }
        else s2.updDrn fun d => { d with open_ := [] })

/-- The physical rank of a granule, 32 where it has none. -/
def State.rankAt (s : State) (g : Nat) : Nat := (s.rankOf g).getD 32

/-- Granules of later passes that a rank holds (R221). -/
def State.laterOn (s : State) (p n : Nat) : Nat :=
  (([2, 3, 4, 5, 6, 7].filter fun q => decide (p < q)).flatMap s.passLeft |>.filter fun g => s.rankAt g = n).length

/-- The better of two ranks in the order of R221. -/
def State.betterRank (s : State) (p a b : Nat) : Nat :=
  if s.laterOn p a < s.laterOn p b then a else if s.laterOn p b < s.laterOn p a then b else min a b

/-- Ranks in the order of R221: ascending by the granules of later passes that they hold, ties by the lower rank. -/
def State.rankOrder (s : State) (p : Nat) : Nat → List Nat → List Nat
  | 0, _ => []
  | _, [] => []
  | fuel + 1, n :: rest =>
    let best := rest.foldl (s.betterRank p) n
    best :: s.rankOrder p fuel ((n :: rest).filter fun k => k ≠ best)

/-- The ranks that a pass has work on, in their order (R221). -/
def State.passOrder (s : State) (p : Nat) : List Nat := s.rankOrder p 33 ((s.passLeft p).map s.rankAt).eraseDups

/-- The rank order that the plan holds for a pass. -/
def DrainPlan.ranksOf (pl : DrainPlan) (p : Nat) : List Nat := ((pl.ranks.find? fun x => x.1 = p).map Prod.snd).getD []

/-- Open ranks up to DRN_CTRL.WIDTH, each on a channel of its own (R221), in the order that the drain schedule holds. A rank that has
got its first granule of the pass since the schedule was made comes after the others. -/
def State.openRanks : Nat → State → State
  | 0, s => s
  | fuel + 1, s =>
    let p := s.get DRN_STATUS_PASS
    let left := (s.passLeft p).map s.rankAt
    let keep := s.drn.open_.filter left.contains
    let s1 := s.updDrn fun d => { d with open_ := keep }
    let cand := (left.filter fun n => !(keep.any fun k => k / 4 = n / 4)).eraseDups
    if s.get DRN_CTRL_WIDTH ≤ keep.length then s1
    else match (s.drn.plan.ranksOf p).find? cand.contains, cand with
      | some n, _ => State.openRanks fuel (s1.updDrn fun d => { d with open_ := keep ++ [n] })
      | none, [] => s1
      | none, n :: rest => State.openRanks fuel (s1.updDrn fun d => { d with open_ := keep ++ [rest.foldl (s1.betterRank p) n] })

/-- Populated ranks, and the granules with work left on a rank. -/
def State.rankBusy (s : State) (n : Nat) : Bool :=
  let p := s.get DRN_STATUS_PASS
  let passes := [2, 3, 4, 5, 6, 7].filter fun q => decide (p ≤ q) && !s.passStopped q
  (passes.any fun q => (s.passLeft q).any fun g => s.rankAt g = n)
    || (s.vlt.inflight.any fun f => f.kind = 1 && s.rankAt f.granule = n)
    || (s.pq.entries.any fun e => s.rankAt (e.line / 64) = n) || s.bit DRN_STATUS_MWIN

/-- The power-down sequence begins (R218, R228). -/
def State.pdBegin (s : State) : State :=
  if s.bit DRN_STATUS_PD_BEGUN then s
  else ((s.setB DRN_STATUS_PD_BEGUN true).updDrn fun d => { d with aliveOut := false }).event 0x060C 0

/-- Switch a DIMM's rail group off under R222. -/
def State.dimmOff (s : State) (g : Nat) : State :=
  if s.groupIsOff g then s else s.pdBegin.groupDown (s.groupRails g)

/-- Finished ranks go to self-refresh, and finished DIMMs to their group's power-down or to the list of held groups (R222). A rank
finishes in pass D once it holds none of that pass's granules, as the chapter's example drain shows. DEDUCED. A group goes off at a
boundary (R390). -/
def State.finishRanks (s : State) : State :=
  if s.glb.st ≠ .drain ∨ s.drn.decided ≠ 0 ∨ (s.get DRN_STATUS_PASS < 7 ∧ !s.passStopped 7) then s
  else
    let go := (List.range 32).filter fun n => s.get (CCH_RANK_STATE n) ≠ 0 && !bitOf s.cch.selfRef n && !bitOf s.drn.lostRanks n
      && !s.rankBusy n
    let s1 := s.updCch fun c => { c with selfRef := go.foldl setBit c.selfRef }
    if !s.bit DRN_CTRL_DIMM_OFF ∨ !s.atBoundary then s1
    else
      let dimms := (List.range 16).filter fun d =>
        let ranks := ([0, 1].map fun r => 4 * (d / 2) + 2 * (d % 2) + r).filter fun n => s1.get (CCH_RANK_STATE n) ≠ 0
        !ranks.isEmpty && ranks.all (bitOf s1.cch.selfRef)
      let groups := (dimms.filterMap fun d => s1.dimmGroup (d / 2) (d % 2)).filter fun g =>
        (s1.groupRails g).any (fun n => s1.railOn n && bitOf s1.seq.want n) && !s1.drn.heldGroups.contains g
      groups.foldl (fun t g => if 50 ≤ t.glb.backBeats then t.updDrn fun d => { d with heldGroups := d.heldGroups ++ [g] }
        else t.dimmOff g) s1

/-- What follows any progress of the drain. -/
def State.drainAdvance (s : State) : State :=
  if s.glb.st ≠ .drain then s else (State.openRanks 8 (State.drainNext 10 s)).finishRanks

/-- The order in which domains are shed (Table: Domain shedding in DRAIN). -/
def State.shedOrder (s : State) : List Nat :=
  let pool := s.drainPool
  [84, 85, 86, 87, 80, 81, 82, 83] ++ ((List.range 64).filter fun t => !pool.contains t) ++ [88, 89, 90, 91, 92]
    ++ [68, 69, 70, 71, 72, 73, 74, 75] ++ pool ++ [64, 65, 66, 67] ++ [76, 77, 78, 79] ++ [93, 94, 95]

/-- The plan as the figures of this close make it. A pass that has begun keeps its rank order (R219). -/
def State.newPlan (s : State) (est : Nat) : DrainPlan :=
  let late := decide (s.glb.st ≠ .drain) || decide (s.get DRN_STATUS_PASS < 4) || s.drn.lateM
  { passes := [1, 2, 3, 4, 5, 6, 7].filter fun p => (p ≠ 6 || late) && (p ≠ 7 || s.bit DRN_CTRL_D_EN)
    ranks := [2, 3, 4, 5, 6, 7].map fun p =>
      (p, if s.glb.st = .drain ∧ p ≤ s.get DRN_STATUS_PASS then s.drn.plan.ranksOf p else s.passOrder p)
    pool := s.drainPool
    shed := s.shedOrder.filter s.domOn
    estMs := est }

/-- The planner at a close (R219): the plan, published in DRN_PLAN. The spec leaves the estimate's arithmetic open, so that it is free;
it is above 0 while there is charged work to drain. -/
def State.plan (s : State) : State :=
  let dirty := [0, 1, 2, 4].any fun c => s.get (CCH_DIRTY_GRANULES c) ≠ 0
  let d := if dirty || !s.pq.entries.isEmpty then let x := s.draw; (1 + x.1 % 65535, x.2) else (0, s)
  let p := d.2.newPlan d.1
  ((d.2.updDrn fun x => { x with plan := p }).set DRN_PLAN_TILES p.pool.length).set DRN_PLAN_EST_MS p.estMs

/-- The bank against a threshold of BANKMON: below it, or back above it by more than HYST codes (R395). A threshold of 0 never trips. -/
def State.bankLevel (s : State) (f : Fld) (floor code : Nat) : State :=
  if code < floor then s.setB f true
  else if floor + s.get SEQ_BANKMON_HYST < code then s.setB f false else s

/-- The crown is to be marked short (R224). -/
def State.markShort (s : State) (stop : Nat) : State :=
  let s1 := (s.updDrn fun d => { d with stopExt := max d.stopExt stop }).setB DRN_STATUS_SHORT true
  if s.drn.stopExt < stop then s1.event 0x0608 0 else s1

/-- A close in DRAIN (R222 to R224). -/
def State.drainClose (s : State) : State :=
  if s.glb.st ≠ .drain ∨ 8 < s.get DRN_STATUS_PASS then s
  else
    let short := s.bit LDG_STATUS_DEFICIT && decide (s.drn.stopExt = 0) && decide (s.drn.crownLeft = 0) && !s.drn.crowned
    let s1 := if short then (s.markShort 1).dropD else s
    let s2 := if s1.get DRN_STATUS_PASS = 7 ∧ s1.ldg.nextZone ≠ 0 ∧ !s1.drn.dOver then s1.dropD else s1
    let s3 := if s2.glb.backBeats < 50 ∧ !s2.drn.heldGroups.isEmpty ∧ !s2.drn.crowned then
        s2.drn.heldGroups.foldl State.dimmOff (s2.updDrn fun d => { d with heldGroups := [] })
      else s2
    s3.drainAdvance

/-- Tasks that DRAIN entry cancels (R214): TRICKLE, SCRUB, FULL, HEALTH, RESTORE_ROW, DEMAND_FETCH. -/
def drainCancels (ty : Nat) : Bool := [3, 5, 6, 7, 8, 11].contains ty

/-- Cancel the tasks of R214. -/
def State.drainCancel (s : State) : State :=
  let s1 := s.cancelTasks fun k => drainCancels k.ty
  let undo := s.vlt.inflight.filter fun f => f.kind = 0
  let s2 := undo.foldl (fun t f => t.setEntry f.granule { t.entry f.granule with trk := false }) s1
  (s2.updVlt fun v => { v with inflight := v.inflight.filter fun f => f.kind = 1 }).updDsp fun d => { d with
    tasks := d.tasks.map fun k => if k.ty = 1 ∨ k.ty = 2 then { k with prio := 7 } else k }

/-- Reads that wait for a cancelled fetch complete with poison (R282). -/
def State.dropFetches (s : State) : State :=
  let s1 := s.cch.waiting.foldl (fun t w => t.answerRead w ⟨0, true⟩) (s.updCch fun c => { c with waiting := [] })
  ((s1.cch.map.filter fun e => e.2.fetch).foldl (fun t e => t.setEntry e.1 { t.entry e.1 with fetch := false }) s1).updRst
    fun r => { r with fetching := [], refetch := [] }

/-- An input collapse abandons a pair-record write that runs or waits: the previous record stays in force (R317, R429). -/
def State.pairAbandon (s : State) : State :=
  let isPair : IWrite → Bool := fun w => match w with
    | .cell 3 _ => true
    | _ => false
  if s.cfl.writes.any isPair then
    ((s.updCfl fun c => c.dropWrites isPair).updMtx fun m => { m with pairBusy := false, helloWait := false }).flashNext
  else s

/-- What an input collapse stops in configuration flash: the recorder copy and the pair-record write (R317, R423, R429). -/
def State.collapseFlash (s : State) : State := s.copyAbandon.pairAbandon

/-- The restore report ends at DRAIN entry (R285). -/
def State.clearReport (s : State) : State :=
  let s1 := ((s.set VLT_RST_STATUS_KIND 0).set VLT_RST_STATUS_RESULT 0).setB VLT_RST_STATUS_LOST_TAIL false
  let s2 := ((s1.setB VLT_RST_STATUS_WARM_REFUSED false).set VLT_RST_STATUS_CFLAGS 0).set VLT_RST_STATUS_PCT 0
  ((s2.set64 VLT_RST_EPOCH_LO_EPOCH VLT_RST_EPOCH_HI_EPOCH 0).set VLT_RST_NRANGE_COUNT 0).updRst fun r => { r with ranges := [] }

/-- DRAIN entry (R213 to R216), with its cause: 1 timer expiry, 2 collapse. -/
def State.drainEnter (s : State) (cause : Nat) : State :=
  let s1 := (s.enter .drain).updPq fun q => { q with held := [], span := ⟨false, false⟩ }
  let s2 := s1.aamRelease.setB PQ_STATUS_HZ_FROZEN true
  let s3 := (s2.voidCredit 0).voidCredit 1
  let s4 := (s3.event 0x0603 (srcCause cause)).raise 1
  let s5 := s4.updDrn fun d => { d with
    cause := cause, start := s.glb.beat, lateM := false, open_ := [], passM := [], stopExt := 0, dOver := false,
    fence := none, sendsEnded := false, crownLeft := 0, crowned := false, decided := 0, heldGroups := [], recCopy := false }
  let s6 := (((s5.set DRN_STATUS_PASS 1).setB DRN_STATUS_SHORT false).setB DRN_STATUS_PD_BEGUN false).setB
    DRN_STATUS_DEGRADED (s.flashMods < 4)
  let s7 := (s6.set DRN_DROP_GRANULES 0).set DRN_UNSAVED_GRANULES 0
  let peer := s.get MTX_PEERSTATE_STATE
  let window := s.sessionUp && (peer = 5 || peer = 6) && !bitOf (s.get MTX_PEERSTATE_FLAGS) 0
  let s8 := if window then s7.setB DRN_STATUS_MWIN true
    else ((s7.voidCredit 2).updMtx fun m => { m with wr := none }).event 0x060B (srcCause 5)
  let s9 := s8.drainCancel.dropFetches.retireAbandon.rehAbandon.clearReport
  let s10 := ((s9.abandonFlash .hostA).abandonFlash .hostB).dgeDropAll [.hostA, .hostB] 13
  (if cause = 2 then s10.collapseFlash else s10).drainAdvance

/-- A trip stops admission and cancels the unspent credit (R206). -/
def State.stopAdmission (s : State) : State :=
  [0, 1, 2].foldl State.voidCredit (s.updDrn fun d => { d with stop := true, stopBeat := s.glb.beat })

/-- What the blocks do at a trip, whatever the state (R158, R174, R184, R369, R413). -/
def State.tripBlocks (s : State) : State := s.ctlTrip.tileTrip.swapTrip.rehAbandon

/-- The partner is lost in GRACE or DRAIN (R217). -/
def State.partnerGone (s : State) : State := ((s.setB DRN_STATUS_PARTNER_LOST true).mwinEnd 3).event 0x0609 0

/-- Domains that go off together (R225): a fabric quadrant with the last of its tiles, from step 6 on. -/
def State.shedGroup (s : State) (d : Nat) : List Nat :=
  if d < 64 then
    let q := 2 * (d / 8 / 4) + d % 8 / 4
    let last := (List.range 64).all fun t => t = d || 2 * (t / 8 / 4) + t % 8 / 4 ≠ q || !s.domOn t
    if s.drn.decided = 2 && s.drn.crowned && last then [d, 64 + q] else [d]
  else if 84 ≤ d ∧ d ≤ 87 then [84, 85, 86, 87]
  else if 80 ≤ d ∧ d ≤ 83 then [82, 83, 80, 81]
  else if 88 ≤ d ∧ d ≤ 92 then [91, 92, 90, 88, 89]
  else if 93 ≤ d ∧ d ≤ 95 then [93, 94, 95]
  else [d]

/-- The condition under which a domain is shed (Table: Domain shedding in DRAIN). -/
def State.shedNow (s : State) (d : Nat) : Bool :=
  let final := s.drn.decided = 2 && s.drn.crowned
  if d < 64 then
    s.shareOcc d = 0 && !(s.dsp.tasks.any fun k => k.tile = d) && (!s.drainPool.contains d || final)
  else if d < 68 then final && (List.range 64).all fun t => 64 + (2 * (t / 8 / 4) + t % 8 / 4) ≠ d || !s.domOn t
  else if d < 76 then [0, 1, 2, 3].all fun k =>
    let n := 4 * (d - 68) + k
    s.get (CCH_RANK_STATE n) = 0 || bitOf s.cch.selfRef n || bitOf s.drn.lostRanks n
  else if d < 80 then final && s.vlt.inflight.isEmpty
  else if d < 84 then [84, 85, 86, 87].all fun k => !s.domOn k
  else if d < 88 then s.pq.held.isEmpty && s.cch.waiting.isEmpty
  else if d < 93 then
    !s.bit DRN_STATUS_MWIN && (!s.sessionUp || match s.drn.fence with
      | some (q, b) => !(s.mtx.ring.any fun r => decide (r.seq ≤ q)) || s.expired b 2000
      | none => false)
  else final && s.drn.recCopy && !s.evr.copyBusy

/-- Ranges of granules for a crown: each with its class and kind, neighbours of one class and kind joined (R249). -/
def joinRange (l : List Range) (g c k : Nat) : List Range :=
  match l with
  | r :: rest => if r.first + r.count = g ∧ r.cls = c ∧ r.kind = k then { r with count := r.count + 1 } :: rest else ⟨g, 1, c, k⟩ :: l
  | [] => [⟨g, 1, c, k⟩]

/-- The granules that a drain leaves unsaved: dirty ones, and those of queue entries that were never flushed. -/
def State.leftOver (s : State) : List Nat :=
  let q := (s.pq.entries.filter fun e => !e.flushed).map fun e => e.line / 64
  let m : Store Nat := (s.cch.map.filter fun e => e.2.dirty).map fun e => (e.1, 1)
  (q.foldl (fun (x : Store Nat) g => Store.insert x g 1) m).map Prod.fst

/-- The ranges of a drain crown: kind 3 on a lost rank, kind 1 for class D, kind 2 for a charged class (R223, R224, R229). -/
def State.crownRanges (s : State) : List Range :=
  (s.leftOver.foldl (fun l g =>
    let c := s.classOf g
    joinRange l g c (if s.lineLost (64 * g) then 3 else if c = 3 then 1 else 2)) []).reverse

/-- Merge neighbouring ranges of one kind until they fit the crown's room (R249). -/
def mergePairs : List Range → List Range
  | a :: b :: rest =>
    if a.kind = b.kind then ⟨a.first, b.first + b.count - a.first, a.cls, a.kind⟩ :: mergePairs rest
    else a :: mergePairs (b :: rest)
  | l => l
def fitRanges : Nat → Nat → List Range → List Range × Bool
  | 0, _, l => (l, false)
  | fuel + 1, room, l => if l.length ≤ room then (l, false) else ((fitRanges fuel room (mergePairs l)).1, true)

/-- The bytes of a range list (R249). -/
def rangeBytes (l : List Range) : List Byte :=
  let b := l.flatMap fun r => leBytes 8 r.first ++ leBytes 4 r.count ++ leBytes 1 r.cls ++ leBytes 1 r.kind ++ leBytes 2 0
  b ++ List.replicate (4096 - b.length) 0

/-- Split a list into pieces. -/
def pieces {α : Type} (n : Nat) : Nat → List α → List (List α)
  | 0, _ => []
  | fuel + 1, l => if l.isEmpty then [] else l.take n :: pieces n fuel (l.drop n)

/-- Write the notes of a drain: its range lists and the note indexes that name them and its line slots (R249). -/
def State.writeNotes (s : State) : State :=
  let lines := s.vlt.notes.length
  let f := fitRanges 32 (256 * (512 * 32 - lines)) s.crownRanges
  let lists := pieces 256 (f.1.length) f.1
  let w := lists.foldl (fun (a : State × Nat) l =>
    let x := a.1.writeSlot 6 0 0 a.2 noVloc (rangeBytes l)
    (x.2.updVlt fun v => { v with notes := v.notes ++ [x.1.vloc] }, a.2 + 1)) (s, 0)
  let locs := w.1.vlt.notes
  let idx := (pieces 512 locs.length locs).foldl (fun (a : State × List Nat) l =>
    let x := a.1.writeSlot 8 0 0 a.2.length noVloc (vlocList fun i => l.getD i noVloc)
    (x.2, a.2 ++ [x.1.vloc])) (w.1, [])
  idx.1.updVlt fun v => { v with notes := idx.2, wide := f.2 }

/-- The plan is rebuilt at every close in SERVE, GRACE and DRAIN (R219). -/
def State.planClose (s : State) : State := if s.serving ∨ s.glb.st = .drain then s.plan else s

/-- The close of the beat in which the controller enters SERVE, taken again with the window of SERVE (R143). -/
def State.closeAgain (s : State) : State := s.closeLedger.planClose

/-- A drain shed quiesces the tiles whose shedding condition holds, outside the limit of R366; a warm resume returns them (R225,
R365). -/
def State.shedQuiesce (s : State) : State :=
  if s.glb.st ≠ .drain then s
  else
    let l := (List.range 64).filter fun t => s.inService t && !s.dsp.leaving.contains t && s.shedNow t
    s.updDsp fun d => { d with leaving := d.leaving ++ l, kept := d.kept ++ l.filter fun t => !d.kept.contains t }

end Sys2Proof.Machine
end

