-- ==== Sys2Proof/Machine/MirrorOps.lean ====
section
/-! DEFINITION. The receiver and the sender of mirror records as the rows use them: taking flits and records, the sequence
classes, the checks of a complete write, the records of a session's setup, and what the sender places (R318 to R345). -/

namespace Sys2Proof.Machine

/-- Queue entries that are flushed and placed are freed (R78). -/
def State.freeEntries (s : State) : State :=
  s.updPq fun q => { q with entries := q.entries.filter fun e => !(e.flushed && e.sent) }

/-- Assign the next transaction sequence (R77). -/
def State.nextSeq (s : State) : Nat × State :=
  let q := (s.pq.lastSeq + 1) % 2 ^ 48
  (q, (s.updPq fun x => { x with lastSeq := q }).set64 MTX_NEXTSEQ_LO_VALUE MTX_NEXTSEQ_HI_VALUE ((q + 1) % 2 ^ 48))

/-- A sent sequence enters the outstanding ring with the granule it touched (R332). -/
def State.ringAdd (s : State) (q : Nat) (g : Option Nat) : State :=
  s.updMtx fun m => { m with ring := m.ring ++ [⟨q, g, s.glb.beat, m.clean⟩] }

/-- Place a mirrored queue entry: its records, or its granule in the lost set while no session is up (R332). -/
def State.sendEntry (s : State) (e : QEntry) : State :=
  let q := e.seq.getD 0
  let s1 := if s.sessionUp then
      ((s.sendRec (recWrite 0 e.cls 1 q (64 * e.line) e.mask.toNat)).sendRec (recData true q [e.data])).ringAdd q
        (some (e.line / 64))
    else (s.lose [e.line / 64]).openBreak q
  (s1.updPq fun x => { x with entries := x.entries.map fun y => if y.id = e.id then { y with sent := true } else y }).freeEntries

/-- The oldest mirrored entry that has not been placed. -/
def State.unsent (s : State) : Option QEntry := s.pq.entries.find? fun e => !e.sent

/-- During setup the entries from the HELLO's NEXTSEQ on wait for the session (R328: the peer's floor). -/
def State.setupHolds (s : State) (q : Nat) : Bool :=
  s.get MTX_STATUS_SESSION = 1 && s.mtx.myHello ≠ [] && decide (leAt s.mtx.myHello 80 6 ≤ q)

/-- The progress of the outgoing repair or full sync (MTX_SYNCPROG). -/
def State.showSync (s : State) : State :=
  if s.mtx.sync = 3 then
    let n := s.syncTotal
    (s.set MTX_SYNCPROG_PCT (if n = 0 then 100 else 100 * s.mtx.cursor / n)).set MTX_SYNCPROG_CLASS
      (if s.mtx.cursor < n then (s.syncAt s.mtx.cursor).1 else 2)
  else if s.mtx.sync = 1 then
    let n := s.mtx.lost.length
    s.set MTX_SYNCPROG_PCT (if n = 0 then 100 else 100 * (n - s.mtx.todo.length) / n)
  else s

/-- Go on to the next granule of a repair or a full sync. -/
def State.syncNext (s : State) : State :=
  (s.updMtx fun m => if m.sync = 1 then { m with todo := m.todo.tail, starts := 0 } else { m with cursor := m.cursor + 1, starts := 0 }).showSync

/-- The content that a re-mirror sends: none is a granule with no vault copy. A slot that cannot be read has open content. -/
def State.remirrorLines (s : State) (g : Nat) : Option (List Line) × State :=
  if (s.entry g).vloc = noVloc then (none, s)
  else match s.vaultLines g with
    | some l => (some (l.map LineCell.data), s)
    | none =>
      let d := s.draw
      (some ((List.range 64).map fun i => BitVec.ofNat 512 (d.1 / 2 ^ (512 * i))), d.2)

/-- The re-mirror of one granule (R334): it waits for the queue and for a trickle of a dirty granule, then sends the slot. -/
def State.remirrorStep (s : State) (g : Nat) : State :=
  if s.pq.entries.any fun e => e.line / 64 = g then s
  else if (s.entry g).dirty then
    if (s.dsp.tasks.any fun k => k.ty = 3 && k.prio = 5 && k.arg0 = g) || (s.vlt.inflight.any fun f => f.granule = g) then s
    else (s.updMtx fun m => { m with starts := m.starts + 1 }).enqueue 3 5 0 1 g 0 false
  else if s.vlt.inflight.any fun f => f.granule = g then s
  else
    let c := s.remirrorLines g
    let n := c.2.nextSeq
    let q := n.1
    let s1 := match c.1 with
      | none => n.2.sendRec (recWrite 3 (s.classOf g) 64 q (4096 * g) (2 ^ 64 - 1))
      | some l => (n.2.sendRec (recWrite 2 (s.classOf g) 64 q (4096 * g) (2 ^ 64 - 1))).sendRec (recData true q l)
    (s1.ringAdd q (some g)).syncNext

/-- Send REPAIRED or END when every granule has been sent (R335, R336): each writes the pair record (R317). -/
def State.syncClose (s : State) : State :=
  if s.mtx.endSeq.isSome then s
  else
    let n := s.nextSeq
    let kind := if s.mtx.sync = 1 then 2 else 1
    let s1 := ((n.2.sendRec (recSync kind s.mtx.pair.mgenSend n.1)).ringAdd n.1 none).updMtx fun m => { m with endSeq := some n.1 }
    s1.writePair false

/-- The BEGIN whose sequence stands next is placed. -/
def State.syncBegin (s : State) (q : Nat) : State :=
  ((s.sendRec (recSync 0 s.mtx.pair.mgenSend q)).ringAdd q none).updMtx fun m => { m with pendSync := none }

/-- The mirror send of one record or one re-mirror step, in sequence order (R332, R334 to R336). -/
def State.mirrorNext (s : State) : State :=
  match s.unsent with
  | some e =>
    match s.mtx.pendSync with
    | some q => if q < e.seq.getD 0 then s.syncBegin q else if s.setupHolds (e.seq.getD 0) then s else s.sendEntry e
    | none => if s.setupHolds (e.seq.getD 0) then s else s.sendEntry e
  | none =>
    match s.mtx.pendSync with
    | some q => s.syncBegin q
    | none =>
      if !s.sessionUp then s
      else match s.remirror with
        | some g => s.remirrorStep g
        | none => if s.mtx.sync = 1 ∨ s.mtx.sync = 3 then s.syncClose else s

/-- The front flit where it is a clear one. While no session is up, encrypted flits in front of it are dropped. -/
def State.clearFront (s : State) : Option (List Byte) × State :=
  let drop := if s.sessionUp then 0 else (s.mlk.rx.takeWhile fun f => f.txf ≠ 0).length
  let s1 := s.updMlk fun m => { m with rx := m.rx.drop drop, freed := (m.freed + drop) % 4096 }
  match s1.mlk.rx with
  | f :: more =>
    if f.txf = 0 ∧ s.mtx.plain = [] then (some f.data, s1.updMlk fun m => { m with rx := more, freed := (m.freed + 1) % 4096 })
    else (none, s1)
  | [] => (none, s1)

/-- The effect of a session end that the peer's REFUSE brings: 0x0903, and 0x090F for reason 4 (R321). -/
def State.refused (s : State) (reason : Nat) : State :=
  let s1 := s.event 0x0903 (srcCause reason)
  let s2 := if reason = 4 then s1.event 0x090F 0 else s1
  if reason = 2 then s2.setB MTX_STATUS_MAPERR true else s2

/-- A flit holds a valid REFUSE: its reason. -/
def refuseReason (b : List Byte) : Option Nat :=
  if leAt b 0 1 = 10 ∧ [1, 2, 3, 4, 6, 7, 8].contains (leAt b 1 1) then some (leAt b 1 1) else none

/-- A clear data flit while a session is up ends it (R322). -/
def State.clearInSession (s : State) (b : List Byte) : State :=
  match refuseReason b with
  | some r => (s.refused r).sessionEnd 2
  | none => (s.sessionEnd 2).mtxProto

/-- The session is up (R319 step 6): what the peer's HELLO says is in force, and repair or full sync is chosen (R335). -/
def State.sessionComeUp (s : State) : State :=
  let h := s.mtx.peerHello
  let repair := leAt h 64 8 = s.mtx.pair.mgenSend ∧ s.mtx.pair.mgenSend ≠ 0 ∧ s.acked ≤ leAt h 72 6 ∧ s.mtx.lostValid
    ∧ s.bit MTX_STATUS_LOSTOVF = false ∧ s.mtx.resync = false
  let s1 := ((s.set MTX_STATUS_SESSION 2).setB MTX_STATUS_HBLOST false).updPair fun p => { p with peerId := leAt h 8 8 }
  let s2 := (s1.event 0x0901 0).raise 18
  let s3 := s2.updMtx fun m => { m with
    floor := leAt h 80 6, begun := false, firstRec := true, upSince := s.glb.beat, hbSent := s.glb.beat, hbLast := s.glb.beat,
    gone := false, resync := false, sync := if repair then 1 else 2, todo := if repair then m.lost else [], cursor := 0,
    starts := 0, endSeq := none, pendSync := none, peerAck := m.peerAck, hold := none }
  let s4 := (if repair then s3.set MTX_STATUS_SENDSYNC 1 else s3).showSync
  if s.bit MTX_ADOPT_ACTIVE then
    let s5 := (s4.sendRec (recTakeover s.mtx.adoptBeat s.mtx.pair.mgenHeld s.mtx.adoptThru)).closeGroup
    ((s5.sendClear (recRefuse 4)).event 0x0903 (srcCause 4)).sessionEnd 1
  else s4

/-- The type of the record at the front of the group that is being executed, where records may execute now (R325, R336). -/
def State.recType (s : State) : Option Nat :=
  if s.sessionUp && !s.mtx.pairBusy && !s.mtx.plain.isEmpty then some (leAt s.mtx.plain 0 1) else none

/-- The length in bytes of a record; 0 for a TYPE that has none. -/
def recLen (b : List Byte) : Nat :=
  match leAt b 0 1 with
  | 1 => 32 | 2 => 8 + 64 * leAt b 2 1 | 3 => 16 | 4 => 24 | 5 => 32 | 6 => 24 | 7 => 32 | _ => 0

/-- The group that is being executed has ended: its acknowledgement goes out if it raised H (R329). -/
def State.groupEnd (s : State) : State :=
  let s1 := if s.mtx.raised then s.sendRec (recAck 0 0 s.peerThru) else s
  s1.updMtx fun m => { m with plain := [], raised := false }

/-- Take the front record out of the group. -/
def State.dropRec (s : State) : State := s.updMtx fun m => { m with plain := m.plain.drop (recLen m.plain) }

/-- A sequence has been processed (R328). -/
def State.processed (s : State) (q : Nat) : State :=
  (s.set64 MTX_PEERTHRU_LO_VALUE MTX_PEERTHRU_HI_VALUE q).updMtx fun m => { m with begun := true, raised := true }

/-- A length mismatch discards the open write, refuses it and counts (R330); the 16th within 1,000,000 beats places a fault
mark. A write of another class than New is only dropped. -/
def State.mismatch (s : State) (reason q : Nat) : State :=
  let l := s.glb.beat :: s.mtx.lenBeats.filter fun b => decide (s.glb.beat ≤ b + 1000000)
  let s1 := ((s.count MTX_FAULTCNT_LENGTH 1).updMtx fun m => { m with lenBeats := l }).sendRec (recAck 1 reason q)
  if 16 ≤ l.length then (s1.updMtx fun m => { m with lenBeats := [] }).closeGroup.faultMark else s1
def State.wrMismatch (s : State) (reason : Nat) : State :=
  match s.mtx.wr with
  | none => s
  | some w =>
    let s1 := s.updMtx fun m => { m with wr := none }
    if w.skip then s1 else (s1.processed w.seq).mismatch reason w.seq

/-- What stands next in the group: at its end it is over; a type that no group may carry, and a record that would cross the
group, is a protocol error, and the rest of the group is ignored (R327); one that is neither
DATA nor PAD ends an open write (R330). -/
def State.groupRest (s : State) : State :=
  let b := s.mtx.plain
  if !s.sessionUp then s
  else if b.isEmpty then s.groupEnd
  else if leAt b 0 1 = 0 then s
  else if recLen b = 0 ∨ b.length < recLen b then (if leAt b 0 1 = 2 then s else s.wrMismatch 1).groupEnd.mtxProto
  else s

/-- What the arrival of a record other than DATA or PAD does first: the gap of the session's first record (R328), and the end
of an open write (R330). -/
def State.preRec (s : State) (begin_ : Bool) : State :=
  let s1 := if s.mtx.firstRec then
      let t := s.updMtx fun m => { m with firstRec := false }
      if s.peerThru + 1 < s.mtx.floor ∧ !begin_ then (t.updPair fun p => { p with gap := true }).writePair false else t
    else s
  s1.wrMismatch 1

/-- The class of a received sequence: 0 new, 1 duplicate, 2 out of window (R328). -/
def State.seqClass (s : State) (q : Nat) : Nat :=
  if q = s.peerThru + 1 ∨ (q = s.mtx.floor ∧ s.mtx.begun = false) then 0
  else if max s.mtx.floor (s.peerThru - 8191) ≤ q ∧ q ≤ s.peerThru then 1 else 2

/-- A duplicate: ACK through H again, and its count (R328). -/
def State.duplicate (s : State) : State := (s.sendRec (recAck 0 0 s.peerThru)).count MTX_FAULTCNT_DUP 1

/-- The extent of the mirror section that holds a write's span. -/
def State.extentOf (s : State) (w : RxWrite) : Option Nat :=
  (List.range s.img.next).find? fun x => s.img.extClass x = w.ocls && decide (s.img.extBase x ≤ w.caddr)
    && decide (w.caddr + 64 * w.len ≤ s.img.extBase x + s.img.extLen x)

/-- A complete write has the form of Table: Record layouts (R329 step 1). -/
def RxWrite.fine (w : RxWrite) : Bool :=
  w.ocls < 3 && w.len ≤ 64 && w.caddr % 64 = 0 && decide (w.caddr % 4096 + 64 * w.len ≤ 4096) && (!w.zero || w.len = 64)
    && (if w.len = 0 then w.be = 0 else if w.len = 1 then w.be ≠ 0 else w.be = 2 ^ 64 - 1)

/-- The class M line that a write's first line takes. -/
def State.mLine (s : State) (w : RxWrite) (x : Nat) : Nat :=
  (s.img.base 4 + s.img.extOff x + (w.caddr - s.img.extBase x)) / 64

/-- The class M admission check (R48, R329 step 3). -/
def State.mAdmits (s : State) (w : RxWrite) (x : Nat) : Bool :=
  let la := s.mLine w x
  ((s.serving && !s.drn.stop) || (s.glb.st = .drain && s.bit DRN_STATUS_MWIN))
    && decide (w.len ≤ s.unspent 2)
    && match s.tileOf la with
      | some t => decide (s.shareOcc t + w.len ≤ s.shareRoom t)
      | none => false

/-- Admit a received write: its lines enter the persist queue with class M (R329). -/
def State.mAdmit (s : State) (w : RxWrite) (x : Nat) : State :=
  let la := s.mLine w x
  let add := fun (t : State) (i : Nat) =>
    let e : QEntry := ⟨t.pq.nextId, (t.tileOf (la + i)).getD 0, la + i, if w.zero then 0 else w.lines.getD i 0,
      BitVec.ofNat 64 w.be, 4, t.glb.beat, none, false, false, false, true, 0⟩
    (t.updPq fun q => { q with entries := q.entries ++ [e], nextId := q.nextId + 1 }).entryTasks e
  let s1 := (List.range w.len).foldl add s
  let s2 := s1.setUnspent 2 (s.unspent 2 - w.len)
  let s3 := if s.glb.published then s2
    else s2.updLdg fun l => { l with closeUsed := Store.put 0 l.closeUsed 2 (Store.get 0 l.closeUsed 2 + w.len) }
  let s4 := if w.sync then s3.updMtx fun m => { m with
      cursors := Store.put 0 m.cursors w.ocls (max (Store.get 0 m.cursors w.ocls) (w.caddr + 1)) } else s3
  s4.updDrn fun d => { d with lastM := w.seq }

/-- A complete write: none where its admission waits, else what it leads to (R329). -/
def State.rxDone (s : State) (w : RxWrite) : Option State :=
  let done := s.updMtx fun m => { m with wr := none }
  let refuse := fun (reason : Nat) => (done.processed w.seq).sendRec (recAck 1 reason w.seq)
  if w.skip then some done
  else if !w.fine then some (refuse 4).mtxProto
  else if w.len = 0 then some (done.processed w.seq)
  else match s.extentOf w with
    | none => some (refuse 3).closeGroup.faultMark
    | some x => if s.mAdmits w x then some ((done.mAdmit w x).processed w.seq) else none

/-- The write that a WRITE record opens. -/
def State.rxWrite (s : State) (b : List Byte) (skip : Bool) : RxWrite :=
  ⟨leAt b 8 6, leAt b 2 1, leAt b 16 8, leAt b 4 2, leAt b 24 8, bitOf (leAt b 1 1) 1, bitOf (leAt b 1 1) 0, skip, [],
    s.glb.beat, s.mtx.clean⟩

/-- The held peer horizons take the newest stamps executed, while no gap and no sync is open (R333). -/
def State.takeStamps (s : State) : State :=
  if s.mtx.pair.gap ∨ s.mtx.pair.syncing then s
  else s.updPair fun p => { p with phzA := max p.phzA s.mtx.newStamp.a, phzB := max p.phzB s.mtx.newStamp.b }

/-- The partner is lost (R341). -/
def State.partnerLost (s : State) : State :=
  if s.mtx.gone then s
  else
    let s1 := ((s.updMtx fun m => { m with gone := true }).event 0x090D 0).raise 20
    let s2 := if s1.sessionUp then s1.sessionQuit 8 else s1
    match s.glb.st with
    | .serve => s2.adoptMirror s2.peerThru
    | .grace => s2.partnerGone
    | .drain => s2.partnerGone.drainAdvance
    | _ => s2

/-- Remove the numbers from `a` up to below `b` from a list of ranges. -/
def cutSpan (l : List (Nat × Nat)) (a b : Nat) : List (Nat × Nat) :=
  l.flatMap fun r =>
    (if r.1 < a then [(r.1, min (r.1 + r.2) a - r.1)] else []) ++
      (if b < r.1 + r.2 then [(max r.1 b, r.1 + r.2 - max r.1 b)] else [])

end Sys2Proof.Machine
end

