-- ==== Sys2Proof/Machine/Mirror.lean ====
section
/-! DEFINITION. The commands of mirror transactions and partner trust (R315 to R345). -/

namespace Sys2Proof.Machine

/-- SESSION_SETUP_START (R315, R318, R319, R322): count, ceiling, HELLO. -/
def execSessionSetupStart (s : State) : Out :=
  let may := !s.mirrorGuarded && s.linkUp && decide (s.glb.st = .serve) && s.bit MTX_CTRL_EN && !s.bit MTX_STATUS_QUAR
    && decide (s.get MTX_STATUS_SESSION = 0) && (match s.mtx.hold with | some (b, k) => s.expired b k | none => true)
  if !may then ok s
  else if s.pairKey.isNone then
    if s.bit MTX_STATUS_NOKEY then ok s else ok ((s.setB MTX_STATUS_NOKEY true).event 0x0916 0)
  else
    let ceil := match s.cell 3 with | some r => (pairOf r.payload).sessCnt | none => 0
    let s1 := ((s.setB MTX_STATUS_NOKEY false).set MTX_STATUS_SESSION 1).updMtx fun m => { m with
      count := m.count + 1, myHello := [], respSent := false, hold := none }
    if s.mtx.count + 1 ≤ ceil then ok s1.sendHello.setupStep
    else ok (((s1.updPair fun p => { p with sessCnt := ceil + 1024 }).updMtx fun m => { m with helloWait := true }).writePair false)

/-- HELLO (R319 step 4, R321): the peer's HELLO arrives. -/
def execHello (s : State) : Out :=
  match s.clearFront with
  | (some b, t) =>
    if s.sessionUp then ok (t.clearInSession b)
    else if leAt b 0 1 ≠ 8 then ok s
    else
      let h := b.take 152
      if s.get MTX_STATUS_SESSION = 1 then ok (t.updMtx fun m => { m with peerHello := h }).setupStep
      else if t.helloReason h = 6 ∧ s.glb.st ≠ .restore then ok (t.sessionRefuse 6)
      else ok (t.updMtx fun m => { m with peerHello := h })
  | (none, t) => ok t

/-- RESPONSE (R319 step 6, R320, R321): the peer's RESPONSE is verified. -/
def execResponse (s : State) : Out :=
  match s.clearFront with
  | (some b, t) =>
    if s.sessionUp then ok (t.clearInSession b)
    else if leAt b 0 1 ≠ 9 then ok s
    else if s.get MTX_STATUS_SESSION = 0 then ok t
    else if s.mirrorGuarded then ok t
    else if s.mtx.respSent ∧ (b.drop 8).take 32 = t.responseOf false then ok (t.dgeRequest .mirror).sessionComeUp
    else ok (t.sessionRefuse 3).faultMark
  | (none, t) => ok t

/-- REFUSE (R321, R322): a REFUSE or another clear data flit arrives. -/
def execRefuse (s : State) : Out :=
  match s.clearFront with
  | (some b, t) =>
    if s.sessionUp then ok (t.clearInSession b)
    else if leAt b 0 1 = 8 ∨ leAt b 0 1 = 9 then ok s
    else match refuseReason b with
      | some r =>
        let s1 := t.refused r
        if s.get MTX_STATUS_SESSION = 1 then ok ((s1.sessionEnd 2).updMtx fun m => { m with hold := some (s.glb.beat, 100000) })
        else ok s1
      | none => ok t.mtxProto
  | (none, t) => ok t

/-- SETUP_TIMEOUT (R319). -/
def execSetupTimeout (s : State) : Out :=
  if s.get MTX_STATUS_SESSION = 1 ∧ s.mtx.myHello ≠ [] ∧ s.expired s.mtx.helloBeat 10000 then
    ok (((s.event 0x0903 (srcCause 9)).sessionEnd 1).updMtx fun m => { m with hold := some (s.mtx.helloBeat + 10001, 100000) })
  else ok s

/-- SESSION_END_COMMAND (R322). -/
def execSessionEndCommand (s : State) : Out := s.whileOn 0x80064 (ok (s.sessionQuit 1))

/-- QUARANTINE_CLEAR (R339). -/
def execQuarantineClear (s : State) : Out := s.whileOn 0x80064 (ok ((s.setB MTX_STATUS_QUAR false).set MTX_QUAR_LEVEL 0))

/-- RESYNC_COMMAND (R335). -/
def execResyncCommand (s : State) : Out := s.whileOn 0x80064 (ok (s.updMtx fun m => { m with resync := true }))

/-- GROUP_VERIFY (R323 to R325): the tag of a complete group. A flit whose TXF breaks R323 ends the session, a clear one inside a group among
them: DEDUCED, a clear flit ends it under R322 where it stands before a group. -/
def execGroupVerify (s : State) : Out :=
  if !s.sessionUp ∨ s.mtx.plain ≠ [] then ok s
  else
    let enc := s.mlk.rx.take 16
    let odd := (List.range enc.length).any fun i => (enc.getD i ⟨0, 0, []⟩).txf ≠ if i = 0 then 3 else 1
    if (enc.getD 0 ⟨0, 0, []⟩).txf = 0 then ok s
    else if odd then ok ((s.event 0x0904 0).faultMark)
    else if enc.length < 16 then ok s
    else
      let all := enc.flatMap LFlit.data
      let first := (enc.getD 0 ⟨0, 0, []⟩).seq
      let aad := beBytes 8 s.mtx.gRx ++ beBytes 2 first ++ List.replicate 6 0
      match gcmOpen s.mtx.keyRx (s.mtx.saltRx ++ beBytes 8 s.mtx.gRx) aad (all.take 4848) (all.drop 4848) with
      | none => ok ((s.event 0x0904 0).faultMark)
      | some p =>
        let s1 := s.updMlk fun m => { m with rx := m.rx.drop 16, freed := (m.freed + 16) % 4096 }
        ok (s1.updMtx fun m => { m with plain := p, raised := false, gRx := m.gRx + 1 }).groupRest

/-- WRITE (R328, R329): a WRITE record opens a write or is complete at once. -/
def execWrite (s : State) : Out :=
  if s.recType ≠ some 1 then ok s
  else
    let b := s.mtx.plain
    let s1 := s.preRec false
    if !s1.sessionUp then ok s1
    else
      let q := leAt b 8 6
      let t := s1.dropRec
      let whole := leAt b 4 2 = 0 || bitOf (leAt b 1 1) 0
      let skip := if whole then t else t.updMtx fun m => { m with wr := some (s1.rxWrite b true), zeroSeq := none }
      if 4 ≤ leAt b 1 1 then ok t.mtxProto.groupRest
      else if s1.seqClass q = 1 then ok skip.duplicate.groupRest
      else if s1.seqClass q = 2 then ok skip.mtxProto.groupRest
      else if whole then
        match t.rxDone (s1.rxWrite b false) with
        | none => ok s1
        | some u => ok (u.updMtx fun m => { m with zeroSeq := some q }).groupRest
      else ok (t.updMtx fun m => { m with wr := some (s1.rxWrite b false), zeroSeq := none }).groupRest

/-- DATA (R330): lines of the open write. -/
def execData (s : State) : Out :=
  if s.recType ≠ some 2 then ok s
  else
    let b := s.mtx.plain
    let n := leAt b 2 1
    let last := bitOf (leAt b 1 1) 0
    let t := s.dropRec
    let bad := 2 ≤ leAt b 1 1 ∨ n = 0 ∨ 64 < n
    if bad then ok t.mtxProto.groupRest
    else match s.mtx.wr with
      | some w =>
        if w.seq % 2 ^ 32 ≠ leAt b 4 4 then ok (t.wrMismatch 1).mtxProto.groupRest
        else if w.skip then ok (if last then t.updMtx fun m => { m with wr := none } else t).groupRest
        else
          let lines := w.lines ++ (List.range n).map fun i => BitVec.ofNat 512 (leAt b (8 + 64 * i) 64)
          let k := lines.length
          if w.len < k ∨ (k = w.len ∧ !last) then ok (t.wrMismatch 2).groupRest
          else if last ∧ k < w.len then ok (t.wrMismatch 1).groupRest
          else if last then
            match t.rxDone { w with lines := lines } with
            | none => ok s
            | some u => ok u.groupRest
          else ok (t.updMtx fun m => { m with wr := some { w with lines := lines } }).groupRest
      | none =>
        match s.mtx.zeroSeq with
        | some z => if z % 2 ^ 32 = leAt b 4 4 then ok (t.mismatch 2 z).groupRest else ok t.mtxProto.groupRest
        | none => ok t.mtxProto.groupRest

/-- ACK (R332): the partner acknowledges or refuses. -/
def execAck (s : State) : Out :=
  if s.recType ≠ some 3 then ok s
  else
    let b := s.mtx.plain
    let t := (s.preRec false).dropRec
    let q := leAt b 8 6
    if 2 ≤ leAt b 1 1 ∨ 5 ≤ leAt b 2 2 then ok t.mtxProto.groupRest
    else ok (if leAt b 1 1 = 0 then t.ackThrough q else t.ackRefused q).groupRest

/-- STAMP (R333). -/
def execStamp (s : State) : Out :=
  if s.recType ≠ some 4 then ok s
  else
    let b := s.mtx.plain
    let t := (s.preRec false).dropRec
    let v := leAt b 8 8
    if 2 ≤ leAt b 1 1 then ok t.mtxProto.groupRest
    else
      let p := if leAt b 1 1 = 0 then Port.pa else Port.pb
      ok ((t.updMtx fun m => { m with newStamp := m.newStamp.set p (max (m.newStamp.get p) v) }).takeStamps).groupRest

/-- HEARTBEAT (R340, R216): the peer's state, its send end and its THRU; a reserved value is a protocol error (R327). -/
def execHeartbeat (s : State) : Out :=
  if s.recType ≠ some 5 then ok s
  else
    let b := s.mtx.plain
    let t := (s.preRec false).dropRec
    if leAt b 1 1 = 0 ∨ 8 ≤ leAt b 1 1 ∨ 16 ≤ leAt b 2 1 ∨ 3 ≤ leAt b 3 1 then ok t.mtxProto.groupRest else
    let s1 := ((t.set MTX_PEERSTATE_STATE (leAt b 1 1)).set MTX_PEERSTATE_FLAGS (leAt b 2 1)).set MTX_PEERSTATE_ZONE (leAt b 3 1)
    let s2 := (s1.setB MTX_STATUS_HBLOST false).updMtx fun m => { m with hbPeer := some s.glb.beat, hbLast := s.glb.beat }
    let s3 := if bitOf (leAt b 2 1) 0 then s2.mwinEnd 1 else if leAt b 1 1 = 4 then s2.mwinEnd 2 else s2
    ok ((s3.ackThrough (leAt b 16 6)).groupRest.drainAdvance)

/-- The common part of the SYNC records: their sequence class (R328), then their effect. -/
def State.syncRec (s : State) (begin_ : Bool) (f : State → State) : State :=
  let q := leAt s.mtx.plain 16 6
  let s1 := s.preRec begin_
  if !s1.sessionUp then s1
  else
    let t := s1.dropRec
    if s1.seqClass q = 1 then t.duplicate.groupRest
    else if s1.seqClass q = 2 then t.mtxProto.groupRest
    else (f (t.processed q)).groupRest

/-- SYNC_BEGIN (R336). A SYNC record of a reserved KIND is a protocol error (R327). -/
def execSyncBegin (s : State) : Out :=
  let k := leAt s.mtx.plain 1 1
  let gen := leAt s.mtx.plain 8 8
  if s.recType ≠ some 6 ∨ k = 1 ∨ k = 2 then ok s
  else if 3 ≤ k then ok ((s.preRec false).dropRec.mtxProto).groupRest
  else ok (s.syncRec true fun t =>
    ((t.updPair fun p => { p with mgenHeld := gen, syncing := true }).updMtx fun m => { m with cursors := [] }).writePair true)

/-- SYNC_END (R336, R333). -/
def execSyncEnd (s : State) : Out :=
  if s.recType ≠ some 6 ∨ leAt s.mtx.plain 1 1 ≠ 1 then ok s
  else ok (s.syncRec false fun t => ((t.updPair fun p => { p with syncing := false, gap := false }).takeStamps).writePair false)

/-- SYNC_REPAIRED (R333). -/
def execSyncRepaired (s : State) : Out :=
  if s.recType ≠ some 6 ∨ leAt s.mtx.plain 1 1 ≠ 2 then ok s
  else ok (s.syncRec false fun t => ((t.updPair fun p => { p with gap := false }).takeStamps).writePair false)

/-- TAKEOVER (R344). -/
def execTakeover (s : State) : Out :=
  if s.recType ≠ some 7 then ok s
  else ok (((s.preRec false).dropRec).setB MTX_STATUS_PEER_ADOPTED true).groupRest

/-- PAD (R327): the group ends. -/
def execPad (s : State) : Out := if s.recType = some 0 then ok s.groupEnd else ok s

/-- The open write has its last line: the DATA record that ends it stands next, and only its admission is awaited (R329). -/
def State.wrWhole (s : State) : Bool :=
  let b := s.mtx.plain
  match s.mtx.wr with
  | some w => !w.skip && leAt b 0 1 = 2 && leAt b 1 1 = 1 && leAt b 4 4 = w.seq % 2 ^ 32 && w.lines.length + leAt b 2 1 = w.len
  | none => false

/-- RECEIVE_WRITE_TIMEOUT (R330, R337): the open write's counted or absolute timer. -/
def execReceiveWriteTimeout (s : State) : Out :=
  match s.mtx.wr with
  | none => ok s
  | some w => if !s.wrWhole ∧ (w.clean + 200 ≤ s.mtx.clean ∨ s.expired w.start 2000) then ok (s.wrMismatch 1) else ok s

/-- SEND_COUNTED_TIMEOUT (R337). -/
def execSendCountedTimeout (s : State) : Out :=
  match s.mtx.ring with
  | [] => ok s
  | r :: _ =>
    if s.sessionUp ∧ r.clean + 200 ≤ s.mtx.clean then ok ((s.event 0x090A (srcCause 1)).sessionQuit 3) else ok s

/-- SEND_ABSOLUTE_TIMEOUT (R337). -/
def execSendAbsoluteTimeout (s : State) : Out :=
  match s.mtx.ring with
  | [] => ok s
  | r :: _ => if s.sessionUp ∧ s.expired r.beat 2000 then ok ((s.event 0x090A (srcCause 2)).sessionQuit 4) else ok s

/-- HEARTBEAT_SEND (R340). -/
def execHeartbeatSend (s : State) : Out :=
  if s.sessionUp ∧ s.mtx.hbSent + s.get MTX_CTRL_HB_BEATS ≤ s.glb.beat then
    let flags := b2n (decide (s.glb.st = .drain) && s.drn.sendsEnded) + 2 * b2n s.glb.lazyRestore + 4 * b2n (s.mtx.sync = 3) + 8 * b2n (s.bit MTX_ADOPT_ACTIVE)
    let b := leBytes 1 5 ++ leBytes 1 s.glb.st.code ++ leBytes 1 flags ++ leBytes 1 (s.get LDG_STATUS_ZONE) ++ leBytes 4 0
      ++ leBytes 8 s.beat ++ leBytes 6 s.peerThru ++ leBytes 2 0 ++ leBytes 6 (s.pq.lastSeq + 1) ++ leBytes 2 0
    ok ((s.sendRec b).updMtx fun m => { m with hbSent := s.glb.beat })
  else ok s

/-- HEARTBEAT_LOSS (R340, R341): heartbeats are lost; the session ends SILENT, or the partner is lost. -/
def execHeartbeatLoss (s : State) : Out :=
  if s.mtx.hbLast ≠ 0 ∧ !s.bit MTX_STATUS_HBLOST ∧ s.expired s.mtx.hbLast (s.get MTX_CTRL_HB_LOSS) then
    let s1 := s.setB MTX_STATUS_HBLOST true
    if !s.bit MTX_STATUS_ALIVE_IN then ok s1.partnerLost
    else if s.sessionUp then ok ((s1.event 0x090C 0).sessionQuit 7)
    else ok s1
  else ok s

/-- PARTNER_ALIVE_IN_DEASSERT (R340, R341): the input has read low for 10 consecutive beats. -/
def execPartnerAliveInDeassert (s : State) : Out :=
  if s.bit MTX_STATUS_ALIVE_IN ∧ 10 ≤ s.mtx.aliveLow then
    let s1 := s.setB MTX_STATUS_ALIVE_IN false
    if s.bit MTX_STATUS_HBLOST then ok s1.partnerLost
    else if s.sessionUp then ok (s1.event 0x0914 0)
    else ok s1
  else ok s

/-- PARTNER_ALIVE_IN_ASSERT (R340): the input rises again. -/
def execPartnerAliveInAssert (s : State) : Out :=
  ok ((s.setB MTX_STATUS_ALIVE_IN true).updMtx fun m => { m with aliveLow := 0 })

/-- QUARANTINE_END (R339). -/
def execQuarantineEnd (s : State) : Out :=
  if s.bit MTX_STATUS_QUAR ∧ s.expired s.mtx.quarStart (quarBeats (s.get MTX_QUAR_LEVEL)) then ok (s.setB MTX_STATUS_QUAR false)
  else ok s

/-- QUARANTINE_COUNT_RESET (R339). -/
def execQuarantineCountReset (s : State) : Out :=
  if s.sessionUp ∧ s.expired s.mtx.upSince 3600000000 then ok (s.set MTX_QUAR_LEVEL 0) else ok s

/-- FULL_SYNC_START (R336): the generation, the pair record, the BEGIN and its break. -/
def execFullSyncStart (s : State) : Out :=
  if s.sessionUp ∧ s.mtx.sync = 2 ∧ !s.glb.lazyRestore then
    let n := s.nextSeq
    let s1 := (n.2.updPair fun p => { p with mgenSend := p.mgenSend + 1 }).writePair false
    let s2 := (s1.updMtx fun m => { m with sync := 3, cursor := 0, starts := 0, pendSync := some n.1, endSeq := none }).openBreak n.1
    ok ((((s2.set MTX_STATUS_SENDSYNC 2).showSync).event 0x0911 0))
  else ok s

/-- MIRROR_SEND (R32, R49, R78, R95, R97, R332, R334): the oldest unsent line is sent, or placed in the lost set; the commits that wait
behind it follow. Without an unsent line a re-mirror goes on. Its slice runs under the image of its issue beat. -/
def execMirrorSend (s : State) : Out :=
  if (s.glb.st = .drain ∧ s.drn.sendsEnded) ∨ (s.sessionUp ∧ (512 < s.mlk.buf.length + s.mlk.txq.length + 32 ∨ 8192 ≤ s.mtx.ring.length)) then ok s
  else
    let k := s.unsent
    let mine := fun (t : Task) => t.ty = 2 && (match k with | some e => t.arg1 = 0 && t.arg0 = e.id | none => t.arg1 ≠ 0)
    let s1 := ((s.underBeat (s.issueBeat mine)).mirrorNext).restoreImage s.sti.active
    let s2 := if s1.unsent = k ∧ (k.isSome ∨ s1.remirror = s.remirror) then s1 else s1.retireTask mine
    ok s2.sendStamps.drainAdvance

/-- ADOPTED_REGION_READ (R343): a read of one byte through BAR2. -/
def execAdoptedRegionRead (p : Port) (off : BitVec 48) (tag : BitVec 16) (err : Codeword) (s : State) : Out :=
  if !s.answersFast p then ok s
  else if s.bit MTX_ADOPT_ACTIVE ∧ off.toNat < s.img.size 4 then
    ok (s.serveRead ⟨p, tag.toNat, (s.img.base 4 + off.toNat) / 64, some (off.toNat % 64)⟩ err)
  else ok (s.emit (.bar2 p.agent none false))

/-- ADOPTED_REGION_WRITE (R343): discarded, counted, recorded. -/
def execAdoptedRegionWrite (p : Port) (s : State) : Out :=
  if !s.answersFast p then ok s else ok ((s.count MTX_FAULTCNT_BAR2 1).event 0x0917 (srcPort p))

/-- ADOPTED_REGION_RELEASE (R345). -/
def execAdoptedRegionRelease (key : BitVec 16) (s : State) : Out :=
  if s.blockOff 0x8004C then ok s.accErr
  else if key.toNat = 0x4144 ∧ s.glb.st = .serve ∧ s.bit MTX_ADOPT_ACTIVE then
    let a := s.img.base 4 / 4096
    let b := a + s.img.size 4 / 4096
    let inside := fun (g : Nat) => decide (a ≤ g) && decide (g < b)
    let hit := (s.cch.map.map Prod.fst).filter inside
    let s1 := hit.foldl (fun t g => ((t.clean g).setEntry g { (t.clean g).entry g with vloc := noVloc, poison := false }).touchPiece g) s
    let s2 := s1.updCch fun c => { c with lines := Store.keep (fun la => !inside (la / 64)) c.lines, unrest := cutSpan c.unrest a b }
    let s3 := s2.updVlt fun v => { v with inflight := v.inflight.filter fun f => !inside f.granule }
    let s4 := (s3.updPair fun p => { p with mgenHeld := 0 }).writePair false
    ok ((s4.setB MTX_ADOPT_ACTIVE false).event 0x0910 0)
  else ok s

end Sys2Proof.Machine
end

