-- ==== Sys2Proof/Machine/Operands.lean ====
section
/-! DEFINITION. How a register write meets each field: the access types, the values that a field's table says the controller
ignores, the fields bound to the beat, and the clears that carry an effect (R10 to R13, R56, R474 to R483). -/

namespace Sys2Proof.Machine

/-- The controller accepts a value for a field; `w` is the whole written word. A field that its table says is ignored for a value
keeps its value (R474). DESIGN CHOICE: AAM, ignored when MIRROR = 0 (R89), keeps its value too: the write of the bit is dropped, and not
stored without effect. -/
def State.accepts (s : State) (g : Agent) (f : Fld) (v w : Nat) : Bool :=
  if f.off = 0x20028 then 50 ≤ v && v ≤ 90                                -- CCH_BW.CAP_PCT
  else if f = CCH_RET_CTRL_RATE_GBS then 1 ≤ v && v ≤ 40
  else if 0x30060 ≤ f.off ∧ f.off < 0x3006C then decide (v ≤ 4096)         -- LDG_CEILn
  else if f = DRN_CTRL_WIDTH then 1 ≤ v && v ≤ 8
  else if f = DRN_GRACE_BEATS then decide (v ≤ 20000)
  else if f = VLT_CTRL_RR_THR then 1 ≤ v && v ≤ 72
  else if f = VLT_FULL_BADMAX ∨ f = MLK_CTRL_REPLAY_BEATS ∨ f = MLK_CTRL_REPLAY_MAX ∨ f = MLK_CTRL_RETRAIN_MAX then decide (v ≠ 0)
  else if f = MTX_CTRL_HB_BEATS ∨ f = MTX_CTRL_HB_LOSS then
    decide (bits w 8 8 ≠ 0) && decide (2 * bits w 8 8 ≤ bits w 16 16)
  else if f = DSP_CTRL_QUIESCE_BEATS then decide (v ≠ 0)
  else if f = DSP_ROLL_MAXOUT then 1 ≤ v && v ≤ 24
  else if f = SEQ_SNAP_SEL_WORD then decide (v ≤ 169)
  else if f = STW_CTRL_WDOG_MS ∨ f = STW_CTRL_CONFIRM_S then decide (v ≠ 0)
  else if f = STW_TLIM_CRIT then decide (bits w 0 8 < v)
  else if 0x10010 ≤ f.off ∧ f.off < 0x10030 then s.get { f with lsb := 0, acc := .ro } = 1   -- AAM needs MIRROR
  else if 0xD0060 ≤ f.off ∧ f.off < 0xD00A8 then decide (g = .stw)         -- the key registers
  else true

/-- The offsets whose write is a row of its own: their RW fields are written by that row. -/
def ownRow (off : Nat) : Bool :=
  (0x10040 ≤ off && off < 0x10060) || [0x20054, 0x40008, 0x4000C, 0x40010, 0x60050, 0xE001C, 0xE0024].contains off

/-- What the write of an RW field brings beside its value (R128, R196, R295, CTL_CTRL, MTX_CTRL). CHG_EN = 0 takes the engine off from
charge, never from a hand-over to discharge that waits for its dead sample (R174). DESIGN CHOICE: a health test that still waits for
its dead sample ends with it, with RESULT = 2. -/
def State.onWrite (s : State) (f : Fld) (v : Nat) : State :=
  if f = CTL_CTRL_CHG_EN then
    if v = 0 then (if (s.mode = 1 ∧ s.ctl.hand ≠ 1) ∨ s.ctl.hand = 2 then
        (if s.ctl.hand = 3 then s.htEnd else s).dropBf.ctlOff else s) else s.bootCharge
  else if f = CTL_HT_CTRL_HOURS then s.updCtl fun c => { c with htRef := s.glb.beat }
  else s

/-- What the clear of a W1C bit brings where the bit is held as typed state. -/
def State.clearBits (s : State) (f : Fld) (v : Nat) : State :=
  let clr := fun (old mask : Nat) => old - (old &&& mask)
  if f.off = 0x20 then s.updIrq fun i => { i with istat := i.istat.set (agentOf f.ag) (clr (i.istat.get (agentOf f.ag)) v) }
  else if f.off = 0x24 then
    s.updIrq fun i => { i with istat := i.istat.set (agentOf f.ag) (clr (i.istat.get (agentOf f.ag)) (v * 2 ^ 32)) }
  else if f = EVR_STATUS_SEVIRQ then if v = 1 then s.updEvr fun e => { e with sevIrq := false } else s
  else if f = SEQ_STATUS_RAILPFW then
    if railList.any fun n => s.get (SEQ_RAIL_STATE n) = 4 && s.railPfw n then s else s.set f (clr (s.get f) v)
  else s.set f (clr (s.get f) v)

/-- Apply one field of a write (R10 to R13, R56, R474, R482, R483). -/
def State.writeField (s : State) (g : Agent) (f : Fld) (bound : Bool) (w : Nat) : State :=
  let v := bits w f.lsb f.width
  match f.acc with
  | .ro => s
  | .rc => s
  | .wo => s
  | .rw => if !s.accepts g f v w then s else if bound then s.bindWrite f v else (s.set f v).onWrite f v
  | .w1c => s.clearBits f v
  | .w1s => s.set f (s.get f ||| v)
  | .rwl => if s.get (GLB_LOCK_LOCK g) = 1 || (0x40 ≤ f.off && f.off < 0x64 && decide (g = .stw)) then s else s.set f v

/-- Apply every field of a write that no row of its own writes (R474). -/
def State.writeFields (s : State) (g : Agent) (off w : Nat) : State :=
  if ownRow off then s else (fieldsAt g off).foldl (fun t fb => t.writeField g fb.1 fb.2 w) s

/-- The bound writes whose boundary this beat begins with take effect (R54, R56). -/
def State.applyBound (s : State) : State :=
  let due := s.glb.bound.filter fun b => b.due ≤ s.glb.beat
  (due.foldl (fun t b => t.set b.fld b.val) s).updGlb fun g => { g with
    bound := g.bound.filter fun b => ¬ b.due ≤ s.glb.beat }

end Sys2Proof.Machine
end

