-- ==== Sys2Proof/Machine/Ports.lean ====
section
/-! DEFINITION. The commands of the host ports and the persist path (R68 to R105, R485, R502, R515). -/

namespace Sys2Proof.Machine

/-- A port can hold the write: fewer than 256 are held (R83). -/
def State.holdRoom (s : State) (p : Port) : Bool := (s.heldOf p).length < 256

/-- A write of the same class waits ahead of it (R83). -/
def State.heldAhead (s : State) (p : Port) (c : Nat) : Bool := s.pq.held.any fun h => h.port = p && h.cls = c

/-- CXL_MEM_WRITE (R79 to R84, R88, R93, R515): the write has passed its CRC. With 256 writes held the port has given its
host no credit, and no write arrives (R83). -/
def execCxlMemWrite (p : Port) (hpa : BitVec 52) (data : Line) (mask : ByteMask) (poison : Bool) (tag : BitVec 16) (s : State) : Out :=
  if !s.portOpen p then ok s
  else match s.window p hpa.toNat with
    | none => ok ((s.emit (.wrCpl p tag.toNat)).event 0x0207 (srcPort p))
    | some (c, ca) =>
      let w : HeldWrite := ⟨p, c, ca / 64, data, mask, poison, tag.toNat, s.glb.beat⟩
      if !s.heldAhead p c && s.admits w then ok (s.admitWrite w)
      else if s.holdRoom p then ok (s.updPq fun q => { q with held := q.held ++ [w] })
      else ok s

/-- HELD_WRITE_ADMIT (R83): credit, queue space or admission has returned. -/
def execHeldWriteAdmit (p : Port) (s : State) : Out := if s.serving then ok (s.admitAll p) else ok s

/-- A held write of a port has waited HELD_BEATS beats (R84). -/
def State.heldLong (s : State) (p : Port) : Bool :=
  (s.heldOf p).any fun h => s.expired h.since (s.get PQ_CTRL_HELD_BEATS)

/-- HELD_SPAN_START (R84). -/
def execHeldSpanStart (p : Port) (s : State) : Out :=
  if s.serving ∧ s.heldLong p ∧ !(s.pq.span.get p) then
    let s1 := (s.updPq fun q => { q with span := q.span.set p true }).setB PQ_STATUS_HELD true
    ok ((s1.event 0x0203 (srcPort p)).raise (5 + p.num))
  else ok s

/-- CXL_MEM_READ (R92, R515): the read is met by an error pattern on its DRAM codeword. -/
def execCxlMemRead (p : Port) (hpa : BitVec 52) (tag : BitVec 16) (err : Codeword) (s : State) : Out :=
  if !s.portOpen p then ok s
  else match s.window p hpa.toNat with
    | none => ok ((s.emit (.rdCpl p tag.toNat 0 true)).event 0x0207 (srcPort p))
    | some (_, ca) => ok (s.serveRead ⟨p, tag.toNat, ca / 64, none⟩ err)

/-- A decoder commit stands under R71. -/
def State.commitFine (s : State) (p : Port) (k base size : Nat) : Bool :=
  let c := s.get (PQ_BIND_CLASS p.num k)
  s.bit (PQ_BIND_VALID p.num k) && decide (c < 4) && decide (s.get (PQ_BIND_OFF p.num k) * mib256 + size ≤ s.img.size c)
    && decide (size % mib256 = 0) && decide (base % mib256 = 0) && !bitOf s.sti.guardClasses c

/-- DECODER_COMMIT (R71): a host commits a decoder, or clears its Commit bit. -/
def execDecoderCommit (p : Port) (k : BitVec 2) (base : BitVec 52) (size : BitVec 52) (commit : Bool) (s : State) : Out :=
  if !s.answers p.agent then ok s else
  if !commit then ok (s.setDecoder p k.toNat ⟨base.toNat, size.toNat, false, false⟩)
  else if s.commitFine p k.toNat base.toNat size.toNat then ok (s.setDecoder p k.toNat ⟨base.toNat, size.toNat, true, false⟩)
  else ok ((s.setDecoder p k.toNat ⟨base.toNat, size.toNat, false, true⟩).event 0x0204 (srcPair 1 p.num k.toNat))

/-- PQ_BIND_WRITE (R74): a write to the binding register of decoder `k` of port `p`. -/
def execPqBindWrite (p : Port) (k : BitVec 2) (w : Word) (s : State) : Out :=
  if (s.decoder p k.toNat).committed then ok s
  else ok (((s.set (PQ_BIND_CLASS p.num k.toNat) w.toNat).set (PQ_BIND_VALID p.num k.toNat) (w.toNat / 8)).set
    (PQ_BIND_OFF p.num k.toNat) (w.toNat / 65536))

/-- A write to the stamp registers of a port by another port's host (R96). -/
def State.stampForeign (s : State) (g : Agent) : State :=
  match g.port with
  | some q => (s.count (PQ_STALE_COUNT q.num) 1).event 0x0201 (srcPort q)
  | none => s

/-- STAMP_LO_WRITE (R95, R96): a 32-bit write to the low half. -/
def execStampLoWrite (g : Agent) (p : Port) (v : Word) (s : State) : Out :=
  if !s.answers g then ok s else
  if g = p.agent then ok (s.updPq fun q => { q with stampLo := q.stampLo.set p v.toNat })
  else ok (s.stampForeign g)

/-- STAMP_HI_WRITE (R95 to R97, R103): the write commits; an 8-byte access at STAMP_LO brings the low half with it. -/
def execStampHiWrite (g : Agent) (p : Port) (hi : Word) (lo : Option Word) (s : State) : Out :=
  if !s.answers g then ok s else
  if g ≠ p.agent then ok (s.stampForeign g)
  else
    let low := match lo with | some w => w.toNat | none => s.pq.stampLo.get p
    let v := low + 2 ^ 32 * hi.toNat
    let s1 := s.updPq fun q => { q with stampLo := q.stampLo.set p 0 }
    if s.bit PQ_STATUS_HZ_FROZEN then ok s1
    else
      let s2 := s1.commitStamp p v
      if s.pq.lastStamp.get p < v then ok (s2.sendStamp p v s.pq.lastMirror) else ok s2

/-- GLOBAL_PERSISTENT_FLUSH (R105). -/
def execGlobalPersistentFlush (p : Port) (s : State) : Out :=
  if !s.answersFast p then ok s else ok ((s.emit (.gpf p)).event 0x0206 (srcPort p))

/-- HOST_LINK_TRAINED (R69): the link has settled, at 8 GT/s or faster or not. PERST holds it down, and so do its domains. -/
def execHostLinkTrained (p : Port) (fast : Bool) (s : State) : Out :=
  if s.hp.perst.get p ∨ !(s.domOn (80 + p.num) && s.domOn (82 + p.num)) ∨ s.glb.beatSrc then ok s
  else ok (s.updHp fun h => { h with up := h.up.set p true, fast := h.fast.set p fast })

/-- HOST_LINK_DOWN (R481): the link goes down, or into recovery or retraining. -/
def execHostLinkDown (p : Port) (s : State) : Out :=
  ok (s.updHp fun h => { h with up := h.up.set p false, fast := h.fast.set p false })

/-- PERST_ASSERT (R485): the port's own spaces reset, its host's open work is abandoned. -/
def execPerstAssert (p : Port) (s : State) : Out :=
  let s1 := (s.abandonFlash p.agent).dgeDrop p.agent 13
  ok ((s1.portReset p).updHp fun h => { h with
    perst := h.perst.set p true, up := h.up.set p false, fast := h.fast.set p false })

/-- PERST_DEASSERT (R502): the port may train its link. -/
def execPerstDeassert (p : Port) (s : State) : Out := ok (s.updHp fun h => { h with perst := h.perst.set p false })

end Sys2Proof.Machine
end

