-- ==== Sys2Proof/Machine/Recorder.lean ====
section
/-! DEFINITION. The commands of the event recorder (R461 to R469). -/

namespace Sys2Proof.Machine

/-- EVR_CURSOR_WRITE (R466): the agent selects a record, and its GEN is 0. -/
def execEvrCursorWrite (g : Agent) (seq : Word) (s : State) : Out :=
  if !s.answers g then ok s else
  ok (s.updEvr fun e => { e with cursor := e.cursor.set g seq.toNat, gen := e.gen.set g 0 })

/-- SEVERITY_QUERY (R462): EVR_SEVQ.SEV and KNOWN answer for the code written. -/
def execSeverityQuery (code : BitVec 16) (s : State) : Out := ok (s.set EVR_SEVQ_CODE code.toNat)

/-- CHALLENGE (R467). -/
def execChallenge (g : Agent) (key : BitVec 16) (s : State) : Out :=
  if !s.answers g then ok s else
  if key ≠ 0x434C then ok s
  else
    let d := s.entropy
    let head := match s.evr.ring with | r :: _ => r.seq | [] => 0
    ok (d.2.updEvr fun e => { e with chal := some ⟨g, s.glb.beat, head, d.1⟩, clrState := 1, clrAgent := g.num })

/-- CLEAR (R467, R468). -/
def execClear (g : Agent) (key : BitVec 16) (s : State) : Out :=
  if !s.answers g then ok s else
  if key ≠ 0x434C then ok s
  else match s.evr.chal with
    | none => ok s.clearRefuse
    | some c =>
      if c.agent ≠ g then ok ((s.setB EVR_STATUS_CLRREF true).event 0x0F02 0)
      else
        let s1 := (s.dgeRequest .recClear).updEvr fun e => { e with chal := none }
        match s.keyOf s.img.clearKey with
        | none => ok s1.clearRefuse
        | some k =>
          if s.expired c.beat 1000000 ∨ s.response g ≠ clearResponse k c then ok s1.clearRefuse
          else ok (s1.clearRing g c)

/-- CHALLENGE_EXPIRY (R467): a challenge not spent within 1,000,000 beats expires. -/
def execChallengeExpiry (s : State) : Out :=
  match s.evr.chal with
  | some c => if s.expired c.beat 1000000 then ok (s.updEvr fun e => { e with chal := none, clrState := 0 }) else ok s
  | none => ok s

/-- RECORDER_FLASH_COPY (R469): the hourly copy falls due; the hours count from BOOT, whatever other copies run. -/
def execRecorderFlashCopy (s : State) : Out :=
  if s.expired s.evr.copyStart 3600000000 then
    ok (s.updEvr fun e => { e with copyStart := e.copyStart + 3600000000 }).recorderCopy
  else ok s

end Sys2Proof.Machine
end

