-- ==== Sys2Proof/Machine/Drain.lean ====
section
/-! DEFINITION. The commands of power failure, grace and drain (R203 to R229). -/

namespace Sys2Proof.Machine

/-- INMON_TRIP (R206, R210, R23, R24, R174, R393): the input trips. After the third abandon the controller stays in POWERUP. -/
def execInmonTrip (s : State) : Out :=
  let s0 := s.updGlb fun g => { g with backBeats := 0 }
  let asserted := s0.updDrn fun d => { d with pfwIn := true }
  match s.glb.st with
  | .serve =>
    let s1 := asserted.stopAdmission.enter .grace
    let s2 := s1.updDrn fun d => { d with graceStart := s.glb.beat, graceLen := s.get DRN_GRACE_BEATS }
    let s3 := (s2.set64 DRN_TRIP_LO_BEAT DRN_TRIP_HI_BEAT s.beat).setB DRN_STATUS_PARTNER_LOST false
    ok ((((s3.raise 0).event 0x0601 0).tripBlocks))
  | .grace => ok s0.ctlTrip
  | .drain => ok s0.ctlTrip
  | .sealed => ok asserted.ctlTrip
  | .powerup =>
    if s.get SEQ_STATUS_PHASE = 4 ∨ (s.get SEQ_STATUS_PHASE = 3 ∧ s.get SEQ_STATUS_ABANDONS = 3) then
      ok (asserted.updSeq fun q => { q with belowWarn := true })
    else
      let s1 := asserted.updDrn fun d => { d with toSealed := true }
      if s.get SEQ_STATUS_PHASE = 1 ∧ !s.seq.offReq then ok ((s1.updSeq fun q => { q with offReq := true }).event 0x0B11 0) else ok s1
  | .boot => ok (asserted.updDrn fun d => { d with toSealed := true }).tripBlocks
  | .restore => ok (asserted.updDrn fun d => { d with toSealed := true }).tripBlocks

/-- INPUT_COLLAPSE (R205, R209): in GRACE the controller enters DRAIN; after the crown a recorder copy is abandoned (R226). -/
def execInputCollapse (s : State) : Out :=
  if s.glb.st = .grace then ok (s.drainEnter 2) else ok s.collapseFlash

/-- GRACE_TIMER_EXPIRY (R209, R27). -/
def execGraceTimerExpiry (s : State) : Out :=
  if s.atBoundary ∧ s.glb.st = .grace ∧ s.expired s.drn.graceStart s.drn.graceLen then ok (s.drainEnter 1) else ok s

/-- RIDE_THROUGH (R212, R25, R26, R369): at a boundary; the tiles that a trip has kept out return. -/
def execRideThrough (s : State) : Out :=
  if s.atBoundary ∧ s.glb.st = .grace ∧ 50 ≤ s.glb.backBeats ∧ !s.expired s.drn.graceStart s.drn.graceLen then
    let s1 := ((s.enter .serve).updDrn fun d => { d with pfwIn := false }).setB DRN_STATUS_RIDE true
    ok (((s1.keptBack.toCharge true).setB DSP_STATUS_ROLL_PAUSED false |>.event 0x0602 0).closeAgain)
  else ok s

/-- MRX_WINDOW_EXPIRY (R216). -/
def execMrxWindowExpiry (s : State) : Out :=
  if s.glb.st = .drain ∧ s.bit DRN_STATUS_MWIN ∧ s.expired s.drn.start (s.get DRN_MRX_BEATS) then ok ((s.mwinEnd 4).drainAdvance)
  else ok s

/-- MIRROR_FENCE (R215): after the last send, a zero-length mirror write, and the report that the sends have ended. A re-mirror or a
full sync sends nothing more in this drain. -/
def execMirrorFence (s : State) : Out :=
  if s.glb.st = .drain ∧ !s.drn.sendsEnded ∧ s.sessionUp ∧ s.mtx.pendSync = none ∧ s.pq.entries.all (fun e => e.sent) then
    let q := (s.pq.lastSeq + 1) % 2 ^ 48
    let s1 := (s.updPq fun x => { x with lastSeq := q }).set64 MTX_NEXTSEQ_LO_VALUE MTX_NEXTSEQ_HI_VALUE ((q + 1) % 2 ^ 48)
    let s2 := (s1.sendRec (recWrite 0 0 0 q 0 0)).updMtx fun m => { m with ring := m.ring ++ [⟨q, none, s.glb.beat, m.clean⟩] }
    ok (s2.closeGroup.updDrn fun d => { d with fence := some (q, s.glb.beat), sendsEnded := true })
  else ok s

/-- DOMAIN_SHED (R225): the domains that go off with a domain whose shedding condition holds. -/
def execDomainShed (d : BitVec 7) (s : State) : Out :=
  let n := d.toNat
  if s.glb.st = .drain ∧ n < 96 ∧ s.domOn n ∧ s.shedNow n ∧ (64 ≤ n ∨ 2 ≤ s.tile n) then
    let l := s.shedGroup n
    let s1 := if l.contains 88 then (s.sessionQuit 9).linkIdle else s
    let s2 := if l.contains 80 then s1.updHp fun h => { h with up := ⟨false, false⟩ } else s1
    ok ((s2.domsOff l).updDsp fun x => { x with remap := x.remap || decide (n < 64) })
  else ok s

/-- Write one granule of an extent (R221, R119, R282). The extent's DRAM reads are never throttled (R127). -/
def State.drainGranule (s : State) (g : Nat) : State :=
  if !s.slotRoom then s
  else
    let t := (if s.unrest g then s.fetchDone g else s).dramMove 4096
    ((t.setEntry g { t.entry g with wsince := false }).writeGranule g 1).2

/-- DRAIN_EXTENT (R221, R49): a task writes granules of one open rank through the vault's drain path. -/
def execDrainExtent (first : BitVec 40) (count : BitVec 32) (s : State) : Out :=
  let p := s.get DRN_STATUS_PASS
  let n := s.rankAt first.toNat
  if s.glb.st = .drain ∧ s.drn.open_.contains n ∧ !s.passStopped p ∧ (p = 7 → s.ldg.nextZone = 0) then
    let left := s.passLeft p
    let go := ((List.range count.toNat).map (· + first.toNat)).filter fun g => left.contains g && decide (s.rankAt g = n)
      && !(s.pq.entries.any fun e => e.line / 64 = g && !e.flushed)
    let u := s.underBeat (s.issueBeat fun k => k.ty = 4 && k.arg0 ≤ first.toNat && decide (first.toNat < k.arg0 + k.count))
    ok ((go.foldl State.drainGranule u).restoreImage s.sti.active).drainAdvance
  else ok s

/-- EXTENT_COMPLETE (R221, R125): a granule is saved. -/
def execExtentComplete (g : BitVec 40) (s : State) : Out :=
  let n := g.toNat
  match s.vlt.inflight.find? fun f => f.kind = 1 && f.granule = n with
  | none => ok s
  | some f =>
    let s1 := (s.updVlt fun v => { v with inflight := v.inflight.erase f }).setVloc n f.vloc (s.classOf n)
    let s2 := if (s1.entry n).wsince then s1 else s1.clean n
    ok ((s2.tagAll true).drainAdvance)

/-- BANKMON_DRAIN_FLOOR (R224, R395): BANKMON reports the code at which the bank has stood for DEGLITCH steps; below DFLOOR in DRAIN
no further extent issues. -/
def execBankmonDrainFloor (code : BitVec 10) (s : State) : Out :=
  let s0 := s.bankLevel SEQ_STATUS_BANK_D (s.get SEQ_BANKMON_DFLOOR) code.toNat
  if s.glb.st = .drain ∧ code.toNat < s.get SEQ_BANKMON_DFLOOR ∧ s.drn.stopExt ≠ 2 ∧ s.get DRN_STATUS_PASS ≤ 8 ∧ s.drn.crownLeft = 0
      ∧ !s.drn.crowned then
    ok ((s0.markShort 2).updDrn fun d => { d with dOver := true }).drainAdvance
  else ok s0

/-- The flags of a drain crown (Table: Crown layout). -/
def State.drainFlags (s : State) : Nat :=
  1 + 2 * b2n (s.bit DRN_STATUS_SHORT) + 4 * b2n (s.bit DRN_STATUS_DEGRADED) + 8 * b2n (s.drn.lostRanks ≠ 0)
    + 16 * b2n (s.bit DRN_STATUS_PARTNER_LOST) + 32 * b2n s.vlt.wide

/-- CROWN_WRITE (R226, R252, R439): the notes, the seal of the epoch and the crown's copies, once the crown writer has the digest
engine. -/
def execCrownWrite (s : State) : Out :=
  let ready : Bool := (match s.vlt.ckpt with | some k => k.drain && k.done | none => false) || !s.slotRoom
  let idle : Bool := s.drn.crownLeft = 0 && !s.drn.crowned && !(s.vlt.inflight.any fun f => f.kind = 1)
  if s.glb.st = .drain ∧ s.get DRN_STATUS_PASS = 8 ∧ idle ∧ ready then
    if !(s.dgeTake .crown).1 then ok (s.dgeTake .crown).2 else
    let left := s.leftOver
    let d := left.filter fun g => s.classOf g = 3
    let u := left.filter fun g => s.classOf g ≠ 3
    let s1 := (((s.dgeTake .crown).2.set DRN_DROP_GRANULES d.length).set DRN_UNSAVED_GRANULES u.length).writeNotes
    let c : CrownIn := ⟨s1.drainFlags, s1.epoch, s1.get64 DRN_TRIP_LO_BEAT DRN_TRIP_HI_BEAT, s1.drn.cause, s1.drn.lastM,
      s1.get DRN_DROP_GRANULES, s1.get DRN_UNSAVED_GRANULES, s1.crownStamps⟩
    ok (((s1.seal c).setB VLT_STATUS_READY false).updDrn fun x => { x with crownLeft := s1.get VLT_MODS_COUNTED })
  else ok s

/-- CROWN_COMPLETE (R226): the last copy completes; the pair record is written (R317) and the recorder is
copied to configuration flash. -/
def execCrownComplete (s : State) : Out :=
  if s.glb.st = .drain ∧ s.drn.crownLeft ≠ 0 then
    let s1 := s.updDrn fun d => { d with crownLeft := 0, crowned := true, recCopy := true }
    ok (((s1.event 0x0606 0).writePair false).recorderCopy)
  else ok s

/-- The registers of shed domains take their reset values on re-power; the pair record is loaded again (R484). -/
def State.repower (s : State) : State :=
  let s1 := ((List.range 64).filter fun d => !s.domOn d && s.tile d ≠ 5).foldl (fun t d => t.domLoses d) s
  if s.domOn 90 then s1 else s1.mirrorRepower

/-- WARM_RESUME_DECISION (R227, R283, R284): warm resume, its refusal for lost ranks, or the final power-down. -/
def execWarmResumeDecision (s : State) : Out :=
  if s.atBoundary ∧ s.glb.st = .drain ∧ s.drn.crowned ∧ s.drn.decided = 0 then
    if 50 ≤ s.glb.backBeats ∧ !s.bit DRN_STATUS_PD_BEGUN then
      let s1 := ((s.enter .restore).updDrn fun d => { d with decided := 1, pfwIn := false, stop := false, aliveOut := true }).set
        DRN_STATUS_PASS 0
      let s2 := ((s1.copyReport.setB DRN_STATUS_WARM true).event 0x0607 0).raise 2
      let s3 := (s2.toCharge true).set VLT_RST_STATUS_KIND (if s.drn.lostRanks = 0 then 2 else 1)
      if s.drn.lostRanks = 0 then ok ((s3.repower.updCch fun c => { c with selfRef := 0 }).updRst fun r => { r with warm := true, scanned := true })
      else
        let s4 := (s3.setB VLT_RST_STATUS_WARM_REFUSED true).event 0x0719 0
        let s5 := s4.updRst fun r => { r with warm := false, coldRanks := true, scanned := false, mapped := false, noted := false }
        let s6 := s5.updCch fun c => { c with lines := [], map := [], unrest := [], selfRef := 0 }
        let s7 := s6.setB CCH_STATUS_POP_OK false
        ok ((List.range 16).foldl (fun t g => if t.groupOwner g = 1 then t.groupUp g else t) s7.repower)
    else ok (((s.updDrn fun d => { d with decided := 2 }).set DRN_STATUS_PASS 9).pdBegin.powerDown)
  else ok s

end Sys2Proof.Machine
end

