-- ==== Sys2Proof/Machine/Link.lean ====
section
/-! DEFINITION. The commands of the mirror link: training, frames, flits, replay (R286 to R314). -/

namespace Sys2Proof.Machine

/-- Enter retrain from up (R292, R289); `src` is the event's source. A data flit that waits for the second of its frame does not leave: it
is replayed (R293); an idle or NAK flit leaves with the next frame (R307). -/
def State.retrain (s : State) (src : Nat) : State :=
  if !s.linkUp then s
  else
    let s1 := ((s.set MLK_STATUS_LSTATE 4).count MLK_TRNCNT_RETRAINS 1).event 0x0802 src
    ((s1.updMlk fun m => { m with rtrn := some s.glb.beat, rounds := 0, half := m.half.filter fun b => bits (leAt b 0 8) 32 3 ≠ 1 }).enterAtt 0).markRecov

/-- A timer of R337 has come due in this beat. -/
def State.mtxTimerDue (s : State) : Bool :=
  s.sessionUp && match s.mtx.ring with
    | r :: _ => decide (r.clean + 200 ≤ s.mtx.clean) || s.expired r.beat 2000
    | [] => false

/-- The link goes down (R294); a timer that expires in the same beat is suppressed (R337). -/
def State.linkDown (s : State) : State :=
  let s1 := ((s.setB MLK_STATUS_LINKDOWN true).event 0x0804 0).count MLK_TRNCNT_DOWNS 1
  let s2 := if s.bit MLK_STATUS_LINKDOWN then s1 else s1.raise 16
  let s3 := (s2.linkClear).updMlk fun m => { m with downAt := some s.glb.beat }
  (if s.mtxTimerDue then s3.event 0x090B 0 else s3).sessionEnd 6

/-- A link protocol error; the 16th within 1,000,000 beats takes the link down and reports a faulty partner (R314). -/
def State.linkProto (s : State) : State :=
  let l := s.glb.beat :: s.mlk.proto.filter fun b => decide (s.glb.beat ≤ b + 1000000)
  let s1 := ((s.count MLK_ERRCNT_PROTO 1).event 0x0806 0).updMlk fun m => { m with proto := l }
  if l.length < 16 then s1
  else
    let s2 := ((s1.updMlk fun m => { m with proto := [] }).setB MLK_STATUS_PFAULT true)
    let s3 := if s.bit MLK_STATUS_PFAULT then s2 else s2.raise 16
    (s3.linkDown.event 0x0808 0).faultMark

/-- A replay begins at a sequence (R308, R309, R313). -/
def State.beginReplay (s : State) (q : Nat) : State :=
  if s.mlk.buf.isEmpty then s
  else (s.updMlk fun m => { m with
    replay := some q, replayTo := some ((m.txnext + 65535) % 65536), timer := some s.glb.beat }).markRecov

/-- A replay that a NAK or the timer asks for: counted, and bounded by REPLAY_MAX (R310). -/
def State.askReplay (s : State) (q : Nat) : State :=
  if s.mlk.buf.isEmpty then s
  else if s.get MLK_CTRL_REPLAY_MAX ≤ s.mlk.replays then (if s.linkUp then (s.event 0x0805 0).retrain (srcCause 1) else s)
  else ((s.beginReplay q).count MLK_RPLCNT_REPLAYS 1).updMlk fun m => { m with replays := m.replays + 1 }

/-- The distance from `b` on to `a` among sequences (R305). -/
def seqDist (a b : Nat) : Nat := (a + 65536 - b % 65536) % 65536

/-- An acknowledgement is valid (R306). -/
def State.ackValid (s : State) (a : Nat) : Bool := seqDist a s.mlk.acked < seqDist s.mlk.txnext s.mlk.acked

/-- Use a valid ACK and the CRDC of a good flit (R306, R309 to R311, R313). -/
def State.useAck (s : State) (a crdc : Nat) : State :=
  s.updMlk fun m =>
    let d := seqDist a m.acked
    if d = 0 then { m with peerFreed := crdc }
    else
      let old := m.acked
      let left := m.buf.filter fun f => d < seqDist f.seq old
      { m with
        peerFreed := crdc, acked := a, buf := left, replays := 0, timer := if left.isEmpty then none else some s.glb.beat,
        replayTo := m.replayTo.filter fun t => d < seqDist t old,
        replay := match m.replay with
          | none => none
          | some r => if left.isEmpty then none else if d < seqDist r old then some r else some ((a + 1) % 65536) }

/-- Ask for a NAK unless one is pending (R305, R307). -/
def State.askNak (s : State) : State :=
  if s.mlk.nakPend then s else (s.updMlk fun m => { m with nakPend := true, nakSend := true }).markRecov

/-- A flit that failed: discarded, counted, answered by a NAK (R301, R305). -/
def State.flitBad (s : State) : State := (s.count MLK_ERRCNT_CRC 1).askNak

/-- A NAK's replay (R308): a running replay restarts only where it has resent that sequence already. -/
def State.nakReplay (s : State) (q : Nat) : State :=
  match s.mlk.replay with
  | none => s.askReplay q
  | some r => if 1 ≤ seqDist r q ∧ seqDist r q ≤ 512 then s.askReplay q else s

/-- One flit of a good codeword (Table: Receiver actions). The payload of the expected data flit passes in up alone, since payload flits
cross the link only in state 3 (R289): outside it the flit gives its ACK and CRDC. DEDUCED. -/
def State.flitIn (s : State) (b : List Byte) : State :=
  if s.get MLK_STATUS_LSTATE < 2 then s
  else
    let h := leAt b 0 8
    let q := bits h 0 16
    let a := bits h 16 16
    let ft := bits h 32 3
    let d := seqDist q s.mlk.expect_
    if crc64 (b.take 312) ≠ ofBe (b.drop 312) then s.flitBad
    else if 3 ≤ ft then s.linkProto
    else if !s.ackValid a then s.linkProto
    else
      let used := s.useAck a (bits h 44 12)
      if ft = 0 then used
      else if ft = 2 then used.nakReplay ((a + 1) % 65536)
      else if d = 0 then
        if 256 ≤ s.mlk.rx.length then s.linkProto
        else if !s.linkUp then used
        else used.updMlk fun m => { m with
          rx := m.rx ++ [⟨q, bits h 40 4, (b.drop 8).take 304⟩], expect_ := (m.expect_ + 1) % 65536, nakPend := false,
          nakSend := false }
      else if d ≤ 511 then used.askNak
      else if 65536 - d ≤ 512 then used
      else s.linkProto

/-- The link comes up with the attempt in use (R290, R292, R293). -/
def State.comeUp (s : State) : State :=
  let a := s.mlk.att
  let w := attWidth a
  let s1 := ((s.set MLK_STATUS_LSTATE 3).set MLK_STATUS_ATT a).set MLK_STATUS_WIDTH (widthCode w)
  let s2 := (attLanes a).foldl (fun t n => t.setB (MLK_LANE_BAD n) false) (s1.event 0x0801 (srcPair 0 w a))
  let s3 := s2.updMlk fun m => { m with rounds := 0, missed := [] }
  let s4 := if w = 16 then s3
    else
      let t := (s3.setB MLK_STATUS_DEGRADED true).event 0x0803 0
      if s.bit MLK_STATUS_DEGRADED then t else t.raise 17
  match s4.mlk.buf with
  | f :: _ => s4.beginReplay f.seq
  | [] => s4

/-- Lanes on which a marker frame was found or missed (R291, R292, R300). -/
def State.markers (s : State) (missed : Nat) (reversed : Bool) : State :=
  let lanes := attLanes s.mlk.att
  let miss := fun (n : Nat) => bitOf missed n || !bitOf s.mlk.trained n
  let step := fun (t : State) (n : Nat) =>
    if miss n then t.updMlk fun m => { m with
        lock := Store.put 0 m.lock n 0, missed := Store.put 0 m.missed n (Store.get 0 m.missed n + 1) }
    else
      let k := Store.get 0 t.mlk.lock n + 1
      (t.updMlk fun m => { m with lock := Store.put 0 m.lock n k, missed := Store.put 0 m.missed n 0 }).setB
        (MLK_LANE_LOCK n) (decide (2 ≤ k) || t.bit (MLK_LANE_LOCK n))
  let s1 := lanes.foldl step s
  let lost := lanes.filter fun n => 2 ≤ Store.get 0 s1.mlk.missed n
  let s2 := lost.foldl (fun t n => t.setB (MLK_LANE_LOCK n) false) s1
  let s3 := if lanes.all fun n => 2 ≤ Store.get 0 s2.mlk.lock n then
      let t := s2.setB MLK_STATUS_REVERSED reversed
      if s2.mlk.lockBeat.isNone then t.updMlk fun m => { m with
        lockBeat := some s.glb.beat, attFail := 0, attUncorr := false, attCorr := [] } else t
    else s2
  match lost with
  | n :: _ => s3.retrain (srcPair 0 2 n)
  | [] => s3

/-- Count the corrected symbols of a frame of attempt `a` against its lanes, in the window and in the check of a running attempt (R291,
R292, R299, R301). -/
def State.corrected (s : State) (a : Nat) (ps : List Nat) : State :=
  if ps.isEmpty then s
  else
    let lane := fun (p : Nat) => p % attWidth a + attFirst a
    let thr := s.get MLK_CTRL_LANE_THR
    let s1 := ps.foldl (fun t p =>
      let n := lane p
      (t.count (MLK_LANE_CORR n) 1).updMlk fun m => { m with
        winCorr := Store.put 0 m.winCorr n (Store.get 0 m.winCorr n + 1),
        attCorr := Store.put 0 m.attCorr n (Store.get 0 m.attCorr n + 1) }) (s.count MLK_CW_CORR_COUNT 1)
    if s.linkUp then
      match (attLanes s.mlk.att).find? fun n => thr < Store.get 0 s1.mlk.winCorr n with
      | some n => (s1.badLane n).retrain (srcPair 0 3 n)
      | none => s1
    else
      let bad := (attLanes s.mlk.att).filter fun n => cdiv thr 1000 < Store.get 0 s1.mlk.attCorr n
      if s.checking then s1.updMlk fun m => { m with attFail := bad.foldl setBit m.attFail } else s1

/-- LINK_TRAINING_START (R290, R294, R295): initial training begins with equalisation. -/
def execLinkTrainingStart (s : State) : Out :=
  let may := s.get MLK_STATUS_LSTATE = 0 ∧ (s.glb.st = .restore ∨ s.glb.st = .serve ∨ s.glb.st = .grace)
    ∧ s.bit MLK_CTRL_EN = true ∧ s.bit MTX_STATUS_QUAR = false ∧ s.glb.beatSrc = false
    ∧ s.domOn 88 = true ∧ s.domOn 89 = true ∧ s.domOn 90 = true
    ∧ (match s.mlk.downAt with | some b => s.expired b 1000000 | none => true) = true
  if may then ok ((s.set MLK_STATUS_LSTATE 1).updMlk fun m => { m with eqStart := s.glb.beat, trained := 0 }) else ok s

/-- LINK_EQUALISE_END (R290): after 500 ms; the lanes that completed training and the polarity found on each. -/
def execLinkEqualiseEnd (trained : BitVec 16) (pol : BitVec 16) (s : State) : Out :=
  if s.get MLK_STATUS_LSTATE = 1 ∧ s.expired s.mlk.eqStart 500000 then
    let s1 := (List.range 16).foldl (fun t n => t.setB (MLK_LANE_POL n) (bitOf pol.toNat n)) (s.set MLK_STATUS_LSTATE 2)
    ok ((s1.updMlk fun m => { m with
      trained := trained.toNat, rounds := 0, level := [], precode := (Config.precoding s.glb.beat).toNat }).enterAtt 0)
  else ok s

/-- ATTEMPT_TIMEOUT (R291, R294): the next attempt, a failed round, or the link going down. -/
def execAttemptTimeout (s : State) : Out :=
  if (s.get MLK_STATUS_LSTATE = 2 ∨ s.get MLK_STATUS_LSTATE = 4) ∧ s.expired s.mlk.attStart 10000 then
    let failed := (attLanes s.mlk.att).filter fun n => Store.get 0 s.mlk.lock n < 2 || bitOf s.mlk.attFail n
    let s1 := failed.foldl State.badLane s
    if s.mlk.att < 6 then ok (s1.enterAtt (s.mlk.att + 1))
    else if s.get MLK_CTRL_RETRAIN_MAX ≤ s.mlk.rounds + 1 then ok s1.linkDown
    else ok ((s1.updMlk fun m => { m with rounds := m.rounds + 1 }).enterAtt 0)
  else ok s

/-- FRAME_RECEIVE (R291, R292, R297 to R301, R305): a frame arrives, with the lanes on which a marker frame was missed and the
reversal found. An uncorrectable codeword at the place of a marker frame, which carries no flits, fails none (R300). -/
def execFrameReceive (f : Frame) (missed : BitVec 16) (reversed : Bool) (s : State) : Out :=
  if s.get MLK_STATUS_LSTATE < 2 then ok s
  else match frameCode.decode (frameSyms f) with
    | none =>
      let s1 := (s.count MLK_CW_UNCORR_COUNT 1).updMlk fun m => { m with attUncorr := m.attUncorr || (s.checking && !s.linkUp) }
      if missed = 0 then ok s1.flitBad.flitBad else ok (s1.markers missed.toNat reversed)
    | some (w, ps) =>
      let p := frameParts w
      let att := bits p.1 14 3
      let kind := bits p.1 0 2
      let walking := s.get MLK_STATUS_LSTATE = 2 ∨ s.get MLK_STATUS_LSTATE = 4
      if walking ∧ att < s.mlk.att then ok s
      else
        let s1 := if walking ∧ s.mlk.att < att ∧ att ≤ 6 then s.enterAtt att else s
        let s2 := s1.corrected (if att ≤ 6 then att else s1.mlk.att) ps
        if 2 ≤ kind then ok s2.linkProto
        else
          let s3 := if kind = 1 then s2.markers missed.toNat reversed else s2
          let s4 := if s3.linkUp ∧ bitOf p.1 18 then s3.retrain (srcCause 4) else s3
          let s5 := if (s4.get MLK_STATUS_LSTATE = 2 ∨ s4.get MLK_STATUS_LSTATE = 4) ∧ bitOf p.1 17 ∧ s4.chkPass
              ∧ !s4.expired s4.mlk.attStart 10000 then s4.comeUp else s4
          if kind = 1 then ok s5 else ok ((s5.flitIn (p.2.take 320)).flitIn (p.2.drop 320))

/-- RTRN_SEND_END (R292): RTRN has been sent for 1,000 beats. -/
def execRtrnSendEnd (s : State) : Out :=
  match s.mlk.rtrn with
  | some b => if s.expired b 1000 then ok (s.updMlk fun m => { m with rtrn := none }) else ok s
  | none => ok s

/-- LINK_RETRAIN_COMMAND (R292, R296). -/
def execLinkRetrainCommand (s : State) : Out := s.whileOn 0x70008 (ok (s.retrain (srcCause 5)))

/-- LANE_ERROR_WINDOW_EXPIRY (R292): a new window of 1,000,000 beats begins. -/
def execLaneErrorWindowExpiry (s : State) : Out :=
  if s.expired s.mlk.winStart 1000000 then ok (s.updMlk fun m => { m with winStart := s.glb.beat, winCorr := [] }) else ok s

/-- INJECT_CRC_ERROR (MLK_CMD.INJ_CRC). -/
def execInjectCrcError (s : State) : Out := s.whileOn 0x70008 (ok (s.updMlk fun m => { m with injCrc := true }))

/-- INJECT_LANE_ERRORS (MLK_CMD.INJ_LANE, LANE, INJ_SYM). -/
def execInjectLaneErrors (lane : BitVec 4) (n : BitVec 6) (s : State) : Out :=
  s.whileOn 0x70008 (if n = 0 then ok s else ok (s.updMlk fun m => { m with injLane := some (lane.toNat, n.toNat) }))

/-- FLIT_TRANSMIT (R299, R304, R326): a flit leaves; the open group is closed as soon as no record waits. -/
def execFlitTransmit (s : State) : Out :=
  if s.get MLK_STATUS_LSTATE = 0 then ok s
  else
    let s1 := if s.linkUp ∧ s.sessionUp ∧ s.mlk.txq.isEmpty then s.closeGroup else s
    ok s1.sendFlit

/-- REPLAY_TIMER_EXPIRY (R309). -/
def execReplayTimerExpiry (s : State) : Out :=
  match s.mlk.timer, s.mlk.buf with
  | some b, f :: _ => if s.linkUp ∧ s.expired b (s.get MLK_CTRL_REPLAY_BEATS) then ok (s.askReplay f.seq) else ok s
  | _, _ => ok s

end Sys2Proof.Machine
end

