-- ==== Sys2Proof/Machine/Sequencer.lean ====
section
/-! DEFINITION. The commands of the sequencer: power-up and power-down, scans, faults, domains, reset outputs, snapshots, the
always-on supply (R370 to R399, R501, R513, R514). -/

namespace Sys2Proof.Machine

/-- The ranks behind a DIMM slot, and behind a channel. -/
def dimmRanks (c d : Nat) : List Nat := [4 * c + 2 * d, 4 * c + 2 * d + 1]
def chanRanks (c : Nat) : List Nat := [0, 1, 2, 3].map (· + 4 * c)

/-- Ranks are lost behind a failed rail or domain (R386, R229): in DRAIN with event 0x060A. -/
def State.loseRanks (s : State) (l : List Nat) : State :=
  let s1 := s.updDrn fun d => { d with lostRanks := l.foldl setBit d.lostRanks }
  if s.glb.st = .drain then (s1.event 0x060A 0).drainAdvance else s1

/-- A rail group has an owner (R374). -/
def State.owned (s : State) (g : Nat) : Bool := g < 16 && s.groupOwner g ≠ 0

/-- A domain that the drain has shed already: a fault of what feeds it has no effect on the drain (R229). -/
def State.shedAlready (s : State) (d : Nat) : Bool := decide (s.glb.st = .drain) && !s.domOn d

/-- What the owner of a failed group does (R386, R229). -/
def State.ownerActs (s : State) (g : Nat) : State :=
  let t := s.groupTarget g
  if s.shedAlready (if s.groupOwner g = 1 then 68 + t / 2 else 76 + t) then s
  else if s.groupOwner g = 1 then s.loseRanks (dimmRanks (t / 2) (t % 2))
  else if s.groupOwner g = 2 then s.moduleAbsent t else s

/-- An owned group fails (R386, R393): its rails go off at once, event 0x0B0E with a snapshot, the owner acts. -/
def State.groupFail (s : State) (g n : Nat) : State :=
  let s1 := (s.railsOff (s.groupRails g)).updSeq fun q => { q with failed := setBit q.failed g }
  let s2 := (s1.groupRails g).foldl (fun t k => if t.rail k = 0 then t.setRail k 5 else t) s1
  (s2.seqEvent 0x0B0E n (srcRail n)).ownerActs g

/-- Owned groups outside a failed rail's own group whose rails have just gone off with it (R386). -/
def State.groupsFail (s : State) (l : List Nat) : State :=
  let gs := ((l.map s.railGroup).filter s.owned).eraseDups
  gs.foldl (fun t g => t.groupFail g ((l.find? fun n => s.railGroup n = g).getD 0)) s

/-- A rail fault has occurred (R386, R394): RFAULT, LASTRAIL, the interrupt, the reset output of the rail's group. -/
def State.railFault (s : State) (n : Nat) : State :=
  (((s.setB SEQ_STATUS_RFAULT true).set SEQ_STATUS_LASTRAIL n).raise 22).assertRst (s.railGroup n)

/-- A power-up is abandoned (R393): the rail and those still ramping go off at once, then power-down runs. -/
def State.abandon (s : State) (bad : List Nat) (rail src : Nat) : State :=
  let ramp := s.seqRails.filter fun n => s.rail n = 1 ∨ s.rail n = 2
  let s1 := (s.railsOff (bad ++ ramp)).set SEQ_STATUS_ABANDONS (min 3 (s.get SEQ_STATUS_ABANDONS + 1))
  let s2 := (bad.foldl (fun t n => t.setRail n 5) s1).updSeq fun q => { q with belowWarn := false }
  (s2.seqEvent 0x0B03 rail src).powerDown

/-- A domain fault abandons a power-up, at the boundary (R390, R393), which is this moment where one has just begun. -/
def State.abandonFor (s : State) (d : Nat) : State :=
  if s.atBoundary then s.abandon [] 0xFF (srcDomain d) else s.updSeq fun q => { q with abandonDue := some d }

/-- The abandon that waits for this boundary. -/
def State.abandonStep (s : State) : State :=
  match s.seq.abandonDue with
  | some d =>
    let t := s.updSeq fun q => { q with abandonDue := none }
    if s.get SEQ_STATUS_PHASE = 1 then t.abandon [] 0xFF (srcDomain d) else t
  | none => s

/-- The rails that a core stop switches off, one a beat (R388): manual and ramping rails, then the achieved order backwards. -/
def State.coreStopRails (s : State) : List Nat :=
  (railList.filter fun n => s.railOn n && (s.railKind n = 3 || (s.railKind n = 1 && !s.seq.order.contains n)))
    ++ (s.seq.order.filter s.railOn).reverse

/-- One rail of a core stop goes off; with none left the rails are down. -/
def State.coreStopStep (s : State) : State :=
  match s.coreStopRails with
  | [] => s.pdDone
  | n :: _ => (s.railOff n 0).updSeq fun q => { q with offCur := some (n, s.glb.beat) }

/-- A core stop (R388): domains off, event 0x0B0A with a snapshot, PFW_n, SEALED, the first rail off. -/
def State.coreStopBegin (s : State) (n src : Nat) : State :=
  let s1 := (s.seqEvent 0x0B0A n src).setB SEQ_STATUS_CORESTOP true
  let s2 := ((s1.set SEQ_STATUS_ABANDONS 0).set SEQ_STATUS_PHASE 3).set MTX_STATUS_SESSION 0
  let s3 := (s2.allDomsOff.enter .sealed).updDrn fun d => { d with pfwIn := true, aliveOut := false, toSealed := false }
  (s3.updSeq fun q => { q with coreStop := true, offs := [], repower := [], want := 0, offCur := none }).coreStopStep

/-- A core stop is due: it begins at the boundary (R25, R388), which is this moment where a scan has just been judged. -/
def State.coreStop (s : State) (n src : Nat) : State :=
  if s.atBoundary then s.coreStopBegin n src else s.updSeq fun q => { q with coreDue := some (n, src) }

/-- The core stop that waits for this boundary. -/
def State.coreStopDue (s : State) : State :=
  match s.seq.coreDue with
  | some c => (s.updSeq fun q => { q with coreDue := none }).coreStopBegin c.1 c.2
  | none => s

/-- In DRAIN the rails `l` have gone off: the DRAM channels and the flash modules whose domains name one of them and are not shed lose
their ranks, or are absent (R229). -/
def State.drainFeeds (s : State) (l : List Nat) : State :=
  let fed := fun (d : Nat) => s.domOn d && (s.domRails d).any l.contains
  let chans := [0, 1, 2, 3, 4, 5, 6, 7].filter fun c => fed (68 + c)
  let mods := [0, 1, 2, 3].filter fun m => fed (76 + m)
  if s.glb.st ≠ .drain then s
  else (mods.foldl State.moduleAbsent (if chans.isEmpty then s else s.loseRanks (chans.flatMap chanRanks))).drainAdvance

/-- A good rail has a fault (R384, R386, R393). -/
def State.railBad (s : State) (n : Nat) : State :=
  let g := s.railGroup n
  let s1 := s.railFault n
  let phase := s.get SEQ_STATUS_PHASE
  if phase = 3 then
    if s.seq.coreStop then s1.railsOff (s.withDesc [n])
    else ((s1.railsOff (s.withDesc [n])).setRail n 5).seqEvent 0x0B0B n (srcRail n)
  else if phase = 1 then
    if s.owned g then s1.groupFail g n
    else if s.seq.offReq then ((s1.railsOff (s.withDesc [n])).setRail n 5).seqEvent 0x0B03 n (srcRail n)
    else s1.abandon [n] n (srcRail n)
  else if s.railCore n then (s1.setRail n 4).coreStop n (srcRail n)
  else if s.owned g then s1.groupFail g n
  else
    let s2 := (s1.setRail n 4).setRailSt n { s1.railSt n with fault := s.glb.beat }
    let s3 := if s.railPfw n then s2.setB SEQ_STATUS_RAILPFW true else s2
    s3.seqEvent 0x0B07 n (srcRail n)

/-- A starting rail fails by TON or in its settle (R380, R393, R514). -/
def State.startFail (s : State) (n : Nat) : State :=
  let g := s.railGroup n
  let s1 := s.railFault n
  if s.get SEQ_STATUS_PHASE = 1 then
    if s.owned g then s1.groupFail g n
    else if s.seq.offReq then ((s1.railsOff (s.withDesc [n])).setRail n 5).seqEvent 0x0B03 n (srcRail n)
    else s1.abandon [n] n (srcRail n)
  else if s.owned g then s1.groupFail g n
  else
    let l := s.withDesc [n]
    let s2 := ((s1.railsOff l).setRail n 5).seqEvent 0x0B07 n (srcRail n)
    s2.updSeq fun q => { q with repower := q.repower.filter fun r => !(s.withDesc [r]).contains n }

/-- Count a warning excursion's scans (R385). -/
def State.judgeWarn (s : State) (n : Nat) (inW : Bool) : State :=
  let r := s.railSt n
  let f := s.railFilt n
  let r1 := if inW then { r with warnIn := r.warnIn + 1, warnOut := 0 } else { r with warnIn := 0, warnOut := r.warnOut + 1 }
  let s1 := s.setRailSt n r1
  if s.bit (SEQ_RAIL_WARN n) then if f ≤ r1.warnIn then s1.setB (SEQ_RAIL_WARN n) false else s1
  else if f ≤ r1.warnOut then
    let s2 := (s1.setB (SEQ_RAIL_WARN n) true).count (SEQ_RAIL_WCNT n) 1
    if s.get (SEQ_RAIL_WCNT n) = 65534 then
      let s3 := (s2.setB SEQ_STATUS_WSAT true).event 0x0B08 (srcRail n)
      if s.bit SEQ_STATUS_WSAT then s3 else s3.raise 23
    else s2
  else s1

/-- Judge one rail at the end of a scan: within its fault limits with its RAIL_PG, within its warning limits (R380, R384, R385). -/
def State.judgeRail (s : State) (n : Nat) (inR inW : Bool) : State :=
  let r := s.railSt n
  let f := s.railFilt n
  if s.rail n = 1 then
    let k := if inR then r.inCnt + 1 else 0
    if f ≤ k then (s.setRail n 2).setRailSt n { r with inCnt := k, settle := s.glb.beat } else s.setRailSt n { r with inCnt := k }
  else if s.rail n = 2 then if inR then s else s.startFail n
  else if s.rail n = 3 then
    let s1 := s.judgeWarn n inW
    let k := if inR then 0 else r.outCnt + 1
    let s2 := s1.setRailSt n { s1.railSt n with outCnt := k }
    if f ≤ k then s2.railBad n else s2
  else s

/-- RAIL_PG as the registers show it (SEQ_RAILn.PG). -/
def State.showPg (s : State) (pg : Nat) : State := railList.foldl (fun t n => t.setB (SEQ_RAIL_PG n) (bitOf pg n)) s

/-- Judge every rail from the codes of the scan; a rail whose input the scan did not hold is not judged. -/
def State.judge (s : State) (scan : List (Nat × Nat)) (pg : Nat) : State :=
  s.seqRails.foldl (fun t n =>
    match scan.find? fun x => x.1 = s.railScan n with
    | none => t
    | some x =>
      let inR := decide (s.railFlo n ≤ x.2) && decide (x.2 ≤ s.railFhi n) && (!s.railPgUse n || bitOf pg n)
      t.judgeRail n inR (decide (s.railWlo n ≤ x.2) && decide (x.2 ≤ s.railWhi n))) s

/-- With the built-in table RAIL_PG is judged at every boundary in place of a scan (R376). -/
def State.judgePg (s : State) (pg : Nat) : State :=
  if s.seq.tbl ≠ [] then s else [0, 1, 2, 3].foldl (fun t n => t.judgeRail n (bitOf pg n) true) s

/-- Presence as the latest conversions show it, for energy and flash modules (R162, R260). -/
def State.showPresence (s : State) : State :=
  if s.sti.active.isNone then s
  else
    let mask := fun (f : Nat → Nat) => [0, 1, 2, 3].foldl (fun m k =>
      if f k < 64 && Config.presenceReads (s.get (SEQ_READ_CODE (f k))) then setBit m k else m) 0
    (s.set LDG_BANKREL_PRESENT (mask s.img.pres)).set VLT_MODS_PRESENT (mask s.img.modPres)

/-- A power-up whose off request is pending powers down once no rail ramps or settles (R393). -/
def State.offStep (s : State) : State :=
  if s.get SEQ_STATUS_PHASE = 1 ∧ s.seq.offReq ∧ (s.seqRails.all fun n => s.rail n ≠ 1 && s.rail n ≠ 2) then s.powerDown else s

/-- SCAN_COMPLETE (R378, R380, R384, R385, R397): a scan's conversions in list order, and RAIL_PG at each rail's conversion. -/
def execScanComplete (codes : List (BitVec 12)) (pg : BitVec 48) (s : State) : Out :=
  let l := s.seq.scanList
  if !s.atBoundary ∨ l = [] ∨ s.glb.beat < s.seq.scanStart + cdiv l.length 4 ∨ codes.length < l.length then ok s
  else
    let scan := (List.range l.length).map fun i => (l.getD i 0, (codes.getD i 0).toNat)
    let s1 := scan.foldl (fun t x => t.set (SEQ_READ_CODE x.1) x.2) s
    let s2 := (s1.showPg pg.toNat).updSeq fun q => { q with scans := (scan :: q.scans).take 5 }
    let s3 := ((s2.judge scan pg.toNat).offStep.showPresence).eqScan
    ok (s3.startScans s3.scanInputs).drainAdvance

/-- RAIL_TON_EXPIRY (R380). -/
def execRailTonExpiry (rail : BitVec 6) (s : State) : Out :=
  let n := rail.toNat
  if s.atBoundary ∧ s.rail n = 1 ∧ s.railKind n = 1 ∧ s.expired (s.railSt n).start (s.railTon n) then ok (s.startFail n).offStep else ok s

/-- The re-powers whose rail and wanted descendants are all good are complete (R389); a descendant that an owner switches is none of
them (R374). -/
def State.repowerDone (s : State) : State :=
  let done := s.seq.repower.filter fun r => (s.withDesc [r]).all fun k =>
    s.rail k = 3 || !bitOf s.seq.want k || s.owned (s.railGroup k)
  done.foldl (fun t r => t.event 0x0B12 (srcRail r)) (s.updSeq fun q => { q with repower := q.repower.filter fun r => !done.contains r })

/-- RAIL_SETTLE_EXPIRY (R380, R389): the rail is good; a re-power whose rails are all good is complete. -/
def execRailSettleExpiry (rail : BitVec 6) (s : State) : Out :=
  let n := rail.toNat
  if s.atBoundary ∧ s.rail n = 2 ∧ s.railKind n = 1 ∧ s.expired (s.railSt n).settle (s.railSettle n) then
    ok ((s.railGood n).offStep).repowerDone
  else ok s

/-- RAIL_FDELAY_EXPIRY (R386): the timed shut-down, and in DRAIN what the rails that go off feed (R229). -/
def execRailFdelayExpiry (rail : BitVec 6) (s : State) : Out :=
  let n := rail.toNat
  if s.atBoundary ∧ s.rail n = 4 ∧ s.expired (s.railSt n).fault (s.railFDelay n) then
    let l := (s.withDesc [n]).filter s.railOn
    let s1 := (((s.railsOff l).setRail n 5).event 0x0B09 (srcRail n)).groupsFail (l.filter fun k => k ≠ n)
    ok (s1.drainFeeds l).drainAdvance
  else ok s

/-- OFF_DELAY_EXPIRY (R390, R392): the next step of the power-down, or of a group's, whose off-delay runs on this rail. -/
def execOffDelayExpiry (rail : BitVec 6) (s : State) : Out :=
  let n := rail.toNat
  if !s.atBoundary then ok s
  else match s.seq.offCur with
  | some (m, b) =>
    if m = n ∧ s.get SEQ_STATUS_PHASE = 3 ∧ !s.seq.coreStop ∧ s.expired b (s.offDly n) then ok s.pdStep else ok s
  | none =>
    match s.seq.offs.find? fun g => match g.last with | some (m, d, b) => m = n && s.expired b d | none => false with
    | some g => ok (s.groupStep g)
    | none => ok s

/-- CORE_STOP_RAIL_OFF (R388): one further rail at each beat. -/
def execCoreStopRailOff (s : State) : Out :=
  match s.seq.offCur with
  | some (_, b) => if s.atBoundary ∧ s.seq.coreStop ∧ b < s.glb.beat then ok s.coreStopStep else ok s
  | none => ok s

/-- BANKMON_SEALED_FLOOR (R173, R395): BANKMON reports the code at which the bank has stood for DEGLITCH steps; below SFLOOR in
SEALED the engine goes off. -/
def execBankmonSealedFloor (code : BitVec 10) (s : State) : Out :=
  let s1 := s.bankLevel SEQ_STATUS_BANK_S (s.get SEQ_BANKMON_SFLOOR) code.toNat
  if s.glb.st = .sealed ∧ code.toNat < s.get SEQ_BANKMON_SFLOOR ∧ s.mode ≠ 0 then ok (s1.ctlOff.event 0x050E 0) else ok s1

/-- A power-up may begin (R23, R379, R501): the minimum off time is over and, in SEALED, the input has been back for 50 beats. -/
def State.mayPowerUp (s : State) : Bool :=
  let off : Bool := match s.seq.minOff with | some b => s.expired b 50000 | none => s.expired 0 50000
  s.atBoundary && !s.drn.toSealed && decide (s.get SEQ_STATUS_PHASE = 0) && off &&
    (decide (s.glb.st = .powerup) || (decide (s.glb.st = .sealed) && decide (50 ≤ s.glb.backBeats)))

/-- POWER_UP_BEGIN (R23, R24, R379): at a boundary. A power-up out of SEALED that follows three abandons begins a fresh series: the
input has been below WARN and is back. -/
def execPowerUpBegin (s : State) : Out :=
  if s.mayPowerUp then
    let g := s.updSeq fun q => { q with tbl := if q.later.isEmpty then q.tbl else q.later, later := [] }
    let s0 := if s.glb.st = .sealed ∧ s.get SEQ_STATUS_ABANDONS = 3 then g.set SEQ_STATUS_ABANDONS 0 else g
    let s1 := ((s0.enter .powerup).event 0x0B01 0).set SEQ_STATUS_PHASE 1
    let s2 := [0, 1, 2].foldl (fun t k => t.set (SEQ_DOMFAIL_DOMAINS k) 0) s1
    let s3 := (s2.seqRails).foldl (fun t n => if t.rail n = 5 ∨ t.rail n = 4 then t.setRail n 0 else t) s2
    let s4 := s3.updSeq fun q => { q with want := s3.seqRails.foldl setBit 0, failed := 0, offReq := false, order := [] }
    let s5 := s4.updHp fun h => { h with jtagIr := if h.jtagIr = 2 then 0 else h.jtagIr }
    ok ((s5.ctlOff.showKinds.updDrn fun d => { d with toSealed := false, pfwIn := true }).startRails)
  else ok s

/-- A domain is enabled, and so is everything that it needs (R381, R382). -/
def State.domMay (s : State) : Nat → Nat → Bool
  | 0, d => s.domEnabled d
  | fuel + 1, d => s.domEnabled d && (domNeeds d).all (s.domMay fuel)

/-- A domain is on, or stays off because the image disables it or what it needs, or it or what it needs has failed (R382, R383,
R393). -/
def State.domSettled (s : State) (d : Nat) : Bool :=
  !s.domMay 4 d || s.domOn d || s.domFailed d || (domNeeds d).any s.domFailed

/-- Every enabled rail outside failed groups is good and every enabled domain is on (R383). -/
def State.powerUpDone (s : State) : Bool :=
  (s.seqRails.all fun n => s.rail n = 3 || (s.railGroup n < 16 && bitOf s.seq.failed (s.railGroup n)))
    && (List.range 96).all s.domSettled

/-- A register field that the reset at BOOT entry keeps (R484). -/
def bootKeeps (k : Nat) : Bool :=
  let b := keyBlock k
  let a := keyAgent k
  ((b = 0xA || b = 0xE) && a ≠ 1 && a ≠ 2) || k = STW_STATUS_RESTARTS.key || (a = 0 && 0xF0018 ≤ k / 32 && k / 32 < 0xF0028)

/-- The key slots at BOOT entry (R484, R12): a slot that this power-up has loaded stands as the load left it (R449); of every other
slot only LOCKED is kept. -/
def bootSlots (l : Store KeySlot) : Store KeySlot :=
  (l.map fun e => (e.1, if e.2.key.isSome then e.2 else ⟨none, 0, e.2.locked, 0, 0⟩)).filter fun e => e.2 ≠ ⟨none, 0, false, 0, 0⟩

/-- The reset of R484 at BOOT entry after a cold POWERUP. -/
def State.bootReset (s : State) : State :=
  let s1 := ((s.dropRegs fun k => !bootKeeps k).updGlb fun g => { g with
    st := .boot, lazyRestore := false, published := false, bound := [] }).updEvr fun e => { e with
      cursor := ⟨0, 0, e.cursor.s⟩, gen := ⟨0, 0, e.gen.s⟩, copyStart := s.glb.beat }
  let s2 := { s1 with
    irq := Irq.reset, sti := Sti.reset, cfl := { s.cfl with seq := none, compat := none }
    dge := { Dge.reset with slots := bootSlots s.dge.slots, wrapKey := s.dge.wrapKey }, pq := Pq.reset
    stw := { Stw.reset with straps := s.stw.straps, unconfirmed := s.stw.unconfirmed, prevBlock := s.stw.prevBlock, trial := s.stw.trial }
    mbx := { Mbx.reset with dirtyCount := s.mbx.dirtyCount }, cch := Cch.reset, dsp := Dsp.reset, ldg := Ldg.reset
    ctl := { Ctl.reset with eqDone := s.ctl.eqDone, htRef := s.glb.beat }, drn := Drn.reset, rst := Rst.reset
    vlt := { Vlt.reset with nand := s.vlt.nand, masks := s.vlt.masks, bad := s.vlt.bad, badBlocks := s.vlt.badBlocks
                            halfErased := s.vlt.halfErased } }
  let s3 := { s2 with drn := { s2.drn with pfwIn := false } }
  let failed := (List.range 64).filter fun t => s.domFailed t || (domNeeds t).any s.domFailed
  failed.foldl (fun t d => t.set (TIL_STATUS_STATE d) 5) s3.mirrorReset

/-- POWER_UP_COMPLETE (R23, R383, R484, R503, R513): BOOT. -/
def execPowerUpComplete (s : State) : Out :=
  if s.atBoundary ∧ s.glb.st = .powerup ∧ s.get SEQ_STATUS_PHASE = 1 ∧ !s.seq.offReq ∧ s.powerUpDone then
    let s1 := ((s.event 0x0B02 0).set SEQ_STATUS_ABANDONS 0).set SEQ_STATUS_PHASE 2
    let s2 := s1.bootReset
    ok (s2.set LDG_BANKREL_COUNTED ([0, 1, 2, 3].foldl (fun m k => if s2.switchOn 1 k then setBit m k else m) 0))
  else ok s

/-- POWERUP_HOLD_END (R24): INMON has been below WARN and is back above it. -/
def execPowerupHoldEnd (s : State) : Out :=
  if s.get SEQ_STATUS_PHASE = 4 ∧ s.seq.belowWarn ∧ 1 ≤ s.glb.backBeats then
    ok (((s.set SEQ_STATUS_PHASE 0).set SEQ_STATUS_ABANDONS 0).updSeq fun q => { q with belowWarn := false })
  else ok s

/-- A tile fails with its domain (R381, R349). -/
def State.tileFailed (s : State) (t : Nat) : State := (s.set (TIL_STATUS_STATE t) 5).updDsp fun d => { d with remap := true }

/-- What a domain fault leads to in service (Table: Domain dependencies). -/
def State.domOutcome (s : State) (d : Nat) : State :=
  if d < 64 then s.tileFailed d
  else if d < 68 then ((List.range 64).filter fun t => (domNeeds t).contains d && s.domEnabled t).foldl State.tileFailed s
  else if d < 76 then s.loseRanks (chanRanks (d - 68))
  else if d < 80 then s.moduleAbsent (d - 76)
  else if d < 88 then s
  else if d < 93 then if s.get MLK_STATUS_LSTATE = 0 then s else s.linkDown
  else s

/-- A domain fault (R381, R393). -/
def State.domFault (s : State) (d : Nat) : State :=
  let s0 := if 88 ≤ d ∧ d < 93 ∧ s.get SEQ_STATUS_PHASE = 2 then s.domOutcome d else s
  let s1 := s0.domsOff ((domWithDeps 4 d).filter fun x => s0.domOn x || x = d)
  let f := SEQ_DOMFAIL_DOMAINS (d / 32)
  let s2 := ((s1.set f (setBit (s.get f) (d % 32))).setB SEQ_STATUS_DFAULT true).raise 24
  let s3 := s2.seqEvent 0x0B0C d (srcDomain d)
  let phase := s.get SEQ_STATUS_PHASE
  if phase = 1 then
    if d < 68 then s3.domOutcome d
    else if s.seq.offReq then s3 else s3.abandonFor d
  else if phase = 2 then
    if d = 94 then s3.coreStop 0xFF (srcDomain d) else if 88 ≤ d ∧ d < 93 then s3 else s3.domOutcome d
  else s3

/-- DOMAIN_ON_TIMEOUT (R381): a domain that was switched on does not report on within 8 beats. -/
def execDomainOnTimeout (d : BitVec 7) (s : State) : Out :=
  match Store.get 0 s.seq.domPend d.toNat with
  | 0 => ok s
  | b + 1 => if s.expired b 8 then ok (s.domFault d.toNat) else ok s

/-- DOMAIN_FAULT (R381): a domain's switch stops reporting on. -/
def execDomainFault (d : BitVec 7) (s : State) : Out :=
  if d.toNat < 96 ∧ s.domOn d.toNat then ok (s.domFault d.toNat).drainAdvance else ok s

/-- A SEQ_CMD request is refused (R389). -/
def State.cmdRefuse (s : State) (n : Nat) : State := (s.setB SEQ_STATUS_CMDREF true).event 0x0B0F (srcRail n)

/-- REPOWER (R389): the rail and its enabled descendants, those apart that an owner switches (R374). -/
def execRepower (rail : BitVec 6) (s : State) : Out :=
  let n := rail.toNat
  if s.glb.st = .serve ∧ n < 48 ∧ s.railKind n = 1 ∧ !s.railOn n ∧ !s.railCore n ∧ !s.owned (s.railGroup n) then
    let l := (s.withDesc [n]).filter fun k => !s.owned (s.railGroup k)
    let s1 := l.foldl (fun t k => if t.rail k = 5 then t.setRail k 0 else t) s
    ok (s1.updSeq fun q => { q with repower := q.repower.erase n ++ [n], want := l.foldl setBit q.want }).startRails
  else ok (s.cmdRefuse n)

/-- A state in which firmware switches manual rails (R372). -/
def State.manualMay (s : State) (n : Nat) : Bool :=
  (s.glb.st = .boot || s.glb.st = .restore || s.glb.st = .serve) && decide (n < 48) && s.railKind n = 3

/-- MANUAL_RAIL_ON (R372). -/
def execManualRailOn (rail : BitVec 6) (s : State) : Out :=
  let n := rail.toNat
  if s.manualMay n then ok ((s.updSeq fun q => { q with en := setBit q.en n }).setRail n 6) else ok (s.cmdRefuse n)

/-- MANUAL_RAIL_OFF (R372). -/
def execManualRailOff (rail : BitVec 6) (s : State) : Out :=
  let n := rail.toNat
  if s.manualMay n then ok ((s.updSeq fun q => { q with en := clrBit q.en n }).setRail n 0) else ok (s.cmdRefuse n)

/-- WARNING_COUNT_CLEAR (R385, R389). -/
def execWarningCountClear (rail : BitVec 6) (s : State) : Out :=
  if rail.toNat < 48 then ok (s.set (SEQ_RAIL_WCNT rail.toNat) 0) else ok (s.cmdRefuse rail.toNat)

/-- RESET_STRETCH_EXPIRY (R394). -/
def execResetStretchExpiry (g : BitVec 4) (s : State) : Out :=
  let n := g.toNat
  match Store.get 0 s.seq.stretch n with
  | 0 => ok s
  | b + 1 =>
    if s.atBoundary ∧ s.expired b (s.groupStretch n) then
      ok (((s.set SEQ_RST_ASSERTED (clrBit (s.get SEQ_RST_ASSERTED) n)).set SEQ_RST_STRETCHING
        (clrBit (s.get SEQ_RST_STRETCHING) n)).updSeq fun q => { q with stretch := Store.put 0 q.stretch n 0 })
    else ok s

/-- DROOP_TRIP (R396). -/
def execDroopTrip (t : BitVec 6) (s : State) : Out :=
  if !s.domOn t.toNat then ok s
  else ok (((s.count (SEQ_DROOPCNT_TRIPS t.toNat) 1).setB (SEQ_DROOPCNT_NOW t.toNat) true).event 0x0B0D (srcTile t.toNat))

/-- DROOP_RELEASE (R396): a tile's clock is whole again; where its quadrant had four sensors tripped, the fabric clock follows. -/
def execDroopRelease (t : BitVec 6) (s : State) : Out :=
  let q := quadrantOf t.toNat
  let s1 := s.setB (SEQ_DROOPCNT_NOW t.toNat) false
  if 4 ≤ s.droopsIn q ∧ s1.droopsIn q < 4 then ok (s1.updSeq fun x => { x with fabRel := Store.put 0 x.fabRel q (s.cycleNow + 1) })
  else ok s1

/-- SNAP_DATA_READ (R399). -/
def execSnapDataRead (g : Agent) (s : State) : Out :=
  if !s.answers g then ok s else
  let w := s.get SEQ_SNAP_SEL_WORD
  let v := leAt (Store.get [] s.seq.snaps (s.get SEQ_SNAP_SEL_SLOT)) (4 * w) 4
  ok ((s.set SEQ_SNAP_SEL_WORD ((w + 1) % 170)).emit (.regData g 0xA0040 v))

/-- The always-on domain has lost power: what flash, NAND and the board hold stays (R484, R501). -/
def State.vddReset (s : State) : State :=
  { State.reset with
    glb := { Glb.reset with free := s.glb.free }
    cfl := { Cfl.reset with bytes := s.cfl.bytes, flags := s.cfl.flags, half := s.cfl.half }
    mbx := { Mbx.reset with dirtyCount := s.mbx.dirtyCount }
    hp := { Hp.reset with perst := s.hp.perst }
    vlt := { Vlt.reset with nand := s.vlt.nand, masks := s.vlt.masks, bad := s.vlt.bad, badBlocks := s.vlt.badBlocks
                            halfErased := s.vlt.halfErased }
    mtx := { Mtx.reset with pairBeat := s.mtx.pairBeat }
    out := s.out, pending := s.pending }

/-- VDDAON_LOSS (R501): the power-on reset re-asserts. -/
def execVddaonLoss (s : State) : Out := ok s.vddReset

/-- VDDAON_POWER_ON (R376, R491, R501): the power-on reset releases; the straps latch, the record is read. -/
def execVddaonPowerOn (straps : BitVec 4) (s : State) : Out :=
  let e := s.vddReset.entropy
  let s1 := (e.2.updDge fun d => { d with wrapKey := e.1 }).updStw fun w => { w with straps := straps.toNat }
  let s2 := match s1.seqRecordIn with
    | some t => (s1.updSeq fun q => { q with tbl := t }).set SEQ_STATUS_TABLE 1
    | none => (s1.updSeq fun q => { q with tbl := [] }).event 0x0B10 0
  let s3 := (s2.updSeq fun q => { q with minOff := some 0 }).updDrn fun d => { d with pfwIn := true }
  ok (s3.startScans s3.scanInputs).showKinds

end Sys2Proof.Machine
end

