-- ==== Sys2Proof/Machine/ImageLoad.lean ====
section
/-! DEFINITION. Bringing an image into force: every register that the image supplies, in BOOT and at a swap (R412, R377, R66,
R75, R111, R154, R202, R209, R445, R513). -/

namespace Sys2Proof.Machine

/-- The code of CTL_CTRL.SPERIOD for a sample period in beat-clock cycles. -/
def speriodCode (sdiv : Nat) : Nat := if sdiv = 8 then 0 else if sdiv = 10 then 1 else if sdiv = 16 then 2 else 3

/-- The registers of the persist path and the classes (R75, PQ_CLASSn_CFG). -/
def State.loadClasses (s : State) (im : Image) : State :=
  let s1 := (s.set PQ_CAP_QCAP_K (im.qcapLines / 1024)).set PQ_CAP_QTILES im.queueTiles.length
  [0, 1, 2].foldl (fun t c => (t.setB (PQ_CLASS_MIRROR c) (im.mirrorBit c)).setB (PQ_CLASS_AAM c) (im.aamBit c && im.mirrorBit c)) s1

/-- The control figures and the set-point targets (R202, R516). -/
def State.loadControl (s : State) (im : Image) : State :=
  let s1 := ((s.set CTL_CTRL_SPERIOD (speriodCode im.sdiv)).set CTL_SET_VBUS_TARGET im.vbusSet).set CTL_SET_VCHG_TARGET im.vchg
  let ph := 2 ^ im.phases - 1
  let s2 := ((s1.set CTL_SET_IBANK_CHG im.ibankChg).set CTL_SET_IBANK_DIS im.ibankDis).updCtl fun c => { c with
    on := c.on &&& ph, nextOn := c.nextOn &&& ph }
  s2.set CTL_STATUS_PHASE_ON (s.get CTL_STATUS_PHASE_ON &&& ph)

/-- The use and the policy of every key slot (R445). -/
def State.loadPolicies (s : State) (im : Image) : State :=
  (List.range 32).foldl (fun t n => t.setSlot n { t.slot n with use := im.slotUse n, policy := im.slotPolicy n }) s

/-- Every register that an image supplies. -/
def State.loadImage (s : State) (im : Image) : State :=
  let s1 := (((s.updSti fun x => { x with active := some im }).set64 STI_GEN_ACT_LO_VALUE STI_GEN_ACT_HI_VALUE im.gen).loadClasses
    im).layRanks
  let s2 := [0, 1, 2].foldl (fun t n => t.set (LDG_CEIL_CEIL n) (im.ceil n)) s1
  let s3 := (s2.loadControl im).set DRN_GRACE_BEATS im.graceBeats
  let s4 := ((s3.set VLT_GEOM_PLANES im.planes).set VLT_GEOM_TARGETS im.targets).set VLT_GEOM_PAGES im.pages
  let s5 := ((s4.set VLT_GEOM_CROWN_BLOCKS im.crownBlocks).set VLT_BLOCKS_BLOCKS im.blocks).loadPolicies im
  s5.moveBuckets.set VLT_FREE_RESV s5.resvBands

/-- The next slot of the recorder log: behind its newest record (R423). -/
def State.logEnd (s : State) : Nat :=
  match s.logParsed with
  | [] => 0
  | x :: xs => ((xs.foldl (fun m y => if m.2.1 ≤ y.2.1 then y else m) x).1 + 1) % 16384

/-- The base of R66 and the sequence base of R465: crowns of the modules that read present, and the recorder log. DESIGN CHOICE: where
neither a verified crown nor a recorder copy exists the beat base is 0; R66 names none for that case. -/
def State.takeBase (s : State) : State :=
  if !s.glb.provisional then s
  else
    let crowns := (((modsOf (s.get VLT_MODS_PRESENT)).flatMap fun m => (s.ringPages m).map Prod.snd).filter s.crownSound).map crBeat
    let log := s.logRecords
    let last := match maxOf (log.map Prod.fst) with
      | some q => (log.filter fun x => x.1 = q).map Prod.snd
      | none => []
    let base := match maxOf (crowns ++ last) with | some b => b + 1 | none => 0
    let seqBase := match maxOf (log.map Prod.fst) with | some q => q + 1 | none => 0
    (s.updEvr fun e => { e with logNext := s.logEnd }).rebase base seqBase

/-- The controller leaves BOOT for RESTORE once an image is active, the steward runs or has found both blocks failing, the
memory is trained, 40 tiles have passed, and every provisional record is rebased (R23, R67, R109, R349, R340). -/
def State.leaveBoot (s : State) : State :=
  if s.glb.st = .boot ∧ !s.drn.toSealed ∧ s.sti.active.isSome ∧ (s.stwUp ∨ s.stw.bothFail) ∧ s.bit CCH_STATUS_POP_OK ∧ s.dsp.tested
      ∧ 40 ≤ ((List.range 64).filter s.inService).length ∧ !s.glb.provisional then
    (s.enter .restore).updDrn fun d => { d with aliveOut := true }
  else s

/-- The archive is checked: ARCH_OK and its generation (R414); its MAC step asks for the digest engine (R406). -/
def State.checkArchive (s : State) (slot : Nat) : State :=
  ((if s.macNeeded slot then s.dgeRequest .image else s).setB STI_STATUS_ARCH_OK (s.archOk slot)).set64 STI_GEN_ARC_LO_VALUE STI_GEN_ARC_HI_VALUE
    (if (parseImage (s.slotBytes slot)).2.isSome then leAt (s.slotBytes slot) 16 8 else 0)

/-- An image becomes active in BOOT (R407, R377, R513, R66, R469). DESIGN CHOICE: the presence inputs of the modules are named by the
image, so BOOT entry counts by the isolation switches alone, and COUNTED keeps the modules that read present only from here (R513). -/
def State.bootActivate (s : State) (im : Image) : State :=
  let s1 := ((s.loadImage im).adopt im).showPresence
  let s2 := s1.set LDG_BANKREL_COUNTED (s1.get LDG_BANKREL_COUNTED &&& s1.get LDG_BANKREL_PRESENT)
  s2.takeBase.copyReport.bootCharge

end Sys2Proof.Machine
end

