-- ==== Sys2Proof/Machine/Steward.lean ====
section
/-! DEFINITION. The commands of the steward and its mailbox (R425, R451 to R460). -/

namespace Sys2Proof.Machine

/-- A selector record write waits or runs. -/
def State.selectorBusy (s : State) : Bool := s.cfl.writes.any fun w => match w with | .cell 1 _ => true | _ => false

/-- A boot block serves this start: it verifies and was not half-erased (R425). -/
def State.blockServes (s : State) (good : Bool) (n : Nat) : Bool :=
  good && !(List.range 16).any fun i => bitOf s.cfl.half (16 * n + i)

/-- STEWARD_START (R425, R460): the boot ROM takes the block of the selector, or its twin; `good0` and `good1` say which
blocks pass their verification, which the spec does not define. Both failing leave the steward down. No instruction is fetched before
the flag cells have been read (R432). -/
def execStewardStart (good0 good1 : Bool) (s : State) : Out :=
  if !s.domOn 93 ∨ !s.flashOn ∨ s.stwUp ∨ s.selectorBusy then ok s
  else
    let serves := fun (n : Nat) => s.blockServes (if n = 0 then good0 else good1) n
    let sel := s.selBlock
    let s0 := ((s.setB CFL_BOOT_NOSEL (s.cell 1).isNone).set CFL_BOOT_SELGEN
      (((s.cell 1).map CellRec.gen).getD 0)).setB CFL_BOOT_TWIN false
    let go := fun (t : State) (b : Nat) =>
      let s1 := (((t.set CFL_BOOT_BLOCK b).set STW_STATUS_BLOCK b).set STW_STATUS_RUN (if s.stw.trial then 3 else 2)).set64
        STW_FWVER_LO_VALUE STW_FWVER_HI_VALUE (Config.firmwareVersion b)
      let s2 := if s.get STW_STATUS_UPD = 4 then s1.set STW_STATUS_UPD 0 else s1
      (s2.updStw fun w => { w with kick := s.glb.beat, trialStart := s.glb.beat, bothFail := false }).event 0x1001 0
    if serves sel then ok (go s0 sel)
    else if serves (1 - sel) then ok (go ((s0.setB CFL_BOOT_TWIN true).event 0x0D02 0) (1 - sel))
    else ok ((s0.set STW_STATUS_RUN 0).updStw fun w => { w with bothFail := true })

/-- WATCHDOG_EXPIRY (R451, R460): no KICK for WDOG_MS milliseconds. -/
def execWatchdogExpiry (s : State) : Out :=
  if s.stwUp ∧ s.expired s.stw.kick (1000 * s.get STW_CTRL_WDOG_MS) then
    ok (if s.get STW_STATUS_RUN = 3 then s.stwRestart.unconfirmedStart else s.stwRestart)
  else ok s

/-- STEWARD_RESTART (R451): a write of STW_CMD.RESTART, from a host or from the steward, with its key. -/
def execStewardRestart (g : Agent) (key : BitVec 16) (s : State) : Out :=
  if s.answers g ∧ key = 0x5354 then ok s.stwRestart else ok s

/-- CONFIRM (R460): the steward's write of STW_CMD.CONFIRM. -/
def execConfirm (g : Agent) (s : State) : Out :=
  if !s.answers g then ok s else
  if g = .stw ∧ s.get STW_STATUS_RUN = 3 then
    ok (((s.set STW_STATUS_RUN 2).updStw fun w => { w with trial := false, unconfirmed := 0 }).event 0x1005 (srcCause 1))
  else ok s

/-- KICK (R451): the steward's write of STW_CMD.KICK. -/
def execKick (g : Agent) (s : State) : Out :=
  if !s.answers g then ok s else
  if g = .stw ∧ s.stwUp then ok (s.updStw fun w => { w with kick := s.glb.beat }) else ok s

/-- CONFIRM_TIMEOUT (R460): CONFIRM_S seconds pass without CONFIRM; the steward restarts. -/
def execConfirmTimeout (s : State) : Out :=
  if s.get STW_STATUS_RUN = 3 ∧ s.expired s.stw.trialStart (1000000 * s.get STW_CTRL_CONFIRM_S) then
    ok s.stwRestart.unconfirmedStart
  else ok s

/-- The alarm of a sensor after a reading in 0.25 °C (R454): an alarm clears when the reading falls HYST °C below its
threshold. -/
def alarmOf (warn crit hyst : Nat) (old : Nat) (t : Int) : Nat :=
  let clear := fun (th : Nat) => t < 4 * (th : Int) ∧ t ≤ 4 * ((th : Int) - hyst)
  if 4 * (crit : Int) ≤ t ∨ (old = 2 ∧ ¬clear crit) then 2
  else if 4 * (warn : Int) ≤ t ∨ (1 ≤ old ∧ ¬clear warn) then 1
  else 0

/-- One thermal sensor is read (R453, R454). -/
def State.senseTemp (s : State) (n : Nat) (code : BitVec 12) : State :=
  let old := s.get (STW_TEMP_ALARM n)
  let a := alarmOf (s.get STW_TLIM_WARN) (s.get STW_TLIM_CRIT) (s.get STW_TLIM_HYST) old (signedOf 12 code.toNat)
  let s1 := ((s.set (STW_TEMP_TEMP n) code.toNat).setB (STW_TEMP_VALID n) true).set (STW_TEMP_ALARM n) a
  if old < a then ((s1.event (if a = 2 then 0x1007 else 0x1006) 0).raise 33) else s1

/-- SENSOR_READ (R453, R454): the sixteen sensors and the four monitors, every 1,000 beats. -/
def execSensorRead (temps : List (BitVec 12)) (mv : List (BitVec 16)) (s : State) : Out :=
  if s.stwUp ∧ s.stw.lastSense + 1000 ≤ s.glb.beat then
    let s1 := (List.range 16).foldl (fun t n => t.senseTemp n (temps.getD n 0)) s
    let s2 := (List.range 4).foldl (fun t n => t.set (STW_VMON_MV n) (mv.getD n 0).toNat) s1
    ok (s2.updStw fun w => { w with lastSense := s.glb.beat })
  else ok s

/-- GET_VERSIONS: the firmware version and the microcode version of tile 0. -/
def execGetVersions (g : Option Port) (s : State) : Out :=
  if !s.answersOpt g then ok s else
  ok (s.stwCommand g 1 fun t => t.stwAnswer g 1 mbxOk
    [t.get STW_FWVER_LO_VALUE, t.get STW_FWVER_HI_VALUE, t.get (TIL_MCVER_VERSION 0), 0])

/-- The argument of a mailbox command: a host's ARG register, or the sideband message's. -/
def State.mbxArg (s : State) (g : Option Port) (n : Nat) (w : Nat) : Nat :=
  match g with
  | some _ => s.get (STW_MBX_ARG_ARG n)
  | none => w

/-- UPDATE_BEGIN (R458, R510). -/
def execUpdateBegin (g : Option Port) (size : Word) (s : State) : Out :=
  if !s.answersOpt g then ok s else
  ok (s.stwCommand g 2 fun t =>
    let n := t.mbxArg g 0 size.toNat
    if t.stw.update.isSome then t.stwAnswer g 2 mbxBusy []
    else if !t.mayUpdate then (t.event 0x1004 0).stwAnswer g 2 mbxState []
    else if !packageSize n then t.stwAnswer g 2 mbxRange []
    else (t.updateBegin false n).stwAnswer g 2 mbxOk [])

/-- An update that the mailbox drives is being received. -/
def State.mbxReceiving (s : State) : Bool :=
  (match s.stw.update with | some u => !u.viaPldm | none => false) && s.get STW_STATUS_UPD = 1

/-- UPDATE_DATA (R458): the next package bytes, at the next expected offset. -/
def execUpdateData (g : Option Port) (off : Word) (data : List Byte) (s : State) : Out :=
  if !s.answersOpt g then ok s else
  ok (s.stwCommand g 3 fun t =>
    match t.stw.update with
    | none => t.stwAnswer g 3 mbxState []
    | some u =>
      let n := match g with | some _ => t.get (STW_MBX_ARG_ARG 1) | none => data.length
      let b := match g with
        | some _ => ((List.range 256).flatMap fun i => leBytes 4 (t.get (STW_MBX_DATA_BYTES i))).take n
        | none => data
      if !t.mbxReceiving then t.stwAnswer g 3 mbxState []
      else if ¬(1 ≤ n ∧ n ≤ 1024) ∨ t.mbxArg g 0 off.toNat ≠ u.bytes.length ∨ u.size < u.bytes.length + n then
        t.stwAnswer g 3 mbxRange []
      else (t.updateTake b).stwAnswer g 3 mbxOk [])

/-- UPDATE_END (R458, R459). -/
def execUpdateEnd (g : Option Port) (s : State) : Out :=
  if !s.answersOpt g then ok s else
  ok (s.stwCommand g 4 fun t =>
    if !t.mbxReceiving then t.stwAnswer g 4 mbxState []
    else t.updateEnd (match g with | some p => p.agent.code | none => 0))

/-- UPDATE_CANCEL: ends the update; the staged slot stays unused. -/
def execUpdateCancel (g : Option Port) (s : State) : Out :=
  if !s.answersOpt g then ok s else
  ok (s.stwCommand g 5 fun t => t.updateDrop.stwAnswer g 5 mbxOk [])

/-- ACTIVATE_FW (R460). The restart drops a sideband message that carries it, so it is answered first. -/
def execActivateFw (g : Option Port) (s : State) : Out :=
  if !s.answersOpt g then ok s else
  ok (s.stwCommand g 6 fun t =>
    match t.mayActivate with
    | some b => (t.stwAnswer g 6 mbxOk []).activate b
    | none => (if t.glb.st = .serve then t else t.event 0x1004 0).stwAnswer g 6 mbxState [])

/-- SET_WALLTIME (R455): the pair of the beat and the seconds. -/
def execSetWalltime (g : Option Port) (sec : BitVec 64) (s : State) : Out :=
  if !s.answersOpt g then ok s else
  ok (s.stwCommand g 7 fun t =>
    let v := match g with
      | some _ => t.get (STW_MBX_ARG_ARG 0) + 2 ^ 32 * t.get (STW_MBX_ARG_ARG 1)
      | none => sec.toNat
    (t.wallTime v).stwAnswer g 7 mbxOk [])

end Sys2Proof.Machine
end

