-- ==== Sys2Proof/Machine/Sti.lean ====
section
/-! DEFINITION. The commands of the structure image and the shade swap (R400 to R414, R55, R510). -/

namespace Sys2Proof.Machine

/-- Validate a slot: its MAC step runs on the digest engine (R406). None where the engine is not to be had: the validation waits for
it (R439). -/
def State.validateStep (s : State) (slot : Nat) (step8 : Bool) : Option (Verdict × Option Image) × State :=
  let e := if s.macNeeded slot then s.dgeTake .image else (true, s)
  (if e.1 then some (s.validate slot step8) else none, e.2)

/-- A failed validation at BOOT: STI_REASON, and event 0x0308 where the memory does not fit (R407, R109). -/
def State.bootRefuse (s : State) (v : Verdict) : State :=
  if v.code = 0x21 then (s.stiRefuse v).event 0x0308 0 else s.stiRefuse v

/-- BOOT_IMAGE_VALIDATE (R407, R377), at a boundary: the active image, or the archive where steps 1 to 8 fail. While a MAC step waits for
the digest engine nothing is decided. -/
def execBootImageValidate (s : State) : Out :=
  if !s.atBoundary ∨ s.glb.st ≠ .boot ∨ s.sti.active.isSome then ok s
  else match s.roles with
    | none => ok s
    | some r => match s.validateStep r.act false with
      | (none, t) => ok t
      | (some (_, some im), t) => ok ((t.bootActivate im).checkArchive r.arc)
      | (some (v, none), t) =>
        if 9 < v.code then ok (t.bootRefuse v)
        else match t.validateStep r.arc false with
          | (none, u) => ok u
          | (some (w, none), u) => ok ((u.bootRefuse v).bootRefuse w)
          | (some (_, some im), u) =>
            let s2 := (u.bootRefuse v).flashWrite (.role .fall)
            ok ((((s2.setB STI_STATUS_BOOTFALL true).event 0x0C06 0).bootActivate im).checkArchive r.act)

/-- SHADE_VALIDATE (R408, R510): a write of STI_CMD.VALIDATE. -/
def execShadeValidate (s : State) : Out :=
  if s.glb.st = .boot ∧ s.unconfigured ∧ s.sti.active.isNone then ok (s.set STI_STATUS_SHADE 2)
  else if s.glb.st ≠ .serve then ok ((s.stiRefuse ⟨0x30, 0, 0⟩).logRefusal 0xC)
  else if s.get STI_STATUS_SHADE = 0 then ok (s.stiRefuse ⟨0x31, 0, 0⟩)
  else if s.swapOpen then ok (s.stiRefuse ⟨0x32, 0, 0⟩)
  else ok (((s.updSti fun x => { x with shade := none }).set STI_STATUS_SHADE 2).set STI_STATUS_CHANGED 0)

/-- A write of the role record waits or runs. -/
def State.roleBusy (s : State) : Bool := s.cfl.writes.any fun w => match w with | .role _ => true | _ => false

/-- SHADE_VALIDATION_DONE (R408, R414, R510): the shade is valid or invalid; the image in slot 0 of an unconfigured controller
becomes active with its role record. After an exchange of R414 the new archive is checked too. A MAC step that waits for the digest
engine leaves the validation running. -/
def execShadeValidationDone (s : State) : Out :=
  if s.get STI_STATUS_SHADE ≠ 2 ∨ s.roleBusy then ok s
  else match s.roles with
    | none =>
      if !s.atBoundary then ok s else match s.validateStep 0 true with
      | (none, t) => ok t
      | (some (v, none), t) => ok ((t.set STI_STATUS_SHADE 4).bootRefuse v)
      | (some (_, some im), t) =>
        let s1 := (t.flashWrite (.role .first)).event 0x0C09 0
        ok ((s1.set STI_STATUS_SHADE 0).bootActivate im)
    | some r =>
      let after := fun (t : State) => if s.sti.rollback then t.checkArchive r.arc else t
      match s.validateStep r.shd (!s.sti.rollback) with
      | (none, t) => ok t
      | (some (v, none), t) => ok (after (((t.set STI_STATUS_SHADE 4).stiRefuse v).event 0x0C02 0))
      | (some (_, some im), t) =>
        let s1 := (t.updSti fun x => { x with shade := some im }).set STI_STATUS_CHANGED (changedMask s.img im)
        ok (after ((s1.set STI_STATUS_SHADE 3).event 0x0C01 0))

/-- SWAP (R410, R411): a write of STI_CMD.SWAP with its key. -/
def execSwap (key : BitVec 16) (s : State) : Out :=
  if key ≠ 0x5357 then ok s
  else if s.glb.st ≠ .serve then ok ((s.stiRefuse ⟨0x30, 0, 0⟩).logRefusal 0xC)
  else match s.sti.shade, s.roles with
    | some sh, some _ =>
      if s.get STI_STATUS_SHADE ≠ 3 then ok (s.stiRefuse ⟨0x31, 0, 0⟩)
      else if s.get STI_STATUS_SWAP ≠ 0 then ok (s.stiRefuse ⟨0x32, 0, 0⟩)
      else
        let code := s.swapCode s.img sh
        if code ≠ 0 then ok (s.stiRefuse ⟨code, 0, 0⟩)
        else
          let s1 := s.updSti fun x => { x with
            guardSecs := changedMask s.img sh, guardClasses := guardMask s.img sh, requested := none }
          ok ((s1.set STI_STATUS_SWAP 1).flashWrite (.role .swap))
    | _, _ => ok (s.stiRefuse ⟨0x31, 0, 0⟩)

/-- ROLE_RECORD_COMMITTED (R410): the role record program completes. -/
def execRoleRecordCommitted (s : State) : Out :=
  match s.cfl.op with
  | some (.internal (.role _)) => ok (s.flashDone .verified)
  | _ => ok s

/-- The shade becomes the active image (R412, R54, R63): at the boundary that begins the beat the timer shows, before the
close of that beat is reckoned. DESIGN CHOICE: a bound write of LDG_CEILn that takes effect at the same boundary (R56, R154) loses to the
image's ceiling at BEAT_BOUNDARY, and stands after a SWAP_EFFECT that came before that boundary; the spec orders neither. -/
def State.swapPass (s : State) : State :=
  match s.sti.requested, s.sti.shade with
  | some b, some sh =>
    if s.get STI_STATUS_SWAP ≠ 2 ∨ s.glb.beat < b ∨ s.glb.st ≠ .serve then s
    else
      let old := s.img
      let ext := (old.sec 9).drop 1 ≠ (sh.sec 9).drop 1
      let s0 := if ext then s.sessionQuit 1 else s
      let s1 := s0.rehAbandon
      let s2 := if old.sec 4 ≠ sh.sec 4 then s1.htAbandon else s1
      let s3 := (s2.updSti fun x => { x with
        shade := none, retiring := s.sti.active, releaseBeat := s.glb.beat + 3, requested := none, guardSecs := 0,
        guardClasses := 0, rollback := false }).loadImage sh
      let s4 := if old.table ≠ sh.table then s3.adopt sh else s3
      let s5 := ((s4.set STI_STATUS_SHADE 0).set STI_STATUS_CHANGED 0).set STI_STATUS_SWAP 3
      let s6 := (s5.set64 STI_SWAPBEAT_LO_VALUE STI_SWAPBEAT_HI_VALUE s.beat).set64 STI_GEN_SHD_LO_VALUE STI_GEN_SHD_HI_VALUE 0
      let s7 := (s6.setB STI_STATUS_DONE true).event 0x0C03 0
      let s8 := if s.bit STI_STATUS_DONE then s7 else s7.raise 25
      match s.roles with
      | some r => s8.showPresence.checkArchive r.arc
      | none => s8.showPresence
  | _, _ => s

/-- The outgoing image is released at the end of its span (R55, R412). A swap whose request was held meanwhile counts as requested
at this boundary. -/
def State.releasePass (s : State) : State :=
  if s.sti.retiring.isSome ∧ s.sti.releaseBeat ≤ s.glb.beat then
    let held := decide (s.get STI_STATUS_SWAP = 2) && s.sti.requested.isNone
    let s1 := s.updSti fun x => { x with retiring := none, requested := if held then some (s.glb.beat + 1) else x.requested }
    (if held then s1 else s1.set STI_STATUS_SWAP 0).event 0x0C05 0
  else s

/-- The beat timer shows another beat: what a boundary does stands in the beat that it begins. -/
def State.inBeat (s : State) (b : Nat) : State := s.updGlb fun g => { g with beat := b }

/-- SWAP_EFFECT (R412, R54): the boundary that ends this beat, at its last cycle. BEAT_BOUNDARY makes the same change where no such
command has come before it. -/
def execSwapEffect (s : State) : Out := if s.glb.cycle = 399 then ok ((s.inBeat (s.glb.beat + 1)).swapPass.inBeat s.glb.beat) else ok s

/-- IMAGE_RELEASE (R55): the boundary that ends this beat, at its last cycle; else BEAT_BOUNDARY does it. -/
def execImageRelease (s : State) : Out := if s.glb.cycle = 399 then ok ((s.inBeat (s.glb.beat + 1)).releasePass.inBeat s.glb.beat) else ok s

/-- SWAP_CANCEL (R413): a write of STI_CMD.CANCEL before the role record program completes. -/
def execSwapCancel (s : State) : Out :=
  if s.get STI_STATUS_SWAP ≠ 1 then ok s
  else ok ((s.swapClear.stiReason ⟨0x3C, 0, 0⟩).updCfl Cfl.dropSwap).flashNext

/-- ROLLBACK (R414): a write of STI_CMD.ROLLBACK with its key. -/
def execRollback (key : BitVec 16) (s : State) : Out :=
  if key ≠ 0x5357 then ok s
  else if s.glb.st ≠ .serve then ok ((s.stiRefuse ⟨0x30, 0, 0⟩).logRefusal 0xC)
  else if s.swapOpen then ok (s.stiRefuse ⟨0x32, 0, 0⟩)
  else match s.roles with
    | none => ok (s.stiRefuse ⟨0x31, 0, 0⟩)
    | some r =>
      let s0 := s.checkArchive r.arc
      if !s.archOk r.arc then ok (s0.stiRefuse ⟨0x31, 0, 0⟩)
      else
        let s1 := (s0.updSti fun x => { x with shade := none, rollback := true }).flashWrite (.role .exchange)
        let s2 := (s1.set STI_STATUS_SHADE 2).set STI_STATUS_CHANGED 0
        ok ((s2.set64 STI_GEN_SHD_LO_VALUE STI_GEN_SHD_HI_VALUE (leAt (s.slotBytes r.arc) 16 8)).event 0x0C07 0)

end Sys2Proof.Machine
end

