-- ==== Sys2Proof/Machine/Tiles.lean ====
section
/-! DEFINITION. The commands of the dispatcher and the tiles (R346 to R369). -/

namespace Sys2Proof.Machine

/-- The result code of a submission: the first failed check in the order of the codes; 1 accepts (R356). -/
def State.submitCode (s : State) (g : Agent) (b : List Byte) (tile : Nat) : Nat :=
  let ty := leAt b 0 1
  if ¬(ty = 3 ∨ ty = 7 ∨ ty = 8 ∨ ty = 9) then 2
  else if ¬(leAt b 1 1 < 16 ∧ leAt b 10 1 < 4 ∧ leAt b 11 1 = 0) then 3
  else if s.glb.st ≠ .serve then 4
  else if !s.inService tile then 5
  else if 256 ≤ (s.dsp.tasks.filter fun k => k.tile = tile && k.st = .ready && k.prio = min 3 (leAt b 1 1 % 8)).length then 6
  else if 64 ≤ (s.dsp.tasks.filter fun k => k.producer = some g).length then 7
  else 1

/-- TASK_SUBMIT (R356, R355): a write of DSP_SUB_GO. -/
def execTaskSubmit (g : Agent) (tile : BitVec 6) (s : State) : Out :=
  if !s.answers g then ok s else
  let b := ((List.range 8).map fun n => leBytes 4 (s.get (DSP_SUB_BYTES n g))).flatten
  let code := s.submitCode g b tile.toNat
  if code ≠ 1 then ok ((s.set (DSP_SUB_ST_RESULT g) code).event 0x0A0D (srcAgent g.num))
  else
    let tid := tile.toNat + 64 * s.dsp.fresh
    let k : Task := ⟨tid, leAt b 0 1, min 3 (leAt b 1 1 % 8), bitOf (leAt b 1 1) 3, leAt b 2 2, 0, false, leAt b 10 1,
      leAt b 12 4, leAt b 16 8, leAt b 24 8, some g, tile.toNat, .ready, s.dsp.order, false, false, 0, false, false, false, 0⟩
    let s1 := s.addTask k
    let s2 := (s1.set (DSP_SUB_ST_RESULT g) 1).set (DSP_SUB_TID_TID g) tid
    ok (if k.count = 0 then s2.endTask k 0 else s2)

/-- A tile runs tasks of pools that it belongs to (R351); a queue tile flushes and sends the entries of its share. -/
def Image.runsOn (i : Image) (k : Task) (t : Nat) : Bool := k.ty = 1 || k.ty = 2 || bitOf (i.pool k.pool) t

/-- The image that governs the next beat, fixed once the seam begins (R53, R54). -/
def State.nextImage (s : State) : Image :=
  match s.sti.requested, s.sti.shade with
  | some b, some sh =>
    if s.get STI_STATUS_SWAP = 2 ∧ b ≤ s.glb.beat + 1 ∧ s.glb.st = .serve then sh else s.img
  | _, _ => s.img

/-- The image that governs what a shard picks now: in the seam it picks for the next beat (R53). -/
def State.pickImage (s : State) : Image := if s.inSeam then s.nextImage else s.img

/-- A ready task stands on its list, which holds 256 (R346). DESIGN CHOICE: further ready tasks wait for a place, oldest first, and
are neither picked nor stolen. -/
def State.listed (s : State) (k : Task) : Bool :=
  (s.dsp.tasks.filter fun x => x.tile = k.tile && x.st = .ready && x.prio = k.prio && decide (x.order < k.order)).length < 256

/-- The ready tasks of a tile at its highest ready level (R357), those apart that a pick has been prepared of. -/
def State.topReady (s : State) (t : Nat) : List Task :=
  let l := s.dsp.tasks.filter fun k => k.tile = t && k.st = .ready && s.listed k && !(s.dsp.prep.any fun x => x.1 = k.tid)
    && (s.pickImage.runsOn k t || s.poolShort k.pool)
  let p := l.foldl (fun m k => max m k.prio) 0
  l.filter fun k => k.prio = p

/-- The oldest of a list of tasks. -/
def oldestTask : List Task → Option Task
  | [] => none
  | k :: ks => match oldestTask ks with
    | none => some k
    | some q => some (if q.order < k.order then q else k)

/-- The pick of R357: affinity first, then age. -/
def State.pick (s : State) (t e : Nat) : Option Task :=
  match oldestTask ((s.topReady t).filter fun k => k.lvalid && k.last = e) with
  | some k => some k
  | none => oldestTask (s.topReady t)

/-- A task is issued to an engine (R48, R357): the slice belongs to this beat. -/
def State.issueTask (s : State) (k : Task) (e : Nat) : State :=
  s.setTask { k with st := .running e, last := e, lvalid := true, issued := s.glb.beat }

/-- An engine is free: it runs no task, and no pick is prepared for it. -/
def State.engineFree (s : State) (e : Nat) : Bool :=
  !(s.dsp.tasks.any fun k => k.st = .running e) && !(s.dsp.prep.any fun x => x.2 = e)

/-- Tasks that a tile's shard has handed out in this beat-clock cycle. -/
def State.handedNow (s : State) (t : Nat) : Nat :=
  let h := Store.get 0 s.dsp.handed t
  if h / 8 = s.cycleNow then h % 8 else 0

/-- It is an engine's turn at its shard (R358): the lower-numbered engines of the tile are busy, and the shard has handed out fewer
tasks than a beat-clock cycle has fabric cycles, four. -/
def State.engineTurn (s : State) (t e : Nat) : Bool :=
  s.engineFree (16 * t + e) && ((List.range e).all fun i => !s.engineFree (16 * t + i)) && decide (s.handedNow t < 4)

/-- The shard of a tile hands a task to an engine; in the seam the pick is prepared, and the next boundary issues it (R53, R358). -/
def State.handTask (s : State) (k : Task) (t e : Nat) : State :=
  let s1 := s.updDsp fun d => { d with handed := Store.put 0 d.handed t (8 * s.cycleNow + s.handedNow t + 1) }
  if s.inSeam then s1.updDsp fun d => { d with prep := d.prep ++ [(k.tid, e)] } else s1.issueTask k e

/-- A free engine of a tile takes its pick, if it is its turn (R357, R358). -/
def State.shardPick (s : State) (t e : Nat) : State :=
  if !s.engineTurn t e then s
  else match s.pick t (16 * t + e) with
    | none => s
    | some k => s.handTask k t (16 * t + e)

/-- TASK_PICK (R53, R357, R358): a free engine of a tile takes a ready task. -/
def execTaskPick (tile : BitVec 6) (engine : BitVec 4) (s : State) : Out := ok (s.shardPick tile.toNat engine.toNat)

/-- The picks prepared in the seam are issued at the start of the beat, those of tasks that are still ready (R53, R364). -/
def State.issuePrepared (s : State) : State :=
  s.dsp.prep.foldl (fun t x => match t.taskOf x.1 with
    | some k => if k.st = .ready ∧ k.tile = x.2 / 16 then t.issueTask k x.2 else t
    | none => t) (s.updDsp fun d => { d with prep := [] })

/-- The mesh neighbours of a tile (R346, R359). -/
def neighbours (t : Nat) : List Nat :=
  (if t % 8 = 0 then [] else [t - 1]) ++ (if t % 8 = 7 then [] else [t + 1])
    ++ (if t < 8 then [] else [t - 8]) ++ (if 56 ≤ t then [] else [t + 8])

/-- The better of two eligible tasks: priority, then age, then the lowest tile (R359). -/
def betterSteal (a b : Task) : Task :=
  if b.prio < a.prio then a else if a.prio < b.prio then b
  else if a.order < b.order then a else if b.order < a.order then b
  else if a.tile ≤ b.tile then a else b

/-- A task that a thief may take (R359). -/
def State.stealable (s : State) (t : Nat) (k : Task) : Bool :=
  (neighbours t).contains k.tile && k.st = .ready && s.listed k && decide (4 ≤ k.prio) && !k.pin
    && (bitOf (s.img.pool k.pool) t || s.poolShort k.pool) && !k.moved && !(s.dsp.prep.any fun x => x.1 = k.tid)

/-- A tile steals (R359): stealing is allowed, it has a free engine and no ready task, and no steal of its own is in flight. -/
def State.mayStealAt (s : State) (t : Nat) : Bool :=
  s.bit DSP_CTRL_STEAL_EN && s.inService t && !(s.dsp.tasks.any fun k => k.tile = t && k.st = .ready)
    && !(s.dsp.tasks.any fun k => k.st = .moving t)
    && decide ((s.dsp.tasks.filter fun k => k.tile = t && k.st.isRunning).length < 16)

/-- The task that a thief requests: the best of the eligible ones (R359). -/
def State.stealChoice (s : State) (t : Nat) : Option Task :=
  match s.dsp.tasks.filter (s.stealable t) with
  | [] => none
  | k :: ks => some (ks.foldl betterSteal k)

/-- TASK_STEAL (R359, R360): a tile requests a neighbour's task. `own` is the engine of the owner for which the owning shard picks in
the same fabric cycle: its pick comes first, and where it takes the task the steal fails. -/
def execTaskSteal (thief : BitVec 6) (own : Option (BitVec 4)) (s : State) : Out :=
  let t := thief.toNat
  if !s.mayStealAt t then ok s
  else match s.stealChoice t with
    | none => ok s
    | some v =>
      let s1 := match own with
        | some e => s.shardPick v.tile e.toNat
        | none => s
      if s1.stealable t v && decide (s1.taskOf v.tid = some v) then
        ok ((s1.setTask { v with st := .moving t }).count DSP_STEALCNT_STEALS 1)
      else ok s1

/-- TASK_STEAL_DELIVERY (R359, R360, R365): the task arrives at the thief. -/
def execTaskStealDelivery (thief : BitVec 6) (s : State) : Out :=
  match s.dsp.tasks.find? fun k => k.st = .moving thief.toNat with
  | some k => ok (s.makeReady k (s.readyTile { k with tile := thief.toNat }) true)
  | none => ok s

/-- A task with work left returns to a ready list (R50, R365). -/
def State.yieldTask (s : State) (k : Task) : State :=
  s.makeReady k (s.readyTile k) false

/-- A wait ends in a timeout: the task becomes ready with TIMEOUT indicated (R361, R362). -/
def State.waitTimeout (s : State) (k : Task) : State :=
  (((s.yieldTask { k with tmo := true }).count DSP_TMOCNT_TIMEOUTS 1).event 0x0A09 (srcTile k.tile)).raise 21

/-- Every slice issued in beat n has ended by the end of beat n + 3 (R50): the tasks go back to their ready lists. -/
def State.slicesEnd (s : State) : State :=
  (s.dsp.tasks.filter fun k => k.st.isRunning && decide (k.issued + 4 ≤ s.glb.beat)).foldl
    (fun t k => if k.cancel then t.endTask k 1 else t.yieldTask k) s

/-- A task that read an uncorrectable word of a tile-store buffer fails; the controller issues a task of its own again (R348). -/
def State.failTask (s : State) (k : Task) : State :=
  let s1 := (s.endTask k 3).count (TIL_TSERR_UNCORR k.tile) 1
  if k.producer.isSome then s1 else s1.addTask { k with tile := s.readyTile k, lvalid := false, moved := false, tmo := false }

/-- A task has done its work: DONE, or TIMEOUT where that was indicated (R361, R364). -/
def State.finishTask (s : State) (k : Task) : State := s.endTask k (if k.tmo then 2 else 0)

/-- TASK_SLICE_END (R50, R348, R361, R364): the slice of a running task ends. -/
def execTaskSliceEnd (tid : Word) (r : SliceResult) (s : State) : Out :=
  match s.taskOf tid.toNat with
  | none => ok s
  | some k =>
    if !k.st.isRunning then ok s
    else if k.cancel then ok (s.endTask k 1)
    else match r with
      | .done => ok (s.finishTask k)
      | .failed => ok (s.failTask k)
      | .yield => ok (s.yieldTask k)
      | .corrected n last =>
        let t := s.count (TIL_TSERR_CORR k.tile) n.toNat
        ok (if last then t.finishTask k else t.yieldTask k)
      | .wait holds on =>
        if holds then ok (s.yieldTask k)
        else if k.waitBeats = 0 then ok (s.waitTimeout k)
        else if 512 ≤ (s.dsp.tasks.filter fun x => x.tile = k.tile && x.st = .waiting).length then
          ok (s.yieldTask k)
        else ok (s.setTask { k with st := .waiting, waitStart := s.glb.beat, waitOp := on ≠ .met, waitLow := on = .layered, tmo := false })

/-- The beat at whose start a wait ends (R58, R361, R362): its beats, and those in which the lower layer of the awaited operation was
in recovery throughout, up to ten times its beats. -/
def Task.waitEnd (k : Task) (recovery : Nat) : Nat :=
  k.waitStart + min (k.waitBeats + (if k.waitLow then recovery else 0)) (10 * k.waitBeats) + 1

/-- The timeout of a wait has come (R362). -/
def State.waitDue (s : State) (k : Task) (recovery : Nat) : Bool := decide (k.waitEnd recovery ≤ s.glb.beat)

/-- WAIT_CONDITION_MET (R361, R362): the awaited condition is met; where a lower layer concludes in the beat of the timeout, the timeout
is suppressed. -/
def execWaitConditionMet (tid : Word) (recovery : Word) (s : State) : Out :=
  match s.taskOf tid.toNat with
  | none => ok s
  | some k =>
    if k.st ≠ .waiting then ok s
    else
      let s1 := if k.waitLow && decide (k.waitEnd recovery.toNat = s.glb.beat) then (s.count DSP_TMOCNT_SUPPRESSED 1).event 0x0A0A (srcTile k.tile) else s
      if k.cancel then ok (s1.endTask k 1)
      else ok (s1.yieldTask k)

/-- WAIT_TIMEOUT (R361, R362): the wait's limit is reached. -/
def execWaitTimeout (tid : Word) (recovery : Word) (s : State) : Out :=
  match s.taskOf tid.toNat with
  | none => ok s
  | some k =>
    if k.st = .waiting ∧ s.waitDue k recovery.toNat then
      if k.cancel then ok (s.endTask k 1) else ok (s.waitTimeout k)
    else ok s

/-- TASK_CANCEL (R363, R364): an agent cancels its own task. A timeout, a steal or a pick of the same fabric cycle comes after the
cancel, which wins. -/
def execTaskCancel (g : Agent) (tid : Word) (met : CancelMet) (s : State) : Out :=
  let s1 := match s.taskOf tid.toNat with
    | none => s
    | some k => if s.answers g && decide (k.producer = some g) then s.cancelTask k else s
  match met with
  | .nothing => ok s1
  | .timeout r => execWaitTimeout tid r s1
  | .steal th => execTaskSteal th none s1
  | .pick t e => execTaskPick t e s1

/-- COMPLETION_POP (R356): the head of the agent's completion FIFO is removed. -/
def execCompletionPop (g : Agent) (s : State) : Out :=
  if !s.answers g then ok s else
  ok (s.updDsp fun d => { d with cpl := d.cpl.set g ((d.cpl.get g).drop 1) })

/-- TILE_QUIESCE (R365, R366): a write of TIL_CMD.QUIESCE. -/
def execTileQuiesce (t : BitVec 6) (s : State) : Out := if s.domOn t.toNat then ok (s.askQuiesce t.toNat) else ok s

/-- A running roll loads a tile that it has taken out (R367, R369). -/
def State.rollLoads (s : State) (n : Nat) : Bool :=
  match s.dsp.roll with
  | some r => r.took.contains n && !r.done.contains n && !s.bit DSP_STATUS_ROLL_PAUSED
  | none => false

/-- TILE_OUT (R365 step 4): the tile holds no task and no entry; a roll loads it at once (R367 step 2). -/
def execTileOut (t : BitVec 6) (s : State) : Out :=
  let n := t.toNat
  if s.tile n = 1 ∧ !s.dsp.back.contains n ∧ s.shareOcc n = 0 ∧ !(s.dsp.tasks.any fun k => k.tile = n) then
    let s1 := (s.set (TIL_STATUS_STATE n) 2).event 0x0A02 (srcTile n)
    if s.rollLoads n then
      ok ((s1.set (TIL_STATUS_STATE n) 3).updDsp fun d => { d with prevMc := Store.put 0 d.prevMc n (s.get (TIL_MCVER_VERSION n)) })
    else ok s1
  else ok s

/-- QUIESCE_TIMEOUT (R366): the quiesce is abandoned; the tile returns at the next boundary. -/
def execQuiesceTimeout (t : BitVec 6) (s : State) : Out :=
  let n := t.toNat
  if s.tile n = 1 ∧ s.expired (Store.get 0 s.dsp.since n - 1) (s.get DSP_CTRL_QUIESCE_BEATS) ∧ !s.dsp.back.contains n then
    ok ((s.updDsp fun d => { d with back := d.back ++ [n] }).event 0x0A04 (srcTile n))
  else ok s

/-- A tile that is out comes back; in GRACE and DRAIN it stays out (R369). -/
def State.tileBack (s : State) (n : Nat) : State :=
  if s.glb.st = .grace ∨ s.glb.st = .drain then (s.set (TIL_STATUS_STATE n) 2).updDsp fun d => { d with kept := d.kept ++ [n] }
  else (s.set (TIL_STATUS_STATE n) 2).updDsp fun d => { d with back := d.back ++ [n] }

/-- TILE_RETURN (R366, R369): a write of TIL_CMD.RETURN. -/
def execTileReturn (t : BitVec 6) (s : State) : Out :=
  let n := t.toNat
  if s.domOn n ∧ s.tile n = 2 ∧ !s.dsp.back.contains n ∧ !s.dsp.kept.contains n then ok (s.tileBack n) else ok s

/-- MICROCODE_ROLL (R367): a write of DSP_ROLL.GO with its MAXOUT. -/
def execMicrocodeRoll (maxout : BitVec 5) (s : State) : Out :=
  let s0 := if 1 ≤ maxout.toNat ∧ maxout.toNat ≤ 24 then s.set DSP_ROLL_MAXOUT maxout.toNat else s
  match s.stw.staged with
  | some (2, slot) =>
    if s.glb.st ≠ .serve then ok ((s0.set DSP_ROLLST_RESULT 5).logRefusal 0xA)
    else if s.dsp.roll.isSome then ok (s0.set DSP_ROLLST_RESULT 5)
    else
      let s1 := s0.updDsp fun d => { d with roll := some ⟨[], [], s.stw.stagedVer, slot, false, 1⟩ }
      ok (State.rollStep 64 ((s1.set DSP_ROLLST_RESULT 1).set DSP_ROLLST_DONE 0))
  | _ => ok (if s.glb.st = .serve then s0.set DSP_ROLLST_RESULT 5 else (s0.set DSP_ROLLST_RESULT 5).logRefusal 0xA)

/-- ROLL_ABORT (R368): a write of DSP_ROLL.ABORT. -/
def execRollAbort (s : State) : Out :=
  match s.dsp.roll with
  | none => ok s
  | some r => ok ((s.rollHalt.updDsp fun d => { d with roll := some { r with stopped := true, result := 4 } }).set DSP_ROLLST_RESULT 4)

/-- TILE_MICROCODE_LOADED (R367): a tile's load completes and its self-test begins. -/
def execTileMicrocodeLoaded (t : BitVec 6) (s : State) : Out :=
  if s.tile t.toNat = 3 then ok (s.set (TIL_STATUS_STATE t.toNat) 4) else ok s

/-- The roll stops on a failed self-test (R368). -/
def State.rollStop (s : State) : State :=
  match s.dsp.roll with
  | none => s
  | some r => ((s.rollHalt.updDsp fun d => { d with roll := some { r with stopped := true, result := 3 } }).set DSP_ROLLST_RESULT 3).event
      0x0A07 0

/-- TILE_SELF_TEST_DONE (R367, R368). -/
def execTileSelfTestDone (t : BitVec 6) (pass : Bool) (s : State) : Out :=
  let n := t.toNat
  if s.tile n ≠ 4 then ok s
  else if s.dsp.retried.contains n then
    let s1 := s.updDsp fun d => { d with retried := d.retried.erase n }
    if pass then ok ((s1.set (TIL_MCVER_VERSION n) (Store.get 0 s.dsp.prevMc n)).tileBack n |>.rollStop)
    else ok (((s1.set (TIL_STATUS_STATE n) 5).event 0x0A08 (srcTile n)).rollStop)
  else if pass then
    match s.dsp.roll with
    | some r =>
      ok ((((s.set (TIL_MCVER_VERSION n) r.version).set DSP_ROLLST_DONE (s.get DSP_ROLLST_DONE + 1)).updDsp fun d =>
        { d with mcFrom := Store.put 0 d.mcFrom n (r.slot + 1), roll := some { r with done := r.done ++ [n] } }).tileBack n)
    | none => ok (s.tileBack n)
  else
    ok (((s.set (TIL_STATUS_STATE n) 3).set DSP_ROLLST_FTILE n).updDsp fun d => { d with retried := d.retried ++ [n] })

/-- TILE_SELF_TEST_BOOT (R349): in BOOT every tile is self-tested; bit t of the operand says that tile t passed. A failed tile stays
failed. -/
def execTileSelfTestBoot (passed : BitVec 64) (s : State) : Out :=
  if s.glb.st ≠ .boot then ok s
  else
    let mc := match s.roles with | some r => r.mc | none => 0
    let s1 := (List.range 64).foldl (fun t n =>
      (t.set (TIL_STATUS_STATE n) (if passed.getLsbD n && decide (s.tile n ≠ 5) then 0 else 5)).set (TIL_MCVER_VERSION n) (Config.microcodeVersion mc)) s
    let s2 := s1.updDsp fun d => { d with tested := true, mcFrom := (List.range 64).map fun n => (n, mc + 1) }
    let s3 := s2.moveBuckets
    if ones 64 passed.toNat < 40 then ok (s3.event 0x0A0C 0) else ok s3

end Sys2Proof.Machine
end

