-- ==== Sys2Proof/Machine/Access.lean ====
section
/-! DEFINITION. The commands of the control space: how an access of an agent behaves (R470 to R485). -/

namespace Sys2Proof.Machine

/-- The first offset of the configuration flash window. -/
def windowBase : Nat := 0x4000000

/-- The offset is assigned for the agent (R470, R471): the flash window, or a register with at least one field. The steward has no
MSI-X table. -/
def assigned (g : Agent) (off : Nat) : Bool :=
  windowBase ≤ off || !((fieldsAt g off).isEmpty || (off / 0x10000 = 0x20 && decide (g = .stw)))

/-- An access that changes nothing: counted, with event 0x0101 (R472). -/
def State.strayAccess (s : State) (g : Agent) : State := s.accErr.event 0x0101 (srcAgent g.num)

/-- UNASSIGNED_ACCESS (R472, R473): an access to an unassigned offset, or a register write without every byte enable. -/
def execUnassignedAccess (g : Agent) (off : BitVec 27) (write : Bool) (full : Bool) (s : State) : Out :=
  if !s.answers g then ok s else
  let o := off.toNat
  if windowBase ≤ o then ok s
  else if write then if assigned g o ∧ full then ok s else ok (s.strayAccess g)
  else if assigned g o then ok s else ok ((s.emit (.regData g o 0)).strayAccess g)

/-- OFF_DOMAIN_ACCESS (R479): a read gives 0, a write is ignored, and no event is recorded. -/
def execOffDomainAccess (g : Agent) (off : BitVec 27) (write : Bool) (s : State) : Out :=
  if !s.answers g then ok s else
  if assigned g off.toNat ∧ s.blockOff off.toNat then ok ((if write then s else s.emit (.regData g off.toNat 0)).accErr) else ok s

/-- A read of a latching _LO register: the upper half of the same instant goes into the agent's shadow (R64, R102). -/
def State.latchRead (s : State) (g : Agent) (off : Nat) (wide : Bool) : State :=
  let hi := s.liveHi off
  let s1 := (s.set (shadowFld g (off + 4)) hi).emit (.regData g off (s.word g off))
  if wide then s1.emit (.regData g (off + 4) hi) else s1

/-- A data read in the flash window (R416, R417, R426): all ones while domain 95 is off; CMD3 gives the agent's status word; an execute-only region gives ones, counted with
event 0x0D03. -/
def State.windowRead (s : State) (g : Agent) (o : Nat) : State :=
  let sec := o / 65536
  let off := windowBase + o
  if !s.domOn 95 then s.emit (.regData g off 0xFFFFFFFF)
  else if o / 4 * 4 = 0x3FFFFFC then s.emit (.regData g off (s.word g 0xC0008))
  else if readsOnes sec then
    let s1 := s.emit (.regData g off 0xFFFFFFFF)
    if executeOnly sec then (s1.count CFL_XOREAD_COUNT 1).event 0x0D03 (srcAgent g.num) else s1
  else s.emit (.regData g off (ofLe (s.cfl.read (o / 4 * 4) 4)))

/-- A read of STW_MBX_STAT: the owner's read of a result releases the mailbox; the other host reads BUSY. -/
def State.mbxRead (s : State) (g : Agent) : State :=
  match s.stw.mbxOwner with
  | none => s.emit (.regData g 0xF0104 (s.word g 0xF0104))
  | some o =>
    if o = g then
      let s1 := s.emit (.regData g 0xF0104 (s.word g 0xF0104))
      if s.bit STW_MBX_STAT_DONE then s1.updStw fun w => { w with mbxOwner := none } else s1
    else if g = .stw then s.emit (.regData g 0xF0104 (s.word g 0xF0104))
    else s.emit (.regData g 0xF0104 mbxBusy)

/-- A 32-bit read with every effect it has. -/
def State.readReg (s : State) (g : Agent) (off : Nat) : State :=
  if windowBase ≤ off then s.windowRead g (off - windowBase)
  else if !assigned g off then (s.emit (.regData g off 0)).strayAccess g
  else if s.blockOff off then (s.emit (.regData g off 0)).accErr
  else if latchLo.contains off then s.latchRead g off false
  else if off = 0xF0104 then s.mbxRead g
  else
    (fieldsAt g off).foldl (fun t fb => if fb.1.acc = .rc then t.set fb.1 0 else t) (s.emit (.regData g off (s.word g off)))

/-- The next state of a meaning. -/
def stateOf (s : State) : Out → State
  | .next t => t
  | _ => s

/-- Perform an action of a write where its bit is 1. -/
def State.act (s : State) (b : Bool) (m : State → Out) : State := if b then stateOf s (m s) else s

/-- A 32-bit read of any register, the row of SEQ_SNAP_DATA among them (R399). -/
def State.readAny (s : State) (g : Agent) (off : Nat) : State :=
  if off = 0xA0040 then s.act true (execSnapDataRead g) else s.readReg g off

/-- An 8-byte read (R473): both halves of a latching pair from one instant, else two reads, the lower offset first. DESIGN CHOICE:
an 8-byte read of a pair whose block is off is one access and is counted once. -/
def State.readWide (s : State) (g : Agent) (off : Nat) : State :=
  if latchLo.contains off then
    if s.blockOff off then ((s.emit (.regData g off 0)).emit (.regData g (off + 4) 0)).accErr else s.latchRead g off true
  else (s.readAny g off).readAny g (off + 4)

/-- LO_READ_LATCH (R64, R94, R473): a read of a latching _LO register; `wide` is an 8-byte read, of any offset. -/
def execLoReadLatch (g : Agent) (off : BitVec 27) (wide : Bool) (s : State) : Out :=
  if !s.answers g then ok s else
  if wide then ok (s.readWide g off.toNat)
  else if !latchLo.contains off.toNat then ok s
  else if s.blockOff off.toNat then ok ((s.emit (.regData g off.toNat 0)).accErr)
  else ok (s.latchRead g off.toNat false)

/-- READ_CLEAR (R477, and any read): the word is returned, and RC fields clear for every agent. A read of SEQ_SNAP_DATA is a row of
its own (R399). -/
def execReadClear (g : Agent) (off : BitVec 27) (s : State) : Out :=
  if !s.answers g then ok s else
  ok (s.readAny g off.toNat)

/-- GLB_LOCK_SET (R483). -/
def execGlbLockSet (g : Agent) (s : State) : Out :=
  if !s.answers g then ok s else ok (s.set (GLB_LOCK_LOCK g) 1)

/-- MSIX_MESSAGE_SEND (R481): a held message is sent once the link can carry it, a pending one once its vector is unmasked. -/
def execMsixMessageSend (p : Port) (v : BitVec 6) (s : State) : Out :=
  let n := v.toNat
  if (s.irq.held.get p).contains n ∧ s.hp.up.get p = true then
    ok ((s.updIrq fun i => { i with held := i.held.set p ((i.held.get p).erase n) }).sendMsix p n)
  else if bitOf (s.irq.pba.get p) n ∧ s.get (MSIX_CTL_MASK n p.agent) = 0 ∧ s.irq.funcMask.get p = false then
    ok ((s.updIrq fun i => { i with pba := i.pba.set p (clrBit (i.pba.get p) n) }).sendMsix p n)
  else ok s

/-- The actions of a write in the blocks PQ, CCH, LDG, in ascending bit order (R474). -/
def State.actPersist (s : State) (g : Agent) (off : Nat) (w : Word) : State :=
  let v := w.toNat
  let port := fun (n : Nat) => if n = 0 then Port.pa else Port.pb
  if off = 0x10100 ∨ off = 0x10200 then s.act true (execStampLoWrite g (port (off / 0x100 % 16 - 1)) w)
  else if off = 0x10104 ∨ off = 0x10204 then s.act true (execStampHiWrite g (port (off / 0x100 % 16 - 1)) w none)
  else if 0x10040 ≤ off ∧ off < 0x10060 then
    s.act true (execPqBindWrite (port ((off - 0x10040) / 16)) (BitVec.ofNat 2 (off / 4)) w)
  else if off = 0x20038 then s.act (bitOf v 31) (execRetireCommand (BitVec.ofNat 5 v))
  else if off = 0x20054 then s.act true (execXlateStart w)
  else if off = 0x30090 then s.act (bitOf v 0) execRehearsalGo
  else if off = 0x30094 then
    (s.act (bitOf v 2) (execBankRelease (BitVec.ofNat 2 v))).act (bitOf v 3) (execBankReleaseCancel (BitVec.ofNat 2 v))
  else s

/-- The actions of a write in the blocks CTL and VLT. What the controller finds on a module that ADD of VLT_MODCMD names comes from
outside: here it is left open, and the row FLASH_MODULE_ADD carries it. -/
def State.actEnergy (s : State) (off : Nat) (w : Word) : State :=
  let v := w.toNat
  let low : BitVec 16 := BitVec.ofNat 16 v
  if off = 0x40008 then s.act true (execSetpointWrite 0 w)
  else if off = 0x4000C then s.act true (execSetpointWrite 1 w)
  else if off = 0x40010 then s.act true (execSetpointWrite 2 w)
  else if off = 0x40044 then (s.act (bitOf v 0) execHealthTestGo).act (bitOf v 1) execHealthTestAbort
  else if off = 0x40054 then s.act (bitOf v 8) execBfRetry
  else if off = 0x40058 then s.act (bitOf v 2) (execEqualiseGo (BitVec.ofNat 2 v))
  else if off = 0x60014 then
    let m : BitVec 2 := BitVec.ofNat 2 v
    let n := s.glb.free
    let s1 := s.act (bitOf v 2) (execFlashModuleRelease m)
    let s2 := if bitOf v 3 then s1.draw.2.act true (execFlashModuleAdd m (Config.paramPages n m) (Config.factoryMarks n m)) else s1
    s2.act (bitOf v 4) (execFlashModuleCancel m)
  else if off = 0x6003C then s.act true (execVaultFormat low (bitOf v 31))
  else if off = 0x60050 then s.act true (execRangeIndexWrite (BitVec.ofNat 23 v))
  else if off = 0x60068 then s.act true (execVaultEmpty low (bitOf v 31))
  else s

/-- The actions of a write in the blocks MLK and MTX; clearing EN of either ends what it governs (R295, MTX_CTRL.EN). -/
def State.actMirror (s : State) (off : Nat) (w : Word) : State :=
  let v := w.toNat
  if off = 0x70004 then if bitOf v 0 then s else (s.sessionEnd 6).linkIdle
  else if off = 0x70008 then
    ((s.act (bitOf v 0) execLinkRetrainCommand).act (bitOf v 1) execInjectCrcError).act (bitOf v 2)
      (execInjectLaneErrors (BitVec.ofNat 4 (v / 16)) (BitVec.ofNat 6 (v / 256)))
  else if off = 0x80004 then if bitOf v 0 then s else s.sessionQuit 1
  else if off = 0x8004C then s.act (bitOf v 31) (execAdoptedRegionRelease (BitVec.ofNat 16 v))
  else if off = 0x80064 then
    ((s.act (bitOf v 0) execSessionEndCommand).act (bitOf v 1) execQuarantineClear).act (bitOf v 2) execResyncCommand
  else s

/-- The actions of a write in the blocks DSP, SEQ, STI and TIL. -/
def State.actControl (s : State) (g : Agent) (off : Nat) (w : Word) : State :=
  let v := w.toNat
  let key : BitVec 16 := BitVec.ofNat 16 (v / 65536)
  let rail : BitVec 6 := BitVec.ofNat 6 v
  let tile : BitVec 6 := BitVec.ofNat 6 ((off - 0x100000) / 0x4000)
  if off = 0x90008 then (s.act (bitOf v 0) (execMicrocodeRoll (BitVec.ofNat 5 (v / 256)))).act (bitOf v 1) execRollAbort
  else if off = 0x90030 then s.act (bitOf v 31) (execTaskSubmit g rail)
  else if off = 0x90040 then s.act (bitOf v 31) (execCompletionPop g)
  else if off = 0x90044 then s.act true (execTaskCancel g w .nothing)
  else if off = 0xA0008 then
    (((s.act (bitOf v 8) (execRepower rail)).act (bitOf v 9) (execManualRailOn rail)).act (bitOf v 10)
      (execManualRailOff rail)).act (bitOf v 11) (execWarningCountClear rail)
  else if off = 0xB0008 then
    (((s.act (bitOf v 0) execShadeValidate).act (bitOf v 1) (execSwap key)).act (bitOf v 2) (execRollback key)).act
      (bitOf v 3) execSwapCancel
  else if 0x100000 ≤ off ∧ off < 0x200000 ∧ off % 0x4000 = 8 then
    (s.act (bitOf v 0) (execTileQuiesce tile)).act (bitOf v 1) (execTileReturn tile)
  else s

/-- The key operation that a write of DGE_KEYCMD names (Table: DGE_KEYCMD). -/
def State.actKey (s : State) (g : Agent) (op : Nat) (slot : BitVec 5) (key : BitVec 16) : State :=
  if op = 1 then s.act true (execImport g slot key)
  else if op = 2 then s.act true (execExport g slot key)
  else if op = 3 then s.act true (execLock g slot key)
  else if op = 4 then s.act true (execErase g slot key)
  else if op = 5 then s.act true (execCompare g slot key)
  else if op = 6 then s.act true (execLoadescrow g key)
  else if op = 7 then s.act true (execKeyOpSeven g key)
  else s

/-- The mailbox command of a host's write of STW_MBX_CMD. A code that the table does not name has no stated answer: its result
code is a free value. -/
def State.actMailbox (s : State) (p : Port) (op : Nat) : State :=
  if op = 0 then s
  else if op = 1 then s.act true (execGetVersions (some p))
  else if op = 2 then s.act true (execUpdateBegin (some p) 0)
  else if op = 3 then s.act true (execUpdateData (some p) 0 [])
  else if op = 4 then s.act true (execUpdateEnd (some p))
  else if op = 5 then s.act true (execUpdateCancel (some p))
  else if op = 6 then s.act true (execActivateFw (some p))
  else if op = 7 then s.act true (execSetWalltime (some p) 0)
  else s.stwCommand (some p) op fun t => let d := t.draw; d.2.stwAnswer (some p) op (d.1 % 16) []

/-- The actions of a write in the blocks CFL, DGE, EVR and STW. -/
def State.actTrust (s : State) (g : Agent) (off : Nat) (w : Word) : State :=
  let v := w.toNat
  let key : BitVec 16 := BitVec.ofNat 16 (v / 65536)
  let slot : BitVec 5 := BitVec.ofNat 5 (v / 256)
  if off = 0xC0010 then s.act (bitOf v 1) (execBootSelect g (bitOf v 0) key)
  else if off = 0xC0014 then s.act true (execCompatKeyWrite g w)
  else if off = 0xC0018 then s.compatCmd g (v % 256)
  else if off = 0xC001C then s.compatAddr g (v % 2 ^ 26)
  else if off = 0xC0020 then s.act true (execCompatProgramWord g w)
  else if off = 0xD0008 then
    ((s.act (bitOf v 0) (execDigestStart g (BitVec.ofNat 2 (v / 16)) slot [])).act (bitOf v 1)
      (execDigestResume g (BitVec.ofNat 2 (v / 64)) [])).act (bitOf v 2) (execDigestAbort g)
  else if off = 0xD0010 then s.act true (execDigestDataWrite g w)
  else if off = 0xD0060 then s.actKey g (v % 8) slot key
  else if off = 0xE001C then s.act true (execEvrCursorWrite g w)
  else if off = 0xE0024 then s.act true (execSeverityQuery (BitVec.ofNat 16 v))
  else if off = 0xE0080 then (s.act (bitOf v 0) (execChallenge g key)).act (bitOf v 1) (execClear g key)
  else if off = 0xF0008 then
    ((s.act (bitOf v 0) (execStewardRestart g key)).act (bitOf v 1) (execConfirm g)).act (bitOf v 2) (execKick g)
  else if off = 0xF0100 then match g.port with | some p => s.actMailbox p (v % 256) | none => s
  else s

/-- Every action of a write. -/
def State.actions (s : State) (g : Agent) (off : Nat) (w : Word) : State :=
  match off / 0x10000 with
  | 1 => s.actPersist g off w
  | 2 => s.actPersist g off w
  | 3 => s.actPersist g off w
  | 4 => s.actEnergy off w
  | 6 => s.actEnergy off w
  | 7 => s.actMirror off w
  | 8 => s.actMirror off w
  | 12 => s.actTrust g off w
  | 13 => s.actTrust g off w
  | 14 => s.actTrust g off w
  | 15 => s.actTrust g off w
  | _ => s.actControl g off w

/-- A write in the flash window (R426): the steps of the native method. -/
def State.windowWrite (s : State) (g : Agent) (o : Nat) (w : Word) (full : Bool) : State :=
  if !full then s.act true (execNativeDataWrite g (BitVec.ofNat 26 o) w false)
  else if o = 0x3FFFFF0 then s.act true (execNativeCmd0 g w [])
  else if o = 0x3FFFFF4 then s.act true (execNativeCmd1 g w)
  else if o = 0x3FFFFF8 then
    match s.cfl.seq with
    | some q => if s.flashAnswers g then s.cmd2 g q.cc w else s
    | none => s
  else s.act true (execNativeDataWrite g (BitVec.ofNat 26 o) w true)

/-- A 32-bit write at an offset of the control space (R426, R472, R474, R479). -/
def State.writeAt (s : State) (g : Agent) (off : Nat) (w : Word) (be : BitVec 4) : State :=
  if windowBase ≤ off then s.windowWrite g (off - windowBase) w (be = 15)
  else if !assigned g off ∨ be ≠ 15 then s.strayAccess g
  else if s.blockOff off then s.accErr
  else (s.writeFields g off w.toNat).actions g off w

/-- What a write goes to: a place of the control space, two neighbouring ones in order, or the function mask of a port's MSI-X
capability (R470, R473, R481). -/
def State.writeReg (s : State) (g : Agent) (t : RegTarget) (w : Word) (be : BitVec 4) : State :=
  match t with
  | .msixMask b =>
    match g.port with
    | some p => s.updIrq fun i => { i with funcMask := i.funcMask.set p b }
    | none => s
  | .space o => s.writeAt g o.toNat w be
  | .wide o hi => (s.writeAt g o.toNat w be).writeAt g (o.toNat + 4) hi be

/-- One agent's write of a register, where the agent is answered (R22). -/
def State.agentWrite (t : RegTarget) (s : State) (x : Agent × Word × BitVec 4) : State :=
  if s.answers x.1 then s.writeReg x.1 t x.2.1 x.2.2 else s

/-- The writes that reach one register in one fabric cycle in the order in which they apply: port B's, port A's, the steward's (R475). -/
def cycleOrder (l : List (Agent × Word × BitVec 4)) : List (Agent × Word × BitVec 4) :=
  (l.filter fun x => x.1 = .hostB) ++ (l.filter fun x => x.1 = .hostA) ++ (l.filter fun x => x.1 = .stw)

/-- The writes of one fabric cycle whose first, not whose last, prevails: DGE_CMD, of which each agent has a copy (R439), and CMD0 of
the flash window, where the steward wins over port A and port A over port B (R428). -/
def firstWins (t : RegTarget) : Bool := t = .space 0xD0008 || t = .space 0x7FFFFF0

/-- REGISTER_WRITE (R473, R474, R475): every field of the write under its access type, then its actions. `also` holds the writes of the same
register by other agents in the same fabric cycle. -/
def execRegisterWrite (g : Agent) (t : RegTarget) (w : Word) (be : BitVec 4) (also : List (Agent × Word × BitVec 4)) (s : State) : Out :=
  let l := (g, w, be) :: also
  ok ((if firstWins t then requestOrder l else cycleOrder l).foldl (State.agentWrite t) s)

end Sys2Proof.Machine
end

