-- ==== Sys2Proof/Machine/Work.lean ====
section
/-! DEFINITION. The tasks that move queue entries into DRAM and that patrol DRAM (R78, R121, R124, R128, R132, R215, R277,
R348). -/

namespace Sys2Proof.Machine

/-- Replace a queue entry. -/
def State.setQEntry (s : State) (e : QEntry) : State :=
  s.updPq fun q => { q with entries := q.entries.map fun x => if x.id = e.id then e else x }

/-- A queue entry by its number. -/
def State.qEntry (s : State) (id : Nat) : Option QEntry := s.pq.entries.find? fun e => e.id = id

/-- A flush reaches a granule that is not restored: the overlay holds its lines; all 64 of them before the vault read issues
cancel the fetch (R277). -/
def State.overlayLine (s : State) (la : Nat) : State :=
  let g := la / 64
  let mask := setBit (Store.get 0 s.rst.overlay g) (la % 64)
  let s1 := s.updRst fun r => { r with overlay := Store.put 0 r.overlay g mask }
  if mask = 2 ^ 64 - 1 ∧ !s.inFetch g then
    let s2 := (s1.updRst fun r => { r with overlay := Store.put 0 r.overlay g 0 }).updCch fun c => { c with unrest := cutRange c.unrest g }
    let s3 := (s2.setEntry g { s2.entry g with fetch := false }).cancelTasks fun k => k.ty = 6 && k.arg0 = g
    (if s.glb.lazyRestore then s3.showPct else s3).answerWaiting g
  else s1

/-- The overlay table has room for a granule (R277). -/
def State.overlayRoom (s : State) (g : Nat) : Bool := Store.get 0 s.rst.overlay g ≠ 0 || decide (s.rst.overlay.length < 4096)

/-- The DRAM write of an entry whose tile-store word is uncorrectable (R348): poison, and the lost set in place of its send. -/
def State.flushBad (s : State) (e : QEntry) : State :=
  let d := s.draw
  let s1 := ((d.2.writeLine e.line ⟨BitVec.ofNat 512 d.1, true⟩).count (TIL_TSERR_UNCORR e.tile) 1).event 0x0A0B (srcTile e.tile)
  if e.sent then s1 else (s1.lose [e.line / 64]).openBreak (e.seq.getD 0)

/-- Bytes of DRAM data that the flush of an entry moves: a partial one reads its line first (R121, R127). -/
def QEntry.flushBytes (e : QEntry) : Nat := if e.mask = fullMask then 64 else 128

/-- An entry's bucket has moved, and another share still holds an entry of the bucket that is older than this one: its flush waits
(R352). DEDUCED: where the bucket has moved back, the entries wait in the order of their age. -/
def State.oldShare (s : State) (e : QEntry) : Bool :=
  (s.pq.entries.takeWhile fun x => x.id ≠ e.id).any fun x =>
    x.tile ≠ e.tile && decide (x.line / 64 % 4096 = e.line / 64 % 4096)

/-- Requests that a tile's mover has outstanding on the fabric, at most 64 (R346): its entries' DRAM writes. -/
def State.moverBusy (s : State) (t : Nat) : Nat :=
  (s.pq.entries.filter fun e => e.tile = t && e.issued && !e.flushed).length

/-- INGEST_FLUSH (R124, R121, R277, R282, R348, R352): an entry's DRAM write issues, its read met by an error pattern; `tsBad` is an
uncorrectable tile-store word of the entry, `tsFix` counts the words corrected on the read. -/
def execIngestFlush (id : BitVec 48) (err : Codeword) (tsBad : Bool) (tsFix : BitVec 6) (s : State) : Out :=
  match s.qEntry id.toNat with
  | none => ok s
  | some e =>
    let g := e.line / 64
    let first := (s.entriesOf e.line).find? fun x => !x.issued
    if e.issued ∨ first ≠ some e ∨ s.oldShare e ∨ 64 ≤ s.moverBusy e.tile then ok s
    else
      let u := s.underBeat (s.issueBeat fun k => k.ty = 1 && k.arg0 = e.id)
      let s0 := if s.glb.st = .drain ∧ s.unrest g then u.fetchDone g else u
      let far := s0.unrest g && !s0.inDram e.line
      if far ∧ !(tsBad || e.mask = fullMask) then ok ((s0.queueFetch g).restoreImage s.sti.active)
      else if far ∧ !s0.overlayRoom g then ok (s0.restoreImage s.sti.active)
      else
        let s1 := if far then s0.queueFetch g else s0
        let s2 := if tsBad then s1.flushBad e else s1.flushLine e err
        let s3 := (((s2.count (TIL_TSERR_CORR e.tile) tsFix.toNat).dramMove e.flushBytes).markDirty g).setQEntry { e with issued := true, sent := e.sent || tsBad, placed := s.glb.beat }
        let s4 := if s3.unrest g then s3.overlayLine e.line else s3
        ok ((s4.restoreImage s.sti.active).retireTask fun k => k.ty = 1 && k.arg0 = e.id).drainAdvance

/-- The line that a single-line extent saves: the entries that hold the line, over the granule's vault copy (R215). -/
def State.extentLine (s : State) (la : Nat) : LineCell :=
  let base := match s.vaultLines (la / 64) with
    | some l => l.getD (la % 64) LineCell.zero
    | none => ⟨0, true⟩
  s.overEntries la base

/-- INGEST_WRITE_COMPLETE (R78, R215): the DRAM write of an entry completes, or fails because its channel has stopped
responding in DRAIN. -/
def execIngestWriteComplete (id : BitVec 48) (chanDead : Bool) (s : State) : Out :=
  match s.qEntry id.toNat with
  | none => ok s
  | some e =>
    if !e.issued ∨ e.flushed then ok s
    else if chanDead ∧ s.glb.st = .drain then
      let u := s.underBeat e.placed
      let c := u.extentLine e.line
      let plain := leBytes 8 (e.line + 2 ^ 62 * b2n c.poison + 2 ^ 63) ++ List.replicate 504 0 ++ leBytes 64 c.data.toNat
        ++ List.replicate 3520 0
      let w := u.writeSlot 2 (u.classOf (e.line / 64) + 16 * b2n c.poison) 0 1 noVloc plain
      let s1 := ((w.2.restoreImage s.sti.active).updVlt fun v => { v with notes := v.notes ++ [w.1.vloc] }).event 0x060D 0
      let s2 := s1.updPq fun q => { q with
        entries := q.entries.map fun x => if x.line = e.line then { x with issued := true, flushed := true } else x }
      ok s2.freeEntries.drainAdvance
    else ok ((s.setQEntry { e with flushed := true }).freeEntries).drainAdvance

/-- Read and, where it corrects, write back one line of cache data for SCRUB (R128, R132). -/
def State.scrubLine (s : State) (la : Nat) (err : Codeword) : State :=
  if !s.inDram la then s
  else
    let r := s.dramRead la err
    match r.1 with
    | .uncorrectable => r.2.ueLine la
    | _ => r.2

/-- Read one line of the map region of the logical rank at a set and member, on its physical rank (R128, R132). An uncorrectable one
stands as poison from then on (R122). DESIGN CHOICE: a map line has no cache address, so CCH_UE_ADDR takes a free value; what
its entries read as afterwards is not said, and they stay. -/
def State.scrubMap (s : State) (set mem k : Nat) (err : Codeword) : State :=
  match s.physical set mem with
  | none => s
  | some n =>
    let r := s.readCell ⟨s.mapLine set mem k, s.cch.mapPoison.contains (2 ^ 23 * n + k)⟩ (some n) (k % 2) err
    match r.1 with
    | .uncorrectable =>
      let d := r.2.draw
      let s1 := (d.2.countUeOf d.1 (some n)).updCch fun c => { c with mapPoison := c.mapPoison ++ [2 ^ 23 * n + k] }
      s1.event 0x0302 0
    | _ => r.2

/-- Lines of the map region of a rank. -/
def State.mapLines (s : State) : Nat := (s.rankAll - s.rankGranules) * 64

/-- Line `x` of the patrol: the cache data by address, then the map regions logical rank by logical rank (R128). -/
def State.patrolLine (s : State) (x : Nat) (err : Codeword) : State :=
  let data := s.capacityWith s.img.spares / 64
  if x < data then s.scrubLine x err
  else
    let y := x - data
    s.scrubMap (y / max 1 s.mapLines / 8) (y / max 1 s.mapLines % 8) (y % max 1 s.mapLines) err

/-- Lines of one patrol pass: every line of every active rank. -/
def State.patrolTotal (s : State) : Nat := s.capacityWith s.img.spares / 64 + 8 * s.ranksPerChannel * s.mapLines

/-- One line of the patrol, unless scrub is throttled (R127): it is read, and the patrol goes on where it is the next line. -/
def State.patrolStep (s : State) (x : Nat) (err : Codeword) : State :=
  if s.dramMay 2 64 then
    let t := (s.dramAsk 2 64).patrolLine x err
    if x ≠ s.cch.scrubPos then t
    else if s.patrolTotal ≤ x + 1 then
      ((t.updCch fun c => { c with scrubPos := 0 }).count CCH_SCRUB_PASSES 1).event 0x030A 0
    else t.updCch fun c => { c with scrubPos := x + 1 }
  else s.dramAsk 2 64

/-- The line, numbered as the patrol numbers them, that a retirement copies next. -/
def State.copyAt (s : State) (r : Retire) : Nat :=
  let set := s.get (CCH_RANK_SET r.src)
  let mem := s.get (CCH_RANK_MEMBER r.src)
  let data := 64 * s.rankGranules
  if r.copied < data then 64 * s.granuleAt set mem (r.copied / 64) + r.copied % 64
  else s.capacityWith s.img.spares / 64 + (8 * set + mem) * s.mapLines + (r.copied - data)

/-- Lines that the running beat may still copy (CCH_RET_CTRL.RATE_GBS, R132). -/
def State.copyPace (s : State) (r : Retire) : Bool :=
  let n := if r.paceBeat = s.glb.beat then r.paceLines else 0
  decide (64 * (n + 1) ≤ 1000 * s.get CCH_RET_CTRL_RATE_GBS)

/-- A map-region line is copied as it stands on the outgoing rank: as poison, or not (R132). -/
def State.copyMapPoison (s : State) (r : Retire) (k : Nat) : State :=
  let l := s.cch.mapPoison.filter fun x => decide (x ≠ 2 ^ 23 * r.dst + k)
  s.updCch fun c => { c with
    mapPoison := if c.mapPoison.contains (2 ^ 23 * r.src + k) then l ++ [2 ^ 23 * r.dst + k] else l }

/-- Copy the next line of the outgoing rank, data or map region, to the incoming one (R132): corrected lines go corrected,
uncorrectable ones are handled under R122. -/
def State.copyStep (s : State) (err : Codeword) : State :=
  match s.cch.ret with
  | none => s
  | some r =>
    if r.total ≤ r.copied ∨ !s.copyPace r then s
    else if !s.dramMay 3 128 then s.dramAsk 3 128
    else
      let set := s.get (CCH_RANK_SET r.src)
      let mem := s.get (CCH_RANK_MEMBER r.src)
      let data := 64 * s.rankGranules
      let la := 64 * s.granuleAt set mem (r.copied / 64) + r.copied % 64
      let s1 := if r.copied < data then (s.dramAsk 3 128).scrubLine la err
        else ((s.dramAsk 3 128).scrubMap set mem (r.copied - data) err).copyMapPoison r (r.copied - data)
      let done := r.copied + 1
      let s2 := s1.updCch fun c => { c with ret := c.ret.map fun x => { x with
        copied := done, doneBeat := s.glb.beat, paceBeat := s.glb.beat
        paceLines := if r.paceBeat = s.glb.beat then r.paceLines + 1 else 1
        spare := if r.copied < data then Store.put LineCell.zero x.spare la (s1.line la) else x.spare } }
      s2.set CCH_RET_STATUS_PCT (100 * done / r.total)

/-- SCRUB (R127, R128, R129, R132): a task patrols the next lines, or copies the next lines of a retiring rank; each line is met by an
error pattern. Lines are numbered as the patrol numbers them: cache address ÷ 64 for cache data (Table: Task types). -/
def execScrub (first : BitVec 40) (count : BitVec 32) (copy : Bool) (errs : List Codeword) (s : State) : Out :=
  let u := s.underBeat (s.issueBeat fun k => k.ty = 7)
  let es := (List.range count.toNat).map fun i => errs.getD i 0
  if s.glb.st ≠ .serve then ok s
  else if copy then
    match s.cch.ret with
    | some r =>
      if u.copyAt r = first.toNat then
        ok (((es.foldl State.copyStep u).restoreImage s.sti.active).retireTask fun k => k.ty = 7)
      else ok s
    | none => ok s
  else if s.get CCH_SCRUB_PASS_HOURS = 0 then ok (s.setB CCH_STATUS_SCRUB_OFF true)
  else
    let t := (List.range count.toNat).foldl (fun v i => v.patrolStep (first.toNat + i) (errs.getD i 0))
      (u.setB CCH_STATUS_SCRUB_OFF false)
    ok ((t.restoreImage s.sti.active).retireTask fun k => k.ty = 7)

end Sys2Proof.Machine
end

