-- ==== Sys2Proof/Machine/Due.lean ====
section
/-! DEFINITION. The tasks that the controller gives itself at a boundary for work that is due (R128, R132, R148, R221, R257, R334,
R354). DESIGN CHOICE: the spec gives the tasks and not their moments; each kind of due work has one task at a time. -/

namespace Sys2Proof.Machine

/-- A live task of the controller's own, of a type and with a property. -/
def State.ownTask (s : State) (ty : Nat) (p : Task → Bool) : Bool := s.dsp.tasks.any fun k => k.ty = ty && k.producer.isNone && p k

/-- TRICKLE at priority 3, or 4 at full rate, of the first dirty granule that may be trickled now (R123, R148, R211). -/
def State.dueTrickle (s : State) : State :=
  if !s.serving || s.ownTask 3 (fun k => k.prio < 5) then s
  else match s.cch.map.find? fun e => e.2.dirty && s.trickleMay e.1 && s.tricklePace e.1 with
    | some e => s.enqueue 3 (if s.fullRate e.1 then 4 else 3) 0 1 e.1 0 false
    | none => s

/-- FULL of the victim band, at priority 4 while free bands are at most RESV + 2 (R257). -/
def State.dueFull (s : State) : State :=
  match s.victim with
  | some b =>
    if s.serving && !s.ownTask 8 (fun k => k.arg0 = b.bseq) then
      s.enqueue 8 (if s.freeBands.length ≤ s.resvBands + 2 then 4 else 1) 0 b.next b.bseq 0 false
    else s
  | none => s

/-- Beats of one patrol pass. -/
def State.passBeats (s : State) : Nat := 3600000000 * s.get CCH_SCRUB_PASS_HOURS

/-- SCRUB of the lines that the pace of one pass in PASS_HOURS hours has made due (R128). -/
def State.duePatrol (s : State) : State :=
  if s.glb.st ≠ .serve then s
  else if s.passBeats = 0 then (s.updCch fun c => { c with scrubAcc := 0 }).setB CCH_STATUS_SCRUB_OFF true
  else
    let acc := s.cch.scrubAcc + s.patrolTotal
    let n := min (acc / s.passBeats) (s.patrolTotal - s.cch.scrubPos)
    let s1 := s.setB CCH_STATUS_SCRUB_OFF false
    if n = 0 ∨ s.ownTask 7 (fun k => k.arg1 = 0) then s1.updCch fun c => { c with scrubAcc := acc }
    else (s1.updCch fun c => { c with scrubAcc := acc - n * s.passBeats }).enqueue 7 0 0 n s.cch.scrubPos 0 false

/-- SCRUB in copy mode of the lines of a retiring rank that a beat may copy (R132). -/
def State.dueCopy (s : State) : State :=
  match s.cch.ret with
  | some r =>
    let n := min (r.total - r.copied) (max 1 (1000 * s.get CCH_RET_CTRL_RATE_GBS / 64))
    if s.glb.st = .serve && !s.ownTask 7 (fun k => k.arg1 ≠ 0) then s.enqueue 7 0 0 n (s.copyAt r) (1 + 256 * r.dst) false else s
  | none => s

/-- DRAIN_EXTENT of the next granule of the running pass on a rank that the planner has opened (R221). -/
def State.dueExtent (s : State) : State :=
  let p := s.get DRN_STATUS_PASS
  if s.glb.st ≠ .drain || s.passStopped p || s.ownTask 4 (fun _ => true) then s
  else match (s.passLeft p).find? fun g => s.drn.open_.contains (s.rankAt g) with
    | some g => s.enqueue 4 7 1 1 g p false
    | none => s

/-- MIRROR_SEND of the granule that a repair or a full sync sends next, at its bucket's tile (R334, R351). -/
def State.dueSend (s : State) : State :=
  match s.remirror with
  | some g =>
    if s.sessionUp && !s.ownTask 2 (fun k => k.arg1 ≠ 0) then
      s.putTask ((s.tileOf (64 * g)).getD 0) 2 (if s.glb.st = .drain then 7 else 5) 0 1 g (2 ^ 63) true
    else s
  | none => s

/-- A ready task of the controller's own that has nothing left to do is done. -/
def State.emptyTask (s : State) (k : Task) : Bool :=
  k.producer.isNone && k.st = .ready &&
    ((k.ty = 3 && k.prio < 5 && k.count = 1 && !(s.entry k.arg0).dirty) || (k.ty = 8 && s.victim.map Band.bseq ≠ some k.arg0)
      || (k.ty = 4 && !(s.glb.st = .drain && (s.passLeft (s.get DRN_STATUS_PASS)).contains k.arg0))
      || (k.ty = 2 && k.arg1 ≠ 0 && s.remirror ≠ some k.arg0) || (k.ty = 7 && k.arg1 ≠ 0 && s.cch.ret.isNone))

/-- The tasks of the work that is due at a boundary (R354). -/
def State.dueTasks (s : State) : State :=
  let s1 := (s.dsp.tasks.filter s.emptyTask).foldl (fun t k => t.endTask k 0) s
  s1.dueTrickle.dueFull.duePatrol.dueCopy.dueExtent.dueSend

end Sys2Proof.Machine
end

