-- ==== Sys2Proof/Machine/Beat.lean ====
section
/-! DEFINITION. The commands of the beat timer: the boundary with what comes about at it, the publication of credit, the loss and
return of the reference clock (R37 to R67). -/

namespace Sys2Proof.Machine

/-- A new beat begins (R42): the counts of whole beats (R60) and what is counted afresh in each beat. `back`, `refclk` and
`aliveLow` say that in the beat that ends the input was back, REFCLK present, PARTNER_ALIVE_IN low throughout. -/
def State.nextBeat (s : State) (back refclk aliveLow : Bool) : State :=
  let s1 := s.updGlb fun g => { g with
    beat := g.beat + 1, cycle := 0, published := false
    backBeats := if back then g.backBeats + 1 else 0
    refBeats := if refclk then g.refBeats + 1 else 0 }
  let s2 := s1.updMtx fun m => { m with
    aliveLow := if aliveLow then m.aliveLow + 1 else 0
    clean := if s.mlk.recovBeat || s.recov then m.clean else m.clean + 1 }
  ((s2.updMlk fun m => { m with recovBeat := s.recov }).dramBoundary.updCtl fun c => { c with sample := 0 }).updPq fun q => { q with
    usedA := ⟨0, 0⟩, usedAB := ⟨0, 0⟩, rose := ⟨false, false⟩ }

/-- A held span ends at the first boundary at which the port holds no write that has waited HELD_BEATS beats (R84). -/
def State.spanEnd (s : State) (p : Port) : State :=
  if s.pq.span.get p && !s.heldLong p then s.updPq fun q => { q with span := q.span.set p false } else s

/-- The ranges of a crown stop being readable at the boundary at which it is no longer one of the two newest (R285). -/
def State.rangesEnd (s : State) : State :=
  if s.get VLT_RST_NRANGE_COUNT = 0 ∨ s.vlt.crowns.any (fun c => c.epoch = s.rst.rangeEpoch) then s
  else (s.set VLT_RST_NRANGE_COUNT 0).updRst fun r => { r with ranges := [] }

/-- A trip in POWERUP, BOOT or RESTORE takes the controller to SEALED at the next boundary, and it powers down without a drain
(R23, R393). -/
def State.sealNow (s : State) : State :=
  if !s.drn.toSealed then s
  else
    let s1 := s.updDrn fun d => { d with toSealed := false }
    match s.glb.st with
    | .powerup => s1.enter .sealed
    | .boot => (s1.enter .sealed).powerDown
    | .restore => ((s1.enter .sealed).updGlb fun g => { g with lazyRestore := false }).powerDown
    | .serve => s1
    | .grace => s1
    | .drain => s1
    | .sealed => s1

/-- BEAT_BOUNDARY (R25, R42, R43, R50, R53 to R56, R60, R84, R285, R352, R354, R365, R379, R381): the conditions of the beat that ends, the domains that
report on, RAIL_PG. -/
def execBeatBoundary (back refclk aliveLow : Bool) (report : BitVec 96) (pg : BitVec 48) (s : State) : Out :=
  let s1 := ((s.nextBeat back refclk aliveLow).applyBound.releasePass.swapPass).trickleBeat.ldgBoundary
  let s2 := (((s1.seqBoundary report.toNat).showPg pg.toNat).judgePg pg.toNat).abandonStep.offStep.coreStopDue
  let s3 := (s2.tileBoundary.slicesEnd.issuePrepared.ctlBoundary.spanEnd .pa).spanEnd .pb
  ok (s3.closeLedger.planClose.drainClose.rangesEnd.sealNow.leaveBoot.shedQuiesce.dueTasks)

/-- Admission resumes at the publication of the first close that begins after the trip, and never in DRAIN (R207). -/
def State.resume (s : State) : State :=
  if s.drn.stop && decide (s.drn.stopBeat < s.glb.beat) && decide (s.glb.st ≠ .drain) then
    s.updDrn fun d => { d with stop := false }
  else s

/-- CREDIT_PUBLICATION (R45 to R47, R207): once in a beat, by the 100 ns point; held writes are admitted against the new credit. -/
def execCreditPublication (s : State) : Out :=
  if s.glb.published then ok s
  else
    let void := s.drn.stop && decide (s.glb.beat ≤ s.drn.stopBeat)
    let s1 := ((s.publishCredit void).updGlb fun g => { g with published := true }).resume
    if s1.serving then ok ((s1.admitAll .pa).admitAll .pb) else ok s1

/-- REFCLK_LOSS (R39): the internal oscillator takes over, the host links and the mirror link go down. -/
def execRefclkLoss (s : State) : Out :=
  if s.glb.beatSrc then ok s
  else
    let s1 := ((s.updGlb fun g => { g with beatSrc := true, refBeats := 0 }).event 0x0110 0).updHp fun h => { h with
      up := ⟨false, false⟩, fast := ⟨false, false⟩ }
    if s.get MLK_STATUS_LSTATE = 0 then ok s1 else ok s1.linkDown

/-- REFCLK_RETURN (R40): after 100 consecutive beats with REFCLK the timer returns to it, at a boundary. -/
def execRefclkReturn (s : State) : Out :=
  if s.atBoundary ∧ s.glb.beatSrc ∧ 100 ≤ s.glb.refBeats then ok ((s.updGlb fun g => { g with beatSrc := false }).event 0x0111 0) else ok s

end Sys2Proof.Machine
end

