-- ==== Sys2Proof/Machine/Mailbox.lean ====
section
/-! DEFINITION. The commands of the CXL memory device mailbox of each port (R106, R455). -/

namespace Sys2Proof.Machine

/-- The content that CXL defines for an answer and the spec does not give, by command and index. -/
def mbxOpen (op i : Nat) : List Nat := (Config.responseBytes op i).map BitVec.toNat

/-- Answer a mailbox command. -/
def State.answerMbx (s : State) (p : Port) (op code : Nat) (l : List Nat) : State := s.emit (.mbx p op code l)

/-- The persistent capacity of a port: the sum of its committed windows. -/
def State.portCapacity (s : State) (p : Port) : Nat :=
  ([0, 1, 2, 3].map fun k => let d := s.decoder p k; if d.committed then d.size else 0).foldl (· + ·) 0

/-- IDENTIFY_MEMORY_DEVICE: the persistent capacity in units of 256 MiB, then the rest of the identity. DESIGN CHOICE: R69 lets a link at
2.5 or 5 GT/s answer configuration requests and BAR0 accesses only, and does not say where the device mailbox and the component registers
of the decoders stand: every command of the mailbox and a decoder's commit is answered at any speed, as a BAR0 access. -/
def execIdentifyMemoryDevice (p : Port) (s : State) : Out :=
  if !s.answers p.agent then ok s else
  ok (s.answerMbx p 0x4000 0 (s.portCapacity p / mib256 :: mbxOpen 0x4000 0))

/-- GET_HEALTH_INFO: the Dirty Shutdown Count, then the rest. -/
def execGetHealthInfo (p : Port) (s : State) : Out :=
  if !s.answers p.agent then ok s else ok (s.answerMbx p 0x4200 0 (s.mbx.dirtyCount :: mbxOpen 0x4200 0))

/-- GET_SHUTDOWN_STATE. -/
def execGetShutdownState (p : Port) (s : State) : Out :=
  if !s.answers p.agent then ok s else ok (s.answerMbx p 0x4203 0 [s.mbx.shutdown.get p])

/-- SET_SHUTDOWN_STATE. -/
def execSetShutdownState (p : Port) (v : BitVec 8) (s : State) : Out :=
  if !s.answers p.agent then ok s else
  ok ((s.updMbx fun m => { m with shutdown := m.shutdown.set p v.toNat }).answerMbx p 0x4204 0 [])

/-- GET_SUPPORTED_LOGS: the Command Effects Log. -/
def execGetSupportedLogs (p : Port) (s : State) : Out :=
  if !s.answers p.agent then ok s else ok (s.answerMbx p 0x0400 0 (mbxOpen 0x0400 0))

/-- GET_LOG: the Command Effects Log. -/
def execGetLog (p : Port) (s : State) : Out :=
  if !s.answers p.agent then ok s else ok (s.answerMbx p 0x0401 0 (mbxOpen 0x0401 0))

/-- GET_EVENT_RECORDS: handle, event code, stamp and severity of each record that mirrors the recorder. -/
def execGetEventRecords (p : Port) (s : State) : Out :=
  if !s.answers p.agent then ok s else
  ok (s.answerMbx p 0x0100 0 ((s.mbx.log.get p).flatMap fun r => [r.handle, r.code, r.beat, r.sev]))

/-- CLEAR_EVENT_RECORDS: one record by its handle, or all. -/
def execClearEventRecords (p : Port) (h : Option (BitVec 16)) (s : State) : Out :=
  if !s.answers p.agent then ok s else
  let keep := fun (r : MbxRec) => match h with | some n => decide (r.handle % 65536 ≠ n.toNat) | none => false
  ok ((s.updMbx fun m => { m with log := m.log.set p ((m.log.get p).filter keep) }).answerMbx p 0x0101 0 [])

/-- GET_TIMESTAMP: nanoseconds, advanced with the beat since it was set; 0 while none is set. -/
def execGetTimestamp (p : Port) (s : State) : Out :=
  if !s.answers p.agent then ok s else
  ok (s.answerMbx p 0x0300 0 [match s.mbx.stamp.get p with | some x => x.2 + 1000 * (s.glb.beat - x.1) | none => 0])

/-- SET_TIMESTAMP (R106, R455). -/
def execSetTimestamp (p : Port) (ns : BitVec 64) (s : State) : Out :=
  if !s.answers p.agent then ok s else
  ok (((s.updMbx fun m => { m with stamp := m.stamp.set p (some (s.glb.beat, ns.toNat)) }).wallTime (ns.toNat / 1000000000)).answerMbx
    p 0x0301 0 [])

/-- GET_FW_INFO, read-only: the version of the running firmware, then the rest. -/
def execGetFwInfo (p : Port) (s : State) : Out :=
  if !s.answers p.agent then ok s else ok (s.answerMbx p 0x0200 0 (s.get64 STW_FWVER_LO_VALUE STW_FWVER_HI_VALUE :: mbxOpen 0x0200 0))

/-- UNSUPPORTED_MAILBOX_COMMAND: every other opcode answers Unsupported. -/
def execUnsupportedMailboxCommand (p : Port) (op : BitVec 16) (s : State) : Out :=
  if !s.answers p.agent then ok s else ok (s.answerMbx p op.toNat 3 [])

end Sys2Proof.Machine
end

