-- ==== Sys2Proof/Machine/Pins.lean ====
section
/-! DEFINITION. The commands of the test port (R498). -/

namespace Sys2Proof.Machine

/-- JTAG_IDCODE (R498): the instruction runs at any time. -/
def execJtagIdcode (s : State) : Out := ok ((s.updHp fun h => { h with jtagIr := 1 }).emit (.jtag 0x1410056B 32))

/-- The bypass register is selected: one bit, which captures 0. -/
def State.jtagBypass (s : State) : State := (s.updHp fun h => { h with jtagIr := 0 }).emit (.jtag 0 1)

/-- JTAG_BYPASS (R498). -/
def execJtagBypass (s : State) : Out := ok s.jtagBypass

/-- JTAG_PIN_CONTROL (R498): an instruction that takes control of pins runs with every rail off, and else acts as BYPASS. -/
def execJtagPinControl (s : State) : Out :=
  if s.get SEQ_STATUS_PHASE = 0 ∨ s.get SEQ_STATUS_PHASE = 4 then ok (s.updHp fun h => { h with jtagIr := 2 })
  else ok s.jtagBypass

end Sys2Proof.Machine
end

