-- ==== Sys2Proof/Machine/Serve.lean ====
section
/-! DEFINITION. The entries to SERVE after a restore (R274, R283). -/

namespace Sys2Proof.Machine

/-- PORTS_OPEN (R274): the controller enters SERVE with LAZY set; a new epoch and a new band begin, and the close of the beat is one of SERVE
(R143). -/
def execPortsOpen (s : State) : Out :=
  if s.atBoundary ∧ s.glb.st = .restore ∧ !s.drn.toSealed ∧ !s.rst.warm ∧ s.rst.scanned ∧ s.rst.mapped ∧ s.rst.noted ∧ s.restorable
      ∧ s.bit CCH_STATUS_POP_OK then
    let e := s.vlt.maxEpoch + 1
    let s1 := (s.set64 VLT_EPOCH_LO_EPOCH VLT_EPOCH_HI_EPOCH e).setB VLT_STATUS_READY true
    let s2 := match s1.freeBands with
      | blk :: _ => s1.openBand blk
      | [] => s1
    let p := s2.logPlace
    let s3 := (s2.updVlt fun v => { v with
      startB := p.1, startI := p.2, cutBeat := s.glb.beat, sinceCut := 0, maxEpoch := e, tagDone := [], tagPlain := [] }).showSpace
    let s4 := (s3.updGlb fun g => { g with st := .serve, lazyRestore := true }).restoreTasks
    let s5 := s4.rollDrop.keptBack.event 0x0713 0
    if bitOf (crFlags s.rst.crown) 4 then ok (s5.adoptMirror s5.drn.lastM).closeAgain else ok s5.closeAgain
  else ok s

/-- WARM_SERVE_ENTRY (R283, R342). The horizons and stamps of the crown just written are those frozen since DRAIN entry (R103). -/
def execWarmServeEntry (s : State) : Out :=
  if s.atBoundary ∧ s.glb.st = .restore ∧ !s.drn.toSealed ∧ s.rst.warm ∧ s.domsUp then
    let s1 := (s.updCch fun c => { c with selfRef := 0 }).updRst fun r => { r with warm := false, ranges := [] }
    let s2 := (s1.setB PQ_STATUS_HZ_FROZEN false).rollDrop.keptBack
    let s3 := ((s2.set VLT_RST_STATUS_KIND 2).set VLT_RST_STATUS_RESULT 1).set VLT_RST_NRANGE_COUNT 0
    let s4 := (s3.setB VLT_STATUS_READY true).updGlb fun g => { g with st := .serve, lazyRestore := !s.cch.unrest.isEmpty }
    let s5 := ((if s4.glb.lazyRestore then s4.restoreTasks else s4).moveBuckets).event 0x0717 0
    ok (if s.bit DRN_STATUS_PARTNER_LOST then s5.adoptMirror s.drn.lastM else s5).closeAgain
  else ok s

end Sys2Proof.Machine
end

