-- ==== Sys2Proof/Machine/Sideband.lean ====
section
/-! DEFINITION. The sideband: I3C, MCTP control and PLDM commands (R456, R458, R460). The numbers of commands and completion
codes are those of the standards that Table: Sideband support names. -/

namespace Sys2Proof.Machine

/-- The content of an answer that the spec names and does not give. -/
def sbOpen (op i : Nat) : List Nat := (Config.responseBytes op i).map BitVec.toNat

/-- Answer on the sideband. -/
def State.sbAnswer (s : State) (op code : Nat) (l : List Nat) : State := s.emit (.sideband op code l)

/-- A sideband command: the target does not acknowledge until firmware runs (R451). -/
def State.sbCommand (s : State) (f : State → State) : State := if s.stwUp then f s else s

/-- An I3C command: it needs the target in I3C mode (R456). -/
def State.i3cCommand (s : State) (f : State → State) : State := s.sbCommand fun t => if t.stw.i3c then f t else t

/-- The static address that the straps set (R491). -/
def State.staticAddr (s : State) : Nat := 0x58 + s.stw.straps % 4

/-- The target takes a dynamic address and changes to I3C (R456). -/
def State.takeAddr (s : State) (a : Nat) : State := s.updStw fun w => { w with i3c := true, dynAddr := a }

/-- ENTDAA: a dynamic address for a target that has none. -/
def execEntdaa (addr : BitVec 7) (s : State) : Out :=
  ok (s.sbCommand fun t => if t.stw.dynAddr = 0 then t.takeAddr addr.toNat else t)

/-- SETDASA: a dynamic address for the target at a static address. -/
def execSetdasa (static addr : BitVec 7) (s : State) : Out :=
  ok (s.sbCommand fun t => if t.stw.dynAddr = 0 ∧ static.toNat = t.staticAddr then t.takeAddr addr.toNat else t)

/-- RSTDAA: the target drops its dynamic address and returns to SMBus-compatible mode. -/
def execRstdaa (s : State) : Out :=
  ok (s.sbCommand fun t => t.updStw fun w => { w with i3c := false, dynAddr := 0 })

/-- ENEC: target events are enabled. -/
def execEnec (s : State) : Out := ok (s.i3cCommand fun t => t.updStw fun w => { w with events := true })

/-- DISEC: target events are disabled. -/
def execDisec (s : State) : Out := ok (s.i3cCommand fun t => t.updStw fun w => { w with events := false })

/-- GETPID. -/
def execGetpid (s : State) : Out := ok (s.i3cCommand fun t => t.sbAnswer 0x38D 0 (sbOpen 0x38D 0))

/-- GETBCR. -/
def execGetbcr (s : State) : Out := ok (s.i3cCommand fun t => t.sbAnswer 0x38E 0 (sbOpen 0x38E 0))

/-- GETDCR. -/
def execGetdcr (s : State) : Out := ok (s.i3cCommand fun t => t.sbAnswer 0x38F 0 (sbOpen 0x38F 0))

/-- GETMWL. -/
def execGetmwl (s : State) : Out := ok (s.i3cCommand fun t => t.sbAnswer 0x38B 0 (sbOpen 0x38B 0))

/-- GETMRL. -/
def execGetmrl (s : State) : Out := ok (s.i3cCommand fun t => t.sbAnswer 0x38C 0 (sbOpen 0x38C 0))

/-- SET_ENDPOINT_ID: identities 0 and 0xFF are invalid data. -/
def execSetEndpointId (eid : BitVec 8) (s : State) : Out :=
  ok (s.sbCommand fun t =>
    if eid = 0 ∨ eid = 0xFF then t.sbAnswer 1 2 []
    else (t.updStw fun w => { w with eid := eid.toNat }).sbAnswer 1 0 [0, eid.toNat, 0])

/-- GET_ENDPOINT_ID. -/
def execGetEndpointId (s : State) : Out := ok (s.sbCommand fun t => t.sbAnswer 2 0 (t.stw.eid :: sbOpen 2 0))

/-- GET_ENDPOINT_UUID. -/
def execGetEndpointUuid (s : State) : Out := ok (s.sbCommand fun t => t.sbAnswer 3 0 (sbOpen 3 0))

/-- GET_MCTP_VERSION_SUPPORT. -/
def execGetMctpVersionSupport (ty : BitVec 8) (s : State) : Out := ok (s.sbCommand fun t => t.sbAnswer 4 0 (sbOpen 4 ty.toNat))

/-- GET_MESSAGE_TYPE_SUPPORT: control, PLDM and vendor-defined PCI (Table: Sideband support). -/
def execGetMessageTypeSupport (s : State) : Out := ok (s.sbCommand fun t => t.sbAnswer 5 0 [3, 0x00, 0x01, 0x7E])

/-- GET_VENDOR_DEFINED_MESSAGE_SUPPORT: the vendor ID of the GLB identity registers. -/
def execGetVendorDefinedMessageSupport (s : State) : Out :=
  ok (s.sbCommand fun t => t.sbAnswer 6 0 (t.get GLB_IDENT_VENDOR :: sbOpen 6 0))

/-- UNSUPPORTED_MCTP_COMMAND: ERROR_UNSUPPORTED_CMD. -/
def execUnsupportedMctpCommand (cmd : BitVec 8) (s : State) : Out := ok (s.sbCommand fun t => t.sbAnswer cmd.toNat 5 [])

/-- UNSUPPORTED_MESSAGE_TYPE: silently dropped. -/
def execUnsupportedMessageType (s : State) : Out := ok s

/-- SETTID: identities 0 and 0xFF are invalid data. -/
def execSettid (tid : BitVec 8) (s : State) : Out :=
  ok (s.sbCommand fun t =>
    if tid = 0 ∨ tid = 0xFF then t.sbAnswer 0x101 2 []
    else (t.updStw fun w => { w with tid := tid.toNat }).sbAnswer 0x101 0 [])

/-- GETTID. -/
def execGettid (s : State) : Out := ok (s.sbCommand fun t => t.sbAnswer 0x102 0 [t.stw.tid])

/-- The PLDM types: base, Type 2 and Type 5. -/
def pldmTypes : List Nat := [0, 2, 5]

/-- GETPLDMVERSION. -/
def execGetpldmversion (ty : BitVec 8) (s : State) : Out :=
  ok (s.sbCommand fun t =>
    if pldmTypes.contains ty.toNat then t.sbAnswer 0x103 0 (sbOpen 0x103 ty.toNat) else t.sbAnswer 0x103 0x83 [])

/-- GETPLDMTYPES. -/
def execGetpldmtypes (s : State) : Out := ok (s.sbCommand fun t => t.sbAnswer 0x104 0 pldmTypes)

/-- The commands that a PLDM type supports (Table: Sideband support). -/
def pldmCommands (ty : Nat) : List Nat :=
  match ty with
  | 0 => [1, 2, 3, 4, 5]
  | 2 => [0x04, 0x10, 0x11, 0x21, 0x50, 0x51]
  | 5 => [0x01, 0x02, 0x10, 0x13, 0x14, 0x1A, 0x1B, 0x1C, 0x1D]
  | _ => []

/-- GETPLDMCOMMANDS. -/
def execGetpldmcommands (ty : BitVec 8) (s : State) : Out :=
  ok (s.sbCommand fun t =>
    if pldmTypes.contains ty.toNat then t.sbAnswer 0x105 0 (pldmCommands ty.toNat) else t.sbAnswer 0x105 0x83 [])

/-- A numeric sensor exists: 0 to 15 thermal sensors, 16 to 19 voltage monitors, 20 and up the enabled rails of the active
image (R456). -/
def State.sensorKnown (s : State) (id : Nat) : Bool := id < 20 || (id < 68 && s.img.u8 5 (40 * (id - 20)) ≠ 0)

/-- The reading of a numeric sensor. -/
def State.sensorValue (s : State) (id : Nat) : Nat :=
  if id < 16 then s.get (STW_TEMP_TEMP id)
  else if id < 20 then s.get (STW_VMON_MV (id - 16))
  else Config.railReading (id - 20) (s.get (SEQ_READ_CODE (s.img.u8 5 (40 * (id - 20) + 8))))

/-- GETSENSORREADING: the operational state (0 enabled, 1 disabled) and the reading. -/
def execGetsensorreading (id : BitVec 16) (s : State) : Out :=
  ok (s.sbCommand fun t =>
    if !t.sensorKnown id.toNat then t.sbAnswer 0x211 0x80 []
    else if t.stw.sensorOff.contains id.toNat then t.sbAnswer 0x211 0 [1]
    else t.sbAnswer 0x211 0 [0, t.sensorValue id.toNat])

/-- GETSTATESENSORREADINGS. -/
def execGetstatesensorreadings (id : BitVec 16) (s : State) : Out :=
  ok (s.sbCommand fun t => t.sbAnswer 0x221 0 (sbOpen 0x221 id.toNat))

/-- SETNUMERICSENSORENABLE. -/
def execSetnumericsensorenable (id : BitVec 16) (enable : Bool) (s : State) : Out :=
  ok (s.sbCommand fun t =>
    if !t.sensorKnown id.toNat then t.sbAnswer 0x210 0x80 []
    else (t.updStw fun w => { w with
      sensorOff := if enable then w.sensorOff.filter (· ≠ id.toNat)
        else if w.sensorOff.contains id.toNat then w.sensorOff else w.sensorOff ++ [id.toNat] }).sbAnswer 0x210 0 [])

/-- GETPDRREPOSITORYINFO. -/
def execGetpdrrepositoryinfo (s : State) : Out := ok (s.sbCommand fun t => t.sbAnswer 0x250 0 (sbOpen 0x250 0))

/-- GETPDR. -/
def execGetpdr (handle : Word) (s : State) : Out := ok (s.sbCommand fun t => t.sbAnswer 0x251 0 (sbOpen 0x251 handle.toNat))

/-- SETEVENTRECEIVER: where PlatformEventMessage goes. -/
def execSeteventreceiver (enable : Bool) (eid : BitVec 8) (s : State) : Out :=
  ok (s.sbCommand fun t =>
    (t.updStw fun w => { w with receiver := if enable then some eid.toNat else none }).sbAnswer 0x204 0 [])

/-- QUERYDEVICEIDENTIFIERS. -/
def execQuerydeviceidentifiers (s : State) : Out := ok (s.sbCommand fun t => t.sbAnswer 0x501 0 (sbOpen 0x501 0))

/-- GETFIRMWAREPARAMETERS. -/
def execGetfirmwareparameters (s : State) : Out :=
  ok (s.sbCommand fun t =>
    t.sbAnswer 0x502 0 (t.get64 STW_FWVER_LO_VALUE STW_FWVER_HI_VALUE :: sbOpen 0x502 0))

/-- An update through PLDM is in progress. -/
def State.pldmUpdate (s : State) : Option Update :=
  match s.stw.update with
  | some u => if u.viaPldm then some u else none
  | none => none

/-- REQUESTUPDATE (R458): begins an update, or ALREADY_IN_UPDATE_MODE; outside SERVE UNABLE_TO_INITIATE_UPDATE. -/
def execRequestupdate (s : State) : Out :=
  ok (s.sbCommand fun t =>
    if t.stw.update.isSome then t.sbAnswer 0x510 0x81 []
    else if t.glb.st ≠ .serve then (t.event 0x1004 0).sbAnswer 0x510 0x8A []
    else ((t.updateBegin true 0).updStw fun w => { w with pldm := 1 }).sbAnswer 0x510 0 [])

/-- PASSCOMPONENTTABLE. -/
def execPasscomponenttable (s : State) : Out :=
  ok (s.sbCommand fun t =>
    match t.pldmUpdate with
    | none => t.sbAnswer 0x513 0x80 []
    | some _ => if t.stw.pldm = 1 then (t.updStw fun w => { w with pldm := 2 }).sbAnswer 0x513 0 [] else t.sbAnswer 0x513 0x84 [])

/-- The steward asks for the next part of the package: its offset and length, at most 1,024 bytes. -/
def State.pull (s : State) (u : Update) : State :=
  (s.updStw fun w => { w with update := some { u with pulled := true }, pldm := 3 }).emit
    (.sideband 0x515 0 [u.bytes.length, min 1024 (u.size - u.bytes.length)])

/-- UPDATECOMPONENT (R458): the transfer of a component of a size starts. -/
def execUpdatecomponent (size : Word) (s : State) : Out :=
  ok (s.sbCommand fun t =>
    match t.pldmUpdate with
    | none => t.sbAnswer 0x514 0x80 []
    | some u =>
      if t.stw.pldm ≠ 2 ∨ t.get STW_STATUS_UPD ≠ 1 then t.sbAnswer 0x514 0x84 []
      else if !packageSize size.toNat then t.sbAnswer 0x514 2 []
      else (t.sbAnswer 0x514 0 []).pull { u with size := size.toNat, bytes := [] })

/-- REQUESTFIRMWAREDATA_RESPONSE (R458): the steward takes in the part it asked for, and asks for the next or verifies. -/
def execRequestfirmwaredataResponse (data : List Byte) (s : State) : Out :=
  ok (s.sbCommand fun t =>
    match t.pldmUpdate with
    | none => t
    | some u =>
      if !u.pulled then t
      else
        let u1 : Update := { u with bytes := u.bytes ++ data.take (min 1024 (u.size - u.bytes.length)), pulled := false }
        if u1.bytes.length < u.size then t.pull u1
        else
          let t1 := (t.updStw fun w => { w with update := some u1, pldm := 4 }).emit (.sideband 0x516 0 [])
          t1.updateEnd 0)

/-- ACTIVATEFIRMWARE (R460). -/
def execActivatefirmware (s : State) : Out :=
  ok (s.sbCommand fun t =>
    match t.mayActivate with
    | some b => (t.sbAnswer 0x51A 0 []).activate b
    | none => (if t.glb.st = .serve then t else t.event 0x1004 0).sbAnswer 0x51A 0x84 [])

/-- GETSTATUS: the state of the update. -/
def execGetstatus (s : State) : Out := ok (s.sbCommand fun t => t.sbAnswer 0x51B 0 (t.stw.pldm :: sbOpen 0x51B 0))

/-- CANCELUPDATECOMPONENT: the component is dropped, the update stays open. -/
def execCancelupdatecomponent (s : State) : Out :=
  ok (s.sbCommand fun t =>
    match t.pldmUpdate with
    | none => t.sbAnswer 0x51C 0x80 []
    | some _ => (((t.updateDrop.updateBegin true 0).updStw fun w => { w with pldm := 2 })).sbAnswer 0x51C 0 [])

/-- CANCELUPDATE: the update ends. -/
def execCancelupdate (s : State) : Out :=
  ok (s.sbCommand fun t =>
    match t.pldmUpdate with
    | none => t.sbAnswer 0x51D 0x80 []
    | some _ => (t.updateDrop.updStw fun w => { w with pldm := 0 }).sbAnswer 0x51D 0 [])

end Sys2Proof.Machine
end

