-- ==== Sys2Proof/Machine/Dispatch.lean ====
section
/-! DEFINITION. The dispatcher: one arm per command. -/

namespace Sys2Proof.Machine

/-- The meaning of a command. -/
def exec (i : Instr) (s : State) : Host.Outcome State Fault Refusal :=
  match i with
  | .beatBoundary back refclk aliveLow report pg => Sys2Proof.Machine.execBeatBoundary back refclk aliveLow report pg s
  | .creditPublication => Sys2Proof.Machine.execCreditPublication s
  | .healthFiguresStale => Sys2Proof.Machine.execHealthFiguresStale s
  | .refclkLoss => Sys2Proof.Machine.execRefclkLoss s
  | .refclkReturn => Sys2Proof.Machine.execRefclkReturn s
  | .controlSample codes => Sys2Proof.Machine.execControlSample codes s
  | .protectiveTrip codes shoot => Sys2Proof.Machine.execProtectiveTrip codes shoot s
  | .faultRestart => Sys2Proof.Machine.execFaultRestart s
  | .bfRunStart => Sys2Proof.Machine.execBfRunStart s
  | .bfRunEnd => Sys2Proof.Machine.execBfRunEnd s
  | .bfRetry => Sys2Proof.Machine.execBfRetry s
  | .setpointWrite reg w => Sys2Proof.Machine.execSetpointWrite reg w s
  | .inmonTrip => Sys2Proof.Machine.execInmonTrip s
  | .inputCollapse => Sys2Proof.Machine.execInputCollapse s
  | .graceTimerExpiry => Sys2Proof.Machine.execGraceTimerExpiry s
  | .rideThrough => Sys2Proof.Machine.execRideThrough s
  | .mrxWindowExpiry => Sys2Proof.Machine.execMrxWindowExpiry s
  | .mirrorFence => Sys2Proof.Machine.execMirrorFence s
  | .domainShed d => Sys2Proof.Machine.execDomainShed d s
  | .crownWrite => Sys2Proof.Machine.execCrownWrite s
  | .crownComplete => Sys2Proof.Machine.execCrownComplete s
  | .warmResumeDecision => Sys2Proof.Machine.execWarmResumeDecision s
  | .warmServeEntry => Sys2Proof.Machine.execWarmServeEntry s
  | .offDelayExpiry rail => Sys2Proof.Machine.execOffDelayExpiry rail s
  | .bankmonDrainFloor code => Sys2Proof.Machine.execBankmonDrainFloor code s
  | .bankmonSealedFloor code => Sys2Proof.Machine.execBankmonSealedFloor code s
  | .powerUpBegin => Sys2Proof.Machine.execPowerUpBegin s
  | .powerUpComplete => Sys2Proof.Machine.execPowerUpComplete s
  | .powerupHoldEnd => Sys2Proof.Machine.execPowerupHoldEnd s
  | .coreStopRailOff => Sys2Proof.Machine.execCoreStopRailOff s
  | .cxlMemWrite p hpa data mask poison tag => Sys2Proof.Machine.execCxlMemWrite p hpa data mask poison tag s
  | .heldWriteAdmit p => Sys2Proof.Machine.execHeldWriteAdmit p s
  | .heldSpanStart p => Sys2Proof.Machine.execHeldSpanStart p s
  | .cxlMemRead p hpa tag err => Sys2Proof.Machine.execCxlMemRead p hpa tag err s
  | .decoderCommit p k base size commit => Sys2Proof.Machine.execDecoderCommit p k base size commit s
  | .pqBindWrite p k w => Sys2Proof.Machine.execPqBindWrite p k w s
  | .stampLoWrite g p v => Sys2Proof.Machine.execStampLoWrite g p v s
  | .stampHiWrite g p hi lo => Sys2Proof.Machine.execStampHiWrite g p hi lo s
  | .globalPersistentFlush p => Sys2Proof.Machine.execGlobalPersistentFlush p s
  | .identifyMemoryDevice p => Sys2Proof.Machine.execIdentifyMemoryDevice p s
  | .getHealthInfo p => Sys2Proof.Machine.execGetHealthInfo p s
  | .getShutdownState p => Sys2Proof.Machine.execGetShutdownState p s
  | .setShutdownState p v => Sys2Proof.Machine.execSetShutdownState p v s
  | .getSupportedLogs p => Sys2Proof.Machine.execGetSupportedLogs p s
  | .getLog p => Sys2Proof.Machine.execGetLog p s
  | .getEventRecords p => Sys2Proof.Machine.execGetEventRecords p s
  | .clearEventRecords p h => Sys2Proof.Machine.execClearEventRecords p h s
  | .getTimestamp p => Sys2Proof.Machine.execGetTimestamp p s
  | .setTimestamp p ns => Sys2Proof.Machine.execSetTimestamp p ns s
  | .getFwInfo p => Sys2Proof.Machine.execGetFwInfo p s
  | .unsupportedMailboxCommand p op => Sys2Proof.Machine.execUnsupportedMailboxCommand p op s
  | .hostLinkTrained p fast => Sys2Proof.Machine.execHostLinkTrained p fast s
  | .perstAssert p => Sys2Proof.Machine.execPerstAssert p s
  | .perstDeassert p => Sys2Proof.Machine.execPerstDeassert p s
  | .dramTraining dimms speeds => Sys2Proof.Machine.execDramTraining dimms speeds s
  | .dramReadComplete la err => Sys2Proof.Machine.execDramReadComplete la err s
  | .ceWindowExpiry => Sys2Proof.Machine.execCeWindowExpiry s
  | .retireCommand n => Sys2Proof.Machine.execRetireCommand n s
  | .retirementBegin => Sys2Proof.Machine.execRetirementBegin s
  | .retirementCutover => Sys2Proof.Machine.execRetirementCutover s
  | .xlateStart hi => Sys2Proof.Machine.execXlateStart hi s
  | .rehearsalGo => Sys2Proof.Machine.execRehearsalGo s
  | .rehearsalScheduled => Sys2Proof.Machine.execRehearsalScheduled s
  | .rehearsalEnd => Sys2Proof.Machine.execRehearsalEnd s
  | .bankRelease mod => Sys2Proof.Machine.execBankRelease mod s
  | .bankReleaseCancel mod => Sys2Proof.Machine.execBankReleaseCancel mod s
  | .energyModuleReleased mod => Sys2Proof.Machine.execEnergyModuleReleased mod s
  | .energyModuleAbsent mod => Sys2Proof.Machine.execEnergyModuleAbsent mod s
  | .bootEqualise => Sys2Proof.Machine.execBootEqualise s
  | .bootEqualiseEnd => Sys2Proof.Machine.execBootEqualiseEnd s
  | .healthTestGo => Sys2Proof.Machine.execHealthTestGo s
  | .healthTestScheduled => Sys2Proof.Machine.execHealthTestScheduled s
  | .healthTestRetry => Sys2Proof.Machine.execHealthTestRetry s
  | .healthTestStepEnd => Sys2Proof.Machine.execHealthTestStepEnd s
  | .healthTestRecharged => Sys2Proof.Machine.execHealthTestRecharged s
  | .healthTestAbort => Sys2Proof.Machine.execHealthTestAbort s
  | .equaliseGo mod => Sys2Proof.Machine.execEqualiseGo mod s
  | .equaliseDone => Sys2Proof.Machine.execEqualiseDone s
  | .equaliseTimeout => Sys2Proof.Machine.execEqualiseTimeout s
  | .chunkReadComplete ch t pl blk pg chunk levels => Sys2Proof.Machine.execChunkReadComplete ch t pl blk pg chunk levels s
  | .nandProgramComplete ch t pl blk pg good => Sys2Proof.Machine.execNandProgramComplete ch t pl blk pg good s
  | .nandEraseComplete ch t pl blk good => Sys2Proof.Machine.execNandEraseComplete ch t pl blk good s
  | .bandOpen blk => Sys2Proof.Machine.execBandOpen blk s
  | .checkpointTrigger => Sys2Proof.Machine.execCheckpointTrigger s
  | .epochSeal => Sys2Proof.Machine.execEpochSeal s
  | .trickleWriteComplete g => Sys2Proof.Machine.execTrickleWriteComplete g s
  | .fullCopyComplete g => Sys2Proof.Machine.execFullCopyComplete g s
  | .flashModuleAbsent mod => Sys2Proof.Machine.execFlashModuleAbsent mod s
  | .flashModuleRelease mod => Sys2Proof.Machine.execFlashModuleRelease mod s
  | .flashReleaseRestripe => Sys2Proof.Machine.execFlashReleaseRestripe s
  | .flashModuleReleased mod => Sys2Proof.Machine.execFlashModuleReleased mod s
  | .flashModuleCancel mod => Sys2Proof.Machine.execFlashModuleCancel mod s
  | .flashModuleAdd mod pages marks => Sys2Proof.Machine.execFlashModuleAdd mod pages marks s
  | .vaultFormat key go => Sys2Proof.Machine.execVaultFormat key go s
  | .flashModuleInserted mod pages => Sys2Proof.Machine.execFlashModuleInserted mod pages s
  | .crownSearch pages changed => Sys2Proof.Machine.execCrownSearch pages changed s
  | .vaultEmpty key empty => Sys2Proof.Machine.execVaultEmpty key empty s
  | .mapLoad => Sys2Proof.Machine.execMapLoad s
  | .notesApply => Sys2Proof.Machine.execNotesApply s
  | .portsOpen => Sys2Proof.Machine.execPortsOpen s
  | .lazyRestoreEnd => Sys2Proof.Machine.execLazyRestoreEnd s
  | .fetchComplete g => Sys2Proof.Machine.execFetchComplete g s
  | .rangeIndexWrite idx => Sys2Proof.Machine.execRangeIndexWrite idx s
  | .linkTrainingStart => Sys2Proof.Machine.execLinkTrainingStart s
  | .linkEqualiseEnd trained pol => Sys2Proof.Machine.execLinkEqualiseEnd trained pol s
  | .frameReceive f missed reversed => Sys2Proof.Machine.execFrameReceive f missed reversed s
  | .attemptTimeout => Sys2Proof.Machine.execAttemptTimeout s
  | .rtrnSendEnd => Sys2Proof.Machine.execRtrnSendEnd s
  | .linkRetrainCommand => Sys2Proof.Machine.execLinkRetrainCommand s
  | .injectCrcError => Sys2Proof.Machine.execInjectCrcError s
  | .injectLaneErrors lane n => Sys2Proof.Machine.execInjectLaneErrors lane n s
  | .flitTransmit => Sys2Proof.Machine.execFlitTransmit s
  | .replayTimerExpiry => Sys2Proof.Machine.execReplayTimerExpiry s
  | .sessionSetupStart => Sys2Proof.Machine.execSessionSetupStart s
  | .hello => Sys2Proof.Machine.execHello s
  | .response => Sys2Proof.Machine.execResponse s
  | .refuse => Sys2Proof.Machine.execRefuse s
  | .setupTimeout => Sys2Proof.Machine.execSetupTimeout s
  | .sessionEndCommand => Sys2Proof.Machine.execSessionEndCommand s
  | .quarantineClear => Sys2Proof.Machine.execQuarantineClear s
  | .resyncCommand => Sys2Proof.Machine.execResyncCommand s
  | .groupVerify => Sys2Proof.Machine.execGroupVerify s
  | .write => Sys2Proof.Machine.execWrite s
  | .data => Sys2Proof.Machine.execData s
  | .ack => Sys2Proof.Machine.execAck s
  | .stamp => Sys2Proof.Machine.execStamp s
  | .heartbeat => Sys2Proof.Machine.execHeartbeat s
  | .syncBegin => Sys2Proof.Machine.execSyncBegin s
  | .syncEnd => Sys2Proof.Machine.execSyncEnd s
  | .syncRepaired => Sys2Proof.Machine.execSyncRepaired s
  | .takeover => Sys2Proof.Machine.execTakeover s
  | .pad => Sys2Proof.Machine.execPad s
  | .receiveWriteTimeout => Sys2Proof.Machine.execReceiveWriteTimeout s
  | .sendCountedTimeout => Sys2Proof.Machine.execSendCountedTimeout s
  | .sendAbsoluteTimeout => Sys2Proof.Machine.execSendAbsoluteTimeout s
  | .heartbeatSend => Sys2Proof.Machine.execHeartbeatSend s
  | .heartbeatLoss => Sys2Proof.Machine.execHeartbeatLoss s
  | .partnerAliveInDeassert => Sys2Proof.Machine.execPartnerAliveInDeassert s
  | .quarantineEnd => Sys2Proof.Machine.execQuarantineEnd s
  | .quarantineCountReset => Sys2Proof.Machine.execQuarantineCountReset s
  | .fullSyncStart => Sys2Proof.Machine.execFullSyncStart s
  | .adoptedRegionRead p off tag err => Sys2Proof.Machine.execAdoptedRegionRead p off tag err s
  | .adoptedRegionWrite p => Sys2Proof.Machine.execAdoptedRegionWrite p s
  | .adoptedRegionRelease key => Sys2Proof.Machine.execAdoptedRegionRelease key s
  | .ingestFlush id err tsBad tsFix => Sys2Proof.Machine.execIngestFlush id err tsBad tsFix s
  | .ingestWriteComplete id chanDead => Sys2Proof.Machine.execIngestWriteComplete id chanDead s
  | .mirrorSend => Sys2Proof.Machine.execMirrorSend s
  | .trickle g => Sys2Proof.Machine.execTrickle g s
  | .drainExtent first count => Sys2Proof.Machine.execDrainExtent first count s
  | .extentComplete g => Sys2Proof.Machine.execExtentComplete g s
  | .restoreRow first count => Sys2Proof.Machine.execRestoreRow first count s
  | .demandFetch g => Sys2Proof.Machine.execDemandFetch g s
  | .scrub first count copy errs => Sys2Proof.Machine.execScrub first count copy errs s
  | .full bseq count => Sys2Proof.Machine.execFull bseq count s
  | .mapCkpt count => Sys2Proof.Machine.execMapCkpt count s
  | .parity bseq row => Sys2Proof.Machine.execParity bseq row s
  | .health g => Sys2Proof.Machine.execHealth g s
  | .taskSubmit g tile => Sys2Proof.Machine.execTaskSubmit g tile s
  | .taskPick tile engine => Sys2Proof.Machine.execTaskPick tile engine s
  | .taskSteal thief own => Sys2Proof.Machine.execTaskSteal thief own s
  | .taskStealDelivery thief => Sys2Proof.Machine.execTaskStealDelivery thief s
  | .taskSliceEnd tid r => Sys2Proof.Machine.execTaskSliceEnd tid r s
  | .waitConditionMet tid recovery => Sys2Proof.Machine.execWaitConditionMet tid recovery s
  | .waitTimeout tid recovery => Sys2Proof.Machine.execWaitTimeout tid recovery s
  | .taskCancel g tid met => Sys2Proof.Machine.execTaskCancel g tid met s
  | .completionPop g => Sys2Proof.Machine.execCompletionPop g s
  | .tileQuiesce t => Sys2Proof.Machine.execTileQuiesce t s
  | .tileOut t => Sys2Proof.Machine.execTileOut t s
  | .quiesceTimeout t => Sys2Proof.Machine.execQuiesceTimeout t s
  | .tileReturn t => Sys2Proof.Machine.execTileReturn t s
  | .microcodeRoll maxout => Sys2Proof.Machine.execMicrocodeRoll maxout s
  | .rollAbort => Sys2Proof.Machine.execRollAbort s
  | .tileMicrocodeLoaded t => Sys2Proof.Machine.execTileMicrocodeLoaded t s
  | .tileSelfTestDone t pass => Sys2Proof.Machine.execTileSelfTestDone t pass s
  | .tileSelfTestBoot passed => Sys2Proof.Machine.execTileSelfTestBoot passed s
  | .scanComplete codes pg => Sys2Proof.Machine.execScanComplete codes pg s
  | .railTonExpiry rail => Sys2Proof.Machine.execRailTonExpiry rail s
  | .railSettleExpiry rail => Sys2Proof.Machine.execRailSettleExpiry rail s
  | .railFdelayExpiry rail => Sys2Proof.Machine.execRailFdelayExpiry rail s
  | .domainOnTimeout d => Sys2Proof.Machine.execDomainOnTimeout d s
  | .domainFault d => Sys2Proof.Machine.execDomainFault d s
  | .repower rail => Sys2Proof.Machine.execRepower rail s
  | .manualRailOn rail => Sys2Proof.Machine.execManualRailOn rail s
  | .manualRailOff rail => Sys2Proof.Machine.execManualRailOff rail s
  | .warningCountClear rail => Sys2Proof.Machine.execWarningCountClear rail s
  | .resetStretchExpiry g => Sys2Proof.Machine.execResetStretchExpiry g s
  | .droopTrip t => Sys2Proof.Machine.execDroopTrip t s
  | .droopRelease t => Sys2Proof.Machine.execDroopRelease t s
  | .snapDataRead g => Sys2Proof.Machine.execSnapDataRead g s
  | .vddaonPowerOn straps => Sys2Proof.Machine.execVddaonPowerOn straps s
  | .vddaonLoss => Sys2Proof.Machine.execVddaonLoss s
  | .bootImageValidate => Sys2Proof.Machine.execBootImageValidate s
  | .shadeValidate => Sys2Proof.Machine.execShadeValidate s
  | .shadeValidationDone => Sys2Proof.Machine.execShadeValidationDone s
  | .swap key => Sys2Proof.Machine.execSwap key s
  | .roleRecordCommitted => Sys2Proof.Machine.execRoleRecordCommitted s
  | .swapEffect => Sys2Proof.Machine.execSwapEffect s
  | .imageRelease => Sys2Proof.Machine.execImageRelease s
  | .swapCancel => Sys2Proof.Machine.execSwapCancel s
  | .rollback key => Sys2Proof.Machine.execRollback key s
  | .nativeCmd0 g w also => Sys2Proof.Machine.execNativeCmd0 g w also s
  | .nativeCmd1 g w => Sys2Proof.Machine.execNativeCmd1 g w s
  | .nativeDataWrite g off w full => Sys2Proof.Machine.execNativeDataWrite g off w full s
  | .program g w => Sys2Proof.Machine.execProgram g w s
  | .eraseSector g w => Sys2Proof.Machine.execEraseSector g w s
  | .blankCheck g w => Sys2Proof.Machine.execBlankCheck g w s
  | .flashOperationComplete how => Sys2Proof.Machine.execFlashOperationComplete how s
  | .flashSequenceTimeout => Sys2Proof.Machine.execFlashSequenceTimeout s
  | .compatKeyWrite g w => Sys2Proof.Machine.execCompatKeyWrite g w s
  | .compatProgramWord g w => Sys2Proof.Machine.execCompatProgramWord g w s
  | .compatEraseSector g a => Sys2Proof.Machine.execCompatEraseSector g a s
  | .compatBlankCheck g a => Sys2Proof.Machine.execCompatBlankCheck g a s
  | .compatAbort g => Sys2Proof.Machine.execCompatAbort g s
  | .flagScan => Sys2Proof.Machine.execFlagScan s
  | .bootSelect g block key => Sys2Proof.Machine.execBootSelect g block key s
  | .stewardStart good0 good1 => Sys2Proof.Machine.execStewardStart good0 good1 s
  | .recorderFlashCopy => Sys2Proof.Machine.execRecorderFlashCopy s
  | .digestStart g alg keyslot also => Sys2Proof.Machine.execDigestStart g alg keyslot also s
  | .digestResume g n also => Sys2Proof.Machine.execDigestResume g n also s
  | .digestAbort g => Sys2Proof.Machine.execDigestAbort g s
  | .digestDataWrite g w => Sys2Proof.Machine.execDigestDataWrite g w s
  | .digestBlockDone => Sys2Proof.Machine.execDigestBlockDone s
  | .digestOwnerTimeout => Sys2Proof.Machine.execDigestOwnerTimeout s
  | .digestContextExpiry n => Sys2Proof.Machine.execDigestContextExpiry n s
  | .importKey g slot key => Sys2Proof.Machine.execImport g slot key s
  | .exportKey g slot key => Sys2Proof.Machine.execExport g slot key s
  | .lock g slot key => Sys2Proof.Machine.execLock g slot key s
  | .erase g slot key => Sys2Proof.Machine.execErase g slot key s
  | .compare g slot key => Sys2Proof.Machine.execCompare g slot key s
  | .loadescrow g key => Sys2Proof.Machine.execLoadescrow g key s
  | .keyOpSeven g key => Sys2Proof.Machine.execKeyOpSeven g key s
  | .keySlotLoad => Sys2Proof.Machine.execKeySlotLoad s
  | .watchdogExpiry => Sys2Proof.Machine.execWatchdogExpiry s
  | .stewardRestart g key => Sys2Proof.Machine.execStewardRestart g key s
  | .confirm g => Sys2Proof.Machine.execConfirm g s
  | .kick g => Sys2Proof.Machine.execKick g s
  | .confirmTimeout => Sys2Proof.Machine.execConfirmTimeout s
  | .sensorRead temps mv => Sys2Proof.Machine.execSensorRead temps mv s
  | .getVersions g => Sys2Proof.Machine.execGetVersions g s
  | .updateBegin g size => Sys2Proof.Machine.execUpdateBegin g size s
  | .updateData g off data => Sys2Proof.Machine.execUpdateData g off data s
  | .updateEnd g => Sys2Proof.Machine.execUpdateEnd g s
  | .updateCancel g => Sys2Proof.Machine.execUpdateCancel g s
  | .activateFw g => Sys2Proof.Machine.execActivateFw g s
  | .setWalltime g sec => Sys2Proof.Machine.execSetWalltime g sec s
  | .entdaa addr => Sys2Proof.Machine.execEntdaa addr s
  | .setdasa static addr => Sys2Proof.Machine.execSetdasa static addr s
  | .rstdaa => Sys2Proof.Machine.execRstdaa s
  | .enec => Sys2Proof.Machine.execEnec s
  | .disec => Sys2Proof.Machine.execDisec s
  | .getpid => Sys2Proof.Machine.execGetpid s
  | .getbcr => Sys2Proof.Machine.execGetbcr s
  | .getdcr => Sys2Proof.Machine.execGetdcr s
  | .getmwl => Sys2Proof.Machine.execGetmwl s
  | .getmrl => Sys2Proof.Machine.execGetmrl s
  | .setEndpointId eid => Sys2Proof.Machine.execSetEndpointId eid s
  | .getEndpointId => Sys2Proof.Machine.execGetEndpointId s
  | .getEndpointUuid => Sys2Proof.Machine.execGetEndpointUuid s
  | .getMctpVersionSupport ty => Sys2Proof.Machine.execGetMctpVersionSupport ty s
  | .getMessageTypeSupport => Sys2Proof.Machine.execGetMessageTypeSupport s
  | .getVendorDefinedMessageSupport => Sys2Proof.Machine.execGetVendorDefinedMessageSupport s
  | .unsupportedMctpCommand cmd => Sys2Proof.Machine.execUnsupportedMctpCommand cmd s
  | .unsupportedMessageType => Sys2Proof.Machine.execUnsupportedMessageType s
  | .settid tid => Sys2Proof.Machine.execSettid tid s
  | .gettid => Sys2Proof.Machine.execGettid s
  | .getpldmversion ty => Sys2Proof.Machine.execGetpldmversion ty s
  | .getpldmtypes => Sys2Proof.Machine.execGetpldmtypes s
  | .getpldmcommands ty => Sys2Proof.Machine.execGetpldmcommands ty s
  | .getsensorreading id => Sys2Proof.Machine.execGetsensorreading id s
  | .getstatesensorreadings id => Sys2Proof.Machine.execGetstatesensorreadings id s
  | .setnumericsensorenable id enable => Sys2Proof.Machine.execSetnumericsensorenable id enable s
  | .getpdrrepositoryinfo => Sys2Proof.Machine.execGetpdrrepositoryinfo s
  | .getpdr handle => Sys2Proof.Machine.execGetpdr handle s
  | .seteventreceiver enable eid => Sys2Proof.Machine.execSeteventreceiver enable eid s
  | .querydeviceidentifiers => Sys2Proof.Machine.execQuerydeviceidentifiers s
  | .getfirmwareparameters => Sys2Proof.Machine.execGetfirmwareparameters s
  | .requestupdate => Sys2Proof.Machine.execRequestupdate s
  | .passcomponenttable => Sys2Proof.Machine.execPasscomponenttable s
  | .updatecomponent size => Sys2Proof.Machine.execUpdatecomponent size s
  | .activatefirmware => Sys2Proof.Machine.execActivatefirmware s
  | .getstatus => Sys2Proof.Machine.execGetstatus s
  | .cancelupdatecomponent => Sys2Proof.Machine.execCancelupdatecomponent s
  | .cancelupdate => Sys2Proof.Machine.execCancelupdate s
  | .evrCursorWrite g seq => Sys2Proof.Machine.execEvrCursorWrite g seq s
  | .severityQuery code => Sys2Proof.Machine.execSeverityQuery code s
  | .challenge g key => Sys2Proof.Machine.execChallenge g key s
  | .clear g key => Sys2Proof.Machine.execClear g key s
  | .challengeExpiry => Sys2Proof.Machine.execChallengeExpiry s
  | .msixMessageSend p v => Sys2Proof.Machine.execMsixMessageSend p v s
  | .glbLockSet g => Sys2Proof.Machine.execGlbLockSet g s
  | .unassignedAccess g off write full => Sys2Proof.Machine.execUnassignedAccess g off write full s
  | .offDomainAccess g off write => Sys2Proof.Machine.execOffDomainAccess g off write s
  | .loReadLatch g off wide => Sys2Proof.Machine.execLoReadLatch g off wide s
  | .readClear g off => Sys2Proof.Machine.execReadClear g off s
  | .registerWrite g t w be also => Sys2Proof.Machine.execRegisterWrite g t w be also s
  | .jtagIdcode => Sys2Proof.Machine.execJtagIdcode s
  | .jtagBypass => Sys2Proof.Machine.execJtagBypass s
  | .jtagPinControl => Sys2Proof.Machine.execJtagPinControl s
  | .partnerAliveInAssert => Sys2Proof.Machine.execPartnerAliveInAssert s
  | .laneErrorWindowExpiry => Sys2Proof.Machine.execLaneErrorWindowExpiry s
  | .hostLinkDown p => Sys2Proof.Machine.execHostLinkDown p s
  | .contextExportImportDone intact => Sys2Proof.Machine.execContextExportImportDone intact s
  | .requestfirmwaredataResponse data => Sys2Proof.Machine.execRequestfirmwaredataResponse data s

end Sys2Proof.Machine
end

