-- ==== Sys2Proof/Machine/TickOps.lean ====
section
/-! DEFINITION. What passes while no command waits. -/

namespace Sys2Proof.Machine

/-- One beat-clock cycle passes within the beat; the boundary itself is a command (R42). -/
def State.tick (s : State) : State := s.updGlb fun g => { g with cycle := min 399 (g.cycle + 1) }

end Sys2Proof.Machine
end

