-- ==== Sys2Proof/Safety.lean ====
section
/-! DEFINITION. What a sound state of the controller is, in the terms that claims use: every sparse table that the memories
and the registers stand in has its one canonical form, and the bounded counters stay within their bounds. -/

namespace Sys2Proof.Machine

/-- A sound state: the register fields, the DRAM lines, the flash array and the NAND chunks are canonical tables; the recorder
ring holds at most 8,192 records (R461); the beat-clock cycle lies in 0 to 399 (R42). -/
structure State.Inv (s : State) : Prop where
  regs : Store.wf 0 s.regs = true
  lines : Store.wf LineCell.zero s.cch.lines = true
  flash : Store.wf 0xFF s.cfl.bytes = true
  nand : Store.wf none s.vlt.nand = true
  ring : s.evr.ring.length ≤ 8192
  cycle : s.glb.cycle ≤ 399

/-- `t` differs from `s` in nothing but the recorder, the interrupt state, the mailbox logs and what has been
sent out: what a command changes that reports and counts (R461, R480). -/
def State.Reported (s t : State) : Prop := t = { s with evr := t.evr, irq := t.irq, mbx := t.mbx, out := t.out }

/-- Every register field but those listed reads in `t` what it read in `s`. -/
def State.RegsBut (l : List Fld) (s t : State) : Prop := ∀ f : Fld, (∀ g ∈ l, g.key ≠ f.key) → t.get f = s.get f

/-- Every DRAM line, every byte of the configuration flash and every NAND chunk reads in `t` what it read in `s`. -/
def State.SameMemory (s t : State) : Prop :=
  (∀ n, Store.get LineCell.zero t.cch.lines n = Store.get LineCell.zero s.cch.lines n) ∧
  (∀ a, Store.get 0xFF t.cfl.bytes a = Store.get 0xFF s.cfl.bytes a) ∧
  (∀ k, Store.get none t.vlt.nand k = Store.get none s.vlt.nand k)

end Sys2Proof.Machine
end

