-- ==== Sys2Proof/Certificates/Slice0/Obligations.lean ====
section
/-! DEFINITION. The statements for the provers: what each command of the controller does, and what every command keeps. A
command's clause says that it answers a next state and what that state holds. -/

open Sys2Proof Sys2Proof.Machine

/-- For every command c, state s and rest: if the queue of s is c followed by rest, step s is exec c on s with the queue rest. The
per-command statements reach a run through this one. -/
def Obligations.FrontCommandIsExecuted : Prop :=
  ∀ (c : Instr) (rest : List Instr) (s : State), s.pending = c :: rest →
    step s = exec c { s with pending := rest }

/-- Where no command waits, step answers the state with its cycle count one higher, but never above 399. That the block idles so
is the design choice of log entry 2; that a beat has 400 cycles is R42. -/
def Obligations.EmptyQueuePassesOneCycle : Prop :=
  ∀ s : State, s.pending = [] →
    step s = .next { s with glb := { s.glb with cycle := min 399 (s.glb.cycle + 1) } }

/-- For every command c and every state s there is a state t with exec c s = next t: no fault, no refusal. -/
def Obligations.EveryCommandAnswersANextState : Prop :=
  ∀ (c : Instr) (s : State), ∃ t, exec c s = .next t

/-- For every command c and states s, t: if exec c s answers t, the queue of t is the queue of s. -/
def Obligations.NoCommandTouchesTheQueue : Prop :=
  ∀ (c : Instr) (s t : State), exec c s = .next t → t.pending = s.pending

/-- For every state s that is sound (the register table, the DRAM lines, the flash array and the NAND chunks are canonical tables;
the recorder ring holds at most 8,192 records; the cycle count is at most 399): if step s answers t, t is sound. The canonical
form of a table is the model's own; the ring's size is R461 and the cycle count R42. -/
def Obligations.EveryStepKeepsASoundState : Prop :=
  ∀ s t : State, s.Inv → step s = .next t → t.Inv

/-- State.reset has canonical registers and memories, an empty recorder ring and cycle 0: it meets the invariant that every step
keeps. Every register field reads the reset value of its table, the identity word 0x41001F5A among them; the operating state
is POWERUP, the ring is empty, no command waits, and the next sequence number and the beat are 0. -/
def Obligations.StateAfterResetIsSound : Prop :=
  (State.reset.Inv) ∧
  ((∀ f : Fld, State.reset.get f = f.reset) ∧ (∀ g : Agent, State.reset.word g 0 = 0x41001F5A) ∧
     State.reset.glb.st = .powerup ∧
     State.reset.evr.ring = [] ∧ State.reset.evr.next = 0 ∧ State.reset.beat = 0 ∧ State.reset.pending = [])

/-- HOST_LINK_TRAINED with PERST high, the port's domains on and REFCLK present sets the link up, fast or not; the port is then
open to CXL.mem exactly in SERVE and GRACE on a link at 8 GT/s or faster. HOST_LINK_DOWN takes it down and closes the port.
PERST_ASSERT: the port is held down and closed; its MSI-X pending bits, held messages and function mask, its interrupt status
and its recorder cursor are reset, every per-agent register of its host reads its reset value, and no queue entry, DRAM line,
NAND chunk or byte of flash changes. PERST_DEASSERT releases the port and changes nothing else. -/
def Obligations.HostLinkAndPortReset : Prop :=
  (∀ (p : Port) (fast : Bool) (s : State), s.hp.perst.get p = false → s.domOn (80 + p.num) = true →
     s.domOn (82 + p.num) = true → s.glb.beatSrc = false →
     ∃ t, exec (.hostLinkTrained p fast) s = .next t ∧
       t = { s with hp := { s.hp with up := s.hp.up.set p true, fast := s.hp.fast.set p fast } } ∧
       t.portOpen p = (s.serving && fast)) ∧
  (∀ (p : Port) (s : State), ∃ t, exec (.hostLinkDown p) s = .next t ∧
     t = { s with hp := { s.hp with up := s.hp.up.set p false, fast := s.hp.fast.set p false } } ∧ t.portOpen p = false) ∧
  (∀ (p : Port) (s : State), ∃ t, exec (.perstAssert p) s = .next t ∧
     t.hp = { s.hp with perst := s.hp.perst.set p true, up := s.hp.up.set p false, fast := s.hp.fast.set p false } ∧
     t.portOpen p = false ∧ t.irq.pba.get p = 0 ∧ t.irq.held.get p = [] ∧ t.irq.funcMask.get p = false ∧
     t.irq.istat.get p.agent = 0 ∧ t.evr.cursor.get p.agent = 0 ∧ t.evr.gen.get p.agent = 0 ∧
     (∀ f : Fld, keyAgent f.key = p.agent.code → t.get f = f.reset) ∧
     t.pq.entries = s.pq.entries ∧ t.pq.held = s.pq.held ∧ t.cch = s.cch ∧ t.vlt = s.vlt ∧ t.glb.st = s.glb.st) ∧
  (∀ (p : Port) (s : State),
     exec (.perstDeassert p) s = .next { s with hp := { s.hp with perst := s.hp.perst.set p false } }) ∧
  (∀ (p : Port) (fast : Bool) (s : State), (¬ (s.hp.perst.get p ∨ !(s.domOn (80 + p.num) && s.domOn (82 + p.num)) ∨
     s.glb.beatSrc)) →
     exec (.hostLinkTrained p fast) s =
       .next ((s.updHp fun h => { h with up := h.up.set p true, fast := h.fast.set p fast }))) ∧
  (∀ (p : Port) (s : State), exec (.perstAssert p) s =
       .next (let s1 := (s.abandonFlash p.agent).dgeDrop p.agent 13
       ((s1.portReset p).updHp fun h => { h with
         perst := h.perst.set p true, up := h.up.set p false, fast := h.fast.set p false }))) ∧
  (∀ (p : Port) (s : State), exec (.hostLinkDown p) s =
       .next ((s.updHp fun h => { h with up := h.up.set p false, fast := h.fast.set p false })))

/-- CXL_MEM_WRITE on an open port: outside every committed window it completes at once with event 0x0207; inside one, it is
admitted if the conditions of R79 hold and no write of its class waits ahead on the port, else it joins the end of the held
writes while fewer than 256 are held. On a closed port nothing changes. The admission of a write that is not mirrored adds one
queue entry with the write's line, data, mask and class, numbered and stamped with the beat, charges one line of credit to its
port unless it is of class D, and completes the write; every other write keeps waiting. HELD_WRITE_ADMIT in SERVE or GRACE
goes through the classes A, B, C and D in turn and admits the port's held writes of each, oldest first, as far as the
conditions of R79 hold; HELD_SPAN_START for a port whose oldest held write has waited HELD_BEATS sets HELD with event 0x0203
and the port's held interrupt. -/
def Obligations.WritesAdmittedOrHeld : Prop :=
  (∀ (p : Port) (hpa : BitVec 52) (d : Line) (m : ByteMask) (b : Bool) (tag : BitVec 16) (s : State),
     s.portOpen p = false → exec (.cxlMemWrite p hpa d m b tag) s = .next s) ∧
  (∀ (p : Port) (hpa : BitVec 52) (d : Line) (m : ByteMask) (b : Bool) (tag : BitVec 16) (s : State),
     s.portOpen p = true → s.window p hpa.toNat = none →
     exec (.cxlMemWrite p hpa d m b tag) s = .next ((s.emit (.wrCpl p tag.toNat)).event 0x0207 (srcPort p))) ∧
  (∀ (p : Port) (hpa : BitVec 52) (d : Line) (m : ByteMask) (b : Bool) (tag : BitVec 16) (s : State) (c ca : Nat),
     s.portOpen p = true → s.window p hpa.toNat = some (c, ca) →
     (s.heldAhead p c = true ∨ s.admits ⟨p, c, ca / 64, d, m, b, tag.toNat, s.glb.beat⟩ = false) →
     (s.heldOf p).length < 256 →
     exec (.cxlMemWrite p hpa d m b tag) s =
       .next { s with pq := { s.pq with held := s.pq.held ++ [⟨p, c, ca / 64, d, m, b, tag.toNat, s.glb.beat⟩] } }) ∧
  (∀ (p : Port) (hpa : BitVec 52) (d : Line) (m : ByteMask) (b : Bool) (tag : BitVec 16) (s : State) (c ca : Nat),
     s.portOpen p = true → s.window p hpa.toNat = some (c, ca) → s.heldAhead p c = false →
     s.admits ⟨p, c, ca / 64, d, m, b, tag.toNat, s.glb.beat⟩ = true → m ≠ 0 → s.mirrored c = false →
     ∃ t, exec (.cxlMemWrite p hpa d m b tag) s = .next t ∧
       t.pq.entries = s.pq.entries ++ [⟨s.pq.nextId,
         (s.tileOf (ca / 64)).getD 0, ca / 64, d, m, c, s.glb.beat, none, b, false, false, true, 0⟩] ∧
       t.pq.nextId = s.pq.nextId + 1 ∧ t.pq.lastSeq = s.pq.lastSeq ∧ t.pq.held = s.pq.held ∧
       t.unspent p.num = (if c < 3 then s.unspent p.num - 1 else s.unspent p.num) ∧
       t.out = .wrCpl p tag.toNat :: s.out ∧ t.regs = s.regs ∧ t.cch = s.cch ∧ t.vlt = s.vlt ∧ t.evr = s.evr) ∧
  (∀ (p : Port) (s : State) (w : HeldWrite), s.serving = true → s.pq.held = [w] → w.port = p → w.cls < 4 →
     s.admits w = true →
     w.mask = 0 →
     exec (.heldWriteAdmit p) s = .next ({ s with pq := { s.pq with held := [] } }.emit (.wrCpl p w.tag))) ∧
  (∀ (p : Port) (s : State), (s.serving = false → exec (.heldWriteAdmit p) s = .next s) ∧ (s.serving = true →
     exec (.heldWriteAdmit p) s = .next ([0, 1, 2, 3].foldl (fun t c => t.admitHeld p c t.pq.held.length) s))) ∧
  (∀ (p : Port) (c n : Nat) (s : State), (∀ w, (s.pq.held.find? fun h => h.port = p && h.cls = c) = some w →
       State.admitHeld p c (n + 1) s = if s.admits w then
         State.admitHeld p c n ({ s with pq := { s.pq with held := s.pq.held.erase w } }.admitWrite w) else s) ∧
     ((s.pq.held.find? fun h => h.port = p && h.cls = c) = none → State.admitHeld p c (n + 1) s = s) ∧
       State.admitHeld p c 0 s = s) ∧
  (∀ (p : Port) (s : State), s.serving = true → s.heldLong p = true → s.pq.span.get p = false →
     exec (.heldSpanStart p) s =
       .next (((({ s with pq := { s.pq with span := s.pq.span.set p true } }.setB PQ_STATUS_HELD true).event
       0x0203 (srcPort p)).raise (5 + p.num)))) ∧
  (∀ (p : Port) (hpa : BitVec 52) (data : Line) (mask : ByteMask) (poison : Bool) (tag : BitVec 16) (s : State) (c ca : Nat),
     (¬ (!s.portOpen p)) →
     (s.window p hpa.toNat = some (c, ca)) →
     (!s.heldAhead p c && s.admits (⟨p, c, ca / 64, data, mask, poison, tag.toNat, s.glb.beat⟩)) →
     exec (.cxlMemWrite p hpa data mask poison tag) s =
       .next (let w : HeldWrite := ⟨p, c, ca / 64, data, mask, poison, tag.toNat, s.glb.beat⟩
       (s.admitWrite w)))

/-- BEAT_BOUNDARY in every state answers a next state whose beat count is one higher and whose cycle count is 0, and leaves the
steward alone. A write bound to a boundary takes effect with the first boundary at or after the one it is bound to, and waits
before it; one that is given in the seam (cycle 360 and later) is bound to the boundary after the next. -/
def Obligations.BeatBoundaryAndBoundWrites : Prop :=
  (∀ (back refclk aliveLow : Bool) (report : BitVec 96) (pg : BitVec 48) (s : State),
     ∃ t, exec (.beatBoundary back refclk aliveLow report pg) s = .next t ∧ t.glb.beat = s.glb.beat + 1 ∧ t.glb.cycle = 0 ∧
       t.stw = s.stw) ∧
  (∀ (back refclk aliveLow : Bool) (report : BitVec 96) (pg : BitVec 48) (s : State),
     exec (.beatBoundary back refclk aliveLow report pg) s =
       .next (let s1 := ((s.nextBeat back refclk aliveLow).applyBound.releasePass.swapPass).trickleBeat.ldgBoundary
       let s2 := (((s1.seqBoundary report.toNat).showPg pg.toNat).judgePg pg.toNat).abandonStep.offStep.coreStopDue
       let s3 := (s2.tileBoundary.slicesEnd.issuePrepared.ctlBoundary.spanEnd .pa).spanEnd .pb
       (s3.closeLedger.planClose.drainClose.rangesEnd.sealNow.leaveBoot.shedQuiesce.dueTasks))) ∧
  (∀ (s : State) (b : BoundWrite), Store.wf 0 s.regs = true → s.glb.bound = [b] → b.due ≤ s.glb.beat →
     s.applyBound.get b.fld = b.val % 2 ^ b.fld.width ∧ s.applyBound.glb = { s.glb with bound := [] } ∧
     State.RegsBut [b.fld] s s.applyBound) ∧
  (∀ (s : State), (∀ b ∈ s.glb.bound, s.glb.beat < b.due) → s.applyBound = s) ∧
  (∀ (s : State) (f : Fld) (v : Nat),
     s.bindWrite f v = { s with glb := { s.glb with bound := s.glb.bound ++ [⟨s.glb.beat + (if 360 ≤ s.glb.cycle then 2 else 1), f, v⟩] } })

/-- For every command c other than BEAT_BOUNDARY, VDDAON_LOSS and VDDAON_POWER_ON and all states s, t: if exec c s answers t, t
has the beat count of s, and, unless c is CONTROL_SAMPLE, the cycle count of s. -/
def Obligations.OnlyBoundariesAndVddaonMoveTheBeat : Prop :=
  ∀ (c : Instr) (s t : State), (∀ a b d e f, c ≠ .beatBoundary a b d e f) → (∀ v, c ≠ .vddaonPowerOn v) → c ≠ .vddaonLoss →
    exec c s = .next t → t.glb.beat = s.glb.beat ∧ ((∀ a, c ≠ .controlSample a) → t.glb.cycle = s.glb.cycle)

/-- REFCLK_LOSS with REFCLK running the beat: BEATSRC sets, event 0x0110, both host links go down, and a mirror link that is off
stays off; while the oscillator runs the beat it changes nothing. REFCLK_RETURN at a boundary after 100 consecutive beats with
REFCLK clears BEATSRC with event 0x0111, and not before. CREDIT_PUBLICATION, the first in a beat, with no write held and
admission running: the zone of the close shows, each port's credit is its grant less its debt and the close's admissions, and
what is owed beyond the grant stays as debt; a second one in the beat changes nothing. HEALTH_FIGURES_STALE sets STALE with
event 0x0405 when the governing test is HSTALE hours old. -/
def Obligations.TimerSourceAndPublication : Prop :=
  (∀ (s : State), s.glb.beatSrc = false ∧ s.get MLK_STATUS_LSTATE = 0 →
     exec .refclkLoss s = .next (({ s with glb := { s.glb with beatSrc := true, refBeats := 0 } }.event 0x0110 0).updHp fun h => { h with up := ⟨false, false⟩, fast := ⟨false, false⟩ })) ∧
  (∀ s : State, s.glb.beatSrc = true → exec .refclkLoss s = .next s) ∧
  (∀ (s : State), s.glb.cycle = 0 ∧ s.glb.beatSrc = true ∧ 100 ≤ s.glb.refBeats →
     exec .refclkReturn s = .next ({ s with glb := { s.glb with beatSrc := false } }.event 0x0111 0)) ∧
  (∀ (s : State), ¬(s.glb.cycle = 0 ∧ s.glb.beatSrc = true ∧ 100 ≤ s.glb.refBeats) → exec .refclkReturn s = .next s) ∧
  (∀ s : State, Store.wf 0 s.regs = true → s.glb.published = false → s.pq.held = [] → s.drn.stop = false →
     s.sti.active ≠ none →
     s.glb.st ≠ .powerup → ∃ t, exec .creditPublication s = .next t ∧ t.glb = { s.glb with published := true } ∧
       t.get LDG_STATUS_ZONE = s.ldg.nextZone % 4 ∧
         t = { s with regs := t.regs, glb := t.glb, irq := t.irq, evr := t.evr, mbx := t.mbx, ldg := t.ldg, out := t.out } ∧
         t.ldg.closeUsed = [] ∧
       ∀ n, n < 3 →
         let owed := s.get (LDG_CRED_DEBT n) + Store.get 0 s.ldg.closeUsed n
         let g := if s.streamOpen n = true ∧ s.ldg.nextZone ≠ 2 then s.grant s.ldg.lines n else 0
         t.get (LDG_CRED_CREDIT n) = (g - owed) % 2 ^ 13 ∧ t.get (LDG_CRED_DEBT n) = (owed - g) % 2 ^ 13 ∧
           t.unspent n = g - owed) ∧
  (∀ s : State, s.glb.published = true → exec .creditPublication s = .next s) ∧
  (∀ (s : State), s.testStale = true ∧ s.bit LDG_STATUS_STALE = false →
     exec .healthFiguresStale s = .next ((s.setB LDG_STATUS_STALE true).event 0x0405 0)) ∧
  (∀ (s : State), ¬(s.testStale = true ∧ s.bit LDG_STATUS_STALE = false) →
     exec .healthFiguresStale s = .next (if s.testStale then s else s.setB LDG_STATUS_STALE false)) ∧
  (∀ (s : State), (¬ (s.glb.published)) →
     ((((s.publishCredit (s.drn.stop && decide (s.glb.beat ≤ s.drn.stopBeat))).updGlb fun g => { g with published := true }).resume).serving) →
     exec .creditPublication s =
       .next (let void := s.drn.stop && decide (s.glb.beat ≤ s.drn.stopBeat)
       let s1 := ((s.publishCredit void).updGlb fun g => { g with published := true }).resume
       ((s1.admitAll .pa).admitAll .pb))) ∧
  (∀ (s : State), (¬ (s.glb.published)) →
     (¬ ((((s.publishCredit (s.drn.stop && decide (s.glb.beat ≤ s.drn.stopBeat))).updGlb fun g => { g with published := true }).resume).serving)) →
     exec .creditPublication s =
       .next (let void := s.drn.stop && decide (s.glb.beat ≤ s.drn.stopBeat)
       let s1 := ((s.publishCredit void).updGlb fun g => { g with published := true }).resume
       s1))

/-- CXL_MEM_READ on an open port: outside every committed window it completes with poisoned zeros and event 0x0207; inside one, on
a restored line with no queue entry, with no error on its codeword, it completes at once with the line's data and its poison,
the beat's DRAM traffic counting its 64 bytes; on a closed port nothing changes. On an answering port DECODER_COMMIT commits
the decoder where its binding is valid and the window, in units of 256 MiB, lies within the class region and no accepted swap
guards it; else it stays uncommitted with Commit Error and event 0x0204; clearing Commit takes the window away. PQ_BIND_WRITE
writes class, valid and offset of an uncommitted decoder and is ignored while it is committed. -/
def Obligations.ReadsDecodersAndBindings : Prop :=
  (∀ (p : Port) (hpa : BitVec 52) (tag : BitVec 16) (err : Codeword) (s : State),
     s.portOpen p = false → exec (.cxlMemRead p hpa tag err) s = .next s) ∧
  (∀ (p : Port) (hpa : BitVec 52) (tag : BitVec 16) (err : Codeword) (s : State),
     s.portOpen p = true → s.window p hpa.toNat = none →
     exec (.cxlMemRead p hpa tag err) s = .next ((s.emit (.rdCpl p tag.toNat 0 true)).event 0x0207 (srcPort p))) ∧
  (∀ (p : Port) (hpa : BitVec 52) (tag : BitVec 16) (s : State) (c ca : Nat),
     s.portOpen p = true → s.window p hpa.toNat = some (c, ca) → s.entriesOf (ca / 64) = [] → s.inDram (ca / 64) = true →
     s.lineLost (ca / 64) = false →
     exec (.cxlMemRead p hpa tag 0) s =
       .next ((s.dramMove 64).emit (.rdCpl p tag.toNat (s.line (ca / 64)).data (s.line (ca / 64)).poison))) ∧
  (∀ (p : Port) (k : BitVec 2) (base size : BitVec 52) (s : State), s.answers p.agent = true ∧
     s.commitFine p k.toNat base.toNat size.toNat = true →
     exec (.decoderCommit p k base size true) s = .next (s.setDecoder p k.toNat ⟨base.toNat, size.toNat, true, false⟩)) ∧
  (∀ (p : Port) (k : BitVec 2) (base size : BitVec 52) (s : State), s.answers p.agent = true ∧
     s.commitFine p k.toNat base.toNat size.toNat = false →
     exec (.decoderCommit p k base size true) s =
       .next ((s.setDecoder p k.toNat ⟨base.toNat, size.toNat, false, true⟩).event 0x0204 (srcPair 1 p.num k.toNat))) ∧
  (∀ (p : Port) (k base size : Nat) (s : State), s.commitFine p k base size = true ↔
     s.get (PQ_BIND_VALID p.num k) = 1 ∧ s.get (PQ_BIND_CLASS p.num k) < 4 ∧
     s.get (PQ_BIND_OFF p.num k) * 2 ^ 28 + size ≤ s.img.size (s.get (PQ_BIND_CLASS p.num k)) ∧ size % 2 ^ 28 = 0 ∧
     base % 2 ^ 28 = 0 ∧ bitOf s.sti.guardClasses (s.get (PQ_BIND_CLASS p.num k)) = false) ∧
  (∀ (p : Port) (k : BitVec 2) (base size : BitVec 52) (s : State), s.answers p.agent = true →
     exec (.decoderCommit p k base size false) s = .next (s.setDecoder p k.toNat ⟨base.toNat, size.toNat, false, false⟩)) ∧
  (∀ (p : Port) (k : BitVec 2) (w : Word) (s : State), s.answers p.agent = true ∧ (s.decoder p k.toNat).committed = false ∧
     Store.wf 0 s.regs = true →
     exec (.pqBindWrite p k w) s = .next (((s.set (PQ_BIND_CLASS p.num k.toNat) (w.toNat % 8)).set
       (PQ_BIND_VALID p.num k.toNat) (w.toNat / 8 % 2)).set (PQ_BIND_OFF p.num k.toNat) (w.toNat / 65536))) ∧
  (∀ (p : Port) (k : BitVec 2) (w : Word) (s : State), (s.decoder p k.toNat).committed = true →
     exec (.pqBindWrite p k w) s = .next s)

/-- STAMP_LO_WRITE by the port's own host holds the low half. STAMP_HI_WRITE forms the stamp from the low half held, or from that
of the same 8-byte access, which is then cleared. While the horizon is frozen nothing else happens. A stamp not above the last
one only counts PQ_STALE. A newer one, with no session and every sequence acknowledged and no stamp pending, becomes the last
stamp and the local horizon, and the mirrored horizon with it. A write by another host changes neither half nor horizon; it
counts PQ_STALE of the writer's port with event 0x0201; a write by the steward changes nothing. GLOBAL_PERSISTENT_FLUSH
answers both phases with event 0x0206. -/
def Obligations.StampsAndPersistentFlush : Prop :=
  (∀ (p : Port) (v : Word) (s : State), s.answers p.agent = true →
     exec (.stampLoWrite p.agent p v) s = .next { s with pq := { s.pq with stampLo := s.pq.stampLo.set p v.toNat } }) ∧
  (∀ (p : Port) (hi : Word) (lo : Option Word) (s : State), s.answers p.agent = true → s.bit PQ_STATUS_HZ_FROZEN = true →
     exec (.stampHiWrite p.agent p hi lo) s = .next { s with pq := { s.pq with stampLo := s.pq.stampLo.set p 0 } }) ∧
  (∀ (p : Port) (hi lo : Word) (s : State), s.answers p.agent = true → s.bit PQ_STATUS_HZ_FROZEN = false →
     lo.toNat + 2 ^ 32 * hi.toNat ≤ s.pq.lastStamp.get p →
     exec (.stampHiWrite p.agent p hi (some lo)) s =
       .next ({ s with pq := { s.pq with stampLo := s.pq.stampLo.set p 0 } }.count (PQ_STALE_COUNT p.num) 1)) ∧
  (∀ (p : Port) (hi : Word) (s : State), s.answers p.agent = true → Store.wf 0 s.regs = true →
     s.bit PQ_STATUS_HZ_FROZEN = false → s.get MTX_STATUS_SESSION = 0 →
     s.pq.lastStamp.get p < s.pq.stampLo.get p + 2 ^ 32 * hi.toNat → s.pq.stampLo.get p < 2 ^ 32 →
       s.pq.lastMirror ≤ s.acked →
     s.pq.pend.get p = [] →
     ∃ t, exec (.stampHiWrite p.agent p hi none) s = .next t ∧
       t.pq.lastStamp = s.pq.lastStamp.set p (s.pq.stampLo.get p + 2 ^ 32 * hi.toNat) ∧ t.pq.stampLo = s.pq.stampLo.set p 0 ∧
       t.lhz p = s.pq.stampLo.get p + 2 ^ 32 * hi.toNat ∧ t.mhz p = s.pq.stampLo.get p + 2 ^ 32 * hi.toNat ∧
       t.pq.entries = s.pq.entries ∧ t.pq.pend = s.pq.pend ∧ t.cch = s.cch ∧ t.vlt = s.vlt ∧ t.mbx = s.mbx) ∧
  (∀ (p q : Port) (v : Word) (lo : Option Word) (s : State), s.answers q.agent = true → p ≠ q →
     exec (.stampHiWrite q.agent p v lo) s = .next ((s.count (PQ_STALE_COUNT q.num) 1).event 0x0201 (srcPort q)) ∧
     exec (.stampLoWrite q.agent p v) s = .next ((s.count (PQ_STALE_COUNT q.num) 1).event 0x0201 (srcPort q)) ∧
     exec (.stampHiWrite .stw p v lo) s = .next s ∧ exec (.stampLoWrite .stw p v) s = .next s) ∧
  (∀ (p : Port) (s : State), s.answersFast p = true →
     exec (.globalPersistentFlush p) s = .next ((s.emit (.gpf p)).event 0x0206 (srcPort p))) ∧
  (∀ (g : Agent) (p : Port) (hi : Word) (lo : Option Word) (s : State), (¬ (!s.answers g)) →
     (¬ (g ≠ p.agent)) →
     (¬ (s.bit PQ_STATUS_HZ_FROZEN)) →
     (s.pq.lastStamp.get p < ((match lo with | some w => w.toNat | none => s.pq.stampLo.get p) + 2 ^ 32 * hi.toNat)) →
     exec (.stampHiWrite g p hi lo) s =
       .next (let low := match lo with | some w => w.toNat | none => s.pq.stampLo.get p
       let v := low + 2 ^ 32 * hi.toNat
       let s1 := s.updPq fun q => { q with stampLo := q.stampLo.set p 0 }
       let s2 := s1.commitStamp p v
       (s2.sendStamp p v s.pq.lastMirror)))

/-- On a port whose domains are on, each query answers with return code 0 and changes nothing else: the capacity is the sum of the
committed windows in units of 256 MiB, the shutdown state and the event log are the port's own, the timestamp runs on with the
beat from the value set and is 0 before. What a payload holds beyond the figures named here the spec leaves open.
SET_SHUTDOWN_STATE stores the state; CLEAR_EVENT_RECORDS removes one record by its handle or all; SET_TIMESTAMP stores the
value and the beat; every other opcode answers code 3 (Unsupported), the opcodes' own numbers being log entry 12's. -/
def Obligations.MemoryDeviceMailbox : Prop :=
  (∀ (p : Port) (s : State), s.answers p.agent = true →
     ∃ l, exec (.identifyMemoryDevice p) s = .next (s.emit (.mbx p 0x4000 0
       (([0, 1, 2, 3].map fun k => if (s.decoder p k).committed then (s.decoder p k).size else 0).foldl (· + ·) 0 / 2 ^ 28 :: l)))) ∧
  (∀ (p : Port) (s : State), s.answers p.agent = true →
     ∃ l, exec (.getHealthInfo p) s = .next (s.emit (.mbx p 0x4200 0 (s.mbx.dirtyCount :: l)))) ∧
  (∀ (p : Port) (v : BitVec 8) (s : State), s.answers p.agent = true →
     exec (.getShutdownState p) s = .next (s.emit (.mbx p 0x4203 0 [s.mbx.shutdown.get p])) ∧
     exec (.setShutdownState p v) s =
       .next ({ s with mbx := { s.mbx with shutdown := s.mbx.shutdown.set p v.toNat } }.emit (.mbx p 0x4204 0 []))) ∧
  (∀ (p : Port) (s : State), s.answers p.agent = true →
     (∃ l, exec (.getSupportedLogs p) s = .next (s.emit (.mbx p 0x0400 0 l))) ∧
     (∃ l, exec (.getLog p) s = .next (s.emit (.mbx p 0x0401 0 l))) ∧
     ∃ l, exec (.getFwInfo p) s = .next (s.emit (.mbx p 0x0200 0 (s.get64 STW_FWVER_LO_VALUE STW_FWVER_HI_VALUE :: l)))) ∧
  (∀ (p : Port) (s : State), s.answers p.agent = true → exec (.getEventRecords p) s =
     .next (s.emit (.mbx p 0x0100 0 ((s.mbx.log.get p).flatMap fun r => [r.handle, r.code, r.beat, r.sev])))) ∧
  (∀ (p : Port) (s : State), s.answers p.agent = true →
     exec (.clearEventRecords p none) s =
       .next ({ s with mbx := { s.mbx with log := s.mbx.log.set p [] } }.emit (.mbx p 0x0101 0 [])) ∧
     ∀ n : BitVec 16, exec (.clearEventRecords p (some n)) s = .next ({ s with mbx := { s.mbx with
       log := s.mbx.log.set p ((s.mbx.log.get p).filter fun r => r.handle % 65536 ≠ n.toNat) } }.emit (.mbx p 0x0101 0 []))) ∧
  (∀ (p : Port) (ns : BitVec 64) (s : State), s.answers p.agent = true →
     exec (.getTimestamp p) s = .next (s.emit (.mbx p 0x0300 0
       [match s.mbx.stamp.get p with | some x => x.2 + 1000 * (s.glb.beat - x.1) | none => 0])) ∧
     ∃ t, exec (.setTimestamp p ns) s = .next t ∧
       t.mbx = { s.mbx with stamp := s.mbx.stamp.set p (some (s.glb.beat, ns.toNat)) } ∧
       (∃ l, t.out = .mbx p 0x0301 0 [] :: l) ∧ t.pq = s.pq ∧ t.cch = s.cch ∧ t.glb = s.glb) ∧
  (∀ (p : Port) (op : BitVec 16) (s : State), s.answers p.agent = true →
     exec (.unsupportedMailboxCommand p op) s = .next (s.emit (.mbx p op.toNat 3 []))) ∧
  (∀ (p : Port) (ns : BitVec 64) (s : State), (¬ (!s.answers p.agent)) →
     exec (.setTimestamp p ns) s =
       .next ((((s.updMbx fun m => { m with stamp := m.stamp.set p (some (s.glb.beat, ns.toNat)) }).wallTime (ns.toNat / 1000000000)).answerMbx
         p 0x0301 0 [])))

/-- For every state and every line whose rank is not lost behind a failed rail: decoding the codeword RS(80,64) that the line is
stored as, with no error on it, gives the stored data as a good word, or as poison with no corrected symbol where the line
stands as poison, and the read changes nothing. A line of a lost rank reads as uncorrectable, whatever it meets. -/
def Obligations.DramLinesReadBackAsStored : Prop :=
  (∀ (s : State) (la : Nat), s.lineLost la = false → s.dramRead la 0 =
     (if (s.line la).poison then .poison (s.line la).data [] else .good (s.line la).data, s)) ∧
  (∀ (s : State) (la : Nat) (err : Codeword), s.lineLost la = true → s.dramRead la err = (.uncorrectable, s))

/-- CONTROL_SAMPLE with a sample of the beat due, on its own conversions, moves the beat to its cycle. With the engine off, no
hand-over and no hold: the eight channels show, no gate is driven, nothing is recorded. In charge, discharge or a health test,
in fixed point with no parallel run and no health test, when no conversion meets a limit: the numbers, the phases on and the
low gates that the sample before decided take effect, the mode stays, and what the fixed-point law makes of the slewed
set-points and the sensed values is kept for the next sample. -/
def Obligations.ControlSampleOffAndFixedPoint : Prop :=
  (∀ (codes : BitVec 96) (s : State), s.sampleIndex < 400 / s.sampleCycles → (s.sampleCycles ≠ 8 ∨ s.sampleIndex % 5 ≠ 1) →
     Store.wf 0 s.regs = true → s.mode = 0 → s.ctl.hand = 0 → s.ctl.hold = 0 →
     ∃ t, exec (.controlSample codes) s = .next t ∧
       t = { s with regs := t.regs, ctl := t.ctl, glb := { s.glb with cycle := s.sampleIndex * s.sampleCycles } } ∧
       t.gates = (0, 0) ∧
       (∀ n, n < 8 → t.get (CTL_MEAS_VALUE n) = ((s.img.sense n (codeOf codes n)) % 2 ^ 32).toNat) ∧
       s.RegsBut ([0, 1, 2, 3, 4, 5, 6, 7].map CTL_MEAS_VALUE ++ [CTL_STATUS_DEAD]) t) ∧
  (∀ (codes : BitVec 96) (s : State), s.sampleIndex < 400 / s.sampleCycles → (s.sampleCycles ≠ 8 ∨ s.sampleIndex % 5 ≠ 1) →
     Store.wf 0 s.regs = true → (s.mode = 1 ∨ s.mode = 2 ∨ s.mode = 3) → s.ctl.hand = 0 →
     s.ctl.hold = 0 → s.bit CTL_STATUS_FMT = false → s.ctl.bf = none → s.ctl.ht = none →
     (∀ p, p < s.img.phases → ((s.senseOf codes).il.getD p 0).natAbs < 16 * s.img.iphTrip) →
     (s.senseOf codes).vbus < 16 * (s.img.vbusOv : Int) → (s.senseOf codes).vbank < 16 * ((s.img.vchgMax : Int) + 1000) →
     0 < codeOf codes 4 → codeOf codes 4 < 4095 → 0 < codeOf codes 6 → codeOf codes 6 < 4095 →
     ∃ t, exec (.controlSample codes) s = .next t ∧
       t = { s with regs := t.regs, ctl := t.ctl, glb := { s.glb with cycle := s.sampleIndex * s.sampleCycles } } ∧
       t.mode = s.mode ∧ t.ctl.hold = 0 ∧
       t.ctl.nums = s.ctl.next ∧ t.ctl.on = s.ctl.nextOn ∧ t.ctl.low = s.ctl.nextLow ∧
       let d := s.img.fixedStep s.mode (s.slewed s.ctl.next 0) (s.senseOf codes) ⟨s.ctl.nextOn, s.ctl.nextLow, s.ctl.nextZc⟩
       t.ctl.next = d.nums ∧ t.ctl.nextOn = d.on ∧ t.ctl.nextLow = d.low ∧ t.ctl.nextHb = d.hb) ∧
  (∀ (codes : BitVec 96) (s : State), (¬ (400 / s.sampleCycles ≤ s.sampleIndex)) →
     (¬ (s.sampleCycles = 8 ∧ s.sampleIndex % 5 = 1)) →
     exec (.controlSample codes) s =
       .next (let k := s.sampleIndex
       let t := (s.updGlb fun g => { g with cycle := k * s.sampleCycles }).updCtl fun c => { c with sample := k + 1 }
       (t.sampleNow codes true))) ∧
  (∀ (codes : BitVec 96) (s : State), (¬ (400 / s.sampleCycles ≤ s.sampleIndex)) →
     (s.sampleCycles = 8 ∧ s.sampleIndex % 5 = 1) →
     exec (.controlSample codes) s =
       .next (let k := s.sampleIndex
       let t := (s.updGlb fun g => { g with cycle := k * s.sampleCycles }).updCtl fun c => { c with sample := k + 1 }
       (t.sampleNow s.ctl.codes false))) ∧
  (∀ (codes : BitVec 96) (s : State), (400 / s.sampleCycles ≤ s.sampleIndex) →
     exec (.controlSample codes) s =
       .next (s))

/-- PROTECTIVE_TRIP in discharge, with no health test and no parallel run, in fixed point, when the current of a phase in use
reaches IPH_TRIP: PH_TRIP and FAULT latch with event 0x0503 and its interrupt, every gate is low and the hold begins; the mode
stays. When no conversion meets a limit nothing changes but the counts of conversions at an end of the range and, outside off,
the record of the limits that the conversions before met (log entry 83). FAULT_RESTART: before the 41st sample of the hold
nothing changes; at its end, in discharge the engine starts from the latest sample in fixed point, in charge it asks for the
hand-over into charge, gates low. -/
def Obligations.ProtectiveTripAndFaultRestart : Prop :=
  (∀ (codes : BitVec 96) (s : State) (p : Nat), Store.wf 0 s.regs = true → s.mode = 2 → s.ctl.hold = 0 → s.ctl.ht = none →
     s.ctl.bf = none → s.bit CTL_STATUS_FMT = false → p < s.img.phases →
       16 * s.img.iphTrip ≤ ((s.senseOf codes).il.getD p 0).natAbs →
     ∃ t, exec (.protectiveTrip codes false) s = .next t ∧ t.get CTL_FAULT_PH_TRIP = 1 ∧ t.get CTL_STATUS_FAULT = 1 ∧
       t.ctl.on = 0 ∧ t.ctl.low = 15 ∧ t.ctl.nextOn = 0 ∧ t.ctl.nextLow = 15 ∧ t.ctl.hold = 2 ∧ t.mode = 2 ∧
       bitOf (t.irq.istat.get .stw) 12 = true ∧
       t = { s with regs := t.regs, ctl := t.ctl, evr := t.evr, irq := t.irq, mbx := t.mbx, out := t.out }) ∧
  (∀ (codes : BitVec 96) (s : State),
     (∀ p, p < s.img.phases → ((s.senseOf codes).il.getD p 0).natAbs < 16 * s.img.iphTrip) →
     (s.senseOf codes).vbus < 16 * (s.img.vbusOv : Int) → (s.senseOf codes).vbank < 16 * ((s.img.vchgMax : Int) + 1000) →
     0 < codeOf codes 4 → codeOf codes 4 < 4095 → 0 < codeOf codes 6 → codeOf codes 6 < 4095 →
     exec (.protectiveTrip codes false) s =
       .next { s with ctl := { s.ctl with range4 := 0, range6 := 0, met := if s.mode = 0 ∧ s.ctl.hand = 0 then s.ctl.met else 0 } }) ∧
  (∀ s : State, s.ctl.hold ≠ 41 → exec .faultRestart s = .next s) ∧
  (∀ s : State, Store.wf 0 s.regs = true → s.ctl.hold = 41 → s.mode = 1 → s.ctl.hand ≠ 1 → s.bit CTL_CTRL_CHG_EN = true →
     s.ctl.bf = none →
     ∃ t, exec .faultRestart s = .next t ∧ t.ctl.hand = 2 ∧ t.ctl.hold = 0 ∧ t.ctl.on = 0 ∧ t.ctl.low = 15 ∧ t.mode = 1 ∧
       t.get CTL_STATUS_FMT = 0 ∧ t = { s with regs := t.regs, ctl := t.ctl }) ∧
  (∀ s : State, Store.wf 0 s.regs = true → s.ctl.hold = 41 → s.mode = 2 → ∃ t, exec .faultRestart s = .next t ∧
     t.ctl.hold = 0 ∧ t.mode = 2 ∧
       t.get CTL_STATUS_FMT = 0 ∧ t.ctl.nums.r = s.meas 7 ∧ t.ctl.nums.i1 = s.meas 7 ∧
         t = { s with regs := t.regs, ctl := t.ctl }) ∧
  (∀ (codes : BitVec 96) (shoot : Bool) (s : State), (¬ (shoot ∧ s.comparing)) →
     exec (.protectiveTrip codes shoot) s =
       .next (let s1 := s.protect codes
       s1)) ∧
  (∀ (codes : BitVec 96) (shoot : Bool) (s : State), (shoot ∧ s.comparing) →
     exec (.protectiveTrip codes shoot) s =
       .next (let s1 := s.protect codes
       (s1.ctlFault s.mode 5 0))) ∧
  (∀ (s : State), (¬ (s.ctl.hold ≠ 41)) →
     (s.mode = 2) →
     exec .faultRestart s =
       .next (let s0 := (s.updCtl fun c => { c with hold := 0 }).setB CTL_STATUS_FMT false
       let v := fun n => s.meas n
       (s0.startDischarge ⟨[v 0, v 1, v 2, v 3], v 4, v 5, v 6, v 7, s.scanCode s.img.tscan⟩))) ∧
  (∀ (s : State), (¬ (s.ctl.hold ≠ 41)) →
     (¬ (s.mode = 2)) →
     (¬ (s.mode = 0 ∨ s.ctl.hand = 1 ∨ s.ctl.hand = 3)) →
     (¬ (s.mode = 4)) →
     exec .faultRestart s =
       .next (let s0 := (s.updCtl fun c => { c with hold := 0 }).setB CTL_STATUS_FMT false
       (s0.toCharge false)))

/-- BF_RUN_START opens a parallel run in charge or discharge once BF_EN is set, the engine runs in fixed point with no run open,
no hand-over, no hold and fewer than 8 failures, 1,000 beats after the last one; else nothing. BF_RUN_END judges a run of 64
samples with BF_EN still set: without a difference block floating point takes over with event 0x050B and the failures clear; a
difference counts a failure with its cause and event 0x0504, the eighth with 0x0505 too; a run of fewer samples goes on.
BF_RETRY clears the failures. SETPOINT_WRITE stores a set-point that stands within the bounds of R516 and ignores one outside. -/
def Obligations.BlockFloatingPointRunsAndSetPoints : Prop :=
  (∀ (s : State), (s.mode = 1 ∨ s.mode = 2) ∧ s.ctl.hand = 0 ∧ s.ctl.hold = 0 ∧ s.get CTL_CTRL_BF_EN = 1 ∧
     s.get CTL_STATUS_FMT ≠ 1 ∧
       s.ctl.bf = none ∧ s.get CTL_BF_FAILS < 8 ∧ s.ctl.runFrom + 1001 ≤ s.glb.beat →
     exec .bfRunStart s = .next ({ s with ctl := { s.ctl with bf := some ⟨0, 0, s.ctl.nums, s.ctl.nums⟩ } }.setB CTL_STATUS_PARALLEL true)) ∧
  (∀ (s : State), ¬((s.mode = 1 ∨ s.mode = 2) ∧ s.ctl.hand = 0 ∧ s.ctl.hold = 0 ∧ s.get CTL_CTRL_BF_EN = 1 ∧
     s.get CTL_STATUS_FMT ≠ 1 ∧
       s.ctl.bf = none ∧ s.get CTL_BF_FAILS < 8 ∧ s.ctl.runFrom + 1001 ≤ s.glb.beat) → exec .bfRunStart s = .next s) ∧
  (∀ (s : State) (b : BfRun), s.ctl.bf = some b → b.n < 64 → exec .bfRunEnd s = .next s) ∧
  (∀ (s : State) (b : BfRun), s.ctl.bf = some b → 64 ≤ b.n → s.bit CTL_CTRL_BF_EN = true → b.bad = 0 →
     exec .bfRunEnd s = .next
     ((((({ s with ctl := { s.ctl with bf := none, runFrom := s.glb.beat, next := b.next } }.setB CTL_STATUS_PARALLEL false)).setB
       CTL_STATUS_FMT true).set CTL_BF_FAILS 0).event 0x050B 0)) ∧
  (∀ (s : State) (b : BfRun), s.ctl.bf = some b → 64 ≤ b.n → s.bit CTL_CTRL_BF_EN = true → b.bad ≠ 0 →
     let n := s.get CTL_BF_FAILS + 1
     let s1 := { s with ctl := { s.ctl with bf := none, runFrom := s.glb.beat } }.setB CTL_STATUS_PARALLEL false
     let s2 := (((s1.set CTL_BF_FAILS n).set CTL_BF_LAST b.bad).setB CTL_STATUS_BF_REFUSED true).event 0x0504 0
     exec .bfRunEnd s = .next (if n = 8 then s2.event 0x0505 0 else s2)) ∧
  (∀ s : State, exec .bfRetry s = .next (s.set CTL_BF_FAILS 0)) ∧
  (∀ (w : Word) (s : State), exec (.setpointWrite 0 w) s =
     .next (if 10800 ≤ w.toNat % 65536 ∧ w.toNat % 65536 ≤ 13200 then s.set CTL_SET_VBUS_TARGET (w.toNat % 65536) else s)) ∧
  (∀ (w : Word) (s : State), exec (.setpointWrite 1 w) s =
     .next (if s.img.vfloor + 1000 ≤ w.toNat % 65536 ∧
       w.toNat % 65536 ≤ s.img.vchgMax then s.set CTL_SET_VCHG_TARGET (w.toNat % 65536) else s)) ∧
  (∀ (w : Word) (s : State), exec (.setpointWrite 2 w) s =
     .next (let t := if 1 ≤ w.toNat % 65536 ∧
       w.toNat % 65536 ≤ s.img.ibankChg then s.set CTL_SET_IBANK_CHG (w.toNat % 65536) else s
       if 1 ≤ w.toNat / 65536 ∧ w.toNat / 65536 ≤ s.img.ibankDis then t.set CTL_SET_IBANK_DIS (w.toNat / 65536) else t))

/-- HEALTH_TEST_GO with no test running, in SERVE in zone white, in charge with no hand-over to discharge pending, with the bank
within 500 mV of its set-point for 1,000 beats and no release pending: the test begins, BUSY with step 1, and the next sample
is the dead sample that hands over to it. Else RESULT shows refused, HT_DONE sets with event 0x0508, and the test stays
wanted. HEALTH_TEST_SCHEDULED after HOURS hours and HEALTH_TEST_RETRY 1,000 beats after a refusal do what GO does, and nothing
before. HEALTH_TEST_ABORT without a test changes nothing; in steps 1 to 4 it ends the test with RESULT 2 and event 0x0508 and
goes back to charge. HEALTH_TEST_STEP_END takes a finished step 1 or 2 to the next, and HEALTH_TEST_RECHARGED ends step 5 near
the set-point. -/
def Obligations.HealthTestBeginsOrIsRefused : Prop :=
  (∀ s : State, s.ctl.ht = none → s.ctl.bf = none → s.glb.st = .serve ∧ s.get LDG_STATUS_ZONE = 0 ∧ s.mode = 1 ∧
     s.ctl.hand ≠ 1 ∧ 1000 ≤ s.ctl.nearRun ∧
       s.get LDG_BANKREL_PENDING = 0 →
     ∃ t, exec .healthTestGo s = .next t ∧ t.ctl.ht = some ⟨1, 0, s.modsIn, 0, 0, 0, 0, 0⟩ ∧ t.ctl.hand = 3 ∧
       t.ctl.htWant = false ∧
       t.ctl.on = 0 ∧ t.ctl.low = 15 ∧ t = { s with regs := t.regs, ctl := t.ctl } ∧
       t.regs = (((s.set CTL_STATUS_PHASE_ON 0).setB CTL_HT_STATUS_BUSY true).set CTL_HT_STATUS_STEP 1 |>.setB CTL_STATUS_FMT false).regs) ∧
  (∀ s : State, ¬(s.ctl.ht = none ∧ s.glb.st = .serve ∧ s.get LDG_STATUS_ZONE = 0 ∧ s.mode = 1 ∧ s.ctl.hand ≠ 1 ∧
     1000 ≤ s.ctl.nearRun ∧
       s.get LDG_BANKREL_PENDING = 0) → exec .healthTestGo s = .next
     ((({ s with ctl := { s.ctl with htWant := true, htTry := s.glb.beat } }.set CTL_HT_STATUS_RESULT 4).setB CTL_STATUS_HT_DONE true).event 0x0508 0)) ∧
  (∀ s : State, s.get CTL_HT_CTRL_HOURS ≠ 0 → s.ctl.htRef + s.get CTL_HT_CTRL_HOURS * 3600000000 + 1 ≤ s.glb.beat →
     s.ctl.htWant = false → ∃ t, exec .healthTestScheduled s = .next t ∧ exec .healthTestGo s = .next t) ∧
  (∀ (s : State), exec .healthTestGo s = .next (s.htTry)) ∧
  (∀ (s : State), (s.get CTL_HT_CTRL_HOURS ≠ 0 ∧ s.expired s.ctl.htRef (s.get CTL_HT_CTRL_HOURS * 3600000000) ∧
     !s.ctl.htWant) →
     exec .healthTestScheduled s =
       .next (s.htTry)) ∧
  (∀ s : State, (s.get CTL_HT_CTRL_HOURS = 0 ∨ s.glb.beat ≤ s.ctl.htRef + s.get CTL_HT_CTRL_HOURS * 3600000000) →
     exec .healthTestScheduled s = .next s) ∧
  (∀ s : State, (s.ctl.htWant = true ∧ s.ctl.htTry + 1001 ≤ s.glb.beat → ∃ t, exec .healthTestRetry s = .next t ∧
     exec .healthTestGo s = .next t) ∧
     (¬(s.ctl.htWant = true ∧ s.ctl.htTry + 1001 ≤ s.glb.beat) → exec .healthTestRetry s = .next s)) ∧
  (∀ s : State, (s.ctl.ht = none → exec .healthTestAbort s = .next s) ∧
     ∀ h, s.ctl.ht = some h → h.step < 5 → Store.wf 0 s.regs = true → s.bit CTL_CTRL_CHG_EN = true →
       ∃ t, exec .healthTestAbort s = .next t ∧ t.ctl.ht = none ∧ t.ctl.hand = 2 ∧ t.get CTL_HT_STATUS_RESULT = 2 ∧
         t.get CTL_HT_STATUS_BUSY = 0 ∧ t.get CTL_HT_STATUS_STEP = 0 ∧ t.get CTL_STATUS_HT_DONE = 1) ∧
  (∀ (s : State) (h : HtRun), s.ctl.ht = some h → h.step < 5 → exec .healthTestAbort s = .next (s.htEnd.toCharge false) ∧
     s.htEnd = (((({ s with ctl := { s.ctl with ht := none, hand := if s.ctl.hand = 3 then 0 else s.ctl.hand } }.setB CTL_HT_STATUS_BUSY false).set
       CTL_HT_STATUS_STEP 0).set CTL_HT_STATUS_RESULT 2).setB CTL_STATUS_HT_DONE true).event 0x0508 0) ∧
  (∀ (s : State) (h : HtRun), s.ctl.ht = some h → s.mode = 3 → (h.step = 1 ∧ s.img.htRamp ≤ h.k ∨ h.step = 2 ∧
     s.img.htN ≤ h.k) →
     exec .healthTestStepEnd s =
       .next ({ s with ctl := { s.ctl with ht := some { h with step := h.step + 1, k := 0 } } }.set CTL_HT_STATUS_STEP (h.step + 1))) ∧
  (∀ (s : State) (h : HtRun), s.ctl.ht = some h → h.step = 5 → s.mode = 1 → s.ctl.hand = 0 → s.nearVchg = true →
     exec .healthTestRecharged s =
       .next (({ s with ctl := { s.ctl with ht := none } }.setB CTL_HT_STATUS_BUSY false).set CTL_HT_STATUS_STEP 0))

/-- EQUALISE_GO in SERVE for a present module that is not counted is accepted: in charge with no hand-over and no equalise the
engine is in equalise with all gates low and the module's precharge switch closed, BUSY shows; else FAIL sets.
EQUALISE_TIMEOUT after EQ_BEATS opens the precharge switch, sets FAIL with event 0x050D and goes back to charge; EQUALISE_DONE
once the module has met the window closes its isolation switch, joins it, sets DONE with event 0x050C and asks for a health
test. BOOT_EQUALISE in BOOT once the control section is in force, with the engine off, takes all present modules;
BOOT_EQUALISE_END counts those that met the window. Without an equalise the last three change nothing. -/
def Obligations.EqualiseOfEnergyModules : Prop :=
  (∀ (m : Nat) (s : State), s.eqMay m = true ↔ s.glb.st = .serve ∧ bitOf (s.get LDG_BANKREL_PRESENT) m = true ∧
     bitOf (s.get LDG_BANKREL_COUNTED) m = false) ∧
  (∀ (mod : BitVec 2) (s : State), Store.wf 0 s.regs = true → s.eqMay mod.toNat = true ∧ s.mode = 1 ∧ s.ctl.hand = 0 ∧
     s.ctl.eq = none ∧ s.ctl.eqWant = [] ∧ s.ctl.ht = none ∧ s.ctl.bf = none → ∃ t, exec (.equaliseGo mod) s = .next t ∧
     t.mode = 4 ∧
       t.ctl.on = 0 ∧ t.ctl.low = 15 ∧ t.ctl.eq = some ⟨2 ^ mod.toNat, false, s.glb.beat, [], 2 ^ mod.toNat, 0⟩ ∧
       t.get CTL_EQ_BUSY = 1 ∧ t.get CTL_EQ_MOD = mod.toNat ∧ t.cch = s.cch ∧ t.vlt = s.vlt ∧ t.glb = s.glb ∧ t.pq = s.pq) ∧
  (∀ (mod : BitVec 2) (s : State), s.eqMay mod.toNat = false →
     exec (.equaliseGo mod) s = .next ((s.set CTL_EQ_MOD mod.toNat).setB CTL_EQ_FAIL true)) ∧
  (∀ (mod : BitVec 2) (s : State), s.eqMay mod.toNat →
     exec (.equaliseGo mod) s =
       .next (let m := mod.toNat
       let s0 := s.set CTL_EQ_MOD m
       (s0.updCtl fun c => { c with eqWant := c.eqWant ++ [m] }).eqStart)) ∧
  (∀ (s : State) (e : EqRun), s.ctl.eq = some e → e.boot = false → e.met = e.mods → s.mode = 4 → Store.wf 0 s.regs = true →
     ∃ t, exec .equaliseDone s = .next t ∧ t.ctl.eq = none ∧ t.get CTL_EQ_DONE = 1 ∧ t.get CTL_EQ_BUSY = 0 ∧
       t.get LDG_BANKREL_JOINED = (s.get LDG_BANKREL_JOINED ||| e.mods) % 16 ∧ t.ctl.htWant = true ∧
       t.cch = s.cch ∧ t.vlt = s.vlt ∧ t.glb = s.glb ∧ t.pq = s.pq) ∧
  (∀ (s : State) (e : EqRun), s.ctl.eq = some e → e.boot = false → s.expired e.start s.img.eqBeats = true → s.mode = 4 →
     Store.wf 0 s.regs = true →
     ∃ t, exec .equaliseTimeout s = .next t ∧ t.ctl.eq = none ∧ t.get CTL_EQ_FAIL = 1 ∧ t.get CTL_EQ_BUSY = 0 ∧
       t.get LDG_BANKREL_JOINED = s.get LDG_BANKREL_JOINED ∧ t.cch = s.cch ∧ t.vlt = s.vlt ∧ t.glb = s.glb ∧ t.pq = s.pq) ∧
  (∀ s : State, Store.wf 0 s.regs = true → s.glb.st = .boot → s.ctlValid = true → s.ctl.eqDone = false → s.ctl.eq = none →
     s.mode = 0 →
     s.get LDG_BANKREL_PRESENT ≠ 0 → ∃ t, exec .bootEqualise s = .next t ∧ t.mode = 4 ∧
       t.ctl.eq = some ⟨s.get LDG_BANKREL_PRESENT, true, s.glb.beat, [], s.get LDG_BANKREL_PRESENT, 0⟩ ∧ t.cch = s.cch ∧
         t.glb = s.glb ∧ t.evr = s.evr) ∧
  (∀ (s : State), (s.glb.st = .boot ∧ s.ctlValid ∧ !s.ctl.eqDone ∧ s.ctl.eq.isNone ∧ s.mode = 0) →
     (¬ ((s.get LDG_BANKREL_PRESENT) = 0)) →
     exec .bootEqualise s =
       .next (let mods := s.get LDG_BANKREL_PRESENT
       ((modsOf mods).foldl (fun t m => t.setSwitch 2 m true)
         ((s.setMode 4).updCtl fun c => { c with eq := some ⟨mods, true, s.glb.beat, [], mods, 0⟩ })))) ∧
  (∀ (s : State) (e : EqRun), s.ctl.eq = some e → e.boot = true → (e.met = e.mods ∨ s.expired e.start s.img.eqBeats = true) →
     s.mode = 4 → Store.wf 0 s.regs = true →
     ∃ t, exec .bootEqualiseEnd s = .next t ∧ t.ctl.eq = none ∧ t.ctl.eqDone = true ∧
       t.get LDG_BANKREL_COUNTED = e.met % 16 ∧
       t.get CTL_EQ_BUSY = 0 ∧ t.cch = s.cch ∧ t.glb = s.glb) ∧
  (∀ (s : State) (e : EqRun), (s.ctl.eq = some e) →
     (¬ (e.boot ∨ e.met ≠ e.mods ∨ s.mode ≠ 4)) →
     exec .equaliseDone s =
       .next (let s1 := (modsOf e.mods).foldl (fun t m => t.setSwitch 1 m true) s
       let s2 := s1.eqRelease.setB CTL_EQ_DONE true
       let s3 := (s2.set LDG_BANKREL_JOINED (s2.get LDG_BANKREL_JOINED ||| e.mods)).set LDG_BANKREL_RELEASED
         (s2.get LDG_BANKREL_RELEASED &&& (15 ^^^ e.mods))
       ((s3.toCharge false).event 0x050C 0).htTry)) ∧
  (∀ (s : State) (e : EqRun), (s.ctl.eq = some e) →
     (¬ (e.boot ∨ !s.expired e.start s.img.eqBeats ∨ s.mode ≠ 4)) →
     exec .equaliseTimeout s =
       .next ((((s.eqRelease.setB CTL_EQ_FAIL true).toCharge false).event 0x050D 0))) ∧
  (∀ (s : State) (e : EqRun), (s.ctl.eq = some e) →
     (¬ (!e.boot ∨ s.mode ≠ 4 ∨ (e.met ≠ e.mods ∧ !s.expired e.start s.img.eqBeats))) →
     exec .bootEqualiseEnd s =
       .next (let s1 := (modsOf e.met).foldl (fun t m => t.setSwitch 1 m true) s
       let s2 := (s1.eqRelease.set LDG_BANKREL_COUNTED e.met).setMode 0
       let s3 := ((modsOf e.mods).filter fun m => !bitOf e.met m).foldl (fun t m => t.event 0x050D (srcModule m)) s2
       s3.bootCharge)) ∧
  (∀ s : State, s.ctl.eq = none → exec .equaliseDone s = .next s ∧ exec .equaliseTimeout s = .next s ∧
     exec .bootEqualiseEnd s = .next s)

/-- REHEARSAL_GO when a rehearsal may begin takes the next class of the rotation: with 4 GiB dirty or more it becomes busy and
queues its HEALTH task, with less it shows RESULT 3; else nothing changes. It may begin only in SERVE with the restore over,
in zone white, with no retirement, no release of either kind, no equalise and no rehearsal running and 40 tiles in service.
REHEARSAL_SCHEDULED does the same after REH_HOURS hours with REH_AUTO set. REHEARSAL_END before 20,000 beats changes nothing;
then, with bytes vaulted, the coefficient is the energy PDRAIN takes in 20,000 beats per GiB vaulted, rounded up, it waits for
the next boundary, RESULT is 1 with event 0x0406, and 0x0407 where it exceeds the design value by more than a fourth. -/
def Obligations.RehearsalsOfTheDrain : Prop :=
  (∀ s : State, s.rehMay = true → 1048576 ≤ s.get (CCH_DIRTY_GRANULES (if s.ldg.rehNext = 3 then 4 else s.ldg.rehNext)) →
     ∃ t, exec .rehearsalGo s = .next t ∧ t.ldg =
       { s.ldg with rehNext := (s.ldg.rehNext + 1) % 4, rehRun := some ⟨s.ldg.rehNext, s.glb.beat, 0, s.useK3, s.rehMods⟩ } ∧
       t.regs = ((s.set LDG_REH_CLASS s.ldg.rehNext).setB LDG_REH_BUSY true).regs ∧
         t = { s with regs := t.regs, ldg := t.ldg, dsp := t.dsp, glb := t.glb } ∧
       t.glb.st = s.glb.st) ∧
  (∀ s : State, s.rehMay = true → s.get (CCH_DIRTY_GRANULES (if s.ldg.rehNext = 3 then 4 else s.ldg.rehNext)) < 1048576 →
     exec .rehearsalGo s = .next (({ s with ldg := { s.ldg with rehNext := (s.ldg.rehNext + 1) % 4 } }.set LDG_REH_CLASS s.ldg.rehNext).set LDG_REH_RESULT 3)) ∧
  (∀ s : State, s.rehMay = false → exec .rehearsalGo s = .next s ∧ exec .rehearsalScheduled s = .next s) ∧
  (∀ s : State, s.rehMay = true ↔ s.glb.st = .serve ∧ s.glb.lazyRestore = false ∧ s.get LDG_STATUS_ZONE = 0 ∧
     s.cch.ret = none ∧
     s.get LDG_BANKREL_PENDING = 0 ∧ s.get VLT_MODS_PENDING = 0 ∧ s.ctl.eq = none ∧ s.ldg.rehRun = none ∧
     40 ≤ ((List.range 64).filter s.inService).length) ∧
  (∀ s : State, s.rehMay = true → s.get LDG_REH_HOURS ≠ 0 → s.bit LDG_CTRL_REH_AUTO = true →
     s.ldg.rehSince + s.get LDG_REH_HOURS * 3600000000 + 1 ≤ s.glb.beat →
     ∃ t, exec .rehearsalScheduled s = .next t ∧
       exec .rehearsalGo { s with ldg := { s.ldg with rehSince := s.glb.beat } } = .next t) ∧
  (∀ (s : State), s.rehMay →
     exec .rehearsalGo s =
       .next (s.rehBegin)) ∧
  (∀ (s : State), (s.get LDG_REH_HOURS ≠ 0 ∧ s.bit LDG_CTRL_REH_AUTO ∧
     s.expired s.ldg.rehSince (s.get LDG_REH_HOURS * 3600000000) ∧ s.rehMay) →
     exec .rehearsalScheduled s =
       .next (((s.updLdg fun l => { l with rehSince := s.glb.beat }).rehBegin))) ∧
  (∀ (s : State) (r : Rehearsal), (s.ldg.rehRun = some r) →
     (¬ (!s.expired r.start 20000)) →
     exec .rehearsalEnd s =
       .next (let d := s.draw
       let s0 := if r.bytes = 0 then d.2 else s
       let k := if r.bytes = 0 then d.1 else cdiv (s.img.pdrainMw * 1073741824 * 20000) (r.bytes * 1000000)
       let s1 := s0.updLdg fun l => { l with rehRun := none, newCal := l.newCal ++ [(s.boundBeat, calKey r.k3 r.cls, k)] }
       let s2 := ((s1.setB LDG_REH_BUSY false).set LDG_REH_RESULT 1).event 0x0406 0
       let s3 := if 125 * s.img.kdes r.k3 r.cls < 100 * k then s2.event 0x0407 0 else s2
       let stored := { s3 with ldg := { s3.ldg with cal := Store.put 0 s3.ldg.cal (calKey r.k3 r.cls) k } }
       (s3.flashWrite (.cell 4 stored.calCell)))) ∧
  (∀ (s : State) (r : Rehearsal), s.ldg.rehRun = some r → s.glb.beat ≤ r.start + 20000 → exec .rehearsalEnd s = .next s) ∧
  (∀ (s : State) (r : Rehearsal), s.ldg.rehRun = some r → r.start + 20001 ≤ s.glb.beat → 0 < r.bytes →
     Store.wf 0 s.regs = true →
     let k := cdiv (s.img.pdrainMw * 2 ^ 30 * 20000) (r.bytes * 1000000)
     ∃ t, exec .rehearsalEnd s = .next t ∧ t.get LDG_REH_BUSY = 0 ∧ t.get LDG_REH_RESULT = 1 ∧
       t.ldg = { s.ldg with rehRun := none, newCal := s.ldg.newCal ++ [(s.boundBeat, calKey r.k3 r.cls, k)] } ∧
       t.cch = s.cch ∧ t.vlt = s.vlt ∧ t.pq = s.pq ∧ t.glb = s.glb ∧ t.ctl = s.ctl)

/-- BANK_RELEASE in SERVE of a counted module that is not the only one counted sets PENDING and takes the module out of the count
at the next boundary; else MOD is written, and outside SERVE the refusal is recorded. BANK_RELEASE_CANCEL of a pending release
clears PENDING and brings the module back at the next boundary; else only MOD is written. ENERGY_MODULE_RELEASED in SERVE of a
pending module that no longer counts, after 100 consecutive white beats, opens its isolation switch, clears PENDING, sets
RELEASED and records event 0x0409; else nothing changes. ENERGY_MODULE_ABSENT of a counted module that reads absent marks it
for the next close; else nothing changes. -/
def Obligations.EnergyModuleReleaseAndAbsence : Prop :=
  (∀ (mod : BitVec 2) (s : State), s.glb.st = .serve ∧
     bitOf (s.get LDG_BANKREL_COUNTED &&& (15 ^^^ s.ldg.dropNext)) mod.toNat = true ∧
       s.get LDG_BANKREL_COUNTED &&& (15 ^^^ s.ldg.dropNext) ≠ 2 ^ mod.toNat →
     exec (.bankRelease mod) s =
       .next ({ (s.set LDG_BANKREL_MOD mod.toNat).set LDG_BANKREL_PENDING (setBit (s.get LDG_BANKREL_PENDING) mod.toNat) with
       ldg := { s.ldg with dropNext := setBit s.ldg.dropNext mod.toNat, backNext := clrBit s.ldg.backNext mod.toNat } })) ∧
  (∀ (mod : BitVec 2) (s : State), ¬(s.glb.st = .serve ∧
     bitOf (s.get LDG_BANKREL_COUNTED &&& (15 ^^^ s.ldg.dropNext)) mod.toNat = true ∧
       s.get LDG_BANKREL_COUNTED &&& (15 ^^^ s.ldg.dropNext) ≠ 2 ^ mod.toNat) →
     exec (.bankRelease mod) s = .next (if s.glb.st =
       .serve then s.set LDG_BANKREL_MOD mod.toNat else (s.set LDG_BANKREL_MOD mod.toNat).logRefusal 4)) ∧
  (∀ (mod : BitVec 2) (s : State), bitOf (s.get LDG_BANKREL_PENDING) mod.toNat = true →
     exec (.bankReleaseCancel mod) s =
       .next ({ (s.set LDG_BANKREL_MOD mod.toNat).set LDG_BANKREL_PENDING (clrBit (s.get LDG_BANKREL_PENDING) mod.toNat) with
       ldg := { s.ldg with dropNext := clrBit s.ldg.dropNext mod.toNat, backNext := setBit s.ldg.backNext mod.toNat } })) ∧
  (∀ (mod : BitVec 2) (s : State), ¬(bitOf (s.get LDG_BANKREL_PENDING) mod.toNat = true) →
     exec (.bankReleaseCancel mod) s = .next (s.set LDG_BANKREL_MOD mod.toNat)) ∧
  (∀ (mod : BitVec 2) (s : State), s.glb.st = .serve ∧ bitOf (s.get LDG_BANKREL_PENDING) mod.toNat = true ∧
     bitOf (s.get LDG_BANKREL_COUNTED) mod.toNat = false ∧ 100 ≤ s.ldg.whiteRun →
     exec (.energyModuleReleased mod) s =
       .next ((((s.setSwitch 1 mod.toNat false).set LDG_BANKREL_PENDING (clrBit (s.get LDG_BANKREL_PENDING) mod.toNat)).set LDG_BANKREL_RELEASED
       (setBit (s.get LDG_BANKREL_RELEASED) mod.toNat)).event 0x0409 (srcModule mod.toNat))) ∧
  (∀ (mod : BitVec 2) (s : State), ¬(s.glb.st = .serve ∧ bitOf (s.get LDG_BANKREL_PENDING) mod.toNat = true ∧
     bitOf (s.get LDG_BANKREL_COUNTED) mod.toNat = false ∧ 100 ≤ s.ldg.whiteRun) →
     exec (.energyModuleReleased mod) s = .next s) ∧
  (∀ (mod : BitVec 2) (s : State), bitOf (s.get LDG_BANKREL_COUNTED) mod.toNat = true ∧
     bitOf (s.get LDG_BANKREL_PRESENT) mod.toNat = false →
     exec (.energyModuleAbsent mod) s = .next ({ s with ldg := { s.ldg with drops := setBit s.ldg.drops mod.toNat } })) ∧
  (∀ (mod : BitVec 2) (s : State), ¬(bitOf (s.get LDG_BANKREL_COUNTED) mod.toNat = true ∧
     bitOf (s.get LDG_BANKREL_PRESENT) mod.toNat = false) → exec (.energyModuleAbsent mod) s = .next s)

/-- INMON_TRIP in SERVE: the controller is in GRACE, its timer counts DRN_GRACE beats from this beat, the trip beat shows,
admission is stopped, every stream's credit is 0, PFW_n is asserted, and no queue entry, DRAM line or vault byte changes. In
GRACE and DRAIN the count of beats with the input back starts afresh and the control engine is told; in SEALED PFW_n is
asserted too. In BOOT and RESTORE the controller is bound for SEALED at the next boundary; in POWERUP too, with event 0x0B11
where rails are starting and no off request stands, and while POWERUP is held, or its third abandon powers down, only the fall
below WARN is noted. -/
def Obligations.InputTripByState : Prop :=
  (∀ s : State, Store.wf 0 s.regs = true → s.glb.st = .serve → ∃ t, exec .inmonTrip s = .next t ∧
     t.glb = { s.glb with st := .grace, backBeats := 0 } ∧
     t.drn = { s.drn with pfwIn := true, stop := true, stopBeat := s.glb.beat, graceStart := s.glb.beat, graceLen := s.get DRN_GRACE_BEATS } ∧
     t.get64 DRN_TRIP_LO_BEAT DRN_TRIP_HI_BEAT = s.beat % 2 ^ 64 ∧ (∀ n, n < 3 → t.get (LDG_CRED_CREDIT n) = 0 ∧
       t.unspent n = 0) ∧
     t.pq = s.pq ∧ t.cch = s.cch ∧ t.vlt = s.vlt ∧ t.mlk = s.mlk ∧ t.mtx = s.mtx) ∧
  (∀ s : State, (s.glb.st = .grace ∨ s.glb.st = .drain →
     exec .inmonTrip s = .next { s with glb := { s.glb with backBeats := 0 } }.ctlTrip) ∧
     (s.glb.st = .sealed → exec .inmonTrip s =
       .next { s with glb := { s.glb with backBeats := 0 }, drn := { s.drn with pfwIn := true } }.ctlTrip)) ∧
  (∀ (s : State), s.glb.st = .serve →
     exec .inmonTrip s = .next (let z := (s.updGlb fun g => { g with backBeats := 0 }).updDrn fun d => { d with pfwIn := true }
       let a := (z.stopAdmission.enter .grace).updDrn fun d => { d with graceStart := s.glb.beat, graceLen := s.get DRN_GRACE_BEATS }
       let b := (a.set64 DRN_TRIP_LO_BEAT DRN_TRIP_HI_BEAT s.beat).setB DRN_STATUS_PARTNER_LOST false
       ((b.raise 0).event 0x0601 0).tripBlocks)) ∧
  (∀ s : State, s.glb.st = .boot ∨ s.glb.st = .restore → ∃ t, exec .inmonTrip s = .next t ∧
     t.glb = { s.glb with backBeats := 0 } ∧
     t.drn = { s.drn with pfwIn := true, toSealed := true } ∧ t.pq = s.pq ∧ t.cch = s.cch ∧ t.vlt = s.vlt ∧ t.mlk = s.mlk ∧
       t.mtx = s.mtx) ∧
  (∀ s : State, s.glb.st = .powerup → exec .inmonTrip s = .next
     (let a : State := { s with glb := { s.glb with backBeats := 0 }, drn := { s.drn with pfwIn := true } }
      if s.get SEQ_STATUS_PHASE = 4 ∨ s.get SEQ_STATUS_PHASE = 3 ∧
        s.get SEQ_STATUS_ABANDONS = 3 then { a with seq := { s.seq with belowWarn := true } }
      else
        let b : State := { a with drn := { s.drn with pfwIn := true, toSealed := true } }
        if s.get SEQ_STATUS_PHASE = 1 ∧ s.seq.offReq =
          false then { b with seq := { s.seq with offReq := true } }.event 0x0B11 0 else b))

/-- INPUT_COLLAPSE in GRACE and GRACE_TIMER_EXPIRY at a boundary of GRACE with the timer run out enter DRAIN: no write is held,
every acknowledge-after-mirror write is completed, the ports' credit is void, and the queue entries stand. Outside GRACE, or
before its end, the timer changes nothing, and a collapse abandons the recorder copy and a write of the pair record, and
nothing else. RIDE_THROUGH at a boundary of GRACE with the input back for 50 beats and the timer not run out returns to SERVE:
RIDE sets with event 0x0602, PFW_n is released, the tiles that the trip kept out and that still leave or stand out return, the
roll goes on, and the beat's ledger close runs again for SERVE; else it changes nothing. -/
def Obligations.DrainEntryAndRideThrough : Prop :=
  (∀ s : State, s.glb.st = .grace → ∃ t, exec .inputCollapse s = .next t ∧ t.glb = { s.glb with st := .drain } ∧
     t.pq.held = [] ∧ t.pq.span = ⟨false, false⟩ ∧ t.pq.aam = [] ∧ t.pq.entries = s.pq.entries ∧ t.unspent 0 = 0 ∧
     t.unspent 1 = 0 ∧ t.sti = s.sti ∧ t.stw = s.stw ∧ t.hp = s.hp ∧ t.mlk = s.mlk ∧ t.dge.slots = s.dge.slots) ∧
  (∀ s : State, s.glb.cycle = 0 → s.glb.st = .grace → s.expired s.drn.graceStart s.drn.graceLen = true →
     ∃ t, exec .graceTimerExpiry s = .next t ∧ t.glb = { s.glb with st := .drain } ∧ t.pq.held = [] ∧
       t.pq.span = ⟨false, false⟩ ∧ t.pq.aam = [] ∧ t.pq.entries = s.pq.entries ∧ t.unspent 0 = 0 ∧ t.unspent 1 = 0 ∧
       t.sti = s.sti ∧ t.stw = s.stw ∧ t.hp = s.hp ∧ t.mlk = s.mlk ∧ t.dge.slots = s.dge.slots) ∧
  (∀ (s : State), s.glb.st = .grace →
     exec .inputCollapse s = .next (s.drainEnter 2)) ∧
  (∀ s : State, s.glb.st ≠ .grace → exec .inputCollapse s = .next s.collapseFlash) ∧
  (∀ (s : State), s.glb.cycle = 0 ∧ s.glb.st = .grace ∧ s.expired s.drn.graceStart s.drn.graceLen = true →
     exec .graceTimerExpiry s = .next (s.drainEnter 1)) ∧
  (∀ s : State, ¬(s.glb.cycle = 0 ∧ s.glb.st = .grace ∧ s.expired s.drn.graceStart s.drn.graceLen = true) →
     exec .graceTimerExpiry s = .next s) ∧
  (∀ s : State, Store.wf 0 s.regs = true → s.glb.cycle = 0 ∧ s.glb.st = .grace ∧ 50 ≤ s.glb.backBeats ∧
     s.expired s.drn.graceStart s.drn.graceLen = false → ∃ t, exec .rideThrough s = .next t ∧ t.glb.st = .serve ∧
     t.glb.beat = s.glb.beat ∧ t.pq = s.pq ∧ t.cch = s.cch ∧ t.vlt = s.vlt ∧ t.cfl = s.cfl ∧ t.dge = s.dge ∧ t.stw = s.stw ∧
       t.mtx = s.mtx ∧ t.mlk = s.mlk ∧ t.sti = s.sti) ∧
  (∀ (s : State), s.glb.cycle = 0 ∧ s.glb.st = .grace ∧ 50 ≤ s.glb.backBeats ∧
     s.expired s.drn.graceStart s.drn.graceLen = false →
     exec .rideThrough s = .next (let z := ((s.enter .serve).updDrn fun d => { d with pfwIn := false }).setB DRN_STATUS_RIDE true
       (((z.keptBack.toCharge true).setB DSP_STATUS_ROLL_PAUSED false).event 0x0602 0).closeAgain)) ∧
  (∀ s : State, ¬(s.glb.cycle = 0 ∧ s.glb.st = .grace ∧ 50 ≤ s.glb.backBeats ∧
     s.expired s.drn.graceStart s.drn.graceLen = false) → exec .rideThrough s = .next s)

/-- MRX_WINDOW_EXPIRY in DRAIN with the window open MRX_BEATS beats after entry drops an incomplete transaction and voids the
mirror's credit; else it changes nothing. MIRROR_FENCE in DRAIN, once every send is placed and a session is up, takes the next
sequence for a fence and ends the sends; else nothing. DRAIN_EXTENT outside DRAIN, or for a rank that is not open, changes
nothing. EXTENT_COMPLETE of no extent in flight changes nothing; of one, it leaves the flight and the granule's entry takes
its location. BANKMON_DRAIN_FLOOR shows BANK_D by the settled code, and in DRAIN below DFLOOR, before the crown, marks the
drain short and ends the extents. -/
def Obligations.DrainWindowsFenceAndExtents : Prop :=
  (∀ s : State, s.glb.st = .drain ∧ s.bit DRN_STATUS_MWIN = true ∧ s.expired s.drn.start (s.get DRN_MRX_BEATS) = true →
     ∃ t, exec .mrxWindowExpiry s = .next t ∧ t.mtx = { s.mtx with wr := none } ∧ t.unspent 2 = 0 ∧
     t.pq = s.pq ∧ t.sti = s.sti ∧ t.cfl = s.cfl ∧ t.dge = s.dge ∧ t.stw = s.stw ∧ t.hp = s.hp ∧ t.ctl = s.ctl ∧
       t.mlk = s.mlk) ∧
  (∀ (s : State), s.glb.st = .drain ∧ s.bit DRN_STATUS_MWIN = true ∧ s.expired s.drn.start (s.get DRN_MRX_BEATS) = true →
     exec .mrxWindowExpiry s = .next ((s.mwinEnd 4).drainAdvance)) ∧
  (∀ s : State, ¬(s.glb.st = .drain ∧ s.bit DRN_STATUS_MWIN = true ∧ s.expired s.drn.start (s.get DRN_MRX_BEATS) = true) →
     exec .mrxWindowExpiry s = .next s) ∧
  (∀ s : State, s.glb.st = .drain ∧ s.drn.sendsEnded = false ∧ s.sessionUp = true ∧ s.mtx.pendSync = none ∧
     s.pq.entries.all (fun e => e.sent) = true → ∃ t, exec .mirrorFence s = .next t ∧
     t.pq = { s.pq with lastSeq := (s.pq.lastSeq + 1) % 2 ^ 48 } ∧
     t.drn = { s.drn with fence := some ((s.pq.lastSeq + 1) % 2 ^ 48, s.glb.beat), sendsEnded := true } ∧ t.glb = s.glb ∧
       t.evr = s.evr ∧ t.irq = s.irq ∧ t.vlt = s.vlt ∧ t.dsp = s.dsp ∧ t.ldg = s.ldg) ∧
  (∀ (s : State), s.glb.st = .drain ∧ s.drn.sendsEnded = false ∧ s.sessionUp = true ∧ s.mtx.pendSync = none ∧
     s.pq.entries.all (fun e => e.sent) = true →
     exec .mirrorFence s = .next (let q := (s.pq.lastSeq + 1) % 2 ^ 48
       let a := { s with pq := { s.pq with lastSeq := q } }.set64 MTX_NEXTSEQ_LO_VALUE MTX_NEXTSEQ_HI_VALUE ((q + 1) % 2 ^ 48)
       let b := (a.sendRec (recWrite 0 0 0 q 0 0)).updMtx fun m => { m with ring := m.ring ++ [⟨q, none, s.glb.beat, m.clean⟩] }
       b.closeGroup.updDrn fun d => { d with fence := some (q, s.glb.beat), sendsEnded := true })) ∧
  (∀ s : State, ¬(s.glb.st = .drain ∧ s.drn.sendsEnded = false ∧ s.sessionUp = true ∧ s.mtx.pendSync = none ∧
     s.pq.entries.all (fun e => e.sent) = true) → exec .mirrorFence s = .next s) ∧
  (∀ (f : BitVec 40) (n : BitVec 32) (s : State), (s.glb.st ≠ .drain ∨ s.drn.open_.contains (s.rankAt f.toNat) = false) →
     exec (.drainExtent f n) s = .next s) ∧
  (∀ (f : BitVec 40) (n : BitVec 32) (s : State), s.glb.st = .drain ∧ s.drn.open_.contains (s.rankAt f.toNat) = true ∧
     s.passStopped (s.get DRN_STATUS_PASS) = false ∧ s.get DRN_STATUS_PASS < 7 →
     exec (.drainExtent f n) s = .next (let left := s.passLeft (s.get DRN_STATUS_PASS)
       let go := ((List.range n.toNat).map (· + f.toNat)).filter fun g => left.contains g && decide (s.rankAt g =
         s.rankAt f.toNat)
         && !(s.pq.entries.any fun e => e.line / 64 = g && !e.flushed)
       let u := s.underBeat (s.issueBeat fun k => k.ty = 4 && k.arg0 ≤ f.toNat && decide (f.toNat < k.arg0 + k.count))
       ((go.foldl State.drainGranule u).restoreImage s.sti.active).drainAdvance)) ∧
  (∀ (f : BitVec 40) (n : BitVec 32) (s : State), ∃ t, exec (.drainExtent f n) s = .next t ∧ t.cfl = s.cfl ∧ t.dge = s.dge ∧
     t.stw = s.stw ∧ t.pq = s.pq ∧ t.hp = s.hp ∧ t.ldg = s.ldg ∧ t.ctl = s.ctl ∧ t.mlk = s.mlk ∧ t.mtx = s.mtx) ∧
  (∀ (g : BitVec 40) (s : State) (f : InFlight), (s.vlt.inflight.find? fun x => x.kind = 1 && x.granule = g.toNat) = some f →
     ∃ t, exec (.extentComplete g) s = .next t ∧ t.sti = s.sti ∧ t.cfl = s.cfl ∧ t.dge = s.dge ∧ t.stw = s.stw ∧ t.pq = s.pq ∧
       t.hp = s.hp ∧ t.ldg = s.ldg ∧ t.ctl = s.ctl ∧ t.rst = s.rst ∧ t.mlk = s.mlk ∧ t.mtx = s.mtx) ∧
  (∀ (g : BitVec 40) (s : State) (f : InFlight), (s.vlt.inflight.find? fun x => x.kind = 1 && x.granule = g.toNat) = some f →
     exec (.extentComplete g) s = .next (
       let a := { s with vlt := { s.vlt with inflight := s.vlt.inflight.erase f } }.setVloc g.toNat f.vloc (s.classOf g.toNat)
       (((if (a.entry g.toNat).wsince then a else a.clean g.toNat).tagAll true).drainAdvance))) ∧
  (∀ (g : BitVec 40) (s : State), (s.vlt.inflight.find? fun x => x.kind = 1 && x.granule = g.toNat) = none →
     exec (.extentComplete g) s = .next s) ∧
  (∀ (c : BitVec 10) (s : State), s.glb.st = .drain ∧ c.toNat < s.get SEQ_BANKMON_DFLOOR ∧ s.drn.stopExt ≠ 2 ∧
     s.get DRN_STATUS_PASS ≤ 8 ∧ s.drn.crownLeft = 0 ∧ s.drn.crowned = false →
     exec (.bankmonDrainFloor c) s =
       .next (((((s.setB SEQ_STATUS_BANK_D true).markShort 2).updDrn fun d => { d with dOver := true }).drainAdvance))) ∧
  (∀ (c : BitVec 10) (s : State), ¬(s.glb.st = .drain ∧ c.toNat < s.get SEQ_BANKMON_DFLOOR ∧ s.drn.stopExt ≠ 2 ∧
     s.get DRN_STATUS_PASS ≤ 8 ∧ s.drn.crownLeft = 0 ∧ s.drn.crowned = false) → exec (.bankmonDrainFloor c) s = .next
     (if c.toNat < s.get SEQ_BANKMON_DFLOOR then s.setB SEQ_STATUS_BANK_D true
      else if s.get SEQ_BANKMON_DFLOOR + s.get SEQ_BANKMON_HYST < c.toNat then s.setB SEQ_STATUS_BANK_D false else s))

/-- CROWN_WRITE and CROWN_COMPLETE outside DRAIN change nothing. CROWN_WRITE in DRAIN after the passes writes the notes and seals
the epoch once the crown writer has the digest engine, and only asks for it until then. CROWN_COMPLETE with a copy outstanding
marks the crown complete with event 0x0606 and asks for the recorder copy; CROWN_WRITE leaves DRAM lines, queue and mirror
session as they stand. WARM_RESUME_DECISION at a boundary after the crown, with the input back for 50 beats and no power-down
begun, enters RESTORE with admission open and PARTNER_ALIVE_OUT asserted; where it does not apply nothing changes.
WARM_SERVE_ENTRY in RESTORE on a warm resume with every domain on enters SERVE at a boundary, the pending stamps and the queue
as they stood, and after a lost partner adopts its region; else nothing. DOMAIN_SHED in DRAIN of a domain whose condition
holds switches its group off. DOMAIN_SHED outside DRAIN changes nothing. -/
def Obligations.CrownAndWarmResume : Prop :=
  (∀ s : State, s.glb.st ≠ .drain → exec .crownWrite s = .next s ∧ exec .crownComplete s = .next s ∧
     ∀ d, exec (.domainShed d) s = .next s) ∧
  (∀ (s : State), s.glb.st = .drain ∧ s.get DRN_STATUS_PASS = 8 ∧ s.drn.crownLeft = 0 ∧ s.drn.crowned = false ∧
     (s.vlt.inflight.any fun f => f.kind = 1) = false ∧ s.slotRoom = false ∧ (s.dgeTake .crown).1 = true →
     exec .crownWrite s = .next (let left := s.leftOver
       let a := (((s.dgeTake .crown).2.set DRN_DROP_GRANULES (left.filter fun g => s.classOf g =
         3).length).set DRN_UNSAVED_GRANULES
         (left.filter fun g => s.classOf g ≠ 3).length).writeNotes
       let c : CrownIn := ⟨a.drainFlags, a.epoch, a.get64 DRN_TRIP_LO_BEAT DRN_TRIP_HI_BEAT, a.drn.cause, a.drn.lastM,
         a.get DRN_DROP_GRANULES, a.get DRN_UNSAVED_GRANULES, a.crownStamps⟩
       ((a.seal c).setB VLT_STATUS_READY false).updDrn fun x => { x with crownLeft := a.get VLT_MODS_COUNTED })) ∧
  (∀ (s : State), s.glb.st = .drain ∧ s.get DRN_STATUS_PASS = 8 ∧ s.drn.crownLeft = 0 ∧ s.drn.crowned = false ∧
     (s.vlt.inflight.any fun f => f.kind = 1) = false ∧ s.slotRoom = false ∧ (s.dgeTake .crown).1 = false →
     exec .crownWrite s = .next ((s.dgeTake .crown).2)) ∧
  (∀ (s : State), s.glb.st = .drain ∧ s.drn.crownLeft ≠ 0 →
     exec .crownComplete s =
       .next ((({ s with drn := { s.drn with crownLeft := 0, crowned := true, recCopy := true } }.event 0x0606 0).writePair false).recorderCopy)) ∧
  (∀ s : State, ∃ t, exec .crownWrite s = .next t ∧ t.glb = s.glb ∧ t.sti = s.sti ∧ t.cfl = s.cfl ∧ t.stw = s.stw ∧
     t.pq = s.pq ∧ t.hp = s.hp ∧ t.ldg = s.ldg ∧ t.ctl = s.ctl ∧ t.seq = s.seq ∧ t.rst = s.rst ∧ t.mlk = s.mlk ∧
     t.mtx = s.mtx ∧ ∃ n, t.drn = { s.drn with crownLeft := n }) ∧
  (∀ s : State, s.glb.st = .drain → s.drn.crownLeft ≠ 0 → ∃ t, exec .crownComplete s = .next t ∧
     t.drn = { s.drn with crownLeft := 0, crowned := true, recCopy := true } ∧ t.glb = s.glb ∧ t.pq = s.pq ∧ t.cch = s.cch ∧
       t.vlt = s.vlt ∧ t.dsp = s.dsp) ∧
  (∀ s : State, s.glb.cycle = 0 ∧ s.glb.st = .drain ∧ s.drn.crowned = true ∧ s.drn.decided = 0 ∧ 50 ≤ s.glb.backBeats ∧
     s.bit DRN_STATUS_PD_BEGUN = false ∧ s.drn.lostRanks = 0 → ∃ t, exec .warmResumeDecision s = .next t ∧
     t.glb = { s.glb with st := .restore } ∧
     t.drn = { s.drn with decided := 1, pfwIn := false, stop := false, aliveOut := true } ∧
       t.rst = { s.rst with warm := true, scanned := true } ∧
     t.cch = { s.cch with selfRef := 0 } ∧ t.pq = s.pq ∧ t.vlt = s.vlt ∧ t.dsp = s.dsp ∧ t.sti = s.sti) ∧
  (∀ (s : State), s.glb.cycle = 0 ∧ s.glb.st = .drain ∧ s.drn.crowned = true ∧ s.drn.decided = 0 ∧ 50 ≤ s.glb.backBeats ∧
     s.bit DRN_STATUS_PD_BEGUN = false ∧ s.drn.lostRanks = 0 →
     exec .warmResumeDecision s =
       .next (let z := (s.enter .restore).updDrn fun d => { d with decided := 1, pfwIn := false, stop := false, aliveOut := true }
       let b := (((z.set DRN_STATUS_PASS 0).copyReport.setB DRN_STATUS_WARM true).event 0x0607 0).raise 2
       (((b.toCharge true).set VLT_RST_STATUS_KIND 2).repower.updCch fun c => { c with selfRef := 0 }).updRst
         fun r => { r with warm := true, scanned := true })) ∧
  (∀ s : State, ¬(s.glb.cycle = 0 ∧ s.glb.st = .drain ∧ s.drn.crowned = true ∧ s.drn.decided = 0) →
     exec .warmResumeDecision s = .next s) ∧
  (∀ s : State, s.glb.cycle = 0 ∧ s.glb.st = .restore ∧ s.drn.toSealed = false ∧ s.rst.warm = true ∧ s.domsUp = true →
     ∃ t, exec .warmServeEntry s = .next t ∧ t.glb.st = .serve ∧ t.glb.lazyRestore = !s.cch.unrest.isEmpty ∧
     t.rst.warm = false ∧
     t.pq = s.pq ∧ t.vlt = s.vlt ∧ t.cfl = s.cfl ∧ t.dge = s.dge ∧ t.stw = s.stw ∧ t.mlk = s.mlk ∧ t.sti = s.sti ∧
       t.hp = s.hp) ∧
  (∀ (s : State), s.glb.cycle = 0 ∧ s.glb.st = .restore ∧ s.drn.toSealed = false ∧ s.rst.warm = true ∧ s.domsUp = true →
     exec .warmServeEntry s =
       .next (let a := (s.updCch fun c => { c with selfRef := 0 }).updRst fun r => { r with warm := false, ranges := [] }
       let b := (a.setB PQ_STATUS_HZ_FROZEN false).rollDrop.keptBack
       let c := (((b.set VLT_RST_STATUS_KIND 2).set VLT_RST_STATUS_RESULT 1).set VLT_RST_NRANGE_COUNT 0).setB VLT_STATUS_READY true
       let d := c.updGlb fun g => { g with st := .serve, lazyRestore := !s.cch.unrest.isEmpty }
       let e := ((if d.glb.lazyRestore then d.restoreTasks else d).moveBuckets).event 0x0717 0
       (if s.bit DRN_STATUS_PARTNER_LOST then e.adoptMirror s.drn.lastM else e).closeAgain)) ∧
  (∀ s : State, ¬(s.glb.cycle = 0 ∧ s.glb.st = .restore ∧ s.drn.toSealed = false ∧ s.rst.warm = true ∧ s.domsUp = true) →
     exec .warmServeEntry s = .next s) ∧
  (∀ (d : BitVec 7) (s : State), s.glb.st = .drain ∧ d.toNat < 64 ∧ s.domOn d.toNat = true ∧ s.shedNow d.toNat = true ∧
     2 ≤ s.tile d.toNat ∧ (s.shedGroup d.toNat).contains 88 = false ∧ (s.shedGroup d.toNat).contains 80 = false →
     exec (.domainShed d) s = .next ((s.domsOff (s.shedGroup d.toNat)).updDsp fun x => { x with remap := true })) ∧
  (∀ (d : BitVec 7) (s : State), s.glb.st = .drain ∧ 64 ≤ d.toNat ∧ d.toNat < 96 ∧ s.domOn d.toNat = true ∧
     s.shedNow d.toNat = true →
     exec (.domainShed d) s = .next (let l := s.shedGroup d.toNat
       let a := if l.contains 88 then (s.sessionQuit 9).linkIdle else s
       ((if l.contains 80 then a.updHp fun h => { h with up := ⟨false, false⟩ } else a).domsOff l))) ∧
  (∀ (d : BitVec 7) (s : State), s.glb.st = .drain ∧ d.toNat < 64 ∧ s.domOn d.toNat = true ∧ s.shedNow d.toNat = true →
     ∃ t, exec (.domainShed d) s = .next t ∧ t.drn = s.drn ∧ t.cch = s.cch ∧ t.vlt = s.vlt ∧ t.sti = s.sti ∧ t.stw = s.stw ∧
     t.ctl = s.ctl)

/-- POWER_UP_BEGIN at a boundary in POWERUP, or in SEALED with the input back for 50 beats, with no sequence running and the
minimum off time over: the controller is in POWERUP, the domain failures clear, and nothing of queue, vault or flash changes;
else nothing happens. POWER_UP_COMPLETE at a boundary of POWERUP with rails and domains up and no off request: the state is
BOOT, the beat count goes on, flash bytes and NAND chunks stand, the DRAM lines, the queue and the interrupt state are those
of reset. POWERUP_HOLD_END after INMON has been below WARN and is back ends the hold. A power-down step changes nothing while
its off-delay has not run out, and CORE_STOP_RAIL_OFF nothing where no core stop runs. BANKMON_SEALED_FLOOR with a settled
code below SFLOOR in SEALED with the engine running turns it off with event 0x050E. -/
def Obligations.PowerUpAndPowerDown : Prop :=
  (∀ s : State, s.mayPowerUp = true → ∃ t, exec .powerUpBegin s = .next t ∧ t.glb = { s.glb with st := .powerup } ∧
     t.drn.toSealed = false ∧
     t.seq.offReq = false ∧ t.seq.failed = 0 ∧ t.seq.order = [] ∧ t.pq = s.pq ∧ t.cch = s.cch ∧ t.vlt = s.vlt ∧
       t.cfl = s.cfl ∧ t.mtx = s.mtx ∧ t.mlk = s.mlk ∧ t.stw = s.stw ∧ t.dge = s.dge) ∧
  (∀ s : State, s.mayPowerUp = true ↔ s.glb.cycle = 0 ∧ s.get SEQ_STATUS_PHASE = 0 ∧
     (s.seq.minOff.getD 0) + 50001 ≤ s.glb.beat ∧
     (s.glb.st = .powerup ∨ s.glb.st = .sealed ∧ 50 ≤ s.glb.backBeats)) ∧
  (∀ (s : State), s.mayPowerUp →
     exec .powerUpBegin s =
       .next (let g := s.updSeq fun q => { q with tbl := if q.later.isEmpty then q.tbl else q.later, later := [] }
       let s0 := if s.glb.st = .sealed ∧ s.get SEQ_STATUS_ABANDONS = 3 then g.set SEQ_STATUS_ABANDONS 0 else g
       let s1 := ((s0.enter .powerup).event 0x0B01 0).set SEQ_STATUS_PHASE 1
       let s2 := [0, 1, 2].foldl (fun t k => t.set (SEQ_DOMFAIL_DOMAINS k) 0) s1
       let s3 := (s2.seqRails).foldl (fun t n => if t.rail n = 5 ∨ t.rail n = 4 then t.setRail n 0 else t) s2
       let s4 := s3.updSeq fun q => { q with want := s3.seqRails.foldl setBit 0, failed := 0, offReq := false, order := [] }
       let s5 := s4.updHp fun h => { h with jtagIr := if h.jtagIr = 2 then 0 else h.jtagIr }
       ((s5.ctlOff.showKinds.updDrn fun d => { d with toSealed := false, pfwIn := true }).startRails))) ∧
  (∀ s : State, ¬(s.mayPowerUp = true) → exec .powerUpBegin s = .next s) ∧
  (∀ s : State, s.glb.cycle = 0 ∧ s.glb.st = .powerup ∧ s.get SEQ_STATUS_PHASE = 1 ∧ s.seq.offReq = false ∧
     s.powerUpDone = true → ∃ t, exec .powerUpComplete s = .next t ∧
     t.glb.st = .boot ∧ t.glb.beat = s.glb.beat ∧ t.cfl.bytes = s.cfl.bytes ∧ t.vlt.nand = s.vlt.nand ∧ t.cch = Cch.reset ∧
     t.pq = Pq.reset ∧ t.irq = Irq.reset ∧ t.dge.slots = bootSlots s.dge.slots) ∧
  (∀ (s : State), (s.atBoundary ∧ s.glb.st = .powerup ∧ s.get SEQ_STATUS_PHASE = 1 ∧ !s.seq.offReq ∧ s.powerUpDone) →
     exec .powerUpComplete s =
       .next (let s1 := ((s.event 0x0B02 0).set SEQ_STATUS_ABANDONS 0).set SEQ_STATUS_PHASE 2
       let s2 := s1.bootReset
       (s2.set LDG_BANKREL_COUNTED ([0, 1, 2, 3].foldl (fun m k => if s2.switchOn 1 k then setBit m k else m) 0)))) ∧
  (∀ s : State, ¬(s.glb.cycle = 0 ∧ s.glb.st = .powerup ∧ s.get SEQ_STATUS_PHASE = 1 ∧ s.seq.offReq = false ∧
     s.powerUpDone = true) → exec .powerUpComplete s = .next s) ∧
  (∀ (s : State), s.get SEQ_STATUS_PHASE = 4 ∧ s.seq.belowWarn = true ∧ 1 ≤ s.glb.backBeats →
     exec .powerupHoldEnd s =
       .next (((s.set SEQ_STATUS_PHASE 0).set SEQ_STATUS_ABANDONS 0).updSeq fun q => { q with belowWarn := false })) ∧
  (∀ (s : State), ¬(s.get SEQ_STATUS_PHASE = 4 ∧ s.seq.belowWarn = true ∧ 1 ≤ s.glb.backBeats) →
     exec .powerupHoldEnd s = .next s) ∧
  (∀ (rail : BitVec 6) (s : State), ∃ t, exec (.offDelayExpiry rail) s = .next t ∧ t.pq = s.pq ∧ t.vlt = s.vlt ∧
     t.mtx = s.mtx ∧ t.stw = s.stw ∧ t.sti = s.sti ∧ t.cfl.bytes = s.cfl.bytes ∧
     (∀ b, s.seq.offCur = some (rail.toNat, b) → s.expired b (s.offDly rail.toNat) = false → t = s)) ∧
  (∀ s : State, (s.seq.offCur = none ∨ s.seq.coreStop = false → exec .coreStopRailOff s = .next s) ∧
     (∀ n b, s.glb.cycle = 0 → s.seq.offCur = some (n, b) → s.seq.coreStop = true → b < s.glb.beat → s.coreStopRails = [] →
       ∃ t, exec .coreStopRailOff s = .next t ∧
         t.seq = { s.seq with offCur := none, minOff := some s.glb.beat, offReq := false, coreStop := false } ∧
         t.pq = s.pq ∧ t.vlt = s.vlt ∧ t.mtx = s.mtx ∧ t.stw = s.stw ∧ t.cfl.bytes = s.cfl.bytes)) ∧
  (∀ (rail : BitVec 6) (s : State) (m b : Nat), (¬ (!s.atBoundary)) →
     (s.seq.offCur = some (m, b)) →
     (m = rail.toNat ∧ s.get SEQ_STATUS_PHASE = 3 ∧ !s.seq.coreStop ∧ s.expired b (s.offDly rail.toNat)) →
     exec (.offDelayExpiry rail) s =
       .next (s.pdStep)) ∧
  (∀ (c : BitVec 10) (s : State), s.glb.st = .sealed ∧ c.toNat < s.get SEQ_BANKMON_SFLOOR ∧ s.mode ≠ 0 →
     exec (.bankmonSealedFloor c) s = .next ((s.setB SEQ_STATUS_BANK_S true).ctlOff.event 0x050E 0)) ∧
  (∀ (c : BitVec 10) (s : State), s.glb.st = .sealed ∧ c.toNat < s.get SEQ_BANKMON_SFLOOR ∧ s.mode ≠ 0 →
     Store.wf 0 s.regs = true →
     ∃ t, exec (.bankmonSealedFloor c) s = .next t ∧ t.mode = 0 ∧ t.gates = (0, 0) ∧ t.get SEQ_STATUS_BANK_S = 1 ∧
       t.glb = s.glb ∧ t.pq = s.pq ∧ t.cch = s.cch ∧ t.vlt = s.vlt ∧ t.cfl = s.cfl)

/-- MANUAL_RAIL_ON and MANUAL_RAIL_OFF of a rail that is wired for firmware, in BOOT, RESTORE or SERVE, set or clear its enable;
REPOWER, MANUAL_RAIL_ON and MANUAL_RAIL_OFF that do not apply set CMDREF with event 0x0B0F. WARNING_COUNT_CLEAR clears the
count of a rail below 48. RESET_STRETCH_EXPIRY of a running stretch that has run out releases the reset output; one not
running changes nothing. DROOP_TRIP of a tile that is on counts, shows and records event 0x0B0D; DROOP_RELEASE clears what
shows. SNAP_DATA_READ answers the selected word of the selected slot and moves to the next word, from 169 to 0. -/
def Obligations.ManualRailsDroopsAndSnapshots : Prop :=
  (∀ (rail : BitVec 6) (s : State), s.manualMay rail.toNat = true →
     exec (.manualRailOn rail) s =
       .next ({ s with seq := { s.seq with en := setBit s.seq.en rail.toNat } }.setRail rail.toNat 6)) ∧
  (∀ (rail : BitVec 6) (s : State), ¬(s.manualMay rail.toNat = true) →
     exec (.manualRailOn rail) s = .next ((s.setB SEQ_STATUS_CMDREF true).event 0x0B0F (srcRail rail.toNat))) ∧
  (∀ (rail : BitVec 6) (s : State), s.manualMay rail.toNat = true →
     exec (.manualRailOff rail) s =
       .next ({ s with seq := { s.seq with en := clrBit s.seq.en rail.toNat } }.setRail rail.toNat 0)) ∧
  (∀ (rail : BitVec 6) (s : State), ¬(s.manualMay rail.toNat = true) →
     exec (.manualRailOff rail) s = .next ((s.setB SEQ_STATUS_CMDREF true).event 0x0B0F (srcRail rail.toNat))) ∧
  (∀ (rail : BitVec 6) (s : State), ¬(s.glb.st = .serve ∧ rail.toNat < 48 ∧ s.railKind rail.toNat = 1 ∧
     s.railOn rail.toNat = false ∧ s.railCore rail.toNat = false ∧ s.owned (s.railGroup rail.toNat) = false) →
     exec (.repower rail) s = .next ((s.setB SEQ_STATUS_CMDREF true).event 0x0B0F (srcRail rail.toNat))) ∧
  (∀ (rail : BitVec 6) (s : State), s.glb.st = .serve ∧ rail.toNat < 48 ∧ s.railKind rail.toNat = 1 ∧
     s.railOn rail.toNat = false ∧ s.railCore rail.toNat = false ∧ s.owned (s.railGroup rail.toNat) = false →
     ∃ t, exec (.repower rail) s = .next t ∧ t.seq.repower = s.seq.repower.erase rail.toNat ++ [rail.toNat] ∧
     t = { s with regs := t.regs, irq := t.irq, evr := t.evr, mbx := t.mbx, seq := t.seq, out := t.out }) ∧
  (∀ (rail : BitVec 6) (s : State), (rail.toNat < 48 →
     exec (.warningCountClear rail) s = .next (s.set (SEQ_RAIL_WCNT rail.toNat) 0)) ∧
     (48 ≤ rail.toNat → exec (.warningCountClear rail) s =
       .next ((s.setB SEQ_STATUS_CMDREF true).event 0x0B0F (srcRail rail.toNat)))) ∧
  (∀ (g : BitVec 4) (s : State) (b : Nat), s.glb.cycle = 0 → Store.get 0 s.seq.stretch g.toNat = b + 1 →
     s.expired b (s.groupStretch g.toNat) = true →
     exec (.resetStretchExpiry g) s =
       .next (((s.set SEQ_RST_ASSERTED (clrBit (s.get SEQ_RST_ASSERTED) g.toNat)).set SEQ_RST_STRETCHING
       (clrBit (s.get SEQ_RST_STRETCHING) g.toNat)).updSeq fun q => { q with stretch := Store.put 0 q.stretch g.toNat 0 })) ∧
  (∀ (g : BitVec 4) (s : State), (Store.get 0 s.seq.stretch g.toNat = 0 ∨
     s.expired (Store.get 0 s.seq.stretch g.toNat - 1) (s.groupStretch g.toNat) = false) →
     exec (.resetStretchExpiry g) s = .next s) ∧
  (∀ (t : BitVec 6) (s : State), s.domOn t.toNat = true →
     exec (.droopTrip t) s =
       .next (((s.count (SEQ_DROOPCNT_TRIPS t.toNat) 1).setB (SEQ_DROOPCNT_NOW t.toNat) true).event 0x0B0D (srcTile t.toNat))) ∧
  (∀ (t : BitVec 6) (s : State), ¬(s.domOn t.toNat = true) → exec (.droopTrip t) s = .next s) ∧
  (∀ (t : BitVec 6) (s : State), (¬(4 ≤ s.droopsIn (quadrantOf t.toNat) ∧
     (s.setB (SEQ_DROOPCNT_NOW t.toNat) false).droopsIn (quadrantOf t.toNat) < 4) →
     exec (.droopRelease t) s = .next (s.setB (SEQ_DROOPCNT_NOW t.toNat) false)) ∧
     (4 ≤ s.droopsIn (quadrantOf t.toNat) ∧ (s.setB (SEQ_DROOPCNT_NOW t.toNat) false).droopsIn (quadrantOf t.toNat) < 4 →
       exec (.droopRelease t) s = .next ((s.setB (SEQ_DROOPCNT_NOW t.toNat) false).updSeq fun q => { q with
       fabRel := Store.put 0 q.fabRel (quadrantOf t.toNat) (400 * s.glb.beat + s.glb.cycle + 1) }))) ∧
  (∀ (s : State) (q : Nat), (4 ≤ s.droopsIn q → s.fabricMhz q = 800) ∧
     (s.droopsIn q < 4 → Store.get 0 s.seq.fabRel q < 400 * s.glb.beat + s.glb.cycle → s.fabricMhz q = 1600)) ∧
  (∀ (g : Agent) (s : State), s.answers g = true →
     exec (.snapDataRead g) s = .next ((s.set SEQ_SNAP_SEL_WORD ((s.get SEQ_SNAP_SEL_WORD + 1) % 170)).emit
     (.regData g 0xA0040 (leAt (Store.get [] s.seq.snaps (s.get SEQ_SNAP_SEL_SLOT)) (4 * s.get SEQ_SNAP_SEL_WORD) 4)))) ∧
  (∀ (rail : BitVec 6) (s : State), (s.glb.st = .serve ∧ rail.toNat < 48 ∧ s.railKind rail.toNat = 1 ∧ !s.railOn rail.toNat ∧
     !s.railCore rail.toNat ∧ !s.owned (s.railGroup rail.toNat)) →
     exec (.repower rail) s =
       .next (let n := rail.toNat
       let l := (s.withDesc [n]).filter fun k => !s.owned (s.railGroup k)
       let s1 := l.foldl (fun t k => if t.rail k = 5 then t.setRail k 0 else t) s
       (s1.updSeq fun q => { q with repower := q.repower.erase n ++ [n], want := l.foldl setBit q.want }).startRails))

/-- SCAN_COMPLETE before its conversions can be complete, or with fewer codes than the list, changes nothing; a complete scan that
judges no rail is kept as the newest of at most five and a new one starts. RAIL_TON_EXPIRY, RAIL_SETTLE_EXPIRY and
RAIL_FDELAY_EXPIRY change nothing for a rail that is not ramping, settling or in its shut-down delay, or before the time; a
rail whose settle has run out is good and joins the achieved order, behind the rails that were good earlier and those of the
same boundary with a lower number. DOMAIN_ON_TIMEOUT of a domain that is not awaited changes nothing, DOMAIN_FAULT of one that
is off changes nothing. None of them changes a vault chunk, a queue entry, flash or the steward. -/
def Obligations.ScansRailsAndDomains : Prop :=
  (∀ (codes : List (BitVec 12)) (pg : BitVec 48) (s : State),
     (s.glb.cycle ≠ 0 ∨ s.seq.scanList = [] ∨ s.glb.beat < s.seq.scanStart + cdiv s.seq.scanList.length 4 ∨
       codes.length < s.seq.scanList.length) →
     exec (.scanComplete codes pg) s = .next s) ∧
  (∀ (codes : List (BitVec 12)) (pg : BitVec 48) (s : State), s.glb.cycle = 0 → s.seq.scanList ≠ [] →
     s.seq.scanStart + cdiv s.seq.scanList.length 4 ≤ s.glb.beat → s.seq.scanList.length ≤ codes.length →
     ∃ t, exec (.scanComplete codes pg) s = .next t ∧ t.pq = s.pq ∧ t.sti = s.sti ∧ t.stw = s.stw ∧ t.mtx = s.mtx ∧
       t.cfl.bytes = s.cfl.bytes) ∧
  (∀ (codes : List (BitVec 12)) (pg : BitVec 48) (s : State), s.glb.cycle = 0 → s.seq.scanList ≠ [] →
     s.seq.scanStart + cdiv s.seq.scanList.length 4 ≤ s.glb.beat → s.seq.scanList.length ≤ codes.length →
     (∀ n ∈ s.seqRails, s.railScan n ∉ s.seq.scanList) → s.seq.offReq = false → s.sti.active = none → s.ctl.eq = none →
       s.glb.st ≠ .drain →
     ∃ t l, exec (.scanComplete codes pg) s = .next t ∧ t = { s with regs := t.regs, seq := t.seq } ∧
       t.seq = { s.seq with scans := (s.seq.scanList.zip (codes.map BitVec.toNat) :: s.seq.scans).take 5, scanStart := s.glb.beat, scanList := l }) ∧
  (∀ (rail : BitVec 6) (s : State), ¬(s.atBoundary = true ∧ s.rail rail.toNat = 1 ∧ s.railKind rail.toNat = 1 ∧
     s.expired (s.railSt rail.toNat).start (s.railTon rail.toNat) = true) →
     exec (.railTonExpiry rail) s = .next s) ∧
  (∀ (rail : BitVec 6) (s : State), s.atBoundary = true → s.rail rail.toNat = 1 → s.railKind rail.toNat = 1 →
     s.expired (s.railSt rail.toNat).start (s.railTon rail.toNat) = true → ∃ t, exec (.railTonExpiry rail) s = .next t ∧
       t.pq = s.pq ∧ t.sti = s.sti ∧ t.stw = s.stw ∧ t.mtx = s.mtx ∧ t.cfl.bytes = s.cfl.bytes) ∧
  (∀ (rail : BitVec 6) (s : State), ¬(s.atBoundary = true ∧ s.rail rail.toNat = 2 ∧ s.railKind rail.toNat = 1 ∧
     s.expired (s.railSt rail.toNat).settle (s.railSettle rail.toNat) = true) →
     exec (.railSettleExpiry rail) s = .next s) ∧
  (∀ (rail : BitVec 6) (s : State), s.atBoundary = true → s.rail rail.toNat = 2 → s.railKind rail.toNat = 1 →
     s.seq.offReq = false →
     s.expired (s.railSt rail.toNat).settle (s.railSettle rail.toNat) = true →
       ∃ t, exec (.railSettleExpiry rail) s = .next t ∧
     t.seq.order = s.orderWith rail.toNat ∧ ((∀ k ∈ s.seq.order, (s.railSt k).settle = s.glb.beat → k ≤ rail.toNat) →
       t.seq.order = s.seq.order ++ [rail.toNat]) ∧
     t.pq = s.pq ∧ t.sti = s.sti ∧ t.stw = s.stw ∧ t.mtx = s.mtx ∧ t.vlt = s.vlt ∧ t.cfl.bytes = s.cfl.bytes) ∧
  (∀ (rail : BitVec 6) (s : State), ¬(s.atBoundary = true ∧ s.rail rail.toNat = 4 ∧
     s.expired (s.railSt rail.toNat).fault (s.railFDelay rail.toNat) = true) →
     exec (.railFdelayExpiry rail) s = .next s) ∧
  (∀ (rail : BitVec 6) (s : State), s.atBoundary = true → s.rail rail.toNat = 4 →
     s.expired (s.railSt rail.toNat).fault (s.railFDelay rail.toNat) = true →
     ∃ t, exec (.railFdelayExpiry rail) s = .next t ∧ t.pq = s.pq ∧ t.cfl = s.cfl ∧ t.sti = s.sti ∧ t.stw = s.stw ∧
       t.mtx = s.mtx) ∧
  (∀ (codes : List (BitVec 12)) (pg : BitVec 48) (s : State), (¬ (!s.atBoundary ∨ s.seq.scanList = [] ∨
     s.glb.beat < s.seq.scanStart + cdiv s.seq.scanList.length 4 ∨ codes.length < s.seq.scanList.length)) →
     exec (.scanComplete codes pg) s =
       .next (let l := s.seq.scanList
       let scan := (List.range l.length).map fun i => (l.getD i 0, (codes.getD i 0).toNat)
       let s1 := scan.foldl (fun t x => t.set (SEQ_READ_CODE x.1) x.2) s
       let s2 := (s1.showPg pg.toNat).updSeq fun q => { q with scans := (scan :: q.scans).take 5 }
       let s3 := ((s2.judge scan pg.toNat).offStep.showPresence).eqScan
       (s3.startScans s3.scanInputs).drainAdvance)) ∧
  (∀ (rail : BitVec 6) (s : State), (s.atBoundary ∧ s.rail rail.toNat = 1 ∧ s.railKind rail.toNat = 1 ∧
     s.expired (s.railSt rail.toNat).start (s.railTon rail.toNat)) →
     exec (.railTonExpiry rail) s =
       .next (let n := rail.toNat
       (s.startFail n).offStep)) ∧
  (∀ (rail : BitVec 6) (s : State), (s.atBoundary ∧ s.rail rail.toNat = 2 ∧ s.railKind rail.toNat = 1 ∧
     s.expired (s.railSt rail.toNat).settle (s.railSettle rail.toNat)) →
     exec (.railSettleExpiry rail) s =
       .next (let n := rail.toNat
       ((s.railGood n).offStep).repowerDone)) ∧
  (∀ (rail : BitVec 6) (s : State), (s.atBoundary ∧ s.rail rail.toNat = 4 ∧
     s.expired (s.railSt rail.toNat).fault (s.railFDelay rail.toNat)) →
     exec (.railFdelayExpiry rail) s =
       .next (let n := rail.toNat
       let l := (s.withDesc [n]).filter s.railOn
       let s1 := (((s.railsOff l).setRail n 5).event 0x0B09 (srcRail n)).groupsFail (l.filter fun k => k ≠ n)
       (s1.drainFeeds l).drainAdvance)) ∧
  (∀ (d : BitVec 7) (s : State) (b : Nat), (Store.get 0 s.seq.domPend d.toNat = b + 1) →
     s.expired b 8 →
     exec (.domainOnTimeout d) s =
       .next ((s.domFault d.toNat))) ∧
  (∀ (d : BitVec 7) (s : State), (d.toNat < 96 ∧ s.domOn d.toNat) →
     exec (.domainFault d) s =
       .next ((s.domFault d.toNat).drainAdvance)) ∧
  (∀ (d : BitVec 7) (s : State), (Store.get 0 s.seq.domPend d.toNat = 0 → exec (.domainOnTimeout d) s = .next s) ∧
     (s.domOn d.toNat = false → exec (.domainFault d) s = .next s)) ∧
  (∀ (d : BitVec 7) (s : State) (b : Nat), Store.get 0 s.seq.domPend d.toNat = b + 1 → s.expired b 8 = true →
     ∃ t, exec (.domainOnTimeout d) s = .next t ∧ t.sti = s.sti ∧ t.stw = s.stw ∧ t.rst = s.rst) ∧
  (∀ (d : BitVec 7) (s : State), d.toNat < 96 → s.domOn d.toNat = true →
     ∃ t, exec (.domainFault d) s = .next t ∧ t.sti = s.sti ∧ t.stw = s.stw ∧ t.rst = s.rst)

/-- VDDAON_LOSS leaves the state of reset, but that the bytes of the configuration flash, the NAND chunks, the Dirty Shutdown
Count, the PERST pins and the queue of commands stand. VDDAON_POWER_ON latches the straps in that state, keeps the same
memories, and starts in POWERUP at beat 0 with PFW_n asserted. That the history of the pair record's beat is kept too is log
entry 146's. -/
def Obligations.AlwaysOnPowerLossAndReturn : Prop :=
  (∀ s : State, ∃ t, exec .vddaonLoss s = .next t ∧ t.regs = [] ∧ t.glb = { Glb.reset with free := s.glb.free } ∧
     t.irq = Irq.reset ∧
     t.evr = Evr.reset ∧ t.sti = Sti.reset ∧ t.dge = Dge.reset ∧ t.stw = Stw.reset ∧ t.pq = Pq.reset ∧ t.cch = Cch.reset ∧
       t.dsp = Dsp.reset ∧
     t.ldg = Ldg.reset ∧ t.ctl = Ctl.reset ∧ t.seq = Seq.reset ∧ t.drn = Drn.reset ∧ t.rst = Rst.reset ∧ t.mlk = Mlk.reset ∧
     t.cfl.bytes = s.cfl.bytes ∧ t.cfl.flags = s.cfl.flags ∧ t.vlt.nand = s.vlt.nand ∧ t.vlt.badBlocks = s.vlt.badBlocks ∧
     t.mbx.dirtyCount = s.mbx.dirtyCount ∧ t.hp.perst = s.hp.perst) ∧
  (∀ (straps : BitVec 4) (s : State), ∃ t, exec (.vddaonPowerOn straps) s = .next t ∧
     t.stw = { Stw.reset with straps := straps.toNat } ∧
     t.glb = { Glb.reset with free := t.glb.free } ∧ t.drn = Drn.reset ∧ t.cfl.bytes = s.cfl.bytes ∧
       t.vlt.nand = s.vlt.nand ∧
     t.hp.perst = s.hp.perst ∧ t.mbx.dirtyCount = s.mbx.dirtyCount ∧ t.pq = Pq.reset ∧ t.cch = Cch.reset) ∧
  (∀ (s : State), exec .vddaonLoss s = .next (s.vddReset)) ∧
  (∀ (straps : BitVec 4) (s : State), exec (.vddaonPowerOn straps) s =
       .next (let e := s.vddReset.entropy
       let s1 := (e.2.updDge fun d => { d with wrapKey := e.1 }).updStw fun w => { w with straps := straps.toNat }
       let s2 := match s1.seqRecordIn with
         | some t => (s1.updSeq fun q => { q with tbl := t }).set SEQ_STATUS_TABLE 1
         | none => (s1.updSeq fun q => { q with tbl := [] }).event 0x0B10 0
       let s3 := (s2.updSeq fun q => { q with minOff := some 0 }).updDrn fun d => { d with pfwIn := true }
       (s3.startScans s3.scanInputs).showKinds))

/-- DRAM_TRAINING of a population outside the table in BOOT: SPEED 0, POP_OK clear, and no rank is laid out; of one of the table
with every channel at the rated speed POP_OK sets and the lost ranks clear. CE_WINDOW_EXPIRY with the window in use and run
out clears every rank's count in the window and restarts it; else nothing. RETIRE_COMMAND that has a reason against it records
the reason with event 0x0306. RETIREMENT_BEGIN with no request does nothing, at a boundary with one takes the oldest: a spare
is chosen, and the copy of the rank begins. RETIREMENT_CUTOVER with no retirement, lines still to copy, outside SERVE or off a
boundary does nothing; else the spare takes the rank's place and the calibration cell is written. XLATE_START of an address
outside the cache clears VALID and keeps the rest; every XLATE_START touches only registers. -/
def Obligations.DramTrainingRanksAndRetirement : Prop :=
  (∀ (dimms : List Dimm) (l : List (BitVec 2)) (s : State), s.glb.st = .boot → populationOf dimms = none →
     exec (.dramTraining dimms l) s = .next ((s.set CCH_CFG_SPEED 0).setB CCH_STATUS_POP_OK false)) ∧
  (∀ (dimms : List Dimm) (l : List (BitVec 2)) (s : State) (p : Bool × Bool × Bool), s.glb.st = .boot →
     Store.wf 0 s.regs = true →
     populationOf dimms = some p → (∀ x ∈ l, (if p.1 then 2 else 3) ≤ x.toNat) →
     ∃ t, exec (.dramTraining dimms l) s = .next t ∧ t.drn = { s.drn with lostRanks := 0 } ∧
       t.rst = { s.rst with coldRanks := false } ∧
       t.get CCH_CFG_SPEED = (if p.1 then 2 else 3) ∧ t.get CCH_STATUS_POP_OK = 1 ∧ t.glb = s.glb ∧ t.pq = s.pq ∧
         t.vlt = s.vlt ∧ t.cfl = s.cfl) ∧
  (∀ (dimms : List Dimm) (speeds : List (BitVec 2)) (s : State) (p : Bool × Bool × Bool), (¬ (s.glb.st ≠ .boot ∧
     ¬(s.glb.st = .restore ∧ s.rst.coldRanks))) →
     (populationOf dimms = some p) →
     (¬ ((speeds.foldl (fun m x => min m x.toNat) (if p.1 then 2 else 3)) = 0)) →
     (¬ ((speeds.foldl (fun m x => min m x.toNat) (if p.1 then 2 else 3)) < (if p.1 then 2 else 3))) →
     exec (.dramTraining dimms speeds) s =
       .next (let rated := if p.1 then 2 else 3
       let low := speeds.foldl (fun m x => min m x.toNat) rated
       let s1 := ((s.setB CCH_CFG_DPC2 p.1).setB CCH_CFG_RANKS2 p.2.1).setB CCH_CFG_SIZE32 p.2.2
       let s2 := (((s1.set CCH_CFG_SPEED low).setB CCH_STATUS_POP_OK true).layRanks.updDrn fun d =>
         { d with lostRanks := 0 }).updRst fun r => { r with coldRanks := false }
       s2)) ∧
  (∀ s : State, s.get CCH_RET_WIN_BEATS ≠ 0 ∧ s.expired s.cch.winStart (s.get CCH_RET_WIN_BEATS) = true →
     Store.wf 0 s.regs = true → ∃ t, exec .ceWindowExpiry s = .next t ∧ t.cch = { s.cch with winStart := s.glb.beat } ∧
     (∀ n, n < 32 → t.get (CCH_RANK_CE_WIN n) = 0) ∧ t = { s with regs := t.regs, cch := t.cch }) ∧
  (∀ (s : State), (s.get CCH_RET_WIN_BEATS ≠ 0 ∧ s.expired s.cch.winStart (s.get CCH_RET_WIN_BEATS)) →
     exec .ceWindowExpiry s =
       .next (((List.range 32).foldl (fun t n => t.set (CCH_RANK_CE_WIN n) 0) (s.updCch fun c => { c with winStart := s.glb.beat })))) ∧
  (∀ s : State, ¬(s.get CCH_RET_WIN_BEATS ≠ 0 ∧ s.expired s.cch.winStart (s.get CCH_RET_WIN_BEATS) = true) →
     exec .ceWindowExpiry s = .next s) ∧
  (∀ (n : BitVec 5) (s : State), s.retireReason n.toNat ≠ 0 →
     exec (.retireCommand n) s =
       .next ((s.set CCH_RET_STATUS_REASON (s.retireReason n.toNat)).event 0x0306 (srcRank n.toNat))) ∧
  (∀ (n : BitVec 5) (s : State), s.retireReason n.toNat = 0 → bitOf s.sti.guardClasses 7 = false →
     exec (.retireCommand n) s = .next { s with cch := { s.cch with retReq := s.cch.retReq ++ [n.toNat] } }) ∧
  (∀ s : State, (s.cch.retReq = [] → exec .retirementBegin s = .next s) ∧
     ∀ n rest, s.glb.cycle = 0 → bitOf s.sti.guardClasses 7 = false → s.cch.retReq = n :: rest → s.retireReason n ≠ 0 →
       exec .retirementBegin s =
       .next (({ s with cch := { s.cch with retReq := rest } }.set CCH_RET_STATUS_REASON (s.retireReason n)).event 0x0306 (srcRank n))) ∧
  (∀ (s : State) (n : Nat) (rest : List Nat), s.glb.cycle = 0 → bitOf s.sti.guardClasses 7 = false →
     s.cch.retReq = n :: rest → n < 32 → s.retireReason n = 0 → Store.wf 0 s.regs = true →
     ∃ t k, exec .retirementBegin s = .next t ∧ k < 32 ∧ s.get (CCH_RANK_STATE k) = 2 ∧ (∀ j, j < k →
       s.get (CCH_RANK_STATE j) ≠ 2) ∧
       t.cch = { s.cch with retReq := rest, ret := some ⟨n, k, 0, s.rankAll * 64, [], 0, 0, 0⟩ } ∧
         t.get (CCH_RANK_STATE n) = 3 ∧
       t.get (CCH_RANK_STATE k) = 4 ∧ t.get CCH_STATUS_RETIRING = 1 ∧ t.get CCH_RET_STATUS_FROM = n ∧
         t.get CCH_RET_STATUS_TO = k ∧
       t.get CCH_RET_STATUS_PCT = 0 ∧ t =
         { s with regs := t.regs, irq := t.irq, evr := t.evr, mbx := t.mbx, cch := t.cch, out := t.out }) ∧
  (∀ (s : State) (n k : Nat) (rest : List Nat), s.glb.cycle = 0 → bitOf s.sti.guardClasses 7 = false →
     s.cch.retReq = n :: rest → s.retireReason n = 0 →
     ((List.range 32).find? fun k => s.get (CCH_RANK_STATE k) = 2) = some k →
     exec .retirementBegin s = .next (
       let a := { s with cch := { s.cch with retReq := rest, ret := some ⟨n, k, 0, s.rankAll * 64, [], 0, 0, 0⟩ } }
       let b := ((a.set (CCH_RANK_STATE n) 3).set (CCH_RANK_STATE k) 4).setB CCH_STATUS_RETIRING true
       let c := ((b.set CCH_RET_STATUS_FROM n).set CCH_RET_STATUS_TO k).setB CCH_RET_STATUS_ACTIVE true
       ((c.set CCH_RET_STATUS_PCT 0).set CCH_RET_STATUS_REASON 0).event 0x0304 (srcRank n))) ∧
  (∀ s : State, (s.glb.cycle ≠ 0 ∨ bitOf s.sti.guardClasses 7 = true) → exec .retirementBegin s = .next s) ∧
  (∀ s : State, (s.cch.ret = none ∨ ∃ r, s.cch.ret = some r ∧ r.copied < r.total) → exec .retirementCutover s = .next s) ∧
  (∀ (s : State) (r : Retire), s.cch.ret = some r ∧ r.total ≤ r.copied ∧ s.glb.st = .serve ∧ s.glb.cycle = 0 ∧
     r.doneBeat < s.glb.beat → r.src < 32 ∧ r.dst < 32 ∧ r.src ≠ r.dst ∧ Store.wf 0 s.regs = true →
     ∃ t k, exec .retirementCutover s = .next t ∧ t.cch.ret = none ∧
       t.cch.remap = Store.put none s.cch.remap k (some r.dst) ∧
       t.cch.retired = setBit s.cch.retired r.src ∧
       t.get (CCH_RANK_STATE r.src) = 5 ∧ t.get (CCH_RANK_STATE r.dst) = 1 ∧ t.get CCH_STATUS_RETIRING = 0 ∧
         t.get CCH_RET_STATUS_ACTIVE = 0 ∧
       t.glb = s.glb ∧ t.pq = s.pq ∧ t.vlt = s.vlt ∧ t.drn = s.drn) ∧
  (∀ (s : State) (r : Retire), (s.cch.ret = some r) →
     (¬ (r.copied < r.total ∨ s.glb.st ≠ .serve ∨ !s.atBoundary ∨ s.glb.beat ≤ r.doneBeat)) →
     exec .retirementCutover s =
       .next (let key := ((List.range 32).find? fun n => Store.get none s.cch.remap n = some r.src).getD r.src
       let s1 := s.updCch fun c => { c with
         ret := none, remap := Store.put none c.remap key (some r.dst), retired := setBit c.retired r.src
         lines := r.spare.foldl (fun m l => Store.put LineCell.zero m l.1 l.2) (Store.keep (fun k => s.rankOf (k / 64) ≠ some r.src) c.lines) }
       let s2 := ((s1.set (CCH_RANK_STATE r.src) 5).set (CCH_RANK_STATE r.dst) 1).setB CCH_STATUS_RETIRING false
       let s3 := (s2.set (CCH_RANK_SET r.dst) (s.get (CCH_RANK_SET r.src))).set (CCH_RANK_MEMBER r.dst) (s.get (CCH_RANK_MEMBER r.src))
       let s4 := (s3.setB CCH_RET_STATUS_ACTIVE false).event 0x0305 (srcRank r.src)
       (s4.flashWrite (.cell 4 s4.calCell)))) ∧
  (∀ (hi : Word) (s : State), ∃ t, exec (.xlateStart hi) s = .next t ∧ t = { s with regs := t.regs } ∧
     (s.rankOf ((s.get CCH_XLATE_LO_CA + 2 ^ 32 * hi.toNat) / 4096) = none →
       t = (s.set CCH_XLATE_HI_CA hi.toNat).setB CCH_XLATE_OUT_VALID false) ∧
     (∀ n, s.rankOf ((s.get CCH_XLATE_LO_CA + 2 ^ 32 * hi.toNat) / 4096) = some n → Store.wf 0 s.regs = true → n < 32 →
       t.get CCH_XLATE_OUT_PRANK = n ∧ t.get CCH_XLATE_OUT_VALID = 1)) ∧
  (∀ (hi : Word) (s : State) (n a : Nat), s.rankOf ((s.get CCH_XLATE_LO_CA + 2 ^ 32 * hi.toNat) / 4096) = some n →
     s.rankOffset (s.get CCH_XLATE_LO_CA + 2 ^ 32 * hi.toNat) = some a →
     exec (.xlateStart hi) s = .next (
       let x := Config.dramPlace a
       let b := ((s.set CCH_XLATE_HI_CA hi.toNat).set CCH_XLATE_OUT_PRANK n).set CCH_XLATE_OUT_SUBCH ((s.get CCH_XLATE_LO_CA + 2 ^ 32 * hi.toNat) / 64 % 2)
       (((b.set CCH_XLATE_OUT_BG x.1).set CCH_XLATE_OUT_BANK x.2.1).set CCH_XLATE_OUT_ROW x.2.2).setB CCH_XLATE_OUT_VALID true))

/-- DRAM_READ_COMPLETE of a line met by no error only counts as load. INGEST_FLUSH of no queue entry, of one that has issued, of
one that is not the first unissued entry of its line, or while the mover of its tile holds 64 requests changes nothing;
INGEST_WRITE_COMPLETE of an entry that has not issued, or that is flushed, changes nothing. SCRUB outside SERVE changes
nothing; in SERVE a copying SCRUB with no retirement changes nothing, and with one, at the line the copy has come to, takes
one copy step per line; a patrol with the pass rate 0 only shows SCRUB_OFF, else it takes one patrol step per line. An
INGEST_FLUSH of a full line outside DRAIN on a restored line gives the line the entry's data and poison, changes no other
line, and marks granule and entry; INGEST_WRITE_COMPLETE of an issued entry outside DRAIN shows it flushed, and entries
flushed and sent leave. DRAM_READ_COMPLETE, INGEST_FLUSH and SCRUB never touch configuration flash, the digest engine, the
steward, the ports' registers, the ledger, the hold-up controller or the mirror link. -/
def Obligations.ReadsFlushesAndScrub : Prop :=
  (∀ (la : BitVec 40) (s : State), s.lineLost la.toNat = false → exec (.dramReadComplete la 0) s = .next (s.dramMove 64)) ∧
  (∀ (la : BitVec 40) (err : Codeword) (s : State), ∃ t, exec (.dramReadComplete la err) s = .next t ∧ t.sti = s.sti ∧
     t.cfl = s.cfl ∧ t.dge = s.dge ∧ t.stw = s.stw ∧ t.pq = s.pq ∧ t.hp = s.hp ∧ t.ldg = s.ldg ∧ t.ctl = s.ctl ∧
     t.seq = s.seq ∧ t.drn = s.drn ∧ t.vlt = s.vlt ∧ t.mlk = s.mlk ∧ t.mtx = s.mtx ∧
     (s.dramRead la.toNat err).2.cch.lines = s.cch.lines) ∧
  (∀ (id : BitVec 48) (err : Codeword) (b : Bool) (f : BitVec 6) (s : State), s.qEntry id.toNat = none ∨
     (∃ e, s.qEntry id.toNat = some e ∧
     (e.issued = true ∨ (s.entriesOf e.line).find? (fun x => !x.issued) ≠ some e ∨ s.oldShare e = true ∨
       64 ≤ s.moverBusy e.tile)) → exec (.ingestFlush id err b f) s = .next s) ∧
  (∀ (id : BitVec 48) (err : Codeword) (b : Bool) (f : BitVec 6) (s : State) (e : QEntry), s.qEntry id.toNat = some e →
     e.issued = false →
     (s.entriesOf e.line).find? (fun x => !x.issued) = some e → s.oldShare e = false → s.moverBusy e.tile < 64 →
       ∃ t, exec (.ingestFlush id err b f) s = .next t ∧ t.cfl = s.cfl ∧ t.dge = s.dge ∧ t.stw = s.stw ∧ t.hp = s.hp ∧
       t.ldg = s.ldg ∧ t.ctl = s.ctl ∧ t.mlk = s.mlk) ∧
  (∀ (id : BitVec 48) (s : State) (e : QEntry), s.qEntry id.toNat = some e → e.issued = false → e.mask = fullMask →
     (s.entriesOf e.line).find? (fun x => !x.issued) = some e → s.glb.st ≠ .drain → s.inDram e.line = true →
     s.oldShare e = false → s.moverBusy e.tile < 64 → s.unrest (e.line / 64) = false →
       Store.wf LineCell.zero s.cch.lines = true →
     ∃ t, exec (.ingestFlush id 0 false 0) s = .next t ∧ t.line e.line = ⟨e.data, e.poison⟩ ∧
       (∀ la, la ≠ e.line → t.line la = s.line la) ∧ (t.entry (e.line / 64)).dirty = true ∧
         t.qEntry id.toNat = some { e with issued := true, placed := s.glb.beat }) ∧
  (∀ (id : BitVec 48) (s : State), (s.qEntry id.toNat = none ∨ ∃ e, s.qEntry id.toNat = some e ∧ (e.issued = false ∨
     e.flushed = true)) →
       ∀ b, exec (.ingestWriteComplete id b) s = .next s) ∧
  (∀ (id : BitVec 48) (b : Bool) (s : State) (e : QEntry), s.qEntry id.toNat = some e → e.issued = true → e.flushed = false →
     s.glb.st ≠ .drain →
       exec (.ingestWriteComplete id b) s =
         .next { s with pq := { s.pq with entries := (s.pq.entries.map fun x => if x.id = e.id then { e with flushed := true } else x).filter fun x => !(x.flushed && x.sent) } }) ∧
  (∀ (f : BitVec 40) (n : BitVec 32) (c : Bool) (l : List Codeword) (s : State), s.glb.st ≠ .serve →
     exec (.scrub f n c l) s = .next s) ∧
  (∀ (f : BitVec 40) (n : BitVec 32) (l : List Codeword) (s : State), s.glb.st = .serve → s.cch.ret = none →
     exec (.scrub f n true l) s = .next s) ∧
  (∀ (f : BitVec 40) (n : BitVec 32) (l : List Codeword) (s : State), s.glb.st = .serve → s.get CCH_SCRUB_PASS_HOURS = 0 →
     exec (.scrub f n false l) s = .next (s.setB CCH_STATUS_SCRUB_OFF true)) ∧
  (∀ (f : BitVec 40) (n : BitVec 32) (c : Bool) (l : List Codeword) (s : State), s.glb.st = .serve →
     ∃ t, exec (.scrub f n c l) s = .next t ∧ t.cfl = s.cfl ∧ t.dge = s.dge ∧ t.stw = s.stw ∧ t.pq = s.pq ∧ t.hp = s.hp ∧
       t.ldg = s.ldg ∧ t.ctl = s.ctl ∧ t.seq = s.seq ∧ t.drn = s.drn ∧ t.vlt = s.vlt ∧ t.mlk = s.mlk ∧ t.mtx = s.mtx ∧
       t.glb.st = s.glb.st) ∧
  (∀ (id : BitVec 48) (err : Codeword) (tsBad : Bool) (tsFix : BitVec 6) (s : State) (e : QEntry),
     (s.qEntry id.toNat = some e) →
     (¬ (e.issued ∨ ((s.entriesOf e.line).find? fun x => !x.issued) ≠ some e ∨ s.oldShare e ∨ 64 ≤ s.moverBusy e.tile)) →
     (¬ (((if s.glb.st = .drain ∧ s.unrest (e.line / 64) then (s.underBeat (s.issueBeat fun k => k.ty =
       1 && k.arg0 = e.id)).fetchDone (e.line / 64) else (s.underBeat (s.issueBeat fun k => k.ty =
       1 && k.arg0 = e.id))).unrest (e.line / 64) && !(if s.glb.st = .drain ∧
       s.unrest (e.line / 64) then (s.underBeat (s.issueBeat fun k => k.ty =
       1 && k.arg0 = e.id)).fetchDone (e.line / 64) else (s.underBeat (s.issueBeat fun k => k.ty =
       1 && k.arg0 = e.id))).inDram e.line) ∧ !(tsBad || e.mask = fullMask))) →
     (¬ (((if s.glb.st = .drain ∧ s.unrest (e.line / 64) then (s.underBeat (s.issueBeat fun k => k.ty =
       1 && k.arg0 = e.id)).fetchDone (e.line / 64) else (s.underBeat (s.issueBeat fun k => k.ty =
       1 && k.arg0 = e.id))).unrest (e.line / 64) && !(if s.glb.st = .drain ∧
       s.unrest (e.line / 64) then (s.underBeat (s.issueBeat fun k => k.ty =
       1 && k.arg0 = e.id)).fetchDone (e.line / 64) else (s.underBeat (s.issueBeat fun k => k.ty =
       1 && k.arg0 = e.id))).inDram e.line) ∧ !(if s.glb.st = .drain ∧
       s.unrest (e.line / 64) then (s.underBeat (s.issueBeat fun k => k.ty =
       1 && k.arg0 = e.id)).fetchDone (e.line / 64) else (s.underBeat (s.issueBeat fun k => k.ty =
       1 && k.arg0 = e.id))).overlayRoom (e.line / 64))) →
     exec (.ingestFlush id err tsBad tsFix) s =
       .next (let g := e.line / 64
       let u := s.underBeat (s.issueBeat fun k => k.ty = 1 && k.arg0 = e.id)
       let s0 := if s.glb.st = .drain ∧ s.unrest g then u.fetchDone g else u
       let far := s0.unrest g && !s0.inDram e.line
       let s1 := if far then s0.queueFetch g else s0
       let s2 := if tsBad then s1.flushBad e else s1.flushLine e err
       let s3 := (((s2.count (TIL_TSERR_CORR e.tile) tsFix.toNat).dramMove e.flushBytes).markDirty g).setQEntry { e with issued := true, sent := e.sent || tsBad, placed := s.glb.beat }
       let s4 := if s3.unrest g then s3.overlayLine e.line else s3
       ((s4.restoreImage s.sti.active).retireTask fun k => k.ty = 1 && k.arg0 = e.id).drainAdvance)) ∧
  (∀ (first : BitVec 40) (count : BitVec 32) (copy : Bool) (errs : List Codeword) (s : State), (¬ (s.glb.st ≠ .serve)) →
     (¬ (copy)) →
     (¬ (s.get CCH_SCRUB_PASS_HOURS = 0)) →
     exec (.scrub first count copy errs) s =
       .next (let u := s.underBeat (s.issueBeat fun k => k.ty = 7)
       let t := (List.range count.toNat).foldl (fun v i => v.patrolStep (first.toNat + i) (errs.getD i 0))
         (u.setB CCH_STATUS_SCRUB_OFF false)
       ((t.restoreImage s.sti.active).retireTask fun k => k.ty = 7))) ∧
  (∀ (first : BitVec 40) (count : BitVec 32) (copy : Bool) (errs : List Codeword) (s : State) (r : Retire),
     (¬ (s.glb.st ≠ .serve)) →
     copy →
     (s.cch.ret = some r) →
     ((s.underBeat (s.issueBeat fun k => k.ty = 7)).copyAt r = first.toNat) →
     exec (.scrub first count copy errs) s =
       .next (let u := s.underBeat (s.issueBeat fun k => k.ty = 7)
       let es := (List.range count.toNat).map fun i => errs.getD i 0
       (((es.foldl State.copyStep u).restoreImage s.sti.active).retireTask fun k => k.ty = 7)))

/-- CHUNK_READ_COMPLETE on a counted module whose first read is good only forgets that the chunk was bad; of a module that is not
counted, a chunk that parity cannot rebuild is unrecoverable and its 4 KiB joins the lost ones (the shared step that records
event 0x070A). NAND_PROGRAM_COMPLETE that succeeded changes nothing. One that failed runs the shared failure of a sheet.
NAND_ERASE_COMPLETE that succeeded erases a half-erased block unless RESULT is 3, one that failed marks the block bad and
records event 0x0707; a block already known bad is only reported. BAND_OPEN before the vault is ready, of a block that is not
free or not in the vault's range, or while the open band has room, or with fewer than 3 modules, changes nothing.
CHECKPOINT_TRIGGER below both limits changes nothing; at the limit in MiB, in a ready vault outside DRAIN with no checkpoint
running, a checkpoint begins. EPOCH_SEAL with no finished checkpoint, or with a drain's, changes nothing. -/
def Obligations.ChunksProgramsAndErases : Prop :=
  (∀ (ch : BitVec 5) (a : BitVec 3) (pl : BitVec 2) (blk : BitVec 14) (pg : BitVec 12) (c : BitVec 3) (l : List (List Nat)) (s : State), s.modUp (ch.toNat / 8) = true → s.goodLevel (s.rawChunk (chunkKey ch.toNat a.toNat pl.toNat blk.toNat pg.toNat c.toNat)) (l.take 1) = true →
     exec (.chunkReadComplete ch a pl blk pg c l) s =
       .next { s with vlt := { s.vlt with bad := s.vlt.bad.filter (· ≠ chunkKey ch.toNat a.toNat pl.toNat blk.toNat pg.toNat c.toNat) } }) ∧
  (∀ (ch : BitVec 5) (a : BitVec 3) (pl : BitVec 2) (blk : BitVec 14) (pg : BitVec 12) (c : BitVec 3) (l : List (List Nat)) (s : State), s.modUp (ch.toNat / 8) = false →
     (s.rebuild ch.toNat a.toNat pl.toNat blk.toNat pg.toNat c.toNat = none →
       exec (.chunkReadComplete ch a pl blk pg c l) s =
         .next (s.unrecoverable (chunkKey ch.toNat a.toNat pl.toNat blk.toNat pg.toNat c.toNat)) ∧
       (s.vlt.lost.contains ((chunkKey ch.toNat a.toNat pl.toNat blk.toNat pg.toNat c.toNat) / 2) = false →
         (s.unrecoverable (chunkKey ch.toNat a.toNat pl.toNat blk.toNat pg.toNat c.toNat)).vlt.lost =
         s.vlt.lost ++ [(chunkKey ch.toNat a.toNat pl.toNat blk.toNat pg.toNat c.toNat) / 2])) ∧
     (∀ x, s.rebuild ch.toNat a.toNat pl.toNat blk.toNat pg.toNat c.toNat = some x →
       exec (.chunkReadComplete ch a pl blk pg c l) s =
         .next (((s.event 0x0709 (srcChannel ch.toNat)).count VLT_ERRCNT_REBUILDS 1).markBand blk.toNat))) ∧
  (∀ (ch : BitVec 5) (a : BitVec 3) (pl : BitVec 2) (blk : BitVec 14) (pg : BitVec 12) (s : State),
     exec (.nandProgramComplete ch a pl blk pg true) s = .next s ∧
     exec (.nandProgramComplete ch a pl blk pg false) s = .next (s.sheetFailed ch.toNat a.toNat pl.toNat blk.toNat pg.toNat)) ∧
  (∀ (ch : BitVec 5) (a : BitVec 3) (pl : BitVec 2) (blk : BitVec 14) (s : State),
     exec (.nandEraseComplete ch a pl blk true) s =
       .next (if s.vlt.halfErased.contains (eblockKey ch.toNat a.toNat pl.toNat blk.toNat) && s.get VLT_RST_STATUS_RESULT ≠ 3 then
       s.updVlt (fun v => v.eraseWhere fun k => k = eblockKey ch.toNat a.toNat pl.toNat blk.toNat) else s) ∧
     exec (.nandEraseComplete ch a pl blk false) s =
       .next ((s.markBad (eblockKey ch.toNat a.toNat pl.toNat blk.toNat)).event 0x0707 (srcChannel ch.toNat)) ∧
     (s.vlt.badBlocks.contains (eblockKey ch.toNat a.toNat pl.toNat blk.toNat) = true →
       s.markBad (eblockKey ch.toNat a.toNat pl.toNat blk.toNat) = s) ∧
     (s.vlt.badBlocks.contains (eblockKey ch.toNat a.toNat pl.toNat blk.toNat) = false → s.vlt.badBlocks.length < 16376 →
       (s.markBad (eblockKey ch.toNat a.toNat pl.toNat blk.toNat)).vlt.badBlocks =
         s.vlt.badBlocks ++ [eblockKey ch.toNat a.toNat pl.toNat blk.toNat])) ∧
  (∀ (blk : BitVec 14) (s : State), s.bit VLT_STATUS_READY = true ∧ s.img.crownBlocks ≤ blk.toNat ∧ blk.toNat < s.img.blocks ∧
     s.bandFree blk.toNat = true ∧ s.openBandOf = none ∧ 3 ≤ ones 4 s.bandMods →
     exec (.bandOpen blk) s = .next ((s.closeBand.openBand blk.toNat).showSpace) ∧
     (s.closeBand.openBand blk.toNat).vlt.openB = some (s.vlt.maxB + 1) ∧
       (s.closeBand.openBand blk.toNat).vlt.maxB = s.vlt.maxB + 1) ∧
  (∀ (blk : BitVec 14) (s : State), (s.bit VLT_STATUS_READY = false ∨ blk.toNat < s.img.crownBlocks ∨
     s.img.blocks ≤ blk.toNat ∨ s.bandFree blk.toNat = false ∨
       ones 4 s.bandMods < 3 ∨ ∃ b, s.openBandOf = some b ∧
         s.img.nextUsable b (s.img.bandSlots b) b.next < s.img.bandSlots b) →
     exec (.bandOpen blk) s = .next s) ∧
  (∀ s : State, s.bit VLT_STATUS_READY = true ∧ s.vlt.ckpt = none ∧ s.glb.st ≠ .drain ∧ s.get VLT_CKPT_MIB ≠ 0 ∧
     256 * s.get VLT_CKPT_MIB ≤ s.vlt.sinceCut → exec .checkpointTrigger s = .next (s.ckptBegin false) ∧
     (s.ckptBegin false).vlt.sinceCut = 0 ∧
     (s.ckptBegin false).vlt.dirtyPieces = [] ∧ (s.ckptBegin false).vlt.nand = s.vlt.nand ∧
       (s.ckptBegin false).vlt.ckpt ≠ none) ∧
  (∀ s : State, (s.bit VLT_STATUS_READY = false ∨ s.vlt.ckpt ≠ none ∨ s.glb.st = .drain ∨
       ((s.get VLT_CKPT_MIB = 0 ∨ s.vlt.sinceCut < 256 * s.get VLT_CKPT_MIB) ∧ (s.get VLT_CKPT_SEC = 0 ∨
         s.vlt.sinceCut = 0))) →
     exec .checkpointTrigger s = .next s) ∧
  (∀ (s : State) (k : Ckpt), s.vlt.ckpt = some k → k.done = true → k.drain = false → s.openBandOf = none →
     ∃ t, exec .epochSeal s = .next t ∧ t.glb = s.glb ∧ t.sti = s.sti ∧ t.stw = s.stw ∧ t.pq = s.pq ∧ t.hp = s.hp ∧
       t.ldg = s.ldg ∧ t.ctl = s.ctl ∧ t.seq = s.seq ∧ t.drn = s.drn ∧ t.rst = s.rst ∧ t.mlk = s.mlk) ∧
  (∀ (s : State) (k : Ckpt), (s.vlt.ckpt = some k) →
     (k.done ∧ !k.drain ∧ !(match s.openBandOf with | some b => s.rowBusy b (b.next / max 1 (s.img.rowSlots b)) | none => false)) →
     (s.dgeTake .crown).1 →
     exec .epochSeal s =
       .next (let e := s.dgeTake .crown
       let c : CrownIn := ⟨32 * b2n s.vlt.wide, s.epoch, 0, 0, s.drn.lastM, 0, 0, s.crownStamps⟩
       (((e.2.seal c).writePair false).event 0x0701 0).recorderCopy)) ∧
  (∀ s : State, (s.vlt.ckpt = none ∨ ∃ k, s.vlt.ckpt = some k ∧ (k.done = false ∨ k.drain = true)) →
     exec .epochSeal s = .next s)

/-- TRICKLE of a granule that may not be trickled, TRICKLE_WRITE_COMPLETE and FULL_COPY_COMPLETE of a granule with no such write
in flight, FULL of no band, PARITY of no band, MAP_CKPT with no checkpoint and HEALTH with no rehearsal change nothing. When
due: TRICKLE marks the granule TRK and clears WSINCE; TRICKLE_WRITE_COMPLETE gives the granule the location written and clears
TRK, and DIRTY where no flush came between; FULL_COPY_COMPLETE leaves the flight list; HEALTH queues one task at priority 7.
None of them changes a queue entry, a DRAM line, configuration flash or the operating state. -/
def Obligations.VaultTasksActOnlyWhenDue : Prop :=
  (∀ (g : BitVec 40) (s : State), s.trickleMay g.toNat = false → exec (.trickle g) s = .next s) ∧
  (∀ (g : BitVec 40) (s : State), s.trickleMay g.toNat = true ∧ s.tricklePace g.toNat = true ∧ s.dramMay 4 4096 = true →
     ∃ t, exec (.trickle g) s = .next t ∧
     t.cch.map = (s.setEntry g.toNat { s.entry g.toNat with wsince := false, trk := true }).cch.map ∧
       t.cch.lines = s.cch.lines ∧ t.glb = s.glb ∧ t.pq = s.pq ∧ t.cfl = s.cfl ∧ t.stw = s.stw ∧ t.mtx = s.mtx) ∧
  (∀ (g : BitVec 40) (s : State), (¬ (!s.trickleMay g.toNat || !s.tricklePace g.toNat)) →
     (¬ (!s.dramMay 4 4096)) →
     exec (.trickle g) s =
       .next (let n := g.toNat
       let u := (s.dramAsk 4 4096).underBeat (s.issueBeat fun k => k.ty = 3 && k.arg0 ≤ n && n < k.arg0 + k.count)
       (((u.trickle n).restoreImage s.sti.active).retireTask fun k => k.ty = 3 && k.arg0 + k.count = n + 1))) ∧
  (∀ (g : BitVec 40) (s : State), (s.vlt.inflight.find? (fun f => f.kind = 0 && f.granule = g.toNat) = none →
     exec (.trickleWriteComplete g) s = .next s) ∧
     (s.vlt.inflight.find? (fun f => f.kind = 2 && f.granule = g.toNat) = none → exec (.fullCopyComplete g) s = .next s)) ∧
  (∀ (g : BitVec 40) (s : State) (f : InFlight), s.vlt.inflight.find? (fun f => f.kind = 0 && f.granule = g.toNat) = some f →
     ∃ t, exec (.trickleWriteComplete g) s = .next t ∧ (t.entry g.toNat).vloc = f.vloc ∧ (t.entry g.toNat).trk = false ∧
       ((s.entry g.toNat).wsince = false → (t.entry g.toNat).dirty = false) ∧ t.cch.lines = s.cch.lines ∧ t.glb = s.glb ∧
         t.pq = s.pq ∧ t.cfl = s.cfl ∧ t.stw = s.stw ∧ t.mtx = s.mtx) ∧
  (∀ (g : BitVec 40) (s : State) (f : InFlight), s.vlt.inflight.find? (fun f => f.kind = 2 && f.granule = g.toNat) = some f →
     ∃ t, exec (.fullCopyComplete g) s = .next t ∧
       (t.entry g.toNat).vloc = (if (s.entry g.toNat).vloc = f.src then f.vloc else (s.entry g.toNat).vloc) ∧
       t.vlt.inflight = s.vlt.inflight.erase f ∧ t.cch.lines = s.cch.lines ∧ t.glb = s.glb ∧ t.pq = s.pq ∧ t.cfl = s.cfl ∧
         t.stw = s.stw ∧ t.mtx = s.mtx) ∧
  (∀ (g : BitVec 40) (s : State) (f : InFlight),
     ((s.vlt.inflight.find? fun f => f.kind = 0 && f.granule = g.toNat) = some f) →
     exec (.trickleWriteComplete g) s =
       .next (let n := g.toNat
       let c := s.classOf n
       let s1 := (s.updVlt fun v => { v with inflight := v.inflight.erase f }).setVloc n f.vloc c
       let s2 := s1.setEntry n { s1.entry n with trk := false }
       let s3 := if (s2.entry n).wsince then s2 else s2.clean n
       let s4 := s3.updLdg fun l => { l with rehRun := l.rehRun.map fun r => if c = (if r.cls = 3 then 4 else r.cls) then { r with bytes := r.bytes + 4096 } else r }
       ((s4.tagAll true).showSpace))) ∧
  (∀ (g : BitVec 40) (s : State) (f : InFlight),
     ((s.vlt.inflight.find? fun f => f.kind = 2 && f.granule = g.toNat) = some f) →
     exec (.fullCopyComplete g) s =
       .next (let s1 := s.updVlt fun v => { v with inflight := v.inflight.erase f }
       let s2 := if (s1.entry g.toNat).vloc = f.src then s1.setVloc g.toNat f.vloc (s1.classOf g.toNat) else s1
       ((s2.tagAll true).showSpace.showStripe))) ∧
  (∀ (b : BitVec 40) (n : BitVec 32) (r : BitVec 16) (s : State), s.band b.toNat = none →
     exec (.full b n) s = .next s ∧ exec (.parity b r) s = .next s) ∧
  (∀ (bs : BitVec 40) (n : BitVec 32) (s : State) (b : Band), s.band bs.toNat = some b ∧ s.serving = true ∧ b.closed = true ∧
     s.victim = some b → ∃ t, exec (.full bs n) s = .next t ∧ t.cch = s.cch ∧ t.glb = s.glb ∧ t.pq = s.pq ∧ t.cfl = s.cfl ∧
     t.stw = s.stw ∧ t.mtx = s.mtx) ∧
  (∀ (bs : BitVec 40) (row : BitVec 16) (s : State) (b : Band), s.band bs.toNat = some b ∧
     (row.toNat + 1) * s.img.rowSlots b ≤ b.next ∧ row.toNat < s.img.bandRows ∧ s.rowBusy b row.toNat = false ∧
     s.bit VLT_STATUS_READY = true → ∃ t, exec (.parity bs row) s = .next t ∧ t.cch.lines = s.cch.lines ∧ t.glb = s.glb ∧
     t.pq = s.pq ∧ t.cfl = s.cfl ∧ t.stw = s.stw ∧ t.mtx = s.mtx) ∧
  (∀ (bseq : BitVec 40) (count : BitVec 32) (s : State) (b : Band), (s.band bseq.toNat = some b) →
     (s.serving ∧ b.closed ∧ ((s.dsp.tasks.any fun k => k.ty = 8 && k.arg0 = b.bseq) ∨ s.victim = some b)) →
     exec (.full bseq count) s =
       .next (let busy := fun (g : Nat) => s.vlt.inflight.any fun f => f.kind = 2 && f.granule = g
       let u := s.underBeat (s.issueBeat fun k => k.ty = 8 && k.arg0 = b.bseq)
       let s1 := (((s.liveGranules b).filter fun g => !busy g).take count.toNat |>.foldl State.relocate u).restoreImage s.sti.active
       ((s1.retireTask fun k => k.ty = 8 && k.arg0 = b.bseq).showSpace.showStripe))) ∧
  (∀ (bseq : BitVec 40) (row : BitVec 16) (s : State) (b : Band), (s.band bseq.toNat = some b) →
     ((s.bit VLT_STATUS_READY || s.glb.st = .drain) ∧ (row.toNat + 1) * s.img.rowSlots b ≤ b.next ∧
       row.toNat < s.img.bandRows ∧ !s.rowBusy b row.toNat) →
     exec (.parity bseq row) s =
       .next (let r := row.toNat
       let u := s.underBeat (s.issueBeat fun k => k.ty = 10 && k.arg0 = b.bseq && k.arg1 = r)
       ((((u.writeParity b r).flushReissue.tagAll true).restoreImage s.sti.active).retireTask fun k => k.ty =
         10 && k.arg0 = b.bseq && k.arg1 = r))) ∧
  (∀ (n : BitVec 16) (s : State), s.vlt.ckpt = none → exec (.mapCkpt n) s = .next s) ∧
  (∀ (n : BitVec 16) (s : State), s.vlt.ckpt ≠ none → ∃ t, exec (.mapCkpt n) s = .next t ∧ t.cch = s.cch ∧ t.glb = s.glb ∧
     t.pq = s.pq ∧ t.cfl = s.cfl ∧ t.stw = s.stw ∧ t.mtx = s.mtx) ∧
  (∀ (n : BitVec 16) (s : State) (k : Ckpt),
     let u := ((State.ckptPieces (n.toNat + 1) (s.underBeat (s.issueBeat fun k => k.ty =
       9))).tagAll true).restoreImage s.sti.active
     s.vlt.ckpt.isSome → u.vlt.ckpt = some k → k.done = true → exec (.mapCkpt n) s = .next (u.retireTask fun t => t.ty = 9)) ∧
  (∀ (g : BitVec 40) (s : State) (r : Rehearsal), s.ldg.rehRun = some r ∧
     s.classOf g.toNat = (if r.cls = 3 then 4 else r.cls) ∧ (s.entry g.toNat).dirty = true →
     exec (.health g) s = .next (s.enqueue 3 7 3 1 g.toNat 0 false) ∧
     (s.enqueue 3 7 3 1 g.toNat 0 false).pq = s.pq ∧ (s.enqueue 3 7 3 1 g.toNat 0 false).cch = s.cch ∧
       (s.enqueue 3 7 3 1 g.toNat 0 false).vlt = s.vlt) ∧
  (∀ (g : BitVec 40) (s : State), (s.ldg.rehRun = none ∨ (s.entry g.toNat).dirty = false) → exec (.health g) s = .next s)

/-- FLASH_MODULE_RELEASE in SERVE with all four modules counted and no release pending sets PENDING and starts the count of white
beats; else MOD is written, and outside SERVE the refusal is recorded. FLASH_MODULE_CANCEL before step 2 clears PENDING; else
only MOD is written. FLASH_RELEASE_RESTRIPE acts only on a pending release after 100 beats. FLASH_MODULE_RELEASED of a module
past step 2 that no band in use names takes it out of the count, with event 0x0704; else nothing. FLASH_MODULE_ABSENT of a
module that reads present, or that is not counted and known as failed or released, changes nothing; a counted one that reads
absent leaves the count as failed with event 0x0703. FLASH_MODULE_ADD outside its conditions writes only MOD, outside SERVE
the refusal is recorded; of a module that does not fit, it records 0x0703. VAULT_FORMAT outside RESTORE, without GO, with
another key, or of a vault that is not blank changes nothing. -/
def Obligations.FlashModulesLeaveAndReturn : Prop :=
  (∀ (mod : BitVec 2) (s : State), s.glb.st = .serve ∧ s.get VLT_MODS_COUNTED = 15 ∧ s.get VLT_MODS_PENDING = 0 →
     exec (.flashModuleRelease mod) s =
       .next ({ (s.set VLT_MODCMD_MOD mod.toNat).set VLT_MODS_PENDING (2 ^ mod.toNat) with ldg := { s.ldg with flashRun := 0 } })) ∧
  (∀ (mod : BitVec 2) (s : State), ¬(s.glb.st = .serve ∧ s.get VLT_MODS_COUNTED = 15 ∧ s.get VLT_MODS_PENDING = 0) →
     exec (.flashModuleRelease mod) s = .next (if s.glb.st =
       .serve then s.set VLT_MODCMD_MOD mod.toNat else (s.set VLT_MODCMD_MOD mod.toNat).logRefusal 7)) ∧
  (∀ (mod : BitVec 2) (s : State), bitOf (s.get VLT_MODS_PENDING) mod.toNat = true ∧
     bitOf (s.get VLT_MODS_COUNTED) mod.toNat = true ∧ bitOf s.vlt.released2 mod.toNat = false →
     exec (.flashModuleCancel mod) s =
       .next ((s.set VLT_MODCMD_MOD mod.toNat).set VLT_MODS_PENDING (clrBit (s.get VLT_MODS_PENDING) mod.toNat))) ∧
  (∀ (mod : BitVec 2) (s : State), ¬(bitOf (s.get VLT_MODS_PENDING) mod.toNat = true ∧
     bitOf (s.get VLT_MODS_COUNTED) mod.toNat = true ∧ bitOf s.vlt.released2 mod.toNat = false) →
     exec (.flashModuleCancel mod) s = .next (s.set VLT_MODCMD_MOD mod.toNat)) ∧
  (∀ s : State, s.get VLT_MODS_PENDING &&& s.get VLT_MODS_COUNTED ≠ 0 ∧ s.vlt.released2 = 0 ∧ 100 ≤ s.ldg.flashRun →
     ∃ t, exec .flashReleaseRestripe s = .next t ∧ t.vlt.released2 = s.get VLT_MODS_PENDING &&& s.get VLT_MODS_COUNTED ∧
     (s.openBandOf ≠ none → t.vlt.openB = none) ∧
       t = { s with regs := t.regs, irq := t.irq, evr := t.evr, mbx := t.mbx, dsp := t.dsp, vlt := t.vlt, out := t.out }) ∧
  (∀ (s : State), ((s.get VLT_MODS_PENDING &&& s.get VLT_MODS_COUNTED) ≠ 0 ∧ s.vlt.released2 = 0 ∧ 100 ≤ s.ldg.flashRun) →
     exec .flashReleaseRestripe s =
       .next (let m := s.get VLT_MODS_PENDING &&& s.get VLT_MODS_COUNTED
       (((s.closeBand.updVlt fun v => { v with released2 := m }).tagAll true).showStripe))) ∧
  (∀ (mod : BitVec 2) (s : State), (bitOf s.vlt.released2 mod.toNat ∧
     s.vlt.bands.all (fun b => !bitOf b.mods mod.toNat || s.bandFree b.blk)) →
     exec (.flashModuleReleased mod) s =
       .next (let m := mod.toNat
       let s1 := ((s.set VLT_MODS_COUNTED (clrBit (s.get VLT_MODS_COUNTED) m)).set VLT_MODS_RELEASED
         (setBit (s.get VLT_MODS_RELEASED) m)).set VLT_MODS_PENDING (clrBit (s.get VLT_MODS_PENDING) m)
       let s2 := s1.groupDown (s.groupRails (s.img.modGroup m))
       let s3 := (s2.updVlt fun v => { v with released2 := 0 }).updLdg fun l => { l with flashCount := s1.flashMods }
       ((s3.event 0x0704 (srcModule m)).showStripe))) ∧
  (∀ s : State, ¬(s.get VLT_MODS_PENDING &&& s.get VLT_MODS_COUNTED ≠ 0 ∧ s.vlt.released2 = 0 ∧ 100 ≤ s.ldg.flashRun) →
     exec .flashReleaseRestripe s = .next s) ∧
  (∀ (mod : BitVec 2) (s : State), bitOf s.vlt.released2 mod.toNat = true ∧ ∀ b ∈ s.vlt.bands, bitOf b.mods mod.toNat = true →
     s.bandFree b.blk = true → ∃ t, exec (.flashModuleReleased mod) s = .next t ∧ t.vlt = { s.vlt with released2 := 0 } ∧
     t.glb = s.glb ∧ t.pq = s.pq ∧ t.cch = s.cch ∧ t.cfl = s.cfl ∧ t.mtx = s.mtx) ∧
  (∀ (mod : BitVec 2) (s : State), ¬(bitOf s.vlt.released2 mod.toNat = true ∧
     ∀ b ∈ s.vlt.bands, bitOf b.mods mod.toNat = true → s.bandFree b.blk = true) →
     exec (.flashModuleReleased mod) s = .next s) ∧
  (∀ (mod : BitVec 2) (s : State), (bitOf (s.get VLT_MODS_PRESENT) mod.toNat = true ∨
       s.modUp mod.toNat = false ∧ (bitOf (s.get VLT_MODS_FAILED) mod.toNat = true ∨
         bitOf (s.get VLT_MODS_RELEASED) mod.toNat = true) →
       exec (.flashModuleAbsent mod) s = .next s) ∧
     (bitOf (s.get VLT_MODS_PRESENT) mod.toNat = false → s.modUp mod.toNat = true →
       ∃ t, exec (.flashModuleAbsent mod) s = .next t ∧ t.glb = s.glb ∧ t.pq = s.pq ∧ t.cfl = s.cfl ∧ t.mtx = s.mtx ∧
         (s.openBandOf ≠ none → t.vlt.openB = none) ∧
         (Store.wf 0 s.regs = true → bitOf (t.get VLT_MODS_COUNTED) mod.toNat = false ∧
           bitOf (t.get VLT_MODS_FAILED) mod.toNat = true))) ∧
  (∀ (mod : BitVec 2) (s : State), bitOf (s.get VLT_MODS_PRESENT) mod.toNat = false →
     exec (.flashModuleAbsent mod) s = .next (s.moduleAbsent mod.toNat)) ∧
  (∀ (mod : BitVec 2) (pages : List ParamPage) (marks : List BadMark) (s : State), ¬(s.glb.st = .serve ∧
     bitOf (s.get VLT_MODS_PRESENT) mod.toNat = true ∧ bitOf (s.get VLT_MODS_COUNTED) mod.toNat = false) →
     exec (.flashModuleAdd mod pages marks) s =
       .next (if s.glb.st = .serve then s.set VLT_MODCMD_MOD mod.toNat else (s.set VLT_MODCMD_MOD mod.toNat).logRefusal 7)) ∧
  (∀ (mod : BitVec 2) (pages : List ParamPage) (marks : List BadMark) (s : State), (¬ (s.glb.st ≠ .serve)) →
     (bitOf (s.get VLT_MODS_PRESENT) mod.toNat ∧ !bitOf (s.get VLT_MODS_COUNTED) mod.toNat) →
     (!s.modFits pages mod.toNat) →
     exec (.flashModuleAdd mod pages marks) s =
       .next (let m := mod.toNat
       let s00 := s.set VLT_MODCMD_MOD m
       let s0 := if s.groupIsOff (s.img.modGroup m) then s00.groupUp (s.img.modGroup m) else s00
       (s0.event 0x0703 (srcModule m)))) ∧
  (∀ (mod : BitVec 2) (pages : List ParamPage) (marks : List BadMark) (s : State), s.glb.st = .serve ∧
     bitOf (s.get VLT_MODS_PRESENT) mod.toNat = true ∧ bitOf (s.get VLT_MODS_COUNTED) mod.toNat = false →
     s.modFits pages mod.toNat = true →
     ∃ t, exec (.flashModuleAdd mod pages marks) s = .next t ∧ t.glb = s.glb ∧ t.pq = s.pq ∧ t.cch = s.cch ∧ t.mtx = s.mtx) ∧
  (∀ (mod : BitVec 2) (pages : List ParamPage) (marks : List BadMark) (s : State), (¬ (s.glb.st ≠ .serve)) →
     (bitOf (s.get VLT_MODS_PRESENT) mod.toNat ∧ !bitOf (s.get VLT_MODS_COUNTED) mod.toNat) →
     (¬ (!s.modFits pages mod.toNat)) →
     (¬ ((decide (16376 < (((if s.groupIsOff (s.img.modGroup mod.toNat) then (s.set VLT_MODCMD_MOD mod.toNat).groupUp (s.img.modGroup mod.toNat) else (s.set VLT_MODCMD_MOD mod.toNat)).vlt.badBlocks ++ (marks.map fun x => eblockKey (8 * mod.toNat + x.channel.toNat) x.target.toNat x.plane.toNat x.blk.toNat)).eraseDups).length) || decide (s.get VLT_FULL_BADMAX < ((((if s.groupIsOff (s.img.modGroup mod.toNat) then (s.set VLT_MODCMD_MOD mod.toNat).groupUp (s.img.modGroup mod.toNat) else (s.set VLT_MODCMD_MOD mod.toNat)).vlt.badBlocks ++ (marks.map fun x => eblockKey (8 * mod.toNat + x.channel.toNat) x.target.toNat x.plane.toNat x.blk.toNat)).eraseDups).filter fun k => keyChannel k / 8 = mod.toNat).length)))) →
     exec (.flashModuleAdd mod pages marks) s =
       .next (let m := mod.toNat
       let s00 := s.set VLT_MODCMD_MOD m
       let s0 := if s.groupIsOff (s.img.modGroup m) then s00.groupUp (s.img.modGroup m) else s00
       let found := marks.map fun x => eblockKey (8 * m + x.channel.toNat) x.target.toNat x.plane.toNat x.blk.toNat
       let all := (s0.vlt.badBlocks ++ found).eraseDups
       let s1 := s0.updVlt fun v => { (v.eraseWhere fun eb => keyChannel eb / 8 = m) with
         badBlocks := all.take 16376, ring := Store.put 0 v.ring m 0, released2 := clrBit v.released2 m }
       let s2 := if s1.vlt.badBlocks = s0.vlt.badBlocks then s1 else s1.flashWrite (.cell 5 (badPayload s1.vlt.badBlocks))
       let s3 := ((s2.set VLT_MODS_COUNTED (setBit (s.get VLT_MODS_COUNTED) m)).set VLT_MODS_FAILED
         (clrBit (s.get VLT_MODS_FAILED) m)).set VLT_MODS_RELEASED (clrBit (s.get VLT_MODS_RELEASED) m)
       (((s3.closeBand.tagAll true).event 0x0705 (srcModule m)).showStripe))) ∧
  (∀ (mod : BitVec 2) (pages : List ParamPage) (marks : List BadMark) (s : State), (¬ (s.glb.st ≠ .serve)) →
     (bitOf (s.get VLT_MODS_PRESENT) mod.toNat ∧ !bitOf (s.get VLT_MODS_COUNTED) mod.toNat) →
     (¬ (!s.modFits pages mod.toNat)) →
     ((decide (16376 < (((if s.groupIsOff (s.img.modGroup mod.toNat) then (s.set VLT_MODCMD_MOD mod.toNat).groupUp (s.img.modGroup mod.toNat) else (s.set VLT_MODCMD_MOD mod.toNat)).vlt.badBlocks ++ (marks.map fun x => eblockKey (8 * mod.toNat + x.channel.toNat) x.target.toNat x.plane.toNat x.blk.toNat)).eraseDups).length) || decide (s.get VLT_FULL_BADMAX < ((((if s.groupIsOff (s.img.modGroup mod.toNat) then (s.set VLT_MODCMD_MOD mod.toNat).groupUp (s.img.modGroup mod.toNat) else (s.set VLT_MODCMD_MOD mod.toNat)).vlt.badBlocks ++ (marks.map fun x => eblockKey (8 * mod.toNat + x.channel.toNat) x.target.toNat x.plane.toNat x.blk.toNat)).eraseDups).filter fun k => keyChannel k / 8 = mod.toNat).length))) →
     exec (.flashModuleAdd mod pages marks) s =
       .next (let m := mod.toNat
       let s00 := s.set VLT_MODCMD_MOD m
       let s0 := if s.groupIsOff (s.img.modGroup m) then s00.groupUp (s.img.modGroup m) else s00
       let found := marks.map fun x => eblockKey (8 * m + x.channel.toNat) x.target.toNat x.plane.toNat x.blk.toNat
       let all := (s0.vlt.badBlocks ++ found).eraseDups
       let s1 := s0.updVlt fun v => { (v.eraseWhere fun eb => keyChannel eb / 8 = m) with
         badBlocks := all.take 16376, ring := Store.put 0 v.ring m 0, released2 := clrBit v.released2 m }
       let s2 := if s1.vlt.badBlocks = s0.vlt.badBlocks then s1 else s1.flashWrite (.cell 5 (badPayload s1.vlt.badBlocks))
       (s2.moduleFailed m))) ∧
  (∀ (key : BitVec 16) (go : Bool) (s : State), ¬(go = true ∧ key.toNat = 0x5646 ∧ s.glb.st = .restore ∧
     s.bit VLT_STATUS_BLANK = true) → exec (.vaultFormat key go) s = .next s) ∧
  (∀ (key : BitVec 16) (go : Bool) (s : State), go = true ∧ key.toNat = 0x5646 ∧ s.glb.st = .restore ∧
     s.bit VLT_STATUS_BLANK = true → Store.wf 0 s.regs = true → ∃ t, exec (.vaultFormat key go) s = .next t ∧
     t.rst = { s.rst with empty := true } ∧
     t.vlt.bands = [] ∧ t.vlt.tree = [] ∧ t.vlt.badBlocks = s.vlt.badBlocks ∧ t.get VLT_STATUS_BLANK = 0 ∧
       t.get VLT_RST_STATUS_RESULT = 5 ∧ t.glb = s.glb ∧ t.pq = { s.pq with pend := ⟨[], []⟩ }) ∧
  (∀ (key : BitVec 16) (go : Bool) (s : State), go = true ∧ key = 0x5646 ∧ s.glb.st = .restore ∧
     s.bit VLT_STATUS_BLANK = true →
     exec (.vaultFormat key go) s =
       .next (let a := ((s.updVlt Vlt.blank).updRst fun r => { r with empty := true }).updPq fun q => { q with pend := ⟨[], []⟩ }
       let b := (((a.setB PQ_STATUS_HZ_FROZEN false).dgeRequest .crown).seal ⟨0,
         1, 0, 0, s.drn.lastM, 0, 0, s.crownStamps⟩).writePair false
       (((b.setB VLT_STATUS_BLANK false).set VLT_RST_STATUS_RESULT 5).event 0x070E 0).recorderCopy))

/-- CROWN_SEARCH outside RESTORE, after a search, in a warm restore or with cold ranks changes nothing; with no warm resume
refused, no chunk of the flash written and three modules or more that fit by their parameter pages it counts them, is done,
and shows the vault BLANK; with fewer it shows RESULT 6 and records event 0x0712. FLASH_MODULE_INSERTED changes nothing unless
RESTORE waits for modules and the module is present and not counted. VAULT_EMPTY with EMPTY, the key and RESULT 3 forgets
root, tree and notes, zeroes both local horizons and shows RESULT 4; else it changes nothing. MAP_LOAD and NOTES_APPLY out of
their order change nothing; in an empty vault the map is empty and every data granule is unrestored. -/
def Obligations.RestoreFindsItsCrownOrStops : Prop :=
  (∀ (pages : List ParamPage) (ch : BitVec 32) (s : State), ¬(s.glb.st = .restore ∧ s.rst.scanned = false ∧
     s.rst.warm = false ∧ s.rst.coldRanks = false) → exec (.crownSearch pages ch) s = .next s) ∧
  (∀ (pages : List ParamPage) (ch : BitVec 32) (s : State) (m : Nat), s.glb.st = .restore ∧ s.rst.scanned = false ∧
     s.rst.warm = false ∧ s.rst.coldRanks = false → s.bit VLT_RST_STATUS_WARM_REFUSED = false → s.vlt.nand = [] →
     Store.wf 0 s.regs = true →
     m = ((List.range 4).filter (s.modFits pages)).foldl setBit 0 → 3 ≤ ones 4 (s.get VLT_MODS_PRESENT &&& m) →
     ∃ t, exec (.crownSearch pages ch) s = .next t ∧ t.get VLT_STATUS_BLANK = 1 ∧
       t.get VLT_MODS_COUNTED = s.get VLT_MODS_PRESENT &&& m ∧ t.get VLT_RST_STATUS_RESULT = 0 ∧ t.rst.scanned = true ∧
         t.vlt.bands = [] ∧
       t.pq = s.pq ∧ t.glb = s.glb ∧ t.cfl = s.cfl ∧ t.mtx = s.mtx) ∧
  (∀ (pages : List ParamPage) (ch : BitVec 32) (s : State) (m : Nat), s.glb.st = .restore ∧ s.rst.scanned = false ∧
     s.rst.warm = false ∧ s.rst.coldRanks = false → s.bit VLT_RST_STATUS_WARM_REFUSED = false → s.vlt.nand = [] →
     Store.wf 0 s.regs = true →
     m = ((List.range 4).filter (s.modFits pages)).foldl setBit 0 → ones 4 (s.get VLT_MODS_PRESENT &&& m) < 3 →
       ∃ t, exec (.crownSearch pages ch) s = .next t ∧ t.get VLT_RST_STATUS_RESULT = 6 ∧
       t.rst = { s.rst with fits := m, spd := ch.toNat } ∧ t.pq = s.pq ∧ t.glb = s.glb ∧ t.cfl = s.cfl ∧ t.mtx = s.mtx) ∧
  (∀ (pages : List ParamPage) (changed : BitVec 32) (s : State), (s.glb.st = .restore ∧ !s.rst.scanned ∧ !s.rst.warm ∧
     !s.rst.coldRanks) →
     exec (.crownSearch pages changed) s =
       .next (let s0 := (s.set VLT_RST_STATUS_KIND 1).updRst fun r => { r with spd := changed.toNat }
       (if s.bit VLT_RST_STATUS_WARM_REFUSED then s0.crownSearch else s0.countAndSearch pages).newDimms)) ∧
  (∀ (mod : BitVec 2) (pages : List ParamPage) (s : State), ¬(s.glb.st = .restore ∧ s.get VLT_RST_STATUS_RESULT = 6 ∧
     bitOf (s.get VLT_MODS_PRESENT) mod.toNat = true ∧ bitOf (s.get VLT_MODS_COUNTED) mod.toNat = false) →
     exec (.flashModuleInserted mod pages) s = .next s) ∧
  (∀ (mod : BitVec 2) (pages : List ParamPage) (s : State), s.glb.st = .restore ∧ s.get VLT_RST_STATUS_RESULT = 6 ∧
     bitOf (s.get VLT_MODS_PRESENT) mod.toNat = true ∧ bitOf (s.get VLT_MODS_COUNTED) mod.toNat = false →
     ∃ t, exec (.flashModuleInserted mod pages) s = .next t ∧ t.glb = s.glb ∧ t.cfl = s.cfl ∧ t.mtx = s.mtx ∧ t.stw = s.stw) ∧
  (∀ (mod : BitVec 2) (pages : List ParamPage) (s : State), (s.glb.st = .restore ∧ s.get VLT_RST_STATUS_RESULT = 6 ∧
     bitOf (s.get VLT_MODS_PRESENT) mod.toNat ∧ !bitOf (s.get VLT_MODS_COUNTED) mod.toNat) →
     (!s.modFits pages mod.toNat) →
     exec (.flashModuleInserted mod pages) s =
       .next ((s.event 0x0703 (srcModule mod.toNat)))) ∧
  (∀ (mod : BitVec 2) (pages : List ParamPage) (s : State), (s.glb.st = .restore ∧ s.get VLT_RST_STATUS_RESULT = 6 ∧
     bitOf (s.get VLT_MODS_PRESENT) mod.toNat ∧ !bitOf (s.get VLT_MODS_COUNTED) mod.toNat) →
     (¬ (!s.modFits pages mod.toNat)) →
     (ones 4 ((s.countMods (setBit s.rst.fits mod.toNat)).get VLT_MODS_COUNTED) < 3) →
     exec (.flashModuleInserted mod pages) s =
       .next (let t := s.countMods (setBit s.rst.fits mod.toNat)
       t)) ∧
  (∀ (mod : BitVec 2) (pages : List ParamPage) (s : State), (s.glb.st = .restore ∧ s.get VLT_RST_STATUS_RESULT = 6 ∧
     bitOf (s.get VLT_MODS_PRESENT) mod.toNat ∧ !bitOf (s.get VLT_MODS_COUNTED) mod.toNat) →
     (¬ (!s.modFits pages mod.toNat)) →
     (¬ (ones 4 ((s.countMods (setBit s.rst.fits mod.toNat)).get VLT_MODS_COUNTED) < 3)) →
     exec (.flashModuleInserted mod pages) s =
       .next (let t := s.countMods (setBit s.rst.fits mod.toNat)
       (t.set VLT_RST_STATUS_RESULT 0).crownSearch.newDimms)) ∧
  (∀ (key : BitVec 16) (e : Bool) (s : State), ¬(e = true ∧ key.toNat = 0x4554 ∧ s.get VLT_RST_STATUS_RESULT = 3) →
     exec (.vaultEmpty key e) s = .next s) ∧
  (∀ (key : BitVec 16) (e : Bool) (s : State), e = true ∧ key.toNat = 0x4554 ∧ s.get VLT_RST_STATUS_RESULT = 3 →
     Store.wf 0 s.regs = true → ∃ t, exec (.vaultEmpty key e) s = .next t ∧
     t.rst = { s.rst with empty := true, crown := [] } ∧ t.vlt.root = noVloc ∧ t.vlt.tree = [] ∧
       t.get VLT_RST_STATUS_RESULT = 4 ∧
     t.pq.lastStamp = ⟨0, 0⟩ ∧ t.lhz .pa = 0 ∧ t.lhz .pb = 0 ∧ t.glb = s.glb) ∧
  (∀ (key : BitVec 16) (empty : Bool) (s : State), (empty ∧ key = 0x4554 ∧ s.get VLT_RST_STATUS_RESULT = 3) →
     exec (.vaultEmpty key empty) s =
       .next (let s1 := s.updVlt fun v => { v with
         root := noVloc, tree := [],
           dirs := [], crowns := [],
           newBlocks := [], notes := [],
           tagDone := [], tagPlain := [],
           openB := none, bands := [],
           inflight := [], reissueQ := [], startB := v.maxB + 1, startI := 0, cutB := v.maxB + 1, cutI := 0 }
       let s3 := (s1.loadHorizons []).updDrn fun d => { d with lastM := s.drn.lastM }
       let s4 := (s3.seal ⟨0, s.vlt.maxEpoch + 1, 0, 0, s.drn.lastM, 0, 0, [0, 0, 0, 0, 0, 0]⟩).writePair false
       (((s4.updRst fun r => { r with empty := true, crown := [] }).set VLT_RST_STATUS_RESULT 4).event 0x0718 0))) ∧
  (∀ s : State, ¬(s.glb.st = .restore ∧ s.rst.warm = false ∧ s.rst.scanned = true ∧ s.restorable = true ∧
     s.rst.mapped = false) → exec .mapLoad s = .next s) ∧
  (∀ s : State, s.glb.st = .restore ∧ s.rst.warm = false ∧ s.rst.scanned = true ∧ s.restorable = true ∧ s.rst.mapped = false →
     s.rst.empty = true → Store.wf 0 s.regs = true → ∃ t, exec .mapLoad s = .next t ∧
     t.cch = { s.cch with map := [], unrest := (if s.dataGranules = 0 then [] else [(0, s.dataGranules)]), lines := [] } ∧
     t.rst = { s.rst with mapped := true, total := s.dataGranules, overlay := [], fetching := [], refetch := [] } ∧
       t.vlt = { s.vlt with dirtyPieces := [] } ∧
     (∀ n, n < 5 → t.get (CCH_DIRTY_GRANULES n) = 0) ∧ t.get VLT_RST_STATUS_PCT = 0 ∧ t.glb = s.glb ∧ t.pq = s.pq ∧
       t.cfl = s.cfl ∧ t.mtx = s.mtx) ∧
  (∀ s : State, s.glb.st = .restore ∧ s.rst.warm = false ∧ s.rst.scanned = true ∧ s.restorable = true ∧ s.rst.mapped = false →
     ∃ t, exec .mapLoad s = .next t ∧ t.rst.mapped = true ∧ t.glb = s.glb ∧ t.pq = s.pq ∧ t.cfl = s.cfl ∧ t.mtx = s.mtx) ∧
  (∀ (s : State), (s.glb.st = .restore ∧ !s.rst.warm ∧ s.rst.scanned ∧ s.restorable ∧ !s.rst.mapped) →
     exec .mapLoad s =
       .next (let m := if s.rst.empty then ([], []) else s.replay s.rst.crown
       let n := s.dataGranules
       let s1 := (List.range 5).foldl (fun t c => t.set (CCH_DIRTY_GRANULES c) 0) s
       let s2 := (s1.updCch fun c => { c with map := m.1, unrest := if n = 0 then [] else [(0, n)], lines := [] }).updRst fun r =>
         { r with mapped := true, total := n, overlay := [], fetching := [], refetch := [] }
       let s3 := s2.updVlt fun v => { v with dirtyPieces := (m.2.map (· / 512)).eraseDups }
       (((m.1.map Prod.fst).foldl State.checkEntry s3).set VLT_RST_STATUS_PCT 0))) ∧
  (∀ s : State, ¬(s.glb.st = .restore ∧ s.rst.mapped = true ∧ s.rst.noted = false) → exec .notesApply s = .next s) ∧
  (∀ s : State, s.glb.st = .restore → s.rst.mapped = true → s.rst.noted = false →
     (s.rst.empty = true → exec .notesApply s = .next { s with rst := { s.rst with noted := true, ranges := [] } }) ∧
     ∃ t, exec .notesApply s = .next t ∧ t.rst.noted = true ∧ t.glb = s.glb ∧ t.pq = s.pq ∧ t.cfl = s.cfl ∧ t.mtx = s.mtx)

/-- PORTS_OPEN at a boundary of RESTORE, bound for no other state, cold, with the crown search, the map and the notes done, a
restorable result and a sound population enters SERVE with LAZY, and adopts where the crown says so; else it changes nothing.
DEMAND_FETCH of a granule wanted and not being fetched, while serving, marks it, adds it to the fetches in flight and counts
it; else nothing. FETCH_COMPLETE of a fetch in flight takes it out of them, and the granule is restored; else nothing.
RESTORE_ROW outside the lazy restore changes nothing. LAZY_RESTORE_END at a boundary with no granule unrestored clears LAZY,
shows 100 percent with event 0x0714 and ends the row tasks with status 0; else nothing. A write of VLT_RST_RIDX shows the
range at the index, or zeros and VALID 0. -/
def Obligations.PortsOpenAndTheRestoreEnds : Prop :=
  (∀ s : State, ¬(s.glb.cycle = 0 ∧ s.glb.st = .restore ∧ s.drn.toSealed = false ∧ s.rst.warm = false ∧ s.rst.scanned = true ∧
     s.rst.mapped = true ∧ s.rst.noted = true ∧ s.restorable = true ∧ s.bit CCH_STATUS_POP_OK = true) →
     exec .portsOpen s = .next s) ∧
  (∀ s : State, s.glb.cycle = 0 ∧ s.glb.st = .restore ∧ s.drn.toSealed = false ∧ s.rst.warm = false ∧ s.rst.scanned = true ∧
     s.rst.mapped = true ∧ s.rst.noted = true ∧ s.restorable = true ∧ s.bit CCH_STATUS_POP_OK = true →
     bitOf (crFlags s.rst.crown) 4 = false → ∃ t, exec .portsOpen s = .next t ∧
     t.glb = { s.glb with st := .serve, lazyRestore := true, free := t.glb.free } ∧ t.pq = s.pq ∧ t.cch = s.cch ∧
       t.rst = s.rst ∧ t.mtx = s.mtx ∧ t.cfl = s.cfl ∧
     t.vlt.maxEpoch = s.vlt.maxEpoch + 1 ∧ t.vlt.sinceCut = 0) ∧
  (∀ s : State, s.glb.cycle = 0 ∧ s.glb.st = .restore ∧ s.drn.toSealed = false ∧ s.rst.warm = false ∧ s.rst.scanned = true ∧
     s.rst.mapped = true ∧ s.rst.noted = true ∧ s.restorable = true ∧ s.bit CCH_STATUS_POP_OK = true →
     bitOf (crFlags s.rst.crown) 4 = true → ∃ t, exec .portsOpen s = .next t ∧
     t.glb.st = .serve ∧ t.glb.lazyRestore = true ∧ t.glb.beat = s.glb.beat ∧ t.cfl.bytes = s.cfl.bytes ∧
       t.vlt.maxEpoch = s.vlt.maxEpoch + 1) ∧
  (∀ (g : BitVec 40) (s : State), s.serving = true ∧ ((s.entry g.toNat).fetch = true ∨ s.unrest g.toNat = true) ∧
     s.inFetch g.toNat = false → exec (.demandFetch g) s =
     .next ({ s.setEntry g.toNat { s.entry g.toNat with fetch := true } with rst := { s.rst with fetching := Store.put 0 s.rst.fetching g.toNat ((s.entry g.toNat).vloc + 1) } }.count VLT_RST_FETCH_FETCHES 1)) ∧
  (∀ (g : BitVec 40) (s : State), ¬(s.serving = true ∧ ((s.entry g.toNat).fetch = true ∨ s.unrest g.toNat = true) ∧
     s.inFetch g.toNat = false) → exec (.demandFetch g) s = .next s) ∧
  (∀ (g : BitVec 40) (s : State), ¬(s.inFetch g.toNat = true ∧ s.serving = true) → exec (.fetchComplete g) s = .next s) ∧
  (∀ (g : BitVec 40) (s : State), s.inFetch g.toNat = true ∧ s.serving = true → ∃ t, exec (.fetchComplete g) s = .next t ∧
     t.unrest g.toNat = false ∧
     t.rst.fetching = Store.put 0 s.rst.fetching g.toNat 0 ∧ t.glb = s.glb ∧ t.pq = s.pq ∧ t.cfl = s.cfl ∧ t.mtx = s.mtx ∧
       t.vlt = s.vlt) ∧
  (∀ (s : State), (s.atBoundary ∧ s.glb.st = .restore ∧ !s.drn.toSealed ∧ !s.rst.warm ∧ s.rst.scanned ∧ s.rst.mapped ∧
     s.rst.noted ∧ s.restorable ∧ s.bit CCH_STATUS_POP_OK) →
     bitOf (crFlags s.rst.crown) 4 →
     exec .portsOpen s =
       .next (let e := s.vlt.maxEpoch + 1
       let s1 := (s.set64 VLT_EPOCH_LO_EPOCH VLT_EPOCH_HI_EPOCH e).setB VLT_STATUS_READY true
       let s2 := match s1.freeBands with
         | blk :: _ => s1.openBand blk
         | [] => s1
       let p := s2.logPlace
       let s3 := (s2.updVlt fun v => { v with
         startB := p.1, startI := p.2,
           cutBeat := s.glb.beat, sinceCut := 0, maxEpoch := e, tagDone := [], tagPlain := [] }).showSpace
       let s4 := (s3.updGlb fun g => { g with st := .serve, lazyRestore := true }).restoreTasks
       let s5 := s4.rollDrop.keptBack.event 0x0713 0
       (s5.adoptMirror s5.drn.lastM).closeAgain)) ∧
  (∀ (s : State), (s.atBoundary ∧ s.glb.st = .restore ∧ !s.drn.toSealed ∧ !s.rst.warm ∧ s.rst.scanned ∧ s.rst.mapped ∧
     s.rst.noted ∧ s.restorable ∧ s.bit CCH_STATUS_POP_OK) →
     (¬ (bitOf (crFlags s.rst.crown) 4)) →
     exec .portsOpen s =
       .next (let e := s.vlt.maxEpoch + 1
       let s1 := (s.set64 VLT_EPOCH_LO_EPOCH VLT_EPOCH_HI_EPOCH e).setB VLT_STATUS_READY true
       let s2 := match s1.freeBands with
         | blk :: _ => s1.openBand blk
         | [] => s1
       let p := s2.logPlace
       let s3 := (s2.updVlt fun v => { v with
         startB := p.1, startI := p.2,
           cutBeat := s.glb.beat, sinceCut := 0, maxEpoch := e, tagDone := [], tagPlain := [] }).showSpace
       let s4 := (s3.updGlb fun g => { g with st := .serve, lazyRestore := true }).restoreTasks
       let s5 := s4.rollDrop.keptBack.event 0x0713 0
       s5.closeAgain)) ∧
  (∀ (g : BitVec 40) (s : State), (s.inFetch g.toNat ∧ s.serving) →
     exec (.fetchComplete g) s =
       .next ((((s.dramMove 4096).fetchDone g.toNat).retireTask fun k => k.ty = 6 && k.arg0 = g.toNat))) ∧
  (∀ (first : BitVec 40) (count : BitVec 32) (s : State), (s.glb.lazyRestore ∧ s.serving) →
     exec (.restoreRow first count) s =
       .next (let u := s.underBeat (s.issueBeat fun k => k.ty = 5)
       let s1 := (((List.range count.toNat).map (· + first.toNat)).foldl State.restoreStep u).restoreImage s.sti.active
       (s1.retireTask fun k => k.ty = 5 && (List.range k.count).all fun i => !s1.unrest (k.arg0 + i)))) ∧
  (∀ (f : BitVec 40) (n : BitVec 32) (s : State), (s.glb.lazyRestore = false ∨ s.serving = false) →
     exec (.restoreRow f n) s = .next s) ∧
  (∀ (f : BitVec 40) (n : BitVec 32) (s : State), s.glb.lazyRestore = true → s.serving = true →
     ∃ t, exec (.restoreRow f n) s = .next t ∧
     t.glb = s.glb ∧ t.pq = s.pq ∧ t.cfl = s.cfl ∧ t.mtx = s.mtx ∧ t.vlt = s.vlt) ∧
  (∀ (s : State), s.glb.cycle = 0 ∧ s.glb.lazyRestore = true ∧ s.cch.unrest = [] →
     exec .lazyRestoreEnd s = .next ((((s.dsp.tasks.filter fun (k : Task) => k.ty =
       5).foldl (fun (t : State) (k : Task) => t.endTask k 0)
       { s with glb := { s.glb with lazyRestore := false } }).set VLT_RST_STATUS_PCT 100).event 0x0714 0)) ∧
  (∀ (s : State), ¬(s.glb.cycle = 0 ∧ s.glb.lazyRestore = true ∧ s.cch.unrest = []) → exec .lazyRestoreEnd s = .next s) ∧
  (∀ (i : BitVec 23) (s : State),
     (∀ r, i.toNat < s.get VLT_RST_NRANGE_COUNT → s.rst.ranges[i.toNat]? = some r → exec (.rangeIndexWrite i) s =
       .next ((((((s.set VLT_RST_RIDX_INDEX i.toNat).set64 VLT_RST_RFIRST_LO_GRANULE VLT_RST_RFIRST_HI_GRANULE r.first).set VLT_RST_RCOUNT_COUNT r.count).set
         VLT_RST_RINFO_CLASS r.cls).set VLT_RST_RINFO_KIND r.kind).setB VLT_RST_RINFO_VALID true)) ∧
     (s.get VLT_RST_NRANGE_COUNT ≤ i.toNat → exec (.rangeIndexWrite i) s =
       .next ((((((s.set VLT_RST_RIDX_INDEX i.toNat).set64 VLT_RST_RFIRST_LO_GRANULE VLT_RST_RFIRST_HI_GRANULE 0).set VLT_RST_RCOUNT_COUNT 0).set
         VLT_RST_RINFO_CLASS 0).set VLT_RST_RINFO_KIND 0).setB VLT_RST_RINFO_VALID false)))

/-- LINK_TRAINING_START of a link that is not in use, in RESTORE, SERVE or GRACE, enabled, not quarantined, with REFCLK, the three
mirror domains on and 1,000,000 beats after it last went down, starts equalisation; else nothing. LINK_EQUALISE_END after
500,000 beats enters attempt 0 with the trained lanes; before, nothing. ATTEMPT_TIMEOUT of an attempt below 6 after 10,000
beats enters the next; before, nothing. LINK_RETRAIN_COMMAND on an up link shows LSTATE 4, enters attempt 0 and sends RTRN
from this beat; on any other link it changes nothing. RTRN_SEND_END ends RTRN after 1,000 beats. LANE_ERROR_WINDOW_EXPIRY
begins a new window after 1,000,000 beats. INJECT_CRC_ERROR and INJECT_LANE_ERRORS arm the next flit and frame. The three
register commands only count an access error while domain 90 is off. -/
def Obligations.LinkTrainingAndRetrain : Prop :=
  (∀ s : State, s.get MLK_STATUS_LSTATE = 0 ∧ (s.glb.st = .restore ∨ s.glb.st = .serve ∨ s.glb.st = .grace) ∧
     s.bit MLK_CTRL_EN = true ∧
       s.bit MTX_STATUS_QUAR = false ∧ s.glb.beatSrc = false ∧ s.domOn 88 = true ∧ s.domOn 89 = true ∧ s.domOn 90 = true ∧
       (∀ b, s.mlk.downAt = some b → s.expired b 1000000 = true) →
     exec .linkTrainingStart s =
       .next { s.set MLK_STATUS_LSTATE 1 with mlk := { s.mlk with eqStart := s.glb.beat, trained := 0 } }) ∧
  (∀ s : State, ¬(s.get MLK_STATUS_LSTATE = 0 ∧ (s.glb.st = .restore ∨ s.glb.st = .serve ∨ s.glb.st = .grace) ∧
     s.bit MLK_CTRL_EN = true ∧
       s.bit MTX_STATUS_QUAR = false ∧ s.glb.beatSrc = false ∧ s.domOn 88 = true ∧ s.domOn 89 = true ∧ s.domOn 90 = true ∧
       (∀ b, s.mlk.downAt = some b → s.expired b 1000000 = true)) → exec .linkTrainingStart s = .next s) ∧
  (∀ (tr pol : BitVec 16) (s : State), s.get MLK_STATUS_LSTATE = 1 ∧ s.expired s.mlk.eqStart 500000 = true →
     Store.wf 0 s.regs = true → ∃ t, exec (.linkEqualiseEnd tr pol) s = .next t ∧ t.get MLK_STATUS_LSTATE = 2 ∧
     t.mlk.att = 0 ∧ t.mlk.attStart = s.glb.beat ∧ t.mlk.trained = tr.toNat ∧ (∀ n, n < 16 → t.get (MLK_LANE_LOCK n) = 0 ∧
       t.bit (MLK_LANE_POL n) = bitOf pol.toNat n) ∧
     t = { s with regs := t.regs, irq := t.irq, evr := t.evr, mbx := t.mbx, ctl := t.ctl, seq := t.seq, mlk := t.mlk, out := t.out }) ∧
  (∀ (trained : BitVec 16) (pol : BitVec 16) (s : State), (s.get MLK_STATUS_LSTATE = 1 ∧ s.expired s.mlk.eqStart 500000) →
     exec (.linkEqualiseEnd trained pol) s =
       .next (let s1 := (List.range 16).foldl (fun t n => t.setB (MLK_LANE_POL n) (bitOf pol.toNat n)) (s.set MLK_STATUS_LSTATE 2)
       ((s1.updMlk fun m => { m with
         trained := trained.toNat, rounds := 0, level := [], precode := (Config.precoding s.glb.beat).toNat }).enterAtt 0))) ∧
  (∀ (tr pol : BitVec 16) (s : State), ¬(s.get MLK_STATUS_LSTATE = 1 ∧ s.expired s.mlk.eqStart 500000 = true) →
     exec (.linkEqualiseEnd tr pol) s = .next s) ∧
  (∀ s : State, (s.get MLK_STATUS_LSTATE = 2 ∨ s.get MLK_STATUS_LSTATE = 4) ∧ s.expired s.mlk.attStart 10000 = true →
     s.mlk.att < 6 → ∃ t, exec .attemptTimeout s = .next t ∧ t.mlk.att = s.mlk.att + 1 ∧ t.mlk.attStart = s.glb.beat ∧
     t.mlk.lockBeat = none ∧ t.mtx = s.mtx ∧ t.pq = s.pq ∧ t.glb = s.glb ∧ t.sti = s.sti ∧ t.cfl = s.cfl ∧ t.dge = s.dge ∧
       t.stw = s.stw ∧ t.hp = s.hp ∧ t.cch = s.cch ∧ t.dsp = s.dsp ∧ t.ldg = s.ldg ∧ t.ctl = s.ctl ∧ t.seq = s.seq ∧
       t.drn = s.drn ∧ t.vlt = s.vlt ∧ t.rst = s.rst) ∧
  (∀ (s : State), ((s.get MLK_STATUS_LSTATE = 2 ∨ s.get MLK_STATUS_LSTATE = 4) ∧ s.expired s.mlk.attStart 10000) →
     (s.mlk.att < 6) →
     exec .attemptTimeout s =
       .next (let failed := (attLanes s.mlk.att).filter fun n => Store.get 0 s.mlk.lock n < 2 || bitOf s.mlk.attFail n
       let s1 := failed.foldl State.badLane s
       (s1.enterAtt (s.mlk.att + 1)))) ∧
  (∀ s : State, ¬((s.get MLK_STATUS_LSTATE = 2 ∨ s.get MLK_STATUS_LSTATE = 4) ∧ s.expired s.mlk.attStart 10000 = true) →
     exec .attemptTimeout s = .next s) ∧
  (∀ s : State, s.blockOff 0x70008 = false → s.linkUp = true → ∃ t, exec .linkRetrainCommand s = .next t ∧
     t.get MLK_STATUS_LSTATE = 4 ∧ t.mlk.att = 0 ∧
     t.mlk.rtrn = some s.glb.beat ∧ t.mlk.rounds = 0 ∧ t.mlk.buf = s.mlk.buf ∧ t.mlk.recovBeat = true ∧
       t = { s with regs := t.regs, irq := t.irq, evr := t.evr, mbx := t.mbx, mlk := t.mlk, out := t.out }) ∧
  (∀ s : State, s.blockOff 0x70008 = false → exec .linkRetrainCommand s = .next (s.retrain (srcCause 5))) ∧
  (∀ (lane : BitVec 4) (n : BitVec 6) (s : State), s.blockOff 0x70008 = true → exec .linkRetrainCommand s = .next s.accErr ∧
     exec .injectCrcError s = .next s.accErr ∧ exec (.injectLaneErrors lane n) s = .next s.accErr) ∧
  (∀ s : State, s.blockOff 0x70008 = false → s.linkUp = false → exec .linkRetrainCommand s = .next s) ∧
  (∀ s : State, (∀ b, s.mlk.rtrn = some b → s.expired b 1000 = true →
     exec .rtrnSendEnd s = .next { s with mlk := { s.mlk with rtrn := none } }) ∧
     ((s.mlk.rtrn = none ∨ ∃ b, s.mlk.rtrn = some b ∧ s.expired b 1000 = false) → exec .rtrnSendEnd s = .next s)) ∧
  (∀ (s : State), s.expired s.mlk.winStart 1000000 = true →
     exec .laneErrorWindowExpiry s = .next ({ s with mlk := { s.mlk with winStart := s.glb.beat, winCorr := [] } })) ∧
  (∀ (s : State), ¬(s.expired s.mlk.winStart 1000000 = true) → exec .laneErrorWindowExpiry s = .next s) ∧
  (∀ (lane : BitVec 4) (n : BitVec 6) (s : State), s.blockOff 0x70008 = false →
     exec .injectCrcError s = .next { s with mlk := { s.mlk with injCrc := true } } ∧
     exec (.injectLaneErrors lane n) s = .next (if n =
       0 then s else { s with mlk := { s.mlk with injLane := some (lane.toNat, n.toNat) } }))

/-- A flit with a good CRC and a valid ACK on an up link: with the expected sequence and room, its payload is appended and the
expected sequence advances; a duplicate is dropped with both unchanged. One with a bad CRC leaves received flits and replay
buffer and asks for a NAK. A new data flit leaves only with fewer than 512 unacknowledged and credit, and takes TXNEXT. A
replay asked for beyond REPLAY_MAX retrains in its place. FRAME_RECEIVE on a link below training changes nothing; an
uncorrectable frame is counted, and at a data place both its flits are bad, at a marker place it counts as markers missed; a
frame of a reserved kind counts its corrections and a protocol error. FLIT_TRANSMIT on a link not in use changes nothing.
REPLAY_TIMER_EXPIRY with no timer, no flit or before REPLAY_BEATS changes nothing; after, it replays from the oldest flit. -/
def Obligations.FlitsFramesAndReplay : Prop :=
  (∀ (b : List Byte) (s : State), s.linkUp = true → crc64 (b.take 312) = ofBe (b.drop 312) →
     s.ackValid (bits (leAt b 0 8) 16 16) = true → bits (leAt b 0 8) 32 3 = 1 →
     bits (leAt b 0 8) 0 16 = s.mlk.expect_ → s.mlk.expect_ < 65536 → s.mlk.rx.length < 256 →
     (s.flitIn b).mlk.rx = s.mlk.rx ++ [⟨s.mlk.expect_, bits (leAt b 0 8) 40 4, (b.drop 8).take 304⟩] ∧
     (s.flitIn b).mlk.expect_ = (s.mlk.expect_ + 1) % 65536 ∧ (s.flitIn b).mlk.nakPend = false ∧
       s.flitIn b = { s with mlk := (s.flitIn b).mlk }) ∧
  (∀ (b : List Byte) (s : State), s.linkUp = true → crc64 (b.take 312) = ofBe (b.drop 312) →
     s.ackValid (bits (leAt b 0 8) 16 16) = true → bits (leAt b 0 8) 32 3 = 1 →
     0 < seqDist (bits (leAt b 0 8) 0 16) s.mlk.expect_ → 65024 ≤ seqDist (bits (leAt b 0 8) 0 16) s.mlk.expect_ →
     (s.flitIn b).mlk.rx = s.mlk.rx ∧ (s.flitIn b).mlk.expect_ = s.mlk.expect_ ∧
       s.flitIn b = { s with mlk := (s.flitIn b).mlk }) ∧
  (∀ (b : List Byte) (s : State), s.linkUp = true → crc64 (b.take 312) ≠ ofBe (b.drop 312) →
     (s.flitIn b).mlk.rx = s.mlk.rx ∧ (s.flitIn b).mlk.expect_ = s.mlk.expect_ ∧ (s.flitIn b).mlk.buf = s.mlk.buf ∧
       (s.flitIn b).mlk.nakPend = true) ∧
  (∀ (s : State) (f : LFlit) (rest : List LFlit), s.linkUp = true → s.mlk.nakSend = false → s.mlk.replay = none →
     s.mlk.txq = f :: rest →
     (s.mlk.buf.length < 512 → 1 ≤ s.mlk.credit → s.nextFlit.1 = (1, { f with seq := s.mlk.txnext }, true) ∧
       s.nextFlit.2.mlk.txq = rest ∧
       s.nextFlit.2.mlk.buf = s.mlk.buf ++ [{ f with seq := s.mlk.txnext }] ∧
         s.nextFlit.2.mlk.txnext = (s.mlk.txnext + 1) % 65536) ∧
     (512 ≤ s.mlk.buf.length ∨ s.mlk.credit = 0 → s.nextFlit.2 = s ∧ s.nextFlit.1.1 = 0)) ∧
  (∀ (q : Nat) (s : State), s.mlk.buf ≠ [] → s.get MLK_CTRL_REPLAY_MAX ≤ s.mlk.replays → s.linkUp = true →
     (s.askReplay q).get MLK_STATUS_LSTATE = 4 ∧ (s.askReplay q).mlk.replays = s.mlk.replays ∧
       (s.askReplay q).mlk.buf = s.mlk.buf) ∧
  (∀ (f : Frame) (m : BitVec 16) (r : Bool) (s : State), s.get MLK_STATUS_LSTATE < 2 → exec (.frameReceive f m r) s = .next s) ∧
  (∀ (f : Frame) (m : BitVec 16) (r : Bool) (s : State), 2 ≤ s.get MLK_STATUS_LSTATE →
     ∃ t, exec (.frameReceive f m r) s = .next t ∧ t.sti = s.sti ∧ t.cfl = s.cfl ∧ t.dge = s.dge ∧ t.stw = s.stw ∧
     t.hp = s.hp ∧ t.cch = s.cch ∧ t.dsp = s.dsp ∧ t.ldg = s.ldg ∧ t.ctl = s.ctl ∧ t.drn = s.drn ∧ t.vlt = s.vlt ∧
     t.rst = s.rst) ∧
  (∀ (f : Frame) (m : BitVec 16) (r : Bool) (s : State), 2 ≤ s.get MLK_STATUS_LSTATE → exec (.frameReceive f m r) s = .next (
     match frameCode.decode (frameSyms f) with
     | none =>
       let a := (s.count MLK_CW_UNCORR_COUNT 1).updMlk fun x => { x with attUncorr := x.attUncorr || (s.checking && !s.linkUp) }
       if m = 0 then a.flitBad.flitBad else a.markers m.toNat r
     | some (w, ps) =>
       let p := frameParts w
       let att := bits p.1 14 3
       let kind := bits p.1 0 2
       if (s.get MLK_STATUS_LSTATE = 2 ∨ s.get MLK_STATUS_LSTATE = 4) ∧ att < s.mlk.att then s
       else
         let a := if (s.get MLK_STATUS_LSTATE = 2 ∨ s.get MLK_STATUS_LSTATE = 4) ∧ s.mlk.att < att ∧
           att ≤ 6 then s.enterAtt att else s
         let b := a.corrected (if att ≤ 6 then att else a.mlk.att) ps
         if 2 ≤ kind then b.linkProto else
         let c := if kind = 1 then b.markers m.toNat r else b
         let d := if c.linkUp ∧ bitOf p.1 18 then c.retrain (srcCause 4) else c
         let e := if (d.get MLK_STATUS_LSTATE = 2 ∨ d.get MLK_STATUS_LSTATE = 4) ∧ bitOf p.1 17 ∧ d.chkPass ∧
           !d.expired d.mlk.attStart 10000 then d.comeUp else d
         if kind = 1 then e else (e.flitIn (p.2.take 320)).flitIn (p.2.drop 320))) ∧
  (∀ s : State, s.get MLK_STATUS_LSTATE = 0 → exec .flitTransmit s = .next s) ∧
  (∀ s : State, s.get MLK_STATUS_LSTATE ≠ 0 → ∃ t, exec .flitTransmit s = .next t ∧ t.irq = s.irq ∧ t.evr = s.evr ∧
     t.sti = s.sti ∧ t.cfl = s.cfl ∧ t.dge = s.dge ∧ t.stw = s.stw ∧ t.pq = s.pq ∧ t.mbx = s.mbx ∧ t.hp = s.hp ∧
     t.cch = s.cch ∧ t.dsp = s.dsp ∧ t.ldg = s.ldg ∧ t.ctl = s.ctl ∧ t.seq = s.seq ∧ t.drn = s.drn ∧ t.vlt = s.vlt ∧
     t.rst = s.rst ∧ t.glb.st = s.glb.st ∧
     (s.mlk.fcnt ≠ 0 → s.mlk.half = none → t.out = s.out ∧ t.mlk.half ≠ none)) ∧
  (∀ (s : State) (b : Nat) (f : LFlit) (rest : List LFlit), s.mlk.timer = some b → s.mlk.buf = f :: rest → s.linkUp = true →
     s.expired b (s.get MLK_CTRL_REPLAY_BEATS) = true → s.mlk.replays < s.get MLK_CTRL_REPLAY_MAX →
       ∃ t, exec .replayTimerExpiry s = .next t ∧
       t.mlk.replay = some f.seq ∧ t.mlk.timer = some s.glb.beat ∧ t.mlk.replays = s.mlk.replays + 1 ∧ t.mlk.buf = s.mlk.buf ∧
         t = { s with regs := t.regs, irq := t.irq, evr := t.evr, mbx := t.mbx, mlk := t.mlk, out := t.out }) ∧
  (∀ s : State, (s.mlk.timer = none ∨ s.mlk.buf = [] ∨ s.linkUp = false ∨
       ∃ b, s.mlk.timer = some b ∧ s.expired b (s.get MLK_CTRL_REPLAY_BEATS) = false) → exec .replayTimerExpiry s = .next s) ∧
  (∀ (s : State), (¬ (s.get MLK_STATUS_LSTATE = 0)) →
     exec .flitTransmit s =
       .next (let s1 := if s.linkUp ∧ s.sessionUp ∧ s.mlk.txq.isEmpty then s.closeGroup else s
       s1.sendFlit)) ∧
  (∀ (s : State) (b : Nat) (f : LFlit) (rest : List LFlit), s.mlk.timer = some b ∧ s.mlk.buf = f :: rest ∧ s.linkUp = true ∧
     s.expired b (s.get MLK_CTRL_REPLAY_BEATS) = true → exec .replayTimerExpiry s = .next (s.askReplay f.seq))

/-- SESSION_SETUP_START outside its conditions (no accepted swap guarding class M, an up link, SERVE, enabled, no quarantine, no
session or setup, no hold running) changes nothing; without a pair key it sets NOKEY with event 0x0916; else a setup begins
and the count rises by 1. HELLO, RESPONSE and REFUSE with no clear flit in front change only the queue of received flits; in a
session a clear flit in front ends the session; a clear flit of another type of setup record is left to its own command.
SETUP_TIMEOUT before 10,000 beats changes nothing. With the block on, SESSION_END_COMMAND with a session up ends it with cause
1 after a REFUSE and event 0x0903, in a setup drops the setup, else changes nothing; QUARANTINE_CLEAR clears QUAR and the
level; RESYNC_COMMAND asks for a full sync; with the block off each only counts GLB_ACCERR. QUARANTINE_END ends QUAR after its
time; QUARANTINE_COUNT_RESET clears the level after an hour of session. -/
def Obligations.SessionsBeginAndEnd : Prop :=
  (∀ s : State, ¬(s.mirrorGuarded = false ∧ s.linkUp = true ∧ s.glb.st = .serve ∧ s.bit MTX_CTRL_EN = true ∧
     s.bit MTX_STATUS_QUAR = false ∧ s.get MTX_STATUS_SESSION = 0 ∧ (∀ b k, s.mtx.hold = some (b, k) →
     s.expired b k = true)) → exec .sessionSetupStart s = .next s) ∧
  (∀ s : State, s.mirrorGuarded = false ∧ s.linkUp = true ∧ s.glb.st = .serve ∧ s.bit MTX_CTRL_EN = true ∧
     s.bit MTX_STATUS_QUAR = false ∧ s.get MTX_STATUS_SESSION = 0 ∧ (∀ b k, s.mtx.hold = some (b, k) → s.expired b k = true) →
     s.pairKey = none → exec .sessionSetupStart s =
     .next (if s.bit MTX_STATUS_NOKEY then s else (s.setB MTX_STATUS_NOKEY true).event 0x0916 0)) ∧
  (∀ s : State, s.mirrorGuarded = false ∧ s.linkUp = true ∧ s.glb.st = .serve ∧ s.bit MTX_CTRL_EN = true ∧
     s.bit MTX_STATUS_QUAR = false ∧ s.get MTX_STATUS_SESSION = 0 ∧ (∀ b k, s.mtx.hold = some (b, k) → s.expired b k = true) →
     s.pairKey ≠ none → ∃ t, exec .sessionSetupStart s = .next t ∧ t.mtx.count = s.mtx.count + 1 ∧ t.glb = s.glb ∧
     t.sti = s.sti ∧ t.stw = s.stw ∧ t.hp = s.hp ∧ t.cch = s.cch ∧ t.dsp = s.dsp ∧ t.ldg = s.ldg ∧ t.ctl = s.ctl ∧
     t.seq = s.seq ∧ t.drn = s.drn ∧ t.vlt = s.vlt ∧ t.rst = s.rst) ∧
  (∀ (s : State), (¬ (!(!s.mirrorGuarded && s.linkUp && decide (s.glb.st =
     .serve) && s.bit MTX_CTRL_EN && !s.bit MTX_STATUS_QUAR && decide (s.get MTX_STATUS_SESSION =
     0) && (match s.mtx.hold with | some (b, k) => s.expired b k | none => true)))) →
     (¬ (s.pairKey.isNone)) →
     (¬ (s.mtx.count + 1 ≤ (match s.cell 3 with | some r => (pairOf r.payload).sessCnt | none => 0))) →
     exec .sessionSetupStart s =
       .next (let ceil := match s.cell 3 with | some r => (pairOf r.payload).sessCnt | none => 0
       let s1 := ((s.setB MTX_STATUS_NOKEY false).set MTX_STATUS_SESSION 1).updMtx fun m => { m with
         count := m.count + 1, myHello := [], respSent := false, hold := none }
       (((s1.updPair fun p => { p with sessCnt := ceil + 1024 }).updMtx fun m => { m with helloWait := true }).writePair false))) ∧
  (∀ s : State, s.clearFront.1 = none →
     exec .hello s = .next s.clearFront.2 ∧ exec .response s = .next s.clearFront.2 ∧ exec .refuse s = .next s.clearFront.2 ∧
     s.clearFront.2 = { s with mlk := s.clearFront.2.mlk }) ∧
  (∀ (s : State) (b : List Byte), s.clearFront.1 = some b → s.sessionUp = false →
     (leAt b 0 1 ≠ 8 → exec .hello s = .next s) ∧ (leAt b 0 1 ≠ 9 → exec .response s = .next s) ∧
     (leAt b 0 1 = 8 ∨ leAt b 0 1 = 9 → exec .refuse s = .next s)) ∧
  (∀ (s : State) (b : List Byte), s.clearFront.1 = some b → s.sessionUp = true →
     exec .hello s = .next (s.clearFront.2.clearInSession b) ∧ exec .response s = .next (s.clearFront.2.clearInSession b) ∧
     exec .refuse s = .next (s.clearFront.2.clearInSession b)) ∧
  (∀ (s : State) (b : List Byte), s.clearFront.1 = some b → s.get MTX_STATUS_SESSION = 1 → leAt b 0 1 = 8 →
     exec .hello s = .next (({ s.clearFront.2 with mtx := { s.clearFront.2.mtx with peerHello := b.take 152 } } : State).setupStep) ∧
     ∃ t, exec .hello s = .next t ∧ t.sti = s.sti ∧ t.cfl = s.cfl ∧ t.stw = s.stw ∧ t.hp = s.hp ∧ t.cch = s.cch ∧
       t.dsp = s.dsp ∧ t.ldg = s.ldg ∧ t.ctl = s.ctl ∧ t.seq = s.seq ∧ t.drn = s.drn ∧ t.vlt = s.vlt ∧ t.rst = s.rst) ∧
  (∀ (s : State) (b : List Byte), s.clearFront.1 = some b → s.get MTX_STATUS_SESSION = 1 → leAt b 0 1 = 9 →
     s.mtx.respSent = true → s.mirrorGuarded = false →
     (b.drop 8).take 32 = s.clearFront.2.responseOf false →
       exec .response s = .next (s.clearFront.2.dgeRequest .mirror).sessionComeUp ∧
     (s.bit MTX_ADOPT_ACTIVE = false → (s.clearFront.2.dgeRequest .mirror).sessionComeUp.get MTX_STATUS_SESSION = 2)) ∧
  (∀ (s : State) (b : List Byte) (r : Nat), s.clearFront.1 = some b → s.get MTX_STATUS_SESSION = 1 →
     refuseReason b = some r →
     ∃ t, exec .refuse s = .next t ∧ t.mtx.hold = some (s.glb.beat, 100000) ∧ t.mtx.myHello = [] ∧ t.cch = s.cch ∧
       t.vlt = s.vlt ∧ t.cfl = s.cfl ∧ t.drn = s.drn) ∧
  (∀ (s : State) (b : List Byte) (t : State) (r : Nat), (s.clearFront = (some b, t)) →
     (¬ (s.sessionUp)) →
     (¬ (leAt b 0 1 = 8 ∨ leAt b 0 1 = 9)) →
     (refuseReason b = some r) →
     (s.get MTX_STATUS_SESSION = 1) →
     exec .refuse s =
       .next (let s1 := t.refused r
       ((s1.sessionEnd 2).updMtx fun m => { m with hold := some (s.glb.beat, 100000) }))) ∧
  (∀ (s : State) (b : List Byte) (t : State) (r : Nat), (s.clearFront = (some b, t)) →
     (¬ (s.sessionUp)) →
     (¬ (leAt b 0 1 = 8 ∨ leAt b 0 1 = 9)) →
     (refuseReason b = some r) →
     (¬ (s.get MTX_STATUS_SESSION = 1)) →
     exec .refuse s =
       .next (let s1 := t.refused r
       s1)) ∧
  (∀ s : State, s.get MTX_STATUS_SESSION = 1 ∧ s.mtx.myHello ≠ [] ∧ s.expired s.mtx.helloBeat 10000 = true →
     ∃ t, exec .setupTimeout s = .next t ∧ t.mtx.hold = some (s.mtx.helloBeat + 10001, 100000) ∧ t.mtx.myHello = [] ∧
     t.glb = s.glb ∧ t.sti = s.sti ∧ t.cfl = s.cfl ∧ t.dge = s.dge ∧ t.stw = s.stw ∧ t.hp = s.hp ∧ t.cch = s.cch ∧
     t.dsp = s.dsp ∧ t.ldg = s.ldg ∧ t.ctl = s.ctl ∧ t.seq = s.seq ∧ t.drn = s.drn ∧ t.vlt = s.vlt ∧ t.rst = s.rst) ∧
  (∀ (s : State), (s.get MTX_STATUS_SESSION = 1 ∧ s.mtx.myHello ≠ [] ∧ s.expired s.mtx.helloBeat 10000) →
     exec .setupTimeout s =
       .next ((((s.event 0x0903 (srcCause 9)).sessionEnd 1).updMtx fun m => { m with hold := some (s.mtx.helloBeat + 10001, 100000) }))) ∧
  (∀ s : State, ¬(s.get MTX_STATUS_SESSION = 1 ∧ s.mtx.myHello ≠ [] ∧ s.expired s.mtx.helloBeat 10000 = true) →
     exec .setupTimeout s = .next s) ∧
  (∀ s : State, s.blockOff 0x80064 = false → (s.sessionUp = true →
     exec .sessionEndCommand s = .next (((s.sendClear (recRefuse 8)).event 0x0903 (srcCause 8)).sessionEnd 1)) ∧
     (s.get MTX_STATUS_SESSION = 1 → exec .sessionEndCommand s = .next (s.sessionEnd 1)) ∧
     (s.sessionUp = false → s.get MTX_STATUS_SESSION ≠ 1 → exec .sessionEndCommand s = .next s)) ∧
  (∀ s : State, s.blockOff 0x80064 = false →
     exec .quarantineClear s = .next ((s.setB MTX_STATUS_QUAR false).set MTX_QUAR_LEVEL 0) ∧
     exec .resyncCommand s = .next { s with mtx := { s.mtx with resync := true } }) ∧
  (∀ s : State, s.blockOff 0x80064 = true → exec .sessionEndCommand s = .next s.accErr ∧
     exec .quarantineClear s = .next s.accErr ∧
     exec .resyncCommand s = .next s.accErr) ∧
  (∀ (s : State), s.bit MTX_STATUS_QUAR = true ∧ s.expired s.mtx.quarStart (quarBeats (s.get MTX_QUAR_LEVEL)) = true →
     exec .quarantineEnd s = .next (s.setB MTX_STATUS_QUAR false)) ∧
  (∀ (s : State), ¬(s.bit MTX_STATUS_QUAR = true ∧ s.expired s.mtx.quarStart (quarBeats (s.get MTX_QUAR_LEVEL)) = true) →
     exec .quarantineEnd s = .next s) ∧
  (∀ (s : State), s.sessionUp = true ∧ s.expired s.mtx.upSince 3600000000 = true →
     exec .quarantineCountReset s = .next (s.set MTX_QUAR_LEVEL 0)) ∧
  (∀ (s : State), ¬(s.sessionUp = true ∧ s.expired s.mtx.upSince 3600000000 = true) → exec .quarantineCountReset s = .next s)

/-- Every record command with another record in front, with no session, no open group or a pair write on the way, changes nothing.
GROUP_VERIFY with no session, a group still open, an empty queue, a clear flit in front or fewer than 16 flits of a good
beginning changes nothing; behind an encrypted one a flit of a wrong TXF ends in event 0x0904 and a fault mark; 16 flits that
open become the plain group. With the WRITE in front and no other write open: a repeated sequence is acknowledged again, one
out of the window is a protocol error, and neither adds a queue entry; one in sequence and complete has the effect that rxDone
gives it, which for a well-formed write the horizons admit is its admission; one that may not be admitted waits, and nothing
changes. DATA with no open write adds no entry; DATA of an open write adds its lines. ACK, STAMP, TAKEOVER, SYNC and PAD
records act as stated; a HEARTBEAT with a reserved value is a protocol error, one without is taken. RECEIVE_WRITE_TIMEOUT with
no open write, a whole one or one not yet due changes nothing. -/
def Obligations.RecordsExecuteOnceAndInOrder : Prop :=
  (∀ s : State, (s.recType ≠ some 1 → exec .write s = .next s) ∧ (s.recType ≠ some 2 → exec .data s = .next s) ∧
     (s.recType ≠ some 3 → exec .ack s = .next s) ∧ (s.recType ≠ some 4 → exec .stamp s = .next s) ∧ (s.recType ≠ some 5 →
       exec .heartbeat s = .next s) ∧
     (s.recType ≠ some 6 ∨ leAt s.mtx.plain 1 1 = 1 ∨ leAt s.mtx.plain 1 1 = 2 → exec .syncBegin s = .next s) ∧
     (s.recType ≠ some 6 ∨ leAt s.mtx.plain 1 1 ≠ 1 → exec .syncEnd s = .next s) ∧
     (s.recType ≠ some 6 ∨ leAt s.mtx.plain 1 1 ≠ 2 → exec .syncRepaired s = .next s) ∧
     (s.recType ≠ some 7 → exec .takeover s = .next s) ∧ (s.recType ≠ some 0 → exec .pad s = .next s) ∧
     (s.sessionUp = false ∨ s.mtx.pairBusy = true ∨ s.mtx.plain = [] → s.recType = none)) ∧
  (∀ s : State, s.sessionUp = false ∨ s.mtx.plain ≠ [] → exec .groupVerify s = .next s) ∧
  (∀ s : State, s.sessionUp = true → s.mtx.plain = [] → ∃ t, exec .groupVerify s = .next t ∧ t.sti = s.sti ∧ t.cfl = s.cfl ∧
     t.dge = s.dge ∧ t.stw = s.stw ∧ t.hp = s.hp ∧ t.cch = s.cch ∧ t.dsp = s.dsp ∧ t.ldg = s.ldg ∧ t.ctl = s.ctl ∧
     t.seq = s.seq ∧ t.drn = s.drn ∧ t.vlt = s.vlt ∧ t.rst = s.rst ∧
     (s.mlk.rx = [] → t = s)) ∧
  (∀ (s : State), (¬ (!s.sessionUp ∨ s.mtx.plain ≠ [])) →
     (((s.mlk.rx.take 16).getD 0 ⟨0, 0, []⟩).txf = 0) →
     exec .groupVerify s =
       .next (s)) ∧
  (∀ (s : State), (¬ (!s.sessionUp ∨ s.mtx.plain ≠ [])) →
     (¬ (((s.mlk.rx.take 16).getD 0 ⟨0, 0, []⟩).txf = 0)) →
     (((List.range (s.mlk.rx.take 16).length).any fun i => ((s.mlk.rx.take 16).getD i ⟨0,
       0, []⟩).txf ≠ if i = 0 then 3 else 1)) →
     exec .groupVerify s =
       .next (((s.event 0x0904 0).faultMark))) ∧
  (∀ (s : State), (¬ (!s.sessionUp ∨ s.mtx.plain ≠ [])) →
     (¬ (((s.mlk.rx.take 16).getD 0 ⟨0, 0, []⟩).txf = 0)) →
     (¬ (((List.range (s.mlk.rx.take 16).length).any fun i => ((s.mlk.rx.take 16).getD i ⟨0,
       0, []⟩).txf ≠ if i = 0 then 3 else 1))) →
     ((s.mlk.rx.take 16).length < 16) →
     exec .groupVerify s =
       .next (s)) ∧
  (∀ (s : State) (f : List LFlit) (p : List Byte), s.sessionUp = true → s.mtx.plain = [] → s.mlk.rx.take 16 = f →
     f.map LFlit.txf = 3 :: List.replicate 15 1 →
     gcmOpen s.mtx.keyRx (s.mtx.saltRx ++ beBytes 8 s.mtx.gRx) (beBytes 8 s.mtx.gRx ++ beBytes 2 (f.getD 0 ⟨0,
       0, []⟩).seq ++ List.replicate 6 0)
       ((f.flatMap LFlit.data).take 4848) ((f.flatMap LFlit.data).drop 4848) = some p → exec .groupVerify s = .next (
       let s1 := s.updMlk fun m => { m with rx := m.rx.drop 16, freed := (m.freed + 16) % 4096 }
       (s1.updMtx fun m => { m with plain := p, raised := false, gRx := m.gRx + 1 }).groupRest)) ∧
  (∀ s : State, s.recType = some 1 → s.mtx.firstRec = false → s.mtx.wr = none → leAt s.mtx.plain 1 1 < 4 →
     s.seqClass (leAt s.mtx.plain 8 6) = 1 → (leAt s.mtx.plain 4 2 = 0 ∨ bitOf (leAt s.mtx.plain 1 1) 0 = true) →
     exec .write s = .next s.dropRec.duplicate.groupRest ∧ s.dropRec.duplicate.groupRest.pq.entries = s.pq.entries) ∧
  (∀ s : State, s.recType = some 1 → s.mtx.firstRec = false → s.mtx.wr = none → leAt s.mtx.plain 1 1 < 4 →
     s.seqClass (leAt s.mtx.plain 8 6) = 2 → (leAt s.mtx.plain 4 2 = 0 ∨ bitOf (leAt s.mtx.plain 1 1) 0 = true) →
     exec .write s = .next s.dropRec.mtxProto.groupRest ∧ s.dropRec.mtxProto.groupRest.pq.entries = s.pq.entries) ∧
  (∀ (s : State) (u : State), s.recType = some 1 → s.mtx.firstRec = false → s.mtx.wr = none → leAt s.mtx.plain 1 1 < 4 →
     s.seqClass (leAt s.mtx.plain 8 6) = 0 → (leAt s.mtx.plain 4 2 = 0 ∨ bitOf (leAt s.mtx.plain 1 1) 0 = true) →
     s.dropRec.rxDone (s.rxWrite s.mtx.plain false) = some u → ∃ t, exec .write s = .next t ∧
       t = ({ u with mtx := { u.mtx with zeroSeq := some (leAt s.mtx.plain 8 6) } } : State).groupRest ∧
         t.pq.entries = u.pq.entries) ∧
  (∀ (s : State) (w : RxWrite) (x : Nat), w.skip = false → w.fine = true → w.len ≠ 0 → s.extentOf w = some x →
     s.mAdmits w x = true →
     s.rxDone w = some (((s.updMtx fun m => { m with wr := none }).mAdmit w x).processed w.seq)) ∧
  (∀ (s : State), (¬ (s.recType ≠ some 1)) →
     (¬ (!(s.preRec false).sessionUp)) →
     (¬ (4 ≤ leAt s.mtx.plain 1 1)) →
     ((s.preRec false).seqClass (leAt s.mtx.plain 8 6) = 1) →
     exec .write s =
       .next (let b := s.mtx.plain
       let s1 := s.preRec false
       let t := s1.dropRec
       let whole := leAt b 4 2 = 0 || bitOf (leAt b 1 1) 0
       let skip := if whole then t else t.updMtx fun m => { m with wr := some (s1.rxWrite b true), zeroSeq := none }
       skip.duplicate.groupRest)) ∧
  (∀ (s : State), (¬ (s.recType ≠ some 1)) →
     (¬ (!(s.preRec false).sessionUp)) →
     (¬ (4 ≤ leAt s.mtx.plain 1 1)) →
     (¬ ((s.preRec false).seqClass (leAt s.mtx.plain 8 6) = 1)) →
     ((s.preRec false).seqClass (leAt s.mtx.plain 8 6) = 2) →
     exec .write s =
       .next (let b := s.mtx.plain
       let s1 := s.preRec false
       let t := s1.dropRec
       let whole := leAt b 4 2 = 0 || bitOf (leAt b 1 1) 0
       let skip := if whole then t else t.updMtx fun m => { m with wr := some (s1.rxWrite b true), zeroSeq := none }
       skip.mtxProto.groupRest)) ∧
  (∀ (s : State) (u : State), (¬ (s.recType ≠ some 1)) →
     (¬ (!(s.preRec false).sessionUp)) →
     (¬ (4 ≤ leAt s.mtx.plain 1 1)) →
     (¬ ((s.preRec false).seqClass (leAt s.mtx.plain 8 6) = 1)) →
     (¬ ((s.preRec false).seqClass (leAt s.mtx.plain 8 6) = 2)) →
     ((leAt s.mtx.plain 4 2 = 0 || bitOf (leAt s.mtx.plain 1 1) 0)) →
     ((s.preRec false).dropRec.rxDone ((s.preRec false).rxWrite s.mtx.plain false) = some u) →
     exec .write s =
       .next (let b := s.mtx.plain
       let q := leAt b 8 6
       (u.updMtx fun m => { m with zeroSeq := some q }).groupRest)) ∧
  (∀ (s : State), (¬ (s.recType ≠ some 1)) →
     (¬ (!(s.preRec false).sessionUp)) →
     (¬ (4 ≤ leAt s.mtx.plain 1 1)) →
     (¬ ((s.preRec false).seqClass (leAt s.mtx.plain 8 6) = 1)) →
     (¬ ((s.preRec false).seqClass (leAt s.mtx.plain 8 6) = 2)) →
     (¬ ((leAt s.mtx.plain 4 2 = 0 || bitOf (leAt s.mtx.plain 1 1) 0))) →
     exec .write s =
       .next (let b := s.mtx.plain
       let s1 := s.preRec false
       let t := s1.dropRec
       (t.updMtx fun m => { m with wr := some (s1.rxWrite b false), zeroSeq := none }).groupRest)) ∧
  (∀ s : State, s.recType = some 1 → s.mtx.firstRec = false → s.mtx.wr = none → leAt s.mtx.plain 1 1 < 4 →
     s.seqClass (leAt s.mtx.plain 8 6) = 0 → leAt s.mtx.plain 4 2 ≠ 0 → bitOf (leAt s.mtx.plain 1 1) 0 = false →
     ∃ t, exec .write s = .next t ∧ t.pq.entries = s.pq.entries ∧ (32 < s.mtx.plain.length →
       leAt (s.mtx.plain.drop 32) 0 1 = 2 →
       recLen (s.mtx.plain.drop 32) ≤ (s.mtx.plain.drop 32).length → t.mtx.wr = some (s.rxWrite s.mtx.plain false))) ∧
  (∀ s : State, s.recType = some 1 → s.mtx.firstRec = false → s.mtx.wr = none → leAt s.mtx.plain 1 1 < 4 →
     s.seqClass (leAt s.mtx.plain 8 6) = 0 → (leAt s.mtx.plain 4 2 = 0 ∨ bitOf (leAt s.mtx.plain 1 1) 0 = true) →
     s.dropRec.rxDone (s.rxWrite s.mtx.plain false) = none → exec .write s = .next s) ∧
  (∀ s : State, s.recType = some 2 → leAt s.mtx.plain 1 1 < 2 → leAt s.mtx.plain 2 1 ≠ 0 → leAt s.mtx.plain 2 1 ≤ 64 →
     s.mtx.wr = none → s.mtx.zeroSeq = none → exec .data s = .next s.dropRec.mtxProto.groupRest ∧
     s.dropRec.mtxProto.groupRest.pq.entries = s.pq.entries) ∧
  (∀ (s : State) (w : RxWrite), s.recType = some 2 → leAt s.mtx.plain 1 1 < 2 → leAt s.mtx.plain 2 1 ≠ 0 →
     leAt s.mtx.plain 2 1 ≤ 64 → s.mtx.wr = some w → w.seq % 2 ^ 32 = leAt s.mtx.plain 4 4 → w.skip = false →
     w.lines.length + leAt s.mtx.plain 2 1 < w.len → bitOf (leAt s.mtx.plain 1 1) 0 = false → ∃ t, exec .data s = .next t ∧
       t = ({ s.dropRec with mtx := { s.dropRec.mtx with wr := some { w with lines := w.lines ++ (List.range (leAt s.mtx.plain 2 1)).map fun i => BitVec.ofNat 512 (leAt s.mtx.plain (8 + 64 * i) 64) } } } : State).groupRest) ∧
  (∀ (s : State) (w : RxWrite), (¬ (s.recType ≠ some 2)) →
     (¬ ((2 ≤ leAt s.mtx.plain 1 1 ∨ (leAt s.mtx.plain 2 1) = 0 ∨ 64 < (leAt s.mtx.plain 2 1)))) →
     (s.mtx.wr = some w) →
     (¬ (w.seq % 2 ^ 32 ≠ leAt s.mtx.plain 4 4)) →
     (¬ (w.skip)) →
     (¬ (w.len < (w.lines ++ (List.range (leAt s.mtx.plain 2 1)).map fun i => BitVec.ofNat 512 (leAt s.mtx.plain (8 + 64 * i) 64)).length ∨ ((w.lines ++ (List.range (leAt s.mtx.plain 2 1)).map fun i => BitVec.ofNat 512 (leAt s.mtx.plain (8 + 64 * i) 64)).length = w.len ∧ !(bitOf (leAt s.mtx.plain 1 1) 0)))) →
     (¬ ((bitOf (leAt s.mtx.plain 1 1) 0) ∧
       (w.lines ++ (List.range (leAt s.mtx.plain 2 1)).map fun i => BitVec.ofNat 512 (leAt s.mtx.plain (8 + 64 * i) 64)).length < w.len)) →
     (¬ ((bitOf (leAt s.mtx.plain 1 1) 0))) →
     exec .data s =
       .next (let b := s.mtx.plain
       let n := leAt b 2 1
       let t := s.dropRec
       let lines := w.lines ++ (List.range n).map fun i => BitVec.ofNat 512 (leAt b (8 + 64 * i) 64)
       (t.updMtx fun m => { m with wr := some { w with lines := lines } }).groupRest)) ∧
  (∀ (s : State) (w : RxWrite), (¬ (s.recType ≠ some 2)) →
     (¬ ((2 ≤ leAt s.mtx.plain 1 1 ∨ (leAt s.mtx.plain 2 1) = 0 ∨ 64 < (leAt s.mtx.plain 2 1)))) →
     (s.mtx.wr = some w) →
     (¬ (w.seq % 2 ^ 32 ≠ leAt s.mtx.plain 4 4)) →
     w.skip →
     exec .data s =
       .next (let b := s.mtx.plain
       let last := bitOf (leAt b 1 1) 0
       let t := s.dropRec
       (if last then t.updMtx fun m => { m with wr := none } else t).groupRest)) ∧
  (∀ s : State, s.recType = some 3 → s.mtx.firstRec = false → s.mtx.wr = none → leAt s.mtx.plain 1 1 < 2 →
     leAt s.mtx.plain 2 2 < 5 → exec .ack s = .next
     (if leAt s.mtx.plain 1 1 =
       0 then s.dropRec.ackThrough (leAt s.mtx.plain 8 6) else s.dropRec.ackRefused (leAt s.mtx.plain 8 6)).groupRest) ∧
  (∀ (s : State), (¬ (s.recType ≠ some 3)) →
     (¬ (2 ≤ leAt s.mtx.plain 1 1 ∨ 5 ≤ leAt s.mtx.plain 2 2)) →
     exec .ack s =
       .next (let b := s.mtx.plain
       let t := (s.preRec false).dropRec
       let q := leAt b 8 6
       (if leAt b 1 1 = 0 then t.ackThrough q else t.ackRefused q).groupRest)) ∧
  (∀ s : State, s.recType = some 4 → s.mtx.firstRec = false → s.mtx.wr = none → leAt s.mtx.plain 1 1 = 0 →
     exec .stamp s = .next (({ s.dropRec with mtx := { s.dropRec.mtx with newStamp := s.mtx.newStamp.set .pa (max s.mtx.newStamp.a (leAt s.mtx.plain 8 8)) } } : State).takeStamps).groupRest) ∧
  (∀ s : State, s.recType = some 5 → s.mtx.firstRec = false → s.mtx.wr = none → ¬(leAt s.mtx.plain 1 1 = 0 ∨
     8 ≤ leAt s.mtx.plain 1 1 ∨ 16 ≤ leAt s.mtx.plain 2 1 ∨ 3 ≤ leAt s.mtx.plain 3 1) → s.glb.st = .serve →
     s.mtx.plain.length = 32 → s.mtx.raised = false → leAt s.mtx.plain 1 1 ≠ 4 → bitOf (leAt s.mtx.plain 2 1) 0 = false →
     ∃ t, exec .heartbeat s = .next t ∧ t.mtx.hbPeer = some s.glb.beat ∧ t.mtx.hbLast = s.glb.beat ∧ t.mtx.plain = [] ∧
       t.stw = s.stw ∧ t.sti = s.sti ∧ t.hp = s.hp) ∧
  (∀ (s : State), (¬ (s.recType ≠ some 5)) →
     (leAt s.mtx.plain 1 1 = 0 ∨ 8 ≤ leAt s.mtx.plain 1 1 ∨ 16 ≤ leAt s.mtx.plain 2 1 ∨ 3 ≤ leAt s.mtx.plain 3 1) →
     exec .heartbeat s =
       .next (let t := (s.preRec false).dropRec
       t.mtxProto.groupRest)) ∧
  (∀ (s : State), (¬ (s.recType ≠ some 5)) →
     (¬ (leAt s.mtx.plain 1 1 = 0 ∨ 8 ≤ leAt s.mtx.plain 1 1 ∨ 16 ≤ leAt s.mtx.plain 2 1 ∨ 3 ≤ leAt s.mtx.plain 3 1)) →
     exec .heartbeat s =
       .next (let b := s.mtx.plain
       let t := (s.preRec false).dropRec
       let s1 := ((t.set MTX_PEERSTATE_STATE (leAt b 1 1)).set MTX_PEERSTATE_FLAGS (leAt b 2 1)).set MTX_PEERSTATE_ZONE (leAt b 3 1)
       let s2 := (s1.setB MTX_STATUS_HBLOST false).updMtx fun m => { m with hbPeer := some s.glb.beat, hbLast := s.glb.beat }
       let s3 := if bitOf (leAt b 2 1) 0 then s2.mwinEnd 1 else if leAt b 1 1 = 4 then s2.mwinEnd 2 else s2
       ((s3.ackThrough (leAt b 16 6)).groupRest.drainAdvance))) ∧
  (∀ s : State, s.recType = some 6 → s.mtx.firstRec = false → s.mtx.wr = none → leAt s.mtx.plain 1 1 = 0 →
     s.seqClass (leAt s.mtx.plain 16 6) = 0 → ∃ t, exec .syncBegin s = .next t ∧
     t.mtx.pair.mgenHeld = leAt s.mtx.plain 8 8 ∧ t.mtx.pair.syncing = true ∧ t.mtx.cursors = [] ∧
       t.pq.entries = s.pq.entries ∧ t.cch = s.cch ∧ t.vlt = s.vlt ∧ t.drn = s.drn) ∧
  (∀ (s : State), (¬ (s.recType ≠ some 6 ∨ (leAt s.mtx.plain 1 1) = 1 ∨ (leAt s.mtx.plain 1 1) = 2)) →
     (¬ (3 ≤ (leAt s.mtx.plain 1 1))) →
     exec .syncBegin s =
       .next (let gen := leAt s.mtx.plain 8 8
       (s.syncRec true fun t =>
         ((t.updPair fun p => { p with mgenHeld := gen, syncing := true }).updMtx fun m => { m with cursors := [] }).writePair true))) ∧
  (∀ s : State, s.recType = some 6 → s.mtx.firstRec = false → s.mtx.wr = none → leAt s.mtx.plain 1 1 = 1 →
     s.seqClass (leAt s.mtx.plain 16 6) = 0 → ∃ t, exec .syncEnd s = .next t ∧
     t.mtx.pair.syncing = false ∧ t.mtx.pair.gap = false ∧ t.pq.entries = s.pq.entries ∧ t.cch = s.cch ∧ t.vlt = s.vlt ∧
       t.drn = s.drn) ∧
  (∀ (s : State), (¬ (s.recType ≠ some 6 ∨ leAt s.mtx.plain 1 1 ≠ 1)) →
     exec .syncEnd s =
       .next ((s.syncRec false fun t => ((t.updPair fun p => { p with syncing := false, gap := false }).takeStamps).writePair false))) ∧
  (∀ s : State, s.recType = some 6 → s.mtx.firstRec = false → s.mtx.wr = none → leAt s.mtx.plain 1 1 = 2 →
     s.seqClass (leAt s.mtx.plain 16 6) = 0 → ∃ t, exec .syncRepaired s = .next t ∧
     t.mtx.pair.syncing = s.mtx.pair.syncing ∧ t.mtx.pair.gap = false ∧ t.pq.entries = s.pq.entries ∧ t.cch = s.cch ∧
       t.vlt = s.vlt ∧ t.drn = s.drn) ∧
  (∀ (s : State), (¬ (s.recType ≠ some 6 ∨ leAt s.mtx.plain 1 1 ≠ 2)) →
     exec .syncRepaired s =
       .next ((s.syncRec false fun t => ((t.updPair fun p => { p with gap := false }).takeStamps).writePair false))) ∧
  (∀ s : State, s.recType = some 7 → s.mtx.firstRec = false → s.mtx.wr = none →
     exec .takeover s = .next ((s.dropRec.setB MTX_STATUS_PEER_ADOPTED true).groupRest)) ∧
  (∀ s : State, s.recType = some 0 → ∃ t, exec .pad s = .next t ∧ t = { s with mlk := t.mlk, mtx := t.mtx } ∧
     t.mtx.plain = []) ∧
  (∀ (s : State), (s.recType = some 0) →
     exec .pad s =
       .next (s.groupEnd)) ∧
  (∀ s : State, s.mtx.wr = none → exec .receiveWriteTimeout s = .next s) ∧
  (∀ (s : State) (w : RxWrite), s.mtx.wr = some w → (s.wrWhole = true ∨ (s.mtx.clean < w.clean + 200 ∧
     s.expired w.start 2000 = false)) →
     exec .receiveWriteTimeout s = .next s) ∧
  (∀ (s : State) (w : RxWrite), s.mtx.wr = some w → s.wrWhole = false → (w.clean + 200 ≤ s.mtx.clean ∨
     s.expired w.start 2000 = true) →
     ∃ t, exec .receiveWriteTimeout s = .next t ∧ t.mtx.wr = none ∧ t.pq.entries = s.pq.entries ∧ t.vlt = s.vlt ∧
       t.cfl = s.cfl ∧ t.drn = s.drn) ∧
  (∀ (s : State) (w : RxWrite), (s.mtx.wr = some w) →
     (!s.wrWhole ∧ (w.clean + 200 ≤ s.mtx.clean ∨ s.expired w.start 2000)) →
     exec .receiveWriteTimeout s =
       .next ((s.wrMismatch 1)))

/-- MIRROR_SEND with a session and no replay room, or a full ring, or in a drain whose sends have ended, changes nothing; else it
takes the oldest unsent write, or the sync record or copy next in turn, and its waiting stamps. SEND_COUNTED_TIMEOUT and
SEND_ABSOLUTE_TIMEOUT change nothing until the oldest outstanding sequence has waited 200 clean beats, or 2,000 beats; then
the session ends with cause 3 or 4 and event 0x090A. HEARTBEAT_SEND before HB_BEATS, or with no session, changes nothing.
HEARTBEAT_LOSS with HBLOST set or before HB_LOSS changes nothing; PARTNER_ALIVE_IN_DEASSERT before 10 low beats changes
nothing. FULL_SYNC_START outside its conditions changes nothing. On a port that answers and is fast, ADOPTED_REGION_WRITE is
discarded, counted and recorded as 0x0917, and ADOPTED_REGION_READ outside the region answers no data; elsewhere neither has
an effect. ADOPTED_REGION_RELEASE with the block off only counts GLB_ACCERR; without the key, outside SERVE or with nothing
adopted it changes nothing; else the region reads zero. -/
def Obligations.SendingHeartbeatsAndAdoption : Prop :=
  (∀ s : State, s.sessionUp = true → (512 < s.mlk.buf.length + s.mlk.txq.length + 32 ∨ 8192 ≤ s.mtx.ring.length) →
     exec .mirrorSend s = .next s) ∧
  (∀ s : State, s.glb.st = .drain → s.drn.sendsEnded = true → exec .mirrorSend s = .next s) ∧
  (∀ (s : State) (e : QEntry), s.sessionUp = false → s.glb.st ≠ .drain → s.unsent = some e → s.mtx.pendSync = none →
     s.setupHolds (e.seq.getD 0) = false →
     s.mtx.lost.contains (e.line / 64) = false → s.mtx.lost.length < 8192 → ∃ t, exec .mirrorSend s = .next t ∧
       t.mtx.lost = s.mtx.lost ++ [e.line / 64] ∧
       t.mtx.ring = s.mtx.ring ∧ t.stw = s.stw ∧ t.hp = s.hp ∧ t.ldg = s.ldg) ∧
  (∀ (s : State), (¬ ((s.glb.st = .drain ∧ s.drn.sendsEnded) ∨ (s.sessionUp ∧
     (512 < s.mlk.buf.length + s.mlk.txq.length + 32 ∨ 8192 ≤ s.mtx.ring.length)))) →
     exec .mirrorSend s =
       .next (let k := s.unsent
       let mine := fun (t : Task) => t.ty = 2 && (match k with | some e => t.arg1 = 0 && t.arg0 = e.id | none => t.arg1 ≠ 0)
       let s1 := ((s.underBeat (s.issueBeat mine)).mirrorNext).restoreImage s.sti.active
       let s2 := if s1.unsent = k ∧ (k.isSome ∨ s1.remirror = s.remirror) then s1 else s1.retireTask mine
       s2.sendStamps.drainAdvance)) ∧
  (∀ (s : State) (r : RingEntry) (l : List RingEntry), s.mtx.ring = r :: l →
     (s.sessionUp = true → r.clean + 200 ≤ s.mtx.clean →
       exec .sendCountedTimeout s = .next ((s.event 0x090A (srcCause 1)).sessionQuit 3)) ∧
     (s.sessionUp = true → s.expired r.beat 2000 = true →
       exec .sendAbsoluteTimeout s = .next ((s.event 0x090A (srcCause 2)).sessionQuit 4)) ∧
     (s.sessionUp = false ∨ s.mtx.clean < r.clean + 200 → exec .sendCountedTimeout s = .next s) ∧
     (s.sessionUp = false ∨ s.expired r.beat 2000 = false → exec .sendAbsoluteTimeout s = .next s)) ∧
  (∀ s : State, s.sessionUp = true ∧ s.mtx.hbSent + s.get MTX_CTRL_HB_BEATS ≤ s.glb.beat →
     ∃ t, exec .heartbeatSend s = .next t ∧ t.mtx.hbSent = s.glb.beat ∧ t = { s with mlk := t.mlk, mtx := t.mtx } ∧
     (s.mtx.open_.length + 32 ≤ 4848 → t.mlk = s.mlk ∧ t.mtx.open_.length = s.mtx.open_.length + 32)) ∧
  (∀ (s : State), (s.sessionUp ∧ s.mtx.hbSent + s.get MTX_CTRL_HB_BEATS ≤ s.glb.beat) →
     exec .heartbeatSend s =
       .next (let flags := b2n (decide (s.glb.st =
         .drain) && s.drn.sendsEnded) + 2 * b2n s.glb.lazyRestore + 4 * b2n (s.mtx.sync =
         3) + 8 * b2n (s.bit MTX_ADOPT_ACTIVE)
       let b := leBytes 1 5 ++ leBytes 1 s.glb.st.code ++ leBytes 1 flags ++ leBytes 1 (s.get LDG_STATUS_ZONE) ++ leBytes 4 0
         ++ leBytes 8 s.beat ++ leBytes 6 s.peerThru ++ leBytes 2 0 ++ leBytes 6 (s.pq.lastSeq + 1) ++ leBytes 2 0
       ((s.sendRec b).updMtx fun m => { m with hbSent := s.glb.beat }))) ∧
  (∀ s : State, ¬(s.sessionUp = true ∧ s.mtx.hbSent + s.get MTX_CTRL_HB_BEATS ≤ s.glb.beat) → exec .heartbeatSend s = .next s) ∧
  (∀ s : State, s.mtx.hbLast ≠ 0 ∧ s.bit MTX_STATUS_HBLOST = false ∧ s.expired s.mtx.hbLast (s.get MTX_CTRL_HB_LOSS) = true →
     ∃ t, exec .heartbeatLoss s = .next t ∧ t.sti = s.sti ∧ t.cfl = s.cfl ∧ t.dge = s.dge ∧ t.stw = s.stw ∧ t.hp = s.hp ∧
     t.ctl = s.ctl ∧
     (s.bit MTX_STATUS_ALIVE_IN = true → s.sessionUp = false → t = s.setB MTX_STATUS_HBLOST true)) ∧
  (∀ (s : State), (s.mtx.hbLast ≠ 0 ∧ !s.bit MTX_STATUS_HBLOST ∧ s.expired s.mtx.hbLast (s.get MTX_CTRL_HB_LOSS)) →
     (!s.bit MTX_STATUS_ALIVE_IN) →
     exec .heartbeatLoss s =
       .next (let s1 := s.setB MTX_STATUS_HBLOST true
       s1.partnerLost)) ∧
  (∀ (s : State), (s.mtx.hbLast ≠ 0 ∧ !s.bit MTX_STATUS_HBLOST ∧ s.expired s.mtx.hbLast (s.get MTX_CTRL_HB_LOSS)) →
     (¬ (!s.bit MTX_STATUS_ALIVE_IN)) →
     s.sessionUp →
     exec .heartbeatLoss s =
       .next (let s1 := s.setB MTX_STATUS_HBLOST true
       ((s1.event 0x090C 0).sessionQuit 7))) ∧
  (∀ (s : State), (s.mtx.hbLast ≠ 0 ∧ !s.bit MTX_STATUS_HBLOST ∧ s.expired s.mtx.hbLast (s.get MTX_CTRL_HB_LOSS)) →
     (¬ (!s.bit MTX_STATUS_ALIVE_IN)) →
     (¬ (s.sessionUp)) →
     exec .heartbeatLoss s =
       .next (let s1 := s.setB MTX_STATUS_HBLOST true
       s1)) ∧
  (∀ s : State, ¬(s.mtx.hbLast ≠ 0 ∧ s.bit MTX_STATUS_HBLOST = false ∧
     s.expired s.mtx.hbLast (s.get MTX_CTRL_HB_LOSS) = true) → exec .heartbeatLoss s = .next s) ∧
  (∀ s : State, s.bit MTX_STATUS_ALIVE_IN = true ∧ 10 ≤ s.mtx.aliveLow → ∃ t, exec .partnerAliveInDeassert s = .next t ∧
     t.sti = s.sti ∧ t.cfl = s.cfl ∧ t.dge = s.dge ∧ t.stw = s.stw ∧ t.hp = s.hp ∧ t.ctl = s.ctl ∧
     (s.bit MTX_STATUS_HBLOST = false → s.sessionUp = true → t = (s.setB MTX_STATUS_ALIVE_IN false).event 0x0914 0)) ∧
  (∀ (s : State), (s.bit MTX_STATUS_ALIVE_IN ∧ 10 ≤ s.mtx.aliveLow) →
     s.bit MTX_STATUS_HBLOST →
     exec .partnerAliveInDeassert s =
       .next (let s1 := s.setB MTX_STATUS_ALIVE_IN false
       s1.partnerLost)) ∧
  (∀ (s : State), (s.bit MTX_STATUS_ALIVE_IN ∧ 10 ≤ s.mtx.aliveLow) →
     (¬ (s.bit MTX_STATUS_HBLOST)) →
     s.sessionUp →
     exec .partnerAliveInDeassert s =
       .next (let s1 := s.setB MTX_STATUS_ALIVE_IN false
       (s1.event 0x0914 0))) ∧
  (∀ (s : State), (s.bit MTX_STATUS_ALIVE_IN ∧ 10 ≤ s.mtx.aliveLow) →
     (¬ (s.bit MTX_STATUS_HBLOST)) →
     (¬ (s.sessionUp)) →
     exec .partnerAliveInDeassert s =
       .next (let s1 := s.setB MTX_STATUS_ALIVE_IN false
       s1)) ∧
  (∀ s : State, ¬(s.bit MTX_STATUS_ALIVE_IN = true ∧ 10 ≤ s.mtx.aliveLow) → exec .partnerAliveInDeassert s = .next s) ∧
  (∀ s : State, exec .partnerAliveInAssert s =
     .next { s.setB MTX_STATUS_ALIVE_IN true with mtx := { s.mtx with aliveLow := 0 } }) ∧
  (∀ s : State, s.sessionUp = true ∧ s.mtx.sync = 2 ∧ s.glb.lazyRestore = false → ∃ t, exec .fullSyncStart s = .next t ∧
     t.mtx.pair.mgenSend = s.mtx.pair.mgenSend + 1 ∧ t.mtx.sync = 3 ∧ t.mtx.cursor = 0 ∧
     t.pq.lastSeq = (s.pq.lastSeq + 1) % 2 ^ 48 ∧ t.mtx.pendSync = some t.pq.lastSeq ∧ t.glb = s.glb ∧ t.sti = s.sti ∧
       t.dge = s.dge ∧ t.stw = s.stw ∧ t.hp = s.hp ∧ t.cch = s.cch ∧ t.dsp = s.dsp ∧ t.ldg = s.ldg ∧ t.ctl = s.ctl ∧
       t.seq = s.seq ∧ t.drn = s.drn ∧ t.vlt = s.vlt ∧ t.rst = s.rst ∧ t.mlk = s.mlk) ∧
  (∀ (s : State), (s.sessionUp ∧ s.mtx.sync = 2 ∧ !s.glb.lazyRestore) →
     exec .fullSyncStart s =
       .next (let n := s.nextSeq
       let s1 := (n.2.updPair fun p => { p with mgenSend := p.mgenSend + 1 }).writePair false
       let s2 := (s1.updMtx fun m => { m with sync := 3, cursor := 0, starts := 0, pendSync := some n.1, endSeq := none }).openBreak n.1
       ((((s2.set MTX_STATUS_SENDSYNC 2).showSync).event 0x0911 0)))) ∧
  (∀ s : State, ¬(s.sessionUp = true ∧ s.mtx.sync = 2 ∧ s.glb.lazyRestore = false) → exec .fullSyncStart s = .next s) ∧
  (∀ (p : Port) (off : BitVec 48) (tag : BitVec 16) (err : Codeword) (s : State), s.answersFast p = true →
     exec (.adoptedRegionWrite p) s = .next ((s.count MTX_FAULTCNT_BAR2 1).event 0x0917 (srcPort p)) ∧
     (s.bit MTX_ADOPT_ACTIVE = false ∨ s.img.size 4 ≤ off.toNat →
       exec (.adoptedRegionRead p off tag err) s = .next (s.emit (.bar2 p.agent none false))) ∧
     (s.bit MTX_ADOPT_ACTIVE = true → off.toNat < s.img.size 4 → exec (.adoptedRegionRead p off tag err) s =
       .next (s.serveRead ⟨p, tag.toNat, (s.img.base 4 + off.toNat) / 64, some (off.toNat % 64)⟩ err))) ∧
  (∀ (p : Port) (off : BitVec 48) (tag : BitVec 16) (err : Codeword) (s : State), s.answersFast p = false →
     exec (.adoptedRegionWrite p) s = .next s ∧ exec (.adoptedRegionRead p off tag err) s = .next s) ∧
  (∀ (key : BitVec 16) (s : State), s.blockOff 0x8004C = false → key.toNat = 0x4144 ∧ s.glb.st = .serve ∧
     s.bit MTX_ADOPT_ACTIVE = true → ∃ t, exec (.adoptedRegionRelease key) s = .next t ∧ t.mtx.pair.mgenHeld = 0 ∧
     (∀ la, s.img.base 4 / 4096 ≤ la / 64 → la / 64 < s.img.base 4 / 4096 + s.img.size 4 / 4096 →
       t.line la = LineCell.zero) ∧
     (∀ la, la / 64 < s.img.base 4 / 4096 ∨ s.img.base 4 / 4096 + s.img.size 4 / 4096 ≤ la / 64 → t.line la = s.line la) ∧
     t.glb = s.glb ∧ t.sti = s.sti ∧ t.dge = s.dge ∧ t.stw = s.stw ∧ t.pq = s.pq ∧ t.hp = s.hp ∧ t.dsp = s.dsp ∧
       t.ldg = s.ldg ∧ t.ctl = s.ctl ∧ t.seq = s.seq ∧ t.drn = s.drn ∧ t.rst = s.rst ∧ t.mlk = s.mlk) ∧
  (∀ (key : BitVec 16) (s : State), (¬ (s.blockOff 0x8004C)) →
     (key.toNat = 0x4144 ∧ s.glb.st = .serve ∧ s.bit MTX_ADOPT_ACTIVE) →
     exec (.adoptedRegionRelease key) s =
       .next (let a := s.img.base 4 / 4096
       let b := a + s.img.size 4 / 4096
       let inside := fun (g : Nat) => decide (a ≤ g) && decide (g < b)
       let hit := (s.cch.map.map Prod.fst).filter inside
       let s1 := hit.foldl (fun t g => ((t.clean g).setEntry g { (t.clean g).entry g with vloc := noVloc, poison := false }).touchPiece g) s
       let s2 := s1.updCch fun c => { c with lines := Store.keep (fun la => !inside (la / 64)) c.lines, unrest := cutSpan c.unrest a b }
       let s3 := s2.updVlt fun v => { v with inflight := v.inflight.filter fun f => !inside f.granule }
       let s4 := (s3.updPair fun p => { p with mgenHeld := 0 }).writePair false
       ((s4.setB MTX_ADOPT_ACTIVE false).event 0x0910 0))) ∧
  (∀ (key : BitVec 16) (s : State), (s.blockOff 0x8004C = true → exec (.adoptedRegionRelease key) s = .next s.accErr) ∧
     (s.blockOff 0x8004C = false → ¬(key.toNat = 0x4144 ∧ s.glb.st = .serve ∧ s.bit MTX_ADOPT_ACTIVE = true) →
       exec (.adoptedRegionRelease key) s = .next s))

/-- TASK_SUBMIT of an agent that is answered, with a failed check, records its code with event 0x0A0D and queues nothing;
accepted, it shows RESULT 1 and the TID, and a task of COUNT above 0 is queued ready with the next serial. TASK_PICK of an
engine that is not free, whose lower-numbered engines are not all busy, or whose shard has handed out four tasks in this
beat-clock cycle (entry 202), or with none ready, changes nothing; else the picked task runs there, with its issue beat, or in
the seam is prepared for the next beat. TASK_STEAL with stealing off, a tile out of service, a ready task of its own, one in
flight or no idle engine changes nothing; else the best neighbour task moves, and with a pick of the owner in the same cycle
that pick comes first and the steal of the task that it takes fails. TASK_STEAL_DELIVERY delivers the moving task or changes
nothing. TASK_SLICE_END of a task that does not run changes nothing; done and cancelled slices end it with their status (done
with TIMEOUT indicated: TIMEOUT), a failed one runs the shared failure of a task, yielding and waiting ones do not.
WAIT_CONDITION_MET and WAIT_TIMEOUT act only on a waiting task: met, it becomes ready; timed out, it becomes ready with
TIMEOUT indicated, event 0x0A09 and interrupt 21; TASK_CANCEL only for its own agent, and a timeout, a steal or a pick of the
same cycle comes after it. COMPLETION_POP drops the head of the agent's FIFO. -/
def Obligations.TasksRunWaitAndComplete : Prop :=
  (∀ (g : Agent) (tile : BitVec 6) (s : State), s.answers g = true →
     s.submitCode g (((List.range 8).map fun n => leBytes 4 (s.get (DSP_SUB_BYTES n g))).flatten) tile.toNat ≠ 1 →
     exec (.taskSubmit g tile) s =
       .next ((s.set (DSP_SUB_ST_RESULT g) (s.submitCode g (((List.range 8).map fun n => leBytes 4 (s.get (DSP_SUB_BYTES n g))).flatten) tile.toNat)).event 0x0A0D (srcAgent g.num))) ∧
  (∀ (g : Agent) (tile : BitVec 6) (s : State), s.answers g = true →
     s.submitCode g (((List.range 8).map fun n => leBytes 4 (s.get (DSP_SUB_BYTES n g))).flatten) tile.toNat = 1 →
     s.get (DSP_SUB_BYTES 3 g) ≠ 0 → s.get (DSP_SUB_BYTES 3 g) < 2 ^ 32 →
     ∃ t k, exec (.taskSubmit g tile) s = .next t ∧
       t.dsp = { s.dsp with tasks := s.dsp.tasks ++ [k], serial := (s.dsp.fresh + 1) % 2 ^ 26, order := s.dsp.order + 1 } ∧
       k.tid = tile.toNat + 64 * s.dsp.fresh ∧ k.tile = tile.toNat ∧ k.st = .ready ∧ k.producer = some g ∧
         k.count = s.get (DSP_SUB_BYTES 3 g) ∧ k.cancel = false ∧
       t.get (DSP_SUB_ST_RESULT g) = 1 ∧ t =
         { s with regs := t.regs, irq := t.irq, evr := t.evr, mbx := t.mbx, dsp := t.dsp, out := t.out }) ∧
  (∀ (g : Agent) (tile : BitVec 6) (s : State), (¬ (!s.answers g)) →
     (¬ ((s.submitCode g (((List.range 8).map fun n => leBytes 4 (s.get (DSP_SUB_BYTES n g))).flatten) tile.toNat) ≠ 1)) →
     exec (.taskSubmit g tile) s =
       .next (let b := ((List.range 8).map fun n => leBytes 4 (s.get (DSP_SUB_BYTES n g))).flatten
       let tid := tile.toNat + 64 * s.dsp.fresh
       let k : Task := ⟨tid, leAt b 0 1, min 3 (leAt b 1 1 % 8), bitOf (leAt b 1 1) 3, leAt b 2 2, 0, false, leAt b 10 1,
         leAt b 12 4, leAt b 16 8,
           leAt b 24 8, some g, tile.toNat, .ready, s.dsp.order, false, false, 0, false, false, false, 0⟩
       let s1 := s.addTask k
       let s2 := (s1.set (DSP_SUB_ST_RESULT g) 1).set (DSP_SUB_TID_TID g) tid
       (if k.count = 0 then s2.endTask k 0 else s2))) ∧
  (∀ (tile : BitVec 6) (e : BitVec 4) (s : State), (¬(s.engineFree (16 * tile.toNat + e.toNat) = true ∧
     (∀ i < e.toNat, s.engineFree (16 * tile.toNat + i) = false) ∧ s.handedNow tile.toNat < 4) ∨
     s.pick tile.toNat (16 * tile.toNat + e.toNat) = none) →
     exec (.taskPick tile e) s = .next s) ∧
  (∀ (tile : BitVec 6) (e : BitVec 4) (s : State) (k : Task), s.engineFree (16 * tile.toNat + e.toNat) = true ∧
     (∀ i < e.toNat, s.engineFree (16 * tile.toNat + i) = false) ∧ s.handedNow tile.toNat < 4 →
     s.pick tile.toNat (16 * tile.toNat + e.toNat) = some k →
     exec (.taskPick tile e) s = .next (if 360 ≤ s.glb.cycle then s.updDsp fun d => { d with
         handed := Store.put 0 d.handed tile.toNat (8 * (400 * s.glb.beat + s.glb.cycle) + s.handedNow tile.toNat + 1),
           prep := d.prep ++ [(k.tid, 16 * tile.toNat + e.toNat)] }
       else (s.updDsp fun d => { d with handed := Store.put 0 d.handed tile.toNat (8 * (400 * s.glb.beat + s.glb.cycle) + s.handedNow tile.toNat + 1) }).setTask
         { k with st := .running (16 * tile.toNat + e.toNat), last := 16 * tile.toNat + e.toNat, lvalid := true, issued := s.glb.beat })) ∧
  (∀ (s : State) (t : Nat), (Store.get 0 s.dsp.handed t / 8 = 400 * s.glb.beat + s.glb.cycle →
     s.handedNow t = Store.get 0 s.dsp.handed t % 8) ∧
     (Store.get 0 s.dsp.handed t / 8 ≠ 400 * s.glb.beat + s.glb.cycle → s.handedNow t = 0)) ∧
  (∀ (t e : Nat) (s : State) (k : Task), s.pick t e = some k → k ∈ s.dsp.tasks ∧ k.tile = t ∧ k.st = .ready ∧
     (s.pickImage.runsOn k t || s.poolShort k.pool) = true ∧ s.listed k = true ∧
       (s.dsp.prep.any fun x => x.1 = k.tid) = false ∧
     (∀ j ∈ s.dsp.tasks, j.tile = t → j.st = .ready → (s.dsp.prep.any fun x => x.1 = j.tid) = false → s.listed j = true →
       (s.pickImage.runsOn j t || s.poolShort j.pool) = true → j.prio ≤ k.prio)) ∧
  (∀ (th : BitVec 6) (s : State), (s.bit DSP_CTRL_STEAL_EN = false ∨ s.inService th.toNat = false ∨
     s.dsp.tasks.any (fun k => k.tile = th.toNat && k.st = .ready) = true ∨
       s.dsp.tasks.any (fun k => k.st = .moving th.toNat) = true ∨
       16 ≤ (s.dsp.tasks.filter fun k => k.tile = th.toNat && k.st.isRunning).length) →
         ∀ own, exec (.taskSteal th own) s = .next s) ∧
  (∀ (th : BitVec 6) (own : Option (BitVec 4)) (s : State), ∃ t u, exec (.taskSteal th own) s = .next t ∧
     t = { s with regs := t.regs, dsp := t.dsp } ∧
     (u = s ∨ ∃ e v, own = some e ∧ s.stealChoice th.toNat = some v ∧ u = s.shardPick v.tile e.toNat) ∧
     (t = u ∨ ∃ v, v ∈ u.dsp.tasks ∧ v.st = .ready ∧ v.pin = false ∧ v.moved = false ∧ 4 ≤ v.prio ∧
       v.tile ∈ neighbours th.toNat ∧
       (bitOf (u.img.pool v.pool) th.toNat || u.poolShort v.pool) = true ∧
         t = (u.setTask { v with st := .moving th.toNat }).count DSP_STEALCNT_STEALS 1)) ∧
  (∀ (th : BitVec 6) (s : State) (v : Task), s.mayStealAt th.toNat = true → s.stealChoice th.toNat = some v →
     s.taskOf v.tid = some v →
     exec (.taskSteal th none) s = .next ((s.setTask { v with st := .moving th.toNat }).count DSP_STEALCNT_STEALS 1)) ∧
  (∀ (th : BitVec 6) (e : BitVec 4) (s : State) (v : Task), s.mayStealAt th.toNat = true → s.stealChoice th.toNat = some v →
     s.engineTurn v.tile e.toNat = true → s.pick v.tile (16 * v.tile + e.toNat) = some v →
     exec (.taskSteal th (some e)) s = .next (s.handTask v v.tile (16 * v.tile + e.toNat))) ∧
  (∀ (th : BitVec 6) (s : State), (s.dsp.tasks.find? (fun k => k.st = .moving th.toNat) = none →
     exec (.taskStealDelivery th) s = .next s) ∧
     ∀ k, s.dsp.tasks.find? (fun k => k.st = .moving th.toNat) = some k → exec (.taskStealDelivery th) s =
       .next (s.makeReady k (s.readyTile { k with tile := th.toNat }) true)) ∧
  (∀ (tid : Word) (r : SliceResult) (s : State), (s.taskOf tid.toNat = none ∨ ∃ k, s.taskOf tid.toNat = some k ∧
     k.st.isRunning = false) →
     exec (.taskSliceEnd tid r) s = .next s) ∧
  (∀ (tid : Word) (s : State) (k : Task), s.taskOf tid.toNat = some k → k.st.isRunning = true →
     (k.cancel = true → ∀ r, exec (.taskSliceEnd tid r) s = .next (s.endTask k 1)) ∧
     (k.cancel = false → exec (.taskSliceEnd tid .done) s = .next (s.endTask k (if k.tmo then 2 else 0)) ∧
       exec (.taskSliceEnd tid .failed) s = .next (s.failTask k) ∧
       exec (.taskSliceEnd tid .yield) s = .next (s.makeReady k (s.readyTile k) false) ∧
       (∀ n, exec (.taskSliceEnd tid (.corrected n true)) s =
         .next ((s.count (TIL_TSERR_CORR k.tile) n.toNat).endTask k (if k.tmo then 2 else 0))) ∧
       (∀ o, exec (.taskSliceEnd tid (.wait true o)) s = .next (s.makeReady k (s.readyTile k) false)) ∧
       (k.waitBeats = 0 → ∀ o, exec (.taskSliceEnd tid (.wait false o)) s = .next (s.waitTimeout k)) ∧
       (k.waitBeats ≠ 0 → 512 ≤ (s.dsp.tasks.filter fun x => x.tile = k.tile && x.st = .waiting).length →
         ∀ o, exec (.taskSliceEnd tid (.wait false o)) s = .next (s.makeReady k (s.readyTile k) false)) ∧
       (k.waitBeats ≠ 0 → (s.dsp.tasks.filter fun x => x.tile = k.tile && x.st = .waiting).length < 512 →
         ∀ o, exec (.taskSliceEnd tid (.wait false o)) s = .next (s.setTask { k with
           st := .waiting, waitStart := s.glb.beat, waitOp := o ≠ .met, waitLow := o = .layered, tmo := false })))) ∧
  (∀ (s : State) (k : Task) (n : Nat), (s.endTask k n) = { s with dsp := (s.endTask k n).dsp } ∧
     (∀ j ∈ (s.endTask k n).dsp.tasks, j ∈ s.dsp.tasks ∧ j.tid ≠ k.tid) ∧
     (∀ g, k.producer = some g → (s.dsp.cpl.get g).length < 64 →
       (s.endTask k n).dsp.cpl.get g = s.dsp.cpl.get g ++ [(k.tid, n)])) ∧
  (∀ (tid : Word) (s : State), (s.taskOf tid.toNat = none ∨ ∃ k, s.taskOf tid.toNat = some k ∧ k.st ≠ .waiting) →
     (∀ r, exec (.waitConditionMet tid r) s = .next s) ∧
     ∀ r, exec (.waitTimeout tid r) s = .next s) ∧
  (∀ (tid r : Word) (s : State) (k : Task), s.taskOf tid.toNat = some k → k.st = .waiting →
     (k.waitLow = false ∨ k.waitEnd r.toNat ≠ s.glb.beat →
       exec (.waitConditionMet tid r) s = .next (if k.cancel then s.endTask k 1 else s.makeReady k (s.readyTile k) false)) ∧
     (k.waitLow = true → k.waitEnd r.toNat = s.glb.beat → k.cancel = false →
       ∃ t, t = (s.count DSP_TMOCNT_SUPPRESSED 1).event 0x0A0A (srcTile k.tile) ∧
         exec (.waitConditionMet tid r) s = .next (t.makeReady k (t.readyTile k) false))) ∧
  (∀ (tid : Word) (recovery : Word) (s : State) (k : Task), (s.taskOf tid.toNat = some k) →
     (¬ (k.st ≠ .waiting)) →
     (¬ (k.cancel)) →
     exec (.waitConditionMet tid recovery) s =
       .next (let s1 := if k.waitLow && decide (k.waitEnd recovery.toNat =
         s.glb.beat) then (s.count DSP_TMOCNT_SUPPRESSED 1).event 0x0A0A (srcTile k.tile) else s
       (s1.yieldTask k))) ∧
  (∀ (tid r : Word) (s : State) (k : Task), s.taskOf tid.toNat = some k → k.st = .waiting →
     (s.expired k.waitStart (min (k.waitBeats + (if k.waitLow then r.toNat else 0)) (10 * k.waitBeats)) = true →
       exec (.waitTimeout tid r) s = .next (if k.cancel then s.endTask k 1 else
         (((s.makeReady { k with tmo := true } (s.readyTile k) false).count DSP_TMOCNT_TIMEOUTS 1).event 0x0A09 (srcTile k.tile)).raise 21)) ∧
     (s.expired k.waitStart (min (k.waitBeats + (if k.waitLow then r.toNat else 0)) (10 * k.waitBeats)) = false →
       exec (.waitTimeout tid r) s = .next s)) ∧
  (∀ (g : Agent) (tid : Word) (s : State), (s.answers g = false ∨ s.taskOf tid.toNat = none ∨
     ∃ k, s.taskOf tid.toNat = some k ∧ k.producer ≠ some g) →
     exec (.taskCancel g tid .nothing) s = .next s) ∧
  (∀ (g : Agent) (tid : Word) (s : State) (k : Task), s.answers g = true → s.taskOf tid.toNat = some k →
     k.producer = some g →
     (k.st = .ready → exec (.taskCancel g tid .nothing) s = .next (s.endTask k 1)) ∧
     ((∃ th, k.st = .moving th) → exec (.taskCancel g tid .nothing) s = .next (s.endTask k 1)) ∧
     (k.st.isRunning = true → exec (.taskCancel g tid .nothing) s = .next (s.setTask { k with cancel := true })) ∧
     (k.st = .waiting → exec (.taskCancel g tid .nothing) s =
       .next (if k.waitOp then s.setTask { k with cancel := true } else s.endTask k 1))) ∧
  (∀ (g : Agent) (tid : Word) (s : State), ∃ t, exec (.taskCancel g tid .nothing) s = .next t ∧
     (∀ r, exec (.taskCancel g tid (.timeout r)) s = exec (.waitTimeout tid r) t) ∧
     (∀ th, exec (.taskCancel g tid (.steal th)) s = exec (.taskSteal th none) t) ∧
     (∀ tile e, exec (.taskCancel g tid (.pick tile e)) s = exec (.taskPick tile e) t)) ∧
  (∀ (g : Agent) (s : State), s.answers g = true →
     exec (.completionPop g) s = .next { s with dsp := { s.dsp with cpl := s.dsp.cpl.set g ((s.dsp.cpl.get g).drop 1) } }) ∧
  (∀ (g : Agent) (tile : BitVec 6) (s : State), s.answers g = false → exec (.taskSubmit g tile) s = .next s ∧
     exec (.completionPop g) s = .next s)

/-- TILE_QUIESCE of a tile that is off, out of service or already leaving changes nothing; with at most 23 others out it leaves at
the next boundary. TILE_OUT of a quiescing tile that holds no task and no entry shows it OUT with event 0x0A02, and loading
where a roll runs; else nothing. QUIESCE_TIMEOUT brings an overdue quiesce back with event 0x0A04, TILE_RETURN a tile that is
out; else nothing. MICROCODE_ROLL with no staged microcode, outside SERVE (then with a refusal recorded) or with a roll
running shows RESULT 5; ROLL_ABORT stops a running roll with RESULT 4, and tiles that it took and that have not begun to leave
stay. TILE_MICROCODE_LOADED and TILE_SELF_TEST_DONE act only on a loading and a testing tile. TILE_SELF_TEST_BOOT outside BOOT
changes nothing; in BOOT tile t is in service where bit t is 1 and the tile had not failed already, and failed elsewhere. -/
def Obligations.TilesLeaveReturnAndRoll : Prop :=
  (∀ (t : BitVec 6) (s : State), (s.domOn t.toNat = false ∨ s.inService t.toNat = false ∨
     s.dsp.leaving.contains t.toNat = true) →
     exec (.tileQuiesce t) s = .next s) ∧
  (∀ (t : BitVec 6) (s : State), s.domOn t.toNat = true ∧ s.inService t.toNat = true ∧
     s.dsp.leaving.contains t.toNat = false ∧ s.outCount + 1 ≤ 24 → exec (.tileQuiesce t) s =
     .next { s with dsp := { s.dsp with leaving := s.dsp.leaving ++ [t.toNat], waitQ := s.dsp.waitQ.erase t.toNat } }) ∧
  (∀ (t : BitVec 6) (s : State), s.tile t.toNat = 1 ∧ s.dsp.back.contains t.toNat = false ∧ s.shareOcc t.toNat = 0 ∧
     (∀ k ∈ s.dsp.tasks, k.tile ≠ t.toNat) → s.dsp.roll = none →
     exec (.tileOut t) s = .next ((s.set (TIL_STATUS_STATE t.toNat) 2).event 0x0A02 (srcTile t.toNat))) ∧
  (∀ (t : BitVec 6) (s : State), ¬(s.tile t.toNat = 1 ∧ s.dsp.back.contains t.toNat = false ∧ s.shareOcc t.toNat = 0 ∧
     (∀ k ∈ s.dsp.tasks, k.tile ≠ t.toNat)) → exec (.tileOut t) s = .next s) ∧
  (∀ (t : BitVec 6) (s : State), (s.tile t.toNat = 1 ∧ !s.dsp.back.contains t.toNat ∧ s.shareOcc t.toNat = 0 ∧
     !(s.dsp.tasks.any fun k => k.tile = t.toNat)) →
     s.rollLoads t.toNat →
     exec (.tileOut t) s =
       .next (let n := t.toNat
       let s1 := (s.set (TIL_STATUS_STATE n) 2).event 0x0A02 (srcTile n)
       ((s1.set (TIL_STATUS_STATE n) 3).updDsp fun d => { d with prevMc := Store.put 0 d.prevMc n (s.get (TIL_MCVER_VERSION n)) }))) ∧
  (∀ (t : BitVec 6) (s : State), s.tile t.toNat = 1 ∧
     s.expired (Store.get 0 s.dsp.since t.toNat - 1) (s.get DSP_CTRL_QUIESCE_BEATS) = true ∧
     s.dsp.back.contains t.toNat = false →
     exec (.quiesceTimeout t) s =
       .next ({ s with dsp := { s.dsp with back := s.dsp.back ++ [t.toNat] } }.event 0x0A04 (srcTile t.toNat))) ∧
  (∀ (t : BitVec 6) (s : State), ¬(s.tile t.toNat = 1 ∧
     s.expired (Store.get 0 s.dsp.since t.toNat - 1) (s.get DSP_CTRL_QUIESCE_BEATS) = true ∧
     s.dsp.back.contains t.toNat = false) → exec (.quiesceTimeout t) s = .next s) ∧
  (∀ (t : BitVec 6) (s : State), s.domOn t.toNat = true ∧ s.tile t.toNat = 2 ∧ s.dsp.back.contains t.toNat = false ∧
     s.dsp.kept.contains t.toNat = false →
     exec (.tileReturn t) s = .next (s.tileBack t.toNat)) ∧
  (∀ (t : BitVec 6) (s : State), ¬(s.domOn t.toNat = true ∧ s.tile t.toNat = 2 ∧ s.dsp.back.contains t.toNat = false ∧
     s.dsp.kept.contains t.toNat = false) → exec (.tileReturn t) s = .next s) ∧
  (∀ (s : State) (n : Nat), s.tileBack n = if s.glb.st = .grace ∨ s.glb.st = .drain then
       { s.set (TIL_STATUS_STATE n) 2 with dsp := { s.dsp with kept := s.dsp.kept ++ [n] } }
     else { s.set (TIL_STATUS_STATE n) 2 with dsp := { s.dsp with back := s.dsp.back ++ [n] } }) ∧
  (∀ (m : BitVec 5) (s : State),
     (s.glb.st ≠ .serve → exec (.microcodeRoll m) s = .next (((if 1 ≤ m.toNat ∧
       m.toNat ≤ 24 then s.set DSP_ROLL_MAXOUT m.toNat else s).set DSP_ROLLST_RESULT 5).logRefusal 0xA)) ∧
     (s.glb.st = .serve → ((∀ n, s.stw.staged ≠ some (2, n)) ∨ s.dsp.roll ≠ none) →
       exec (.microcodeRoll m) s = .next ((if 1 ≤ m.toNat ∧
       m.toNat ≤ 24 then s.set DSP_ROLL_MAXOUT m.toNat else s).set DSP_ROLLST_RESULT 5))) ∧
  (∀ (m : BitVec 5) (s : State) (n : Nat), s.stw.staged = some (2, n) → s.glb.st = .serve → s.dsp.roll = none →
     Store.wf 0 s.regs = true →
     ∃ t r, exec (.microcodeRoll m) s = .next t ∧ t.dsp.roll = some r ∧ r.version = s.stw.stagedVer ∧ r.slot = n ∧
       r.stopped = false ∧ r.done = [] ∧
       t.get DSP_ROLLST_RESULT = 1 ∧ t.get DSP_ROLLST_DONE = 0 ∧
         t = { s with regs := t.regs, irq := t.irq, evr := t.evr, mbx := t.mbx, dsp := t.dsp, out := t.out }) ∧
  (∀ (maxout : BitVec 5) (s : State) (slot : Nat), (s.stw.staged = some (2, slot)) →
     (¬ (s.glb.st ≠ .serve)) →
     (¬ (s.dsp.roll.isSome)) →
     exec (.microcodeRoll maxout) s =
       .next (let s0 := if 1 ≤ maxout.toNat ∧ maxout.toNat ≤ 24 then s.set DSP_ROLL_MAXOUT maxout.toNat else s
       let s1 := s0.updDsp fun d => { d with roll := some ⟨[], [], s.stw.stagedVer, slot, false, 1⟩ }
       (State.rollStep 64 ((s1.set DSP_ROLLST_RESULT 1).set DSP_ROLLST_DONE 0)))) ∧
  (∀ s : State, (s.dsp.roll = none → exec .rollAbort s = .next s) ∧ ∀ r, s.dsp.roll = some r → exec .rollAbort s =
     .next ({ s with dsp := { s.dsp with leaving := s.dsp.leaving.filter fun t => !r.took.contains t, roll := some { r with stopped := true, result := 4 } } }.set
       DSP_ROLLST_RESULT 4)) ∧
  (∀ (t : BitVec 6) (s : State), s.tile t.toNat = 3 →
     exec (.tileMicrocodeLoaded t) s = .next (s.set (TIL_STATUS_STATE t.toNat) 4)) ∧
  (∀ (t : BitVec 6) (s : State), ¬(s.tile t.toNat = 3) → exec (.tileMicrocodeLoaded t) s = .next s) ∧
  (∀ (t : BitVec 6) (p : Bool) (s : State), s.tile t.toNat ≠ 4 → exec (.tileSelfTestDone t p) s = .next s) ∧
  (∀ (t : BitVec 6) (s : State) (r : Roll), s.tile t.toNat = 4 → s.dsp.retried.contains t.toNat = false →
     s.dsp.roll = some r → s.glb.st ≠ .grace → s.glb.st ≠ .drain →
     (∃ u, exec (.tileSelfTestDone t true) s = .next u ∧ u.tile t.toNat = 2 ∧ u.dsp.back = s.dsp.back ++ [t.toNat] ∧
       u.dsp.mcFrom = Store.put 0 s.dsp.mcFrom t.toNat (r.slot + 1)) ∧
     exec (.tileSelfTestDone t false) s = .next { (s.set (TIL_STATUS_STATE t.toNat) 3).set DSP_ROLLST_FTILE t.toNat with
       dsp := { s.dsp with retried := s.dsp.retried ++ [t.toNat] } }) ∧
  (∀ (p : BitVec 64) (s : State), s.glb.st ≠ .boot → exec (.tileSelfTestBoot p) s = .next s) ∧
  (∀ (p : BitVec 64) (s : State), s.glb.st = .boot → Store.wf 0 s.regs = true → ∃ t, exec (.tileSelfTestBoot p) s = .next t ∧
     (∀ n, n < 64 → t.tile n = if p.getLsbD n && decide (s.tile n ≠ 5) then 0 else 5) ∧ t.dsp.tested = true ∧
       t = { s with regs := t.regs, irq := t.irq, evr := t.evr, mbx := t.mbx, dsp := t.dsp, out := t.out }) ∧
  (∀ (passed : BitVec 64) (s : State), (¬ (s.glb.st ≠ .boot)) →
     (¬ (ones 64 passed.toNat < 40)) →
     exec (.tileSelfTestBoot passed) s =
       .next (let mc := match s.roles with | some r => r.mc | none => 0
       let s1 := (List.range 64).foldl (fun t n =>
         (t.set (TIL_STATUS_STATE n) (if passed.getLsbD n && decide (s.tile n ≠ 5) then 0 else 5)).set (TIL_MCVER_VERSION n) (Config.microcodeVersion mc)) s
       let s2 := s1.updDsp fun d => { d with tested := true, mcFrom := (List.range 64).map fun n => (n, mc + 1) }
       let s3 := s2.moveBuckets
       s3)) ∧
  (∀ (passed : BitVec 64) (s : State), (¬ (s.glb.st ≠ .boot)) →
     (ones 64 passed.toNat < 40) →
     exec (.tileSelfTestBoot passed) s =
       .next (let mc := match s.roles with | some r => r.mc | none => 0
       let s1 := (List.range 64).foldl (fun t n =>
         (t.set (TIL_STATUS_STATE n) (if passed.getLsbD n && decide (s.tile n ≠ 5) then 0 else 5)).set (TIL_MCVER_VERSION n) (Config.microcodeVersion mc)) s
       let s2 := s1.updDsp fun d => { d with tested := true, mcFrom := (List.range 64).map fun n => (n, mc + 1) }
       let s3 := s2.moveBuckets
       (s3.event 0x0A0C 0)))

/-- BOOT_IMAGE_VALIDATE within a beat, outside BOOT, with an image active or no role record changes nothing; an active slot that
validates becomes the active image, and a MAC that the digest engine is to check waits for it. SHADE_VALIDATE outside SERVE is
refused with 0x30 (but on an unconfigured controller in BOOT it starts), with no shade 0x31, while a swap request is open
0x32; else SHADE shows validating. SHADE_VALIDATION_DONE acts only then, waits for the engine alike, and shows valid or
invalid. SWAP without the key changes nothing; outside SERVE it is refused with 0x30, with no valid shade 0x31; accepted, SWAP
shows 1 and the changed sections are guarded. SWAP_EFFECT before the last cycle of the beat before its boundary changes
nothing; there the shade is active and the old image retires. IMAGE_RELEASE drops the retired image at the end of its span
with event 0x0C05 and starts a held swap's wait. SWAP_CANCEL acts only before the role record is committed; ROLLBACK needs
key, SERVE, no open swap request and a sound archive. -/
def Obligations.ImagesValidateAndSwap : Prop :=
  (∀ s : State, (s.glb.cycle ≠ 0 ∨ s.glb.st ≠ .boot ∨ s.sti.active ≠ none ∨ s.roles = none) →
     exec .bootImageValidate s = .next s) ∧
  (∀ (s : State) (r : Roles), s.glb.cycle = 0 → s.glb.st = .boot → s.sti.active = none → s.roles = some r →
     (s.macNeeded r.act = false ∨ (s.dgeTake .image).1 = true) → ∃ t, exec .bootImageValidate s = .next t ∧
     t.stw = s.stw ∧ t.pq = s.pq ∧ t.cch = s.cch ∧ t.ldg = s.ldg ∧ t.drn = s.drn ∧ t.vlt = s.vlt ∧ t.rst = s.rst ∧
       t.mtx = s.mtx ∧ (∀ im, (s.validate r.act false).2 = some im → t.sti.active = some im)) ∧
  (∀ (s : State) (r : Roles), s.glb.cycle = 0 → s.glb.st = .boot → s.sti.active = none → s.roles = some r →
     exec .bootImageValidate s = .next (
       match s.validateStep r.act false with
       | (none, t) => t
       | (some (_, some im), t) => (t.bootActivate im).checkArchive r.arc
       | (some (v, none), t) =>
         if 9 < v.code then t.bootRefuse v
         else match t.validateStep r.arc false with
           | (none, u) => u
           | (some (w, none), u) => (u.bootRefuse v).bootRefuse w
           | (some (_, some im), u) =>
             (((((u.bootRefuse v).flashWrite (.role .fall)).setB STI_STATUS_BOOTFALL true).event 0x0C06 0).bootActivate im).checkArchive r.act)) ∧
  (∀ s : State, (s.glb.st = .boot ∧ s.unconfigured = true ∧ s.sti.active = none →
     exec .shadeValidate s = .next (s.set STI_STATUS_SHADE 2)) ∧
     (s.glb.st ≠ .boot → s.glb.st ≠ .serve → exec .shadeValidate s = .next ((s.stiRefuse ⟨0x30, 0, 0⟩).logRefusal 0xC)) ∧
     (s.glb.st = .serve → s.get STI_STATUS_SHADE = 0 → exec .shadeValidate s = .next (s.stiRefuse ⟨0x31, 0, 0⟩)) ∧
     (s.glb.st = .serve → s.get STI_STATUS_SHADE ≠ 0 → s.get STI_STATUS_SWAP = 1 ∨ s.get STI_STATUS_SWAP = 2 →
       exec .shadeValidate s = .next (s.stiRefuse ⟨0x32, 0, 0⟩)) ∧
     (s.glb.st = .serve → s.get STI_STATUS_SHADE ≠ 0 → ¬(s.get STI_STATUS_SWAP = 1 ∨ s.get STI_STATUS_SWAP = 2) →
       exec .shadeValidate s =
       .next ((({ s with sti := { s.sti with shade := none } } : State).set STI_STATUS_SHADE 2).set STI_STATUS_CHANGED 0))) ∧
  (∀ s : State, (s.get STI_STATUS_SHADE ≠ 2 ∨ s.roleBusy = true) → exec .shadeValidationDone s = .next s) ∧
  (∀ (s : State) (r : Roles), s.get STI_STATUS_SHADE = 2 → s.roleBusy = false → s.roles = some r →
     (s.macNeeded r.shd = false ∨ (s.dgeTake .image).1 = true) → ∃ t, exec .shadeValidationDone s = .next t ∧
     t.pq = s.pq ∧ t.cch = s.cch ∧ t.vlt = s.vlt ∧ t.stw = s.stw ∧ t.mtx = s.mtx ∧ t.sti.active = s.sti.active ∧
     (∀ im, (s.validate r.shd (!s.sti.rollback)).2 = some im → t.sti.shade = some im ∧ t.get STI_STATUS_SHADE = 3) ∧
     ((s.validate r.shd (!s.sti.rollback)).2 = none → t.sti = s.sti ∧ t.get STI_STATUS_SHADE = 4)) ∧
  (∀ (s : State) (r : Roles), s.get STI_STATUS_SHADE = 2 → s.roleBusy = false → s.roles = some r →
     exec .shadeValidationDone s = .next (
       let after := fun (t : State) => if s.sti.rollback then t.checkArchive r.arc else t
       match s.validateStep r.shd (!s.sti.rollback) with
       | (none, t) => t
       | (some (v, none), t) => after (((t.set STI_STATUS_SHADE 4).stiRefuse v).event 0x0C02 0)
       | (some (_, some im), t) => after (((((t.updSti fun x => { x with shade := some im }).set STI_STATUS_CHANGED (changedMask s.img im)).set
           STI_STATUS_SHADE 3).event 0x0C01 0)))) ∧
  (∀ (key : BitVec 16) (s : State), (key.toNat ≠ 0x5357 → exec (.swap key) s = .next s ∧ exec (.rollback key) s = .next s) ∧
     (key.toNat = 0x5357 → s.glb.st ≠ .serve → exec (.swap key) s = .next ((s.stiRefuse ⟨0x30, 0, 0⟩).logRefusal 0xC) ∧
       exec (.rollback key) s = .next ((s.stiRefuse ⟨0x30, 0, 0⟩).logRefusal 0xC)) ∧
     (key.toNat = 0x5357 → s.glb.st = .serve → s.sti.shade = none ∨ s.roles = none →
       exec (.swap key) s = .next (s.stiRefuse ⟨0x31, 0, 0⟩)) ∧
     (key.toNat = 0x5357 → s.glb.st = .serve → (s.get STI_STATUS_SWAP = 1 ∨ s.get STI_STATUS_SWAP = 2) →
       exec (.rollback key) s = .next (s.stiRefuse ⟨0x32, 0, 0⟩))) ∧
  (∀ (key : BitVec 16) (s : State) (sh : Image) (r : Roles), key.toNat = 0x5357 ∧ s.glb.st = .serve ∧ s.sti.shade = some sh ∧
     s.roles = some r ∧ s.get STI_STATUS_SHADE = 3 ∧ s.get STI_STATUS_SWAP = 0 →
     (s.swapCode s.img sh ≠ 0 → exec (.swap key) s = .next (s.stiRefuse ⟨s.swapCode s.img sh, 0, 0⟩)) ∧
     (s.swapCode s.img sh = 0 → ∃ t, exec (.swap key) s = .next t ∧ t.get STI_STATUS_SWAP = 1 ∧ t.sti = { s.sti with
       guardSecs := changedMask s.img sh,
         guardClasses := guardMask s.img sh,
         requested := none } ∧ t.glb = s.glb ∧ t.dge = s.dge ∧ t.stw = s.stw ∧ t.pq = s.pq ∧ t.hp = s.hp ∧ t.cch = s.cch ∧ t.dsp = s.dsp ∧ t.ldg = s.ldg ∧ t.ctl = s.ctl ∧ t.seq = s.seq ∧ t.drn = s.drn ∧ t.vlt = s.vlt ∧ t.rst = s.rst ∧ t.mlk = s.mlk ∧ t.mtx = s.mtx)) ∧
  (∀ s : State, (∀ p, s.cfl.op = some (.internal (.role p)) → exec .roleRecordCommitted s = .next (s.flashDone .verified)) ∧
     ((∀ p, s.cfl.op ≠ some (.internal (.role p))) → exec .roleRecordCommitted s = .next s)) ∧
  (∀ s : State, (s.glb.cycle ≠ 399 → exec .swapEffect s = .next s ∧ exec .imageRelease s = .next s) ∧
     (s.sti.requested = none ∨ s.sti.shade = none ∨ s.get STI_STATUS_SWAP ≠ 2 ∨ s.glb.st ≠ .serve ∨
       (∃ b, s.sti.requested = some b ∧ s.glb.beat + 1 < b) →
       exec .swapEffect s = .next s)) ∧
  (∀ (s : State) (b : Nat) (sh : Image), s.glb.cycle = 399 ∧ s.sti.requested = some b ∧ s.sti.shade = some sh ∧
     s.get STI_STATUS_SWAP = 2 ∧ b ≤ s.glb.beat + 1 ∧ s.glb.st = .serve → ∃ t, exec .swapEffect s = .next t ∧
     t.sti = { s.sti with
       active := some sh, shade := none,
         retiring := s.sti.active,
         releaseBeat := s.glb.beat + 1 + 3, requested := none, guardSecs := 0, guardClasses := 0, rollback := false } ∧
     t.get STI_STATUS_SWAP = 3 ∧ t.get STI_STATUS_DONE = 1 ∧ t.stw = s.stw ∧ t.cch = s.cch ∧ t.drn = s.drn ∧ t.vlt = s.vlt ∧
       t.rst = s.rst) ∧
  (∀ (s : State), (s.glb.cycle = 399) →
     exec .swapEffect s =
       .next (((s.inBeat (s.glb.beat + 1)).swapPass.inBeat s.glb.beat))) ∧
  (∀ s : State, s.glb.cycle = 399 → s.sti.retiring ≠ none → s.sti.releaseBeat ≤ s.glb.beat + 1 → ¬(s.get STI_STATUS_SWAP = 2 ∧
     s.sti.requested = none) →
     exec .imageRelease s = .next ((((s.updGlb fun g => { g with beat := s.glb.beat + 1 }).updSti fun x => { x with retiring := none }).set
       STI_STATUS_SWAP 0).event 0x0C05 0 |>.inBeat s.glb.beat)) ∧
  (∀ s : State, s.glb.cycle = 399 → s.sti.retiring ≠ none → s.sti.releaseBeat ≤ s.glb.beat + 1 → s.get STI_STATUS_SWAP = 2 →
     s.sti.requested = none →
     exec .imageRelease s = .next ((((s.updGlb fun g => { g with beat := s.glb.beat + 1 }).updSti fun x => { x with
       retiring := none, requested := some (s.glb.beat + 1 + 1) }).event 0x0C05 0).inBeat s.glb.beat)) ∧
  (∀ s : State, s.sti.retiring = none ∨ s.glb.beat + 1 < s.sti.releaseBeat → exec .imageRelease s = .next s) ∧
  (∀ s : State, s.get STI_STATUS_SWAP ≠ 1 → exec .swapCancel s = .next s) ∧
  (∀ s : State, s.get STI_STATUS_SWAP = 1 → Store.wf 0 s.regs = true → ∃ t, exec .swapCancel s = .next t ∧
     t.get STI_STATUS_SWAP = 0 ∧ t.get STI_REASON_CODE = 0x3C ∧
     t.sti = { s.sti with requested := none, guardSecs := 0, guardClasses := 0 } ∧ t.cfl.bytes = s.cfl.bytes ∧ t.glb = s.glb ∧
       t.dge = s.dge ∧ t.stw = s.stw ∧ t.pq = s.pq ∧ t.hp = s.hp ∧ t.cch = s.cch ∧ t.dsp = s.dsp ∧ t.ldg = s.ldg ∧
       t.ctl = s.ctl ∧ t.seq = s.seq ∧ t.drn = s.drn ∧ t.vlt = s.vlt ∧ t.rst = s.rst ∧ t.mlk = s.mlk ∧ t.mtx = s.mtx) ∧
  (∀ (s : State), (¬ (s.get STI_STATUS_SWAP ≠ 1)) →
     exec .swapCancel s =
       .next (((s.swapClear.stiReason ⟨0x3C, 0, 0⟩).updCfl Cfl.dropSwap).flashNext)) ∧
  (∀ (key : BitVec 16) (s : State) (r : Roles), key.toNat = 0x5357 → s.glb.st = .serve → ¬(s.get STI_STATUS_SWAP = 1 ∨
     s.get STI_STATUS_SWAP = 2) → s.roles = some r → ∃ t, exec (.rollback key) s = .next t ∧
     t.glb = s.glb ∧ t.stw = s.stw ∧ t.pq = s.pq ∧ t.hp = s.hp ∧ t.cch = s.cch ∧ t.dsp = s.dsp ∧ t.ldg = s.ldg ∧
       t.ctl = s.ctl ∧ t.seq = s.seq ∧ t.drn = s.drn ∧ t.vlt = s.vlt ∧ t.rst = s.rst ∧ t.mlk = s.mlk ∧ t.mtx = s.mtx ∧
       (s.archOk r.arc = true → t.sti = { s.sti with shade := none, rollback := true } ∧ t.get STI_STATUS_SHADE = 2) ∧
     (s.archOk r.arc = false → t.sti = s.sti ∧ t.get STI_REASON_CODE = 0x31)) ∧
  (∀ (key : BitVec 16) (s : State) (r : Roles), key = 0x5357 → s.glb.st = .serve → ¬(s.get STI_STATUS_SWAP = 1 ∨
     s.get STI_STATUS_SWAP = 2) → s.roles = some r →
     exec (.rollback key) s = .next (
       let s0 := s.checkArchive r.arc
       if s.archOk r.arc then
         let s1 := (s0.updSti fun x => { x with shade := none, rollback := true }).flashWrite (.role .exchange)
         let s2 := (s1.set STI_STATUS_SHADE 2).set STI_STATUS_CHANGED 0
         (s2.set64 STI_GEN_SHD_LO_VALUE STI_GEN_SHD_HI_VALUE (leAt (s.slotBytes r.arc) 16 8)).event 0x0C07 0
       else s0.stiRefuse ⟨0x31, 0, 0⟩)) ∧
  (∀ (key : BitVec 16) (s : State) (sh : Image) (r : Roles), key = 0x5357 → s.glb.st = .serve → s.sti.shade = some sh →
     s.roles = some r →
     s.get STI_STATUS_SHADE = 3 → s.get STI_STATUS_SWAP = 0 → s.swapCode s.img sh = 0 → exec (.swap key) s = .next (
       let s1 := s.updSti fun x => { x with
         guardSecs := changedMask s.img sh, guardClasses := guardMask s.img sh, requested := none }
       (s1.set STI_STATUS_SWAP 1).flashWrite (.role .swap)))

/-- Where the flash does not answer the agent no sequence command has an effect. NATIVE_CMD0 takes the writes of its cycle in the
order steward, port A, port B. Outside a sequence of its own one without 0x5AFE in bits 31:16 changes nothing. With nothing
open, running or queued it opens a sequence of its agent; a queued internal write starts first and the agent gets OWNED (5),
as it does while another's sequence or operation, or the controller's, holds the interface; its own open sequence ends with
SEQ_ERR (4), its own running operation goes on. NATIVE_CMD1 and a data write with no sequence of the agent change nothing; the
right CMD1 word moves to step 2, any other ends the sequence with 4; a full, aligned word of the sequence's page joins it, one
outside the page or a second one of an erase or blank check ends it with RANGE (7), any other write with 4. PROGRAM,
ERASE_SECTOR and BLANK_CHECK with no sequence of the agent change nothing, with a wrong word, step or command end it with 4,
with no word end with OK for PROGRAM and 4 else; then a PROGRAM onto a word that is not blank ends NOT_BLANK (2), a sector the
agent may not write PROTECTED (3), a worn one WORN (10), a PROGRAM of a half-erased one answers BUSY (1) and starts nothing,
and else the operation runs with BUSY. The compatibility commands act alike: ignored with compatibility off; keys 0xAA and
0x55 open, a wrong key ends or answers 4, another agent's or a held interface answers 5; an address runs an erase or blank
check or goes to a program's word, which runs it; abort drops the sequence. FLASH_SEQUENCE_TIMEOUT ends a sequence after 1,000
beats without a write, with TIMEOUT (6) and event 0x0D06. -/
def Obligations.FlashSequences : Prop :=
  (∀ (g : Agent) (w : Word) (off : BitVec 26) (f : Bool) (a : BitVec 26) (s : State), s.flashAnswers g = false →
     exec (.nativeCmd0 g w []) s = .next s ∧ exec (.nativeCmd1 g w) s = .next s ∧
       exec (.nativeDataWrite g off w f) s = .next s ∧ exec (.program g w) s = .next s ∧
     exec (.eraseSector g w) s = .next s ∧ exec (.blankCheck g w) s = .next s ∧ exec (.compatKeyWrite g w) s = .next s ∧
       exec (.compatProgramWord g w) s = .next s ∧
     exec (.compatEraseSector g a) s = .next s ∧ exec (.compatBlankCheck g a) s = .next s ∧ exec (.compatAbort g) s = .next s) ∧
  (∀ (g : Agent) (w : Word) (s : State), w.toNat / 65536 ≠ 0x5AFE → (∀ q, s.cfl.seq = some q → q.agent ≠ g) →
     exec (.nativeCmd0 g w []) s = .next s) ∧
  (∀ (g : Agent) (w : Word) (s : State) (q : NatSeq), s.flashAnswers g = true → s.cfl.seq = some q → q.agent = g →
     exec (.nativeCmd0 g w []) s = .next (s.endSeq q 4)) ∧
  (∀ (g : Agent) (w : Word) (s : State), s.flashAnswers g = true → w.toNat / 65536 = 0x5AFE → s.cfl.seq = none →
     s.cfl.compat = none → s.cfl.op = none →
     (s.cfl.queue = [] → exec (.nativeCmd0 g w []) s =
       .next (s.backErase.updCfl fun c => { c with seq := some ⟨g, w.toNat % 256, 1, [], s.glb.beat⟩ })) ∧
     (s.cfl.queue ≠ [] → exec (.nativeCmd0 g w []) s = .next (s.flashNext.flashResult g 5 0))) ∧
  (∀ (g : Agent) (w : Word) (s : State), s.flashAnswers g = true → w.toNat / 65536 = 0x5AFE →
     (∀ q, s.cfl.seq = some q → q.agent ≠ g → exec (.nativeCmd0 g w []) s = .next (s.flashResult g 5 0)) ∧
     (∀ c, s.cfl.seq = none → s.cfl.compat = some c →
       exec (.nativeCmd0 g w []) s = .next (if c.agent = g then s.endCompat 4 else s.flashResult g 5 0)) ∧
     (∀ o, s.cfl.seq = none → s.cfl.compat = none → s.cfl.op = some o →
       exec (.nativeCmd0 g w []) s = .next (if o.owner = ownerCode g then s else s.flashResult g 5 0))) ∧
  (∀ (g : Agent) (w : Word) (also : List (Agent × Word)) (s : State), exec (.nativeCmd0 g w also) s =
     .next ((((((g, w) :: also).filter fun x => x.1 = .stw) ++ (((g, w) :: also).filter fun x => x.1 = .hostA) ++
       (((g, w) :: also).filter fun x => x.1 = .hostB)).foldl State.cmd0 s))) ∧
  (∀ (g : Agent) (w : Word) (off : BitVec 26) (f : Bool) (s : State), (s.cfl.seq = none ∨ ∃ q, s.cfl.seq = some q ∧
     q.agent ≠ g) →
     exec (.nativeCmd1 g w) s = .next s ∧ exec (.nativeDataWrite g off w f) s = .next s ∧ exec (.program g w) s = .next s ∧
     exec (.eraseSector g w) s = .next s ∧ exec (.blankCheck g w) s = .next s) ∧
  (∀ (w : Word) (s : State) (q : NatSeq), s.flashAnswers q.agent = true → s.cfl.seq = some q →
     (q.step = 1 → w.toNat = 0xA5A50000 + (q.cc ^^^ 0xFF) →
       exec (.nativeCmd1 q.agent w) s = .next { s with cfl := { s.cfl with
       seq := some { q with step := 2, last := s.glb.beat } } }) ∧
     (q.step ≠ 1 ∨ w.toNat ≠ 0xA5A50000 + (q.cc ^^^ 0xFF) → exec (.nativeCmd1 q.agent w) s = .next (s.endSeq q 4))) ∧
  (∀ (off : BitVec 26) (w : Word) (s : State) (q : NatSeq), s.flashAnswers q.agent = true → s.cfl.seq = some q → q.step = 2 →
     off.toNat / 65536 ≠ 1023 → off.toNat % 4 = 0 →
     (q.words = [] ∨ (q.cc = 0x10 ∧ ∃ f, q.words.getLast? = some f ∧ f.1 / 256 = off.toNat / 256 ∧
       ∀ x ∈ q.words, x.1 ≠ off.toNat)) →
     exec (.nativeDataWrite q.agent off w true) s = .next { s with cfl := { s.cfl with
       seq := some { q with words := (off.toNat, w.toNat) :: q.words, last := s.glb.beat } } }) ∧
  (∀ (off : BitVec 26) (w : Word) (f : Bool) (s : State) (q : NatSeq), s.flashAnswers q.agent = true → s.cfl.seq = some q →
     (f = false ∨ q.step ≠ 2 ∨ off.toNat / 65536 = 1023 ∨ off.toNat % 4 ≠ 0 →
       exec (.nativeDataWrite q.agent off w f) s = .next (s.endSeq q 4)) ∧
     (∀ x, q.step = 2 → off.toNat / 65536 ≠ 1023 → off.toNat % 4 = 0 → q.words.getLast? = some x → (q.cc ≠ 0x10 ∨
       x.1 / 256 ≠ off.toNat / 256) →
       exec (.nativeDataWrite q.agent off w true) s = .next (s.endSeq q 7)) ∧
     (∀ x, q.step = 2 → off.toNat / 65536 ≠ 1023 → off.toNat % 4 = 0 → q.words.getLast? = some x → q.cc = 0x10 →
       x.1 / 256 = off.toNat / 256 →
       (∃ y ∈ q.words, y.1 = off.toNat) → exec (.nativeDataWrite q.agent off w true) s = .next (s.endSeq q 4))) ∧
  (∀ (s : State) (q : NatSeq) (w : Word), s.flashAnswers q.agent = true → s.cfl.seq = some q →
     (q.step ≠ 2 ∨ q.cc ≠ 0x10 ∨ w.toNat ≠ 0x600D0010 → exec (.program q.agent w) s = .next (s.endSeq q 4)) ∧
     (q.step ≠ 2 ∨ q.cc ≠ 0x20 ∨ w.toNat ≠ 0x600D0020 ∨ q.words = [] →
       exec (.eraseSector q.agent w) s = .next (s.endSeq q 4)) ∧
     (q.step ≠ 2 ∨ q.cc ≠ 0x30 ∨ w.toNat ≠ 0x600D0030 ∨ q.words = [] →
       exec (.blankCheck q.agent w) s = .next (s.endSeq q 4)) ∧
     (q.step = 2 → q.cc = 0x10 → w.toNat = 0x600D0010 → q.words = [] →
       exec (.program q.agent w) s =
         .next (({ s with cfl := { s.cfl with seq := none } } : State).flashResult q.agent 0 0).flashNext)) ∧
  (∀ (s s0 : State) (q : NatSeq) (x : Nat × Nat) (l : List (Nat × Nat)), s.flashAnswers q.agent = true → s.cfl.seq = some q →
     q.step = 2 → q.words = x :: l →
     s0 = { s with cfl := { s.cfl with seq := none } } →
     (∀ w : Word, q.cc = 0x10 → w.toNat = 0x600D0010 →
       (s.mayWrite q.agent (x.1 / 65536) = true ∧ bitOf s.cfl.worn (x.1 / 65536) = false ∧
         bitOf s.cfl.half (x.1 / 65536) = false ∧ (∃ y ∈ q.words, s.cfl.read y.1 4 ≠ [0xFF, 0xFF, 0xFF, 0xFF]) →
         exec (.program q.agent w) s = .next (s0.flashResult q.agent 2 (x.1 / 65536)).flashNext) ∧
       (¬(s.mayWrite q.agent (x.1 / 65536) = true ∧ bitOf s.cfl.worn (x.1 / 65536) = false ∧
         bitOf s.cfl.half (x.1 / 65536) = false ∧ (∃ y ∈ q.words, s.cfl.read y.1 4 ≠ [0xFF, 0xFF, 0xFF, 0xFF])) →
         exec (.program q.agent w) s =
         .next (s0.startOp q.agent false (x.1 / 65536) true (.program q.agent false (x.1 / 65536) q.words)))) ∧
     (∀ w : Word, q.cc = 0x20 → w.toNat = 0x600D0020 → exec (.eraseSector q.agent w) s =
       .next (s0.startOp q.agent false (x.1 / 65536) false (.erase q.agent false (x.1 / 65536) 1))) ∧
     (∀ w : Word, q.cc = 0x30 → w.toNat = 0x600D0030 → exec (.blankCheck q.agent w) s =
       .next (s0.startOp q.agent false (x.1 / 65536) false (.blank q.agent false (x.1 / 65536))))) ∧
  (∀ (s : State) (g : Agent) (sec : Nat) (p : Bool) (o : FlashOp),
     (s.mayWrite g sec = false → s.startOp g false sec p o = (s.flashResult g 3 sec).flashNext ∧
       s.startOp g true sec p o = (s.compatResult 3).flashNext) ∧
     (s.mayWrite g sec = true → bitOf s.cfl.worn sec = true →
       s.startOp g false sec p o = (s.flashResult g 10 sec).flashNext ∧
       s.startOp g true sec p o = (s.compatResult 10).flashNext) ∧
     (s.mayWrite g sec = true → bitOf s.cfl.worn sec = false → bitOf s.cfl.half sec = true → p = true →
       s.startOp g false sec p o = (s.flashResult g 1 sec).flashNext ∧
         s.startOp g true sec p o = (s.compatResult 1).flashNext) ∧
     (s.mayWrite g sec = true → bitOf s.cfl.worn sec = false → bitOf s.cfl.half sec = false ∨ p = false →
       (∀ a b c d, o ≠ .erase a b c d) →
       s.startOp g false sec p o = ({ s with cfl := { s.cfl with op := some o } } : State).flashResult g 1 sec ∧
       s.startOp g true sec p o = ({ s with cfl := { s.cfl with op := some o } } : State).compatResult 1) ∧
     (∀ c, s.mayWrite g sec = true → bitOf s.cfl.worn sec = false →
       s.startOp g false sec false (.erase g c sec 1) =
         ({ s with cfl := { s.cfl with op := some (.erase g c sec 1), flags := setBit s.cfl.flags sec } } : State).flashResult g 1 sec ∧
       s.startOp g true sec false (.erase g c sec 1) =
         ({ s with cfl := { s.cfl with op := some (.erase g c sec 1), flags := setBit s.cfl.flags sec } } : State).compatResult 1)) ∧
  (∀ s : State, (∀ q, s.cfl.seq = some q → exec .flashSequenceTimeout s =
     .next (if s.expired q.last 1000 then (s.endSeq q 6).event 0x0D06 0 else s)) ∧
     (∀ q, s.cfl.seq = none → s.cfl.compat = some q →
       exec .flashSequenceTimeout s = .next (if s.expired q.last 1000 then (s.endCompat 6).event 0x0D06 0 else s)) ∧
     (s.cfl.seq = none → s.cfl.compat = none → exec .flashSequenceTimeout s = .next s)) ∧
  (∀ (g : Agent) (w : Word) (a : BitVec 26) (s : State), (s.bit CFL_CTRL_COMPAT = false →
     exec (.compatKeyWrite g w) s = .next s) ∧
     (s.bit CFL_CTRL_COMPAT = false ∨ s.cfl.compat = none ∨ (∃ c, s.cfl.compat = some c ∧ c.agent ≠ g) →
       exec (.compatProgramWord g w) s = .next s ∧
       exec (.compatEraseSector g a) s = .next s ∧ exec (.compatBlankCheck g a) s = .next s ∧
         exec (.compatAbort g) s = .next s)) ∧
  (∀ (g : Agent) (w : Word) (s : State), s.flashAnswers g = true → s.bit CFL_CTRL_COMPAT = true →
     (s.cfl.compat = none → s.cfl.seq = none → s.cfl.op = none → s.cfl.queue = [] → exec (.compatKeyWrite g w) s =
       .next (if w.toNat % 256 =
         0xAA then { s with cfl := { s.cfl with compat := some ⟨g, 1, 0, 0, s.glb.beat⟩ } } else s.compatResult 4)) ∧
     (s.cfl.compat = none → s.cfl.seq = none → s.cfl.op = none → s.cfl.queue ≠ [] →
       exec (.compatKeyWrite g w) s = .next (s.flashNext.compatResult 5)) ∧
     (s.cfl.compat = none → s.cfl.seq ≠ none ∨ s.cfl.op ≠ none → exec (.compatKeyWrite g w) s = .next (s.compatResult 5)) ∧
     (∀ c, s.cfl.compat = some c → (c.agent ≠ g → exec (.compatKeyWrite g w) s = .next (s.compatResult 5)) ∧
       (c.agent = g → exec (.compatKeyWrite g w) s = .next (if c.step = 1 ∧ w.toNat % 256 = 0x55 then
         { s with cfl := { s.cfl with compat := some { c with step := 2, last := s.glb.beat } } } else s.endCompat 4)))) ∧
  (∀ (w : Word) (a : BitVec 26) (s s0 : State) (c : CompatSeq), s.flashAnswers c.agent = true → s.bit CFL_CTRL_COMPAT = true →
     s.cfl.compat = some c → s0 = { s with cfl := { s.cfl with compat := none } } →
     (c.step ≠ 4 → exec (.compatProgramWord c.agent w) s = .next (s.endCompat 4)) ∧
     (c.step = 4 → s.mayWrite c.agent (c.addr / 65536) = true ∧ bitOf s.cfl.worn (c.addr / 65536) = false ∧
       bitOf s.cfl.half (c.addr / 65536) = false ∧ s.cfl.read c.addr 4 ≠ [0xFF, 0xFF, 0xFF, 0xFF] →
       exec (.compatProgramWord c.agent w) s = .next (s0.compatResult 2).flashNext) ∧
     (c.step = 4 → ¬(s.mayWrite c.agent (c.addr / 65536) = true ∧ bitOf s.cfl.worn (c.addr / 65536) = false ∧
       bitOf s.cfl.half (c.addr / 65536) = false ∧ s.cfl.read c.addr 4 ≠ [0xFF, 0xFF, 0xFF, 0xFF]) →
       exec (.compatProgramWord c.agent w) s =
       .next (s0.startOp c.agent true (c.addr / 65536) true (.program c.agent true (c.addr / 65536) [(c.addr, w.toNat)]))) ∧
     (c.step ≠ 3 → exec (.compatEraseSector c.agent a) s = .next (s.endCompat 4) ∧
       exec (.compatBlankCheck c.agent a) s = .next (s.endCompat 4)) ∧
     (c.step = 3 → c.cmd = 0x80 → exec (.compatEraseSector c.agent a) s =
       .next (s0.startOp c.agent true (a.toNat / 65536) false (.erase c.agent true (a.toNat / 65536) 1))) ∧
     (c.step = 3 → c.cmd = 0x70 → exec (.compatBlankCheck c.agent a) s =
       .next (s0.startOp c.agent true (a.toNat / 65536) false (.blank c.agent true (a.toNat / 65536)))) ∧
     (c.step = 3 → c.cmd ≠ 0x80 → c.cmd ≠ 0x70 → exec (.compatEraseSector c.agent a) s =
       .next { s with cfl := { s.cfl with compat := some { c with step := 4, addr := a.toNat, last := s.glb.beat } } } ∧
       exec (.compatBlankCheck c.agent a) s = exec (.compatEraseSector c.agent a) s) ∧
     exec (.compatAbort c.agent) s = .next s0.flashNext)

/-- No sequence command, timeout, scan or selector request changes a byte of the array. A PROGRAM that completes verified writes
its words over what stands; one that fails or runs late leaves open values in those words only and answers FAILED. An erase
that completes verified leaves its sector all ones and the other sectors as they were; a failed attempt before the fourth is
tried again; the fourth, or one that runs late, leaves the sector open and the other sectors as they were. An internal write
commits or fails, and with nothing running a completion changes nothing. Programming bytes changes bits from 1 to 0 only, and
only in the bytes programmed. FLAG_SCAN with domain 95 off, or once the interface is ready, changes nothing; else every
flagged sector is half-erased and no sector worn. BOOT_SELECT of another agent than the steward, without the key or where the
flash does not answer changes nothing; the steward's queues one selector record. -/
def Obligations.OnlyCompletionsChangeFlash : Prop :=
  (∀ (c : Instr) (s t : State), (match c with
       | .nativeCmd0 _ _ _ | .nativeCmd1 _ _ | .nativeDataWrite _ _ _ _ | .program _ _ | .eraseSector _ _ | .blankCheck _ _ | .flashSequenceTimeout
       | .compatKeyWrite _ _ | .compatProgramWord _ _ | .compatEraseSector _ _ | .compatBlankCheck _ _ | .compatAbort _ | .flagScan | .bootSelect _ _ _ => True
       | _ => False) → exec c s = .next t → t.cfl.bytes = s.cfl.bytes ∧ t.glb = s.glb ∧ t.pq = s.pq) ∧
  (∀ (s : State) (g : Agent) (k : Bool) (sec : Nat) (l : List (Nat × Nat)), s.cfl.op = some (.program g k sec l) →
     (∃ t, exec (.flashOperationComplete .verified) s = .next t ∧ t.cfl.bytes = (s.cfl.programWords l).bytes ∧
       t.glb = s.glb) ∧
     (∀ h, h ≠ .verified → ∃ t, exec (.flashOperationComplete h) s = .next t ∧
       t.cfl.bytes = (s.cfl.programWords (openWords (Config.freeValue s.glb.free) l)).bytes ∧
         t.glb = { s.glb with free := s.glb.free + 1 } ∧
       (k = true → t.get CFL_COMPAT_STAT_CODE = 8))) ∧
  (∀ (s : State) (g : Agent) (k : Bool) (sec n : Nat), s.cfl.op = some (.erase g k sec n) →
     (∃ t, exec (.flashOperationComplete .verified) s = .next t ∧
       ∀ a, Store.get 0xFF t.cfl.bytes a = if a / 65536 = sec then 0xFF else Store.get 0xFF s.cfl.bytes a) ∧
     (n < 4 → exec (.flashOperationComplete .failed) s =
       .next { s with cfl := { s.cfl with op := some (.erase g k sec (n + 1)) } }) ∧
     (∀ h, h ≠ .verified → 4 ≤ n ∨ h = .late → ∃ t, exec (.flashOperationComplete h) s = .next t ∧
       ∀ a, a / 65536 ≠ sec → Store.get 0xFF t.cfl.bytes a = Store.get 0xFF s.cfl.bytes a)) ∧
  (∀ (s s0 : State), s0 = { s with cfl := { s.cfl with op := none } } →
     (∀ g k sec, s.cfl.op = some (.blank g k sec) → ∀ h, exec (.flashOperationComplete h) s = .next (
       let code := if h ≠ .verified then 8 else if s.cfl.blank sec then 0 else 2
       if k then (s0.compatResult code).flashNext else (s0.flashResult g code sec).flashNext)) ∧
     (∀ w, s.cfl.op = some (.internal w) → exec (.flashOperationComplete .verified) s = .next (s0.commitWrite w).flashNext ∧
       exec (.flashOperationComplete .failed) s = .next (s0.failWrite w).flashNext) ∧
     (∀ w, s.cfl.op = some (.refused w) → ∀ h, exec (.flashOperationComplete h) s = .next (s0.writeDone w false).flashNext)) ∧
  (∀ (l : List Byte) (a : Nat) (c : Cfl) (x : Nat), Store.wf 0xFF c.bytes = true →
     (c.programBytes a l).byte x &&& c.byte x = (c.programBytes a l).byte x ∧ ((x < a ∨ a + l.length ≤ x) →
       (c.programBytes a l).byte x = c.byte x) ∧
     (∀ h : x - a < l.length, a ≤ x → (c.programBytes a l).byte x = c.byte x &&& l[x - a])) ∧
  (∀ (h : FlashEnd) (s : State), s.cfl.op = none → s.cfl.bg = none → exec (.flashOperationComplete h) s = .next s) ∧
  (∀ s : State, (s.domOn 95 = false ∨ s.cfl.ready = true → exec .flagScan s = .next s) ∧
     (s.domOn 95 = true → s.cfl.ready = false → ∃ t, exec .flagScan s = .next t ∧ t.cfl.half = s.cfl.flags ∧ t.cfl.worn = 0 ∧
       t.cfl.ready = true ∧ t.glb = s.glb ∧ t.sti = s.sti ∧ t.dge = s.dge ∧ t.stw = s.stw ∧ t.pq = s.pq ∧ t.hp = s.hp ∧
       t.cch = s.cch ∧ t.dsp = s.dsp ∧ t.ldg = s.ldg ∧ t.ctl = s.ctl ∧ t.seq = s.seq ∧ t.drn = s.drn ∧ t.vlt = s.vlt ∧
       t.rst = s.rst ∧ t.mlk = s.mlk)) ∧
  (∀ (s : State), (¬ (!s.domOn 95 ∨ s.cfl.ready)) →
     exec .flagScan s =
       .next (let s0 := s.updCfl fun c => { c with half := c.flags, worn := 0, ready := true }
       let s1 := if s.mtx.count = 0 then s0.loadPair else s0
       let s2 := ((List.range 1024).filter fun n => bitOf s.cfl.flags n).foldl (fun t n => t.event 0x0D01 (srcSector n)) s1
       s2.flashNext)) ∧
  (∀ (g : Agent) (b : Bool) (key : BitVec 16) (s : State), (s.flashAnswers .stw = true → g = .stw ∧ key.toNat = 0x4254 →
     exec (.bootSelect g b key) s =
       .next (s.flashWrite (.cell 1 (leBytes 1 (b2n b) ++ List.replicate 15 0)))) ∧
     (¬(g = .stw ∧ key.toNat = 0x4254) ∨ s.flashAnswers g = false → exec (.bootSelect g b key) s = .next s))

/-- DIGEST_START and DIGEST_RESUME take the requests of their cycle in the order of R439; by the owner they end its computation
with status 5; with an algorithm that needs a key whose slot holds none of USE 0, START ends with 7; on a free idle engine
START of a message of 1 byte or more gives it to the agent with nothing fed. A RESUME of a context that the agent does not
hold has status 10, of an expired one ends it, and else its import begins. DIGEST_DATA_WRITE by the owner feeds the next bytes
up to the length, a full buffer ends with 8 and a write beyond the length with 5; by anyone else it feeds nothing.
DIGEST_BLOCK_DONE with no compression changes nothing; the last block writes the digest of all that was fed.
DIGEST_OWNER_TIMEOUT ends an agent's computation after 1,000 beats without data and no internal one, DIGEST_CONTEXT_EXPIRY
acts after 1,000,000 beats. CONTEXT_EXPORT_IMPORT_DONE ends the transfer; a wrapped state that is not intact ends with 11 and
frees the engine, one that is goes on with the bytes it had been fed; until then its context keeps its slot and does not
expire. -/
def Obligations.DigestEngineOwnership : Prop :=
  (∀ (g : Agent) (alg : BitVec 2) (k : BitVec 5) (n : BitVec 2) (also : List (Agent × Sum (BitVec 2 × BitVec 5) (BitVec 2))) (s : State),
     exec (.digestStart g alg k also) s = .next ((requestOrder ((g, .inl (alg, k)) :: also)).foldl State.digestRequest s) ∧
     exec (.digestResume g n also) s = .next ((requestOrder ((g, .inr n) :: also)).foldl State.digestRequest s) ∧
     exec (.digestStart g alg k []) s = .next (s.digestStart g alg k) ∧
       exec (.digestResume g n []) s = .next (s.digestResume g n) ∧
     (s.answers g = false → s.digestStart g alg k = s ∧ s.digestResume g n = s)) ∧
  (∀ (g : Agent) (alg : BitVec 2) (k : BitVec 5) (n : BitVec 2) (s : State) (c : DgeComp), s.answers g = true →
     s.dge.owner = some c → c.who = .host g →
     s.digestStart g alg k = (s.dgeEnd (.host g) 5).dgeRelease ∧ s.digestResume g n = (s.dgeEnd (.host g) 5).dgeRelease) ∧
  (∀ (g : Agent) (alg : BitVec 2) (k : BitVec 5) (s : State), s.answers g = true → s.dge.owner = none → 2 ≤ alg.toNat →
     ¬((s.slot k.toNat).key ≠ none ∧ (s.slot k.toNat).use = 0) →
     exec (.digestStart g alg k []) s = .next (s.dgeEnd (.host g) 7)) ∧
  (∀ (g : Agent) (alg : BitVec 2) (k : BitVec 5) (s : State), s.answers g = true → s.dge.owner = none → s.dge.transfer = 0 →
     alg.toNat < 2 → s.get (DGE_LEN_LEN g) ≠ 0 →
     ∃ t, exec (.digestStart g alg k []) s = .next t ∧
       t.dge = { s.dge with owner := some ⟨.host g, alg.toNat, k.toNat, s.get (DGE_LEN_LEN g), [], 0⟩, lastWrite := s.glb.beat, compressing := false, wait := s.dge.wait.filter fun r => r.who ≠ .host g } ∧ t.get (DGE_AGENT_STATE g) = 2 ∧ t = { s with regs := t.regs, irq := t.irq, evr := t.evr, dge := t.dge, mbx := t.mbx, out := t.out }) ∧
  (∀ (g : Agent) (alg : BitVec 2) (k : BitVec 5) (s : State), s.answers g = true → s.dge.owner = none → s.dge.transfer = 0 →
     alg.toNat < 2 → s.get (DGE_LEN_LEN g) ≠ 0 →
     exec (.digestStart g alg k []) s =
       .next ((((((s.updDge fun d => { d with wait := d.wait.filter fun r => r.who ≠ .host g }).set (DGE_FED_BYTES g) 0).dgeStatus g 0).updDge
       fun d => { d with owner := some ⟨.host g, alg.toNat, k.toNat, s.get (DGE_LEN_LEN g), [], 0⟩, lastWrite := s.glb.beat, compressing := false }).dgeSt g 2))) ∧
  (∀ (g : Agent) (n : BitVec 2) (s : State), s.answers g = true → s.dge.owner = none →
     (∀ c, Store.get none s.dge.ctx n.toNat = some c → c.comp.who ≠ .host g) →
     exec (.digestResume g n []) s = .next (s.dgeStatus g 10)) ∧
  (∀ (g : Agent) (n : BitVec 2) (s : State) (c : DgeCtx), s.answers g = true → s.dge.owner = none →
     Store.get none s.dge.ctx n.toNat = some c → c.comp.who = .host g →
     s.expired c.beat 1000000 = true → exec (.digestResume g n []) s = .next (s.dgeExpire n.toNat)) ∧
  (∀ (g : Agent) (n : BitVec 2) (s : State) (c : DgeCtx), s.answers g = true → s.dge.owner = none → s.dge.transfer = 0 →
     Store.get none s.dge.ctx n.toNat = some c → c.comp.who = .host g →
     s.expired c.beat 1000000 = false → ∃ t, exec (.digestResume g n []) s = .next t ∧ t.dge.owner = some c.comp ∧
       t.dge.transfer = 2 ∧
       t.dge.importing = some n.toNat ∧ t.dge.ctx = s.dge.ctx ∧
         t = { s with regs := t.regs, irq := t.irq, evr := t.evr, dge := t.dge, mbx := t.mbx, out := t.out }) ∧
  (∀ (g : Agent) (n : BitVec 2) (s : State) (c : DgeCtx), s.answers g = true → s.dge.owner = none → s.dge.transfer = 0 →
     Store.get none s.dge.ctx n.toNat = some c → c.comp.who = .host g →
     s.expired c.beat 1000000 = false → exec (.digestResume g n []) s = .next
     (({ s with dge := { s.dge with owner := some c.comp, lastWrite := s.glb.beat, compressing := false, transfer := 2, importing := some n.toNat } } : State).set (DGE_AGENT_STATE g) 2)) ∧
  (∀ (g : Agent) (s : State), s.answers g = true → exec (.digestAbort g) s = .next (s.dgeDrop g 9) ∧
     (∀ c, s.dge.owner = some c → c.who = .host g → s.dge.wait = [] → (s.dgeDrop g 9).dge.owner = none)) ∧
  (∀ (g : Agent) (w : Word) (s : State) (c : DgeComp), s.answers g = true → s.dge.owner = some c → c.who = .host g →
     s.dge.transfer ≠ 2 → c.full s.dge.compressing = false →
     c.fed.length < c.len → exec (.digestDataWrite g w) s = .next ({ s with dge := { s.dge with
       owner := some { c with fed := c.fed ++ (leBytes 4 w.toNat).take (c.len - c.fed.length) },
         lastWrite := s.glb.beat,
         compressing := s.dge.compressing || (decide (c.done + blockSize c.alg ≤ (c.fed ++ (leBytes 4 w.toNat).take (c.len - c.fed.length)).length) || decide ((c.fed ++ (leBytes 4 w.toNat).take (c.len - c.fed.length)).length = c.len)) } }.set (DGE_FED_BYTES g)
       (c.fed ++ (leBytes 4 w.toNat).take (c.len - c.fed.length)).length)) ∧
  (∀ (g : Agent) (w : Word) (s : State), (∀ c, s.dge.owner = some c → c.who ≠ .host g) →
     ∃ t, exec (.digestDataWrite g w) s = .next t ∧
     t.dge = s.dge ∧ (s.get (DGE_AGENT_STATE g) ≠ 3 → t = s)) ∧
  (∀ s : State, (s.dge.owner = none ∨ s.dge.compressing = false) → exec .digestBlockDone s = .next s) ∧
  (∀ (g : Agent) (s : State) (c : DgeComp), s.dge.owner = some c → c.who = .host g → s.dge.compressing = true →
     c.fed.length = c.len → c.len ≤ c.done + blockSize c.alg →
     exec .digestBlockDone s = .next ((s.dgeResult g c.alg (digestOf c.alg ((s.keyOf c.slot).getD []) c.fed)).dgeRelease)) ∧
  (∀ s : State, (∀ c g, s.dge.owner = some c → c.who = .host g → exec .digestOwnerTimeout s =
       .next (if s.expired s.dge.lastWrite 1000 then (s.dgeEnd c.who 6).dgeRelease else s)) ∧
     (∀ c, s.dge.owner = some c → (∀ g, c.who ≠ .host g) → exec .digestOwnerTimeout s = .next s) ∧ (s.dge.owner = none →
       exec .digestOwnerTimeout s = .next s)) ∧
  (∀ (n : BitVec 2) (s : State), (∀ c, Store.get none s.dge.ctx n.toNat = some c → s.expired c.beat 1000000 = true →
     s.dge.importing ≠ some n.toNat → exec (.digestContextExpiry n) s =
       .next (let t : State := { s with dge := { s.dge with ctx := Store.put none s.dge.ctx n.toNat none, wait := s.dge.wait.filter fun r => r.resume ≠ some n.toNat } }
         if s.dge.wait.any (fun r => r.resume =
           some n.toNat) = true then t.dgeEnd c.comp.who 12 else t.dgeLost c.comp.who 12)) ∧
     (s.dge.importing = some n.toNat ∨ (∀ c, Store.get none s.dge.ctx n.toNat = some c → s.expired c.beat 1000000 = false) →
       exec (.digestContextExpiry n) s = .next s)) ∧
  (∀ (intact : Bool) (s s1 : State), s1 = { s with dge := { s.dge with transfer := 0, importing := none } } →
     (s.dge.transfer = 1 → exec (.contextExportImportDone intact) s = .next (s1.dgeNext (s.dge.wait.length + 1))) ∧
     (∀ n, s.dge.transfer = 2 → s.dge.importing = some n →
       exec (.contextExportImportDone intact) s = .next (s1.dgeImported n intact)) ∧
     (s.dge.transfer = 0 ∨ (s.dge.transfer = 2 ∧ s.dge.importing = none) →
       exec (.contextExportImportDone intact) s = .next s1)) ∧
  (∀ (intact : Bool) (s s2 : State) (g : Agent) (c : DgeComp) (x : DgeCtx) (n : Nat) (fed : List Byte), s.dge.owner = some c →
     c.who = .host g → Store.get none s.dge.ctx n = some x →
     (c.alg < 2 ∨ intact = true) → s.dgeRestored x = some fed →
       s2 = { s.dgeFree n with dge := { (s.dgeFree n).dge with owner := some { c with fed := fed }, lastWrite := s.glb.beat } } →
     s.dgeImported n intact = (s2.set (DGE_FED_BYTES g) fed.length).dgeYield.dgeFill) ∧
  (∀ (s : State) (c : DgeComp) (x : DgeCtx) (n : Nat), s.dge.transfer = 2 → s.dge.importing = some n → s.dge.owner = some c →
     Store.get none s.dge.ctx n = some x → 2 ≤ c.alg →
     exec (.contextExportImportDone false) s =
     .next (((({ s with dge := { s.dge with transfer := 0, importing := none } } : State).dgeFree n).dgeEnd c.who 11).dgeRelease)) ∧
  (∀ (intact : Bool) (s : State), (s.dge.transfer = 1) →
     exec (.contextExportImportDone intact) s =
       .next (let s1 := s.updDge fun d => { d with transfer := 0, importing := none }
       (s1.dgeNext (s1.dge.wait.length + 1))))

/-- A key command of a host, without the key, or while one runs changes nothing. IMPORT that fails a check (among them: an
accepted swap changes the slot's entry) leaves the slot and has the code of the check with event 0x0E03; one that passes, as
ERASE of an unlocked slot that may be erased, waits for the backing cell with BUSY set. EXPORT of a slot that may be exported
gives the wrapped key, else POLICY (3). LOCK of a lockable slot locks it; COMPARE of a slot of USE 6 answers 1 or 8;
LOADESCROW takes the first escrow key; OP 7 has POLICY. None of them changes a stored key. KEY_SLOT_LOAD with domain 94 off or
after its load changes nothing; else every slot without an entry of the record in force is empty. The generation of an
imported key must exceed the slot's. -/
def Obligations.KeySlotsUnderTheirPolicy : Prop :=
  (∀ (g : Agent) (sl : BitVec 5) (key : BitVec 16) (s : State), s.keyCmdOk g key = false →
     exec (.importKey g sl key) s = .next s ∧ exec (.exportKey g sl key) s = .next s ∧ exec (.lock g sl key) s = .next s ∧
       exec (.erase g sl key) s = .next s ∧ exec (.compare g sl key) s = .next s ∧ exec (.loadescrow g key) s = .next s ∧
       exec (.keyOpSeven g key) s = .next s) ∧
  (∀ (g : Agent) (key : BitVec 16) (s : State), s.keyCmdOk g key = true ↔ g = .stw ∧ key = 0x4B59 ∧
     s.bit DGE_KEYST_BUSY = false) ∧
  (∀ (g : Agent) (sl : BitVec 5) (key : BitVec 16) (s t : State), (exec (.importKey g sl key) s = .next t ∨
     exec (.exportKey g sl key) s = .next t ∨ exec (.lock g sl key) s = .next t ∨ exec (.erase g sl key) s = .next t ∨
     exec (.compare g sl key) s = .next t ∨ exec (.loadescrow g key) s = .next t ∨ exec (.keyOpSeven g key) s = .next t) →
     (∀ n, (t.slot n).key = (s.slot n).key ∧ (t.slot n).gen = (s.slot n).gen) ∧ t.cfl.bytes = s.cfl.bytes) ∧
  (∀ (sl : BitVec 5) (s : State), s.keyCmdOk .stw 0x4B59 = true →
     (s.keyOf s.policyImage.escrowKey).bind (fun e => keyUnwrap e s.keyIo) = none →
     exec (.importKey .stw sl 0x4B59) s = .next (s.keyRefuse true sl.toNat 2)) ∧
  (∀ (sl : BitVec 5) (s : State), s.keyCmdOk .stw 0x4B59 = true → ∃ t, exec (.importKey .stw sl 0x4B59) s = .next t ∧
     t.glb = s.glb ∧ t.pq = s.pq ∧ t.cch = s.cch ∧ t.vlt = s.vlt ∧ t.mtx = s.mtx ∧
     ∀ p, (s.keyOf s.policyImage.escrowKey).bind (fun e => keyUnwrap e s.keyIo) = some p →
       (ofBe ((p.drop 8).take 8) ≤ (s.slot sl.toNat).gen → t.dge = s.dge) ∧
     (s.slotGuarded sl.toNat = false → leAt p 0 1 = sl.toNat → leAt p 1 1 = s.policyImage.slotUse sl.toNat →
       (s.slot sl.toNat).locked = false →
       (bitOf (s.policyImage.slotPolicy sl.toNat) 1 = false ∨ (s.slot sl.toNat).key = none) →
         (s.slot sl.toNat).gen < ofBe ((p.drop 8).take 8) → t.get DGE_KEYST_BUSY = 1 ∧
         t.dge = { s.dge with keyOp := some ⟨sl.toNat, ⟨some ((p.drop 16).take 32), ofBe ((p.drop 8).take 8), false, s.policyImage.slotUse sl.toNat, s.policyImage.slotPolicy sl.toNat⟩, true⟩ })) ∧
  (∀ (sl : BitVec 5) (s : State), s.keyCmdOk .stw 0x4B59 = true → exec (.importKey .stw sl 0x4B59) s = .next (
       let n := sl.toNat
       let im := s.policyImage
       let k := s.slot n
       match (s.keyOf im.escrowKey).bind fun e => keyUnwrap e s.keyIo with
       | none => s.keyRefuse true n 2
       | some p =>
         let gen := ofBe ((p.drop 8).take 8)
         if ¬(leAt p 0 1 = n ∧ leAt p 1 1 = im.slotUse n) ∨ s.slotGuarded n then s.keyRefuse true n 3
         else if k.locked then s.keyRefuse true n 4
         else if bitOf (im.slotPolicy n) 1 && k.key.isSome then s.keyRefuse true n 5
         else if gen ≤ k.gen then s.keyRefuse true n 6
         else s.keyCell ⟨n, ⟨some ((p.drop 16).take 32), gen, k.locked, im.slotUse n, im.slotPolicy n⟩, true⟩)) ∧
  (∀ (sl : BitVec 5) (s : State), s.keyCmdOk .stw 0x4B59 = true →
     (∀ v e, (s.slot sl.toNat).key = some v → s.keyOf s.policyImage.escrowKey = some e →
       bitOf (s.slot sl.toNat).policy 0 = true → sl.toNat ≠ s.policyImage.escrowKey →
       exec (.exportKey .stw sl 0x4B59) s =
         .next (((s.set DGE_KEYST_CODE 1).setB DGE_KEYST_BUSY false).setKeyIo (keyWrap e (leBytes 1 sl.toNat ++
         leBytes 1 (s.slot sl.toNat).use ++ leBytes 1 (s.slot sl.toNat).policy ++ List.replicate 5 0 ++ beBytes 8 (s.slot sl.toNat).gen ++ v)))) ∧
     ((s.slot sl.toNat).key = none ∨ s.keyOf s.policyImage.escrowKey = none ∨ bitOf (s.slot sl.toNat).policy 0 = false ∨
       sl.toNat = s.policyImage.escrowKey →
       exec (.exportKey .stw sl 0x4B59) s = .next (s.set DGE_KEYST_CODE 3))) ∧
  (∀ (sl : BitVec 5) (s : State), s.keyCmdOk .stw 0x4B59 = true →
     (bitOf (s.slot sl.toNat).policy 2 = true →
       exec (.lock .stw sl 0x4B59) s = .next ((s.setSlot sl.toNat { s.slot sl.toNat with locked := true }).keyDone 1)) ∧
     (bitOf (s.slot sl.toNat).policy 2 = false → exec (.lock .stw sl 0x4B59) s = .next (s.keyDone 3))) ∧
  (∀ (sl : BitVec 5) (s : State), s.keyCmdOk .stw 0x4B59 = true →
     ((s.slot sl.toNat).locked = true → exec (.erase .stw sl 0x4B59) s = .next (s.keyDone 4)) ∧
     ((s.slot sl.toNat).locked = false → bitOf (s.slot sl.toNat).policy 1 = true →
       exec (.erase .stw sl 0x4B59) s = .next (s.keyDone 5)) ∧
     ((s.slot sl.toNat).locked = false → bitOf (s.slot sl.toNat).policy 1 = false → exec (.erase .stw sl 0x4B59) s =
       .next (s.keyCell ⟨sl.toNat, { s.slot sl.toNat with key := none }, false⟩))) ∧
  (∀ (sl : BitVec 5) (s : State), s.keyCmdOk .stw 0x4B59 = true →
     ((s.slot sl.toNat).use ≠ 6 → exec (.compare .stw sl 0x4B59) s = .next (s.keyDone 3)) ∧
     ((s.slot sl.toNat).use = 6 → exec (.compare .stw sl 0x4B59) s =
       .next (s.keyDone (if (s.slot sl.toNat).key = some s.dge.stwSha then 1 else 8)))) ∧
  (∀ s : State, s.keyCmdOk .stw 0x4B59 = true → (¬(s.policyImage.escrowKey < 32 ∧
     (s.slot s.policyImage.escrowKey).key = none ∧ bitOf (s.policyImage.slotPolicy s.policyImage.escrowKey) 1 = true) →
     exec (.loadescrow .stw 0x4B59) s = .next (s.keyDone 3)) ∧
     (s.policyImage.escrowKey < 32 ∧ (s.slot s.policyImage.escrowKey).key = none ∧
       bitOf (s.policyImage.slotPolicy s.policyImage.escrowKey) 1 = true →
       ∃ t op, exec (.loadescrow .stw 0x4B59) s = .next t ∧ t.dge = { s.dge with keyOp := some op } ∧
       op.slot = s.policyImage.escrowKey ∧
       op.newSlot.key = some (s.keyIo.take 32) ∧ t.get DGE_KEYST_BUSY = 1 ∧ t.pq = s.pq ∧ t.cch = s.cch ∧ t.vlt = s.vlt ∧
         t.mtx = s.mtx)) ∧
  (∀ s : State, s.keyCmdOk .stw 0x4B59 = true → exec (.keyOpSeven .stw 0x4B59) s = .next (s.set DGE_KEYST_CODE 3)) ∧
  (∀ s : State, (s.domOn 94 = false ∨ s.dge.loaded = true → exec .keySlotLoad s = .next s) ∧
     (∀ r, s.domOn 94 = true → s.dge.loaded = false → s.cell 6 = some r → Store.wf ⟨none, 0, false, 0, 0⟩ s.dge.slots = true →
       ∃ t, exec .keySlotLoad s = .next t ∧ t.regs = s.regs ∧ t.glb = s.glb ∧ t.sti = s.sti ∧ t.cfl = s.cfl ∧ t.stw = s.stw ∧
       t.pq = s.pq ∧ t.hp = s.hp ∧ t.cch = s.cch ∧ t.dsp = s.dsp ∧ t.ldg = s.ldg ∧ t.ctl = s.ctl ∧ t.seq = s.seq ∧
       t.drn = s.drn ∧ t.vlt = s.vlt ∧ t.rst = s.rst ∧ t.mlk = s.mlk ∧ t.mtx = s.mtx ∧
       ∀ n, n < 32 → ((r.payload.drop (64 * n)).take 64).all (· = 0) = true → (t.slot n).key = none ∧ (t.slot n).gen = 0)) ∧
  (∀ (s : State) (r : CellRec), (¬ (!s.domOn 94 ∨ s.dge.loaded)) →
     (s.cell 6 = some r) →
     exec .keySlotLoad s =
       .next (let s1 := s.updDge fun d => { d with loaded := true }
       ((List.range 32).foldl (fun t n => t.loadSlot r.payload n) s1)))

/-- STEWARD_START with domain 93 off, the flash interface not ready, a steward up or a selector write on the way changes nothing;
where the selected block serves, the steward runs (on trial, where one stands) from this beat; where only its twin serves,
that one with TWIN and event 0x0D02; where neither serves it stays down with both blocks failing and TWIN clear.
WATCHDOG_EXPIRY before WDOG_MS, STEWARD_RESTART without its key, CONFIRM and KICK of another agent or out of place, and
CONFIRM_TIMEOUT before CONFIRM_S change nothing; due, each does what its rule says: a restart (which leaves the flash array as
it is unless a payload is being staged: then the update ends), a confirmed start with event 0x1005, a kick of the watchdog, an
unconfirmed start. SENSOR_READ every 1,000 beats shows the sixteen temperatures. -/
def Obligations.StewardStartsAndConfirms : Prop :=
  (∀ (a b : Bool) (s : State), (s.domOn 93 = false ∨ s.flashOn = false ∨ s.stwUp = true ∨ s.selectorBusy = true) →
     exec (.stewardStart a b) s = .next s) ∧
  (∀ (a b : Bool) (s : State), s.domOn 93 = true ∧ s.flashOn = true ∧ s.stwUp = false ∧ s.selectorBusy = false →
     (s.selBlock = 0 → s.blockServes a 0 = true → ∃ t, exec (.stewardStart a b) s = .next t ∧
       t.get STW_STATUS_RUN = (if s.stw.trial then 3 else 2) ∧
         t.stw = { s.stw with kick := s.glb.beat, trialStart := s.glb.beat, bothFail := false } ∧ t.glb = s.glb ∧
         t.sti = s.sti ∧ t.cfl = s.cfl ∧ t.dge = s.dge ∧ t.pq = s.pq ∧ t.hp = s.hp ∧ t.cch = s.cch ∧ t.dsp = s.dsp ∧
         t.ldg = s.ldg ∧ t.ctl = s.ctl ∧ t.seq = s.seq ∧ t.drn = s.drn ∧ t.vlt = s.vlt ∧ t.rst = s.rst ∧ t.mlk = s.mlk ∧
         t.mtx = s.mtx) ∧
     (Store.wf 0 s.regs = true → s.selBlock = 0 → s.blockServes a 0 = false → s.blockServes b 1 = false →
       ∃ t, exec (.stewardStart a b) s = .next t ∧
       t.get STW_STATUS_RUN = 0 ∧ t.get CFL_BOOT_TWIN = 0 ∧ t.stw = { s.stw with bothFail := true } ∧ t.glb = s.glb ∧
         t.sti = s.sti ∧ t.cfl = s.cfl ∧ t.dge = s.dge ∧ t.pq = s.pq ∧ t.hp = s.hp ∧ t.cch = s.cch ∧ t.dsp = s.dsp ∧
         t.ldg = s.ldg ∧ t.ctl = s.ctl ∧ t.seq = s.seq ∧ t.drn = s.drn ∧ t.vlt = s.vlt ∧ t.rst = s.rst ∧ t.mlk = s.mlk ∧
         t.mtx = s.mtx)) ∧
  (∀ (a b : Bool) (s : State), s.domOn 93 = true ∧ s.flashOn = true ∧ s.stwUp = false ∧ s.selectorBusy = false →
     s.blockServes (if s.selBlock = 0 then a else b) s.selBlock = true →
     exec (.stewardStart a b) s = .next (
       let s0 := ((s.setB CFL_BOOT_NOSEL (s.cell 1).isNone).set CFL_BOOT_SELGEN (((s.cell 1).map CellRec.gen).getD 0)).setB CFL_BOOT_TWIN false
       let n := s.selBlock
       let s1 := (((s0.set CFL_BOOT_BLOCK n).set STW_STATUS_BLOCK n).set STW_STATUS_RUN (if s.stw.trial then 3 else 2)).set64
         STW_FWVER_LO_VALUE STW_FWVER_HI_VALUE (Config.firmwareVersion n)
       let s2 := if s.get STW_STATUS_UPD = 4 then s1.set STW_STATUS_UPD 0 else s1
       (s2.updStw fun w => { w with kick := s.glb.beat, trialStart := s.glb.beat, bothFail := false }).event 0x1001 0)) ∧
  (∀ (a b : Bool) (s : State), s.domOn 93 = true ∧ s.flashOn = true ∧ s.stwUp = false ∧ s.selectorBusy = false →
     s.blockServes (if s.selBlock = 0 then a else b) s.selBlock = false →
     s.blockServes (if 1 - s.selBlock = 0 then a else b) (1 - s.selBlock) = true → exec (.stewardStart a b) s = .next (
       let s0 := ((s.setB CFL_BOOT_NOSEL (s.cell 1).isNone).set CFL_BOOT_SELGEN (((s.cell 1).map CellRec.gen).getD 0)).setB CFL_BOOT_TWIN false
       let n := 1 - s.selBlock
       let s1 := (((((s0.setB CFL_BOOT_TWIN true).event 0x0D02 0).set CFL_BOOT_BLOCK n).set STW_STATUS_BLOCK n).set STW_STATUS_RUN (if s.stw.trial then 3 else 2)).set64
         STW_FWVER_LO_VALUE STW_FWVER_HI_VALUE (Config.firmwareVersion n)
       let s2 := if s.get STW_STATUS_UPD = 4 then s1.set STW_STATUS_UPD 0 else s1
       (s2.updStw fun w => { w with kick := s.glb.beat, trialStart := s.glb.beat, bothFail := false }).event 0x1001 0)) ∧
  (∀ (good0 good1 : Bool) (s : State), (¬ (!s.domOn 93 ∨ !s.flashOn ∨ s.stwUp ∨ s.selectorBusy)) →
     (¬ ((fun (n : Nat) => s.blockServes (if n = 0 then good0 else good1) n) s.selBlock)) →
     (¬ ((fun (n : Nat) => s.blockServes (if n = 0 then good0 else good1) n) (1 - s.selBlock))) →
     exec (.stewardStart good0 good1) s =
       .next (let s0 := ((s.setB CFL_BOOT_NOSEL (s.cell 1).isNone).set CFL_BOOT_SELGEN
         (((s.cell 1).map CellRec.gen).getD 0)).setB CFL_BOOT_TWIN false
       ((s0.set STW_STATUS_RUN 0).updStw fun w => { w with bothFail := true }))) ∧
  (∀ (s : State), s.stwUp = true ∧ s.expired s.stw.kick (1000 * s.get STW_CTRL_WDOG_MS) = true →
     exec .watchdogExpiry s = .next (if s.get STW_STATUS_RUN = 3 then s.stwRestart.unconfirmedStart else s.stwRestart)) ∧
  (∀ (s : State), ¬(s.stwUp = true ∧ s.expired s.stw.kick (1000 * s.get STW_CTRL_WDOG_MS) = true) →
     exec .watchdogExpiry s = .next s) ∧
  (∀ (g : Agent) (key : BitVec 16) (s : State), (s.answers g = true → key = 0x5354 →
     exec (.stewardRestart g key) s = .next s.stwRestart) ∧
     (s.answers g = false ∨ key ≠ 0x5354 → exec (.stewardRestart g key) s = .next s) ∧
     (s.domOn 93 = true → s.stwRestart.get STW_STATUS_RUN = 1 ∧ s.stwRestart.pq = s.pq ∧
       (s.staging = false → s.stwRestart.cfl.bytes = s.cfl.bytes ∧ s.stwRestart.glb = s.glb) ∧ (s.staging = true →
         s.stwRestart.stw.update = none ∧ s.stwRestart.stw.waits = none))) ∧
  (∀ (g : Agent) (s : State), g = .stw ∧ s.get STW_STATUS_RUN = 3 →
     exec (.confirm g) s = .next (({ s.set STW_STATUS_RUN 2 with stw := { s.stw with trial := false, unconfirmed := 0 } } : State).event 0x1005 (srcCause 1))) ∧
  (∀ (g : Agent) (s : State), ¬(g = .stw ∧ s.get STW_STATUS_RUN = 3) → exec (.confirm g) s = .next s) ∧
  (∀ (g : Agent) (s : State), g = .stw ∧ s.stwUp = true →
     exec (.kick g) s = .next ({ s with stw := { s.stw with kick := s.glb.beat } })) ∧
  (∀ (g : Agent) (s : State), ¬(g = .stw ∧ s.stwUp = true) → exec (.kick g) s = .next s) ∧
  (∀ (s : State), s.get STW_STATUS_RUN = 3 ∧ s.expired s.stw.trialStart (1000000 * s.get STW_CTRL_CONFIRM_S) = true →
     exec .confirmTimeout s = .next (s.stwRestart.unconfirmedStart)) ∧
  (∀ (s : State), ¬(s.get STW_STATUS_RUN = 3 ∧ s.expired s.stw.trialStart (1000000 * s.get STW_CTRL_CONFIRM_S) = true) →
     exec .confirmTimeout s = .next s) ∧
  (∀ (l : List (BitVec 12)) (m : List (BitVec 16)) (s : State), s.stwUp = true ∧ s.stw.lastSense + 1000 ≤ s.glb.beat →
     Store.wf 0 s.regs = true → ∃ t, exec (.sensorRead l m) s = .next t ∧
     t.stw = { s.stw with lastSense := s.glb.beat } ∧ (∀ n, n < 16 → t.get (STW_TEMP_TEMP n) = (l.getD n 0).toNat) ∧
       (∀ n, n < 4 → t.get (STW_VMON_MV n) = (m.getD n 0).toNat) ∧ t.glb = s.glb ∧ t.sti = s.sti ∧ t.cfl = s.cfl ∧
       t.dge = s.dge ∧ t.pq = s.pq ∧ t.hp = s.hp ∧ t.cch = s.cch ∧ t.dsp = s.dsp ∧ t.ldg = s.ldg ∧ t.ctl = s.ctl ∧
       t.seq = s.seq ∧ t.drn = s.drn ∧ t.vlt = s.vlt ∧ t.rst = s.rst ∧ t.mlk = s.mlk ∧ t.mtx = s.mtx) ∧
  (∀ (temps : List (BitVec 12)) (mv : List (BitVec 16)) (s : State), (s.stwUp ∧ s.stw.lastSense + 1000 ≤ s.glb.beat) →
     exec (.sensorRead temps mv) s =
       .next (let s1 := (List.range 16).foldl (fun t n => t.senseTemp n (temps.getD n 0)) s
       let s2 := (List.range 4).foldl (fun t n => t.set (STW_VMON_MV n) (mv.getD n 0).toNat) s1
       (s2.updStw fun w => { w with lastSense := s.glb.beat }))) ∧
  (∀ (l : List (BitVec 12)) (m : List (BitVec 16)) (s : State), ¬(s.stwUp = true ∧ s.stw.lastSense + 1000 ≤ s.glb.beat) →
     exec (.sensorRead l m) s = .next s)

/-- A mailbox command of a host that is not answered, or while the other owns the mailbox, changes nothing, and so does one from
the sideband with no steward up; from a host with no steward up it answers NOSTEWARD (10). With a steward up, from the
sideband: GET_VERSIONS answers OK; UPDATE_BEGIN while one runs answers BUSY, outside SERVE (but an unconfigured BOOT) STATE
with event 0x1004, of a size out of range RANGE, else the update begins; UPDATE_DATA out of place answers STATE or RANGE, at
the next offset its bytes are taken; UPDATE_END with none received answers STATE, a package that fails is refused with its
code; UPDATE_CANCEL drops the update; ACTIVATE_FW with nothing staged answers STATE, else restarts the steward on trial;
SET_WALLTIME answers OK and records the pair of beat and seconds. -/
def Obligations.StewardMailboxAndUpdates : Prop :=
  (∀ (g : Option Port) (size off : Word) (b : List Byte) (sec : BitVec 64) (s : State), (∀ p, g = some p →
     s.stw.mbxOwner ≠ none ∧ s.stw.mbxOwner ≠ some p.agent) → (g = none → s.stwUp = false) →
     exec (.getVersions g) s = .next s ∧ exec (.updateBegin g size) s = .next s ∧ exec (.updateData g off b) s = .next s ∧
       exec (.updateEnd g) s = .next s ∧ exec (.updateCancel g) s = .next s ∧ exec (.activateFw g) s = .next s ∧
       exec (.setWalltime g sec) s = .next s) ∧
  (∀ (p : Port) (size off : Word) (b : List Byte) (sec : BitVec 64) (s : State), s.answers p.agent = true →
     s.stw.mbxOwner = none → s.stwUp = false →
     ∃ t, t = (({ s with stw := { s.stw with mbxOwner := some p.agent } } : State).set STW_MBX_STAT_CODE 0).setB STW_MBX_STAT_DONE false ∧ t.stwUp = false ∧
     exec (.getVersions (some p)) s = .next (t.stwAnswer (some p) 1 10 []) ∧
       exec (.updateBegin (some p) size) s = .next (t.stwAnswer (some p) 2 10 []) ∧
       exec (.updateData (some p) off b) s = .next (t.stwAnswer (some p) 3 10 []) ∧
       exec (.updateEnd (some p)) s = .next (t.stwAnswer (some p) 4 10 []) ∧
       exec (.updateCancel (some p)) s = .next (t.stwAnswer (some p) 5 10 []) ∧
       exec (.activateFw (some p)) s = .next (t.stwAnswer (some p) 6 10 []) ∧
       exec (.setWalltime (some p) sec) s = .next (t.stwAnswer (some p) 7 10 [])) ∧
  (∀ s : State, s.stwUp = true → exec (.getVersions none) s = .next (s.emit (.sideband 0x7E01 1
     [s.get STW_FWVER_LO_VALUE, s.get STW_FWVER_HI_VALUE, s.get (TIL_MCVER_VERSION 0), 0]))) ∧
  (∀ (size : Word) (s : State), s.stwUp = true →
     (s.stw.update ≠ none → exec (.updateBegin none size) s = .next (s.emit (.sideband 0x7E02 2 []))) ∧
     (s.stw.update = none → s.mayUpdate = false →
       exec (.updateBegin none size) s = .next ((s.event 0x1004 0).emit (.sideband 0x7E02 9 []))) ∧
     (s.stw.update = none → s.mayUpdate = true → packageSize size.toNat = false →
       exec (.updateBegin none size) s = .next (s.emit (.sideband 0x7E02 11 []))) ∧
     (s.stw.update = none → s.mayUpdate = true → packageSize size.toNat = true →
       exec (.updateBegin none size) s = .next ((({ s with stw := { s.stw with
       update := some ⟨false,
         size.toNat, [], false⟩,
         staged := none, waits := none } } : State).set STW_STATUS_UPD 1).emit (.sideband 0x7E02 1 [])))) ∧
  (∀ (off : Word) (b : List Byte) (s : State) (u : Update), s.stwUp = true → s.stw.update = some u →
     (s.mbxReceiving = false → exec (.updateData none off b) s = .next (s.emit (.sideband 0x7E03 9 []))) ∧
     (s.mbxReceiving = true → ¬(1 ≤ b.length ∧ b.length ≤ 1024) ∨ off.toNat ≠ u.bytes.length ∨
       u.size < u.bytes.length + b.length →
       exec (.updateData none off b) s = .next (s.emit (.sideband 0x7E03 11 []))) ∧
     (s.mbxReceiving = true → 1 ≤ b.length → b.length ≤ 1024 → off.toNat = u.bytes.length →
       u.bytes.length + b.length ≤ u.size →
       exec (.updateData none off b) s =
         .next (({ s with stw := { s.stw with update := some { u with bytes := u.bytes ++ b, pulled := false } } } : State).emit (.sideband 0x7E03 1 [])))) ∧
  (∀ (s : State) (u : Update), s.stwUp = true → s.stw.update = some u → (s.mbxReceiving = false →
     exec (.updateEnd none) s = .next (s.emit (.sideband 0x7E04 9 []))) ∧
     (s.mbxReceiving = true → s.verifyPackage u ≠ 1 → ∃ t, exec (.updateEnd none) s = .next t ∧ t.stw.update = none ∧
       t.cfl = s.cfl ∧ t.dsp = s.dsp ∧ t.glb = s.glb) ∧
     (s.mbxReceiving = true → s.verifyPackage u = 1 → leAt u.bytes 6 1 ≠ 2 →
       (stagedSectors (s.stageTarget (leAt u.bytes 6 1)).2 (u.bytes.drop 288).length).any (fun n => bitOf s.cfl.worn n) =
       false →
       exec (.updateEnd none) s =
         .next ((({ s with stw := { s.stw with waits := some 0 } } : State).set STW_STATUS_UPD 2).flashWrite (.staged (s.stageTarget (leAt u.bytes 6 1)).2 (u.bytes.drop 288))))) ∧
  (∀ s : State, s.stwUp = true → s.staging = false → ∃ t, exec (.updateCancel none) s = .next t ∧
     t.stw = { s.stw with update := none, staged := none, waits := none } ∧
     t.out = .sideband 0x7E05 1 [] :: s.out ∧
       t = { s with regs := t.regs, glb := t.glb, irq := t.irq, evr := t.evr, sti := t.sti, cfl := t.cfl, stw := t.stw, mbx := t.mbx, out := t.out }) ∧
  (∀ (g : Option Port) (s : State), s.answersOpt g = true →
     exec (.updateCancel g) s = .next (s.stwCommand g 5 fun t => t.updateDrop.stwAnswer g 5 mbxOk []) ∧
     (∀ sec, exec (.setWalltime g sec) s = .next (s.stwCommand g 7 fun t =>
       let v := match g with
         | some _ => t.get (STW_MBX_ARG_ARG 0) + 2 ^ 32 * t.get (STW_MBX_ARG_ARG 1)
         | none => sec.toNat
       (t.wallTime v).stwAnswer g 7 mbxOk [])) ∧
     exec (.updateEnd g) s = .next (s.stwCommand g 4 fun t => if !t.mbxReceiving then t.stwAnswer g 4 mbxState []
       else t.updateEnd (match g with | some p => p.agent.code | none => 0)) ∧
     exec (.activateFw g) s = .next (s.stwCommand g 6 fun t => match t.mayActivate with
       | some b => (t.stwAnswer g 6 mbxOk []).activate b
       | none => (if t.glb.st = .serve then t else t.event 0x1004 0).stwAnswer g 6 mbxState [])) ∧
  (∀ s : State, s.stwUp = true → (s.mayActivate = none →
     exec (.activateFw none) s = .next ((if s.glb.st = .serve then s else s.event 0x1004 0).emit (.sideband 0x7E06 9 []))) ∧
     (∀ b, s.mayActivate = some b → s.domOn 93 = true → s.staging = false → ∃ t, exec (.activateFw none) s = .next t ∧
       t.stw.trial = true ∧ t.stw.staged = none ∧ t.stw.prevBlock = s.selBlock ∧
       t.get STW_STATUS_RUN = 1 ∧ t.get STW_STATUS_UPD = 4 ∧ t.pq = s.pq ∧ t.hp = s.hp ∧ t.cch = s.cch ∧ t.ldg = s.ldg ∧
         t.ctl = s.ctl ∧ t.seq = s.seq ∧ t.drn = s.drn ∧ t.vlt = s.vlt ∧ t.rst = s.rst ∧ t.mlk = s.mlk ∧ t.mtx = s.mtx)) ∧
  (∀ (sec : BitVec 64) (s : State), s.stwUp = true → Store.wf 0 s.regs = true →
     ∃ t, exec (.setWalltime none sec) s = .next t ∧ t.out.head? = some (.sideband 0x7E07 1 []) ∧
     t.get64 STW_WALL_SEC_LO_VALUE STW_WALL_SEC_HI_VALUE = sec.toNat ∧ t.glb = s.glb ∧ t.sti = s.sti ∧ t.cfl = s.cfl ∧
       t.dge = s.dge ∧ t.pq = s.pq ∧ t.hp = s.hp ∧ t.cch = s.cch ∧ t.dsp = s.dsp ∧ t.ldg = s.ldg ∧ t.ctl = s.ctl ∧
       t.seq = s.seq ∧ t.drn = s.drn ∧ t.vlt = s.vlt ∧ t.rst = s.rst ∧ t.mlk = s.mlk ∧ t.mtx = s.mtx)

/-- With no steward up every I3C and MCTP control command changes nothing: the target does not acknowledge. With a steward up,
ENTDAA gives a dynamic address to a target without one and changes it to I3C, SETDASA does so at the strapped static address
only, and RSTDAA drops it; ENEC, DISEC and the five read commands act in I3C mode only. Set Endpoint ID stores the identity
and refuses 0 and 0xFF; the other control messages answer, Get Message Type Support with the three types and Get Vendor
Defined Message Support with the vendor of the identity registers first; another control command is answered
ERROR_UNSUPPORTED_CMD and another message type is dropped. The numbers of commands and completion codes are presumed from the
DMTF standards (log entry 13), contents the spec does not give are open, and a target that does not acknowledge as no effect
is that entry's choice too. -/
def Obligations.SidebandAddressesAndControlMessages : Prop :=
  (∀ (s7 a7 : BitVec 7) (e : BitVec 8) (s : State), s.stwUp = false →
     exec (.entdaa a7) s = .next s ∧
     exec (.setdasa s7 a7) s = .next s ∧
     exec .rstdaa s = .next s ∧
     exec .enec s = .next s ∧
     exec .disec s = .next s ∧
     exec .getpid s = .next s ∧
     exec .getbcr s = .next s ∧
     exec .getdcr s = .next s ∧
     exec .getmwl s = .next s ∧
     exec .getmrl s = .next s ∧
     exec (.setEndpointId e) s = .next s ∧
     exec .getEndpointId s = .next s ∧
     exec .getEndpointUuid s = .next s ∧
     exec (.getMctpVersionSupport e) s = .next s ∧
     exec .getMessageTypeSupport s = .next s ∧
     exec .getVendorDefinedMessageSupport s = .next s ∧
     exec (.unsupportedMctpCommand e) s = .next s) ∧
  (∀ s : State, exec .unsupportedMessageType s = .next s) ∧
  (∀ (f a : BitVec 7) (s : State), s.stwUp = true →
     (s.stw.dynAddr = 0 → exec (.entdaa a) s = .next { s with stw := { s.stw with i3c := true, dynAddr := a.toNat } }) ∧
     (s.stw.dynAddr ≠ 0 → exec (.entdaa a) s = .next s) ∧
     (s.stw.dynAddr = 0 → f.toNat = 0x58 + s.stw.straps % 4 →
       exec (.setdasa f a) s = .next { s with stw := { s.stw with i3c := true, dynAddr := a.toNat } }) ∧
     (s.stw.dynAddr ≠ 0 ∨ f.toNat ≠ 0x58 + s.stw.straps % 4 → exec (.setdasa f a) s = .next s) ∧
     exec .rstdaa s = .next { s with stw := { s.stw with i3c := false, dynAddr := 0 } }) ∧
  (∀ s : State, s.stw.i3c = false → exec .enec s = .next s ∧ exec .disec s = .next s ∧ exec .getpid s = .next s ∧
     exec .getbcr s = .next s ∧ exec .getdcr s = .next s ∧ exec .getmwl s = .next s ∧ exec .getmrl s = .next s) ∧
  (∀ s : State, s.stwUp = true → s.stw.i3c = true →
     exec .enec s = .next { s with stw := { s.stw with events := true } } ∧
       exec .disec s = .next { s with stw := { s.stw with events := false } } ∧
     (∃ l, exec .getpid s = .next (s.emit (.sideband 0x38D 0 l))) ∧
     (∃ l, exec .getbcr s = .next (s.emit (.sideband 0x38E 0 l))) ∧
     (∃ l, exec .getdcr s = .next (s.emit (.sideband 0x38F 0 l))) ∧
     (∃ l, exec .getmwl s = .next (s.emit (.sideband 0x38B 0 l))) ∧
     (∃ l, exec .getmrl s = .next (s.emit (.sideband 0x38C 0 l)))) ∧
  (∀ (e : BitVec 8) (s : State), s.stwUp = true →
     (e = 0 ∨ e = 0xFF → exec (.setEndpointId e) s = .next (s.emit (.sideband 1 2 []))) ∧
     (e ≠ 0 → e ≠ 0xFF → exec (.setEndpointId e) s =
       .next (({ s with stw := { s.stw with eid := e.toNat } } : State).emit (.sideband 1 0 [0, e.toNat, 0]))) ∧
     (∃ l, exec .getEndpointId s = .next (s.emit (.sideband 2 0 (s.stw.eid :: l)))) ∧
     (∃ l, exec .getEndpointUuid s = .next (s.emit (.sideband 3 0 l))) ∧
     (∃ l, exec (.getMctpVersionSupport e) s = .next (s.emit (.sideband 4 0 l))) ∧
     exec .getMessageTypeSupport s = .next (s.emit (.sideband 5 0 [3, 0x00, 0x01, 0x7E])) ∧
     (∃ l, exec .getVendorDefinedMessageSupport s = .next (s.emit (.sideband 6 0 (s.get GLB_IDENT_VENDOR :: l)))) ∧
     exec (.unsupportedMctpCommand e) s = .next (s.emit (.sideband e.toNat 5 [])))

/-- With no steward up every PLDM command changes nothing. With a steward up: SetTID stores the identity and refuses 0 and 0xFF,
GetTID returns it; the three types 0, 2 and 5 and their commands are named and another type is refused; a sensor that exists
reads enabled with its value, or disabled; SetEventReceiver stores the receiver; RequestUpdate while an update runs answers
ALREADY_IN_UPDATE_MODE, outside SERVE it is unable to initiate (with event 0x1004), and in SERVE it begins the update; without
an update in progress through PLDM the component commands answer NOT_IN_UPDATE_MODE; with one, the component table and the
component are taken in their order and the steward asks for at most 1,024 bytes from the start; ActivateFirmware with nothing
staged for the steward is refused; GetStatus answers the state; the cancels end the component or the update. Numbers and
completion codes are presumed (log entry 13). -/
def Obligations.PldmBaseMonitoringAndUpdate : Prop :=
  (∀ (e : BitVec 8) (i : BitVec 16) (b : Bool) (w : Word) (d : List Byte) (s : State), s.stwUp = false →
     exec (.settid e) s = .next s ∧
     exec .gettid s = .next s ∧
     exec (.getpldmversion e) s = .next s ∧
     exec .getpldmtypes s = .next s ∧
     exec (.getpldmcommands e) s = .next s ∧
     exec (.getsensorreading i) s = .next s ∧
     exec (.getstatesensorreadings i) s = .next s ∧
     exec (.setnumericsensorenable i b) s = .next s ∧
     exec .getpdrrepositoryinfo s = .next s ∧
     exec (.getpdr w) s = .next s ∧
     exec (.seteventreceiver b e) s = .next s ∧
     exec .querydeviceidentifiers s = .next s ∧
     exec .getfirmwareparameters s = .next s ∧
     exec .requestupdate s = .next s ∧
     exec .passcomponenttable s = .next s ∧
     exec (.updatecomponent w) s = .next s ∧
     exec (.requestfirmwaredataResponse d) s = .next s ∧
     exec .activatefirmware s = .next s ∧
     exec .getstatus s = .next s ∧
     exec .cancelupdatecomponent s = .next s ∧
     exec .cancelupdate s = .next s) ∧
  (∀ (e : BitVec 8) (s : State), s.stwUp = true →
     (e = 0 ∨ e = 0xFF → exec (.settid e) s = .next (s.emit (.sideband 0x101 2 []))) ∧
     (e ≠ 0 → e ≠ 0xFF → exec (.settid e) s =
       .next (({ s with stw := { s.stw with tid := e.toNat } } : State).emit (.sideband 0x101 0 []))) ∧
     exec .gettid s = .next (s.emit (.sideband 0x102 0 [s.stw.tid])) ∧
     (e = 0 ∨ e = 2 ∨ e = 5 → ∃ l, exec (.getpldmversion e) s = .next (s.emit (.sideband 0x103 0 l))) ∧
     exec .getpldmtypes s = .next (s.emit (.sideband 0x104 0 [0, 2, 5])) ∧
     exec (.getpldmcommands 0) s = .next (s.emit (.sideband 0x105 0 [1, 2, 3, 4, 5])) ∧
     exec (.getpldmcommands 2) s = .next (s.emit (.sideband 0x105 0 [0x04, 0x10, 0x11, 0x21, 0x50, 0x51])) ∧
     exec (.getpldmcommands 5) s =
       .next (s.emit (.sideband 0x105 0 [0x01, 0x02, 0x10, 0x13, 0x14, 0x1A, 0x1B, 0x1C, 0x1D])) ∧
     (e ≠ 0 → e ≠ 2 → e ≠ 5 → exec (.getpldmversion e) s = .next (s.emit (.sideband 0x103 0x83 [])) ∧
       exec (.getpldmcommands e) s = .next (s.emit (.sideband 0x105 0x83 [])))) ∧
  (∀ (i : BitVec 16) (s : State), s.stwUp = true →
     (s.sensorKnown i.toNat = false → exec (.getsensorreading i) s = .next (s.emit (.sideband 0x211 0x80 [])) ∧
       ∀ b, exec (.setnumericsensorenable i b) s = .next (s.emit (.sideband 0x210 0x80 []))) ∧
     (s.sensorKnown i.toNat = true → s.stw.sensorOff.contains i.toNat = true →
       exec (.getsensorreading i) s = .next (s.emit (.sideband 0x211 0 [1]))) ∧
     (s.sensorKnown i.toNat = true → s.stw.sensorOff.contains i.toNat = false →
       exec (.getsensorreading i) s = .next (s.emit (.sideband 0x211 0 [0, s.sensorValue i.toNat]))) ∧
     (s.sensorKnown i.toNat = true → ∀ b, ∃ l, exec (.setnumericsensorenable i b) s =
       .next (({ s with stw := { s.stw with sensorOff := l } } : State).emit (.sideband 0x210 0 [])) ∧
       l.contains i.toNat = !b) ∧
     (i.toNat < 16 → s.sensorKnown i.toNat = true ∧ s.sensorValue i.toNat = s.get (STW_TEMP_TEMP i.toNat)) ∧
     (16 ≤ i.toNat → i.toNat < 20 → s.sensorKnown i.toNat = true ∧
       s.sensorValue i.toNat = s.get (STW_VMON_MV (i.toNat - 16)))) ∧
  (∀ (i : BitVec 16) (w : Word) (e : BitVec 8) (s : State), s.stwUp = true →
     (∃ l, exec (.getstatesensorreadings i) s = .next (s.emit (.sideband 0x221 0 l))) ∧
     (∃ l, exec .getpdrrepositoryinfo s = .next (s.emit (.sideband 0x250 0 l))) ∧
     (∃ l, exec (.getpdr w) s = .next (s.emit (.sideband 0x251 0 l))) ∧
     exec (.seteventreceiver true e) s =
       .next (({ s with stw := { s.stw with receiver := some e.toNat } } : State).emit (.sideband 0x204 0 [])) ∧
     exec (.seteventreceiver false e) s =
       .next (({ s with stw := { s.stw with receiver := none } } : State).emit (.sideband 0x204 0 [])) ∧
     (∃ l, exec .querydeviceidentifiers s = .next (s.emit (.sideband 0x501 0 l))) ∧
     (∃ l, exec .getfirmwareparameters s =
       .next (s.emit (.sideband 0x502 0 (s.get64 STW_FWVER_LO_VALUE STW_FWVER_HI_VALUE :: l)))) ∧
     (∃ l, exec .getstatus s = .next (s.emit (.sideband 0x51B 0 (s.stw.pldm :: l))))) ∧
  (∀ s : State, s.stwUp = true →
     (s.stw.update ≠ none → exec .requestupdate s = .next (s.emit (.sideband 0x510 0x81 []))) ∧
     (s.stw.update = none → s.glb.st ≠ .serve →
       exec .requestupdate s = .next ((s.event 0x1004 0).emit (.sideband 0x510 0x8A []))) ∧
     (s.stw.update = none → s.glb.st = .serve → exec .requestupdate s = .next ((({ s with stw := { s.stw with
       update := some ⟨true, 0,
         [], false⟩, staged := none,
         waits := none, pldm := 1 } } : State).set STW_STATUS_UPD 1).emit (.sideband 0x510 0 [])))) ∧
  (∀ (w : Word) (d : List Byte) (s : State), s.stwUp = true → s.pldmUpdate = none →
     exec .passcomponenttable s = .next (s.emit (.sideband 0x513 0x80 [])) ∧
       exec (.updatecomponent w) s = .next (s.emit (.sideband 0x514 0x80 [])) ∧
     exec .cancelupdatecomponent s = .next (s.emit (.sideband 0x51C 0x80 [])) ∧
       exec .cancelupdate s = .next (s.emit (.sideband 0x51D 0x80 [])) ∧
     exec (.requestfirmwaredataResponse d) s = .next s) ∧
  (∀ (w : Word) (d : List Byte) (s : State) (u : Update), s.stwUp = true → s.stw.update = some u → u.viaPldm = true →
     (s.stw.pldm = 1 → exec .passcomponenttable s =
       .next (({ s with stw := { s.stw with pldm := 2 } } : State).emit (.sideband 0x513 0 []))) ∧
     (s.stw.pldm ≠ 1 → exec .passcomponenttable s = .next (s.emit (.sideband 0x513 0x84 []))) ∧
     (s.stw.pldm ≠ 2 ∨ s.get STW_STATUS_UPD ≠ 1 → exec (.updatecomponent w) s = .next (s.emit (.sideband 0x514 0x84 []))) ∧
     (s.stw.pldm = 2 → s.get STW_STATUS_UPD = 1 → packageSize w.toNat = false →
       exec (.updatecomponent w) s = .next (s.emit (.sideband 0x514 2 []))) ∧
     (s.stw.pldm = 2 → s.get STW_STATUS_UPD = 1 → packageSize w.toNat = true → ∃ t, exec (.updatecomponent w) s = .next t ∧
       t.stw = { s.stw with pldm := 3, update := some { u with size := w.toNat, bytes := [], pulled := true } } ∧
         t.regs = s.regs ∧ t.glb = s.glb ∧ t.irq = s.irq ∧ t.evr = s.evr ∧ t.cfl = s.cfl ∧ t.dge = s.dge ∧ t.mlk = s.mlk ∧
         t.mtx = s.mtx ∧ t.cch = s.cch ∧ t.vlt = s.vlt ∧ t.ldg = s.ldg ∧
       t.out = .sideband 0x515 0 [0, min 1024 w.toNat] :: .sideband 0x514 0 [] :: s.out) ∧
     (u.pulled = false → exec (.requestfirmwaredataResponse d) s = .next s) ∧
     (u.pulled = true → u.bytes.length + d.length < u.size → d.length ≤ 1024 →
       ∃ t, exec (.requestfirmwaredataResponse d) s = .next t ∧
       t.stw = { s.stw with pldm := 3, update := some { u with bytes := u.bytes ++ d, pulled := true } } ∧ t.regs = s.regs ∧
         t.glb = s.glb ∧ t.cfl = s.cfl)) ∧
  (∀ s : State, s.stwUp = true → (s.mayActivate = none →
     exec .activatefirmware s = .next ((if s.glb.st = .serve then s else s.event 0x1004 0).emit (.sideband 0x51A 0x84 []))) ∧
     (∀ b, s.mayActivate = some b → exec .activatefirmware s = .next ((s.emit (.sideband 0x51A 0 [])).activate b))) ∧
  (∀ (s : State) (u : Update), s.stwUp = true → s.stw.update = some u → u.viaPldm = true →
     exec .cancelupdate s = .next ((s.updateDrop.updStw fun w => { w with pldm := 0 }).emit (.sideband 0x51D 0 [])) ∧
     exec .cancelupdatecomponent s =
       .next (((s.updateDrop.updateBegin true 0).updStw fun w => { w with pldm := 2 }).emit (.sideband 0x51C 0 [])) ∧
     (s.staging = false → s.updateDrop.stw = { s.stw with update := none, staged := none, waits := none }))

/-- Each agent's command acts while the agent is answered (the steward always). EVR_CURSOR_WRITE sets the agent's cursor and puts
its GEN to 0 (R466). SEVERITY_QUERY stores the code that EVR_SEVQ answers for. CHALLENGE without the key changes nothing; with
it a fresh value is bound to the agent with the beat and the head of that beat, replacing any other. CLEAR without the key
changes nothing; without a challenge, by another agent than the challenged one or with the key slot empty nothing is cleared;
with the challenge it is spent, and the ring is cleared where the response matches and is in time, else nothing is cleared:
the record 0x0F01 opens the new ring, after it at most one 0x0D05 of the flash copy. CHALLENGE_EXPIRY drops a challenge
1,000,000 beats old, RECORDER_FLASH_COPY copies when the hour is over and moves the start on by one hour, else both change
nothing. -/
def Obligations.RecorderCursorsChallengesAndClears : Prop :=
  (∀ (g : Agent) (seq : Word) (s : State), (¬ (!s.answers g)) →
     exec (.evrCursorWrite g seq) s =
       .next ((s.updEvr fun e => { e with cursor := e.cursor.set g seq.toNat, gen := e.gen.set g 0 }))) ∧
  (∀ (code : BitVec 16) (s : State), exec (.severityQuery code) s = .next (s.set EVR_SEVQ_CODE code.toNat)) ∧
  (∀ (g : Agent) (key : BitVec 16) (s : State), s.answers g = true → (key ≠ 0x434C → exec (.challenge g key) s = .next s) ∧
     (key = 0x434C → ∃ b : List Byte, b.length = 32 ∧ exec (.challenge g key) s = .next { s with
       glb := { s.glb with free := s.glb.free + 1 }
       evr := { s.evr with chal := some ⟨g, s.glb.beat, (match s.evr.ring with | r :: _ => r.seq | [] => 0), b⟩, clrState := 1, clrAgent := g.num } })) ∧
  (∀ (g : Agent) (key : BitVec 16) (seq : Word) (s : State), s.answers g = false →
     exec (.evrCursorWrite g seq) s = .next s ∧ exec (.challenge g key) s = .next s ∧ exec (.clear g key) s = .next s) ∧
  (∀ (g : Agent) (key : BitVec 16) (s : State), s.answers g = true → (key ≠ 0x434C → exec (.clear g key) s = .next s) ∧
     (s.evr.chal = none → exec (.clear g 0x434C) s =
       .next (({ (s.setB EVR_STATUS_CLRREF true) with evr := { s.evr with clrState := 4 } } : State).event 0x0F02 0)) ∧
     (∀ c, s.evr.chal = some c → c.agent ≠ g →
       exec (.clear g 0x434C) s = .next ((s.setB EVR_STATUS_CLRREF true).event 0x0F02 0))) ∧
  (∀ (g : Agent) (c : Challenge) (s : State), s.answers g = true ∧ s.evr.chal = some c ∧ c.agent = g →
     exec (.clear g 0x434C) s =
       .next (
       let s1 := (s.dgeRequest .recClear).updEvr fun e => { e with chal := none }
       match s.keyOf s.img.clearKey with
       | none => s1.clearRefuse
       | some k => if s.expired c.beat 1000000 ∨ s.response g ≠ clearResponse k c then s1.clearRefuse else s1.clearRing g c)) ∧
  (∀ (g : Agent) (c : Challenge) (s : State), s.answers g = true ∧ s.evr.chal = some c ∧ c.agent = g →
     Store.wf 0 s.regs = true → ∃ t, exec (.clear g 0x434C) s = .next t ∧ t.evr.chal = none ∧
     (s.keyOf s.img.clearKey = none → t.evr.clrState = 4 ∧ t.evr.copied = s.evr.copied ∧ t.cfl = s.cfl) ∧
     (∀ k, s.keyOf s.img.clearKey = some k → s.expired c.beat 1000000 = false → s.response g = clearResponse k c →
       t.evr.clrState = 3 ∧ (s.dge.owner = none →
         t.get EVR_CLRSEQ_SEQ = (match s.evr.ring with | r :: _ => r.seq | [] => 0) % 2 ^ 32) ∧
       ∃ l r, t.evr.ring = l ++ [r] ∧ r.code = 0x0F01 ∧ r.clearRec = true ∧ r.src = srcAgent g.num ∧ r.nsnap = 8 ∧
         l.length ≤ 1 ∧ (∀ x ∈ l, x.code = 0x0D05) ∧ (s.flashOn = false → l = [])) ∧
     (∀ k, s.keyOf s.img.clearKey = some k → s.expired c.beat 1000000 = true ∨ s.response g ≠ clearResponse k c →
       t.evr.clrState = 4 ∧ t.evr.copied = s.evr.copied ∧ t.cfl = s.cfl)) ∧
  (∀ (s : State), s.evr.chal.any (fun c => s.expired c.beat 1000000) = true →
     exec .challengeExpiry s = .next ({ s with evr := { s.evr with chal := none, clrState := 0 } })) ∧
  (∀ (s : State), ¬(s.evr.chal.any (fun c => s.expired c.beat 1000000) = true) → exec .challengeExpiry s = .next s) ∧
  (∀ (s : State), s.expired s.evr.copyStart 3600000000 = true →
     exec .recorderFlashCopy s = .next ((s.updEvr fun e => { e with copyStart := e.copyStart + 3600000000 }).recorderCopy)) ∧
  (∀ (s : State), ¬(s.expired s.evr.copyStart 3600000000 = true) → exec .recorderFlashCopy s = .next s) ∧
  (∀ s : State, s.recorderCopy.evr.copied = s.evr.ring.map (fun r => (r.seq, r.rep)) ∧
     s.recorderCopy.evr.copyStart = s.evr.copyStart ∧ s.recorderCopy.glb = s.glb ∧
     (s.flashOn = false → s.recorderCopy.evr.ring = s.evr.ring) ∧ (s.evr.toCopy = [] → s.recorderCopy.cfl = s.cfl))

/-- Every code of the four columns of the table has the severity of its column, a code that the table lists under no severity of 1
or above has severity 0, 0x0401 and 0x0402 have severity 1 and 0x0403 severity 0; and after a write of a code to
EVR_SEVQ.CODE, EVR_SEVQ.SEV reads the severity of that code. -/
def Obligations.EachEventCodeHasTheSeverityOfTheTable : Prop :=
  ((∀ c ∈ ([0x0404, 0x0608, 0x0712, 0x0B0A] : List Nat), severity c = 3) ∧
     (∀ c ∈ ([0x0302, 0x0308,
       0x040A, 0x0503, 0x0609,
       0x060A, 0x060D, 0x070A,
       0x0715, 0x0716, 0x0808,
       0x0904, 0x0908, 0x0A08, 0x0A0B, 0x0A0C, 0x0B03, 0x0B07, 0x0B0B, 0x0B0C, 0x0B0E, 0x1007] : List Nat), severity c = 2) ∧
     (∀ c ∈ ([0x0101, 0x0110,
       0x0201, 0x0202, 0x0203,
       0x0204, 0x0205, 0x0207,
       0x0303, 0x0306, 0x0307,
       0x0309, 0x030B, 0x030C,
       0x0401, 0x0402, 0x0405,
       0x0407, 0x0408, 0x040B,
       0x040C, 0x0504, 0x0505,
       0x0506, 0x0508, 0x0509,
       0x050A, 0x050D, 0x0601,
       0x0603] ++ [0x0605, 0x0703,
       0x0706, 0x0707, 0x0708,
       0x0709, 0x070C, 0x0711,
       0x0718, 0x0719, 0x0802,
       0x0803, 0x0804, 0x0805,
       0x0806, 0x0807, 0x0902,
       0x0903, 0x0909, 0x090A,
       0x090B, 0x090C, 0x090D,
       0x090E, 0x090F, 0x0914,
       0x0916, 0x0917, 0x0A04,
       0x0A07] ++ [0x0A09, 0x0A0A,
       0x0A0D, 0x0A0E, 0x0B04,
       0x0B08, 0x0B09, 0x0B0D,
       0x0B0F, 0x0B10, 0x0B11,
       0x0C02, 0x0C06, 0x0C08,
       0x0D01, 0x0D02, 0x0D03,
       0x0D04, 0x0D05, 0x0D06,
       0x0D07, 0x0E01, 0x0E03, 0x0E04, 0x0F02, 0x0F04, 0x1002, 0x1004, 0x1005, 0x1006] ++ [0x1008] : List Nat), severity c =
       1) ∧
     (∀ c ∈ ([0x0111, 0x0206,
       0x0304, 0x0305, 0x030A,
       0x0403, 0x0406, 0x0409,
       0x0501, 0x0502, 0x0507,
       0x050B, 0x050C, 0x050E,
       0x0602, 0x0606, 0x0607,
       0x060B, 0x060C, 0x0701,
       0x0704, 0x0705, 0x070E,
       0x0713, 0x0714, 0x0717,
       0x0801, 0x0901, 0x0910,
       0x0911] ++ [0x0913, 0x0A01,
       0x0A02, 0x0A03, 0x0A06,
       0x0B01, 0x0B02, 0x0B05,
       0x0B06, 0x0B12, 0x0C01,
       0x0C03, 0x0C05, 0x0C07, 0x0C09, 0x0E02, 0x0F01, 0x1001, 0x1003, 0x1009] : List Nat), severity c = 0) ∧
     severity 0x0401 = 1 ∧ severity 0x0402 = 1 ∧ severity 0x0403 = 0) ∧
  (∀ c : Nat, c ∉ ([0x0404,
     0x0608, 0x0712, 0x0B0A,
     0x0302, 0x0308, 0x040A,
     0x0503, 0x0609, 0x060A,
     0x060D, 0x070A, 0x0715,
     0x0716, 0x0808, 0x0904,
     0x0908, 0x0A08, 0x0A0B,
     0x0A0C, 0x0B03, 0x0B07,
     0x0B0B, 0x0B0C, 0x0B0E,
     0x1007, 0x0101, 0x0110,
     0x0201, 0x0202] ++ [0x0203,
     0x0204, 0x0205, 0x0207,
     0x0303, 0x0306, 0x0307,
     0x0309, 0x030B, 0x030C,
     0x0401, 0x0402, 0x0405,
     0x0407, 0x0408, 0x040B,
     0x040C, 0x0504, 0x0505,
     0x0506, 0x0508, 0x0509,
     0x050A, 0x050D, 0x0601,
     0x0603, 0x0605, 0x0703,
     0x0706, 0x0707] ++ [0x0708,
     0x0709, 0x070C, 0x0711,
     0x0718, 0x0719, 0x0802,
     0x0803, 0x0804, 0x0805,
     0x0806, 0x0807, 0x0902,
     0x0903, 0x0909, 0x090A,
     0x090B, 0x090C, 0x090D,
     0x090E, 0x090F, 0x0914,
     0x0916, 0x0917, 0x0A04,
     0x0A07, 0x0A09, 0x0A0A,
     0x0A0D, 0x0A0E] ++ [0x0B04,
     0x0B08, 0x0B09, 0x0B0D,
     0x0B0F, 0x0B10, 0x0B11,
     0x0C02, 0x0C06, 0x0C08,
     0x0D01, 0x0D02, 0x0D03,
     0x0D04, 0x0D05, 0x0D06,
     0x0D07, 0x0E01, 0x0E03, 0x0E04, 0x0F02, 0x0F04, 0x1002, 0x1004, 0x1005, 0x1006, 0x1008] : List Nat) → severity c = 0) ∧
  (∀ (code : BitVec 16) (s : State), Store.wf 0 s.regs = true → ∃ t, exec (.severityQuery code) s = .next t ∧
     t.view EVR_SEVQ_SEV = severity code.toNat)

/-- For every state, code and source: where the newest record has the same code and source, lies within EVR_RPTWIN beats and has
REPEAT below 65,535, the event increments its REPEAT and sets its LASTBEAT and nothing else of the ring; otherwise the newest
record is new, with the next sequence number, this beat, the code and the source, and the ring keeps at most 8,192. Readers
whose cursor names the slot see GEN change. SEVIRQ sets for a severity at or above IRQ_SEV, and nothing but recorder,
interrupts, mailbox logs and what is sent out changes. An interrupt event sets its bit in every agent's copy and no other bit;
where every copy has the bit already, nothing changes; a host port whose bit was clear, source enabled and unmasked, vector
unmasked, domains on and link up sends the message on the mapped vector. -/
def Obligations.EventsAreRecordedAndInterruptsRaised : Prop :=
  (∀ (code src : Nat) (s : State) (r : Rec) (rest : List Rec), s.evr.ring = r :: rest → r.code = code ∧ r.src = src ∧
     s.beat - r.lastBeat ≤ s.get EVR_RPTWIN_BEATS ∧ r.rep < 65535 ∧ s.get EVR_RPTWIN_BEATS ≠ 0 →
     (s.event code src).evr.ring = { r with rep := r.rep + 1, lastBeat := s.beat } :: rest ∧
       (s.event code src).evr.next = s.evr.next ∧
     ∀ g, (s.event code src).evr.gen.get g =
       if s.evr.cursor.get g % 8192 = r.seq % 8192 then (s.evr.gen.get g + 1) % 256 else s.evr.gen.get g) ∧
  (∀ (code src : Nat) (s : State), (∀ r rest, s.evr.ring = r :: rest → ¬(r.code = code ∧ r.src = src ∧
     s.beat - r.lastBeat ≤ s.get EVR_RPTWIN_BEATS ∧ r.rep < 65535 ∧ s.get EVR_RPTWIN_BEATS ≠ 0)) →
     ∃ x : Rec, (s.event code src).evr.ring = (x :: s.evr.ring).take 8192 ∧ x.seq = s.evr.next ∧ x.beat = s.beat ∧
       x.lastBeat = s.beat ∧ x.code = code ∧
       x.src = src ∧ x.rep = 0 ∧ x.clearRec = false ∧ (severity code < 2 → x.nsnap = 0) ∧
       (s.event code src).evr.next = (s.evr.next + 1) % 2 ^ 32 ∧
       ∀ g, (s.event code src).evr.gen.get g =
         if s.evr.cursor.get g % 8192 = s.evr.next % 8192 then (s.evr.gen.get g + 1) % 256 else s.evr.gen.get g) ∧
  (∀ (code src : Nat) (s : State), s.Reported (s.event code src) ∧
     (s.get EVR_CTRL_IRQ_SEV ≤ severity code → (s.event code src).evr.sevIrq = true) ∧
     (severity code < s.get EVR_CTRL_IRQ_SEV → (s.event code src).evr.sevIrq = s.evr.sevIrq)) ∧
  (∀ (n : Nat) (s : State), n < 35 →
     (∀ g, bitOf ((s.raise n).irq.istat.get g) n = true) ∧ (∀ g m, m ≠ n →
       bitOf ((s.raise n).irq.istat.get g) m = bitOf (s.irq.istat.get g) m) ∧
     s.raise n = { s with irq := (s.raise n).irq, out := (s.raise n).out } ∧
     ((∀ g, bitOf (s.irq.istat.get g) n = true) → s.raise n = s) ∧
     (∀ p : Port, bitOf (s.irq.istat.get p.agent) n = false → s.enabled n = true → bitOf (s.imask p.agent) n = false →
       s.domOn (80 + p.num) = true → s.domOn (82 + p.num) = true → s.irq.funcMask.get p = false →
         s.get (MSIX_CTL_MASK (s.get (vectorField n p.agent)) p.agent) = 0 →
       s.hp.up.get p = true → .msix p (s.get (vectorField n p.agent)) ∈ (s.raise n).out))

/-- Of an agent that is answered: UNASSIGNED_ACCESS outside the flash window: a read of an unassigned offset answers 0, a write
there or one without all byte enables changes nothing, and each is counted with event 0x0101; an assigned access changes
nothing here. LO_READ_LATCH at a latching _LO register returns the word and puts the upper half of the same instant into the
agent's shadow, an 8-byte read returns that half too; elsewhere a 4-byte one does nothing and an 8-byte one reads the two
words in turn. MSIX_MESSAGE_SEND sends a held message once the link is up, a pending one once it is unmasked, and else
nothing. GLB_LOCK_SET sets the agent's lock, after which no write changes its IMASK and VECMAP fields. IDCODE reads
0x1410056B; BYPASS and, unless every rail is off, an instruction that takes control of pins select the bypass register; that
it captures a 0 is presumed (log entry 14). -/
def Obligations.AccessesPinsAndMessages : Prop :=
  (∀ (g : Agent) (off : BitVec 27) (full : Bool) (s : State), s.answers g = true → off.toNat < 0x4000000 →
     (assigned g off.toNat = false → exec (.unassignedAccess g off false full) s =
       .next (((s.emit (.regData g off.toNat 0)).count GLB_ACCERR_COUNT 1).event 0x0101 (srcAgent g.num)) ∧
       exec (.unassignedAccess g off true full) s = .next ((s.count GLB_ACCERR_COUNT 1).event 0x0101 (srcAgent g.num))) ∧
     exec (.unassignedAccess g off true false) s = .next ((s.count GLB_ACCERR_COUNT 1).event 0x0101 (srcAgent g.num)) ∧
     (assigned g off.toNat = true → exec (.unassignedAccess g off false full) s = .next s ∧
       exec (.unassignedAccess g off true true) s = .next s)) ∧
  (∀ (g : Agent) (off : BitVec 27) (s : State), s.answers g = true →
     (off.toNat ∉ latchLo → exec (.loReadLatch g off false) s = .next s ∧
       exec (.loReadLatch g off true) s = .next ((s.readAny g off.toNat).readAny g (off.toNat + 4))) ∧
     (off.toNat ∈ latchLo → s.blockOff off.toNat = false → exec (.loReadLatch g off false) s =
       .next ((s.set (shadowFld g (off.toNat + 4)) (s.liveHi off.toNat)).emit (.regData g off.toNat (s.word g off.toNat))) ∧
      exec (.loReadLatch g off true) s = .next (((s.set (shadowFld g (off.toNat + 4)) (s.liveHi off.toNat)).emit
       (.regData g off.toNat (s.word g off.toNat))).emit (.regData g (off.toNat + 4) (s.liveHi off.toNat))))) ∧
  (∀ (p : Port) (v : BitVec 6) (s : State),
     (v.toNat ∈ s.irq.held.get p ∧ s.hp.up.get p = true →
       exec (.msixMessageSend p v) s =
       .next (({ s with irq := { s.irq with held := s.irq.held.set p ((s.irq.held.get p).erase v.toNat) } } : State).sendMsix p v.toNat)) ∧
     (¬(v.toNat ∈ s.irq.held.get p ∧ s.hp.up.get p = true) → bitOf (s.irq.pba.get p) v.toNat = true ∧
       s.get (MSIX_CTL_MASK v.toNat p.agent) = 0 ∧ s.irq.funcMask.get p = false →
       exec (.msixMessageSend p v) s =
       .next (({ s with irq := { s.irq with pba := s.irq.pba.set p (clrBit (s.irq.pba.get p) v.toNat) } } : State).sendMsix p v.toNat)) ∧
     (¬(v.toNat ∈ s.irq.held.get p ∧ s.hp.up.get p = true) → ¬(bitOf (s.irq.pba.get p) v.toNat = true ∧
       s.get (MSIX_CTL_MASK v.toNat p.agent) = 0 ∧ s.irq.funcMask.get p = false) → exec (.msixMessageSend p v) s = .next s)) ∧
  (∀ (p : Port) (v : BitVec 6) (s : State), ((s.irq.held.get p).contains v.toNat ∧ s.hp.up.get p = true) →
     exec (.msixMessageSend p v) s =
       .next (let n := v.toNat
       ((s.updIrq fun i => { i with held := i.held.set p ((i.held.get p).erase n) }).sendMsix p n))) ∧
  (∀ (p : Port) (v : BitVec 6) (s : State), (¬ ((s.irq.held.get p).contains v.toNat ∧ s.hp.up.get p = true)) →
     (bitOf (s.irq.pba.get p) v.toNat ∧ s.get (MSIX_CTL_MASK v.toNat p.agent) = 0 ∧ s.irq.funcMask.get p = false) →
     exec (.msixMessageSend p v) s =
       .next (let n := v.toNat
       ((s.updIrq fun i => { i with pba := i.pba.set p (clrBit (i.pba.get p) n) }).sendMsix p n))) ∧
  (∀ (g : Agent) (s : State), (¬ (!s.answers g)) →
     exec (.glbLockSet g) s =
       .next ((s.set (GLB_LOCK_LOCK g) 1))) ∧
  (∀ (g : Agent) (s : State), s.answers g = true → ∃ t, exec (.glbLockSet g) s = .next t ∧ t = s.set (GLB_LOCK_LOCK g) 1 ∧
     t.get (GLB_LOCK_LOCK g) = 1 ∧
     ∀ (f : Fld) (b : Bool) (w : Nat), f.acc = .rwl → t.writeField g f b w = t) ∧
  (∀ (g : Agent) (off : BitVec 27) (b full : Bool) (w : Word) (be : BitVec 4) (r : RegTarget) (s : State),
     s.answers g = false →
     exec (.unassignedAccess g off b full) s = .next s ∧ exec (.loReadLatch g off b) s = .next s ∧
       exec (.glbLockSet g) s = .next s ∧
     exec (.offDomainAccess g off b) s = .next s ∧ exec (.readClear g off) s = .next s ∧
       exec (.registerWrite g r w be []) s = .next s) ∧
  (∀ s : State, exec .jtagIdcode s =
     .next (({ s with hp := { s.hp with jtagIr := 1 } } : State).emit (.jtag 0x1410056B 32)) ∧
     exec .jtagBypass s = .next (({ s with hp := { s.hp with jtagIr := 0 } } : State).emit (.jtag 0 1)) ∧
     (s.get SEQ_STATUS_PHASE = 0 ∨ s.get SEQ_STATUS_PHASE = 4 →
       exec .jtagPinControl s = .next { s with hp := { s.hp with jtagIr := 2 } }) ∧
     (s.get SEQ_STATUS_PHASE ≠ 0 → s.get SEQ_STATUS_PHASE ≠ 4 → exec .jtagPinControl s = exec .jtagBypass s))

/-- For every assigned offset of a TIL window of tile n with domain n off, and of the MLK and MTX blocks with domain 90 off: a
read answers 0 and a write changes nothing; the access is counted in GLB_ACCERR and no event is recorded. An offset of any
other block below the flash window is never off. OFF_DOMAIN_ACCESS, READ_CLEAR, REGISTER_WRITE with all byte enables and
LO_READ_LATCH all answer so. -/
def Obligations.RegistersOfAnOffDomainReadZeroAndIgnoreWrites : Prop :=
  (∀ (g : Agent) (off : BitVec 27) (w : Word) (s : State), s.answers g = true → off.toNat < 0x4000000 →
     assigned g off.toNat = true → s.blockOff off.toNat = true →
     exec (.offDomainAccess g off false) s = .next ((s.emit (.regData g off.toNat 0)).count GLB_ACCERR_COUNT 1) ∧
     exec (.offDomainAccess g off true) s = .next (s.count GLB_ACCERR_COUNT 1) ∧
     exec (.readClear g off) s = .next ((s.emit (.regData g off.toNat 0)).count GLB_ACCERR_COUNT 1) ∧
     exec (.registerWrite g (.space off) w 15 []) s = .next (s.count GLB_ACCERR_COUNT 1) ∧
     (off.toNat ∈ latchLo → exec (.loReadLatch g off false) s =
       .next ((s.emit (.regData g off.toNat 0)).count GLB_ACCERR_COUNT 1))) ∧
  (∀ (off : Nat) (s : State), off < 0x4000000 →
     (∀ n, n < 64 → 0x100000 + 0x4000 * n ≤ off → off < 0x100000 + 0x4000 * (n + 1) → s.blockOff off = !s.domOn n) ∧
     (0x70000 ≤ off → off < 0x90000 → s.blockOff off = !s.domOn 90) ∧
     (off < 0x70000 ∨ (0x90000 ≤ off ∧ off < 0x100000) ∨ 0x200000 ≤ off → s.blockOff off = false)) ∧
  (∀ (g : Agent) (off : BitVec 27) (b : Bool) (s : State), s.blockOff off.toNat = false →
     exec (.offDomainAccess g off b) s = .next s)

/-- Of an agent that is answered: READ_CLEAR of an assigned register that is on and neither latching nor with a read effect of its
own sends the word as it stood; afterwards its RC fields read 0, for every agent, and a word without RC fields leaves the
whole state but the output as it was. REGISTER_WRITE of a word of the global block changes nothing but registers and interrupt
state: an RW field reads the written bits, an RWL field does unless the agent's lock is set, an RO or RC field and every field
at another offset keeps its value, a W1C status bit is 0 where 1 is written and else as before. A write of the function mask
acts for a host port alone; a write that is unassigned or lacks a byte enable changes nothing but the count and event of R472.
Writes of one register in one cycle apply port B first, then port A, then the steward, so the last value stands; of DGE_CMD
and of the flash CMD0 the first in the order steward, port A, port B comes first. -/
def Obligations.ReadsAndWritesOfRegisters : Prop :=
  (∀ (g : Agent) (off : BitVec 27) (s : State), s.answers g = true → off.toNat < 0x4000000 → assigned g off.toNat = true →
     s.blockOff off.toNat = false → off.toNat ∉ latchLo → off.toNat ≠ 0xF0104 → off.toNat ≠ 0xA0040 →
     ∃ t, exec (.readClear g off) s = .next t ∧
     t = { s with regs := t.regs, out := .regData g off.toNat (s.word g off.toNat) :: s.out } ∧
     ((∀ x ∈ fieldsAt g off.toNat, x.1.acc ≠ .rc) → t.regs = s.regs) ∧
     (Store.wf 0 s.regs = true → ∀ x ∈ fieldsAt g off.toNat, x.1.acc = .rc → t.get x.1 = 0)) ∧
  (∀ (g : Agent) (off : BitVec 27) (s : State), (¬ (!s.answers g)) →
     exec (.readClear g off) s =
       .next ((s.readAny g off.toNat))) ∧
  (∀ (g : Agent) (s : State), exec (.readClear g 0xA0040) s = exec (.snapDataRead g) s) ∧
  (∀ (g : Agent) (t : RegTarget) (w : Word) (be : BitVec 4) (s : State), s.answers g = true →
     exec (.registerWrite g t w be []) s = .next (s.writeReg g t w be)) ∧
  (∀ (g : Agent) (t : RegTarget) (w : Word) (be : BitVec 4) (also : List (Agent × Word × BitVec 4)) (s : State),
     exec (.registerWrite g t w be also) s =
     .next ((if t = .space 0xD0008 ∨ t =
       .space 0x7FFFFF0 then requestOrder ((g,
       w, be) :: also) else cycleOrder ((g,
       w, be) :: also)).foldl (fun u x => if u.answers x.1 then u.writeReg x.1 t x.2.1 x.2.2 else u) s)) ∧
  (∀ (t : RegTarget) (wb wa ws : Word) (be : BitVec 4) (s : State), t ≠ .space 0xD0008 → t ≠ .space 0x7FFFFF0 →
     (∀ l : List (Agent × Word × BitVec 4),
       l ∈ ([[(.hostA, wa, be),
       (.stw, ws, be)], [(.stw, ws, be), (.hostA, wa, be)]] : List (List (Agent × Word × BitVec 4))) →
       exec (.registerWrite .hostB t wb be l) s =
         .next ((((s.agentWrite t) (.hostB, wb, be)).agentWrite t (.hostA, wa, be)).agentWrite t (.stw, ws, be))) ∧
     exec (.registerWrite .stw t ws be [(.hostA,
       wa, be)]) s = .next ((s.agentWrite t (.hostA, wa, be)).agentWrite t (.stw, ws, be))) ∧
  (∀ (g : Agent) (off : BitVec 27) (w : Word) (be : BitVec 4) (s : State), s.answers g = true → off.toNat < 0x4000000 →
     assigned g off.toNat = false ∨ be ≠ 15 →
     exec (.registerWrite g (.space off) w be []) s = .next ((s.count GLB_ACCERR_COUNT 1).event 0x0101 (srcAgent g.num))) ∧
  (∀ (b : Bool) (w : Word) (be : BitVec 4) (s : State), exec (.registerWrite .stw (.msixMask b) w be []) s = .next s ∧
     ∀ p : Port, s.answers p.agent = true →
       exec (.registerWrite p.agent (.msixMask b) w be []) s =
       .next { s with irq := { s.irq with funcMask := s.irq.funcMask.set p b } }) ∧
  (∀ (g : Agent) (off : BitVec 27) (w : Word) (s : State),
     off.toNat ∈ ([0x20, 0x24, 0x28, 0x2C, 0x30, 0x34, 0x38, 0x40, 0x60] : List Nat) → s.answers g = true →
       Store.wf 0 s.regs = true →
     ∃ t, exec (.registerWrite g (.space off) w 15 []) s = .next t ∧ t = { s with regs := t.regs, irq := t.irq } ∧
     (∀ f : Fld, f.lsb < 32 → f.off < 2 ^ 30 → f.off ≠ off.toNat → t.get f = s.get f) ∧
     (∀ x ∈ fieldsAt g off.toNat, (x.1.acc = .rw → t.get x.1 = bits w.toNat x.1.lsb x.1.width) ∧
       (x.1.acc = .ro ∨ x.1.acc = .rc → t.get x.1 = s.get x.1) ∧
       (x.1.acc = .rwl → s.get (GLB_LOCK_LOCK g) = 1 → t.get x.1 = s.get x.1) ∧
       (x.1.acc = .rwl → s.get (GLB_LOCK_LOCK g) ≠ 1 → (0x40 ≤ off.toNat → g ≠ .stw) →
         t.get x.1 = bits w.toNat x.1.lsb x.1.width)) ∧
     (off.toNat = 0x20 → ∀ n, n < 32 → bitOf (t.irq.istat.get g) n = (bitOf (s.irq.istat.get g) n && !bitOf w.toNat n)) ∧
     (off.toNat = 0x20 → ∀ h, h ≠ g → t.irq.istat.get h = s.irq.istat.get h) ∧
     (off.toNat ≠ 0x20 → off.toNat ≠ 0x24 → t.irq = s.irq))

/-- For every command but a loss or a return of VDDAON (whose reset R21 puts into POWERUP) and every state: if the command changes
the operating state, the pair of old and new state is one of those the table of R23 lists. BOOT is entered by
POWER_UP_COMPLETE alone, GRACE by INMON_TRIP alone, DRAIN by GRACE_TIMER_EXPIRY or INPUT_COLLAPSE alone, POWERUP by
POWER_UP_BEGIN alone and SERVE by PORTS_OPEN, WARM_SERVE_ENTRY or RIDE_THROUGH alone. -/
def Obligations.OperatingStateMovesOnlyAsListed : Prop :=
  (∀ (c : Instr) (s t : State), exec c s = .next t →
     (match c with | .vddaonLoss => False | .vddaonPowerOn .. => False | _ => True) →
     t.glb.st ≠ s.glb.st → (s.glb.st,
       t.glb.st) ∈ ([(.powerup, .boot), (.powerup, .sealed), (.boot, .restore), (.boot, .sealed),
       (.restore, .sealed), (.restore,
         .serve), (.serve, .grace), (.grace, .serve), (.grace, .drain), (.drain, .restore), (.drain, .sealed),
       (.serve, .sealed), (.grace, .sealed), (.sealed, .powerup)] : List (OpState × OpState))) ∧
  (∀ (c : Instr) (s t : State), exec c s = .next t → t.glb.st ≠ s.glb.st → (t.glb.st = .boot → c = .powerUpComplete) ∧
     (t.glb.st = .grace → c = .inmonTrip) ∧
     (t.glb.st = .drain → c = .graceTimerExpiry ∨ c = .inputCollapse) ∧
     (t.glb.st = .serve → c = .portsOpen ∨ c = .warmServeEntry ∨ c = .rideThrough) ∧
     (t.glb.st = .powerup → c = .powerUpBegin ∨
       (match c with | .vddaonLoss => True | .vddaonPowerOn .. => True | _ => False)))
end

