-- ==== Sys2Proof/Laws/State.lean ====
section
/-! SUPPORT. What each change of one part of the state leaves alone: one lemma per part per update. -/

namespace Sys2Proof.Machine

variable (s : State)

@[simp] theorem State.updGlb_glb (f : Glb → Glb) : (s.updGlb f).glb = f s.glb := rfl
@[simp] theorem State.updGlb_irq (f : Glb → Glb) : (s.updGlb f).irq = s.irq := rfl
@[simp] theorem State.updGlb_evr (f : Glb → Glb) : (s.updGlb f).evr = s.evr := rfl
@[simp] theorem State.updGlb_sti (f : Glb → Glb) : (s.updGlb f).sti = s.sti := rfl
@[simp] theorem State.updGlb_cfl (f : Glb → Glb) : (s.updGlb f).cfl = s.cfl := rfl
@[simp] theorem State.updGlb_dge (f : Glb → Glb) : (s.updGlb f).dge = s.dge := rfl
@[simp] theorem State.updGlb_stw (f : Glb → Glb) : (s.updGlb f).stw = s.stw := rfl
@[simp] theorem State.updGlb_pq (f : Glb → Glb) : (s.updGlb f).pq = s.pq := rfl
@[simp] theorem State.updGlb_mbx (f : Glb → Glb) : (s.updGlb f).mbx = s.mbx := rfl
@[simp] theorem State.updGlb_hp (f : Glb → Glb) : (s.updGlb f).hp = s.hp := rfl
@[simp] theorem State.updGlb_cch (f : Glb → Glb) : (s.updGlb f).cch = s.cch := rfl
@[simp] theorem State.updGlb_dsp (f : Glb → Glb) : (s.updGlb f).dsp = s.dsp := rfl
@[simp] theorem State.updGlb_ldg (f : Glb → Glb) : (s.updGlb f).ldg = s.ldg := rfl
@[simp] theorem State.updGlb_ctl (f : Glb → Glb) : (s.updGlb f).ctl = s.ctl := rfl
@[simp] theorem State.updGlb_seq (f : Glb → Glb) : (s.updGlb f).seq = s.seq := rfl
@[simp] theorem State.updGlb_drn (f : Glb → Glb) : (s.updGlb f).drn = s.drn := rfl
@[simp] theorem State.updGlb_vlt (f : Glb → Glb) : (s.updGlb f).vlt = s.vlt := rfl
@[simp] theorem State.updGlb_rst (f : Glb → Glb) : (s.updGlb f).rst = s.rst := rfl
@[simp] theorem State.updGlb_mlk (f : Glb → Glb) : (s.updGlb f).mlk = s.mlk := rfl
@[simp] theorem State.updGlb_mtx (f : Glb → Glb) : (s.updGlb f).mtx = s.mtx := rfl
@[simp] theorem State.updGlb_regs (f : Glb → Glb) : (s.updGlb f).regs = s.regs := rfl
@[simp] theorem State.updGlb_out (f : Glb → Glb) : (s.updGlb f).out = s.out := rfl
@[simp] theorem State.updGlb_pending (f : Glb → Glb) : (s.updGlb f).pending = s.pending := rfl
@[simp] theorem State.updIrq_glb (f : Irq → Irq) : (s.updIrq f).glb = s.glb := rfl
@[simp] theorem State.updIrq_irq (f : Irq → Irq) : (s.updIrq f).irq = f s.irq := rfl
@[simp] theorem State.updIrq_evr (f : Irq → Irq) : (s.updIrq f).evr = s.evr := rfl
@[simp] theorem State.updIrq_sti (f : Irq → Irq) : (s.updIrq f).sti = s.sti := rfl
@[simp] theorem State.updIrq_cfl (f : Irq → Irq) : (s.updIrq f).cfl = s.cfl := rfl
@[simp] theorem State.updIrq_dge (f : Irq → Irq) : (s.updIrq f).dge = s.dge := rfl
@[simp] theorem State.updIrq_stw (f : Irq → Irq) : (s.updIrq f).stw = s.stw := rfl
@[simp] theorem State.updIrq_pq (f : Irq → Irq) : (s.updIrq f).pq = s.pq := rfl
@[simp] theorem State.updIrq_mbx (f : Irq → Irq) : (s.updIrq f).mbx = s.mbx := rfl
@[simp] theorem State.updIrq_hp (f : Irq → Irq) : (s.updIrq f).hp = s.hp := rfl
@[simp] theorem State.updIrq_cch (f : Irq → Irq) : (s.updIrq f).cch = s.cch := rfl
@[simp] theorem State.updIrq_dsp (f : Irq → Irq) : (s.updIrq f).dsp = s.dsp := rfl
@[simp] theorem State.updIrq_ldg (f : Irq → Irq) : (s.updIrq f).ldg = s.ldg := rfl
@[simp] theorem State.updIrq_ctl (f : Irq → Irq) : (s.updIrq f).ctl = s.ctl := rfl
@[simp] theorem State.updIrq_seq (f : Irq → Irq) : (s.updIrq f).seq = s.seq := rfl
@[simp] theorem State.updIrq_drn (f : Irq → Irq) : (s.updIrq f).drn = s.drn := rfl
@[simp] theorem State.updIrq_vlt (f : Irq → Irq) : (s.updIrq f).vlt = s.vlt := rfl
@[simp] theorem State.updIrq_rst (f : Irq → Irq) : (s.updIrq f).rst = s.rst := rfl
@[simp] theorem State.updIrq_mlk (f : Irq → Irq) : (s.updIrq f).mlk = s.mlk := rfl
@[simp] theorem State.updIrq_mtx (f : Irq → Irq) : (s.updIrq f).mtx = s.mtx := rfl
@[simp] theorem State.updIrq_regs (f : Irq → Irq) : (s.updIrq f).regs = s.regs := rfl
@[simp] theorem State.updIrq_out (f : Irq → Irq) : (s.updIrq f).out = s.out := rfl
@[simp] theorem State.updIrq_pending (f : Irq → Irq) : (s.updIrq f).pending = s.pending := rfl
@[simp] theorem State.updEvr_glb (f : Evr → Evr) : (s.updEvr f).glb = s.glb := rfl
@[simp] theorem State.updEvr_irq (f : Evr → Evr) : (s.updEvr f).irq = s.irq := rfl
@[simp] theorem State.updEvr_evr (f : Evr → Evr) : (s.updEvr f).evr = f s.evr := rfl
@[simp] theorem State.updEvr_sti (f : Evr → Evr) : (s.updEvr f).sti = s.sti := rfl
@[simp] theorem State.updEvr_cfl (f : Evr → Evr) : (s.updEvr f).cfl = s.cfl := rfl
@[simp] theorem State.updEvr_dge (f : Evr → Evr) : (s.updEvr f).dge = s.dge := rfl
@[simp] theorem State.updEvr_stw (f : Evr → Evr) : (s.updEvr f).stw = s.stw := rfl
@[simp] theorem State.updEvr_pq (f : Evr → Evr) : (s.updEvr f).pq = s.pq := rfl
@[simp] theorem State.updEvr_mbx (f : Evr → Evr) : (s.updEvr f).mbx = s.mbx := rfl
@[simp] theorem State.updEvr_hp (f : Evr → Evr) : (s.updEvr f).hp = s.hp := rfl
@[simp] theorem State.updEvr_cch (f : Evr → Evr) : (s.updEvr f).cch = s.cch := rfl
@[simp] theorem State.updEvr_dsp (f : Evr → Evr) : (s.updEvr f).dsp = s.dsp := rfl
@[simp] theorem State.updEvr_ldg (f : Evr → Evr) : (s.updEvr f).ldg = s.ldg := rfl
@[simp] theorem State.updEvr_ctl (f : Evr → Evr) : (s.updEvr f).ctl = s.ctl := rfl
@[simp] theorem State.updEvr_seq (f : Evr → Evr) : (s.updEvr f).seq = s.seq := rfl
@[simp] theorem State.updEvr_drn (f : Evr → Evr) : (s.updEvr f).drn = s.drn := rfl
@[simp] theorem State.updEvr_vlt (f : Evr → Evr) : (s.updEvr f).vlt = s.vlt := rfl
@[simp] theorem State.updEvr_rst (f : Evr → Evr) : (s.updEvr f).rst = s.rst := rfl
@[simp] theorem State.updEvr_mlk (f : Evr → Evr) : (s.updEvr f).mlk = s.mlk := rfl
@[simp] theorem State.updEvr_mtx (f : Evr → Evr) : (s.updEvr f).mtx = s.mtx := rfl
@[simp] theorem State.updEvr_regs (f : Evr → Evr) : (s.updEvr f).regs = s.regs := rfl
@[simp] theorem State.updEvr_out (f : Evr → Evr) : (s.updEvr f).out = s.out := rfl
@[simp] theorem State.updEvr_pending (f : Evr → Evr) : (s.updEvr f).pending = s.pending := rfl
@[simp] theorem State.updSti_glb (f : Sti → Sti) : (s.updSti f).glb = s.glb := rfl
@[simp] theorem State.updSti_irq (f : Sti → Sti) : (s.updSti f).irq = s.irq := rfl
@[simp] theorem State.updSti_evr (f : Sti → Sti) : (s.updSti f).evr = s.evr := rfl
@[simp] theorem State.updSti_sti (f : Sti → Sti) : (s.updSti f).sti = f s.sti := rfl
@[simp] theorem State.updSti_cfl (f : Sti → Sti) : (s.updSti f).cfl = s.cfl := rfl
@[simp] theorem State.updSti_dge (f : Sti → Sti) : (s.updSti f).dge = s.dge := rfl
@[simp] theorem State.updSti_stw (f : Sti → Sti) : (s.updSti f).stw = s.stw := rfl
@[simp] theorem State.updSti_pq (f : Sti → Sti) : (s.updSti f).pq = s.pq := rfl
@[simp] theorem State.updSti_mbx (f : Sti → Sti) : (s.updSti f).mbx = s.mbx := rfl
@[simp] theorem State.updSti_hp (f : Sti → Sti) : (s.updSti f).hp = s.hp := rfl
@[simp] theorem State.updSti_cch (f : Sti → Sti) : (s.updSti f).cch = s.cch := rfl
@[simp] theorem State.updSti_dsp (f : Sti → Sti) : (s.updSti f).dsp = s.dsp := rfl
@[simp] theorem State.updSti_ldg (f : Sti → Sti) : (s.updSti f).ldg = s.ldg := rfl
@[simp] theorem State.updSti_ctl (f : Sti → Sti) : (s.updSti f).ctl = s.ctl := rfl
@[simp] theorem State.updSti_seq (f : Sti → Sti) : (s.updSti f).seq = s.seq := rfl
@[simp] theorem State.updSti_drn (f : Sti → Sti) : (s.updSti f).drn = s.drn := rfl
@[simp] theorem State.updSti_vlt (f : Sti → Sti) : (s.updSti f).vlt = s.vlt := rfl
@[simp] theorem State.updSti_rst (f : Sti → Sti) : (s.updSti f).rst = s.rst := rfl
@[simp] theorem State.updSti_mlk (f : Sti → Sti) : (s.updSti f).mlk = s.mlk := rfl
@[simp] theorem State.updSti_mtx (f : Sti → Sti) : (s.updSti f).mtx = s.mtx := rfl
@[simp] theorem State.updSti_regs (f : Sti → Sti) : (s.updSti f).regs = s.regs := rfl
@[simp] theorem State.updSti_out (f : Sti → Sti) : (s.updSti f).out = s.out := rfl
@[simp] theorem State.updSti_pending (f : Sti → Sti) : (s.updSti f).pending = s.pending := rfl
@[simp] theorem State.updCfl_glb (f : Cfl → Cfl) : (s.updCfl f).glb = s.glb := rfl
@[simp] theorem State.updCfl_irq (f : Cfl → Cfl) : (s.updCfl f).irq = s.irq := rfl
@[simp] theorem State.updCfl_evr (f : Cfl → Cfl) : (s.updCfl f).evr = s.evr := rfl
@[simp] theorem State.updCfl_sti (f : Cfl → Cfl) : (s.updCfl f).sti = s.sti := rfl
@[simp] theorem State.updCfl_cfl (f : Cfl → Cfl) : (s.updCfl f).cfl = f s.cfl := rfl
@[simp] theorem State.updCfl_dge (f : Cfl → Cfl) : (s.updCfl f).dge = s.dge := rfl
@[simp] theorem State.updCfl_stw (f : Cfl → Cfl) : (s.updCfl f).stw = s.stw := rfl
@[simp] theorem State.updCfl_pq (f : Cfl → Cfl) : (s.updCfl f).pq = s.pq := rfl
@[simp] theorem State.updCfl_mbx (f : Cfl → Cfl) : (s.updCfl f).mbx = s.mbx := rfl
@[simp] theorem State.updCfl_hp (f : Cfl → Cfl) : (s.updCfl f).hp = s.hp := rfl
@[simp] theorem State.updCfl_cch (f : Cfl → Cfl) : (s.updCfl f).cch = s.cch := rfl
@[simp] theorem State.updCfl_dsp (f : Cfl → Cfl) : (s.updCfl f).dsp = s.dsp := rfl
@[simp] theorem State.updCfl_ldg (f : Cfl → Cfl) : (s.updCfl f).ldg = s.ldg := rfl
@[simp] theorem State.updCfl_ctl (f : Cfl → Cfl) : (s.updCfl f).ctl = s.ctl := rfl
@[simp] theorem State.updCfl_seq (f : Cfl → Cfl) : (s.updCfl f).seq = s.seq := rfl
@[simp] theorem State.updCfl_drn (f : Cfl → Cfl) : (s.updCfl f).drn = s.drn := rfl
@[simp] theorem State.updCfl_vlt (f : Cfl → Cfl) : (s.updCfl f).vlt = s.vlt := rfl
@[simp] theorem State.updCfl_rst (f : Cfl → Cfl) : (s.updCfl f).rst = s.rst := rfl
@[simp] theorem State.updCfl_mlk (f : Cfl → Cfl) : (s.updCfl f).mlk = s.mlk := rfl
@[simp] theorem State.updCfl_mtx (f : Cfl → Cfl) : (s.updCfl f).mtx = s.mtx := rfl
@[simp] theorem State.updCfl_regs (f : Cfl → Cfl) : (s.updCfl f).regs = s.regs := rfl
@[simp] theorem State.updCfl_out (f : Cfl → Cfl) : (s.updCfl f).out = s.out := rfl
@[simp] theorem State.updCfl_pending (f : Cfl → Cfl) : (s.updCfl f).pending = s.pending := rfl
@[simp] theorem State.updDge_glb (f : Dge → Dge) : (s.updDge f).glb = s.glb := rfl
@[simp] theorem State.updDge_irq (f : Dge → Dge) : (s.updDge f).irq = s.irq := rfl
@[simp] theorem State.updDge_evr (f : Dge → Dge) : (s.updDge f).evr = s.evr := rfl
@[simp] theorem State.updDge_sti (f : Dge → Dge) : (s.updDge f).sti = s.sti := rfl
@[simp] theorem State.updDge_cfl (f : Dge → Dge) : (s.updDge f).cfl = s.cfl := rfl
@[simp] theorem State.updDge_dge (f : Dge → Dge) : (s.updDge f).dge = f s.dge := rfl
@[simp] theorem State.updDge_stw (f : Dge → Dge) : (s.updDge f).stw = s.stw := rfl
@[simp] theorem State.updDge_pq (f : Dge → Dge) : (s.updDge f).pq = s.pq := rfl
@[simp] theorem State.updDge_mbx (f : Dge → Dge) : (s.updDge f).mbx = s.mbx := rfl
@[simp] theorem State.updDge_hp (f : Dge → Dge) : (s.updDge f).hp = s.hp := rfl
@[simp] theorem State.updDge_cch (f : Dge → Dge) : (s.updDge f).cch = s.cch := rfl
@[simp] theorem State.updDge_dsp (f : Dge → Dge) : (s.updDge f).dsp = s.dsp := rfl
@[simp] theorem State.updDge_ldg (f : Dge → Dge) : (s.updDge f).ldg = s.ldg := rfl
@[simp] theorem State.updDge_ctl (f : Dge → Dge) : (s.updDge f).ctl = s.ctl := rfl
@[simp] theorem State.updDge_seq (f : Dge → Dge) : (s.updDge f).seq = s.seq := rfl
@[simp] theorem State.updDge_drn (f : Dge → Dge) : (s.updDge f).drn = s.drn := rfl
@[simp] theorem State.updDge_vlt (f : Dge → Dge) : (s.updDge f).vlt = s.vlt := rfl
@[simp] theorem State.updDge_rst (f : Dge → Dge) : (s.updDge f).rst = s.rst := rfl
@[simp] theorem State.updDge_mlk (f : Dge → Dge) : (s.updDge f).mlk = s.mlk := rfl
@[simp] theorem State.updDge_mtx (f : Dge → Dge) : (s.updDge f).mtx = s.mtx := rfl
@[simp] theorem State.updDge_regs (f : Dge → Dge) : (s.updDge f).regs = s.regs := rfl
@[simp] theorem State.updDge_out (f : Dge → Dge) : (s.updDge f).out = s.out := rfl
@[simp] theorem State.updDge_pending (f : Dge → Dge) : (s.updDge f).pending = s.pending := rfl
@[simp] theorem State.updStw_glb (f : Stw → Stw) : (s.updStw f).glb = s.glb := rfl
@[simp] theorem State.updStw_irq (f : Stw → Stw) : (s.updStw f).irq = s.irq := rfl
@[simp] theorem State.updStw_evr (f : Stw → Stw) : (s.updStw f).evr = s.evr := rfl
@[simp] theorem State.updStw_sti (f : Stw → Stw) : (s.updStw f).sti = s.sti := rfl
@[simp] theorem State.updStw_cfl (f : Stw → Stw) : (s.updStw f).cfl = s.cfl := rfl
@[simp] theorem State.updStw_dge (f : Stw → Stw) : (s.updStw f).dge = s.dge := rfl
@[simp] theorem State.updStw_stw (f : Stw → Stw) : (s.updStw f).stw = f s.stw := rfl
@[simp] theorem State.updStw_pq (f : Stw → Stw) : (s.updStw f).pq = s.pq := rfl
@[simp] theorem State.updStw_mbx (f : Stw → Stw) : (s.updStw f).mbx = s.mbx := rfl
@[simp] theorem State.updStw_hp (f : Stw → Stw) : (s.updStw f).hp = s.hp := rfl
@[simp] theorem State.updStw_cch (f : Stw → Stw) : (s.updStw f).cch = s.cch := rfl
@[simp] theorem State.updStw_dsp (f : Stw → Stw) : (s.updStw f).dsp = s.dsp := rfl
@[simp] theorem State.updStw_ldg (f : Stw → Stw) : (s.updStw f).ldg = s.ldg := rfl
@[simp] theorem State.updStw_ctl (f : Stw → Stw) : (s.updStw f).ctl = s.ctl := rfl
@[simp] theorem State.updStw_seq (f : Stw → Stw) : (s.updStw f).seq = s.seq := rfl
@[simp] theorem State.updStw_drn (f : Stw → Stw) : (s.updStw f).drn = s.drn := rfl
@[simp] theorem State.updStw_vlt (f : Stw → Stw) : (s.updStw f).vlt = s.vlt := rfl
@[simp] theorem State.updStw_rst (f : Stw → Stw) : (s.updStw f).rst = s.rst := rfl
@[simp] theorem State.updStw_mlk (f : Stw → Stw) : (s.updStw f).mlk = s.mlk := rfl
@[simp] theorem State.updStw_mtx (f : Stw → Stw) : (s.updStw f).mtx = s.mtx := rfl
@[simp] theorem State.updStw_regs (f : Stw → Stw) : (s.updStw f).regs = s.regs := rfl
@[simp] theorem State.updStw_out (f : Stw → Stw) : (s.updStw f).out = s.out := rfl
@[simp] theorem State.updStw_pending (f : Stw → Stw) : (s.updStw f).pending = s.pending := rfl
@[simp] theorem State.updPq_glb (f : Pq → Pq) : (s.updPq f).glb = s.glb := rfl
@[simp] theorem State.updPq_irq (f : Pq → Pq) : (s.updPq f).irq = s.irq := rfl
@[simp] theorem State.updPq_evr (f : Pq → Pq) : (s.updPq f).evr = s.evr := rfl
@[simp] theorem State.updPq_sti (f : Pq → Pq) : (s.updPq f).sti = s.sti := rfl
@[simp] theorem State.updPq_cfl (f : Pq → Pq) : (s.updPq f).cfl = s.cfl := rfl
@[simp] theorem State.updPq_dge (f : Pq → Pq) : (s.updPq f).dge = s.dge := rfl
@[simp] theorem State.updPq_stw (f : Pq → Pq) : (s.updPq f).stw = s.stw := rfl
@[simp] theorem State.updPq_pq (f : Pq → Pq) : (s.updPq f).pq = f s.pq := rfl
@[simp] theorem State.updPq_mbx (f : Pq → Pq) : (s.updPq f).mbx = s.mbx := rfl
@[simp] theorem State.updPq_hp (f : Pq → Pq) : (s.updPq f).hp = s.hp := rfl
@[simp] theorem State.updPq_cch (f : Pq → Pq) : (s.updPq f).cch = s.cch := rfl
@[simp] theorem State.updPq_dsp (f : Pq → Pq) : (s.updPq f).dsp = s.dsp := rfl
@[simp] theorem State.updPq_ldg (f : Pq → Pq) : (s.updPq f).ldg = s.ldg := rfl
@[simp] theorem State.updPq_ctl (f : Pq → Pq) : (s.updPq f).ctl = s.ctl := rfl
@[simp] theorem State.updPq_seq (f : Pq → Pq) : (s.updPq f).seq = s.seq := rfl
@[simp] theorem State.updPq_drn (f : Pq → Pq) : (s.updPq f).drn = s.drn := rfl
@[simp] theorem State.updPq_vlt (f : Pq → Pq) : (s.updPq f).vlt = s.vlt := rfl
@[simp] theorem State.updPq_rst (f : Pq → Pq) : (s.updPq f).rst = s.rst := rfl
@[simp] theorem State.updPq_mlk (f : Pq → Pq) : (s.updPq f).mlk = s.mlk := rfl
@[simp] theorem State.updPq_mtx (f : Pq → Pq) : (s.updPq f).mtx = s.mtx := rfl
@[simp] theorem State.updPq_regs (f : Pq → Pq) : (s.updPq f).regs = s.regs := rfl
@[simp] theorem State.updPq_out (f : Pq → Pq) : (s.updPq f).out = s.out := rfl
@[simp] theorem State.updPq_pending (f : Pq → Pq) : (s.updPq f).pending = s.pending := rfl
@[simp] theorem State.updMbx_glb (f : Mbx → Mbx) : (s.updMbx f).glb = s.glb := rfl
@[simp] theorem State.updMbx_irq (f : Mbx → Mbx) : (s.updMbx f).irq = s.irq := rfl
@[simp] theorem State.updMbx_evr (f : Mbx → Mbx) : (s.updMbx f).evr = s.evr := rfl
@[simp] theorem State.updMbx_sti (f : Mbx → Mbx) : (s.updMbx f).sti = s.sti := rfl
@[simp] theorem State.updMbx_cfl (f : Mbx → Mbx) : (s.updMbx f).cfl = s.cfl := rfl
@[simp] theorem State.updMbx_dge (f : Mbx → Mbx) : (s.updMbx f).dge = s.dge := rfl
@[simp] theorem State.updMbx_stw (f : Mbx → Mbx) : (s.updMbx f).stw = s.stw := rfl
@[simp] theorem State.updMbx_pq (f : Mbx → Mbx) : (s.updMbx f).pq = s.pq := rfl
@[simp] theorem State.updMbx_mbx (f : Mbx → Mbx) : (s.updMbx f).mbx = f s.mbx := rfl
@[simp] theorem State.updMbx_hp (f : Mbx → Mbx) : (s.updMbx f).hp = s.hp := rfl
@[simp] theorem State.updMbx_cch (f : Mbx → Mbx) : (s.updMbx f).cch = s.cch := rfl
@[simp] theorem State.updMbx_dsp (f : Mbx → Mbx) : (s.updMbx f).dsp = s.dsp := rfl
@[simp] theorem State.updMbx_ldg (f : Mbx → Mbx) : (s.updMbx f).ldg = s.ldg := rfl
@[simp] theorem State.updMbx_ctl (f : Mbx → Mbx) : (s.updMbx f).ctl = s.ctl := rfl
@[simp] theorem State.updMbx_seq (f : Mbx → Mbx) : (s.updMbx f).seq = s.seq := rfl
@[simp] theorem State.updMbx_drn (f : Mbx → Mbx) : (s.updMbx f).drn = s.drn := rfl
@[simp] theorem State.updMbx_vlt (f : Mbx → Mbx) : (s.updMbx f).vlt = s.vlt := rfl
@[simp] theorem State.updMbx_rst (f : Mbx → Mbx) : (s.updMbx f).rst = s.rst := rfl
@[simp] theorem State.updMbx_mlk (f : Mbx → Mbx) : (s.updMbx f).mlk = s.mlk := rfl
@[simp] theorem State.updMbx_mtx (f : Mbx → Mbx) : (s.updMbx f).mtx = s.mtx := rfl
@[simp] theorem State.updMbx_regs (f : Mbx → Mbx) : (s.updMbx f).regs = s.regs := rfl
@[simp] theorem State.updMbx_out (f : Mbx → Mbx) : (s.updMbx f).out = s.out := rfl
@[simp] theorem State.updMbx_pending (f : Mbx → Mbx) : (s.updMbx f).pending = s.pending := rfl
@[simp] theorem State.updHp_glb (f : Hp → Hp) : (s.updHp f).glb = s.glb := rfl
@[simp] theorem State.updHp_irq (f : Hp → Hp) : (s.updHp f).irq = s.irq := rfl
@[simp] theorem State.updHp_evr (f : Hp → Hp) : (s.updHp f).evr = s.evr := rfl
@[simp] theorem State.updHp_sti (f : Hp → Hp) : (s.updHp f).sti = s.sti := rfl
@[simp] theorem State.updHp_cfl (f : Hp → Hp) : (s.updHp f).cfl = s.cfl := rfl
@[simp] theorem State.updHp_dge (f : Hp → Hp) : (s.updHp f).dge = s.dge := rfl
@[simp] theorem State.updHp_stw (f : Hp → Hp) : (s.updHp f).stw = s.stw := rfl
@[simp] theorem State.updHp_pq (f : Hp → Hp) : (s.updHp f).pq = s.pq := rfl
@[simp] theorem State.updHp_mbx (f : Hp → Hp) : (s.updHp f).mbx = s.mbx := rfl
@[simp] theorem State.updHp_hp (f : Hp → Hp) : (s.updHp f).hp = f s.hp := rfl
@[simp] theorem State.updHp_cch (f : Hp → Hp) : (s.updHp f).cch = s.cch := rfl
@[simp] theorem State.updHp_dsp (f : Hp → Hp) : (s.updHp f).dsp = s.dsp := rfl
@[simp] theorem State.updHp_ldg (f : Hp → Hp) : (s.updHp f).ldg = s.ldg := rfl
@[simp] theorem State.updHp_ctl (f : Hp → Hp) : (s.updHp f).ctl = s.ctl := rfl
@[simp] theorem State.updHp_seq (f : Hp → Hp) : (s.updHp f).seq = s.seq := rfl
@[simp] theorem State.updHp_drn (f : Hp → Hp) : (s.updHp f).drn = s.drn := rfl
@[simp] theorem State.updHp_vlt (f : Hp → Hp) : (s.updHp f).vlt = s.vlt := rfl
@[simp] theorem State.updHp_rst (f : Hp → Hp) : (s.updHp f).rst = s.rst := rfl
@[simp] theorem State.updHp_mlk (f : Hp → Hp) : (s.updHp f).mlk = s.mlk := rfl
@[simp] theorem State.updHp_mtx (f : Hp → Hp) : (s.updHp f).mtx = s.mtx := rfl
@[simp] theorem State.updHp_regs (f : Hp → Hp) : (s.updHp f).regs = s.regs := rfl
@[simp] theorem State.updHp_out (f : Hp → Hp) : (s.updHp f).out = s.out := rfl
@[simp] theorem State.updHp_pending (f : Hp → Hp) : (s.updHp f).pending = s.pending := rfl
@[simp] theorem State.updCch_glb (f : Cch → Cch) : (s.updCch f).glb = s.glb := rfl
@[simp] theorem State.updCch_irq (f : Cch → Cch) : (s.updCch f).irq = s.irq := rfl
@[simp] theorem State.updCch_evr (f : Cch → Cch) : (s.updCch f).evr = s.evr := rfl
@[simp] theorem State.updCch_sti (f : Cch → Cch) : (s.updCch f).sti = s.sti := rfl
@[simp] theorem State.updCch_cfl (f : Cch → Cch) : (s.updCch f).cfl = s.cfl := rfl
@[simp] theorem State.updCch_dge (f : Cch → Cch) : (s.updCch f).dge = s.dge := rfl
@[simp] theorem State.updCch_stw (f : Cch → Cch) : (s.updCch f).stw = s.stw := rfl
@[simp] theorem State.updCch_pq (f : Cch → Cch) : (s.updCch f).pq = s.pq := rfl
@[simp] theorem State.updCch_mbx (f : Cch → Cch) : (s.updCch f).mbx = s.mbx := rfl
@[simp] theorem State.updCch_hp (f : Cch → Cch) : (s.updCch f).hp = s.hp := rfl
@[simp] theorem State.updCch_cch (f : Cch → Cch) : (s.updCch f).cch = f s.cch := rfl
@[simp] theorem State.updCch_dsp (f : Cch → Cch) : (s.updCch f).dsp = s.dsp := rfl
@[simp] theorem State.updCch_ldg (f : Cch → Cch) : (s.updCch f).ldg = s.ldg := rfl
@[simp] theorem State.updCch_ctl (f : Cch → Cch) : (s.updCch f).ctl = s.ctl := rfl
@[simp] theorem State.updCch_seq (f : Cch → Cch) : (s.updCch f).seq = s.seq := rfl
@[simp] theorem State.updCch_drn (f : Cch → Cch) : (s.updCch f).drn = s.drn := rfl
@[simp] theorem State.updCch_vlt (f : Cch → Cch) : (s.updCch f).vlt = s.vlt := rfl
@[simp] theorem State.updCch_rst (f : Cch → Cch) : (s.updCch f).rst = s.rst := rfl
@[simp] theorem State.updCch_mlk (f : Cch → Cch) : (s.updCch f).mlk = s.mlk := rfl
@[simp] theorem State.updCch_mtx (f : Cch → Cch) : (s.updCch f).mtx = s.mtx := rfl
@[simp] theorem State.updCch_regs (f : Cch → Cch) : (s.updCch f).regs = s.regs := rfl
@[simp] theorem State.updCch_out (f : Cch → Cch) : (s.updCch f).out = s.out := rfl
@[simp] theorem State.updCch_pending (f : Cch → Cch) : (s.updCch f).pending = s.pending := rfl
@[simp] theorem State.updDsp_glb (f : Dsp → Dsp) : (s.updDsp f).glb = s.glb := rfl
@[simp] theorem State.updDsp_irq (f : Dsp → Dsp) : (s.updDsp f).irq = s.irq := rfl
@[simp] theorem State.updDsp_evr (f : Dsp → Dsp) : (s.updDsp f).evr = s.evr := rfl
@[simp] theorem State.updDsp_sti (f : Dsp → Dsp) : (s.updDsp f).sti = s.sti := rfl
@[simp] theorem State.updDsp_cfl (f : Dsp → Dsp) : (s.updDsp f).cfl = s.cfl := rfl
@[simp] theorem State.updDsp_dge (f : Dsp → Dsp) : (s.updDsp f).dge = s.dge := rfl
@[simp] theorem State.updDsp_stw (f : Dsp → Dsp) : (s.updDsp f).stw = s.stw := rfl
@[simp] theorem State.updDsp_pq (f : Dsp → Dsp) : (s.updDsp f).pq = s.pq := rfl
@[simp] theorem State.updDsp_mbx (f : Dsp → Dsp) : (s.updDsp f).mbx = s.mbx := rfl
@[simp] theorem State.updDsp_hp (f : Dsp → Dsp) : (s.updDsp f).hp = s.hp := rfl
@[simp] theorem State.updDsp_cch (f : Dsp → Dsp) : (s.updDsp f).cch = s.cch := rfl
@[simp] theorem State.updDsp_dsp (f : Dsp → Dsp) : (s.updDsp f).dsp = f s.dsp := rfl
@[simp] theorem State.updDsp_ldg (f : Dsp → Dsp) : (s.updDsp f).ldg = s.ldg := rfl
@[simp] theorem State.updDsp_ctl (f : Dsp → Dsp) : (s.updDsp f).ctl = s.ctl := rfl
@[simp] theorem State.updDsp_seq (f : Dsp → Dsp) : (s.updDsp f).seq = s.seq := rfl
@[simp] theorem State.updDsp_drn (f : Dsp → Dsp) : (s.updDsp f).drn = s.drn := rfl
@[simp] theorem State.updDsp_vlt (f : Dsp → Dsp) : (s.updDsp f).vlt = s.vlt := rfl
@[simp] theorem State.updDsp_rst (f : Dsp → Dsp) : (s.updDsp f).rst = s.rst := rfl
@[simp] theorem State.updDsp_mlk (f : Dsp → Dsp) : (s.updDsp f).mlk = s.mlk := rfl
@[simp] theorem State.updDsp_mtx (f : Dsp → Dsp) : (s.updDsp f).mtx = s.mtx := rfl
@[simp] theorem State.updDsp_regs (f : Dsp → Dsp) : (s.updDsp f).regs = s.regs := rfl
@[simp] theorem State.updDsp_out (f : Dsp → Dsp) : (s.updDsp f).out = s.out := rfl
@[simp] theorem State.updDsp_pending (f : Dsp → Dsp) : (s.updDsp f).pending = s.pending := rfl
@[simp] theorem State.updLdg_glb (f : Ldg → Ldg) : (s.updLdg f).glb = s.glb := rfl
@[simp] theorem State.updLdg_irq (f : Ldg → Ldg) : (s.updLdg f).irq = s.irq := rfl
@[simp] theorem State.updLdg_evr (f : Ldg → Ldg) : (s.updLdg f).evr = s.evr := rfl
@[simp] theorem State.updLdg_sti (f : Ldg → Ldg) : (s.updLdg f).sti = s.sti := rfl
@[simp] theorem State.updLdg_cfl (f : Ldg → Ldg) : (s.updLdg f).cfl = s.cfl := rfl
@[simp] theorem State.updLdg_dge (f : Ldg → Ldg) : (s.updLdg f).dge = s.dge := rfl
@[simp] theorem State.updLdg_stw (f : Ldg → Ldg) : (s.updLdg f).stw = s.stw := rfl
@[simp] theorem State.updLdg_pq (f : Ldg → Ldg) : (s.updLdg f).pq = s.pq := rfl
@[simp] theorem State.updLdg_mbx (f : Ldg → Ldg) : (s.updLdg f).mbx = s.mbx := rfl
@[simp] theorem State.updLdg_hp (f : Ldg → Ldg) : (s.updLdg f).hp = s.hp := rfl
@[simp] theorem State.updLdg_cch (f : Ldg → Ldg) : (s.updLdg f).cch = s.cch := rfl
@[simp] theorem State.updLdg_dsp (f : Ldg → Ldg) : (s.updLdg f).dsp = s.dsp := rfl
@[simp] theorem State.updLdg_ldg (f : Ldg → Ldg) : (s.updLdg f).ldg = f s.ldg := rfl
@[simp] theorem State.updLdg_ctl (f : Ldg → Ldg) : (s.updLdg f).ctl = s.ctl := rfl
@[simp] theorem State.updLdg_seq (f : Ldg → Ldg) : (s.updLdg f).seq = s.seq := rfl
@[simp] theorem State.updLdg_drn (f : Ldg → Ldg) : (s.updLdg f).drn = s.drn := rfl
@[simp] theorem State.updLdg_vlt (f : Ldg → Ldg) : (s.updLdg f).vlt = s.vlt := rfl
@[simp] theorem State.updLdg_rst (f : Ldg → Ldg) : (s.updLdg f).rst = s.rst := rfl
@[simp] theorem State.updLdg_mlk (f : Ldg → Ldg) : (s.updLdg f).mlk = s.mlk := rfl
@[simp] theorem State.updLdg_mtx (f : Ldg → Ldg) : (s.updLdg f).mtx = s.mtx := rfl
@[simp] theorem State.updLdg_regs (f : Ldg → Ldg) : (s.updLdg f).regs = s.regs := rfl
@[simp] theorem State.updLdg_out (f : Ldg → Ldg) : (s.updLdg f).out = s.out := rfl
@[simp] theorem State.updLdg_pending (f : Ldg → Ldg) : (s.updLdg f).pending = s.pending := rfl
@[simp] theorem State.updCtl_glb (f : Ctl → Ctl) : (s.updCtl f).glb = s.glb := rfl
@[simp] theorem State.updCtl_irq (f : Ctl → Ctl) : (s.updCtl f).irq = s.irq := rfl
@[simp] theorem State.updCtl_evr (f : Ctl → Ctl) : (s.updCtl f).evr = s.evr := rfl
@[simp] theorem State.updCtl_sti (f : Ctl → Ctl) : (s.updCtl f).sti = s.sti := rfl
@[simp] theorem State.updCtl_cfl (f : Ctl → Ctl) : (s.updCtl f).cfl = s.cfl := rfl
@[simp] theorem State.updCtl_dge (f : Ctl → Ctl) : (s.updCtl f).dge = s.dge := rfl
@[simp] theorem State.updCtl_stw (f : Ctl → Ctl) : (s.updCtl f).stw = s.stw := rfl
@[simp] theorem State.updCtl_pq (f : Ctl → Ctl) : (s.updCtl f).pq = s.pq := rfl
@[simp] theorem State.updCtl_mbx (f : Ctl → Ctl) : (s.updCtl f).mbx = s.mbx := rfl
@[simp] theorem State.updCtl_hp (f : Ctl → Ctl) : (s.updCtl f).hp = s.hp := rfl
@[simp] theorem State.updCtl_cch (f : Ctl → Ctl) : (s.updCtl f).cch = s.cch := rfl
@[simp] theorem State.updCtl_dsp (f : Ctl → Ctl) : (s.updCtl f).dsp = s.dsp := rfl
@[simp] theorem State.updCtl_ldg (f : Ctl → Ctl) : (s.updCtl f).ldg = s.ldg := rfl
@[simp] theorem State.updCtl_ctl (f : Ctl → Ctl) : (s.updCtl f).ctl = f s.ctl := rfl
@[simp] theorem State.updCtl_seq (f : Ctl → Ctl) : (s.updCtl f).seq = s.seq := rfl
@[simp] theorem State.updCtl_drn (f : Ctl → Ctl) : (s.updCtl f).drn = s.drn := rfl
@[simp] theorem State.updCtl_vlt (f : Ctl → Ctl) : (s.updCtl f).vlt = s.vlt := rfl
@[simp] theorem State.updCtl_rst (f : Ctl → Ctl) : (s.updCtl f).rst = s.rst := rfl
@[simp] theorem State.updCtl_mlk (f : Ctl → Ctl) : (s.updCtl f).mlk = s.mlk := rfl
@[simp] theorem State.updCtl_mtx (f : Ctl → Ctl) : (s.updCtl f).mtx = s.mtx := rfl
@[simp] theorem State.updCtl_regs (f : Ctl → Ctl) : (s.updCtl f).regs = s.regs := rfl
@[simp] theorem State.updCtl_out (f : Ctl → Ctl) : (s.updCtl f).out = s.out := rfl
@[simp] theorem State.updCtl_pending (f : Ctl → Ctl) : (s.updCtl f).pending = s.pending := rfl
@[simp] theorem State.updSeq_glb (f : Seq → Seq) : (s.updSeq f).glb = s.glb := rfl
@[simp] theorem State.updSeq_irq (f : Seq → Seq) : (s.updSeq f).irq = s.irq := rfl
@[simp] theorem State.updSeq_evr (f : Seq → Seq) : (s.updSeq f).evr = s.evr := rfl
@[simp] theorem State.updSeq_sti (f : Seq → Seq) : (s.updSeq f).sti = s.sti := rfl
@[simp] theorem State.updSeq_cfl (f : Seq → Seq) : (s.updSeq f).cfl = s.cfl := rfl
@[simp] theorem State.updSeq_dge (f : Seq → Seq) : (s.updSeq f).dge = s.dge := rfl
@[simp] theorem State.updSeq_stw (f : Seq → Seq) : (s.updSeq f).stw = s.stw := rfl
@[simp] theorem State.updSeq_pq (f : Seq → Seq) : (s.updSeq f).pq = s.pq := rfl
@[simp] theorem State.updSeq_mbx (f : Seq → Seq) : (s.updSeq f).mbx = s.mbx := rfl
@[simp] theorem State.updSeq_hp (f : Seq → Seq) : (s.updSeq f).hp = s.hp := rfl
@[simp] theorem State.updSeq_cch (f : Seq → Seq) : (s.updSeq f).cch = s.cch := rfl
@[simp] theorem State.updSeq_dsp (f : Seq → Seq) : (s.updSeq f).dsp = s.dsp := rfl
@[simp] theorem State.updSeq_ldg (f : Seq → Seq) : (s.updSeq f).ldg = s.ldg := rfl
@[simp] theorem State.updSeq_ctl (f : Seq → Seq) : (s.updSeq f).ctl = s.ctl := rfl
@[simp] theorem State.updSeq_seq (f : Seq → Seq) : (s.updSeq f).seq = f s.seq := rfl
@[simp] theorem State.updSeq_drn (f : Seq → Seq) : (s.updSeq f).drn = s.drn := rfl
@[simp] theorem State.updSeq_vlt (f : Seq → Seq) : (s.updSeq f).vlt = s.vlt := rfl
@[simp] theorem State.updSeq_rst (f : Seq → Seq) : (s.updSeq f).rst = s.rst := rfl
@[simp] theorem State.updSeq_mlk (f : Seq → Seq) : (s.updSeq f).mlk = s.mlk := rfl
@[simp] theorem State.updSeq_mtx (f : Seq → Seq) : (s.updSeq f).mtx = s.mtx := rfl
@[simp] theorem State.updSeq_regs (f : Seq → Seq) : (s.updSeq f).regs = s.regs := rfl
@[simp] theorem State.updSeq_out (f : Seq → Seq) : (s.updSeq f).out = s.out := rfl
@[simp] theorem State.updSeq_pending (f : Seq → Seq) : (s.updSeq f).pending = s.pending := rfl
@[simp] theorem State.updDrn_glb (f : Drn → Drn) : (s.updDrn f).glb = s.glb := rfl
@[simp] theorem State.updDrn_irq (f : Drn → Drn) : (s.updDrn f).irq = s.irq := rfl
@[simp] theorem State.updDrn_evr (f : Drn → Drn) : (s.updDrn f).evr = s.evr := rfl
@[simp] theorem State.updDrn_sti (f : Drn → Drn) : (s.updDrn f).sti = s.sti := rfl
@[simp] theorem State.updDrn_cfl (f : Drn → Drn) : (s.updDrn f).cfl = s.cfl := rfl
@[simp] theorem State.updDrn_dge (f : Drn → Drn) : (s.updDrn f).dge = s.dge := rfl
@[simp] theorem State.updDrn_stw (f : Drn → Drn) : (s.updDrn f).stw = s.stw := rfl
@[simp] theorem State.updDrn_pq (f : Drn → Drn) : (s.updDrn f).pq = s.pq := rfl
@[simp] theorem State.updDrn_mbx (f : Drn → Drn) : (s.updDrn f).mbx = s.mbx := rfl
@[simp] theorem State.updDrn_hp (f : Drn → Drn) : (s.updDrn f).hp = s.hp := rfl
@[simp] theorem State.updDrn_cch (f : Drn → Drn) : (s.updDrn f).cch = s.cch := rfl
@[simp] theorem State.updDrn_dsp (f : Drn → Drn) : (s.updDrn f).dsp = s.dsp := rfl
@[simp] theorem State.updDrn_ldg (f : Drn → Drn) : (s.updDrn f).ldg = s.ldg := rfl
@[simp] theorem State.updDrn_ctl (f : Drn → Drn) : (s.updDrn f).ctl = s.ctl := rfl
@[simp] theorem State.updDrn_seq (f : Drn → Drn) : (s.updDrn f).seq = s.seq := rfl
@[simp] theorem State.updDrn_drn (f : Drn → Drn) : (s.updDrn f).drn = f s.drn := rfl
@[simp] theorem State.updDrn_vlt (f : Drn → Drn) : (s.updDrn f).vlt = s.vlt := rfl
@[simp] theorem State.updDrn_rst (f : Drn → Drn) : (s.updDrn f).rst = s.rst := rfl
@[simp] theorem State.updDrn_mlk (f : Drn → Drn) : (s.updDrn f).mlk = s.mlk := rfl
@[simp] theorem State.updDrn_mtx (f : Drn → Drn) : (s.updDrn f).mtx = s.mtx := rfl
@[simp] theorem State.updDrn_regs (f : Drn → Drn) : (s.updDrn f).regs = s.regs := rfl
@[simp] theorem State.updDrn_out (f : Drn → Drn) : (s.updDrn f).out = s.out := rfl
@[simp] theorem State.updDrn_pending (f : Drn → Drn) : (s.updDrn f).pending = s.pending := rfl
@[simp] theorem State.updVlt_glb (f : Vlt → Vlt) : (s.updVlt f).glb = s.glb := rfl
@[simp] theorem State.updVlt_irq (f : Vlt → Vlt) : (s.updVlt f).irq = s.irq := rfl
@[simp] theorem State.updVlt_evr (f : Vlt → Vlt) : (s.updVlt f).evr = s.evr := rfl
@[simp] theorem State.updVlt_sti (f : Vlt → Vlt) : (s.updVlt f).sti = s.sti := rfl
@[simp] theorem State.updVlt_cfl (f : Vlt → Vlt) : (s.updVlt f).cfl = s.cfl := rfl
@[simp] theorem State.updVlt_dge (f : Vlt → Vlt) : (s.updVlt f).dge = s.dge := rfl
@[simp] theorem State.updVlt_stw (f : Vlt → Vlt) : (s.updVlt f).stw = s.stw := rfl
@[simp] theorem State.updVlt_pq (f : Vlt → Vlt) : (s.updVlt f).pq = s.pq := rfl
@[simp] theorem State.updVlt_mbx (f : Vlt → Vlt) : (s.updVlt f).mbx = s.mbx := rfl
@[simp] theorem State.updVlt_hp (f : Vlt → Vlt) : (s.updVlt f).hp = s.hp := rfl
@[simp] theorem State.updVlt_cch (f : Vlt → Vlt) : (s.updVlt f).cch = s.cch := rfl
@[simp] theorem State.updVlt_dsp (f : Vlt → Vlt) : (s.updVlt f).dsp = s.dsp := rfl
@[simp] theorem State.updVlt_ldg (f : Vlt → Vlt) : (s.updVlt f).ldg = s.ldg := rfl
@[simp] theorem State.updVlt_ctl (f : Vlt → Vlt) : (s.updVlt f).ctl = s.ctl := rfl
@[simp] theorem State.updVlt_seq (f : Vlt → Vlt) : (s.updVlt f).seq = s.seq := rfl
@[simp] theorem State.updVlt_drn (f : Vlt → Vlt) : (s.updVlt f).drn = s.drn := rfl
@[simp] theorem State.updVlt_vlt (f : Vlt → Vlt) : (s.updVlt f).vlt = f s.vlt := rfl
@[simp] theorem State.updVlt_rst (f : Vlt → Vlt) : (s.updVlt f).rst = s.rst := rfl
@[simp] theorem State.updVlt_mlk (f : Vlt → Vlt) : (s.updVlt f).mlk = s.mlk := rfl
@[simp] theorem State.updVlt_mtx (f : Vlt → Vlt) : (s.updVlt f).mtx = s.mtx := rfl
@[simp] theorem State.updVlt_regs (f : Vlt → Vlt) : (s.updVlt f).regs = s.regs := rfl
@[simp] theorem State.updVlt_out (f : Vlt → Vlt) : (s.updVlt f).out = s.out := rfl
@[simp] theorem State.updVlt_pending (f : Vlt → Vlt) : (s.updVlt f).pending = s.pending := rfl
@[simp] theorem State.updRst_glb (f : Rst → Rst) : (s.updRst f).glb = s.glb := rfl
@[simp] theorem State.updRst_irq (f : Rst → Rst) : (s.updRst f).irq = s.irq := rfl
@[simp] theorem State.updRst_evr (f : Rst → Rst) : (s.updRst f).evr = s.evr := rfl
@[simp] theorem State.updRst_sti (f : Rst → Rst) : (s.updRst f).sti = s.sti := rfl
@[simp] theorem State.updRst_cfl (f : Rst → Rst) : (s.updRst f).cfl = s.cfl := rfl
@[simp] theorem State.updRst_dge (f : Rst → Rst) : (s.updRst f).dge = s.dge := rfl
@[simp] theorem State.updRst_stw (f : Rst → Rst) : (s.updRst f).stw = s.stw := rfl
@[simp] theorem State.updRst_pq (f : Rst → Rst) : (s.updRst f).pq = s.pq := rfl
@[simp] theorem State.updRst_mbx (f : Rst → Rst) : (s.updRst f).mbx = s.mbx := rfl
@[simp] theorem State.updRst_hp (f : Rst → Rst) : (s.updRst f).hp = s.hp := rfl
@[simp] theorem State.updRst_cch (f : Rst → Rst) : (s.updRst f).cch = s.cch := rfl
@[simp] theorem State.updRst_dsp (f : Rst → Rst) : (s.updRst f).dsp = s.dsp := rfl
@[simp] theorem State.updRst_ldg (f : Rst → Rst) : (s.updRst f).ldg = s.ldg := rfl
@[simp] theorem State.updRst_ctl (f : Rst → Rst) : (s.updRst f).ctl = s.ctl := rfl
@[simp] theorem State.updRst_seq (f : Rst → Rst) : (s.updRst f).seq = s.seq := rfl
@[simp] theorem State.updRst_drn (f : Rst → Rst) : (s.updRst f).drn = s.drn := rfl
@[simp] theorem State.updRst_vlt (f : Rst → Rst) : (s.updRst f).vlt = s.vlt := rfl
@[simp] theorem State.updRst_rst (f : Rst → Rst) : (s.updRst f).rst = f s.rst := rfl
@[simp] theorem State.updRst_mlk (f : Rst → Rst) : (s.updRst f).mlk = s.mlk := rfl
@[simp] theorem State.updRst_mtx (f : Rst → Rst) : (s.updRst f).mtx = s.mtx := rfl
@[simp] theorem State.updRst_regs (f : Rst → Rst) : (s.updRst f).regs = s.regs := rfl
@[simp] theorem State.updRst_out (f : Rst → Rst) : (s.updRst f).out = s.out := rfl
@[simp] theorem State.updRst_pending (f : Rst → Rst) : (s.updRst f).pending = s.pending := rfl
@[simp] theorem State.updMlk_glb (f : Mlk → Mlk) : (s.updMlk f).glb = s.glb := rfl
@[simp] theorem State.updMlk_irq (f : Mlk → Mlk) : (s.updMlk f).irq = s.irq := rfl
@[simp] theorem State.updMlk_evr (f : Mlk → Mlk) : (s.updMlk f).evr = s.evr := rfl
@[simp] theorem State.updMlk_sti (f : Mlk → Mlk) : (s.updMlk f).sti = s.sti := rfl
@[simp] theorem State.updMlk_cfl (f : Mlk → Mlk) : (s.updMlk f).cfl = s.cfl := rfl
@[simp] theorem State.updMlk_dge (f : Mlk → Mlk) : (s.updMlk f).dge = s.dge := rfl
@[simp] theorem State.updMlk_stw (f : Mlk → Mlk) : (s.updMlk f).stw = s.stw := rfl
@[simp] theorem State.updMlk_pq (f : Mlk → Mlk) : (s.updMlk f).pq = s.pq := rfl
@[simp] theorem State.updMlk_mbx (f : Mlk → Mlk) : (s.updMlk f).mbx = s.mbx := rfl
@[simp] theorem State.updMlk_hp (f : Mlk → Mlk) : (s.updMlk f).hp = s.hp := rfl
@[simp] theorem State.updMlk_cch (f : Mlk → Mlk) : (s.updMlk f).cch = s.cch := rfl
@[simp] theorem State.updMlk_dsp (f : Mlk → Mlk) : (s.updMlk f).dsp = s.dsp := rfl
@[simp] theorem State.updMlk_ldg (f : Mlk → Mlk) : (s.updMlk f).ldg = s.ldg := rfl
@[simp] theorem State.updMlk_ctl (f : Mlk → Mlk) : (s.updMlk f).ctl = s.ctl := rfl
@[simp] theorem State.updMlk_seq (f : Mlk → Mlk) : (s.updMlk f).seq = s.seq := rfl
@[simp] theorem State.updMlk_drn (f : Mlk → Mlk) : (s.updMlk f).drn = s.drn := rfl
@[simp] theorem State.updMlk_vlt (f : Mlk → Mlk) : (s.updMlk f).vlt = s.vlt := rfl
@[simp] theorem State.updMlk_rst (f : Mlk → Mlk) : (s.updMlk f).rst = s.rst := rfl
@[simp] theorem State.updMlk_mlk (f : Mlk → Mlk) : (s.updMlk f).mlk = f s.mlk := rfl
@[simp] theorem State.updMlk_mtx (f : Mlk → Mlk) : (s.updMlk f).mtx = s.mtx := rfl
@[simp] theorem State.updMlk_regs (f : Mlk → Mlk) : (s.updMlk f).regs = s.regs := rfl
@[simp] theorem State.updMlk_out (f : Mlk → Mlk) : (s.updMlk f).out = s.out := rfl
@[simp] theorem State.updMlk_pending (f : Mlk → Mlk) : (s.updMlk f).pending = s.pending := rfl
@[simp] theorem State.updMtx_glb (f : Mtx → Mtx) : (s.updMtx f).glb = s.glb := rfl
@[simp] theorem State.updMtx_irq (f : Mtx → Mtx) : (s.updMtx f).irq = s.irq := rfl
@[simp] theorem State.updMtx_evr (f : Mtx → Mtx) : (s.updMtx f).evr = s.evr := rfl
@[simp] theorem State.updMtx_sti (f : Mtx → Mtx) : (s.updMtx f).sti = s.sti := rfl
@[simp] theorem State.updMtx_cfl (f : Mtx → Mtx) : (s.updMtx f).cfl = s.cfl := rfl
@[simp] theorem State.updMtx_dge (f : Mtx → Mtx) : (s.updMtx f).dge = s.dge := rfl
@[simp] theorem State.updMtx_stw (f : Mtx → Mtx) : (s.updMtx f).stw = s.stw := rfl
@[simp] theorem State.updMtx_pq (f : Mtx → Mtx) : (s.updMtx f).pq = s.pq := rfl
@[simp] theorem State.updMtx_mbx (f : Mtx → Mtx) : (s.updMtx f).mbx = s.mbx := rfl
@[simp] theorem State.updMtx_hp (f : Mtx → Mtx) : (s.updMtx f).hp = s.hp := rfl
@[simp] theorem State.updMtx_cch (f : Mtx → Mtx) : (s.updMtx f).cch = s.cch := rfl
@[simp] theorem State.updMtx_dsp (f : Mtx → Mtx) : (s.updMtx f).dsp = s.dsp := rfl
@[simp] theorem State.updMtx_ldg (f : Mtx → Mtx) : (s.updMtx f).ldg = s.ldg := rfl
@[simp] theorem State.updMtx_ctl (f : Mtx → Mtx) : (s.updMtx f).ctl = s.ctl := rfl
@[simp] theorem State.updMtx_seq (f : Mtx → Mtx) : (s.updMtx f).seq = s.seq := rfl
@[simp] theorem State.updMtx_drn (f : Mtx → Mtx) : (s.updMtx f).drn = s.drn := rfl
@[simp] theorem State.updMtx_vlt (f : Mtx → Mtx) : (s.updMtx f).vlt = s.vlt := rfl
@[simp] theorem State.updMtx_rst (f : Mtx → Mtx) : (s.updMtx f).rst = s.rst := rfl
@[simp] theorem State.updMtx_mlk (f : Mtx → Mtx) : (s.updMtx f).mlk = s.mlk := rfl
@[simp] theorem State.updMtx_mtx (f : Mtx → Mtx) : (s.updMtx f).mtx = f s.mtx := rfl
@[simp] theorem State.updMtx_regs (f : Mtx → Mtx) : (s.updMtx f).regs = s.regs := rfl
@[simp] theorem State.updMtx_out (f : Mtx → Mtx) : (s.updMtx f).out = s.out := rfl
@[simp] theorem State.updMtx_pending (f : Mtx → Mtx) : (s.updMtx f).pending = s.pending := rfl

end Sys2Proof.Machine
end

