-- ==== Sys2Proof/Laws/Store.lean ====
section
/-! SUPPORT. The laws of the sparse tables: a read after a write, and the canonical form that every operation keeps. -/

namespace Sys2Proof.Machine

variable {α : Type} [DecidableEq α] {d : α}

theorem Store.wfFrom_mono {b c : Nat} (h : c ≤ b) : ∀ {l : Store α}, Store.wfFrom d b l = true → Store.wfFrom d c l = true
  | [], _ => rfl
  | (k, v) :: r, hw => by
    simp only [Store.wfFrom, Bool.and_eq_true, decide_eq_true_eq] at hw ⊢
    exact ⟨⟨by omega, hw.1.2⟩, hw.2⟩

/-- Below its bound a canonical table lists nothing. -/
theorem Store.get_below {b n : Nat} (h : n < b) : ∀ {l : Store α}, Store.wfFrom d b l = true → Store.get d l n = d
  | [], _ => rfl
  | (k, v) :: r, hw => by
    simp only [Store.wfFrom, Bool.and_eq_true, decide_eq_true_eq] at hw
    simp only [Store.get, if_neg (show ¬k = n by omega)]
    exact Store.get_below (by omega) hw.2

theorem Store.wfFrom_erase {b : Nat} (n : Nat) : ∀ {l : Store α}, Store.wfFrom d b l = true → Store.wfFrom d b (Store.erase l n) = true
  | [], _ => rfl
  | (k, v) :: r, hw => by
    simp only [Store.wfFrom, Bool.and_eq_true, decide_eq_true_eq] at hw
    unfold Store.erase
    split
    · exact Store.wfFrom_mono (by omega) hw.2
    · simp only [Store.wfFrom, Bool.and_eq_true, decide_eq_true_eq]
      exact ⟨hw.1, Store.wfFrom_erase n hw.2⟩

theorem Store.wfFrom_insert {b n : Nat} {x : α} (hx : x ≠ d) : ∀ {l : Store α}, b ≤ n → Store.wfFrom d b l = true →
    Store.wfFrom d b (Store.insert l n x) = true
  | [], hb, _ => by simp [Store.insert, Store.wfFrom, hb, hx]
  | (k, v) :: r, hb, hw => by
    simp only [Store.wfFrom, Bool.and_eq_true, decide_eq_true_eq] at hw
    unfold Store.insert
    split
    · simp only [Store.wfFrom, Bool.and_eq_true, decide_eq_true_eq]
      exact ⟨⟨hb, hx⟩, ⟨by omega, hw.1.2⟩, hw.2⟩
    · split
      · simp only [Store.wfFrom, Bool.and_eq_true, decide_eq_true_eq]
        subst k
        exact ⟨⟨hb, hx⟩, hw.2⟩
      · simp only [Store.wfFrom, Bool.and_eq_true, decide_eq_true_eq]
        exact ⟨hw.1, Store.wfFrom_insert hx (by omega) hw.2⟩

/-- A write keeps the canonical form. -/
theorem Store.wf_put {l : Store α} (h : Store.wf d l = true) (n : Nat) (x : α) : Store.wf d (Store.put d l n x) = true := by
  unfold Store.put
  split
  · exact Store.wfFrom_erase n h
  · exact Store.wfFrom_insert ‹_› (Nat.zero_le n) h

theorem Store.wfFrom_keep {p : Nat → Bool} : ∀ {b : Nat} {l : Store α}, Store.wfFrom d b l = true →
    Store.wfFrom d b (Store.keep p l) = true
  | _, [], _ => rfl
  | b, (k, v) :: r, hw => by
    simp only [Store.wfFrom, Bool.and_eq_true, decide_eq_true_eq] at hw
    unfold Store.keep
    split
    · simp only [Store.wfFrom, Bool.and_eq_true, decide_eq_true_eq]
      exact ⟨hw.1, Store.wfFrom_keep hw.2⟩
    · exact Store.wfFrom_mono (by omega) (Store.wfFrom_keep (p := p) hw.2)

/-- A selection keeps the canonical form. -/
theorem Store.wf_keep {l : Store α} (h : Store.wf d l = true) (p : Nat → Bool) : Store.wf d (Store.keep p l) = true :=
  Store.wfFrom_keep h

/-- Entries put one after another keep the form. -/
theorem Store.wf_foldlPut {β : Type} (k : β → Nat) (x : β → α) : ∀ (l : List β) {m : Store α}, Store.wf d m = true →
    Store.wf d (l.foldl (fun m y => Store.put d m (k y) (x y)) m) = true
  | [], _, h => h
  | y :: l, _, h => Store.wf_foldlPut k x l (Store.wf_put h (k y) (x y))

theorem Store.get_insert (n m : Nat) (x : α) : ∀ (l : Store α),
    Store.get d (Store.insert l n x) m = if n = m then x else Store.get d l m
  | [] => by simp [Store.insert, Store.get]
  | (k, v) :: r => by
    unfold Store.insert
    split
    · by_cases h : n = m <;> simp [Store.get, h]
    · split
      · subst k
        by_cases h : n = m <;> simp [Store.get, h]
      · by_cases h : k = m
        · subst k
          simp only [Store.get, if_true]
          rw [if_neg (by omega)]
        · simp only [Store.get, if_neg h, Store.get_insert n m x r]

theorem Store.get_erase_ne {n m : Nat} (h : n ≠ m) : ∀ (l : Store α), Store.get d (Store.erase l n) m = Store.get d l m
  | [] => rfl
  | (k, v) :: r => by
    unfold Store.erase
    split
    · subst k
      simp [Store.get, h]
    · by_cases hk : k = m
      · simp [Store.get, hk]
      · simp only [Store.get, if_neg hk, Store.get_erase_ne h r]

theorem Store.get_erase_same {n : Nat} : ∀ {b : Nat} {l : Store α}, Store.wfFrom d b l = true → Store.get d (Store.erase l n) n = d
  | _, [], _ => rfl
  | b, (k, v) :: r, hw => by
    simp only [Store.wfFrom, Bool.and_eq_true, decide_eq_true_eq] at hw
    unfold Store.erase
    split
    · subst k
      exact Store.get_below (by omega) hw.2
    · simp only [Store.get, if_neg ‹¬k = n›]
      exact Store.get_erase_same hw.2

/-- A read after a write to another key. -/
theorem Store.get_put_ne {n m : Nat} (h : n ≠ m) (l : Store α) (x : α) : Store.get d (Store.put d l n x) m = Store.get d l m := by
  unfold Store.put
  split
  · exact Store.get_erase_ne h l
  · rw [Store.get_insert, if_neg h]

/-- A read after a write to the same key. -/
theorem Store.get_put_same {l : Store α} (h : Store.wf d l = true) (n : Nat) (x : α) : Store.get d (Store.put d l n x) n = x := by
  unfold Store.put
  split
  · next hx => rw [hx]; exact Store.get_erase_same h
  · rw [Store.get_insert, if_pos rfl]

/-- A read after a selection. -/
theorem Store.get_keep (p : Nat → Bool) (n : Nat) : ∀ (l : Store α), Store.get d (Store.keep p l) n =
    if p n then Store.get d l n else d
  | [] => by simp [Store.keep, Store.get]
  | (k, v) :: r => by
    unfold Store.keep
    by_cases hk : k = n
    · subst k
      split
      · simp [Store.get, *]
      · rw [Store.get_keep p n r]; simp [*]
    · split <;> simp [Store.get, hk, Store.get_keep p n r]

/-- A table that lists nothing is canonical. -/
theorem Store.wf_nil : Store.wf d ([] : Store α) = true := rfl

end Sys2Proof.Machine
end

