-- ==== Sys2Proof/Laws/Notes.lean ====
section
/-! SUPPORT. What the shared operations leave alone: a register write touches the register table only; an event, an interrupt
and a message touch what reports them only. With them, what a field reads after each. -/

set_option Elab.async false

namespace Sys2Proof.Machine

variable (s : State)

@[simp] theorem State.emit_regs (o : Output) : (s.emit o).regs = s.regs := rfl
@[simp] theorem State.emit_glb (o : Output) : (s.emit o).glb = s.glb := rfl
@[simp] theorem State.emit_irq (o : Output) : (s.emit o).irq = s.irq := rfl
@[simp] theorem State.emit_evr (o : Output) : (s.emit o).evr = s.evr := rfl
@[simp] theorem State.emit_sti (o : Output) : (s.emit o).sti = s.sti := rfl
@[simp] theorem State.emit_cfl (o : Output) : (s.emit o).cfl = s.cfl := rfl
@[simp] theorem State.emit_dge (o : Output) : (s.emit o).dge = s.dge := rfl
@[simp] theorem State.emit_stw (o : Output) : (s.emit o).stw = s.stw := rfl
@[simp] theorem State.emit_pq (o : Output) : (s.emit o).pq = s.pq := rfl
@[simp] theorem State.emit_mbx (o : Output) : (s.emit o).mbx = s.mbx := rfl
@[simp] theorem State.emit_hp (o : Output) : (s.emit o).hp = s.hp := rfl
@[simp] theorem State.emit_cch (o : Output) : (s.emit o).cch = s.cch := rfl
@[simp] theorem State.emit_dsp (o : Output) : (s.emit o).dsp = s.dsp := rfl
@[simp] theorem State.emit_ldg (o : Output) : (s.emit o).ldg = s.ldg := rfl
@[simp] theorem State.emit_ctl (o : Output) : (s.emit o).ctl = s.ctl := rfl
@[simp] theorem State.emit_seq (o : Output) : (s.emit o).seq = s.seq := rfl
@[simp] theorem State.emit_drn (o : Output) : (s.emit o).drn = s.drn := rfl
@[simp] theorem State.emit_vlt (o : Output) : (s.emit o).vlt = s.vlt := rfl
@[simp] theorem State.emit_rst (o : Output) : (s.emit o).rst = s.rst := rfl
@[simp] theorem State.emit_mlk (o : Output) : (s.emit o).mlk = s.mlk := rfl
@[simp] theorem State.emit_mtx (o : Output) : (s.emit o).mtx = s.mtx := rfl
@[simp] theorem State.emit_pending (o : Output) : (s.emit o).pending = s.pending := rfl
@[simp] theorem State.set_glb (f : Fld) (v : Nat) : (s.set f v).glb = s.glb := rfl
@[simp] theorem State.set_irq (f : Fld) (v : Nat) : (s.set f v).irq = s.irq := rfl
@[simp] theorem State.set_evr (f : Fld) (v : Nat) : (s.set f v).evr = s.evr := rfl
@[simp] theorem State.set_sti (f : Fld) (v : Nat) : (s.set f v).sti = s.sti := rfl
@[simp] theorem State.set_cfl (f : Fld) (v : Nat) : (s.set f v).cfl = s.cfl := rfl
@[simp] theorem State.set_dge (f : Fld) (v : Nat) : (s.set f v).dge = s.dge := rfl
@[simp] theorem State.set_stw (f : Fld) (v : Nat) : (s.set f v).stw = s.stw := rfl
@[simp] theorem State.set_pq (f : Fld) (v : Nat) : (s.set f v).pq = s.pq := rfl
@[simp] theorem State.set_mbx (f : Fld) (v : Nat) : (s.set f v).mbx = s.mbx := rfl
@[simp] theorem State.set_hp (f : Fld) (v : Nat) : (s.set f v).hp = s.hp := rfl
@[simp] theorem State.set_cch (f : Fld) (v : Nat) : (s.set f v).cch = s.cch := rfl
@[simp] theorem State.set_dsp (f : Fld) (v : Nat) : (s.set f v).dsp = s.dsp := rfl
@[simp] theorem State.set_ldg (f : Fld) (v : Nat) : (s.set f v).ldg = s.ldg := rfl
@[simp] theorem State.set_ctl (f : Fld) (v : Nat) : (s.set f v).ctl = s.ctl := rfl
@[simp] theorem State.set_seq (f : Fld) (v : Nat) : (s.set f v).seq = s.seq := rfl
@[simp] theorem State.set_drn (f : Fld) (v : Nat) : (s.set f v).drn = s.drn := rfl
@[simp] theorem State.set_vlt (f : Fld) (v : Nat) : (s.set f v).vlt = s.vlt := rfl
@[simp] theorem State.set_rst (f : Fld) (v : Nat) : (s.set f v).rst = s.rst := rfl
@[simp] theorem State.set_mlk (f : Fld) (v : Nat) : (s.set f v).mlk = s.mlk := rfl
@[simp] theorem State.set_mtx (f : Fld) (v : Nat) : (s.set f v).mtx = s.mtx := rfl
@[simp] theorem State.set_out (f : Fld) (v : Nat) : (s.set f v).out = s.out := rfl
@[simp] theorem State.set_pending (f : Fld) (v : Nat) : (s.set f v).pending = s.pending := rfl
@[simp] theorem State.setB_glb (f : Fld) (b : Bool) : (s.setB f b).glb = s.glb := rfl
@[simp] theorem State.setB_irq (f : Fld) (b : Bool) : (s.setB f b).irq = s.irq := rfl
@[simp] theorem State.setB_evr (f : Fld) (b : Bool) : (s.setB f b).evr = s.evr := rfl
@[simp] theorem State.setB_sti (f : Fld) (b : Bool) : (s.setB f b).sti = s.sti := rfl
@[simp] theorem State.setB_cfl (f : Fld) (b : Bool) : (s.setB f b).cfl = s.cfl := rfl
@[simp] theorem State.setB_dge (f : Fld) (b : Bool) : (s.setB f b).dge = s.dge := rfl
@[simp] theorem State.setB_stw (f : Fld) (b : Bool) : (s.setB f b).stw = s.stw := rfl
@[simp] theorem State.setB_pq (f : Fld) (b : Bool) : (s.setB f b).pq = s.pq := rfl
@[simp] theorem State.setB_mbx (f : Fld) (b : Bool) : (s.setB f b).mbx = s.mbx := rfl
@[simp] theorem State.setB_hp (f : Fld) (b : Bool) : (s.setB f b).hp = s.hp := rfl
@[simp] theorem State.setB_cch (f : Fld) (b : Bool) : (s.setB f b).cch = s.cch := rfl
@[simp] theorem State.setB_dsp (f : Fld) (b : Bool) : (s.setB f b).dsp = s.dsp := rfl
@[simp] theorem State.setB_ldg (f : Fld) (b : Bool) : (s.setB f b).ldg = s.ldg := rfl
@[simp] theorem State.setB_ctl (f : Fld) (b : Bool) : (s.setB f b).ctl = s.ctl := rfl
@[simp] theorem State.setB_seq (f : Fld) (b : Bool) : (s.setB f b).seq = s.seq := rfl
@[simp] theorem State.setB_drn (f : Fld) (b : Bool) : (s.setB f b).drn = s.drn := rfl
@[simp] theorem State.setB_vlt (f : Fld) (b : Bool) : (s.setB f b).vlt = s.vlt := rfl
@[simp] theorem State.setB_rst (f : Fld) (b : Bool) : (s.setB f b).rst = s.rst := rfl
@[simp] theorem State.setB_mlk (f : Fld) (b : Bool) : (s.setB f b).mlk = s.mlk := rfl
@[simp] theorem State.setB_mtx (f : Fld) (b : Bool) : (s.setB f b).mtx = s.mtx := rfl
@[simp] theorem State.setB_out (f : Fld) (b : Bool) : (s.setB f b).out = s.out := rfl
@[simp] theorem State.setB_pending (f : Fld) (b : Bool) : (s.setB f b).pending = s.pending := rfl
@[simp] theorem State.count_glb (f : Fld) (n : Nat) : (s.count f n).glb = s.glb := rfl
@[simp] theorem State.count_irq (f : Fld) (n : Nat) : (s.count f n).irq = s.irq := rfl
@[simp] theorem State.count_evr (f : Fld) (n : Nat) : (s.count f n).evr = s.evr := rfl
@[simp] theorem State.count_sti (f : Fld) (n : Nat) : (s.count f n).sti = s.sti := rfl
@[simp] theorem State.count_cfl (f : Fld) (n : Nat) : (s.count f n).cfl = s.cfl := rfl
@[simp] theorem State.count_dge (f : Fld) (n : Nat) : (s.count f n).dge = s.dge := rfl
@[simp] theorem State.count_stw (f : Fld) (n : Nat) : (s.count f n).stw = s.stw := rfl
@[simp] theorem State.count_pq (f : Fld) (n : Nat) : (s.count f n).pq = s.pq := rfl
@[simp] theorem State.count_mbx (f : Fld) (n : Nat) : (s.count f n).mbx = s.mbx := rfl
@[simp] theorem State.count_hp (f : Fld) (n : Nat) : (s.count f n).hp = s.hp := rfl
@[simp] theorem State.count_cch (f : Fld) (n : Nat) : (s.count f n).cch = s.cch := rfl
@[simp] theorem State.count_dsp (f : Fld) (n : Nat) : (s.count f n).dsp = s.dsp := rfl
@[simp] theorem State.count_ldg (f : Fld) (n : Nat) : (s.count f n).ldg = s.ldg := rfl
@[simp] theorem State.count_ctl (f : Fld) (n : Nat) : (s.count f n).ctl = s.ctl := rfl
@[simp] theorem State.count_seq (f : Fld) (n : Nat) : (s.count f n).seq = s.seq := rfl
@[simp] theorem State.count_drn (f : Fld) (n : Nat) : (s.count f n).drn = s.drn := rfl
@[simp] theorem State.count_vlt (f : Fld) (n : Nat) : (s.count f n).vlt = s.vlt := rfl
@[simp] theorem State.count_rst (f : Fld) (n : Nat) : (s.count f n).rst = s.rst := rfl
@[simp] theorem State.count_mlk (f : Fld) (n : Nat) : (s.count f n).mlk = s.mlk := rfl
@[simp] theorem State.count_mtx (f : Fld) (n : Nat) : (s.count f n).mtx = s.mtx := rfl
@[simp] theorem State.count_out (f : Fld) (n : Nat) : (s.count f n).out = s.out := rfl
@[simp] theorem State.count_pending (f : Fld) (n : Nat) : (s.count f n).pending = s.pending := rfl
@[simp] theorem State.set64_glb (lo hi : Fld) (v : Nat) : (s.set64 lo hi v).glb = s.glb := rfl
@[simp] theorem State.set64_irq (lo hi : Fld) (v : Nat) : (s.set64 lo hi v).irq = s.irq := rfl
@[simp] theorem State.set64_evr (lo hi : Fld) (v : Nat) : (s.set64 lo hi v).evr = s.evr := rfl
@[simp] theorem State.set64_sti (lo hi : Fld) (v : Nat) : (s.set64 lo hi v).sti = s.sti := rfl
@[simp] theorem State.set64_cfl (lo hi : Fld) (v : Nat) : (s.set64 lo hi v).cfl = s.cfl := rfl
@[simp] theorem State.set64_dge (lo hi : Fld) (v : Nat) : (s.set64 lo hi v).dge = s.dge := rfl
@[simp] theorem State.set64_stw (lo hi : Fld) (v : Nat) : (s.set64 lo hi v).stw = s.stw := rfl
@[simp] theorem State.set64_pq (lo hi : Fld) (v : Nat) : (s.set64 lo hi v).pq = s.pq := rfl
@[simp] theorem State.set64_mbx (lo hi : Fld) (v : Nat) : (s.set64 lo hi v).mbx = s.mbx := rfl
@[simp] theorem State.set64_hp (lo hi : Fld) (v : Nat) : (s.set64 lo hi v).hp = s.hp := rfl
@[simp] theorem State.set64_cch (lo hi : Fld) (v : Nat) : (s.set64 lo hi v).cch = s.cch := rfl
@[simp] theorem State.set64_dsp (lo hi : Fld) (v : Nat) : (s.set64 lo hi v).dsp = s.dsp := rfl
@[simp] theorem State.set64_ldg (lo hi : Fld) (v : Nat) : (s.set64 lo hi v).ldg = s.ldg := rfl
@[simp] theorem State.set64_ctl (lo hi : Fld) (v : Nat) : (s.set64 lo hi v).ctl = s.ctl := rfl
@[simp] theorem State.set64_seq (lo hi : Fld) (v : Nat) : (s.set64 lo hi v).seq = s.seq := rfl
@[simp] theorem State.set64_drn (lo hi : Fld) (v : Nat) : (s.set64 lo hi v).drn = s.drn := rfl
@[simp] theorem State.set64_vlt (lo hi : Fld) (v : Nat) : (s.set64 lo hi v).vlt = s.vlt := rfl
@[simp] theorem State.set64_rst (lo hi : Fld) (v : Nat) : (s.set64 lo hi v).rst = s.rst := rfl
@[simp] theorem State.set64_mlk (lo hi : Fld) (v : Nat) : (s.set64 lo hi v).mlk = s.mlk := rfl
@[simp] theorem State.set64_mtx (lo hi : Fld) (v : Nat) : (s.set64 lo hi v).mtx = s.mtx := rfl
@[simp] theorem State.set64_out (lo hi : Fld) (v : Nat) : (s.set64 lo hi v).out = s.out := rfl
@[simp] theorem State.set64_pending (lo hi : Fld) (v : Nat) : (s.set64 lo hi v).pending = s.pending := rfl
@[simp] theorem State.enter_regs (o : OpState) : (s.enter o).regs = s.regs := rfl
@[simp] theorem State.enter_irq (o : OpState) : (s.enter o).irq = s.irq := rfl
@[simp] theorem State.enter_evr (o : OpState) : (s.enter o).evr = s.evr := rfl
@[simp] theorem State.enter_sti (o : OpState) : (s.enter o).sti = s.sti := rfl
@[simp] theorem State.enter_cfl (o : OpState) : (s.enter o).cfl = s.cfl := rfl
@[simp] theorem State.enter_dge (o : OpState) : (s.enter o).dge = s.dge := rfl
@[simp] theorem State.enter_stw (o : OpState) : (s.enter o).stw = s.stw := rfl
@[simp] theorem State.enter_pq (o : OpState) : (s.enter o).pq = s.pq := rfl
@[simp] theorem State.enter_mbx (o : OpState) : (s.enter o).mbx = s.mbx := rfl
@[simp] theorem State.enter_hp (o : OpState) : (s.enter o).hp = s.hp := rfl
@[simp] theorem State.enter_cch (o : OpState) : (s.enter o).cch = s.cch := rfl
@[simp] theorem State.enter_dsp (o : OpState) : (s.enter o).dsp = s.dsp := rfl
@[simp] theorem State.enter_ldg (o : OpState) : (s.enter o).ldg = s.ldg := rfl
@[simp] theorem State.enter_ctl (o : OpState) : (s.enter o).ctl = s.ctl := rfl
@[simp] theorem State.enter_seq (o : OpState) : (s.enter o).seq = s.seq := rfl
@[simp] theorem State.enter_drn (o : OpState) : (s.enter o).drn = s.drn := rfl
@[simp] theorem State.enter_vlt (o : OpState) : (s.enter o).vlt = s.vlt := rfl
@[simp] theorem State.enter_rst (o : OpState) : (s.enter o).rst = s.rst := rfl
@[simp] theorem State.enter_mlk (o : OpState) : (s.enter o).mlk = s.mlk := rfl
@[simp] theorem State.enter_mtx (o : OpState) : (s.enter o).mtx = s.mtx := rfl
@[simp] theorem State.enter_out (o : OpState) : (s.enter o).out = s.out := rfl
@[simp] theorem State.enter_pending (o : OpState) : (s.enter o).pending = s.pending := rfl
@[simp] theorem State.dropRegs_glb (p : Nat → Bool) : (s.dropRegs p).glb = s.glb := rfl
@[simp] theorem State.dropRegs_irq (p : Nat → Bool) : (s.dropRegs p).irq = s.irq := rfl
@[simp] theorem State.dropRegs_evr (p : Nat → Bool) : (s.dropRegs p).evr = s.evr := rfl
@[simp] theorem State.dropRegs_sti (p : Nat → Bool) : (s.dropRegs p).sti = s.sti := rfl
@[simp] theorem State.dropRegs_cfl (p : Nat → Bool) : (s.dropRegs p).cfl = s.cfl := rfl
@[simp] theorem State.dropRegs_dge (p : Nat → Bool) : (s.dropRegs p).dge = s.dge := rfl
@[simp] theorem State.dropRegs_stw (p : Nat → Bool) : (s.dropRegs p).stw = s.stw := rfl
@[simp] theorem State.dropRegs_pq (p : Nat → Bool) : (s.dropRegs p).pq = s.pq := rfl
@[simp] theorem State.dropRegs_mbx (p : Nat → Bool) : (s.dropRegs p).mbx = s.mbx := rfl
@[simp] theorem State.dropRegs_hp (p : Nat → Bool) : (s.dropRegs p).hp = s.hp := rfl
@[simp] theorem State.dropRegs_cch (p : Nat → Bool) : (s.dropRegs p).cch = s.cch := rfl
@[simp] theorem State.dropRegs_dsp (p : Nat → Bool) : (s.dropRegs p).dsp = s.dsp := rfl
@[simp] theorem State.dropRegs_ldg (p : Nat → Bool) : (s.dropRegs p).ldg = s.ldg := rfl
@[simp] theorem State.dropRegs_ctl (p : Nat → Bool) : (s.dropRegs p).ctl = s.ctl := rfl
@[simp] theorem State.dropRegs_seq (p : Nat → Bool) : (s.dropRegs p).seq = s.seq := rfl
@[simp] theorem State.dropRegs_drn (p : Nat → Bool) : (s.dropRegs p).drn = s.drn := rfl
@[simp] theorem State.dropRegs_vlt (p : Nat → Bool) : (s.dropRegs p).vlt = s.vlt := rfl
@[simp] theorem State.dropRegs_rst (p : Nat → Bool) : (s.dropRegs p).rst = s.rst := rfl
@[simp] theorem State.dropRegs_mlk (p : Nat → Bool) : (s.dropRegs p).mlk = s.mlk := rfl
@[simp] theorem State.dropRegs_mtx (p : Nat → Bool) : (s.dropRegs p).mtx = s.mtx := rfl
@[simp] theorem State.dropRegs_out (p : Nat → Bool) : (s.dropRegs p).out = s.out := rfl
@[simp] theorem State.dropRegs_pending (p : Nat → Bool) : (s.dropRegs p).pending = s.pending := rfl
@[simp] theorem State.bindWrite_regs (f : Fld) (v : Nat) : (s.bindWrite f v).regs = s.regs := rfl
@[simp] theorem State.bindWrite_irq (f : Fld) (v : Nat) : (s.bindWrite f v).irq = s.irq := rfl
@[simp] theorem State.bindWrite_evr (f : Fld) (v : Nat) : (s.bindWrite f v).evr = s.evr := rfl
@[simp] theorem State.bindWrite_sti (f : Fld) (v : Nat) : (s.bindWrite f v).sti = s.sti := rfl
@[simp] theorem State.bindWrite_cfl (f : Fld) (v : Nat) : (s.bindWrite f v).cfl = s.cfl := rfl
@[simp] theorem State.bindWrite_dge (f : Fld) (v : Nat) : (s.bindWrite f v).dge = s.dge := rfl
@[simp] theorem State.bindWrite_stw (f : Fld) (v : Nat) : (s.bindWrite f v).stw = s.stw := rfl
@[simp] theorem State.bindWrite_pq (f : Fld) (v : Nat) : (s.bindWrite f v).pq = s.pq := rfl
@[simp] theorem State.bindWrite_mbx (f : Fld) (v : Nat) : (s.bindWrite f v).mbx = s.mbx := rfl
@[simp] theorem State.bindWrite_hp (f : Fld) (v : Nat) : (s.bindWrite f v).hp = s.hp := rfl
@[simp] theorem State.bindWrite_cch (f : Fld) (v : Nat) : (s.bindWrite f v).cch = s.cch := rfl
@[simp] theorem State.bindWrite_dsp (f : Fld) (v : Nat) : (s.bindWrite f v).dsp = s.dsp := rfl
@[simp] theorem State.bindWrite_ldg (f : Fld) (v : Nat) : (s.bindWrite f v).ldg = s.ldg := rfl
@[simp] theorem State.bindWrite_ctl (f : Fld) (v : Nat) : (s.bindWrite f v).ctl = s.ctl := rfl
@[simp] theorem State.bindWrite_seq (f : Fld) (v : Nat) : (s.bindWrite f v).seq = s.seq := rfl
@[simp] theorem State.bindWrite_drn (f : Fld) (v : Nat) : (s.bindWrite f v).drn = s.drn := rfl
@[simp] theorem State.bindWrite_vlt (f : Fld) (v : Nat) : (s.bindWrite f v).vlt = s.vlt := rfl
@[simp] theorem State.bindWrite_rst (f : Fld) (v : Nat) : (s.bindWrite f v).rst = s.rst := rfl
@[simp] theorem State.bindWrite_mlk (f : Fld) (v : Nat) : (s.bindWrite f v).mlk = s.mlk := rfl
@[simp] theorem State.bindWrite_mtx (f : Fld) (v : Nat) : (s.bindWrite f v).mtx = s.mtx := rfl
@[simp] theorem State.bindWrite_out (f : Fld) (v : Nat) : (s.bindWrite f v).out = s.out := rfl
@[simp] theorem State.bindWrite_pending (f : Fld) (v : Nat) : (s.bindWrite f v).pending = s.pending := rfl
@[simp] theorem State.accErr_glb : (s.accErr).glb = s.glb := rfl
@[simp] theorem State.accErr_irq : (s.accErr).irq = s.irq := rfl
@[simp] theorem State.accErr_evr : (s.accErr).evr = s.evr := rfl
@[simp] theorem State.accErr_sti : (s.accErr).sti = s.sti := rfl
@[simp] theorem State.accErr_cfl : (s.accErr).cfl = s.cfl := rfl
@[simp] theorem State.accErr_dge : (s.accErr).dge = s.dge := rfl
@[simp] theorem State.accErr_stw : (s.accErr).stw = s.stw := rfl
@[simp] theorem State.accErr_pq : (s.accErr).pq = s.pq := rfl
@[simp] theorem State.accErr_mbx : (s.accErr).mbx = s.mbx := rfl
@[simp] theorem State.accErr_hp : (s.accErr).hp = s.hp := rfl
@[simp] theorem State.accErr_cch : (s.accErr).cch = s.cch := rfl
@[simp] theorem State.accErr_dsp : (s.accErr).dsp = s.dsp := rfl
@[simp] theorem State.accErr_ldg : (s.accErr).ldg = s.ldg := rfl
@[simp] theorem State.accErr_ctl : (s.accErr).ctl = s.ctl := rfl
@[simp] theorem State.accErr_seq : (s.accErr).seq = s.seq := rfl
@[simp] theorem State.accErr_drn : (s.accErr).drn = s.drn := rfl
@[simp] theorem State.accErr_vlt : (s.accErr).vlt = s.vlt := rfl
@[simp] theorem State.accErr_rst : (s.accErr).rst = s.rst := rfl
@[simp] theorem State.accErr_mlk : (s.accErr).mlk = s.mlk := rfl
@[simp] theorem State.accErr_mtx : (s.accErr).mtx = s.mtx := rfl
@[simp] theorem State.accErr_out : (s.accErr).out = s.out := rfl
@[simp] theorem State.accErr_pending : (s.accErr).pending = s.pending := rfl

variable {s}

theorem State.Reported.refl (s : State) : s.Reported s := rfl

theorem State.Reported.trans {s t u : State} (h : s.Reported t) (k : t.Reported u) : s.Reported u := by
  unfold State.Reported at *
  exact k.trans (by conv_lhs => rw [h])

theorem State.Reported.eqn {s t : State} (h : s.Reported t) :
    t = { s with evr := t.evr, irq := t.irq, mbx := t.mbx, out := t.out } := h

theorem State.Reported.ite {c : Prop} [Decidable c] {s t u : State} (h : s.Reported t) (k : s.Reported u) :
    s.Reported (if c then t else u) := by
  split
  · exact h
  · exact k

theorem State.Reported.emit {s t : State} (h : s.Reported t) (o : Output) : s.Reported (t.emit o) := h.trans rfl

theorem State.Reported.updIrq {s t : State} (h : s.Reported t) (f : Irq → Irq) : s.Reported (t.updIrq f) := h.trans rfl

theorem State.Reported.updEvr {s t : State} (h : s.Reported t) (f : Evr → Evr) : s.Reported (t.updEvr f) := h.trans rfl

theorem State.Reported.updMbx {s t : State} (h : s.Reported t) (f : Mbx → Mbx) : s.Reported (t.updMbx f) := h.trans rfl

theorem State.Reported.sendMsix {s t : State} (h : s.Reported t) (p : Port) (v : Nat) : s.Reported (t.sendMsix p v) := by
  unfold State.sendMsix
  exact .ite h (.ite (h.updIrq _) (.ite (h.updIrq _) (h.emit _)))

theorem State.Reported.foldl {α : Type} {g : State → α → State} (hg : ∀ (s t : State) (a : α), s.Reported t → s.Reported (g t a)) :
    ∀ (l : List α) {s t : State}, s.Reported t → s.Reported (l.foldl g t)
  | [], _, _, h => h
  | a :: l, s, t, h => State.Reported.foldl hg l (hg s t a h)

theorem State.Reported.raiseAt {s t : State} (h : s.Reported t) (g : Agent) (l : List Nat) : s.Reported (t.raiseAt g l) := by
  unfold State.raiseAt
  extract_lets due t1
  have h1 : s.Reported t1 := h.updIrq _
  clear_value t1 due
  split
  · exact h1
  · exact State.Reported.foldl (fun _ _ _ h => h.sendMsix _ _) _ h1

/-- Interrupts report and nothing else. -/
theorem State.Reported.raiseAll {s t : State} (h : s.Reported t) (l : List Nat) : s.Reported (t.raiseAll l) :=
  ((h.raiseAt _ _).raiseAt _ _).raiseAt _ _

theorem State.Reported.raise {s t : State} (h : s.Reported t) (n : Nat) : s.Reported (t.raise n) := h.raiseAll _

theorem State.Reported.pldmEvent {s t : State} (h : s.Reported t) (c : Nat) : s.Reported (t.pldmEvent c) :=
  .ite (h.emit _) h

/-- An event reports and nothing else. -/
theorem State.Reported.eventWith {s t : State} (h : s.Reported t) (code src n : Nat) (l : List Nat) (b : Bool) :
    s.Reported (t.eventWith code src n l b) := by
  unfold State.eventWith
  exact ((((h.updEvr _).updMbx _).pldmEvent _).updEvr _).raiseAll _

theorem State.Reported.event {s t : State} (h : s.Reported t) (code src : Nat) : s.Reported (t.event code src) :=
  .ite (h.eventWith _ _ _ _ _) (h.eventWith _ _ _ _ _)

variable (s)

theorem State.raise_only (n : Nat) : s.Reported (s.raise n) := State.Reported.raise (.refl s) n
theorem State.event_only (code src : Nat) : s.Reported (s.event code src) := State.Reported.event (.refl s) code src
theorem State.eventWith_only (code src n : Nat) (l : List Nat) (b : Bool) : s.Reported (s.eventWith code src n l b) :=
  State.Reported.eventWith (.refl s) code src n l b

@[simp] theorem State.raise_regs (n : Nat) : (s.raise n).regs = s.regs := (congrArg State.regs (s.raise_only n).eqn).trans rfl
@[simp] theorem State.raise_glb (n : Nat) : (s.raise n).glb = s.glb := (congrArg State.glb (s.raise_only n).eqn).trans rfl
@[simp] theorem State.raise_sti (n : Nat) : (s.raise n).sti = s.sti := (congrArg State.sti (s.raise_only n).eqn).trans rfl
@[simp] theorem State.raise_cfl (n : Nat) : (s.raise n).cfl = s.cfl := (congrArg State.cfl (s.raise_only n).eqn).trans rfl
@[simp] theorem State.raise_dge (n : Nat) : (s.raise n).dge = s.dge := (congrArg State.dge (s.raise_only n).eqn).trans rfl
@[simp] theorem State.raise_stw (n : Nat) : (s.raise n).stw = s.stw := (congrArg State.stw (s.raise_only n).eqn).trans rfl
@[simp] theorem State.raise_pq (n : Nat) : (s.raise n).pq = s.pq := (congrArg State.pq (s.raise_only n).eqn).trans rfl
@[simp] theorem State.raise_hp (n : Nat) : (s.raise n).hp = s.hp := (congrArg State.hp (s.raise_only n).eqn).trans rfl
@[simp] theorem State.raise_cch (n : Nat) : (s.raise n).cch = s.cch := (congrArg State.cch (s.raise_only n).eqn).trans rfl
@[simp] theorem State.raise_dsp (n : Nat) : (s.raise n).dsp = s.dsp := (congrArg State.dsp (s.raise_only n).eqn).trans rfl
@[simp] theorem State.raise_ldg (n : Nat) : (s.raise n).ldg = s.ldg := (congrArg State.ldg (s.raise_only n).eqn).trans rfl
@[simp] theorem State.raise_ctl (n : Nat) : (s.raise n).ctl = s.ctl := (congrArg State.ctl (s.raise_only n).eqn).trans rfl
@[simp] theorem State.raise_seq (n : Nat) : (s.raise n).seq = s.seq := (congrArg State.seq (s.raise_only n).eqn).trans rfl
@[simp] theorem State.raise_drn (n : Nat) : (s.raise n).drn = s.drn := (congrArg State.drn (s.raise_only n).eqn).trans rfl
@[simp] theorem State.raise_vlt (n : Nat) : (s.raise n).vlt = s.vlt := (congrArg State.vlt (s.raise_only n).eqn).trans rfl
@[simp] theorem State.raise_rst (n : Nat) : (s.raise n).rst = s.rst := (congrArg State.rst (s.raise_only n).eqn).trans rfl
@[simp] theorem State.raise_mlk (n : Nat) : (s.raise n).mlk = s.mlk := (congrArg State.mlk (s.raise_only n).eqn).trans rfl
@[simp] theorem State.raise_mtx (n : Nat) : (s.raise n).mtx = s.mtx := (congrArg State.mtx (s.raise_only n).eqn).trans rfl
@[simp] theorem State.raise_pending (n : Nat) : (s.raise n).pending = s.pending := (congrArg State.pending (s.raise_only n).eqn).trans rfl
@[simp] theorem State.eventWith_regs (code src n : Nat) (l : List Nat) (b : Bool) : (s.eventWith code src n l b).regs = s.regs := (congrArg State.regs (s.eventWith_only code src n l b).eqn).trans rfl
@[simp] theorem State.eventWith_glb (code src n : Nat) (l : List Nat) (b : Bool) : (s.eventWith code src n l b).glb = s.glb := (congrArg State.glb (s.eventWith_only code src n l b).eqn).trans rfl
@[simp] theorem State.eventWith_sti (code src n : Nat) (l : List Nat) (b : Bool) : (s.eventWith code src n l b).sti = s.sti := (congrArg State.sti (s.eventWith_only code src n l b).eqn).trans rfl
@[simp] theorem State.eventWith_cfl (code src n : Nat) (l : List Nat) (b : Bool) : (s.eventWith code src n l b).cfl = s.cfl := (congrArg State.cfl (s.eventWith_only code src n l b).eqn).trans rfl
@[simp] theorem State.eventWith_dge (code src n : Nat) (l : List Nat) (b : Bool) : (s.eventWith code src n l b).dge = s.dge := (congrArg State.dge (s.eventWith_only code src n l b).eqn).trans rfl
@[simp] theorem State.eventWith_stw (code src n : Nat) (l : List Nat) (b : Bool) : (s.eventWith code src n l b).stw = s.stw := (congrArg State.stw (s.eventWith_only code src n l b).eqn).trans rfl
@[simp] theorem State.eventWith_pq (code src n : Nat) (l : List Nat) (b : Bool) : (s.eventWith code src n l b).pq = s.pq := (congrArg State.pq (s.eventWith_only code src n l b).eqn).trans rfl
@[simp] theorem State.eventWith_hp (code src n : Nat) (l : List Nat) (b : Bool) : (s.eventWith code src n l b).hp = s.hp := (congrArg State.hp (s.eventWith_only code src n l b).eqn).trans rfl
@[simp] theorem State.eventWith_cch (code src n : Nat) (l : List Nat) (b : Bool) : (s.eventWith code src n l b).cch = s.cch := (congrArg State.cch (s.eventWith_only code src n l b).eqn).trans rfl
@[simp] theorem State.eventWith_dsp (code src n : Nat) (l : List Nat) (b : Bool) : (s.eventWith code src n l b).dsp = s.dsp := (congrArg State.dsp (s.eventWith_only code src n l b).eqn).trans rfl
@[simp] theorem State.eventWith_ldg (code src n : Nat) (l : List Nat) (b : Bool) : (s.eventWith code src n l b).ldg = s.ldg := (congrArg State.ldg (s.eventWith_only code src n l b).eqn).trans rfl
@[simp] theorem State.eventWith_ctl (code src n : Nat) (l : List Nat) (b : Bool) : (s.eventWith code src n l b).ctl = s.ctl := (congrArg State.ctl (s.eventWith_only code src n l b).eqn).trans rfl
@[simp] theorem State.eventWith_seq (code src n : Nat) (l : List Nat) (b : Bool) : (s.eventWith code src n l b).seq = s.seq := (congrArg State.seq (s.eventWith_only code src n l b).eqn).trans rfl
@[simp] theorem State.eventWith_drn (code src n : Nat) (l : List Nat) (b : Bool) : (s.eventWith code src n l b).drn = s.drn := (congrArg State.drn (s.eventWith_only code src n l b).eqn).trans rfl
@[simp] theorem State.eventWith_vlt (code src n : Nat) (l : List Nat) (b : Bool) : (s.eventWith code src n l b).vlt = s.vlt := (congrArg State.vlt (s.eventWith_only code src n l b).eqn).trans rfl
@[simp] theorem State.eventWith_rst (code src n : Nat) (l : List Nat) (b : Bool) : (s.eventWith code src n l b).rst = s.rst := (congrArg State.rst (s.eventWith_only code src n l b).eqn).trans rfl
@[simp] theorem State.eventWith_mlk (code src n : Nat) (l : List Nat) (b : Bool) : (s.eventWith code src n l b).mlk = s.mlk := (congrArg State.mlk (s.eventWith_only code src n l b).eqn).trans rfl
@[simp] theorem State.eventWith_mtx (code src n : Nat) (l : List Nat) (b : Bool) : (s.eventWith code src n l b).mtx = s.mtx := (congrArg State.mtx (s.eventWith_only code src n l b).eqn).trans rfl
@[simp] theorem State.eventWith_pending (code src n : Nat) (l : List Nat) (b : Bool) : (s.eventWith code src n l b).pending = s.pending := (congrArg State.pending (s.eventWith_only code src n l b).eqn).trans rfl
@[simp] theorem State.event_regs (code src : Nat) : (s.event code src).regs = s.regs := (congrArg State.regs (s.event_only code src).eqn).trans rfl
@[simp] theorem State.event_glb (code src : Nat) : (s.event code src).glb = s.glb := (congrArg State.glb (s.event_only code src).eqn).trans rfl
@[simp] theorem State.event_sti (code src : Nat) : (s.event code src).sti = s.sti := (congrArg State.sti (s.event_only code src).eqn).trans rfl
@[simp] theorem State.event_cfl (code src : Nat) : (s.event code src).cfl = s.cfl := (congrArg State.cfl (s.event_only code src).eqn).trans rfl
@[simp] theorem State.event_dge (code src : Nat) : (s.event code src).dge = s.dge := (congrArg State.dge (s.event_only code src).eqn).trans rfl
@[simp] theorem State.event_stw (code src : Nat) : (s.event code src).stw = s.stw := (congrArg State.stw (s.event_only code src).eqn).trans rfl
@[simp] theorem State.event_pq (code src : Nat) : (s.event code src).pq = s.pq := (congrArg State.pq (s.event_only code src).eqn).trans rfl
@[simp] theorem State.event_hp (code src : Nat) : (s.event code src).hp = s.hp := (congrArg State.hp (s.event_only code src).eqn).trans rfl
@[simp] theorem State.event_cch (code src : Nat) : (s.event code src).cch = s.cch := (congrArg State.cch (s.event_only code src).eqn).trans rfl
@[simp] theorem State.event_dsp (code src : Nat) : (s.event code src).dsp = s.dsp := (congrArg State.dsp (s.event_only code src).eqn).trans rfl
@[simp] theorem State.event_ldg (code src : Nat) : (s.event code src).ldg = s.ldg := (congrArg State.ldg (s.event_only code src).eqn).trans rfl
@[simp] theorem State.event_ctl (code src : Nat) : (s.event code src).ctl = s.ctl := (congrArg State.ctl (s.event_only code src).eqn).trans rfl
@[simp] theorem State.event_seq (code src : Nat) : (s.event code src).seq = s.seq := (congrArg State.seq (s.event_only code src).eqn).trans rfl
@[simp] theorem State.event_drn (code src : Nat) : (s.event code src).drn = s.drn := (congrArg State.drn (s.event_only code src).eqn).trans rfl
@[simp] theorem State.event_vlt (code src : Nat) : (s.event code src).vlt = s.vlt := (congrArg State.vlt (s.event_only code src).eqn).trans rfl
@[simp] theorem State.event_rst (code src : Nat) : (s.event code src).rst = s.rst := (congrArg State.rst (s.event_only code src).eqn).trans rfl
@[simp] theorem State.event_mlk (code src : Nat) : (s.event code src).mlk = s.mlk := (congrArg State.mlk (s.event_only code src).eqn).trans rfl
@[simp] theorem State.event_mtx (code src : Nat) : (s.event code src).mtx = s.mtx := (congrArg State.mtx (s.event_only code src).eqn).trans rfl
@[simp] theorem State.event_pending (code src : Nat) : (s.event code src).pending = s.pending := (congrArg State.pending (s.event_only code src).eqn).trans rfl

variable {s}

theorem State.get_of_regs {s t : State} (h : t.regs = s.regs) (f : Fld) : t.get f = s.get f := by
  unfold State.get
  rw [h]

@[simp] theorem State.get_updGlb (g : Glb → Glb) (f : Fld) : (s.updGlb g).get f = s.get f := rfl
@[simp] theorem State.get_updIrq (g : Irq → Irq) (f : Fld) : (s.updIrq g).get f = s.get f := rfl
@[simp] theorem State.get_updEvr (g : Evr → Evr) (f : Fld) : (s.updEvr g).get f = s.get f := rfl
@[simp] theorem State.get_updSti (g : Sti → Sti) (f : Fld) : (s.updSti g).get f = s.get f := rfl
@[simp] theorem State.get_updCfl (g : Cfl → Cfl) (f : Fld) : (s.updCfl g).get f = s.get f := rfl
@[simp] theorem State.get_updDge (g : Dge → Dge) (f : Fld) : (s.updDge g).get f = s.get f := rfl
@[simp] theorem State.get_updStw (g : Stw → Stw) (f : Fld) : (s.updStw g).get f = s.get f := rfl
@[simp] theorem State.get_updPq (g : Pq → Pq) (f : Fld) : (s.updPq g).get f = s.get f := rfl
@[simp] theorem State.get_updMbx (g : Mbx → Mbx) (f : Fld) : (s.updMbx g).get f = s.get f := rfl
@[simp] theorem State.get_updHp (g : Hp → Hp) (f : Fld) : (s.updHp g).get f = s.get f := rfl
@[simp] theorem State.get_updCch (g : Cch → Cch) (f : Fld) : (s.updCch g).get f = s.get f := rfl
@[simp] theorem State.get_updDsp (g : Dsp → Dsp) (f : Fld) : (s.updDsp g).get f = s.get f := rfl
@[simp] theorem State.get_updLdg (g : Ldg → Ldg) (f : Fld) : (s.updLdg g).get f = s.get f := rfl
@[simp] theorem State.get_updCtl (g : Ctl → Ctl) (f : Fld) : (s.updCtl g).get f = s.get f := rfl
@[simp] theorem State.get_updSeq (g : Seq → Seq) (f : Fld) : (s.updSeq g).get f = s.get f := rfl
@[simp] theorem State.get_updDrn (g : Drn → Drn) (f : Fld) : (s.updDrn g).get f = s.get f := rfl
@[simp] theorem State.get_updVlt (g : Vlt → Vlt) (f : Fld) : (s.updVlt g).get f = s.get f := rfl
@[simp] theorem State.get_updRst (g : Rst → Rst) (f : Fld) : (s.updRst g).get f = s.get f := rfl
@[simp] theorem State.get_updMlk (g : Mlk → Mlk) (f : Fld) : (s.updMlk g).get f = s.get f := rfl
@[simp] theorem State.get_updMtx (g : Mtx → Mtx) (f : Fld) : (s.updMtx g).get f = s.get f := rfl
@[simp] theorem State.get_emit (o : Output) (f : Fld) : (s.emit o).get f = s.get f := rfl
@[simp] theorem State.get_enter (o : OpState) (f : Fld) : (s.enter o).get f = s.get f := rfl
@[simp] theorem State.get_bindWrite (g : Fld) (v : Nat) (f : Fld) : (s.bindWrite g v).get f = s.get f := rfl
@[simp] theorem State.get_raise (n : Nat) (f : Fld) : (s.raise n).get f = s.get f := State.get_of_regs (by simp) f
@[simp] theorem State.get_event (c x : Nat) (f : Fld) : (s.event c x).get f = s.get f := State.get_of_regs (by simp) f
@[simp] theorem State.get_eventWith (c x n : Nat) (l : List Nat) (b : Bool) (f : Fld) :
    (s.eventWith c x n l b).get f = s.get f := State.get_of_regs (by simp) f

/-- A field reads what was written to it, cut to its width. -/
theorem State.get_set (h : Store.wf 0 s.regs = true) (f : Fld) (v : Nat) : (s.set f v).get f = v % 2 ^ f.width := by
  unfold State.get State.set
  dsimp only
  rw [Store.get_put_same h, Nat.xor_assoc, Nat.xor_self, Nat.xor_zero]

/-- A write leaves every other field alone. -/
theorem State.get_set_ne {f g : Fld} (h : g.key ≠ f.key) (v : Nat) : (s.set g v).get f = s.get f := by
  unfold State.get State.set
  dsimp only
  rw [Store.get_put_ne h]

theorem State.get_setB (h : Store.wf 0 s.regs = true) (f : Fld) (b : Bool) : (s.setB f b).get f = b2n b % 2 ^ f.width :=
  State.get_set h f _

theorem State.get_setB_ne {f g : Fld} (h : g.key ≠ f.key) (b : Bool) : (s.setB g b).get f = s.get f := State.get_set_ne h _

theorem State.get_count (h : Store.wf 0 s.regs = true) (f : Fld) (n : Nat) :
    (s.count f n).get f = satAdd (2 ^ f.width - 1) (s.get f) n % 2 ^ f.width := State.get_set h f _

theorem State.get_count_ne {f g : Fld} (h : g.key ≠ f.key) (n : Nat) : (s.count g n).get f = s.get f := State.get_set_ne h _

theorem State.wf_set (h : Store.wf 0 s.regs = true) (f : Fld) (v : Nat) : Store.wf 0 (s.set f v).regs = true :=
  Store.wf_put h _ _

theorem State.wf_setB (h : Store.wf 0 s.regs = true) (f : Fld) (b : Bool) : Store.wf 0 (s.setB f b).regs = true :=
  Store.wf_put h _ _

theorem State.wf_count (h : Store.wf 0 s.regs = true) (f : Fld) (n : Nat) : Store.wf 0 (s.count f n).regs = true :=
  Store.wf_put h _ _

end Sys2Proof.Machine
end

