-- ==== Sys2Proof/Laws/Flash.lean ====
section
/-! SUPPORT. What the flash interface's shared operations do: when an internal write starts, and what each leaves in the field
that says which operation runs (R428). -/

namespace Sys2Proof.Machine

/-- The background erase starts or goes on; the operation that runs stays. -/
theorem State.backErase_op (s : State) : s.backErase.cfl.op = s.cfl.op := by
  unfold State.backErase
  split <;> simp only [State.updCfl]

/-- A step of an internal write makes an operation run, if only the one that refuses it. -/
theorem State.writeStep_op (s : State) (w : IWrite) (n : Option Nat) : (s.writeStep w n).cfl.op.isSome = true := by
  unfold State.writeStep
  split
  · rfl
  · split
    · rw [State.event_cfl]; rfl
    · rfl

/-- An internal write that starts makes an operation run. -/
theorem State.startWrite_op (s : State) (w : IWrite) : (s.startWrite w).cfl.op.isSome = true := by
  unfold State.startWrite
  simp only
  split
  · split
    · exact State.writeStep_op _ _ _
    · rfl
  · rw [if_pos rfl]
    exact State.writeStep_op _ _ _

/-- With nothing queued the interface turns to its background erase. -/
theorem State.flashNext_empty (s : State) (a : s.flashOn = true) (q : s.cfl.queue = []) : s.flashNext = s.backErase := by
  unfold State.flashNext
  rw [if_neg (by simp [a])]
  split
  · rfl
  · rw [q]

/-- A queued internal write starts as soon as nothing is open or running (R428). -/
theorem State.flashNext_op (s : State) (a : s.flashOn = true) (b : s.cfl.op = none) (c : s.cfl.seq = none) (d : s.cfl.compat = none)
    (q : s.cfl.queue ≠ []) : s.flashNext.cfl.op.isSome = true := by
  obtain ⟨x, l, q⟩ := List.exists_cons_of_ne_nil q
  unfold State.flashNext
  rw [if_neg (by simp [a]), if_neg (by simp [b, c, d]), q]
  simp only [State.backErase_op]
  exact State.startWrite_op _ _

end Sys2Proof.Machine
end

