-- ==== Sys2Proof/Laws/Keeps.lean ====
section
/-! SUPPORT. What every command keeps, and what each operation leaves alone: the queue of waiting commands, soundness of the state,
and every part of the state that a set of parts does not name. The relation composes, so each shared operation has one lemma; the
folder Keeps holds them, one file for each file of operations. -/

set_option Elab.async false

namespace Sys2Proof.Machine

/-- A set of parts of the state contains another; bit n stands for the n-th field of State, bit 22 for the
beat and cycle counts and bit 23 for the operating state, the two within `glb`. -/
abbrev Parts (m a : Nat) : Prop := m &&& a = a

theorem Parts.sub {m a b : Nat} (h : Parts m a) (k : a &&& b = b) : Parts m b := by
  unfold Parts at *
  rw [← k, ← Nat.and_assoc, h]

theorem Parts.holds {m n : Nat} (h : Parts m (2 ^ n)) (k : m.testBit n = false) : False := by
  unfold Parts at h
  have := congrArg (fun x => x.testBit n) h
  simp [Nat.testBit_and, k] at this

/-- A change that leaves the queue alone, keeps a sound state sound, and changes the parts of a set only. -/
structure Keeps (m : Nat) (s t : State) : Prop where
  queue : t.pending = s.pending
  inv : s.Inv → t.Inv
  regs : m.testBit 0 = false → t.regs = s.regs
  glb : m.testBit 1 = false → t.glb = s.glb
  irq : m.testBit 2 = false → t.irq = s.irq
  evr : m.testBit 3 = false → t.evr = s.evr
  sti : m.testBit 4 = false → t.sti = s.sti
  cfl : m.testBit 5 = false → t.cfl = s.cfl
  dge : m.testBit 6 = false → t.dge = s.dge
  stw : m.testBit 7 = false → t.stw = s.stw
  pq : m.testBit 8 = false → t.pq = s.pq
  mbx : m.testBit 9 = false → t.mbx = s.mbx
  hp : m.testBit 10 = false → t.hp = s.hp
  cch : m.testBit 11 = false → t.cch = s.cch
  dsp : m.testBit 12 = false → t.dsp = s.dsp
  ldg : m.testBit 13 = false → t.ldg = s.ldg
  ctl : m.testBit 14 = false → t.ctl = s.ctl
  seq : m.testBit 15 = false → t.seq = s.seq
  drn : m.testBit 16 = false → t.drn = s.drn
  vlt : m.testBit 17 = false → t.vlt = s.vlt
  rst : m.testBit 18 = false → t.rst = s.rst
  mlk : m.testBit 19 = false → t.mlk = s.mlk
  mtx : m.testBit 20 = false → t.mtx = s.mtx
  out : m.testBit 21 = false → t.out = s.out
  clock : m.testBit 22 = false → t.glb.beat = s.glb.beat ∧ t.glb.cycle = s.glb.cycle
  op : m.testBit 23 = false → t.glb.st = s.glb.st

/-- The next state that an outcome answers, if any, is reached by a change of that kind. -/
def KeepsOut (m : Nat) (s : State) (o : Out) : Prop := ∀ t, o = .next t → Keeps m s t

theorem Keeps.refl (m : Nat) (s : State) : Keeps m s s :=
  ⟨rfl, id, fun _ => rfl, fun _ => rfl, fun _ => rfl, fun _ => rfl, fun _ => rfl, fun _ => rfl, fun _ => rfl, fun _ => rfl, fun _ => rfl, fun _ => rfl, fun _ => rfl, fun _ => rfl, fun _ => rfl, fun _ => rfl, fun _ => rfl, fun _ => rfl, fun _ => rfl, fun _ => rfl, fun _ => rfl, fun _ => rfl, fun _ => rfl, fun _ => rfl, fun _ => ⟨rfl, rfl⟩, fun _ => rfl⟩

theorem Keeps.trans {m : Nat} {s t u : State} (h : Keeps m s t) (k : Keeps m t u) : Keeps m s u :=
  ⟨k.queue.trans h.queue, fun i => k.inv (h.inv i),
    fun e => (k.regs e).trans (h.regs e),
    fun e => (k.glb e).trans (h.glb e),
    fun e => (k.irq e).trans (h.irq e),
    fun e => (k.evr e).trans (h.evr e),
    fun e => (k.sti e).trans (h.sti e),
    fun e => (k.cfl e).trans (h.cfl e),
    fun e => (k.dge e).trans (h.dge e),
    fun e => (k.stw e).trans (h.stw e),
    fun e => (k.pq e).trans (h.pq e),
    fun e => (k.mbx e).trans (h.mbx e),
    fun e => (k.hp e).trans (h.hp e),
    fun e => (k.cch e).trans (h.cch e),
    fun e => (k.dsp e).trans (h.dsp e),
    fun e => (k.ldg e).trans (h.ldg e),
    fun e => (k.ctl e).trans (h.ctl e),
    fun e => (k.seq e).trans (h.seq e),
    fun e => (k.drn e).trans (h.drn e),
    fun e => (k.vlt e).trans (h.vlt e),
    fun e => (k.rst e).trans (h.rst e),
    fun e => (k.mlk e).trans (h.mlk e),
    fun e => (k.mtx e).trans (h.mtx e),
    fun e => (k.out e).trans (h.out e),
    fun e => ⟨(k.clock e).1.trans (h.clock e).1, (k.clock e).2.trans (h.clock e).2⟩,
    fun e => (k.op e).trans (h.op e)⟩

theorem KeepsOut.next {m : Nat} {s t : State} (h : Keeps m s t) : KeepsOut m s (.next t) := fun u e => by
  injection e with e
  exact e ▸ h

theorem KeepsOut.trans {m : Nat} {s t : State} {o : Out} (h : Keeps m s t) (k : KeepsOut m t o) : KeepsOut m s o :=
  fun u e => h.trans (k u e)

/-- A fold of changes of that kind. -/
theorem Keeps.foldl {α : Type} {m : Nat} {u : State} {g : State → α → State} (hg : ∀ t a, Keeps m t (g t a)) :
    ∀ (l : List α) {s : State}, Keeps m u s → Keeps m u (l.foldl g s)
  | [], _, h => h
  | a :: l, _, h => Keeps.foldl hg l (h.trans (hg _ a))

/-- A fold over pairs whose state part changes so. -/
theorem Keeps.foldlFst {α β : Type} {m : Nat} {u : State} {g : State × β → α → State × β} (hg : ∀ t a, Keeps m t.1 (g t a).1) :
    ∀ (l : List α) {s : State × β}, Keeps m u s.1 → Keeps m u (l.foldl g s).1
  | [], _, h => h
  | a :: l, _, h => Keeps.foldlFst hg l (h.trans (hg _ a))

/-- A fold over pairs whose state part, the second, changes so. -/
theorem Keeps.foldlSnd {α β : Type} {m : Nat} {u : State} {g : β × State → α → β × State} (hg : ∀ t a, Keeps m t.2 (g t a).2) :
    ∀ (l : List α) {s : β × State}, Keeps m u s.2 → Keeps m u (l.foldl g s).2
  | [], _, h => h
  | a :: l, _, h => Keeps.foldlSnd hg l (h.trans (hg _ a))

/-- A choice between two changes of that kind. -/
theorem Keeps.ite {c : Prop} [Decidable c] {m : Nat} {u s t : State} (h : c → Keeps m u s) (k : ¬c → Keeps m u t) :
    Keeps m u (if c then s else t) := by
  split
  · exact h ‹_›
  · exact k ‹_›

theorem KeepsOut.ite {c : Prop} [Decidable c] {m : Nat} {u : State} {a b : Out} (h : c → KeepsOut m u a) (k : ¬c → KeepsOut m u b) :
    KeepsOut m u (if c then a else b) := by
  split
  · exact h ‹_›
  · exact k ‹_›

/-- The state part of a pair that a computation answers. -/
theorem Keeps.sndOf {α : Type} {m : Nat} {p : α × State} {x : α} {u t : State} (e : p = (x, t)) (h : Keeps m u p.2) : Keeps m u t := by
  subst e; exact h

theorem Keeps.fstOf {α : Type} {m : Nat} {p : State × α} {x : α} {u t : State} (e : p = (t, x)) (h : Keeps m u p.1) : Keeps m u t := by
  subst e; exact h

theorem Keeps.iteSnd {α : Type} {c : Prop} [Decidable c] {m : Nat} {u : State} {p q : α × State} (h : c → Keeps m u p.2)
    (k : ¬c → Keeps m u q.2) : Keeps m u (if c then p else q).2 := by
  split
  · exact h ‹_›
  · exact k ‹_›

theorem Keeps.iteFst {α : Type} {c : Prop} [Decidable c] {m : Nat} {u : State} {p q : State × α} (h : c → Keeps m u p.1)
    (k : ¬c → Keeps m u q.1) : Keeps m u (if c then p else q).1 := by
  split
  · exact h ‹_›
  · exact k ‹_›

section
variable {m : Nat} {u s : State}

/-- A change of the registers alone that keeps their table canonical. -/
theorem Keeps.mapRegs (h : Keeps m u s) {r : Store Nat} (hr : Store.wf 0 s.regs = true → Store.wf 0 r = true)
    (hm : Parts m 1 := by first | decide | exact Parts.sub (by assumption) (by decide)) :
    Keeps m u { s with regs := r } :=
  h.trans ⟨rfl, fun i => ⟨hr i.regs, i.lines, i.flash, i.nand, i.ring, i.cycle⟩, fun e => (Parts.holds (n := 0) hm e).elim, fun _ => rfl, fun _ => rfl, fun _ => rfl, fun _ => rfl, fun _ => rfl, fun _ => rfl, fun _ => rfl, fun _ => rfl, fun _ => rfl, fun _ => rfl, fun _ => rfl, fun _ => rfl, fun _ => rfl, fun _ => rfl, fun _ => rfl, fun _ => rfl, fun _ => rfl, fun _ => rfl, fun _ => rfl, fun _ => rfl, fun _ => rfl, fun _ => ⟨rfl, rfl⟩, fun _ => rfl⟩

theorem State.set_keeps (h : Keeps m u s) (f : Fld) (v : Nat) (hm : Parts m 1 := by first | decide | exact Parts.sub (by assumption) (by decide)) : Keeps m u (s.set f v) :=
  h.mapRegs (fun w => Store.wf_put w _ _) hm
theorem State.setB_keeps (h : Keeps m u s) (f : Fld) (b : Bool) (hm : Parts m 1 := by first | decide | exact Parts.sub (by assumption) (by decide)) : Keeps m u (s.setB f b) :=
  State.set_keeps h _ _ hm
theorem State.count_keeps (h : Keeps m u s) (f : Fld) (n : Nat) (hm : Parts m 1 := by first | decide | exact Parts.sub (by assumption) (by decide)) : Keeps m u (s.count f n) :=
  State.set_keeps h _ _ hm
theorem State.set64_keeps (h : Keeps m u s) (lo hi : Fld) (v : Nat) (hm : Parts m 1 := by first | decide | exact Parts.sub (by assumption) (by decide)) : Keeps m u (s.set64 lo hi v) :=
  State.set_keeps (State.set_keeps h _ _ hm) _ _ hm
theorem State.dropRegs_keeps (h : Keeps m u s) (p : Nat → Bool) (hm : Parts m 1 := by first | decide | exact Parts.sub (by assumption) (by decide)) : Keeps m u (s.dropRegs p) :=
  h.mapRegs (fun w => Store.wf_keep w _) hm

theorem State.emit_keeps (h : Keeps m u s) (o : Output) (hm : Parts m 2097152 := by first | decide | exact Parts.sub (by assumption) (by decide)) : Keeps m u (s.emit o) :=
  h.trans ⟨rfl, fun i => ⟨i.regs, i.lines, i.flash, i.nand, i.ring, i.cycle⟩, fun _ => rfl, fun _ => rfl, fun _ => rfl, fun _ => rfl, fun _ => rfl, fun _ => rfl, fun _ => rfl, fun _ => rfl, fun _ => rfl, fun _ => rfl, fun _ => rfl, fun _ => rfl, fun _ => rfl, fun _ => rfl, fun _ => rfl, fun _ => rfl, fun _ => rfl, fun _ => rfl, fun _ => rfl, fun _ => rfl, fun _ => rfl, fun e => (Parts.holds (n := 21) hm e).elim, fun _ => ⟨rfl, rfl⟩, fun _ => rfl⟩
theorem State.updGlb_keeps (h : Keeps m u s) (f : Glb → Glb) (hf : ∀ g : Glb, g.cycle ≤ 399 → (f g).cycle ≤ 399)
    (hc : m.testBit 22 = false → ∀ g : Glb, (f g).beat = g.beat ∧ (f g).cycle = g.cycle)
    (hs : m.testBit 23 = false → ∀ g : Glb, (f g).st = g.st)
    (hm : Parts m 2 := by first | decide | exact Parts.sub (by assumption) (by decide)) :
    Keeps m u (s.updGlb f) := h.trans ⟨rfl, fun i => ⟨i.regs, i.lines, i.flash, i.nand, i.ring, hf _ i.cycle⟩, fun _ => rfl, fun e => (Parts.holds (n := 1) hm e).elim, fun _ => rfl, fun _ => rfl, fun _ => rfl, fun _ => rfl, fun _ => rfl, fun _ => rfl, fun _ => rfl, fun _ => rfl, fun _ => rfl, fun _ => rfl, fun _ => rfl, fun _ => rfl, fun _ => rfl, fun _ => rfl, fun _ => rfl, fun _ => rfl, fun _ => rfl, fun _ => rfl, fun _ => rfl, fun _ => rfl, fun e => hc e s.glb, fun e => hs e s.glb⟩
theorem State.updIrq_keeps (h : Keeps m u s) (f : Irq → Irq)
    (hm : Parts m 4 := by first | decide | exact Parts.sub (by assumption) (by decide)) :
    Keeps m u (s.updIrq f) := h.trans ⟨rfl, fun i => ⟨i.regs, i.lines, i.flash, i.nand, i.ring, i.cycle⟩, fun _ => rfl, fun _ => rfl, fun e => (Parts.holds (n := 2) hm e).elim, fun _ => rfl, fun _ => rfl, fun _ => rfl, fun _ => rfl, fun _ => rfl, fun _ => rfl, fun _ => rfl, fun _ => rfl, fun _ => rfl, fun _ => rfl, fun _ => rfl, fun _ => rfl, fun _ => rfl, fun _ => rfl, fun _ => rfl, fun _ => rfl, fun _ => rfl, fun _ => rfl, fun _ => rfl, fun _ => ⟨rfl, rfl⟩, fun _ => rfl⟩
theorem State.updEvr_keeps (h : Keeps m u s) (f : Evr → Evr) (hf : ∀ e : Evr, e.ring.length ≤ 8192 → (f e).ring.length ≤ 8192)
    (hm : Parts m 8 := by first | decide | exact Parts.sub (by assumption) (by decide)) :
    Keeps m u (s.updEvr f) := h.trans ⟨rfl, fun i => ⟨i.regs, i.lines, i.flash, i.nand, hf _ i.ring, i.cycle⟩, fun _ => rfl, fun _ => rfl, fun _ => rfl, fun e => (Parts.holds (n := 3) hm e).elim, fun _ => rfl, fun _ => rfl, fun _ => rfl, fun _ => rfl, fun _ => rfl, fun _ => rfl, fun _ => rfl, fun _ => rfl, fun _ => rfl, fun _ => rfl, fun _ => rfl, fun _ => rfl, fun _ => rfl, fun _ => rfl, fun _ => rfl, fun _ => rfl, fun _ => rfl, fun _ => rfl, fun _ => ⟨rfl, rfl⟩, fun _ => rfl⟩
theorem State.updSti_keeps (h : Keeps m u s) (f : Sti → Sti)
    (hm : Parts m 16 := by first | decide | exact Parts.sub (by assumption) (by decide)) :
    Keeps m u (s.updSti f) := h.trans ⟨rfl, fun i => ⟨i.regs, i.lines, i.flash, i.nand, i.ring, i.cycle⟩, fun _ => rfl, fun _ => rfl, fun _ => rfl, fun _ => rfl, fun e => (Parts.holds (n := 4) hm e).elim, fun _ => rfl, fun _ => rfl, fun _ => rfl, fun _ => rfl, fun _ => rfl, fun _ => rfl, fun _ => rfl, fun _ => rfl, fun _ => rfl, fun _ => rfl, fun _ => rfl, fun _ => rfl, fun _ => rfl, fun _ => rfl, fun _ => rfl, fun _ => rfl, fun _ => rfl, fun _ => ⟨rfl, rfl⟩, fun _ => rfl⟩
theorem State.updCfl_keeps (h : Keeps m u s) (f : Cfl → Cfl) (hf : ∀ c : Cfl, Store.wf 0xFF c.bytes = true → Store.wf 0xFF (f c).bytes = true)
    (hm : Parts m 32 := by first | decide | exact Parts.sub (by assumption) (by decide)) :
    Keeps m u (s.updCfl f) := h.trans ⟨rfl, fun i => ⟨i.regs, i.lines, hf _ i.flash, i.nand, i.ring, i.cycle⟩, fun _ => rfl, fun _ => rfl, fun _ => rfl, fun _ => rfl, fun _ => rfl, fun e => (Parts.holds (n := 5) hm e).elim, fun _ => rfl, fun _ => rfl, fun _ => rfl, fun _ => rfl, fun _ => rfl, fun _ => rfl, fun _ => rfl, fun _ => rfl, fun _ => rfl, fun _ => rfl, fun _ => rfl, fun _ => rfl, fun _ => rfl, fun _ => rfl, fun _ => rfl, fun _ => rfl, fun _ => ⟨rfl, rfl⟩, fun _ => rfl⟩
theorem State.updDge_keeps (h : Keeps m u s) (f : Dge → Dge)
    (hm : Parts m 64 := by first | decide | exact Parts.sub (by assumption) (by decide)) :
    Keeps m u (s.updDge f) := h.trans ⟨rfl, fun i => ⟨i.regs, i.lines, i.flash, i.nand, i.ring, i.cycle⟩, fun _ => rfl, fun _ => rfl, fun _ => rfl, fun _ => rfl, fun _ => rfl, fun _ => rfl, fun e => (Parts.holds (n := 6) hm e).elim, fun _ => rfl, fun _ => rfl, fun _ => rfl, fun _ => rfl, fun _ => rfl, fun _ => rfl, fun _ => rfl, fun _ => rfl, fun _ => rfl, fun _ => rfl, fun _ => rfl, fun _ => rfl, fun _ => rfl, fun _ => rfl, fun _ => rfl, fun _ => ⟨rfl, rfl⟩, fun _ => rfl⟩
theorem State.updStw_keeps (h : Keeps m u s) (f : Stw → Stw)
    (hm : Parts m 128 := by first | decide | exact Parts.sub (by assumption) (by decide)) :
    Keeps m u (s.updStw f) := h.trans ⟨rfl, fun i => ⟨i.regs, i.lines, i.flash, i.nand, i.ring, i.cycle⟩, fun _ => rfl, fun _ => rfl, fun _ => rfl, fun _ => rfl, fun _ => rfl, fun _ => rfl, fun _ => rfl, fun e => (Parts.holds (n := 7) hm e).elim, fun _ => rfl, fun _ => rfl, fun _ => rfl, fun _ => rfl, fun _ => rfl, fun _ => rfl, fun _ => rfl, fun _ => rfl, fun _ => rfl, fun _ => rfl, fun _ => rfl, fun _ => rfl, fun _ => rfl, fun _ => rfl, fun _ => ⟨rfl, rfl⟩, fun _ => rfl⟩
theorem State.updPq_keeps (h : Keeps m u s) (f : Pq → Pq)
    (hm : Parts m 256 := by first | decide | exact Parts.sub (by assumption) (by decide)) :
    Keeps m u (s.updPq f) := h.trans ⟨rfl, fun i => ⟨i.regs, i.lines, i.flash, i.nand, i.ring, i.cycle⟩, fun _ => rfl, fun _ => rfl, fun _ => rfl, fun _ => rfl, fun _ => rfl, fun _ => rfl, fun _ => rfl, fun _ => rfl, fun e => (Parts.holds (n := 8) hm e).elim, fun _ => rfl, fun _ => rfl, fun _ => rfl, fun _ => rfl, fun _ => rfl, fun _ => rfl, fun _ => rfl, fun _ => rfl, fun _ => rfl, fun _ => rfl, fun _ => rfl, fun _ => rfl, fun _ => rfl, fun _ => ⟨rfl, rfl⟩, fun _ => rfl⟩
theorem State.updMbx_keeps (h : Keeps m u s) (f : Mbx → Mbx)
    (hm : Parts m 512 := by first | decide | exact Parts.sub (by assumption) (by decide)) :
    Keeps m u (s.updMbx f) := h.trans ⟨rfl, fun i => ⟨i.regs, i.lines, i.flash, i.nand, i.ring, i.cycle⟩, fun _ => rfl, fun _ => rfl, fun _ => rfl, fun _ => rfl, fun _ => rfl, fun _ => rfl, fun _ => rfl, fun _ => rfl, fun _ => rfl, fun e => (Parts.holds (n := 9) hm e).elim, fun _ => rfl, fun _ => rfl, fun _ => rfl, fun _ => rfl, fun _ => rfl, fun _ => rfl, fun _ => rfl, fun _ => rfl, fun _ => rfl, fun _ => rfl, fun _ => rfl, fun _ => rfl, fun _ => ⟨rfl, rfl⟩, fun _ => rfl⟩
theorem State.updHp_keeps (h : Keeps m u s) (f : Hp → Hp)
    (hm : Parts m 1024 := by first | decide | exact Parts.sub (by assumption) (by decide)) :
    Keeps m u (s.updHp f) := h.trans ⟨rfl, fun i => ⟨i.regs, i.lines, i.flash, i.nand, i.ring, i.cycle⟩, fun _ => rfl, fun _ => rfl, fun _ => rfl, fun _ => rfl, fun _ => rfl, fun _ => rfl, fun _ => rfl, fun _ => rfl, fun _ => rfl, fun _ => rfl, fun e => (Parts.holds (n := 10) hm e).elim, fun _ => rfl, fun _ => rfl, fun _ => rfl, fun _ => rfl, fun _ => rfl, fun _ => rfl, fun _ => rfl, fun _ => rfl, fun _ => rfl, fun _ => rfl, fun _ => rfl, fun _ => ⟨rfl, rfl⟩, fun _ => rfl⟩
theorem State.updCch_keeps (h : Keeps m u s) (f : Cch → Cch) (hf : ∀ c : Cch, Store.wf LineCell.zero c.lines = true → Store.wf LineCell.zero (f c).lines = true)
    (hm : Parts m 2048 := by first | decide | exact Parts.sub (by assumption) (by decide)) :
    Keeps m u (s.updCch f) := h.trans ⟨rfl, fun i => ⟨i.regs, hf _ i.lines, i.flash, i.nand, i.ring, i.cycle⟩, fun _ => rfl, fun _ => rfl, fun _ => rfl, fun _ => rfl, fun _ => rfl, fun _ => rfl, fun _ => rfl, fun _ => rfl, fun _ => rfl, fun _ => rfl, fun _ => rfl, fun e => (Parts.holds (n := 11) hm e).elim, fun _ => rfl, fun _ => rfl, fun _ => rfl, fun _ => rfl, fun _ => rfl, fun _ => rfl, fun _ => rfl, fun _ => rfl, fun _ => rfl, fun _ => rfl, fun _ => ⟨rfl, rfl⟩, fun _ => rfl⟩
theorem State.updDsp_keeps (h : Keeps m u s) (f : Dsp → Dsp)
    (hm : Parts m 4096 := by first | decide | exact Parts.sub (by assumption) (by decide)) :
    Keeps m u (s.updDsp f) := h.trans ⟨rfl, fun i => ⟨i.regs, i.lines, i.flash, i.nand, i.ring, i.cycle⟩, fun _ => rfl, fun _ => rfl, fun _ => rfl, fun _ => rfl, fun _ => rfl, fun _ => rfl, fun _ => rfl, fun _ => rfl, fun _ => rfl, fun _ => rfl, fun _ => rfl, fun _ => rfl, fun e => (Parts.holds (n := 12) hm e).elim, fun _ => rfl, fun _ => rfl, fun _ => rfl, fun _ => rfl, fun _ => rfl, fun _ => rfl, fun _ => rfl, fun _ => rfl, fun _ => rfl, fun _ => ⟨rfl, rfl⟩, fun _ => rfl⟩
theorem State.updLdg_keeps (h : Keeps m u s) (f : Ldg → Ldg)
    (hm : Parts m 8192 := by first | decide | exact Parts.sub (by assumption) (by decide)) :
    Keeps m u (s.updLdg f) := h.trans ⟨rfl, fun i => ⟨i.regs, i.lines, i.flash, i.nand, i.ring, i.cycle⟩, fun _ => rfl, fun _ => rfl, fun _ => rfl, fun _ => rfl, fun _ => rfl, fun _ => rfl, fun _ => rfl, fun _ => rfl, fun _ => rfl, fun _ => rfl, fun _ => rfl, fun _ => rfl, fun _ => rfl, fun e => (Parts.holds (n := 13) hm e).elim, fun _ => rfl, fun _ => rfl, fun _ => rfl, fun _ => rfl, fun _ => rfl, fun _ => rfl, fun _ => rfl, fun _ => rfl, fun _ => ⟨rfl, rfl⟩, fun _ => rfl⟩
theorem State.updCtl_keeps (h : Keeps m u s) (f : Ctl → Ctl)
    (hm : Parts m 16384 := by first | decide | exact Parts.sub (by assumption) (by decide)) :
    Keeps m u (s.updCtl f) := h.trans ⟨rfl, fun i => ⟨i.regs, i.lines, i.flash, i.nand, i.ring, i.cycle⟩, fun _ => rfl, fun _ => rfl, fun _ => rfl, fun _ => rfl, fun _ => rfl, fun _ => rfl, fun _ => rfl, fun _ => rfl, fun _ => rfl, fun _ => rfl, fun _ => rfl, fun _ => rfl, fun _ => rfl, fun _ => rfl, fun e => (Parts.holds (n := 14) hm e).elim, fun _ => rfl, fun _ => rfl, fun _ => rfl, fun _ => rfl, fun _ => rfl, fun _ => rfl, fun _ => rfl, fun _ => ⟨rfl, rfl⟩, fun _ => rfl⟩
theorem State.updSeq_keeps (h : Keeps m u s) (f : Seq → Seq)
    (hm : Parts m 32768 := by first | decide | exact Parts.sub (by assumption) (by decide)) :
    Keeps m u (s.updSeq f) := h.trans ⟨rfl, fun i => ⟨i.regs, i.lines, i.flash, i.nand, i.ring, i.cycle⟩, fun _ => rfl, fun _ => rfl, fun _ => rfl, fun _ => rfl, fun _ => rfl, fun _ => rfl, fun _ => rfl, fun _ => rfl, fun _ => rfl, fun _ => rfl, fun _ => rfl, fun _ => rfl, fun _ => rfl, fun _ => rfl, fun _ => rfl, fun e => (Parts.holds (n := 15) hm e).elim, fun _ => rfl, fun _ => rfl, fun _ => rfl, fun _ => rfl, fun _ => rfl, fun _ => rfl, fun _ => ⟨rfl, rfl⟩, fun _ => rfl⟩
theorem State.updDrn_keeps (h : Keeps m u s) (f : Drn → Drn)
    (hm : Parts m 65536 := by first | decide | exact Parts.sub (by assumption) (by decide)) :
    Keeps m u (s.updDrn f) := h.trans ⟨rfl, fun i => ⟨i.regs, i.lines, i.flash, i.nand, i.ring, i.cycle⟩, fun _ => rfl, fun _ => rfl, fun _ => rfl, fun _ => rfl, fun _ => rfl, fun _ => rfl, fun _ => rfl, fun _ => rfl, fun _ => rfl, fun _ => rfl, fun _ => rfl, fun _ => rfl, fun _ => rfl, fun _ => rfl, fun _ => rfl, fun _ => rfl, fun e => (Parts.holds (n := 16) hm e).elim, fun _ => rfl, fun _ => rfl, fun _ => rfl, fun _ => rfl, fun _ => rfl, fun _ => ⟨rfl, rfl⟩, fun _ => rfl⟩
theorem State.updVlt_keeps (h : Keeps m u s) (f : Vlt → Vlt) (hf : ∀ v : Vlt, Store.wf none v.nand = true → Store.wf none (f v).nand = true)
    (hm : Parts m 131072 := by first | decide | exact Parts.sub (by assumption) (by decide)) :
    Keeps m u (s.updVlt f) := h.trans ⟨rfl, fun i => ⟨i.regs, i.lines, i.flash, hf _ i.nand, i.ring, i.cycle⟩, fun _ => rfl, fun _ => rfl, fun _ => rfl, fun _ => rfl, fun _ => rfl, fun _ => rfl, fun _ => rfl, fun _ => rfl, fun _ => rfl, fun _ => rfl, fun _ => rfl, fun _ => rfl, fun _ => rfl, fun _ => rfl, fun _ => rfl, fun _ => rfl, fun _ => rfl, fun e => (Parts.holds (n := 17) hm e).elim, fun _ => rfl, fun _ => rfl, fun _ => rfl, fun _ => rfl, fun _ => ⟨rfl, rfl⟩, fun _ => rfl⟩
theorem State.updRst_keeps (h : Keeps m u s) (f : Rst → Rst)
    (hm : Parts m 262144 := by first | decide | exact Parts.sub (by assumption) (by decide)) :
    Keeps m u (s.updRst f) := h.trans ⟨rfl, fun i => ⟨i.regs, i.lines, i.flash, i.nand, i.ring, i.cycle⟩, fun _ => rfl, fun _ => rfl, fun _ => rfl, fun _ => rfl, fun _ => rfl, fun _ => rfl, fun _ => rfl, fun _ => rfl, fun _ => rfl, fun _ => rfl, fun _ => rfl, fun _ => rfl, fun _ => rfl, fun _ => rfl, fun _ => rfl, fun _ => rfl, fun _ => rfl, fun _ => rfl, fun e => (Parts.holds (n := 18) hm e).elim, fun _ => rfl, fun _ => rfl, fun _ => rfl, fun _ => ⟨rfl, rfl⟩, fun _ => rfl⟩
theorem State.updMlk_keeps (h : Keeps m u s) (f : Mlk → Mlk)
    (hm : Parts m 524288 := by first | decide | exact Parts.sub (by assumption) (by decide)) :
    Keeps m u (s.updMlk f) := h.trans ⟨rfl, fun i => ⟨i.regs, i.lines, i.flash, i.nand, i.ring, i.cycle⟩, fun _ => rfl, fun _ => rfl, fun _ => rfl, fun _ => rfl, fun _ => rfl, fun _ => rfl, fun _ => rfl, fun _ => rfl, fun _ => rfl, fun _ => rfl, fun _ => rfl, fun _ => rfl, fun _ => rfl, fun _ => rfl, fun _ => rfl, fun _ => rfl, fun _ => rfl, fun _ => rfl, fun _ => rfl, fun e => (Parts.holds (n := 19) hm e).elim, fun _ => rfl, fun _ => rfl, fun _ => ⟨rfl, rfl⟩, fun _ => rfl⟩
theorem State.updMtx_keeps (h : Keeps m u s) (f : Mtx → Mtx)
    (hm : Parts m 1048576 := by first | decide | exact Parts.sub (by assumption) (by decide)) :
    Keeps m u (s.updMtx f) := h.trans ⟨rfl, fun i => ⟨i.regs, i.lines, i.flash, i.nand, i.ring, i.cycle⟩, fun _ => rfl, fun _ => rfl, fun _ => rfl, fun _ => rfl, fun _ => rfl, fun _ => rfl, fun _ => rfl, fun _ => rfl, fun _ => rfl, fun _ => rfl, fun _ => rfl, fun _ => rfl, fun _ => rfl, fun _ => rfl, fun _ => rfl, fun _ => rfl, fun _ => rfl, fun _ => rfl, fun _ => rfl, fun _ => rfl, fun e => (Parts.holds (n := 20) hm e).elim, fun _ => rfl, fun _ => ⟨rfl, rfl⟩, fun _ => rfl⟩

/-- A change of any parts that leaves the queue alone and keeps a sound state sound. -/
theorem Keeps.all {t : State} (h : Keeps m u s) (hq : t.pending = s.pending) (hi : s.Inv → t.Inv)
    (hc : m.testBit 22 = false → t.glb.beat = s.glb.beat ∧ t.glb.cycle = s.glb.cycle)
    (hm : Parts m 12582911 := by first | decide | exact Parts.sub (by assumption) (by decide)) : Keeps m u t :=
  h.trans ⟨hq, hi, fun e => (Parts.holds (n := 0) (hm.sub (by decide)) e).elim, fun e => (Parts.holds (n := 1) (hm.sub (by decide)) e).elim, fun e => (Parts.holds (n := 2) (hm.sub (by decide)) e).elim, fun e => (Parts.holds (n := 3) (hm.sub (by decide)) e).elim, fun e => (Parts.holds (n := 4) (hm.sub (by decide)) e).elim, fun e => (Parts.holds (n := 5) (hm.sub (by decide)) e).elim, fun e => (Parts.holds (n := 6) (hm.sub (by decide)) e).elim, fun e => (Parts.holds (n := 7) (hm.sub (by decide)) e).elim, fun e => (Parts.holds (n := 8) (hm.sub (by decide)) e).elim, fun e => (Parts.holds (n := 9) (hm.sub (by decide)) e).elim, fun e => (Parts.holds (n := 10) (hm.sub (by decide)) e).elim, fun e => (Parts.holds (n := 11) (hm.sub (by decide)) e).elim, fun e => (Parts.holds (n := 12) (hm.sub (by decide)) e).elim, fun e => (Parts.holds (n := 13) (hm.sub (by decide)) e).elim, fun e => (Parts.holds (n := 14) (hm.sub (by decide)) e).elim, fun e => (Parts.holds (n := 15) (hm.sub (by decide)) e).elim, fun e => (Parts.holds (n := 16) (hm.sub (by decide)) e).elim, fun e => (Parts.holds (n := 17) (hm.sub (by decide)) e).elim, fun e => (Parts.holds (n := 18) (hm.sub (by decide)) e).elim, fun e => (Parts.holds (n := 19) (hm.sub (by decide)) e).elim, fun e => (Parts.holds (n := 20) (hm.sub (by decide)) e).elim, fun e => (Parts.holds (n := 21) (hm.sub (by decide)) e).elim,
    hc, fun e => (Parts.holds (n := 23) (hm.sub (by decide)) e).elim⟩

/-- A change of the vault that keeps the NAND table of this state canonical. -/
theorem State.updVltHere_keeps (h : Keeps m u s) (f : Vlt → Vlt) (hf : Store.wf none s.vlt.nand = true → Store.wf none (f s.vlt).nand = true)
    (hm : Parts m 131072 := by first | decide | exact Parts.sub (by assumption) (by decide)) :
    Keeps m u (s.updVlt f) :=
  h.trans ⟨rfl, fun i => ⟨i.regs, i.lines, i.flash, hf i.nand, i.ring, i.cycle⟩, fun _ => rfl, fun _ => rfl, fun _ => rfl, fun _ => rfl, fun _ => rfl, fun _ => rfl, fun _ => rfl, fun _ => rfl, fun _ => rfl, fun _ => rfl, fun _ => rfl, fun _ => rfl, fun _ => rfl, fun _ => rfl, fun _ => rfl, fun _ => rfl, fun _ => rfl, fun e => (Parts.holds (n := 17) hm e).elim, fun _ => rfl, fun _ => rfl, fun _ => rfl, fun _ => rfl, fun _ => ⟨rfl, rfl⟩, fun _ => rfl⟩

end

end Sys2Proof.Machine
end

