-- ==== Sys2Proof/Laws/Keeps/Ops.lean ====
section
/-! SUPPORT. The operations of Ops keep the queue and a sound state. -/

set_option Elab.async false

namespace Sys2Proof.Machine

set_option linter.unreachableTactic false
set_option linter.unusedTactic false
set_option linter.unusedVariables false

theorem Evr.touch_ring (e : Evr) (n : Nat) : (e.touch n).ring = e.ring := rfl

theorem Evr.record_ring {e : Evr} (h : e.ring.length ≤ 8192) (beat code src win nsnap : Nat) (snap : List Nat) (clr : Bool) :
    (e.record beat code src win nsnap snap clr).ring.length ≤ 8192 := by
  unfold Evr.record
  dsimp only
  split
  · simp only [Evr.touch_ring, List.length_take]; omega
  · next r rest hr =>
    rw [hr] at h
    split
    · simpa [Evr.touch_ring] using h
    · simp only [Evr.touch_ring, List.length_take]; omega

theorem ok_keeps  {m₀ : Nat} {u₀ s : State} (hk : Keeps m₀ u₀ s) (hm : Parts m₀ 0 := by first | decide | exact Parts.sub (by assumption) (by decide)) : KeepsOut m₀ u₀ (ok s) := by
  unfold ok
  try dsimp only
  repeat' first
    | exact Parts.sub hm (by decide)
    | with_reducible exact hk
    | with_reducible exact Keeps.refl _ _
    | with_reducible apply KeepsOut.next
    | exact fun _ w => w
    | with_reducible (intro _)
    | split

theorem State.draw_keeps  {m₀ : Nat} {u₀ s : State} (hk : Keeps m₀ u₀ s) (hm : Parts m₀ 2 := by first | decide | exact Parts.sub (by assumption) (by decide)) : Keeps m₀ u₀ (State.draw s).2 := by
  unfold State.draw
  try dsimp only
  repeat' first
    | exact Parts.sub hm (by decide)
    | with_reducible exact hk
    | with_reducible exact Keeps.refl _ _
    | with_reducible apply State.updGlb_keeps
    | with_reducible exact fun _ _ => rfl
    | with_reducible exact fun _ _ => ⟨rfl, rfl⟩
    | exact fun e => (Parts.holds (n := 22) (Parts.sub hm (by decide)) e).elim
    | exact fun e => (Parts.holds (n := 23) (Parts.sub hm (by decide)) e).elim
    | exact fun _ w => w
    | exact fun _ w => Store.wf_put w _ _
    | exact fun _ w => Store.wf_put (Store.wf_put w _ _) _ _
    | exact fun _ w => Store.wf_keep w _
    | exact fun _ _ => Store.wf_nil
    | with_reducible (intro _)
    | split

theorem State.entropy_keeps  {m₀ : Nat} {u₀ s : State} (hk : Keeps m₀ u₀ s) (hm : Parts m₀ 2 := by first | decide | exact Parts.sub (by assumption) (by decide)) : Keeps m₀ u₀ (State.entropy s).2 := by
  unfold State.entropy
  try dsimp only
  repeat' first
    | exact Parts.sub hm (by decide)
    | with_reducible exact hk
    | with_reducible exact Keeps.refl _ _
    | with_reducible apply State.updGlb_keeps
    | with_reducible exact fun _ _ => rfl
    | with_reducible exact fun _ _ => ⟨rfl, rfl⟩
    | exact fun e => (Parts.holds (n := 22) (Parts.sub hm (by decide)) e).elim
    | exact fun e => (Parts.holds (n := 23) (Parts.sub hm (by decide)) e).elim
    | exact fun _ w => w
    | exact fun _ w => Store.wf_put w _ _
    | exact fun _ w => Store.wf_put (Store.wf_put w _ _) _ _
    | exact fun _ w => Store.wf_keep w _
    | exact fun _ _ => Store.wf_nil
    | with_reducible (intro _)
    | split

theorem State.sendMsix_keeps (p : Port) (v : Nat) {m₀ : Nat} {u₀ s : State} (hk : Keeps m₀ u₀ s) (hm : Parts m₀ 2097156 := by first | decide | exact Parts.sub (by assumption) (by decide)) : Keeps m₀ u₀ (State.sendMsix s p v) := by
  unfold State.sendMsix
  try dsimp only
  repeat' first
    | exact Parts.sub hm (by decide)
    | with_reducible exact hk
    | with_reducible exact Keeps.refl _ _
    | with_reducible apply State.emit_keeps
    | with_reducible apply State.set_keeps
    | with_reducible apply State.updIrq_keeps
    | exact fun _ w => w
    | with_reducible (intro _)
    | split

theorem State.raiseAt_keeps (g : Agent) (l : List Nat) {m₀ : Nat} {u₀ s : State} (hk : Keeps m₀ u₀ s) (hm : Parts m₀ 2097156 := by first | decide | exact Parts.sub (by assumption) (by decide)) : Keeps m₀ u₀ (State.raiseAt s g l) := by
  unfold State.raiseAt
  try dsimp only
  repeat' first
    | exact Parts.sub hm (by decide)
    | with_reducible exact hk
    | with_reducible exact Keeps.refl _ _
    | with_reducible apply State.sendMsix_keeps
    | with_reducible apply State.set_keeps
    | with_reducible apply State.updIrq_keeps
    | with_reducible apply Keeps.foldl
    | with_reducible apply Keeps.foldlFst
    | with_reducible apply Keeps.foldlSnd
    | exact fun _ w => w
    | with_reducible (intro _)
    | split

theorem State.raiseAll_keeps (l : List Nat) {m₀ : Nat} {u₀ s : State} (hk : Keeps m₀ u₀ s) (hm : Parts m₀ 2097156 := by first | decide | exact Parts.sub (by assumption) (by decide)) : Keeps m₀ u₀ (State.raiseAll s l) := by
  unfold State.raiseAll
  try dsimp only
  repeat' first
    | exact Parts.sub hm (by decide)
    | with_reducible exact hk
    | with_reducible exact Keeps.refl _ _
    | with_reducible apply State.raiseAt_keeps
    | exact fun _ w => w
    | with_reducible (intro _)
    | split

theorem State.raise_keeps (n : Nat) {m₀ : Nat} {u₀ s : State} (hk : Keeps m₀ u₀ s) (hm : Parts m₀ 2097156 := by first | decide | exact Parts.sub (by assumption) (by decide)) : Keeps m₀ u₀ (State.raise s n) := by
  unfold State.raise
  try dsimp only
  repeat' first
    | exact Parts.sub hm (by decide)
    | with_reducible exact hk
    | with_reducible exact Keeps.refl _ _
    | with_reducible apply State.raiseAll_keeps
    | exact fun _ w => w
    | with_reducible (intro _)
    | split

theorem State.pldmEvent_keeps (code : Nat) {m₀ : Nat} {u₀ s : State} (hk : Keeps m₀ u₀ s) (hm : Parts m₀ 2097152 := by first | decide | exact Parts.sub (by assumption) (by decide)) : Keeps m₀ u₀ (State.pldmEvent s code) := by
  unfold State.pldmEvent
  try dsimp only
  repeat' first
    | exact Parts.sub hm (by decide)
    | with_reducible exact hk
    | with_reducible exact Keeps.refl _ _
    | with_reducible apply State.emit_keeps
    | exact fun _ w => w
    | with_reducible (intro _)
    | split

theorem State.eventWith_keeps (code src : Nat) (nsnap : Nat) (snap : List Nat) (clr : Bool) {m₀ : Nat} {u₀ s : State} (hk : Keeps m₀ u₀ s) (hm : Parts m₀ 2097676 := by first | decide | exact Parts.sub (by assumption) (by decide)) : Keeps m₀ u₀ (State.eventWith s code src nsnap snap clr) := by
  unfold State.eventWith
  try dsimp only
  repeat' first
    | exact Parts.sub hm (by decide)
    | with_reducible exact hk
    | with_reducible exact Keeps.refl _ _
    | with_reducible apply State.pldmEvent_keeps
    | with_reducible apply State.raiseAll_keeps
    | with_reducible apply State.updEvr_keeps
    | with_reducible apply State.updMbx_keeps
    | exact fun _ w => w
    | exact fun _ w => Store.wf_put w _ _
    | exact fun _ w => Store.wf_put (Store.wf_put w _ _) _ _
    | exact fun _ w => Store.wf_keep w _
    | exact fun _ _ => Store.wf_nil
    | exact fun _ w => Evr.record_ring w _ _ _ _ _ _ _
    | with_reducible (intro _)
    | split

theorem State.event_keeps (code src : Nat) {m₀ : Nat} {u₀ s : State} (hk : Keeps m₀ u₀ s) (hm : Parts m₀ 2097676 := by first | decide | exact Parts.sub (by assumption) (by decide)) : Keeps m₀ u₀ (State.event s code src) := by
  unfold State.event
  try dsimp only
  repeat' first
    | exact Parts.sub hm (by decide)
    | with_reducible exact hk
    | with_reducible exact Keeps.refl _ _
    | with_reducible apply State.eventWith_keeps
    | exact fun _ w => w
    | with_reducible (intro _)
    | split

theorem State.logRefusal_keeps (block : Nat) {m₀ : Nat} {u₀ s : State} (hk : Keeps m₀ u₀ s) (hm : Parts m₀ 2097676 := by first | decide | exact Parts.sub (by assumption) (by decide)) : Keeps m₀ u₀ (State.logRefusal s block) := by
  unfold State.logRefusal
  try dsimp only
  repeat' first
    | exact Parts.sub hm (by decide)
    | with_reducible exact hk
    | with_reducible exact Keeps.refl _ _
    | with_reducible apply State.event_keeps
    | exact fun _ w => w
    | with_reducible (intro _)
    | split

theorem State.addTask_keeps (k : Task) {m₀ : Nat} {u₀ s : State} (hk : Keeps m₀ u₀ s) (hm : Parts m₀ 4096 := by first | decide | exact Parts.sub (by assumption) (by decide)) : Keeps m₀ u₀ (State.addTask s k) := by
  unfold State.addTask
  try dsimp only
  repeat' first
    | exact Parts.sub hm (by decide)
    | with_reducible exact hk
    | with_reducible exact Keeps.refl _ _
    | with_reducible apply State.updDsp_keeps
    | exact fun _ w => w
    | with_reducible (intro _)
    | split

theorem State.putTask_keeps (tile ty prio pool count a0 a1 : Nat) (pin : Bool) {m₀ : Nat} {u₀ s : State} (hk : Keeps m₀ u₀ s) (hm : Parts m₀ 4097 := by first | decide | exact Parts.sub (by assumption) (by decide)) : Keeps m₀ u₀ (State.putTask s tile ty prio pool count a0 a1 pin) := by
  unfold State.putTask
  try dsimp only
  repeat' first
    | exact Parts.sub hm (by decide)
    | with_reducible exact hk
    | with_reducible exact Keeps.refl _ _
    | with_reducible apply State.addTask_keeps
    | with_reducible apply State.count_keeps
    | exact fun _ w => w
    | with_reducible (intro _)
    | split

theorem State.enqueue_keeps (ty prio pool count a0 a1 : Nat) (pin : Bool) {m₀ : Nat} {u₀ s : State} (hk : Keeps m₀ u₀ s) (hm : Parts m₀ 4097 := by first | decide | exact Parts.sub (by assumption) (by decide)) : Keeps m₀ u₀ (State.enqueue s ty prio pool count a0 a1 pin) := by
  unfold State.enqueue
  try dsimp only
  repeat' first
    | exact Parts.sub hm (by decide)
    | with_reducible exact hk
    | with_reducible exact Keeps.refl _ _
    | with_reducible apply State.count_keeps
    | with_reducible apply State.putTask_keeps
    | exact fun _ w => w
    | with_reducible (intro _)
    | split

theorem State.bindWrite_keeps (f : Fld) (v : Nat) {m₀ : Nat} {u₀ s : State} (hk : Keeps m₀ u₀ s) (hm : Parts m₀ 2 := by first | decide | exact Parts.sub (by assumption) (by decide)) : Keeps m₀ u₀ (State.bindWrite s f v) := by
  unfold State.bindWrite
  try dsimp only
  repeat' first
    | exact Parts.sub hm (by decide)
    | with_reducible exact hk
    | with_reducible exact Keeps.refl _ _
    | with_reducible apply State.updGlb_keeps
    | with_reducible exact fun _ _ => rfl
    | with_reducible exact fun _ _ => ⟨rfl, rfl⟩
    | exact fun e => (Parts.holds (n := 22) (Parts.sub hm (by decide)) e).elim
    | exact fun e => (Parts.holds (n := 23) (Parts.sub hm (by decide)) e).elim
    | exact fun _ w => w
    | exact fun _ w => Store.wf_put w _ _
    | exact fun _ w => Store.wf_put (Store.wf_put w _ _) _ _
    | exact fun _ w => Store.wf_keep w _
    | exact fun _ _ => Store.wf_nil
    | with_reducible (intro _)
    | split

theorem State.accErr_keeps  {m₀ : Nat} {u₀ s : State} (hk : Keeps m₀ u₀ s) (hm : Parts m₀ 1 := by first | decide | exact Parts.sub (by assumption) (by decide)) : Keeps m₀ u₀ (State.accErr s) := by
  unfold State.accErr
  try dsimp only
  repeat' first
    | exact Parts.sub hm (by decide)
    | with_reducible exact hk
    | with_reducible exact Keeps.refl _ _
    | with_reducible apply State.count_keeps
    | exact fun _ w => w
    | with_reducible (intro _)
    | split

theorem State.whileOn_keeps (off : Nat) (t : Out) {m₀ : Nat} {u₀ s : State} (hk : Keeps m₀ u₀ s) (ht : KeepsOut m₀ u₀ t) (hm : Parts m₀ 1 := by first | decide | exact Parts.sub (by assumption) (by decide)) :
    KeepsOut m₀ u₀ (State.whileOn s off t) := by
  unfold State.whileOn
  split
  · exact KeepsOut.next (State.accErr_keeps hk)
  · exact ht

theorem State.enter_keeps (o : OpState) {m₀ : Nat} {u₀ s : State} (hk : Keeps m₀ u₀ s) (hm : Parts m₀ 8388610 := by first | decide | exact Parts.sub (by assumption) (by decide)) : Keeps m₀ u₀ (State.enter s o) := by
  unfold State.enter
  try dsimp only
  repeat' first
    | exact Parts.sub hm (by decide)
    | with_reducible exact hk
    | with_reducible exact Keeps.refl _ _
    | with_reducible apply State.updGlb_keeps
    | with_reducible exact fun _ _ => rfl
    | with_reducible exact fun _ _ => ⟨rfl, rfl⟩
    | exact fun e => (Parts.holds (n := 22) (Parts.sub hm (by decide)) e).elim
    | exact fun e => (Parts.holds (n := 23) (Parts.sub hm (by decide)) e).elim
    | exact fun _ w => w
    | exact fun _ w => Store.wf_put w _ _
    | exact fun _ w => Store.wf_put (Store.wf_put w _ _) _ _
    | exact fun _ w => Store.wf_keep w _
    | exact fun _ _ => Store.wf_nil
    | with_reducible (intro _)
    | split

end Sys2Proof.Machine
end

