-- ==== Sys2Proof/Laws/Keeps/FlashOps.lean ====
section
/-! SUPPORT. The operations of FlashOps keep the queue and a sound state. -/

set_option Elab.async false

namespace Sys2Proof.Machine

set_option linter.unreachableTactic false
set_option linter.unusedTactic false
set_option linter.unusedVariables false

theorem Cfl.programBytes_wf : ∀ (a : Nat) (l : List Byte) (c : Cfl), Store.wf 0xFF c.bytes = true →
    Store.wf 0xFF (c.programBytes a l).bytes = true
  | _, [], _, h => h
  | a, _ :: bs, _, h => Cfl.programBytes_wf (a + 1) bs _ (Store.wf_put h _ _)

theorem Cfl.programWords_wf : ∀ (l : List (Nat × Nat)) (c : Cfl), Store.wf 0xFF c.bytes = true →
    Store.wf 0xFF (c.programWords l).bytes = true
  | [], _, h => h
  | _ :: ws, _, h => Cfl.programWords_wf ws _ (Cfl.programBytes_wf _ _ _ h)

theorem Cfl.eraseSector_wf (n : Nat) {c : Cfl} (h : Store.wf 0xFF c.bytes = true) : Store.wf 0xFF (c.eraseSector n).bytes = true :=
  Store.wf_keep h _

theorem Cfl.openSector_wf (n k : Nat) {c : Cfl} (h : Store.wf 0xFF c.bytes = true) :
    Store.wf 0xFF (c.openSector n k).bytes = true := Cfl.programBytes_wf _ _ _ (Cfl.eraseSector_wf n h)

theorem State.openSector_keeps (n k : Nat) (g : Cfl → Cfl) (hg : ∀ c, g c = c.openSector n k) {m₀ : Nat} {u s : State} (h : Keeps m₀ u s)
    (hm : Parts m₀ 32 := by first | decide | exact Parts.sub (by assumption) (by decide)) :
    Keeps m₀ u (s.updCfl g) := State.updCfl_keeps h g fun c w => by
  rw [hg]
  exact Cfl.openSector_wf n k w

theorem Cfl.programStaged_wf (off : Nat) (b : List Byte) (good : Bool) (k : Nat) {c : Cfl} (h : Store.wf 0xFF c.bytes = true) :
    Store.wf 0xFF (c.programStaged off b good k).bytes = true := Cfl.programBytes_wf _ _ _ h

theorem State.programStaged_keeps (off : Nat) (b : List Byte) (good : Bool) (k : Nat) (g : Cfl → Cfl)
    (hg : ∀ c, g c = c.programStaged off b good k) {m₀ : Nat} {u s : State} (h : Keeps m₀ u s)
    (hm : Parts m₀ 32 := by first | decide | exact Parts.sub (by assumption) (by decide)) :
    Keeps m₀ u (s.updCfl g) := State.updCfl_keeps h g fun c w => by
  rw [hg]
  exact Cfl.programStaged_wf off b good k w

theorem State.writeStep_keeps (w : IWrite) (next : Option Nat) {m₀ : Nat} {u₀ s : State} (hk : Keeps m₀ u₀ s) (hm : Parts m₀ 2097708 := by first | decide | exact Parts.sub (by assumption) (by decide)) : Keeps m₀ u₀ (State.writeStep s w next) := by
  unfold State.writeStep
  try dsimp only
  repeat' first
    | exact Parts.sub hm (by decide)
    | with_reducible exact hk
    | with_reducible exact Keeps.refl _ _
    | with_reducible apply State.event_keeps
    | with_reducible apply State.updCfl_keeps
    | exact fun _ w => w
    | exact fun _ w => Store.wf_put w _ _
    | exact fun _ w => Store.wf_put (Store.wf_put w _ _) _ _
    | exact fun _ w => Store.wf_keep w _
    | exact fun _ _ => Store.wf_nil
    | with_reducible (intro _)
    | split

theorem State.startWrite_keeps (w : IWrite) {m₀ : Nat} {u₀ s : State} (hk : Keeps m₀ u₀ s) (hm : Parts m₀ 2097708 := by first | decide | exact Parts.sub (by assumption) (by decide)) : Keeps m₀ u₀ (State.startWrite s w) := by
  unfold State.startWrite
  try dsimp only
  repeat' first
    | exact Parts.sub hm (by decide)
    | with_reducible exact hk
    | with_reducible exact Keeps.refl _ _
    | with_reducible apply State.updCfl_keeps
    | with_reducible apply State.writeStep_keeps
    | exact fun _ w => w
    | exact fun _ w => Store.wf_put w _ _
    | exact fun _ w => Store.wf_put (Store.wf_put w _ _) _ _
    | exact fun _ w => Store.wf_keep w _
    | exact fun _ _ => Store.wf_nil
    | with_reducible (intro _)
    | split

theorem State.backErase_keeps  {m₀ : Nat} {u₀ s : State} (hk : Keeps m₀ u₀ s) (hm : Parts m₀ 32 := by first | decide | exact Parts.sub (by assumption) (by decide)) : Keeps m₀ u₀ (State.backErase s) := by
  unfold State.backErase
  try dsimp only
  repeat' first
    | exact Parts.sub hm (by decide)
    | with_reducible exact hk
    | with_reducible exact Keeps.refl _ _
    | with_reducible apply State.updCfl_keeps
    | exact fun _ w => w
    | exact fun _ w => Store.wf_put w _ _
    | exact fun _ w => Store.wf_put (Store.wf_put w _ _) _ _
    | exact fun _ w => Store.wf_keep w _
    | exact fun _ _ => Store.wf_nil
    | with_reducible (intro _)
    | split

theorem State.flashNext_keeps  {m₀ : Nat} {u₀ s : State} (hk : Keeps m₀ u₀ s) (hm : Parts m₀ 2097708 := by first | decide | exact Parts.sub (by assumption) (by decide)) : Keeps m₀ u₀ (State.flashNext s) := by
  unfold State.flashNext
  try dsimp only
  repeat' first
    | exact Parts.sub hm (by decide)
    | with_reducible exact hk
    | with_reducible exact Keeps.refl _ _
    | with_reducible apply State.backErase_keeps
    | with_reducible apply State.startWrite_keeps
    | with_reducible apply State.updCfl_keeps
    | exact fun _ w => w
    | exact fun _ w => Store.wf_put w _ _
    | exact fun _ w => Store.wf_put (Store.wf_put w _ _) _ _
    | exact fun _ w => Store.wf_keep w _
    | exact fun _ _ => Store.wf_nil
    | with_reducible (intro _)
    | split

theorem State.flashWrite_keeps (w : IWrite) {m₀ : Nat} {u₀ s : State} (hk : Keeps m₀ u₀ s) (hm : Parts m₀ 2097708 := by first | decide | exact Parts.sub (by assumption) (by decide)) : Keeps m₀ u₀ (State.flashWrite s w) := by
  unfold State.flashWrite
  try dsimp only
  repeat' first
    | exact Parts.sub hm (by decide)
    | with_reducible exact hk
    | with_reducible exact Keeps.refl _ _
    | with_reducible apply State.flashNext_keeps
    | with_reducible apply State.updCfl_keeps
    | exact fun _ w => w
    | exact fun _ w => Store.wf_put w _ _
    | exact fun _ w => Store.wf_put (Store.wf_put w _ _) _ _
    | exact fun _ w => Store.wf_keep w _
    | exact fun _ _ => Store.wf_nil
    | with_reducible (intro _)
    | split

theorem State.flashResult_keeps (g : Agent) (code sec : Nat) {m₀ : Nat} {u₀ s : State} (hk : Keeps m₀ u₀ s) (hm : Parts m₀ 2097677 := by first | decide | exact Parts.sub (by assumption) (by decide)) : Keeps m₀ u₀ (State.flashResult s g code sec) := by
  unfold State.flashResult
  try dsimp only
  repeat' first
    | exact Parts.sub hm (by decide)
    | with_reducible exact hk
    | with_reducible exact Keeps.refl _ _
    | with_reducible apply State.event_keeps
    | with_reducible apply State.set_keeps
    | with_reducible apply State.setB_keeps
    | exact fun _ w => w
    | with_reducible (intro _)
    | split

theorem State.compatResult_keeps (code : Nat) {m₀ : Nat} {u₀ s : State} (hk : Keeps m₀ u₀ s) (hm : Parts m₀ 2097677 := by first | decide | exact Parts.sub (by assumption) (by decide)) : Keeps m₀ u₀ (State.compatResult s code) := by
  unfold State.compatResult
  try dsimp only
  repeat' first
    | exact Parts.sub hm (by decide)
    | with_reducible exact hk
    | with_reducible exact Keeps.refl _ _
    | with_reducible apply State.event_keeps
    | with_reducible apply State.set_keeps
    | exact fun _ w => w
    | with_reducible (intro _)
    | split

theorem State.endSeq_keeps (q : NatSeq) (code : Nat) {m₀ : Nat} {u₀ s : State} (hk : Keeps m₀ u₀ s) (hm : Parts m₀ 2097709 := by first | decide | exact Parts.sub (by assumption) (by decide)) : Keeps m₀ u₀ (State.endSeq s q code) := by
  unfold State.endSeq
  try dsimp only
  repeat' first
    | exact Parts.sub hm (by decide)
    | with_reducible exact hk
    | with_reducible exact Keeps.refl _ _
    | with_reducible apply State.flashNext_keeps
    | with_reducible apply State.flashResult_keeps
    | with_reducible apply State.updCfl_keeps
    | exact fun _ w => w
    | exact fun _ w => Store.wf_put w _ _
    | exact fun _ w => Store.wf_put (Store.wf_put w _ _) _ _
    | exact fun _ w => Store.wf_keep w _
    | exact fun _ _ => Store.wf_nil
    | with_reducible (intro _)
    | split

theorem State.endCompat_keeps (code : Nat) {m₀ : Nat} {u₀ s : State} (hk : Keeps m₀ u₀ s) (hm : Parts m₀ 2097709 := by first | decide | exact Parts.sub (by assumption) (by decide)) : Keeps m₀ u₀ (State.endCompat s code) := by
  unfold State.endCompat
  try dsimp only
  repeat' first
    | exact Parts.sub hm (by decide)
    | with_reducible exact hk
    | with_reducible exact Keeps.refl _ _
    | with_reducible apply State.compatResult_keeps
    | with_reducible apply State.flashNext_keeps
    | with_reducible apply State.updCfl_keeps
    | exact fun _ w => w
    | exact fun _ w => Store.wf_put w _ _
    | exact fun _ w => Store.wf_put (Store.wf_put w _ _) _ _
    | exact fun _ w => Store.wf_keep w _
    | exact fun _ _ => Store.wf_nil
    | with_reducible (intro _)
    | split

theorem State.abandonFlash_keeps (g : Agent) {m₀ : Nat} {u₀ s : State} (hk : Keeps m₀ u₀ s) (hm : Parts m₀ 2097709 := by first | decide | exact Parts.sub (by assumption) (by decide)) : Keeps m₀ u₀ (State.abandonFlash s g) := by
  unfold State.abandonFlash
  try dsimp only
  repeat' first
    | exact Parts.sub hm (by decide)
    | with_reducible exact hk
    | with_reducible exact Keeps.refl _ _
    | with_reducible apply State.endCompat_keeps
    | with_reducible apply State.endSeq_keeps
    | with_reducible apply State.event_keeps
    | exact fun _ w => w
    | with_reducible (intro _)
    | split

end Sys2Proof.Machine
end

