-- ==== Sys2Proof/Laws/Keeps/CacheOps.lean ====
section
/-! SUPPORT. The operations of CacheOps keep the queue and a sound state. -/

set_option Elab.async false

namespace Sys2Proof.Machine

set_option linter.unreachableTactic false
set_option linter.unusedTactic false
set_option linter.unusedVariables false

theorem State.dramMove_keeps (n : Nat) {m₀ : Nat} {u₀ s : State} (hk : Keeps m₀ u₀ s) (hm : Parts m₀ 2048 := by first | decide | exact Parts.sub (by assumption) (by decide)) : Keeps m₀ u₀ (State.dramMove s n) := by
  unfold State.dramMove
  try dsimp only
  repeat' first
    | exact Parts.sub hm (by decide)
    | with_reducible exact hk
    | with_reducible exact Keeps.refl _ _
    | with_reducible apply State.updCch_keeps
    | exact fun _ w => w
    | exact fun _ w => Store.wf_put w _ _
    | exact fun _ w => Store.wf_put (Store.wf_put w _ _) _ _
    | exact fun _ w => Store.wf_keep w _
    | exact fun _ _ => Store.wf_nil
    | with_reducible (intro _)
    | split

theorem State.dramAsk_keeps (k n : Nat) {m₀ : Nat} {u₀ s : State} (hk : Keeps m₀ u₀ s) (hm : Parts m₀ 2049 := by first | decide | exact Parts.sub (by assumption) (by decide)) : Keeps m₀ u₀ (State.dramAsk s k n) := by
  unfold State.dramAsk
  try dsimp only
  repeat' first
    | exact Parts.sub hm (by decide)
    | with_reducible exact hk
    | with_reducible exact Keeps.refl _ _
    | with_reducible apply State.setB_keeps
    | with_reducible apply State.updCch_keeps
    | exact fun _ w => w
    | exact fun _ w => Store.wf_put w _ _
    | exact fun _ w => Store.wf_put (Store.wf_put w _ _) _ _
    | exact fun _ w => Store.wf_keep w _
    | exact fun _ _ => Store.wf_nil
    | with_reducible (intro _)
    | split

theorem State.dramBoundary_keeps  {m₀ : Nat} {u₀ s : State} (hk : Keeps m₀ u₀ s) (hm : Parts m₀ 2049 := by first | decide | exact Parts.sub (by assumption) (by decide)) : Keeps m₀ u₀ (State.dramBoundary s) := by
  unfold State.dramBoundary
  try dsimp only
  repeat' first
    | exact Parts.sub hm (by decide)
    | with_reducible exact hk
    | with_reducible exact Keeps.refl _ _
    | with_reducible apply State.setB_keeps
    | with_reducible apply State.updCch_keeps
    | with_reducible apply Keeps.foldl
    | with_reducible apply Keeps.foldlFst
    | with_reducible apply Keeps.foldlSnd
    | exact fun _ w => w
    | exact fun _ w => Store.wf_put w _ _
    | exact fun _ w => Store.wf_put (Store.wf_put w _ _) _ _
    | exact fun _ w => Store.wf_keep w _
    | exact fun _ _ => Store.wf_nil
    | with_reducible (intro _)
    | split

theorem State.setEntry_keeps (g : Nat) (e : MapEntry) {m₀ : Nat} {u₀ s : State} (hk : Keeps m₀ u₀ s) (hm : Parts m₀ 2048 := by first | decide | exact Parts.sub (by assumption) (by decide)) : Keeps m₀ u₀ (State.setEntry s g e) := by
  unfold State.setEntry
  try dsimp only
  repeat' first
    | exact Parts.sub hm (by decide)
    | with_reducible exact hk
    | with_reducible exact Keeps.refl _ _
    | with_reducible apply State.updCch_keeps
    | exact fun _ w => w
    | exact fun _ w => Store.wf_put w _ _
    | exact fun _ w => Store.wf_put (Store.wf_put w _ _) _ _
    | exact fun _ w => Store.wf_keep w _
    | exact fun _ _ => Store.wf_nil
    | with_reducible (intro _)
    | split

theorem State.writeLine_keeps (la : Nat) (c : LineCell) {m₀ : Nat} {u₀ s : State} (hk : Keeps m₀ u₀ s) (hm : Parts m₀ 264192 := by first | decide | exact Parts.sub (by assumption) (by decide)) : Keeps m₀ u₀ (State.writeLine s la c) := by
  unfold State.writeLine
  try dsimp only
  repeat' first
    | exact Parts.sub hm (by decide)
    | with_reducible exact hk
    | with_reducible exact Keeps.refl _ _
    | with_reducible apply State.dramMove_keeps
    | with_reducible apply State.setEntry_keeps
    | with_reducible apply State.updCch_keeps
    | with_reducible apply State.updRst_keeps
    | exact fun _ w => w
    | exact fun _ w => Store.wf_put w _ _
    | exact fun _ w => Store.wf_put (Store.wf_put w _ _) _ _
    | exact fun _ w => Store.wf_keep w _
    | exact fun _ _ => Store.wf_nil
    | with_reducible (intro _)
    | split

theorem State.dirtyAdd_keeps (c : Nat) {m₀ : Nat} {u₀ s : State} (hk : Keeps m₀ u₀ s) (hm : Parts m₀ 1 := by first | decide | exact Parts.sub (by assumption) (by decide)) : Keeps m₀ u₀ (State.dirtyAdd s c) := by
  unfold State.dirtyAdd
  try dsimp only
  repeat' first
    | exact Parts.sub hm (by decide)
    | with_reducible exact hk
    | with_reducible exact Keeps.refl _ _
    | with_reducible apply State.set_keeps
    | exact fun _ w => w
    | with_reducible (intro _)
    | split

theorem State.dirtySub_keeps (c : Nat) {m₀ : Nat} {u₀ s : State} (hk : Keeps m₀ u₀ s) (hm : Parts m₀ 1 := by first | decide | exact Parts.sub (by assumption) (by decide)) : Keeps m₀ u₀ (State.dirtySub s c) := by
  unfold State.dirtySub
  try dsimp only
  repeat' first
    | exact Parts.sub hm (by decide)
    | with_reducible exact hk
    | with_reducible exact Keeps.refl _ _
    | with_reducible apply State.set_keeps
    | exact fun _ w => w
    | with_reducible (intro _)
    | split

theorem State.markDirty_keeps (g : Nat) {m₀ : Nat} {u₀ s : State} (hk : Keeps m₀ u₀ s) (hm : Parts m₀ 2049 := by first | decide | exact Parts.sub (by assumption) (by decide)) : Keeps m₀ u₀ (State.markDirty s g) := by
  unfold State.markDirty
  try dsimp only
  repeat' first
    | exact Parts.sub hm (by decide)
    | with_reducible exact hk
    | with_reducible exact Keeps.refl _ _
    | with_reducible apply State.dirtyAdd_keeps
    | with_reducible apply State.setEntry_keeps
    | exact fun _ w => w
    | with_reducible (intro _)
    | split

theorem State.clean_keeps (g : Nat) {m₀ : Nat} {u₀ s : State} (hk : Keeps m₀ u₀ s) (hm : Parts m₀ 2049 := by first | decide | exact Parts.sub (by assumption) (by decide)) : Keeps m₀ u₀ (State.clean s g) := by
  unfold State.clean
  try dsimp only
  repeat' first
    | exact Parts.sub hm (by decide)
    | with_reducible exact hk
    | with_reducible exact Keeps.refl _ _
    | with_reducible apply State.dirtySub_keeps
    | with_reducible apply State.setEntry_keeps
    | exact fun _ w => w
    | with_reducible (intro _)
    | split

theorem State.setUe_keeps  {m₀ : Nat} {u₀ s : State} (hk : Keeps m₀ u₀ s) (hm : Parts m₀ 2097157 := by first | decide | exact Parts.sub (by assumption) (by decide)) : Keeps m₀ u₀ (State.setUe s) := by
  unfold State.setUe
  try dsimp only
  repeat' first
    | exact Parts.sub hm (by decide)
    | with_reducible exact hk
    | with_reducible exact Keeps.refl _ _
    | with_reducible apply State.raise_keeps
    | with_reducible apply State.setB_keeps
    | exact fun _ w => w
    | with_reducible (intro _)
    | split

theorem State.retireRefuse_keeps (n reason : Nat) {m₀ : Nat} {u₀ s : State} (hk : Keeps m₀ u₀ s) (hm : Parts m₀ 2097677 := by first | decide | exact Parts.sub (by assumption) (by decide)) : Keeps m₀ u₀ (State.retireRefuse s n reason) := by
  unfold State.retireRefuse
  try dsimp only
  repeat' first
    | exact Parts.sub hm (by decide)
    | with_reducible exact hk
    | with_reducible exact Keeps.refl _ _
    | with_reducible apply State.event_keeps
    | with_reducible apply State.set_keeps
    | exact fun _ w => w
    | with_reducible (intro _)
    | split

theorem State.retireRequest_keeps (n : Nat) {m₀ : Nat} {u₀ s : State} (hk : Keeps m₀ u₀ s) (hm : Parts m₀ 2099727 := by first | decide | exact Parts.sub (by assumption) (by decide)) : Keeps m₀ u₀ (State.retireRequest s n) := by
  unfold State.retireRequest
  try dsimp only
  repeat' first
    | exact Parts.sub hm (by decide)
    | with_reducible exact hk
    | with_reducible exact Keeps.refl _ _
    | with_reducible apply State.draw_keeps
    | with_reducible apply State.retireRefuse_keeps
    | with_reducible apply State.updCch_keeps
    | exact fun _ w => w
    | exact fun _ w => Store.wf_put w _ _
    | exact fun _ w => Store.wf_put (Store.wf_put w _ _) _ _
    | exact fun _ w => Store.wf_keep w _
    | exact fun _ _ => Store.wf_nil
    | with_reducible (intro _)
    | split

theorem State.flagRank_keeps (n : Nat) {m₀ : Nat} {u₀ s : State} (hk : Keeps m₀ u₀ s) (hm : Parts m₀ 2099727 := by first | decide | exact Parts.sub (by assumption) (by decide)) : Keeps m₀ u₀ (State.flagRank s n) := by
  unfold State.flagRank
  try dsimp only
  repeat' first
    | exact Parts.sub hm (by decide)
    | with_reducible exact hk
    | with_reducible exact Keeps.refl _ _
    | with_reducible apply State.event_keeps
    | with_reducible apply State.raise_keeps
    | with_reducible apply State.retireRequest_keeps
    | with_reducible apply State.setB_keeps
    | exact fun _ w => w
    | with_reducible (intro _)
    | split

theorem State.countCe_keeps (n : Nat) (dev : Option Nat) {m₀ : Nat} {u₀ s : State} (hk : Keeps m₀ u₀ s) (hm : Parts m₀ 2099727 := by first | decide | exact Parts.sub (by assumption) (by decide)) : Keeps m₀ u₀ (State.countCe s n dev) := by
  unfold State.countCe
  try dsimp only
  repeat' first
    | exact Parts.sub hm (by decide)
    | with_reducible exact hk
    | with_reducible exact Keeps.refl _ _
    | with_reducible apply State.count_keeps
    | with_reducible apply State.flagRank_keeps
    | with_reducible apply State.updCch_keeps
    | exact fun _ w => w
    | exact fun _ w => Store.wf_put w _ _
    | exact fun _ w => Store.wf_put (Store.wf_put w _ _) _ _
    | exact fun _ w => Store.wf_keep w _
    | exact fun _ _ => Store.wf_nil
    | with_reducible (intro _)
    | split

theorem State.countUeRank_keeps (rank : Option Nat) {m₀ : Nat} {u₀ s : State} (hk : Keeps m₀ u₀ s) (hm : Parts m₀ 2099727 := by first | decide | exact Parts.sub (by assumption) (by decide)) : Keeps m₀ u₀ (State.countUeRank s rank) := by
  unfold State.countUeRank
  try dsimp only
  repeat' first
    | exact Parts.sub hm (by decide)
    | with_reducible exact hk
    | with_reducible exact Keeps.refl _ _
    | with_reducible apply State.flagRank_keeps
    | with_reducible apply State.updCch_keeps
    | exact fun _ w => w
    | exact fun _ w => Store.wf_put w _ _
    | exact fun _ w => Store.wf_put (Store.wf_put w _ _) _ _
    | exact fun _ w => Store.wf_keep w _
    | exact fun _ _ => Store.wf_nil
    | with_reducible (intro _)
    | split

theorem State.countUeOf_keeps (ca : Nat) (rank : Option Nat) {m₀ : Nat} {u₀ s : State} (hk : Keeps m₀ u₀ s) (hm : Parts m₀ 2099727 := by first | decide | exact Parts.sub (by assumption) (by decide)) : Keeps m₀ u₀ (State.countUeOf s ca rank) := by
  unfold State.countUeOf
  try dsimp only
  repeat' first
    | exact Parts.sub hm (by decide)
    | with_reducible exact hk
    | with_reducible exact Keeps.refl _ _
    | with_reducible apply State.count_keeps
    | with_reducible apply State.countUeRank_keeps
    | with_reducible apply State.set64_keeps
    | with_reducible apply State.setUe_keeps
    | exact fun _ w => w
    | with_reducible (intro _)
    | split

theorem State.countUe_keeps (la : Nat) {m₀ : Nat} {u₀ s : State} (hk : Keeps m₀ u₀ s) (hm : Parts m₀ 2099727 := by first | decide | exact Parts.sub (by assumption) (by decide)) : Keeps m₀ u₀ (State.countUe s la) := by
  unfold State.countUe
  try dsimp only
  repeat' first
    | exact Parts.sub hm (by decide)
    | with_reducible exact hk
    | with_reducible exact Keeps.refl _ _
    | with_reducible apply State.countUeOf_keeps
    | exact fun _ w => w
    | with_reducible (intro _)
    | split

theorem State.readCell_keeps (c : LineCell) (rank : Option Nat) (sub : Nat) (err : Codeword) {m₀ : Nat} {u₀ s : State} (hk : Keeps m₀ u₀ s) (hm : Parts m₀ 2099727 := by first | decide | exact Parts.sub (by assumption) (by decide)) : Keeps m₀ u₀ (State.readCell s c rank sub err).2 := by
  unfold State.readCell
  try dsimp only
  repeat' first
    | exact Parts.sub hm (by decide)
    | with_reducible exact hk
    | with_reducible exact Keeps.refl _ _
    | with_reducible apply State.count_keeps
    | with_reducible apply State.countCe_keeps
    | with_reducible apply State.dramMove_keeps
    | exact fun _ w => w
    | with_reducible (intro _)
    | split

theorem State.dramRead_keeps (la : Nat) (err : Codeword) {m₀ : Nat} {u₀ s : State} (hk : Keeps m₀ u₀ s) (hm : Parts m₀ 2099727 := by first | decide | exact Parts.sub (by assumption) (by decide)) : Keeps m₀ u₀ (State.dramRead s la err).2 := by
  unfold State.dramRead
  try dsimp only
  repeat' first
    | exact Parts.sub hm (by decide)
    | with_reducible exact hk
    | with_reducible exact Keeps.refl _ _
    | with_reducible apply State.readCell_keeps
    | exact fun _ w => w
    | with_reducible (intro _)
    | split

theorem State.queueFetch_keeps (g : Nat) {m₀ : Nat} {u₀ s : State} (hk : Keeps m₀ u₀ s) (hm : Parts m₀ 6145 := by first | decide | exact Parts.sub (by assumption) (by decide)) : Keeps m₀ u₀ (State.queueFetch s g) := by
  unfold State.queueFetch
  try dsimp only
  repeat' first
    | exact Parts.sub hm (by decide)
    | with_reducible exact hk
    | with_reducible exact Keeps.refl _ _
    | with_reducible apply State.enqueue_keeps
    | with_reducible apply State.setEntry_keeps
    | exact fun _ w => w
    | with_reducible (intro _)
    | split

theorem State.queueRefetch_keeps (la : Nat) {m₀ : Nat} {u₀ s : State} (hk : Keeps m₀ u₀ s) (hm : Parts m₀ 268289 := by first | decide | exact Parts.sub (by assumption) (by decide)) : Keeps m₀ u₀ (State.queueRefetch s la) := by
  unfold State.queueRefetch
  try dsimp only
  repeat' first
    | exact Parts.sub hm (by decide)
    | with_reducible exact hk
    | with_reducible exact Keeps.refl _ _
    | with_reducible apply State.queueFetch_keeps
    | with_reducible apply State.updRst_keeps
    | exact fun _ w => w
    | with_reducible (intro _)
    | split

theorem State.ueLine_keeps (la : Nat) {m₀ : Nat} {u₀ s : State} (hk : Keeps m₀ u₀ s) (hm : Parts m₀ 2365967 := by first | decide | exact Parts.sub (by assumption) (by decide)) : Keeps m₀ u₀ (State.ueLine s la) := by
  unfold State.ueLine
  try dsimp only
  repeat' first
    | exact Parts.sub hm (by decide)
    | with_reducible exact hk
    | with_reducible exact Keeps.refl _ _
    | with_reducible apply State.countUe_keeps
    | with_reducible apply State.dramMove_keeps
    | with_reducible apply State.event_keeps
    | with_reducible apply State.queueRefetch_keeps
    | with_reducible apply State.writeLine_keeps
    | exact fun _ w => w
    | with_reducible (intro _)
    | split

theorem State.flushLine_keeps (e : QEntry) (err : Codeword) {m₀ : Nat} {u₀ s : State} (hk : Keeps m₀ u₀ s) (hm : Parts m₀ 2361871 := by first | decide | exact Parts.sub (by assumption) (by decide)) : Keeps m₀ u₀ (State.flushLine s e err) := by
  unfold State.flushLine
  try dsimp only
  repeat' first
    | exact Parts.sub hm (by decide)
    | with_reducible exact hk
    | with_reducible exact Keeps.refl _ _
    | with_reducible apply State.countUeRank_keeps
    | with_reducible apply State.dramRead_keeps
    | with_reducible apply State.draw_keeps
    | with_reducible apply State.event_keeps
    | with_reducible apply State.setUe_keeps
    | with_reducible apply State.writeLine_keeps
    | exact fun _ w => w
    | with_reducible (intro _)
    | split

theorem State.retireAbandon_keeps  {m₀ : Nat} {u₀ s : State} (hk : Keeps m₀ u₀ s) (hm : Parts m₀ 2099725 := by first | decide | exact Parts.sub (by assumption) (by decide)) : Keeps m₀ u₀ (State.retireAbandon s) := by
  unfold State.retireAbandon
  try dsimp only
  repeat' first
    | exact Parts.sub hm (by decide)
    | with_reducible exact hk
    | with_reducible exact Keeps.refl _ _
    | with_reducible apply State.event_keeps
    | with_reducible apply State.retireRefuse_keeps
    | with_reducible apply State.set_keeps
    | with_reducible apply State.setB_keeps
    | with_reducible apply State.updCch_keeps
    | with_reducible apply Keeps.foldl
    | with_reducible apply Keeps.foldlFst
    | with_reducible apply Keeps.foldlSnd
    | exact fun _ w => w
    | exact fun _ w => Store.wf_put w _ _
    | exact fun _ w => Store.wf_put (Store.wf_put w _ _) _ _
    | exact fun _ w => Store.wf_keep w _
    | exact fun _ _ => Store.wf_nil
    | with_reducible (intro _)
    | split

end Sys2Proof.Machine
end

