-- ==== Sys2Proof/Laws/Keeps/SwitchOps.lean ====
section
/-! SUPPORT. The operations of SwitchOps keep the queue and a sound state. -/

set_option Elab.async false

namespace Sys2Proof.Machine

set_option linter.unreachableTactic false
set_option linter.unusedTactic false
set_option linter.unusedVariables false

theorem State.setSwitch_keeps (own m : Nat) (lvl : Bool) {m₀ : Nat} {u₀ s : State} (hk : Keeps m₀ u₀ s) (hm : Parts m₀ 32769 := by first | decide | exact Parts.sub (by assumption) (by decide)) : Keeps m₀ u₀ (State.setSwitch s own m lvl) := by
  unfold State.setSwitch
  try dsimp only
  repeat' first
    | exact Parts.sub hm (by decide)
    | with_reducible exact hk
    | with_reducible exact Keeps.refl _ _
    | with_reducible apply State.set_keeps
    | with_reducible apply State.updSeq_keeps
    | exact fun _ w => w
    | with_reducible (intro _)
    | split

end Sys2Proof.Machine
end

