-- ==== Sys2Proof/Laws/Keeps/ControlOps.lean ====
section
/-! SUPPORT. The operations of ControlOps keep the queue and a sound state. -/

set_option Elab.async false

namespace Sys2Proof.Machine

set_option linter.unreachableTactic false
set_option linter.unusedTactic false
set_option linter.unusedVariables false

theorem State.setMode_keeps (m : Nat) {m₀ : Nat} {u₀ s : State} (hk : Keeps m₀ u₀ s) (hm : Parts m₀ 1 := by first | decide | exact Parts.sub (by assumption) (by decide)) : Keeps m₀ u₀ (State.setMode s m) := by
  unfold State.setMode
  try extract_lets
  repeat' first
    | exact Parts.sub hm (by decide)
    | with_reducible exact hk
    | with_reducible exact Keeps.refl _ _
    | with_reducible apply State.set_keeps
    | with_reducible apply Keeps.ite
    | with_reducible apply Keeps.iteSnd
    | with_reducible apply Keeps.iteFst
    | refine Keeps.sndOf (by assumption) ?_
    | refine Keeps.fstOf (by assumption) ?_
    | with_reducible assumption
    | with_reducible exact fun _ w => w
    | with_reducible (intro _)
    | split
    | extract_lets
    | dsimp +zetaDelta only

theorem State.gatesLow_keeps  {m₀ : Nat} {u₀ s : State} (hk : Keeps m₀ u₀ s) (hm : Parts m₀ 16385 := by first | decide | exact Parts.sub (by assumption) (by decide)) : Keeps m₀ u₀ (State.gatesLow s) := by
  unfold State.gatesLow
  try extract_lets
  repeat' first
    | exact Parts.sub hm (by decide)
    | with_reducible exact hk
    | with_reducible exact Keeps.refl _ _
    | with_reducible apply State.set_keeps
    | with_reducible apply State.updCtl_keeps
    | with_reducible apply Keeps.ite
    | with_reducible apply Keeps.iteSnd
    | with_reducible apply Keeps.iteFst
    | refine Keeps.sndOf (by assumption) ?_
    | refine Keeps.fstOf (by assumption) ?_
    | with_reducible assumption
    | with_reducible exact fun _ w => w
    | with_reducible (intro _)
    | split
    | extract_lets
    | dsimp +zetaDelta only

theorem State.dropBf_keeps  {m₀ : Nat} {u₀ s : State} (hk : Keeps m₀ u₀ s) (hm : Parts m₀ 16385 := by first | decide | exact Parts.sub (by assumption) (by decide)) : Keeps m₀ u₀ (State.dropBf s) := by
  unfold State.dropBf
  try extract_lets
  repeat' first
    | exact Parts.sub hm (by decide)
    | with_reducible exact hk
    | with_reducible exact Keeps.refl _ _
    | with_reducible apply State.setB_keeps
    | with_reducible apply State.updCtl_keeps
    | with_reducible apply Keeps.ite
    | with_reducible apply Keeps.iteSnd
    | with_reducible apply Keeps.iteFst
    | refine Keeps.sndOf (by assumption) ?_
    | refine Keeps.fstOf (by assumption) ?_
    | with_reducible assumption
    | with_reducible exact fun _ w => w
    | with_reducible (intro _)
    | split
    | extract_lets
    | dsimp +zetaDelta only

theorem State.eqRelease_keeps  {m₀ : Nat} {u₀ s : State} (hk : Keeps m₀ u₀ s) (hm : Parts m₀ 49153 := by first | decide | exact Parts.sub (by assumption) (by decide)) : Keeps m₀ u₀ (State.eqRelease s) := by
  unfold State.eqRelease
  try extract_lets
  repeat' first
    | exact Parts.sub hm (by decide)
    | with_reducible exact hk
    | with_reducible exact Keeps.refl _ _
    | with_reducible apply State.setB_keeps
    | with_reducible apply State.setSwitch_keeps
    | with_reducible apply State.updCtl_keeps
    | with_reducible apply Keeps.foldl
    | with_reducible apply Keeps.foldlFst
    | with_reducible apply Keeps.foldlSnd
    | with_reducible apply Keeps.ite
    | with_reducible apply Keeps.iteSnd
    | with_reducible apply Keeps.iteFst
    | refine Keeps.sndOf (by assumption) ?_
    | refine Keeps.fstOf (by assumption) ?_
    | with_reducible assumption
    | with_reducible exact fun _ w => w
    | with_reducible (intro _)
    | split
    | extract_lets
    | dsimp +zetaDelta only

theorem State.ctlOff_keeps  {m₀ : Nat} {u₀ s : State} (hk : Keeps m₀ u₀ s) (hm : Parts m₀ 49153 := by first | decide | exact Parts.sub (by assumption) (by decide)) : Keeps m₀ u₀ (State.ctlOff s) := by
  unfold State.ctlOff
  try extract_lets
  repeat' first
    | exact Parts.sub hm (by decide)
    | with_reducible exact hk
    | with_reducible exact Keeps.refl _ _
    | with_reducible apply State.dropBf_keeps
    | with_reducible apply State.eqRelease_keeps
    | with_reducible apply State.gatesLow_keeps
    | with_reducible apply State.set_keeps
    | with_reducible apply State.setB_keeps
    | with_reducible apply State.setMode_keeps
    | with_reducible apply State.updCtl_keeps
    | with_reducible apply Keeps.ite
    | with_reducible apply Keeps.iteSnd
    | with_reducible apply Keeps.iteFst
    | refine Keeps.sndOf (by assumption) ?_
    | refine Keeps.fstOf (by assumption) ?_
    | with_reducible assumption
    | with_reducible exact fun _ w => w
    | with_reducible (intro _)
    | split
    | extract_lets
    | dsimp +zetaDelta only

theorem State.toCharge_keeps (event : Bool) {m₀ : Nat} {u₀ s : State} (hk : Keeps m₀ u₀ s) (hm : Parts m₀ 2146829 := by first | decide | exact Parts.sub (by assumption) (by decide)) : Keeps m₀ u₀ (State.toCharge s event) := by
  unfold State.toCharge
  try extract_lets
  repeat' first
    | exact Parts.sub hm (by decide)
    | with_reducible exact hk
    | with_reducible exact Keeps.refl _ _
    | with_reducible apply State.ctlOff_keeps
    | with_reducible apply State.dropBf_keeps
    | with_reducible apply State.event_keeps
    | with_reducible apply State.gatesLow_keeps
    | with_reducible apply State.set_keeps
    | with_reducible apply State.setB_keeps
    | with_reducible apply State.updCtl_keeps
    | with_reducible apply Keeps.ite
    | with_reducible apply Keeps.iteSnd
    | with_reducible apply Keeps.iteFst
    | refine Keeps.sndOf (by assumption) ?_
    | refine Keeps.fstOf (by assumption) ?_
    | with_reducible assumption
    | with_reducible exact fun _ w => w
    | with_reducible (intro _)
    | split
    | extract_lets
    | dsimp +zetaDelta only

theorem State.htEnd_keeps  {m₀ : Nat} {u₀ s : State} (hk : Keeps m₀ u₀ s) (hm : Parts m₀ 2114061 := by first | decide | exact Parts.sub (by assumption) (by decide)) : Keeps m₀ u₀ (State.htEnd s) := by
  unfold State.htEnd
  try extract_lets
  repeat' first
    | exact Parts.sub hm (by decide)
    | with_reducible exact hk
    | with_reducible exact Keeps.refl _ _
    | with_reducible apply State.event_keeps
    | with_reducible apply State.set_keeps
    | with_reducible apply State.setB_keeps
    | with_reducible apply State.updCtl_keeps
    | with_reducible apply Keeps.ite
    | with_reducible apply Keeps.iteSnd
    | with_reducible apply Keeps.iteFst
    | refine Keeps.sndOf (by assumption) ?_
    | refine Keeps.fstOf (by assumption) ?_
    | with_reducible assumption
    | with_reducible exact fun _ w => w
    | with_reducible (intro _)
    | split
    | extract_lets
    | dsimp +zetaDelta only

theorem State.htAbandon_keeps  {m₀ : Nat} {u₀ s : State} (hk : Keeps m₀ u₀ s) (hm : Parts m₀ 2146829 := by first | decide | exact Parts.sub (by assumption) (by decide)) : Keeps m₀ u₀ (State.htAbandon s) := by
  unfold State.htAbandon
  try extract_lets
  repeat' first
    | exact Parts.sub hm (by decide)
    | with_reducible exact hk
    | with_reducible exact Keeps.refl _ _
    | with_reducible apply State.htEnd_keeps
    | with_reducible apply State.toCharge_keeps
    | with_reducible apply Keeps.ite
    | with_reducible apply Keeps.iteSnd
    | with_reducible apply Keeps.iteFst
    | refine Keeps.sndOf (by assumption) ?_
    | refine Keeps.fstOf (by assumption) ?_
    | with_reducible assumption
    | with_reducible exact fun _ w => w
    | with_reducible (intro _)
    | split
    | extract_lets
    | dsimp +zetaDelta only

theorem State.ctlTrip_keeps  {m₀ : Nat} {u₀ s : State} (hk : Keeps m₀ u₀ s) (hm : Parts m₀ 2146829 := by first | decide | exact Parts.sub (by assumption) (by decide)) : Keeps m₀ u₀ (State.ctlTrip s) := by
  unfold State.ctlTrip
  try extract_lets
  repeat' first
    | exact Parts.sub hm (by decide)
    | with_reducible exact hk
    | with_reducible exact Keeps.refl _ _
    | with_reducible apply State.dropBf_keeps
    | with_reducible apply State.eqRelease_keeps
    | with_reducible apply State.gatesLow_keeps
    | with_reducible apply State.htEnd_keeps
    | with_reducible apply State.updCtl_keeps
    | with_reducible apply Keeps.ite
    | with_reducible apply Keeps.iteSnd
    | with_reducible apply Keeps.iteFst
    | refine Keeps.sndOf (by assumption) ?_
    | refine Keeps.fstOf (by assumption) ?_
    | with_reducible assumption
    | with_reducible exact fun _ w => w
    | with_reducible (intro _)
    | split
    | extract_lets
    | dsimp +zetaDelta only

theorem State.bootCharge_keeps  {m₀ : Nat} {u₀ s : State} (hk : Keeps m₀ u₀ s) (hm : Parts m₀ 2146829 := by first | decide | exact Parts.sub (by assumption) (by decide)) : Keeps m₀ u₀ (State.bootCharge s) := by
  unfold State.bootCharge
  try extract_lets
  repeat' first
    | exact Parts.sub hm (by decide)
    | with_reducible exact hk
    | with_reducible exact Keeps.refl _ _
    | with_reducible apply State.toCharge_keeps
    | with_reducible apply Keeps.ite
    | with_reducible apply Keeps.iteSnd
    | with_reducible apply Keeps.iteFst
    | refine Keeps.sndOf (by assumption) ?_
    | refine Keeps.fstOf (by assumption) ?_
    | with_reducible assumption
    | with_reducible exact fun _ w => w
    | with_reducible (intro _)
    | split
    | extract_lets
    | dsimp +zetaDelta only

theorem State.countFault_keeps (m : Nat) {m₀ : Nat} {u₀ s : State} (hk : Keeps m₀ u₀ s) (hm : Parts m₀ 16384 := by first | decide | exact Parts.sub (by assumption) (by decide)) : Keeps m₀ u₀ (State.countFault s m) := by
  unfold State.countFault
  try extract_lets
  repeat' first
    | exact Parts.sub hm (by decide)
    | with_reducible exact hk
    | with_reducible exact Keeps.refl _ _
    | with_reducible apply State.updCtl_keeps
    | with_reducible apply Keeps.ite
    | with_reducible apply Keeps.iteSnd
    | with_reducible apply Keeps.iteFst
    | refine Keeps.sndOf (by assumption) ?_
    | refine Keeps.fstOf (by assumption) ?_
    | with_reducible assumption
    | with_reducible exact fun _ w => w
    | with_reducible (intro _)
    | split
    | extract_lets
    | dsimp +zetaDelta only

theorem State.judgeFault_keeps (m : Nat) {m₀ : Nat} {u₀ s : State} (hk : Keeps m₀ u₀ s) (hm : Parts m₀ 2146829 := by first | decide | exact Parts.sub (by assumption) (by decide)) : Keeps m₀ u₀ (State.judgeFault s m) := by
  unfold State.judgeFault
  try extract_lets
  repeat' first
    | exact Parts.sub hm (by decide)
    | with_reducible exact hk
    | with_reducible exact Keeps.refl _ _
    | with_reducible apply State.ctlOff_keeps
    | with_reducible apply State.event_keeps
    | with_reducible apply State.setB_keeps
    | with_reducible apply Keeps.ite
    | with_reducible apply Keeps.iteSnd
    | with_reducible apply Keeps.iteFst
    | refine Keeps.sndOf (by assumption) ?_
    | refine Keeps.fstOf (by assumption) ?_
    | with_reducible assumption
    | with_reducible exact fun _ w => w
    | with_reducible (intro _)
    | split
    | extract_lets
    | dsimp +zetaDelta only

theorem State.ctlFault_keeps (m cause phases : Nat) {m₀ : Nat} {u₀ s : State} (hk : Keeps m₀ u₀ s) (hm : Parts m₀ 2146829 := by first | decide | exact Parts.sub (by assumption) (by decide)) : Keeps m₀ u₀ (State.ctlFault s m cause phases) := by
  unfold State.ctlFault
  try extract_lets
  repeat' first
    | exact Parts.sub hm (by decide)
    | with_reducible exact hk
    | with_reducible exact Keeps.refl _ _
    | with_reducible apply State.countFault_keeps
    | with_reducible apply State.event_keeps
    | with_reducible apply State.gatesLow_keeps
    | with_reducible apply State.htEnd_keeps
    | with_reducible apply State.judgeFault_keeps
    | with_reducible apply State.raise_keeps
    | with_reducible apply State.set_keeps
    | with_reducible apply State.setB_keeps
    | with_reducible apply State.setMode_keeps
    | with_reducible apply State.updCtl_keeps
    | with_reducible apply Keeps.ite
    | with_reducible apply Keeps.iteSnd
    | with_reducible apply Keeps.iteFst
    | refine Keeps.sndOf (by assumption) ?_
    | refine Keeps.fstOf (by assumption) ?_
    | with_reducible assumption
    | with_reducible exact fun _ w => w
    | with_reducible (intro _)
    | split
    | extract_lets
    | dsimp +zetaDelta only

theorem State.protect_keeps (codes : BitVec 96) {m₀ : Nat} {u₀ s : State} (hk : Keeps m₀ u₀ s) (hm : Parts m₀ 2146829 := by first | decide | exact Parts.sub (by assumption) (by decide)) : Keeps m₀ u₀ (State.protect s codes) := by
  unfold State.protect
  extract_lets m edge s1 tripped met found
  have k_s1 : Keeps m₀ u₀ s1 := by
    unfold s1
    repeat' first
      | exact Parts.sub hm (by decide)
      | with_reducible exact hk
      | with_reducible exact Keeps.refl _ _
      | with_reducible apply State.updCtl_keeps
      | with_reducible apply Keeps.ite
      | with_reducible apply KeepsOut.ite
      | with_reducible apply Keeps.iteSnd
      | with_reducible apply Keeps.iteFst
      | refine Keeps.sndOf (by assumption) ?_
      | refine Keeps.fstOf (by assumption) ?_
      | with_reducible assumption
      | with_reducible exact fun _ w => w
      | with_reducible (intro _)
      | split
  clear_value m edge s1 tripped met found
  repeat' first
    | with_reducible exact k_s1
    | exact Parts.sub hm (by decide)
    | with_reducible exact hk
    | with_reducible exact Keeps.refl _ _
    | with_reducible apply State.ctlFault_keeps
    | with_reducible apply State.updCtl_keeps
    | with_reducible apply Keeps.foldl
    | with_reducible apply Keeps.foldlFst
    | with_reducible apply Keeps.foldlSnd
    | with_reducible apply Keeps.ite
    | with_reducible apply KeepsOut.ite
    | with_reducible apply Keeps.iteSnd
    | with_reducible apply Keeps.iteFst
    | refine Keeps.sndOf (by assumption) ?_
    | refine Keeps.fstOf (by assumption) ?_
    | with_reducible assumption
    | with_reducible exact fun _ w => w
    | with_reducible (intro _)
    | split

theorem State.bfOverflow_keeps  {m₀ : Nat} {u₀ s : State} (hk : Keeps m₀ u₀ s) (hm : Parts m₀ 2146829 := by first | decide | exact Parts.sub (by assumption) (by decide)) : Keeps m₀ u₀ (State.bfOverflow s) := by
  unfold State.bfOverflow
  try extract_lets
  repeat' first
    | exact Parts.sub hm (by decide)
    | with_reducible exact hk
    | with_reducible exact Keeps.refl _ _
    | with_reducible apply State.countFault_keeps
    | with_reducible apply State.event_keeps
    | with_reducible apply State.judgeFault_keeps
    | with_reducible apply State.setB_keeps
    | with_reducible apply Keeps.ite
    | with_reducible apply Keeps.iteSnd
    | with_reducible apply Keeps.iteFst
    | refine Keeps.sndOf (by assumption) ?_
    | refine Keeps.fstOf (by assumption) ?_
    | with_reducible assumption
    | with_reducible exact fun _ w => w
    | with_reducible (intro _)
    | split
    | extract_lets
    | dsimp +zetaDelta only

theorem State.keepDecision_keeps (d : Decision) {m₀ : Nat} {u₀ s : State} (hk : Keeps m₀ u₀ s) (hm : Parts m₀ 16385 := by first | decide | exact Parts.sub (by assumption) (by decide)) : Keeps m₀ u₀ (State.keepDecision s d) := by
  unfold State.keepDecision
  try extract_lets
  repeat' first
    | exact Parts.sub hm (by decide)
    | with_reducible exact hk
    | with_reducible exact Keeps.refl _ _
    | with_reducible apply State.set_keeps
    | with_reducible apply State.updCtl_keeps
    | with_reducible apply Keeps.ite
    | with_reducible apply Keeps.iteSnd
    | with_reducible apply Keeps.iteFst
    | refine Keeps.sndOf (by assumption) ?_
    | refine Keeps.fstOf (by assumption) ?_
    | with_reducible assumption
    | with_reducible exact fun _ w => w
    | with_reducible (intro _)
    | split
    | extract_lets
    | dsimp +zetaDelta only

theorem State.startDischarge_keeps (m : Sense) {m₀ : Nat} {u₀ s : State} (hk : Keeps m₀ u₀ s) (hm : Parts m₀ 2146829 := by first | decide | exact Parts.sub (by assumption) (by decide)) : Keeps m₀ u₀ (State.startDischarge s m) := by
  unfold State.startDischarge
  try extract_lets
  repeat' first
    | exact Parts.sub hm (by decide)
    | with_reducible exact hk
    | with_reducible exact Keeps.refl _ _
    | with_reducible apply State.bfOverflow_keeps
    | with_reducible apply State.keepDecision_keeps
    | with_reducible apply State.updCtl_keeps
    | with_reducible apply Keeps.ite
    | with_reducible apply Keeps.iteSnd
    | with_reducible apply Keeps.iteFst
    | refine Keeps.sndOf (by assumption) ?_
    | refine Keeps.fstOf (by assumption) ?_
    | with_reducible assumption
    | with_reducible exact fun _ w => w
    | with_reducible (intro _)
    | split
    | extract_lets
    | dsimp +zetaDelta only

theorem State.showCtl_keeps  {m₀ : Nat} {u₀ s : State} (hk : Keeps m₀ u₀ s) (hm : Parts m₀ 1 := by first | decide | exact Parts.sub (by assumption) (by decide)) : Keeps m₀ u₀ (State.showCtl s) := by
  unfold State.showCtl
  try extract_lets
  repeat' first
    | exact Parts.sub hm (by decide)
    | with_reducible exact hk
    | with_reducible exact Keeps.refl _ _
    | with_reducible apply State.set_keeps
    | with_reducible apply Keeps.ite
    | with_reducible apply Keeps.iteSnd
    | with_reducible apply Keeps.iteFst
    | refine Keeps.sndOf (by assumption) ?_
    | refine Keeps.fstOf (by assumption) ?_
    | with_reducible assumption
    | with_reducible exact fun _ w => w
    | with_reducible (intro _)
    | split
    | extract_lets
    | dsimp +zetaDelta only

theorem State.showMeas_keeps (codes : BitVec 96) {m₀ : Nat} {u₀ s : State} (hk : Keeps m₀ u₀ s) (hm : Parts m₀ 1 := by first | decide | exact Parts.sub (by assumption) (by decide)) : Keeps m₀ u₀ (State.showMeas s codes) := by
  unfold State.showMeas
  try extract_lets
  repeat' first
    | exact Parts.sub hm (by decide)
    | with_reducible exact hk
    | with_reducible exact Keeps.refl _ _
    | with_reducible apply State.set_keeps
    | with_reducible apply Keeps.foldl
    | with_reducible apply Keeps.foldlFst
    | with_reducible apply Keeps.foldlSnd
    | with_reducible apply Keeps.ite
    | with_reducible apply Keeps.iteSnd
    | with_reducible apply Keeps.iteFst
    | refine Keeps.sndOf (by assumption) ?_
    | refine Keeps.fstOf (by assumption) ?_
    | with_reducible assumption
    | with_reducible exact fun _ w => w
    | with_reducible (intro _)
    | split
    | extract_lets
    | dsimp +zetaDelta only

end Sys2Proof.Machine
end

