-- ==== Sys2Proof/Laws/Keeps/Control.lean ====
section
/-! SUPPORT. The operations of Control keep the queue and a sound state. -/

set_option Elab.async false

namespace Sys2Proof.Machine

set_option linter.unreachableTactic false
set_option linter.unusedTactic false
set_option linter.unusedVariables false

theorem State.applyDecision_keeps  {m₀ : Nat} {u₀ s : State} (hk : Keeps m₀ u₀ s) (hm : Parts m₀ 16385 := by first | decide | exact Parts.sub (by assumption) (by decide)) : Keeps m₀ u₀ (State.applyDecision s) := by
  unfold State.applyDecision
  try extract_lets
  repeat' first
    | exact Parts.sub hm (by decide)
    | with_reducible exact hk
    | with_reducible exact Keeps.refl _ _
    | with_reducible apply State.setB_keeps
    | with_reducible apply State.updCtl_keeps
    | with_reducible apply Keeps.ite
    | with_reducible apply Keeps.iteSnd
    | with_reducible apply Keeps.iteFst
    | refine Keeps.sndOf (by assumption) ?_
    | refine Keeps.fstOf (by assumption) ?_
    | with_reducible assumption
    | with_reducible exact fun _ w => w
    | with_reducible (intro _)
    | split
    | extract_lets
    | dsimp +zetaDelta only

theorem State.restSample_keeps  {m₀ : Nat} {u₀ s : State} (hk : Keeps m₀ u₀ s) (hm : Parts m₀ 16384 := by first | decide | exact Parts.sub (by assumption) (by decide)) : Keeps m₀ u₀ (State.restSample s) := by
  unfold State.restSample
  try extract_lets
  repeat' first
    | exact Parts.sub hm (by decide)
    | with_reducible exact hk
    | with_reducible exact Keeps.refl _ _
    | with_reducible apply State.updCtl_keeps
    | with_reducible apply Keeps.ite
    | with_reducible apply Keeps.iteSnd
    | with_reducible apply Keeps.iteFst
    | refine Keeps.sndOf (by assumption) ?_
    | refine Keeps.fstOf (by assumption) ?_
    | with_reducible assumption
    | with_reducible exact fun _ w => w
    | with_reducible (intro _)
    | split
    | extract_lets
    | dsimp +zetaDelta only

theorem State.deadSample_keeps (codes : BitVec 96) (fresh : Bool) {m₀ : Nat} {u₀ s : State} (hk : Keeps m₀ u₀ s) (hm : Parts m₀ 2146829 := by first | decide | exact Parts.sub (by assumption) (by decide)) : Keeps m₀ u₀ (State.deadSample s codes fresh) := by
  unfold State.deadSample
  try extract_lets
  repeat' first
    | exact Parts.sub hm (by decide)
    | with_reducible exact hk
    | with_reducible exact Keeps.refl _ _
    | with_reducible apply State.event_keeps
    | with_reducible apply State.gatesLow_keeps
    | with_reducible apply State.protect_keeps
    | with_reducible apply State.restSample_keeps
    | with_reducible apply State.setB_keeps
    | with_reducible apply State.setMode_keeps
    | with_reducible apply State.startDischarge_keeps
    | with_reducible apply State.updCtl_keeps
    | with_reducible apply Keeps.ite
    | with_reducible apply Keeps.iteSnd
    | with_reducible apply Keeps.iteFst
    | refine Keeps.sndOf (by assumption) ?_
    | refine Keeps.fstOf (by assumption) ?_
    | with_reducible assumption
    | with_reducible exact fun _ w => w
    | with_reducible (intro _)
    | split
    | extract_lets
    | dsimp +zetaDelta only

theorem State.bfSample_keeps (m : Sense) (fx : Decision) {m₀ : Nat} {u₀ s : State} (hk : Keeps m₀ u₀ s) (hm : Parts m₀ 2146829 := by first | decide | exact Parts.sub (by assumption) (by decide)) : Keeps m₀ u₀ (State.bfSample s m fx) := by
  unfold State.bfSample
  try extract_lets
  repeat' first
    | exact Parts.sub hm (by decide)
    | with_reducible exact hk
    | with_reducible exact Keeps.refl _ _
    | with_reducible apply State.countFault_keeps
    | with_reducible apply State.judgeFault_keeps
    | with_reducible apply State.setB_keeps
    | with_reducible apply State.updCtl_keeps
    | with_reducible apply Keeps.ite
    | with_reducible apply Keeps.iteSnd
    | with_reducible apply Keeps.iteFst
    | refine Keeps.sndOf (by assumption) ?_
    | refine Keeps.fstOf (by assumption) ?_
    | with_reducible assumption
    | with_reducible exact fun _ w => w
    | with_reducible (intro _)
    | split
    | extract_lets
    | dsimp +zetaDelta only

theorem State.lawSample_keeps (m : Sense) {m₀ : Nat} {u₀ s : State} (hk : Keeps m₀ u₀ s) (hm : Parts m₀ 2146829 := by first | decide | exact Parts.sub (by assumption) (by decide)) : Keeps m₀ u₀ (State.lawSample s m) := by
  unfold State.lawSample
  try extract_lets
  repeat' first
    | exact Parts.sub hm (by decide)
    | with_reducible exact hk
    | with_reducible exact Keeps.refl _ _
    | with_reducible apply State.bfOverflow_keeps
    | with_reducible apply State.bfSample_keeps
    | with_reducible apply State.keepDecision_keeps
    | with_reducible apply State.restSample_keeps
    | with_reducible apply State.setB_keeps
    | with_reducible apply State.updCtl_keeps
    | with_reducible apply Keeps.ite
    | with_reducible apply Keeps.iteSnd
    | with_reducible apply Keeps.iteFst
    | refine Keeps.sndOf (by assumption) ?_
    | refine Keeps.fstOf (by assumption) ?_
    | with_reducible assumption
    | with_reducible exact fun _ w => w
    | with_reducible (intro _)
    | split
    | extract_lets
    | dsimp +zetaDelta only

theorem State.sampleNow_keeps (codes : BitVec 96) (fresh : Bool) {m₀ : Nat} {u₀ s : State} (hk : Keeps m₀ u₀ s) (hm : Parts m₀ 2146829 := by first | decide | exact Parts.sub (by assumption) (by decide)) : Keeps m₀ u₀ (State.sampleNow s codes fresh) := by
  unfold State.sampleNow
  try extract_lets
  repeat' first
    | exact Parts.sub hm (by decide)
    | with_reducible exact hk
    | with_reducible exact Keeps.refl _ _
    | with_reducible apply State.applyDecision_keeps
    | with_reducible apply State.deadSample_keeps
    | with_reducible apply State.lawSample_keeps
    | with_reducible apply State.protect_keeps
    | with_reducible apply State.restSample_keeps
    | with_reducible apply State.showCtl_keeps
    | with_reducible apply State.showMeas_keeps
    | with_reducible apply State.updCtl_keeps
    | with_reducible apply Keeps.ite
    | with_reducible apply Keeps.iteSnd
    | with_reducible apply Keeps.iteFst
    | refine Keeps.sndOf (by assumption) ?_
    | refine Keeps.fstOf (by assumption) ?_
    | with_reducible assumption
    | with_reducible exact fun _ w => w
    | with_reducible (intro _)
    | split
    | extract_lets
    | dsimp +zetaDelta only

theorem execControlSample_keeps (codes : BitVec 96) {m₀ : Nat} {u s : State} (h : Keeps m₀ u s) (hm : Parts m₀ 6341135 := by first | decide | exact Parts.sub (by assumption) (by decide)) :
    KeepsOut m₀ u (execControlSample codes s) := by
  unfold execControlSample
  extract_lets k t
  refine KeepsOut.ite (fun _ => KeepsOut.next h) fun hk => ?_
  have c : k * s.sampleCycles ≤ 399 := by
    have h1 : k < 400 / s.sampleCycles := Nat.lt_of_not_le hk
    have h2 : 400 / s.sampleCycles * s.sampleCycles ≤ 400 := Nat.div_mul_le_self 400 s.sampleCycles
    have h3 := Nat.mul_le_mul_right s.sampleCycles (Nat.succ_le_of_lt h1)
    rw [Nat.succ_mul] at h3
    by_cases z : s.sampleCycles = 0
    · rw [z]; omega
    · omega
  have k_t : Keeps m₀ u t := by
    unfold t
    refine State.updCtl_keeps (State.updGlb_keeps h _ ?_ ?_ ?_) _
    · exact fun _ _ => c
    · exact fun e => (Parts.holds (n := 22) (Parts.sub hm (by decide)) e).elim
    · exact fun _ _ => rfl
  clear_value t
  exact KeepsOut.ite (fun _ => KeepsOut.next (State.sampleNow_keeps _ _ k_t)) fun _ => KeepsOut.next (State.sampleNow_keeps _ _ k_t)

theorem execProtectiveTrip_keeps (codes : BitVec 96) (shoot : Bool) {m₀ : Nat} {u₀ s : State} (hk : Keeps m₀ u₀ s) (hm : Parts m₀ 2146829 := by first | decide | exact Parts.sub (by assumption) (by decide)) : KeepsOut m₀ u₀ (execProtectiveTrip codes shoot s) := by
  unfold execProtectiveTrip
  try extract_lets
  repeat' first
    | exact Parts.sub hm (by decide)
    | with_reducible exact hk
    | with_reducible exact Keeps.refl _ _
    | with_reducible apply State.ctlFault_keeps
    | with_reducible apply State.protect_keeps
    | with_reducible apply ok_keeps
    | with_reducible apply KeepsOut.next
    | with_reducible apply Keeps.ite
    | with_reducible apply KeepsOut.ite
    | with_reducible apply Keeps.iteSnd
    | with_reducible apply Keeps.iteFst
    | refine Keeps.sndOf (by assumption) ?_
    | refine Keeps.fstOf (by assumption) ?_
    | with_reducible assumption
    | with_reducible exact fun _ w => w
    | with_reducible (intro _)
    | split
    | extract_lets
    | dsimp +zetaDelta only

theorem execFaultRestart_keeps  {m₀ : Nat} {u₀ s : State} (hk : Keeps m₀ u₀ s) (hm : Parts m₀ 2146829 := by first | decide | exact Parts.sub (by assumption) (by decide)) : KeepsOut m₀ u₀ (execFaultRestart s) := by
  unfold execFaultRestart
  try extract_lets
  repeat' first
    | exact Parts.sub hm (by decide)
    | with_reducible exact hk
    | with_reducible exact Keeps.refl _ _
    | with_reducible apply State.eqRelease_keeps
    | with_reducible apply State.setB_keeps
    | with_reducible apply State.startDischarge_keeps
    | with_reducible apply State.toCharge_keeps
    | with_reducible apply State.updCtl_keeps
    | with_reducible apply ok_keeps
    | with_reducible apply KeepsOut.next
    | with_reducible apply Keeps.ite
    | with_reducible apply KeepsOut.ite
    | with_reducible apply Keeps.iteSnd
    | with_reducible apply Keeps.iteFst
    | refine Keeps.sndOf (by assumption) ?_
    | refine Keeps.fstOf (by assumption) ?_
    | with_reducible assumption
    | with_reducible exact fun _ w => w
    | with_reducible (intro _)
    | split
    | extract_lets
    | dsimp +zetaDelta only

theorem execBfRunStart_keeps  {m₀ : Nat} {u₀ s : State} (hk : Keeps m₀ u₀ s) (hm : Parts m₀ 16385 := by first | decide | exact Parts.sub (by assumption) (by decide)) : KeepsOut m₀ u₀ (execBfRunStart s) := by
  unfold execBfRunStart
  try extract_lets
  repeat' first
    | exact Parts.sub hm (by decide)
    | with_reducible exact hk
    | with_reducible exact Keeps.refl _ _
    | with_reducible apply State.setB_keeps
    | with_reducible apply State.updCtl_keeps
    | with_reducible apply ok_keeps
    | with_reducible apply KeepsOut.next
    | with_reducible apply Keeps.ite
    | with_reducible apply KeepsOut.ite
    | with_reducible apply Keeps.iteSnd
    | with_reducible apply Keeps.iteFst
    | refine Keeps.sndOf (by assumption) ?_
    | refine Keeps.fstOf (by assumption) ?_
    | with_reducible assumption
    | with_reducible exact fun _ w => w
    | with_reducible (intro _)
    | split
    | extract_lets
    | dsimp +zetaDelta only

theorem execBfRunEnd_keeps  {m₀ : Nat} {u₀ s : State} (hk : Keeps m₀ u₀ s) (hm : Parts m₀ 2114061 := by first | decide | exact Parts.sub (by assumption) (by decide)) : KeepsOut m₀ u₀ (execBfRunEnd s) := by
  unfold execBfRunEnd
  try extract_lets
  repeat' first
    | exact Parts.sub hm (by decide)
    | with_reducible exact hk
    | with_reducible exact Keeps.refl _ _
    | with_reducible apply State.dropBf_keeps
    | with_reducible apply State.event_keeps
    | with_reducible apply State.set_keeps
    | with_reducible apply State.setB_keeps
    | with_reducible apply State.updCtl_keeps
    | with_reducible apply ok_keeps
    | with_reducible apply KeepsOut.next
    | with_reducible apply Keeps.ite
    | with_reducible apply KeepsOut.ite
    | with_reducible apply Keeps.iteSnd
    | with_reducible apply Keeps.iteFst
    | refine Keeps.sndOf (by assumption) ?_
    | refine Keeps.fstOf (by assumption) ?_
    | with_reducible assumption
    | with_reducible exact fun _ w => w
    | with_reducible (intro _)
    | split
    | extract_lets
    | dsimp +zetaDelta only

theorem execBfRetry_keeps  {m₀ : Nat} {u₀ s : State} (hk : Keeps m₀ u₀ s) (hm : Parts m₀ 1 := by first | decide | exact Parts.sub (by assumption) (by decide)) : KeepsOut m₀ u₀ (execBfRetry s) := by
  unfold execBfRetry
  try extract_lets
  repeat' first
    | exact Parts.sub hm (by decide)
    | with_reducible exact hk
    | with_reducible exact Keeps.refl _ _
    | with_reducible apply State.set_keeps
    | with_reducible apply ok_keeps
    | with_reducible apply KeepsOut.next
    | with_reducible apply Keeps.ite
    | with_reducible apply KeepsOut.ite
    | with_reducible apply Keeps.iteSnd
    | with_reducible apply Keeps.iteFst
    | refine Keeps.sndOf (by assumption) ?_
    | refine Keeps.fstOf (by assumption) ?_
    | with_reducible assumption
    | with_reducible exact fun _ w => w
    | with_reducible (intro _)
    | split
    | extract_lets
    | dsimp +zetaDelta only

theorem State.setpoint_keeps (f : Fld) (v : Nat) {m₀ : Nat} {u₀ s : State} (hk : Keeps m₀ u₀ s) (hm : Parts m₀ 1 := by first | decide | exact Parts.sub (by assumption) (by decide)) : Keeps m₀ u₀ (State.setpoint s f v) := by
  unfold State.setpoint
  try extract_lets
  repeat' first
    | exact Parts.sub hm (by decide)
    | with_reducible exact hk
    | with_reducible exact Keeps.refl _ _
    | with_reducible apply State.set_keeps
    | with_reducible apply Keeps.ite
    | with_reducible apply Keeps.iteSnd
    | with_reducible apply Keeps.iteFst
    | refine Keeps.sndOf (by assumption) ?_
    | refine Keeps.fstOf (by assumption) ?_
    | with_reducible assumption
    | with_reducible exact fun _ w => w
    | with_reducible (intro _)
    | split
    | extract_lets
    | dsimp +zetaDelta only

theorem execSetpointWrite_keeps (reg : BitVec 2) (w : Word) {m₀ : Nat} {u₀ s : State} (hk : Keeps m₀ u₀ s) (hm : Parts m₀ 1 := by first | decide | exact Parts.sub (by assumption) (by decide)) : KeepsOut m₀ u₀ (execSetpointWrite reg w s) := by
  unfold execSetpointWrite
  try extract_lets
  repeat' first
    | exact Parts.sub hm (by decide)
    | with_reducible exact hk
    | with_reducible exact Keeps.refl _ _
    | with_reducible apply State.setpoint_keeps
    | with_reducible apply ok_keeps
    | with_reducible apply KeepsOut.next
    | with_reducible apply Keeps.ite
    | with_reducible apply KeepsOut.ite
    | with_reducible apply Keeps.iteSnd
    | with_reducible apply Keeps.iteFst
    | refine Keeps.sndOf (by assumption) ?_
    | refine Keeps.fstOf (by assumption) ?_
    | with_reducible assumption
    | with_reducible exact fun _ w => w
    | with_reducible (intro _)
    | split
    | extract_lets
    | dsimp +zetaDelta only

theorem State.htTry_keeps  {m₀ : Nat} {u₀ s : State} (hk : Keeps m₀ u₀ s) (hm : Parts m₀ 2114061 := by first | decide | exact Parts.sub (by assumption) (by decide)) : Keeps m₀ u₀ (State.htTry s) := by
  unfold State.htTry
  try extract_lets
  repeat' first
    | exact Parts.sub hm (by decide)
    | with_reducible exact hk
    | with_reducible exact Keeps.refl _ _
    | with_reducible apply State.dropBf_keeps
    | with_reducible apply State.event_keeps
    | with_reducible apply State.gatesLow_keeps
    | with_reducible apply State.set_keeps
    | with_reducible apply State.setB_keeps
    | with_reducible apply State.updCtl_keeps
    | with_reducible apply Keeps.ite
    | with_reducible apply Keeps.iteSnd
    | with_reducible apply Keeps.iteFst
    | refine Keeps.sndOf (by assumption) ?_
    | refine Keeps.fstOf (by assumption) ?_
    | with_reducible assumption
    | with_reducible exact fun _ w => w
    | with_reducible (intro _)
    | split
    | extract_lets
    | dsimp +zetaDelta only

theorem execHealthTestGo_keeps  {m₀ : Nat} {u₀ s : State} (hk : Keeps m₀ u₀ s) (hm : Parts m₀ 2114061 := by first | decide | exact Parts.sub (by assumption) (by decide)) : KeepsOut m₀ u₀ (execHealthTestGo s) := by
  unfold execHealthTestGo
  try extract_lets
  repeat' first
    | exact Parts.sub hm (by decide)
    | with_reducible exact hk
    | with_reducible exact Keeps.refl _ _
    | with_reducible apply State.htTry_keeps
    | with_reducible apply ok_keeps
    | with_reducible apply KeepsOut.next
    | with_reducible apply Keeps.ite
    | with_reducible apply KeepsOut.ite
    | with_reducible apply Keeps.iteSnd
    | with_reducible apply Keeps.iteFst
    | refine Keeps.sndOf (by assumption) ?_
    | refine Keeps.fstOf (by assumption) ?_
    | with_reducible assumption
    | with_reducible exact fun _ w => w
    | with_reducible (intro _)
    | split
    | extract_lets
    | dsimp +zetaDelta only

theorem execHealthTestScheduled_keeps  {m₀ : Nat} {u₀ s : State} (hk : Keeps m₀ u₀ s) (hm : Parts m₀ 2114061 := by first | decide | exact Parts.sub (by assumption) (by decide)) : KeepsOut m₀ u₀ (execHealthTestScheduled s) := by
  unfold execHealthTestScheduled
  try extract_lets
  repeat' first
    | exact Parts.sub hm (by decide)
    | with_reducible exact hk
    | with_reducible exact Keeps.refl _ _
    | with_reducible apply State.htTry_keeps
    | with_reducible apply ok_keeps
    | with_reducible apply KeepsOut.next
    | with_reducible apply Keeps.ite
    | with_reducible apply KeepsOut.ite
    | with_reducible apply Keeps.iteSnd
    | with_reducible apply Keeps.iteFst
    | refine Keeps.sndOf (by assumption) ?_
    | refine Keeps.fstOf (by assumption) ?_
    | with_reducible assumption
    | with_reducible exact fun _ w => w
    | with_reducible (intro _)
    | split
    | extract_lets
    | dsimp +zetaDelta only

theorem execHealthTestRetry_keeps  {m₀ : Nat} {u₀ s : State} (hk : Keeps m₀ u₀ s) (hm : Parts m₀ 2114061 := by first | decide | exact Parts.sub (by assumption) (by decide)) : KeepsOut m₀ u₀ (execHealthTestRetry s) := by
  unfold execHealthTestRetry
  try extract_lets
  repeat' first
    | exact Parts.sub hm (by decide)
    | with_reducible exact hk
    | with_reducible exact Keeps.refl _ _
    | with_reducible apply State.htTry_keeps
    | with_reducible apply ok_keeps
    | with_reducible apply KeepsOut.next
    | with_reducible apply Keeps.ite
    | with_reducible apply KeepsOut.ite
    | with_reducible apply Keeps.iteSnd
    | with_reducible apply Keeps.iteFst
    | refine Keeps.sndOf (by assumption) ?_
    | refine Keeps.fstOf (by assumption) ?_
    | with_reducible assumption
    | with_reducible exact fun _ w => w
    | with_reducible (intro _)
    | split
    | extract_lets
    | dsimp +zetaDelta only

theorem State.htPublish_keeps (h : HtRun) {m₀ : Nat} {u₀ s : State} (hk : Keeps m₀ u₀ s) (hm : Parts m₀ 2105869 := by first | decide | exact Parts.sub (by assumption) (by decide)) : Keeps m₀ u₀ (State.htPublish s h) := by
  unfold State.htPublish
  try extract_lets
  repeat' first
    | exact Parts.sub hm (by decide)
    | with_reducible exact hk
    | with_reducible exact Keeps.refl _ _
    | with_reducible apply State.event_keeps
    | with_reducible apply State.raise_keeps
    | with_reducible apply State.set_keeps
    | with_reducible apply State.setB_keeps
    | with_reducible apply State.updLdg_keeps
    | with_reducible apply Keeps.ite
    | with_reducible apply Keeps.iteSnd
    | with_reducible apply Keeps.iteFst
    | refine Keeps.sndOf (by assumption) ?_
    | refine Keeps.fstOf (by assumption) ?_
    | with_reducible assumption
    | with_reducible exact fun _ w => w
    | with_reducible (intro _)
    | split
    | extract_lets
    | dsimp +zetaDelta only

theorem execHealthTestStepEnd_keeps  {m₀ : Nat} {u₀ s : State} (hk : Keeps m₀ u₀ s) (hm : Parts m₀ 2155021 := by first | decide | exact Parts.sub (by assumption) (by decide)) : KeepsOut m₀ u₀ (execHealthTestStepEnd s) := by
  unfold execHealthTestStepEnd
  try extract_lets
  repeat' first
    | exact Parts.sub hm (by decide)
    | with_reducible exact hk
    | with_reducible exact Keeps.refl _ _
    | with_reducible apply State.gatesLow_keeps
    | with_reducible apply State.htPublish_keeps
    | with_reducible apply State.set_keeps
    | with_reducible apply State.toCharge_keeps
    | with_reducible apply State.updCtl_keeps
    | with_reducible apply ok_keeps
    | with_reducible apply KeepsOut.next
    | with_reducible apply Keeps.ite
    | with_reducible apply KeepsOut.ite
    | with_reducible apply Keeps.iteSnd
    | with_reducible apply Keeps.iteFst
    | refine Keeps.sndOf (by assumption) ?_
    | refine Keeps.fstOf (by assumption) ?_
    | with_reducible assumption
    | with_reducible exact fun _ w => w
    | with_reducible (intro _)
    | split
    | extract_lets
    | dsimp +zetaDelta only

theorem execHealthTestRecharged_keeps  {m₀ : Nat} {u₀ s : State} (hk : Keeps m₀ u₀ s) (hm : Parts m₀ 2114061 := by first | decide | exact Parts.sub (by assumption) (by decide)) : KeepsOut m₀ u₀ (execHealthTestRecharged s) := by
  unfold execHealthTestRecharged
  try extract_lets
  repeat' first
    | exact Parts.sub hm (by decide)
    | with_reducible exact hk
    | with_reducible exact Keeps.refl _ _
    | with_reducible apply State.htEnd_keeps
    | with_reducible apply ok_keeps
    | with_reducible apply KeepsOut.next
    | with_reducible apply Keeps.ite
    | with_reducible apply KeepsOut.ite
    | with_reducible apply Keeps.iteSnd
    | with_reducible apply Keeps.iteFst
    | refine Keeps.sndOf (by assumption) ?_
    | refine Keeps.fstOf (by assumption) ?_
    | with_reducible assumption
    | with_reducible exact fun _ w => w
    | with_reducible (intro _)
    | split
    | extract_lets
    | dsimp +zetaDelta only

theorem execHealthTestAbort_keeps  {m₀ : Nat} {u₀ s : State} (hk : Keeps m₀ u₀ s) (hm : Parts m₀ 2146829 := by first | decide | exact Parts.sub (by assumption) (by decide)) : KeepsOut m₀ u₀ (execHealthTestAbort s) := by
  unfold execHealthTestAbort
  try extract_lets
  repeat' first
    | exact Parts.sub hm (by decide)
    | with_reducible exact hk
    | with_reducible exact Keeps.refl _ _
    | with_reducible apply State.htAbandon_keeps
    | with_reducible apply ok_keeps
    | with_reducible apply KeepsOut.next
    | with_reducible apply Keeps.ite
    | with_reducible apply KeepsOut.ite
    | with_reducible apply Keeps.iteSnd
    | with_reducible apply Keeps.iteFst
    | refine Keeps.sndOf (by assumption) ?_
    | refine Keeps.fstOf (by assumption) ?_
    | with_reducible assumption
    | with_reducible exact fun _ w => w
    | with_reducible (intro _)
    | split
    | extract_lets
    | dsimp +zetaDelta only

theorem State.eqStart_keeps  {m₀ : Nat} {u₀ s : State} (hk : Keeps m₀ u₀ s) (hm : Parts m₀ 2146829 := by first | decide | exact Parts.sub (by assumption) (by decide)) : Keeps m₀ u₀ (State.eqStart s) := by
  unfold State.eqStart
  try extract_lets
  repeat' first
    | exact Parts.sub hm (by decide)
    | with_reducible exact hk
    | with_reducible exact Keeps.refl _ _
    | with_reducible apply State.dropBf_keeps
    | with_reducible apply State.gatesLow_keeps
    | with_reducible apply State.htEnd_keeps
    | with_reducible apply State.set_keeps
    | with_reducible apply State.setB_keeps
    | with_reducible apply State.setMode_keeps
    | with_reducible apply State.setSwitch_keeps
    | with_reducible apply State.updCtl_keeps
    | with_reducible apply Keeps.ite
    | with_reducible apply Keeps.iteSnd
    | with_reducible apply Keeps.iteFst
    | refine Keeps.sndOf (by assumption) ?_
    | refine Keeps.fstOf (by assumption) ?_
    | with_reducible assumption
    | with_reducible exact fun _ w => w
    | with_reducible (intro _)
    | split
    | extract_lets
    | dsimp +zetaDelta only

theorem execEqualiseGo_keeps (mod : BitVec 2) {m₀ : Nat} {u₀ s : State} (hk : Keeps m₀ u₀ s) (hm : Parts m₀ 2146829 := by first | decide | exact Parts.sub (by assumption) (by decide)) : KeepsOut m₀ u₀ (execEqualiseGo mod s) := by
  unfold execEqualiseGo
  try extract_lets
  repeat' first
    | exact Parts.sub hm (by decide)
    | with_reducible exact hk
    | with_reducible exact Keeps.refl _ _
    | with_reducible apply State.eqStart_keeps
    | with_reducible apply State.set_keeps
    | with_reducible apply State.setB_keeps
    | with_reducible apply State.updCtl_keeps
    | with_reducible apply ok_keeps
    | with_reducible apply KeepsOut.next
    | with_reducible apply Keeps.ite
    | with_reducible apply KeepsOut.ite
    | with_reducible apply Keeps.iteSnd
    | with_reducible apply Keeps.iteFst
    | refine Keeps.sndOf (by assumption) ?_
    | refine Keeps.fstOf (by assumption) ?_
    | with_reducible assumption
    | with_reducible exact fun _ w => w
    | with_reducible (intro _)
    | split
    | extract_lets
    | dsimp +zetaDelta only

theorem execEqualiseDone_keeps  {m₀ : Nat} {u₀ s : State} (hk : Keeps m₀ u₀ s) (hm : Parts m₀ 2146829 := by first | decide | exact Parts.sub (by assumption) (by decide)) : KeepsOut m₀ u₀ (execEqualiseDone s) := by
  unfold execEqualiseDone
  try extract_lets
  repeat' first
    | exact Parts.sub hm (by decide)
    | with_reducible exact hk
    | with_reducible exact Keeps.refl _ _
    | with_reducible apply State.eqRelease_keeps
    | with_reducible apply State.event_keeps
    | with_reducible apply State.htTry_keeps
    | with_reducible apply State.set_keeps
    | with_reducible apply State.setB_keeps
    | with_reducible apply State.setSwitch_keeps
    | with_reducible apply State.toCharge_keeps
    | with_reducible apply ok_keeps
    | with_reducible apply Keeps.foldl
    | with_reducible apply Keeps.foldlFst
    | with_reducible apply Keeps.foldlSnd
    | with_reducible apply KeepsOut.next
    | with_reducible apply Keeps.ite
    | with_reducible apply KeepsOut.ite
    | with_reducible apply Keeps.iteSnd
    | with_reducible apply Keeps.iteFst
    | refine Keeps.sndOf (by assumption) ?_
    | refine Keeps.fstOf (by assumption) ?_
    | with_reducible assumption
    | with_reducible exact fun _ w => w
    | with_reducible (intro _)
    | split
    | extract_lets
    | dsimp +zetaDelta only

theorem execEqualiseTimeout_keeps  {m₀ : Nat} {u₀ s : State} (hk : Keeps m₀ u₀ s) (hm : Parts m₀ 2146829 := by first | decide | exact Parts.sub (by assumption) (by decide)) : KeepsOut m₀ u₀ (execEqualiseTimeout s) := by
  unfold execEqualiseTimeout
  try extract_lets
  repeat' first
    | exact Parts.sub hm (by decide)
    | with_reducible exact hk
    | with_reducible exact Keeps.refl _ _
    | with_reducible apply State.eqRelease_keeps
    | with_reducible apply State.event_keeps
    | with_reducible apply State.setB_keeps
    | with_reducible apply State.toCharge_keeps
    | with_reducible apply ok_keeps
    | with_reducible apply KeepsOut.next
    | with_reducible apply Keeps.ite
    | with_reducible apply KeepsOut.ite
    | with_reducible apply Keeps.iteSnd
    | with_reducible apply Keeps.iteFst
    | refine Keeps.sndOf (by assumption) ?_
    | refine Keeps.fstOf (by assumption) ?_
    | with_reducible assumption
    | with_reducible exact fun _ w => w
    | with_reducible (intro _)
    | split
    | extract_lets
    | dsimp +zetaDelta only

theorem execBootEqualise_keeps  {m₀ : Nat} {u₀ s : State} (hk : Keeps m₀ u₀ s) (hm : Parts m₀ 2146829 := by first | decide | exact Parts.sub (by assumption) (by decide)) : KeepsOut m₀ u₀ (execBootEqualise s) := by
  unfold execBootEqualise
  try extract_lets
  repeat' first
    | exact Parts.sub hm (by decide)
    | with_reducible exact hk
    | with_reducible exact Keeps.refl _ _
    | with_reducible apply State.bootCharge_keeps
    | with_reducible apply State.setMode_keeps
    | with_reducible apply State.setSwitch_keeps
    | with_reducible apply State.updCtl_keeps
    | with_reducible apply ok_keeps
    | with_reducible apply Keeps.foldl
    | with_reducible apply Keeps.foldlFst
    | with_reducible apply Keeps.foldlSnd
    | with_reducible apply KeepsOut.next
    | with_reducible apply Keeps.ite
    | with_reducible apply KeepsOut.ite
    | with_reducible apply Keeps.iteSnd
    | with_reducible apply Keeps.iteFst
    | refine Keeps.sndOf (by assumption) ?_
    | refine Keeps.fstOf (by assumption) ?_
    | with_reducible assumption
    | with_reducible exact fun _ w => w
    | with_reducible (intro _)
    | split
    | extract_lets
    | dsimp +zetaDelta only

theorem execBootEqualiseEnd_keeps  {m₀ : Nat} {u₀ s : State} (hk : Keeps m₀ u₀ s) (hm : Parts m₀ 2146829 := by first | decide | exact Parts.sub (by assumption) (by decide)) : KeepsOut m₀ u₀ (execBootEqualiseEnd s) := by
  unfold execBootEqualiseEnd
  try extract_lets
  repeat' first
    | exact Parts.sub hm (by decide)
    | with_reducible exact hk
    | with_reducible exact Keeps.refl _ _
    | with_reducible apply State.bootCharge_keeps
    | with_reducible apply State.eqRelease_keeps
    | with_reducible apply State.event_keeps
    | with_reducible apply State.set_keeps
    | with_reducible apply State.setMode_keeps
    | with_reducible apply State.setSwitch_keeps
    | with_reducible apply ok_keeps
    | with_reducible apply Keeps.foldl
    | with_reducible apply Keeps.foldlFst
    | with_reducible apply Keeps.foldlSnd
    | with_reducible apply KeepsOut.next
    | with_reducible apply Keeps.ite
    | with_reducible apply KeepsOut.ite
    | with_reducible apply Keeps.iteSnd
    | with_reducible apply Keeps.iteFst
    | refine Keeps.sndOf (by assumption) ?_
    | refine Keeps.fstOf (by assumption) ?_
    | with_reducible assumption
    | with_reducible exact fun _ w => w
    | with_reducible (intro _)
    | split
    | extract_lets
    | dsimp +zetaDelta only

theorem State.eqScan_keeps  {m₀ : Nat} {u₀ s : State} (hk : Keeps m₀ u₀ s) (hm : Parts m₀ 16384 := by first | decide | exact Parts.sub (by assumption) (by decide)) : Keeps m₀ u₀ (State.eqScan s) := by
  unfold State.eqScan
  try extract_lets
  repeat' first
    | exact Parts.sub hm (by decide)
    | with_reducible exact hk
    | with_reducible exact Keeps.refl _ _
    | with_reducible apply State.updCtl_keeps
    | with_reducible apply Keeps.foldl
    | with_reducible apply Keeps.foldlFst
    | with_reducible apply Keeps.foldlSnd
    | with_reducible apply Keeps.ite
    | with_reducible apply Keeps.iteSnd
    | with_reducible apply Keeps.iteFst
    | refine Keeps.sndOf (by assumption) ?_
    | refine Keeps.fstOf (by assumption) ?_
    | with_reducible assumption
    | with_reducible exact fun _ w => w
    | with_reducible (intro _)
    | split
    | extract_lets
    | dsimp +zetaDelta only

theorem State.ctlBoundary_keeps  {m₀ : Nat} {u₀ s : State} (hk : Keeps m₀ u₀ s) (hm : Parts m₀ 2146829 := by first | decide | exact Parts.sub (by assumption) (by decide)) : Keeps m₀ u₀ (State.ctlBoundary s) := by
  unfold State.ctlBoundary
  try extract_lets
  repeat' first
    | exact Parts.sub hm (by decide)
    | with_reducible exact hk
    | with_reducible exact Keeps.refl _ _
    | with_reducible apply State.eqStart_keeps
    | with_reducible apply State.updCtl_keeps
    | with_reducible apply Keeps.foldl
    | with_reducible apply Keeps.foldlFst
    | with_reducible apply Keeps.foldlSnd
    | with_reducible apply Keeps.ite
    | with_reducible apply Keeps.iteSnd
    | with_reducible apply Keeps.iteFst
    | refine Keeps.sndOf (by assumption) ?_
    | refine Keeps.fstOf (by assumption) ?_
    | with_reducible assumption
    | with_reducible exact fun _ w => w
    | with_reducible (intro _)
    | split
    | extract_lets
    | dsimp +zetaDelta only

end Sys2Proof.Machine
end

