-- ==== Sys2Proof/Laws/Keeps/PersistOps.lean ====
section
/-! SUPPORT. The operations of PersistOps keep the queue and a sound state. -/

set_option Elab.async false

namespace Sys2Proof.Machine

set_option linter.unreachableTactic false
set_option linter.unusedTactic false
set_option linter.unusedVariables false

theorem State.setDecoder_keeps (p : Port) (k : Nat) (d : Decoder) {m₀ : Nat} {u₀ s : State} (hk : Keeps m₀ u₀ s) (hm : Parts m₀ 256 := by first | decide | exact Parts.sub (by assumption) (by decide)) : Keeps m₀ u₀ (State.setDecoder s p k d) := by
  unfold State.setDecoder
  try dsimp only
  repeat' first
    | exact Parts.sub hm (by decide)
    | with_reducible exact hk
    | with_reducible exact Keeps.refl _ _
    | with_reducible apply State.updPq_keeps
    | exact fun _ w => w
    | with_reducible (intro _)
    | split

theorem State.setUnspent_keeps (n v : Nat) {m₀ : Nat} {u₀ s : State} (hk : Keeps m₀ u₀ s) (hm : Parts m₀ 8192 := by first | decide | exact Parts.sub (by assumption) (by decide)) : Keeps m₀ u₀ (State.setUnspent s n v) := by
  unfold State.setUnspent
  try dsimp only
  repeat' first
    | exact Parts.sub hm (by decide)
    | with_reducible exact hk
    | with_reducible exact Keeps.refl _ _
    | with_reducible apply State.updLdg_keeps
    | exact fun _ w => w
    | with_reducible (intro _)
    | split

theorem State.voidCredit_keeps (n : Nat) {m₀ : Nat} {u₀ s : State} (hk : Keeps m₀ u₀ s) (hm : Parts m₀ 8193 := by first | decide | exact Parts.sub (by assumption) (by decide)) : Keeps m₀ u₀ (State.voidCredit s n) := by
  unfold State.voidCredit
  try dsimp only
  repeat' first
    | exact Parts.sub hm (by decide)
    | with_reducible exact hk
    | with_reducible exact Keeps.refl _ _
    | with_reducible apply State.set_keeps
    | with_reducible apply State.setUnspent_keeps
    | exact fun _ w => w
    | with_reducible (intro _)
    | split

theorem State.aamLocal_keeps  {m₀ : Nat} {u₀ s : State} (hk : Keeps m₀ u₀ s) (hm : Parts m₀ 2097677 := by first | decide | exact Parts.sub (by assumption) (by decide)) : Keeps m₀ u₀ (State.aamLocal s) := by
  unfold State.aamLocal
  try dsimp only
  repeat' first
    | exact Parts.sub hm (by decide)
    | with_reducible exact hk
    | with_reducible exact Keeps.refl _ _
    | with_reducible apply State.event_keeps
    | with_reducible apply State.raise_keeps
    | with_reducible apply State.setB_keeps
    | exact fun _ w => w
    | with_reducible (intro _)
    | split

theorem State.acknowledge_keeps (w : HeldWrite) (seq : Option Nat) {m₀ : Nat} {u₀ s : State} (hk : Keeps m₀ u₀ s) (hm : Parts m₀ 2097933 := by first | decide | exact Parts.sub (by assumption) (by decide)) : Keeps m₀ u₀ (State.acknowledge s w seq) := by
  unfold State.acknowledge
  try dsimp only
  repeat' first
    | exact Parts.sub hm (by decide)
    | with_reducible exact hk
    | with_reducible exact Keeps.refl _ _
    | with_reducible apply State.aamLocal_keeps
    | with_reducible apply State.emit_keeps
    | with_reducible apply State.updPq_keeps
    | exact fun _ w => w
    | with_reducible (intro _)
    | split

theorem State.charge_keeps (p : Port) (c : Nat) {m₀ : Nat} {u₀ s : State} (hk : Keeps m₀ u₀ s) (hm : Parts m₀ 8448 := by first | decide | exact Parts.sub (by assumption) (by decide)) : Keeps m₀ u₀ (State.charge s p c) := by
  unfold State.charge
  try dsimp only
  repeat' first
    | exact Parts.sub hm (by decide)
    | with_reducible exact hk
    | with_reducible exact Keeps.refl _ _
    | with_reducible apply State.set_keeps
    | with_reducible apply State.setUnspent_keeps
    | with_reducible apply State.updPq_keeps
    | exact fun _ w => w
    | with_reducible (intro _)
    | split

theorem State.countClose_keeps (n c : Nat) {m₀ : Nat} {u₀ s : State} (hk : Keeps m₀ u₀ s) (hm : Parts m₀ 8192 := by first | decide | exact Parts.sub (by assumption) (by decide)) : Keeps m₀ u₀ (State.countClose s n c) := by
  unfold State.countClose
  try dsimp only
  repeat' first
    | exact Parts.sub hm (by decide)
    | with_reducible exact hk
    | with_reducible exact Keeps.refl _ _
    | with_reducible apply State.updLdg_keeps
    | exact fun _ w => w
    | with_reducible (intro _)
    | split

theorem State.entryTasks_keeps (e : QEntry) {m₀ : Nat} {u₀ s : State} (hk : Keeps m₀ u₀ s) (hm : Parts m₀ 4097 := by first | decide | exact Parts.sub (by assumption) (by decide)) : Keeps m₀ u₀ (State.entryTasks s e) := by
  unfold State.entryTasks
  try dsimp only
  repeat' first
    | exact Parts.sub hm (by decide)
    | with_reducible exact hk
    | with_reducible exact Keeps.refl _ _
    | with_reducible apply State.putTask_keeps
    | exact fun _ w => w
    | with_reducible (intro _)
    | split

theorem State.admitWrite_keeps (w : HeldWrite) {m₀ : Nat} {u₀ s : State} (hk : Keeps m₀ u₀ s) (hm : Parts m₀ 2110221 := by first | decide | exact Parts.sub (by assumption) (by decide)) : Keeps m₀ u₀ (State.admitWrite s w) := by
  unfold State.admitWrite
  try dsimp only
  repeat' first
    | exact Parts.sub hm (by decide)
    | with_reducible exact hk
    | with_reducible exact Keeps.refl _ _
    | with_reducible apply State.acknowledge_keeps
    | with_reducible apply State.charge_keeps
    | with_reducible apply State.countClose_keeps
    | with_reducible apply State.emit_keeps
    | with_reducible apply State.entryTasks_keeps
    | with_reducible apply State.set64_keeps
    | with_reducible apply State.updPq_keeps
    | exact fun _ w => w
    | with_reducible (intro _)
    | split

theorem State.admitHeld_keeps {m₀ : Nat} {u : State} (p : Port) (c : Nat) : ∀ (n : Nat) {s : State}, Keeps m₀ u s →
    ∀ (hm : Parts m₀ 2110221 := by first | decide | exact Parts.sub (by assumption) (by decide)), Keeps m₀ u (State.admitHeld p c n s)
  | 0, _, h, _ => h
  | n + 1, s, h, hm => by
    unfold State.admitHeld
    split
    · exact h
    · split
      · exact State.admitHeld_keeps p c n (State.admitWrite_keeps _ (State.updPq_keeps h _))
      · exact h

theorem State.admitAll_keeps (p : Port) {m₀ : Nat} {u₀ s : State} (hk : Keeps m₀ u₀ s) (hm : Parts m₀ 2110221 := by first | decide | exact Parts.sub (by assumption) (by decide)) : Keeps m₀ u₀ (State.admitAll s p) := by
  unfold State.admitAll
  try dsimp only
  repeat' first
    | exact Parts.sub hm (by decide)
    | with_reducible exact hk
    | with_reducible exact Keeps.refl _ _
    | with_reducible apply State.admitHeld_keeps
    | with_reducible apply Keeps.foldl
    | with_reducible apply Keeps.foldlFst
    | with_reducible apply Keeps.foldlSnd
    | exact fun _ w => w
    | with_reducible (intro _)
    | split

theorem State.setLhz_keeps (p : Port) (v : Nat) {m₀ : Nat} {u₀ s : State} (hk : Keeps m₀ u₀ s) (hm : Parts m₀ 1 := by first | decide | exact Parts.sub (by assumption) (by decide)) : Keeps m₀ u₀ (State.setLhz s p v) := by
  unfold State.setLhz
  try dsimp only
  repeat' first
    | exact Parts.sub hm (by decide)
    | with_reducible exact hk
    | with_reducible exact Keeps.refl _ _
    | with_reducible apply State.set64_keeps
    | exact fun _ w => w
    | with_reducible (intro _)
    | split

theorem State.liftMhz_keeps (p : Port) (v : Nat) {m₀ : Nat} {u₀ s : State} (hk : Keeps m₀ u₀ s) (hm : Parts m₀ 257 := by first | decide | exact Parts.sub (by assumption) (by decide)) : Keeps m₀ u₀ (State.liftMhz s p v) := by
  unfold State.liftMhz
  try dsimp only
  repeat' first
    | exact Parts.sub hm (by decide)
    | with_reducible exact hk
    | with_reducible exact Keeps.refl _ _
    | with_reducible apply State.set_keeps
    | with_reducible apply State.set64_keeps
    | with_reducible apply State.updPq_keeps
    | exact fun _ w => w
    | with_reducible (intro _)
    | split

theorem State.mhzEvents_keeps (s : State) {m₀ : Nat} {u t : State} (h : Keeps m₀ u t) (hm : Parts m₀ 2097156 := by first | decide | exact Parts.sub (by assumption) (by decide)) : Keeps m₀ u (State.mhzEvents s t) :=
  State.raiseAll_keeps _ h

theorem State.raiseMhz_keeps (p : Port) (v : Nat) {m₀ : Nat} {u s : State} (h : Keeps m₀ u s) (hm : Parts m₀ 2097413 := by first | decide | exact Parts.sub (by assumption) (by decide)) : Keeps m₀ u (State.raiseMhz s p v) :=
  State.mhzEvents_keeps s (State.liftMhz_keeps _ _ h)

theorem State.popStamps_keeps {m₀ : Nat} {u : State} (p : Port) (q : Nat) : ∀ (n : Nat) {s : State}, Keeps m₀ u s →
    ∀ (hm : Parts m₀ 257 := by first | decide | exact Parts.sub (by assumption) (by decide)), Keeps m₀ u (State.popStamps p q n s)
  | 0, _, h, _ => h
  | n + 1, s, h, hm => by
    unfold State.popStamps
    split
    · split
      · exact State.popStamps_keeps p q n (State.liftMhz_keeps _ _ (State.updPq_keeps h _))
      · exact h
    · exact h

theorem State.aamDone_keeps (p : AamWait → Bool) {m₀ : Nat} {u₀ s : State} (hk : Keeps m₀ u₀ s) (hm : Parts m₀ 2097408 := by first | decide | exact Parts.sub (by assumption) (by decide)) : Keeps m₀ u₀ (State.aamDone s p) := by
  unfold State.aamDone
  try dsimp only
  repeat' first
    | exact Parts.sub hm (by decide)
    | with_reducible exact hk
    | with_reducible exact Keeps.refl _ _
    | with_reducible apply State.emit_keeps
    | with_reducible apply State.updPq_keeps
    | with_reducible apply Keeps.foldl
    | with_reducible apply Keeps.foldlFst
    | with_reducible apply Keeps.foldlSnd
    | exact fun _ w => w
    | with_reducible (intro _)
    | split

theorem State.ackRise_keeps (q : Nat) {m₀ : Nat} {u s : State} (h : Keeps m₀ u s) (hm : Parts m₀ 2097413 := by first | decide | exact Parts.sub (by assumption) (by decide)) : Keeps m₀ u (State.ackRise s q) := by
  unfold State.ackRise
  extract_lets s1 s2
  have k_1 : Keeps m₀ u s1 := State.set64_keeps h _ _ _
  have k_2 : Keeps m₀ u s2 := Keeps.ite (fun _ => k_1) fun _ =>
    State.mhzEvents_keeps s1 (State.popStamps_keeps _ _ _ (State.popStamps_keeps _ _ _ k_1))
  exact State.aamDone_keeps _ k_2

theorem State.aamRelease_keeps  {m₀ : Nat} {u₀ s : State} (hk : Keeps m₀ u₀ s) (hm : Parts m₀ 2097933 := by first | decide | exact Parts.sub (by assumption) (by decide)) : Keeps m₀ u₀ (State.aamRelease s) := by
  unfold State.aamRelease
  try dsimp only
  repeat' first
    | exact Parts.sub hm (by decide)
    | with_reducible exact hk
    | with_reducible exact Keeps.refl _ _
    | with_reducible apply State.aamLocal_keeps
    | with_reducible apply State.emit_keeps
    | with_reducible apply State.updPq_keeps
    | with_reducible apply Keeps.foldl
    | with_reducible apply Keeps.foldlFst
    | with_reducible apply Keeps.foldlSnd
    | exact fun _ w => w
    | with_reducible (intro _)
    | split

theorem State.pendStamp_keeps (p : Port) (v tail : Nat) {m₀ : Nat} {u₀ s : State} (hk : Keeps m₀ u₀ s) (hm : Parts m₀ 2097933 := by first | decide | exact Parts.sub (by assumption) (by decide)) : Keeps m₀ u₀ (State.pendStamp s p v tail) := by
  unfold State.pendStamp
  try dsimp only
  repeat' first
    | exact Parts.sub hm (by decide)
    | with_reducible exact hk
    | with_reducible exact Keeps.refl _ _
    | with_reducible apply State.event_keeps
    | with_reducible apply State.set_keeps
    | with_reducible apply State.setB_keeps
    | with_reducible apply State.updPq_keeps
    | exact fun _ w => w
    | with_reducible (intro _)
    | split

theorem State.commitStamp_keeps (p : Port) (v : Nat) {m₀ : Nat} {u₀ s : State} (hk : Keeps m₀ u₀ s) (hm : Parts m₀ 2097933 := by first | decide | exact Parts.sub (by assumption) (by decide)) : Keeps m₀ u₀ (State.commitStamp s p v) := by
  unfold State.commitStamp
  try dsimp only
  repeat' first
    | exact Parts.sub hm (by decide)
    | with_reducible exact hk
    | with_reducible exact Keeps.refl _ _
    | with_reducible apply State.count_keeps
    | with_reducible apply State.pendStamp_keeps
    | with_reducible apply State.raiseMhz_keeps
    | with_reducible apply State.set_keeps
    | with_reducible apply State.setLhz_keeps
    | with_reducible apply State.updPq_keeps
    | exact fun _ w => w
    | with_reducible (intro _)
    | split

end Sys2Proof.Machine
end

