-- ==== Sys2Proof/Laws/Keeps/DigestOps.lean ====
section
/-! SUPPORT. The operations of DigestOps keep the queue and a sound state. -/

set_option Elab.async false

namespace Sys2Proof.Machine

set_option linter.unreachableTactic false
set_option linter.unusedTactic false
set_option linter.unusedVariables false

theorem State.setSlot_keeps (n : Nat) (k : KeySlot) {m₀ : Nat} {u₀ s : State} (hk : Keeps m₀ u₀ s) (hm : Parts m₀ 64 := by first | decide | exact Parts.sub (by assumption) (by decide)) : Keeps m₀ u₀ (State.setSlot s n k) := by
  unfold State.setSlot
  try dsimp only
  repeat' first
    | exact Parts.sub hm (by decide)
    | with_reducible exact hk
    | with_reducible exact Keeps.refl _ _
    | with_reducible apply State.updDge_keeps
    | exact fun _ w => w
    | with_reducible (intro _)
    | split

theorem State.dgeSt_keeps (g : Agent) (st : Nat) {m₀ : Nat} {u₀ s : State} (hk : Keeps m₀ u₀ s) (hm : Parts m₀ 1 := by first | decide | exact Parts.sub (by assumption) (by decide)) : Keeps m₀ u₀ (State.dgeSt s g st) := by
  unfold State.dgeSt
  try dsimp only
  repeat' first
    | exact Parts.sub hm (by decide)
    | with_reducible exact hk
    | with_reducible exact Keeps.refl _ _
    | with_reducible apply State.set_keeps
    | exact fun _ w => w
    | with_reducible (intro _)
    | split

theorem State.dgeStatus_keeps (g : Agent) (code : Nat) {m₀ : Nat} {u₀ s : State} (hk : Keeps m₀ u₀ s) (hm : Parts m₀ 1 := by first | decide | exact Parts.sub (by assumption) (by decide)) : Keeps m₀ u₀ (State.dgeStatus s g code) := by
  unfold State.dgeStatus
  try dsimp only
  repeat' first
    | exact Parts.sub hm (by decide)
    | with_reducible exact hk
    | with_reducible exact Keeps.refl _ _
    | with_reducible apply State.set_keeps
    | exact fun _ w => w
    | with_reducible (intro _)
    | split

theorem State.dgeEnd_keeps (w : DgeWho) (code : Nat) {m₀ : Nat} {u₀ s : State} (hk : Keeps m₀ u₀ s) (hm : Parts m₀ 1 := by first | decide | exact Parts.sub (by assumption) (by decide)) : Keeps m₀ u₀ (State.dgeEnd s w code) := by
  unfold State.dgeEnd
  try dsimp only
  repeat' first
    | exact Parts.sub hm (by decide)
    | with_reducible exact hk
    | with_reducible exact Keeps.refl _ _
    | with_reducible apply State.dgeSt_keeps
    | with_reducible apply State.dgeStatus_keeps
    | exact fun _ w => w
    | with_reducible (intro _)
    | split

theorem State.dgeLost_keeps (w : DgeWho) (code : Nat) {m₀ : Nat} {u₀ s : State} (hk : Keeps m₀ u₀ s) (hm : Parts m₀ 1 := by first | decide | exact Parts.sub (by assumption) (by decide)) : Keeps m₀ u₀ (State.dgeLost s w code) := by
  unfold State.dgeLost
  try dsimp only
  repeat' first
    | exact Parts.sub hm (by decide)
    | with_reducible exact hk
    | with_reducible exact Keeps.refl _ _
    | with_reducible apply State.dgeSt_keeps
    | with_reducible apply State.dgeStatus_keeps
    | exact fun _ w => w
    | with_reducible (intro _)
    | split

theorem State.dgeOwned_keeps (w : DgeWho) {m₀ : Nat} {u₀ s : State} (hk : Keeps m₀ u₀ s) (hm : Parts m₀ 1 := by first | decide | exact Parts.sub (by assumption) (by decide)) : Keeps m₀ u₀ (State.dgeOwned s w) := by
  unfold State.dgeOwned
  try dsimp only
  repeat' first
    | exact Parts.sub hm (by decide)
    | with_reducible exact hk
    | with_reducible exact Keeps.refl _ _
    | with_reducible apply State.dgeStatus_keeps
    | exact fun _ w => w
    | with_reducible (intro _)
    | split

theorem State.dgeResult_keeps (g : Agent) (alg : Nat) (d : List Byte) {m₀ : Nat} {u₀ s : State} (hk : Keeps m₀ u₀ s) (hm : Parts m₀ 65 := by first | decide | exact Parts.sub (by assumption) (by decide)) : Keeps m₀ u₀ (State.dgeResult s g alg d) := by
  unfold State.dgeResult
  try dsimp only
  repeat' first
    | exact Parts.sub hm (by decide)
    | with_reducible exact hk
    | with_reducible exact Keeps.refl _ _
    | with_reducible apply State.dgeSt_keeps
    | with_reducible apply State.dgeStatus_keeps
    | with_reducible apply State.set_keeps
    | with_reducible apply State.updDge_keeps
    | with_reducible apply Keeps.foldl
    | with_reducible apply Keeps.foldlFst
    | with_reducible apply Keeps.foldlSnd
    | exact fun _ w => w
    | with_reducible (intro _)
    | split

theorem State.dgeSave_keeps (n : Nat) (c : DgeComp) {m₀ : Nat} {u₀ s : State} (hk : Keeps m₀ u₀ s) (hm : Parts m₀ 65 := by first | decide | exact Parts.sub (by assumption) (by decide)) : Keeps m₀ u₀ (State.dgeSave s n c) := by
  unfold State.dgeSave
  try dsimp only
  repeat' first
    | exact Parts.sub hm (by decide)
    | with_reducible exact hk
    | with_reducible exact Keeps.refl _ _
    | with_reducible apply State.dgeSt_keeps
    | with_reducible apply State.set_keeps
    | with_reducible apply State.updDge_keeps
    | exact fun _ w => w
    | with_reducible (intro _)
    | split

theorem State.dgeFree_keeps (n : Nat) {m₀ : Nat} {u₀ s : State} (hk : Keeps m₀ u₀ s) (hm : Parts m₀ 64 := by first | decide | exact Parts.sub (by assumption) (by decide)) : Keeps m₀ u₀ (State.dgeFree s n) := by
  unfold State.dgeFree
  try dsimp only
  repeat' first
    | exact Parts.sub hm (by decide)
    | with_reducible exact hk
    | with_reducible exact Keeps.refl _ _
    | with_reducible apply State.updDge_keeps
    | exact fun _ w => w
    | with_reducible (intro _)
    | split

theorem State.dgeLose_keeps (n : Nat) (w : DgeWho) (code : Nat) {m₀ : Nat} {u₀ s : State} (hk : Keeps m₀ u₀ s) (hm : Parts m₀ 65 := by first | decide | exact Parts.sub (by assumption) (by decide)) : Keeps m₀ u₀ (State.dgeLose s n w code) := by
  unfold State.dgeLose
  try dsimp only
  repeat' first
    | exact Parts.sub hm (by decide)
    | with_reducible exact hk
    | with_reducible exact Keeps.refl _ _
    | with_reducible apply State.dgeEnd_keeps
    | with_reducible apply State.dgeFree_keeps
    | with_reducible apply State.dgeLost_keeps
    | exact fun _ w => w
    | with_reducible (intro _)
    | split

theorem State.dgeExpire_keeps (n : Nat) {m₀ : Nat} {u₀ s : State} (hk : Keeps m₀ u₀ s) (hm : Parts m₀ 65 := by first | decide | exact Parts.sub (by assumption) (by decide)) : Keeps m₀ u₀ (State.dgeExpire s n) := by
  unfold State.dgeExpire
  try dsimp only
  repeat' first
    | exact Parts.sub hm (by decide)
    | with_reducible exact hk
    | with_reducible exact Keeps.refl _ _
    | with_reducible apply State.dgeLose_keeps
    | exact fun _ w => w
    | with_reducible (intro _)
    | split

theorem State.dgeEvict_keeps  {m₀ : Nat} {u₀ s : State} (hk : Keeps m₀ u₀ s) (hm : Parts m₀ 2097741 := by first | decide | exact Parts.sub (by assumption) (by decide)) : Keeps m₀ u₀ (State.dgeEvict s) := by
  unfold State.dgeEvict
  try dsimp only
  repeat' first
    | exact Parts.sub hm (by decide)
    | with_reducible exact hk
    | with_reducible exact Keeps.refl _ _
    | with_reducible apply State.dgeLose_keeps
    | with_reducible apply State.event_keeps
    | with_reducible apply State.raise_keeps
    | exact fun _ w => w
    | with_reducible (intro _)
    | split

theorem State.dgeOwn_keeps (c : DgeComp) {m₀ : Nat} {u₀ s : State} (hk : Keeps m₀ u₀ s) (hm : Parts m₀ 65 := by first | decide | exact Parts.sub (by assumption) (by decide)) : Keeps m₀ u₀ (State.dgeOwn s c) := by
  unfold State.dgeOwn
  try dsimp only
  repeat' first
    | exact Parts.sub hm (by decide)
    | with_reducible exact hk
    | with_reducible exact Keeps.refl _ _
    | with_reducible apply State.dgeResult_keeps
    | with_reducible apply State.dgeSt_keeps
    | with_reducible apply State.updDge_keeps
    | exact fun _ w => w
    | with_reducible (intro _)
    | split

theorem State.dgeGrant_keeps (r : DgeReq) {m₀ : Nat} {u₀ s : State} (hk : Keeps m₀ u₀ s) (hm : Parts m₀ 65 := by first | decide | exact Parts.sub (by assumption) (by decide)) : Keeps m₀ u₀ (State.dgeGrant s r) := by
  unfold State.dgeGrant
  try dsimp only
  repeat' first
    | exact Parts.sub hm (by decide)
    | with_reducible exact hk
    | with_reducible exact Keeps.refl _ _
    | with_reducible apply State.dgeEnd_keeps
    | with_reducible apply State.dgeFree_keeps
    | with_reducible apply State.dgeOwn_keeps
    | with_reducible apply State.dgeSt_keeps
    | with_reducible apply State.updDge_keeps
    | exact fun _ w => w
    | with_reducible (intro _)
    | split

theorem State.dgeNext_keeps {m₀ : Nat} {u : State} : ∀ (n : Nat) {s : State}, Keeps m₀ u s →
    ∀ (hm : Parts m₀ 65 := by first | decide | exact Parts.sub (by assumption) (by decide)), Keeps m₀ u (State.dgeNext n s)
  | 0, _, h, _ => h
  | n + 1, s, h, hm => by
    unfold State.dgeNext
    split
    · exact h
    · split
      · exact h
      · exact State.dgeNext_keeps n (State.dgeGrant_keeps _ (State.updDge_keeps h _))

theorem State.dgeRelease_keeps  {m₀ : Nat} {u₀ s : State} (hk : Keeps m₀ u₀ s) (hm : Parts m₀ 65 := by first | decide | exact Parts.sub (by assumption) (by decide)) : Keeps m₀ u₀ (State.dgeRelease s) := by
  unfold State.dgeRelease
  try dsimp only
  repeat' first
    | exact Parts.sub hm (by decide)
    | with_reducible exact hk
    | with_reducible exact Keeps.refl _ _
    | with_reducible apply State.dgeNext_keeps
    | with_reducible apply State.updDge_keeps
    | exact fun _ w => w
    | with_reducible (intro _)
    | split

theorem State.dgePreempt_keeps (n : Nat) {m₀ : Nat} {u₀ s : State} (hk : Keeps m₀ u₀ s) (hm : Parts m₀ 65 := by first | decide | exact Parts.sub (by assumption) (by decide)) : Keeps m₀ u₀ (State.dgePreempt s n) := by
  unfold State.dgePreempt
  try dsimp only
  repeat' first
    | exact Parts.sub hm (by decide)
    | with_reducible exact hk
    | with_reducible exact Keeps.refl _ _
    | with_reducible apply State.dgeSave_keeps
    | with_reducible apply State.updDge_keeps
    | exact fun _ w => w
    | with_reducible (intro _)
    | split

theorem State.dgeYield_keeps  {m₀ : Nat} {u₀ s : State} (hk : Keeps m₀ u₀ s) (hm : Parts m₀ 2097741 := by first | decide | exact Parts.sub (by assumption) (by decide)) : Keeps m₀ u₀ (State.dgeYield s) := by
  unfold State.dgeYield
  try dsimp only
  repeat' first
    | exact Parts.sub hm (by decide)
    | with_reducible exact hk
    | with_reducible exact Keeps.refl _ _
    | with_reducible apply State.dgeEvict_keeps
    | with_reducible apply State.dgeOwned_keeps
    | with_reducible apply State.dgePreempt_keeps
    | exact fun _ w => w
    | with_reducible (intro _)
    | split

theorem State.dgeAsk_keeps (g : Agent) (r : DgeReq) {m₀ : Nat} {u₀ s : State} (hk : Keeps m₀ u₀ s) (hm : Parts m₀ 2097741 := by first | decide | exact Parts.sub (by assumption) (by decide)) : Keeps m₀ u₀ (State.dgeAsk s g r) := by
  unfold State.dgeAsk
  try dsimp only
  repeat' first
    | exact Parts.sub hm (by decide)
    | with_reducible exact hk
    | with_reducible exact Keeps.refl _ _
    | with_reducible apply State.dgeGrant_keeps
    | with_reducible apply State.dgeSt_keeps
    | with_reducible apply State.dgeStatus_keeps
    | with_reducible apply State.dgeYield_keeps
    | with_reducible apply State.updDge_keeps
    | exact fun _ w => w
    | with_reducible (intro _)
    | split

theorem State.dgeRequest_keeps (w : DgeWho) {m₀ : Nat} {u₀ s : State} (hk : Keeps m₀ u₀ s) (hm : Parts m₀ 2097741 := by first | decide | exact Parts.sub (by assumption) (by decide)) : Keeps m₀ u₀ (State.dgeRequest s w) := by
  unfold State.dgeRequest
  try dsimp only
  repeat' first
    | exact Parts.sub hm (by decide)
    | with_reducible exact hk
    | with_reducible exact Keeps.refl _ _
    | with_reducible apply State.dgeOwn_keeps
    | with_reducible apply State.dgeYield_keeps
    | with_reducible apply State.updDge_keeps
    | exact fun _ w => w
    | with_reducible (intro _)
    | split

theorem State.dgeTake_keeps (w : DgeWho) {m₀ : Nat} {u₀ s : State} (hk : Keeps m₀ u₀ s) (hm : Parts m₀ 2097741 := by first | decide | exact Parts.sub (by assumption) (by decide)) : Keeps m₀ u₀ (State.dgeTake s w).2 := by
  unfold State.dgeTake
  try dsimp only
  repeat' first
    | exact Parts.sub hm (by decide)
    | with_reducible exact hk
    | with_reducible exact Keeps.refl _ _
    | with_reducible apply State.dgeRequest_keeps
    | exact fun _ w => w
    | with_reducible (intro _)
    | split

theorem State.dgeDropAll_keeps (l : List Agent) (code : Nat) {m₀ : Nat} {u₀ s : State} (hk : Keeps m₀ u₀ s) (hm : Parts m₀ 65 := by first | decide | exact Parts.sub (by assumption) (by decide)) : Keeps m₀ u₀ (State.dgeDropAll s l code) := by
  unfold State.dgeDropAll
  try dsimp only
  repeat' first
    | exact Parts.sub hm (by decide)
    | with_reducible exact hk
    | with_reducible exact Keeps.refl _ _
    | with_reducible apply State.dgeEnd_keeps
    | with_reducible apply State.dgeRelease_keeps
    | with_reducible apply State.updDge_keeps
    | with_reducible apply Keeps.foldl
    | with_reducible apply Keeps.foldlFst
    | with_reducible apply Keeps.foldlSnd
    | exact fun _ w => w
    | with_reducible (intro _)
    | split

theorem State.dgeDrop_keeps (g : Agent) (code : Nat) {m₀ : Nat} {u₀ s : State} (hk : Keeps m₀ u₀ s) (hm : Parts m₀ 65 := by first | decide | exact Parts.sub (by assumption) (by decide)) : Keeps m₀ u₀ (State.dgeDrop s g code) := by
  unfold State.dgeDrop
  try dsimp only
  repeat' first
    | exact Parts.sub hm (by decide)
    | with_reducible exact hk
    | with_reducible exact Keeps.refl _ _
    | with_reducible apply State.dgeDropAll_keeps
    | exact fun _ w => w
    | with_reducible (intro _)
    | split

theorem State.setKeyIo_keeps (l : List Byte) {m₀ : Nat} {u₀ s : State} (hk : Keeps m₀ u₀ s) (hm : Parts m₀ 1 := by first | decide | exact Parts.sub (by assumption) (by decide)) : Keeps m₀ u₀ (State.setKeyIo s l) := by
  unfold State.setKeyIo
  try dsimp only
  repeat' first
    | exact Parts.sub hm (by decide)
    | with_reducible exact hk
    | with_reducible exact Keeps.refl _ _
    | with_reducible apply State.set_keeps
    | with_reducible apply Keeps.foldl
    | with_reducible apply Keeps.foldlFst
    | with_reducible apply Keeps.foldlSnd
    | exact fun _ w => w
    | with_reducible (intro _)
    | split

theorem State.keyDone_keeps (code : Nat) {m₀ : Nat} {u₀ s : State} (hk : Keeps m₀ u₀ s) (hm : Parts m₀ 1 := by first | decide | exact Parts.sub (by assumption) (by decide)) : Keeps m₀ u₀ (State.keyDone s code) := by
  unfold State.keyDone
  try dsimp only
  repeat' first
    | exact Parts.sub hm (by decide)
    | with_reducible exact hk
    | with_reducible exact Keeps.refl _ _
    | with_reducible apply State.set_keeps
    | with_reducible apply State.setB_keeps
    | with_reducible apply State.setKeyIo_keeps
    | exact fun _ w => w
    | with_reducible (intro _)
    | split

theorem State.keyCell_keeps (op : KeyOp) {m₀ : Nat} {u₀ s : State} (hk : Keeps m₀ u₀ s) (hm : Parts m₀ 2097773 := by first | decide | exact Parts.sub (by assumption) (by decide)) : Keeps m₀ u₀ (State.keyCell s op) := by
  unfold State.keyCell
  try dsimp only
  repeat' first
    | exact Parts.sub hm (by decide)
    | with_reducible exact hk
    | with_reducible exact Keeps.refl _ _
    | with_reducible apply State.flashWrite_keeps
    | with_reducible apply State.setB_keeps
    | with_reducible apply State.updDge_keeps
    | exact fun _ w => w
    | with_reducible (intro _)
    | split

theorem State.keyCellDone_keeps (good : Bool) {m₀ : Nat} {u₀ s : State} (hk : Keeps m₀ u₀ s) (hm : Parts m₀ 2097741 := by first | decide | exact Parts.sub (by assumption) (by decide)) : Keeps m₀ u₀ (State.keyCellDone s good) := by
  unfold State.keyCellDone
  try dsimp only
  repeat' first
    | exact Parts.sub hm (by decide)
    | with_reducible exact hk
    | with_reducible exact Keeps.refl _ _
    | with_reducible apply State.event_keeps
    | with_reducible apply State.keyDone_keeps
    | with_reducible apply State.setSlot_keeps
    | with_reducible apply State.updDge_keeps
    | exact fun _ w => w
    | with_reducible (intro _)
    | split

theorem State.keyRefuse_keeps (isImport : Bool) (slot code : Nat) {m₀ : Nat} {u₀ s : State} (hk : Keeps m₀ u₀ s) (hm : Parts m₀ 2097677 := by first | decide | exact Parts.sub (by assumption) (by decide)) : Keeps m₀ u₀ (State.keyRefuse s isImport slot code) := by
  unfold State.keyRefuse
  try dsimp only
  repeat' first
    | exact Parts.sub hm (by decide)
    | with_reducible exact hk
    | with_reducible exact Keeps.refl _ _
    | with_reducible apply State.event_keeps
    | with_reducible apply State.keyDone_keeps
    | exact fun _ w => w
    | with_reducible (intro _)
    | split

end Sys2Proof.Machine
end

