-- ==== Sys2Proof/Laws/Keeps/RecorderOps.lean ====
section
/-! SUPPORT. The operations of RecorderOps keep the queue and a sound state. -/

set_option Elab.async false

namespace Sys2Proof.Machine

set_option linter.unreachableTactic false
set_option linter.unusedTactic false
set_option linter.unusedVariables false

theorem State.recorderCopy_keeps  {m₀ : Nat} {u₀ s : State} (hk : Keeps m₀ u₀ s) (hm : Parts m₀ 2097708 := by first | decide | exact Parts.sub (by assumption) (by decide)) : Keeps m₀ u₀ (State.recorderCopy s) := by
  unfold State.recorderCopy
  try dsimp only
  repeat' first
    | exact Parts.sub hm (by decide)
    | with_reducible exact hk
    | with_reducible exact Keeps.refl _ _
    | with_reducible apply State.flashWrite_keeps
    | with_reducible apply State.updEvr_keeps
    | exact fun _ w => w
    | exact fun _ w => Store.wf_put w _ _
    | exact fun _ w => Store.wf_put (Store.wf_put w _ _) _ _
    | exact fun _ w => Store.wf_keep w _
    | exact fun _ _ => Store.wf_nil
    | with_reducible (intro _)
    | split

theorem State.copyAbandon_keeps  {m₀ : Nat} {u₀ s : State} (hk : Keeps m₀ u₀ s) (hm : Parts m₀ 2097709 := by first | decide | exact Parts.sub (by assumption) (by decide)) : Keeps m₀ u₀ (State.copyAbandon s) := by
  unfold State.copyAbandon
  try dsimp only
  repeat' first
    | exact Parts.sub hm (by decide)
    | with_reducible exact hk
    | with_reducible exact Keeps.refl _ _
    | with_reducible apply State.flashNext_keeps
    | with_reducible apply State.setB_keeps
    | with_reducible apply State.updCfl_keeps
    | with_reducible apply State.updEvr_keeps
    | exact fun _ w => w
    | exact fun _ w => Store.wf_put w _ _
    | exact fun _ w => Store.wf_put (Store.wf_put w _ _) _ _
    | exact fun _ w => Store.wf_keep w _
    | exact fun _ _ => Store.wf_nil
    | exact fun _ w => w
    | exact fun _ w => w
    | with_reducible (intro _)
    | split

theorem State.copyReport_keeps  {m₀ : Nat} {u₀ s : State} (hk : Keeps m₀ u₀ s) (hm : Parts m₀ 2097676 := by first | decide | exact Parts.sub (by assumption) (by decide)) : Keeps m₀ u₀ (State.copyReport s) := by
  unfold State.copyReport
  try dsimp only
  repeat' first
    | exact Parts.sub hm (by decide)
    | with_reducible exact hk
    | with_reducible exact Keeps.refl _ _
    | with_reducible apply State.event_keeps
    | with_reducible apply State.updEvr_keeps
    | exact fun _ w => w
    | exact fun _ w => Store.wf_put w _ _
    | exact fun _ w => Store.wf_put (Store.wf_put w _ _) _ _
    | exact fun _ w => Store.wf_keep w _
    | exact fun _ _ => Store.wf_nil
    | with_reducible (intro _)
    | split

theorem State.clearRefuse_keeps  {m₀ : Nat} {u₀ s : State} (hk : Keeps m₀ u₀ s) (hm : Parts m₀ 2097677 := by first | decide | exact Parts.sub (by assumption) (by decide)) : Keeps m₀ u₀ (State.clearRefuse s) := by
  unfold State.clearRefuse
  try dsimp only
  repeat' first
    | exact Parts.sub hm (by decide)
    | with_reducible exact hk
    | with_reducible exact Keeps.refl _ _
    | with_reducible apply State.event_keeps
    | with_reducible apply State.setB_keeps
    | with_reducible apply State.updEvr_keeps
    | exact fun _ w => w
    | exact fun _ w => Store.wf_put w _ _
    | exact fun _ w => Store.wf_put (Store.wf_put w _ _) _ _
    | exact fun _ w => Store.wf_keep w _
    | exact fun _ _ => Store.wf_nil
    | with_reducible (intro _)
    | split

theorem State.clearRing_keeps (g : Agent) (c : Challenge) {m₀ : Nat} {u s : State} (h : Keeps m₀ u s) (hm : Parts m₀ 2097709 := by first | decide | exact Parts.sub (by assumption) (by decide)) : Keeps m₀ u (State.clearRing s g c) := by
  unfold State.clearRing
  dsimp only
  exact State.recorderCopy_keeps (State.eventWith_keeps _ _ _ _ _
    (State.updEvr_keeps (State.setB_keeps (State.set_keeps h _ _) _ _) _ fun _ _ => Nat.zero_le _))

theorem Evr.touch_all_ring (l : List Nat) : ∀ e : Evr, (l.foldl Evr.touch e).ring = e.ring := by
  induction l with
  | nil => exact fun _ => rfl
  | cons r l ih => exact fun e => ih (e.touch r)

theorem State.rebase_keeps (base seqBase : Nat) {m₀ : Nat} {u s : State} (h : Keeps m₀ u s) (hm : Parts m₀ 10 := by first | decide | exact Parts.sub (by assumption) (by decide)) : Keeps m₀ u (State.rebase s base seqBase) := by
  unfold State.rebase
  dsimp only
  split
  · exact h
  · refine State.updGlb_keeps (State.updEvr_keeps (State.updEvr_keeps h _ fun e w => ?_) _ fun e w => ?_) _ (fun _ w => w) (fun _ _ => ⟨rfl, rfl⟩) fun _ _ => rfl
    · simpa using w
    · rw [Evr.touch_all_ring]; exact w

end Sys2Proof.Machine
end

