-- ==== Sys2Proof/Laws/Keeps/StiOps.lean ====
section
/-! SUPPORT. The operations of StiOps keep the queue and a sound state. -/

set_option Elab.async false

namespace Sys2Proof.Machine

set_option linter.unreachableTactic false
set_option linter.unusedTactic false
set_option linter.unusedVariables false

theorem Cfl.dropSwap_wf {c : Cfl} (h : Store.wf 0xFF c.bytes = true) : Store.wf 0xFF c.dropSwap.bytes = true := by
  unfold Cfl.dropSwap
  dsimp only
  split <;> exact h

theorem State.stiReason_keeps (v : Verdict) {m₀ : Nat} {u₀ s : State} (hk : Keeps m₀ u₀ s) (hm : Parts m₀ 1 := by first | decide | exact Parts.sub (by assumption) (by decide)) : Keeps m₀ u₀ (State.stiReason s v) := by
  unfold State.stiReason
  try dsimp only
  repeat' first
    | exact Parts.sub hm (by decide)
    | with_reducible exact hk
    | with_reducible exact Keeps.refl _ _
    | with_reducible apply State.set_keeps
    | exact fun _ w => w
    | with_reducible (intro _)
    | split

theorem State.stiRefuse_keeps (v : Verdict) {m₀ : Nat} {u₀ s : State} (hk : Keeps m₀ u₀ s) (hm : Parts m₀ 2097157 := by first | decide | exact Parts.sub (by assumption) (by decide)) : Keeps m₀ u₀ (State.stiRefuse s v) := by
  unfold State.stiRefuse
  try dsimp only
  repeat' first
    | exact Parts.sub hm (by decide)
    | with_reducible exact hk
    | with_reducible exact Keeps.refl _ _
    | with_reducible apply State.raise_keeps
    | with_reducible apply State.setB_keeps
    | with_reducible apply State.stiReason_keeps
    | exact fun _ w => w
    | with_reducible (intro _)
    | split

theorem State.swapClear_keeps  {m₀ : Nat} {u₀ s : State} (hk : Keeps m₀ u₀ s) (hm : Parts m₀ 17 := by first | decide | exact Parts.sub (by assumption) (by decide)) : Keeps m₀ u₀ (State.swapClear s) := by
  unfold State.swapClear
  try dsimp only
  repeat' first
    | exact Parts.sub hm (by decide)
    | with_reducible exact hk
    | with_reducible exact Keeps.refl _ _
    | with_reducible apply State.set_keeps
    | with_reducible apply State.updSti_keeps
    | exact fun _ w => w
    | with_reducible (intro _)
    | split

theorem State.swapUndo_keeps  {m₀ : Nat} {u₀ s : State} (hk : Keeps m₀ u₀ s) (hm : Parts m₀ 2097725 := by first | decide | exact Parts.sub (by assumption) (by decide)) : Keeps m₀ u₀ (State.swapUndo s) := by
  unfold State.swapUndo
  try dsimp only
  repeat' first
    | exact Parts.sub hm (by decide)
    | with_reducible exact hk
    | with_reducible exact Keeps.refl _ _
    | with_reducible apply State.flashWrite_keeps
    | with_reducible apply State.swapClear_keeps
    | with_reducible apply State.updCfl_keeps
    | exact fun _ w => w
    | exact fun _ w => Store.wf_put w _ _
    | exact fun _ w => Store.wf_put (Store.wf_put w _ _) _ _
    | exact fun _ w => Store.wf_keep w _
    | exact fun _ _ => Store.wf_nil
    | exact fun _ w => Cfl.dropSwap_wf w
    | with_reducible (intro _)
    | split

theorem State.swapTrip_keeps  {m₀ : Nat} {u₀ s : State} (hk : Keeps m₀ u₀ s) (hm : Parts m₀ 2097725 := by first | decide | exact Parts.sub (by assumption) (by decide)) : Keeps m₀ u₀ (State.swapTrip s) := by
  unfold State.swapTrip
  try dsimp only
  repeat' first
    | exact Parts.sub hm (by decide)
    | with_reducible exact hk
    | with_reducible exact Keeps.refl _ _
    | with_reducible apply State.event_keeps
    | with_reducible apply State.stiReason_keeps
    | with_reducible apply State.swapUndo_keeps
    | exact fun _ w => w
    | with_reducible (intro _)
    | split

theorem State.swapRequested_keeps  {m₀ : Nat} {u₀ s : State} (hk : Keeps m₀ u₀ s) (hm : Parts m₀ 17 := by first | decide | exact Parts.sub (by assumption) (by decide)) : Keeps m₀ u₀ (State.swapRequested s) := by
  unfold State.swapRequested
  try dsimp only
  repeat' first
    | exact Parts.sub hm (by decide)
    | with_reducible exact hk
    | with_reducible exact Keeps.refl _ _
    | with_reducible apply State.set_keeps
    | with_reducible apply State.updSti_keeps
    | exact fun _ w => w
    | with_reducible (intro _)
    | split

theorem State.swapFailed_keeps  {m₀ : Nat} {u₀ s : State} (hk : Keeps m₀ u₀ s) (hm : Parts m₀ 2097173 := by first | decide | exact Parts.sub (by assumption) (by decide)) : Keeps m₀ u₀ (State.swapFailed s) := by
  unfold State.swapFailed
  try dsimp only
  repeat' first
    | exact Parts.sub hm (by decide)
    | with_reducible exact hk
    | with_reducible exact Keeps.refl _ _
    | with_reducible apply State.stiRefuse_keeps
    | with_reducible apply State.swapClear_keeps
    | exact fun _ w => w
    | with_reducible (intro _)
    | split

theorem State.exchangeFailed_keeps  {m₀ : Nat} {u₀ s : State} (hk : Keeps m₀ u₀ s) (hm : Parts m₀ 2097173 := by first | decide | exact Parts.sub (by assumption) (by decide)) : Keeps m₀ u₀ (State.exchangeFailed s) := by
  unfold State.exchangeFailed
  try dsimp only
  repeat' first
    | exact Parts.sub hm (by decide)
    | with_reducible exact hk
    | with_reducible exact Keeps.refl _ _
    | with_reducible apply State.set_keeps
    | with_reducible apply State.stiRefuse_keeps
    | with_reducible apply State.updSti_keeps
    | exact fun _ w => w
    | with_reducible (intro _)
    | split

theorem State.shadeLoaded_keeps  {m₀ : Nat} {u₀ s : State} (hk : Keeps m₀ u₀ s) (hm : Parts m₀ 2097725 := by first | decide | exact Parts.sub (by assumption) (by decide)) : Keeps m₀ u₀ (State.shadeLoaded s) := by
  unfold State.shadeLoaded
  try dsimp only
  repeat' first
    | exact Parts.sub hm (by decide)
    | with_reducible exact hk
    | with_reducible exact Keeps.refl _ _
    | with_reducible apply State.set_keeps
    | with_reducible apply State.set64_keeps
    | with_reducible apply State.swapUndo_keeps
    | with_reducible apply State.updSti_keeps
    | exact fun _ w => w
    | with_reducible (intro _)
    | split

theorem State.slotWritten_keeps (off : Nat) {m₀ : Nat} {u₀ s : State} (hk : Keeps m₀ u₀ s) (hm : Parts m₀ 2097725 := by first | decide | exact Parts.sub (by assumption) (by decide)) : Keeps m₀ u₀ (State.slotWritten s off) := by
  unfold State.slotWritten
  try dsimp only
  repeat' first
    | exact Parts.sub hm (by decide)
    | with_reducible exact hk
    | with_reducible exact Keeps.refl _ _
    | with_reducible apply State.shadeLoaded_keeps
    | exact fun _ w => w
    | with_reducible (intro _)
    | split

theorem State.shadeTouched_keeps (sec : Nat) {m₀ : Nat} {u₀ s : State} (hk : Keeps m₀ u₀ s) (hm : Parts m₀ 2097725 := by first | decide | exact Parts.sub (by assumption) (by decide)) : Keeps m₀ u₀ (State.shadeTouched s sec) := by
  unfold State.shadeTouched
  try dsimp only
  repeat' first
    | exact Parts.sub hm (by decide)
    | with_reducible exact hk
    | with_reducible exact Keeps.refl _ _
    | with_reducible apply State.shadeLoaded_keeps
    | exact fun _ w => w
    | with_reducible (intro _)
    | split

end Sys2Proof.Machine
end

