-- ==== Sys2Proof/Laws/Keeps/TileOps.lean ====
section
/-! SUPPORT. The operations of TileOps keep the queue and a sound state. -/

set_option Elab.async false

namespace Sys2Proof.Machine

set_option linter.unreachableTactic false
set_option linter.unusedTactic false
set_option linter.unusedVariables false

theorem State.endTask_keeps (k : Task) (status : Nat) {m₀ : Nat} {u₀ s : State} (hk : Keeps m₀ u₀ s) (hm : Parts m₀ 4096 := by first | decide | exact Parts.sub (by assumption) (by decide)) : Keeps m₀ u₀ (State.endTask s k status) := by
  unfold State.endTask
  try dsimp only
  repeat' first
    | exact Parts.sub hm (by decide)
    | with_reducible exact hk
    | with_reducible exact Keeps.refl _ _
    | with_reducible apply State.set_keeps
    | with_reducible apply State.updDsp_keeps
    | exact fun _ w => w
    | with_reducible (intro _)
    | split

theorem State.setTask_keeps (k : Task) {m₀ : Nat} {u₀ s : State} (hk : Keeps m₀ u₀ s) (hm : Parts m₀ 4096 := by first | decide | exact Parts.sub (by assumption) (by decide)) : Keeps m₀ u₀ (State.setTask s k) := by
  unfold State.setTask
  try dsimp only
  repeat' first
    | exact Parts.sub hm (by decide)
    | with_reducible exact hk
    | with_reducible exact Keeps.refl _ _
    | with_reducible apply State.updDsp_keeps
    | exact fun _ w => w
    | with_reducible (intro _)
    | split

theorem State.rollHalt_keeps  {m₀ : Nat} {u₀ s : State} (hk : Keeps m₀ u₀ s) (hm : Parts m₀ 4096 := by first | decide | exact Parts.sub (by assumption) (by decide)) : Keeps m₀ u₀ (State.rollHalt s) := by
  unfold State.rollHalt
  try dsimp only
  repeat' first
    | exact Parts.sub hm (by decide)
    | with_reducible exact hk
    | with_reducible exact Keeps.refl _ _
    | with_reducible apply State.updDsp_keeps
    | exact fun _ w => w
    | with_reducible (intro _)
    | split

theorem State.keptBack_keeps  {m₀ : Nat} {u₀ s : State} (hk : Keeps m₀ u₀ s) (hm : Parts m₀ 4096 := by first | decide | exact Parts.sub (by assumption) (by decide)) : Keeps m₀ u₀ (State.keptBack s) := by
  unfold State.keptBack
  try dsimp only
  repeat' first
    | exact Parts.sub hm (by decide)
    | with_reducible exact hk
    | with_reducible exact Keeps.refl _ _
    | with_reducible apply State.updDsp_keeps
    | exact fun _ w => w
    | with_reducible (intro _)
    | split

theorem State.rollDrop_keeps  {m₀ : Nat} {u₀ s : State} (hk : Keeps m₀ u₀ s) (hm : Parts m₀ 4097 := by first | decide | exact Parts.sub (by assumption) (by decide)) : Keeps m₀ u₀ (State.rollDrop s) := by
  unfold State.rollDrop
  try dsimp only
  repeat' first
    | exact Parts.sub hm (by decide)
    | with_reducible exact hk
    | with_reducible exact Keeps.refl _ _
    | with_reducible apply State.setB_keeps
    | with_reducible apply State.updDsp_keeps
    | exact fun _ w => w
    | with_reducible (intro _)
    | split

theorem State.cancelTask_keeps (k : Task) {m₀ : Nat} {u₀ s : State} (hk : Keeps m₀ u₀ s) (hm : Parts m₀ 4096 := by first | decide | exact Parts.sub (by assumption) (by decide)) : Keeps m₀ u₀ (State.cancelTask s k) := by
  unfold State.cancelTask
  try dsimp only
  repeat' first
    | exact Parts.sub hm (by decide)
    | with_reducible exact hk
    | with_reducible exact Keeps.refl _ _
    | with_reducible apply State.endTask_keeps
    | with_reducible apply State.setTask_keeps
    | exact fun _ w => w
    | with_reducible (intro _)
    | split

theorem State.cancelTasks_keeps (p : Task → Bool) {m₀ : Nat} {u₀ s : State} (hk : Keeps m₀ u₀ s) (hm : Parts m₀ 4096 := by first | decide | exact Parts.sub (by assumption) (by decide)) : Keeps m₀ u₀ (State.cancelTasks s p) := by
  unfold State.cancelTasks
  try dsimp only
  repeat' first
    | exact Parts.sub hm (by decide)
    | with_reducible exact hk
    | with_reducible exact Keeps.refl _ _
    | with_reducible apply State.cancelTask_keeps
    | with_reducible apply Keeps.foldl
    | with_reducible apply Keeps.foldlFst
    | with_reducible apply Keeps.foldlSnd
    | exact fun _ w => w
    | with_reducible (intro _)
    | split

theorem State.makeReady_keeps (k : Task) (tile : Nat) (moved : Bool) {m₀ : Nat} {u₀ s : State} (hk : Keeps m₀ u₀ s) (hm : Parts m₀ 4096 := by first | decide | exact Parts.sub (by assumption) (by decide)) : Keeps m₀ u₀ (State.makeReady s k tile moved) := by
  unfold State.makeReady
  try dsimp only
  repeat' first
    | exact Parts.sub hm (by decide)
    | with_reducible exact hk
    | with_reducible exact Keeps.refl _ _
    | with_reducible apply State.setTask_keeps
    | with_reducible apply State.updDsp_keeps
    | exact fun _ w => w
    | with_reducible (intro _)
    | split

theorem State.retireTask_keeps (p : Task → Bool) {m₀ : Nat} {u₀ s : State} (hk : Keeps m₀ u₀ s) (hm : Parts m₀ 4096 := by first | decide | exact Parts.sub (by assumption) (by decide)) : Keeps m₀ u₀ (State.retireTask s p) := by
  unfold State.retireTask
  try dsimp only
  repeat' first
    | exact Parts.sub hm (by decide)
    | with_reducible exact hk
    | with_reducible exact Keeps.refl _ _
    | with_reducible apply State.endTask_keeps
    | exact fun _ w => w
    | with_reducible (intro _)
    | split

theorem State.askQuiesce_keeps (t : Nat) {m₀ : Nat} {u₀ s : State} (hk : Keeps m₀ u₀ s) (hm : Parts m₀ 4096 := by first | decide | exact Parts.sub (by assumption) (by decide)) : Keeps m₀ u₀ (State.askQuiesce s t) := by
  unfold State.askQuiesce
  try dsimp only
  repeat' first
    | exact Parts.sub hm (by decide)
    | with_reducible exact hk
    | with_reducible exact Keeps.refl _ _
    | with_reducible apply State.updDsp_keeps
    | exact fun _ w => w
    | with_reducible (intro _)
    | split

theorem State.moveBuckets_keeps  {m₀ : Nat} {u₀ s : State} (hk : Keeps m₀ u₀ s) (hm : Parts m₀ 4096 := by first | decide | exact Parts.sub (by assumption) (by decide)) : Keeps m₀ u₀ (State.moveBuckets s) := by
  unfold State.moveBuckets
  try dsimp only
  repeat' first
    | exact Parts.sub hm (by decide)
    | with_reducible exact hk
    | with_reducible exact Keeps.refl _ _
    | with_reducible apply State.updDsp_keeps
    | exact fun _ w => w
    | with_reducible (intro _)
    | split

theorem State.rollStep_keeps {m₀ : Nat} {u : State} : ∀ (n : Nat) {s : State}, Keeps m₀ u s →
    ∀ (hm : Parts m₀ 4096 := by first | decide | exact Parts.sub (by assumption) (by decide)), Keeps m₀ u (State.rollStep n s)
  | 0, _, h, _ => h
  | n + 1, s, h, hm => by
    unfold State.rollStep
    split
    · exact h
    · split
      · exact h
      · split
        · exact h
        · exact Keeps.ite (fun _ => State.rollStep_keeps n (State.updDsp_keeps h _)) fun _ => h

theorem State.rollEnd_keeps  {m₀ : Nat} {u₀ s : State} (hk : Keeps m₀ u₀ s) (hm : Parts m₀ 2101805 := by first | decide | exact Parts.sub (by assumption) (by decide)) : Keeps m₀ u₀ (State.rollEnd s) := by
  unfold State.rollEnd
  try dsimp only
  repeat' first
    | exact Parts.sub hm (by decide)
    | with_reducible exact hk
    | with_reducible exact Keeps.refl _ _
    | with_reducible apply State.event_keeps
    | with_reducible apply State.flashWrite_keeps
    | with_reducible apply State.set_keeps
    | with_reducible apply State.updDsp_keeps
    | exact fun _ w => w
    | with_reducible (intro _)
    | split

theorem State.underBeat_keeps (b : Nat) {m₀ : Nat} {u₀ s : State} (hk : Keeps m₀ u₀ s) (hm : Parts m₀ 16 := by first | decide | exact Parts.sub (by assumption) (by decide)) : Keeps m₀ u₀ (State.underBeat s b) := by
  unfold State.underBeat
  try dsimp only
  repeat' first
    | exact Parts.sub hm (by decide)
    | with_reducible exact hk
    | with_reducible exact Keeps.refl _ _
    | with_reducible apply State.updSti_keeps
    | exact fun _ w => w
    | with_reducible (intro _)
    | split

theorem State.restoreImage_keeps (i : Option Image) {m₀ : Nat} {u₀ t : State} (hk : Keeps m₀ u₀ t) (hm : Parts m₀ 16 := by first | decide | exact Parts.sub (by assumption) (by decide)) : Keeps m₀ u₀ (State.restoreImage t i) := by
  unfold State.restoreImage
  try dsimp only
  repeat' first
    | exact Parts.sub hm (by decide)
    | with_reducible exact hk
    | with_reducible exact Keeps.refl _ _
    | with_reducible apply State.updSti_keeps
    | exact fun _ w => w
    | with_reducible (intro _)
    | split

theorem State.tileBoundary_keeps  {m₀ : Nat} {u₀ s : State} (hk : Keeps m₀ u₀ s) (hm : Parts m₀ 2101805 := by first | decide | exact Parts.sub (by assumption) (by decide)) : Keeps m₀ u₀ (State.tileBoundary s) := by
  unfold State.tileBoundary
  try dsimp only
  repeat' first
    | exact Parts.sub hm (by decide)
    | with_reducible exact hk
    | with_reducible exact Keeps.refl _ _
    | with_reducible apply State.askQuiesce_keeps
    | with_reducible apply State.event_keeps
    | with_reducible apply State.makeReady_keeps
    | with_reducible apply State.moveBuckets_keeps
    | with_reducible apply State.rollEnd_keeps
    | with_reducible apply State.rollStep_keeps
    | with_reducible apply State.set_keeps
    | with_reducible apply State.updDsp_keeps
    | with_reducible apply Keeps.foldl
    | with_reducible apply Keeps.foldlFst
    | with_reducible apply Keeps.foldlSnd
    | exact fun _ w => w
    | with_reducible (intro _)
    | split

theorem State.tileTrip_keeps  {m₀ : Nat} {u₀ s : State} (hk : Keeps m₀ u₀ s) (hm : Parts m₀ 2101773 := by first | decide | exact Parts.sub (by assumption) (by decide)) : Keeps m₀ u₀ (State.tileTrip s) := by
  unfold State.tileTrip
  try dsimp only
  repeat' first
    | exact Parts.sub hm (by decide)
    | with_reducible exact hk
    | with_reducible exact Keeps.refl _ _
    | with_reducible apply State.event_keeps
    | with_reducible apply State.setB_keeps
    | with_reducible apply State.updDsp_keeps
    | exact fun _ w => w
    | with_reducible (intro _)
    | split

end Sys2Proof.Machine
end

