-- ==== Sys2Proof/Laws/Keeps/LedgerOps.lean ====
section
/-! SUPPORT. The operations of LedgerOps keep the queue and a sound state. -/

set_option Elab.async false

namespace Sys2Proof.Machine

set_option linter.unreachableTactic false
set_option linter.unusedTactic false
set_option linter.unusedVariables false

theorem State.publish_keeps (void : Bool) (n : Nat) {m₀ : Nat} {u₀ s : State} (hk : Keeps m₀ u₀ s) (hm : Parts m₀ 8193 := by first | decide | exact Parts.sub (by assumption) (by decide)) : Keeps m₀ u₀ (State.publish s void n) := by
  unfold State.publish
  try extract_lets
  repeat' first
    | exact Parts.sub hm (by decide)
    | with_reducible exact hk
    | with_reducible exact Keeps.refl _ _
    | with_reducible apply State.set_keeps
    | with_reducible apply State.setUnspent_keeps
    | with_reducible apply Keeps.ite
    | with_reducible apply Keeps.iteSnd
    | with_reducible apply Keeps.iteFst
    | refine Keeps.sndOf (by assumption) ?_
    | refine Keeps.fstOf (by assumption) ?_
    | with_reducible assumption
    | with_reducible exact fun _ w => w
    | with_reducible (intro _)
    | split
    | extract_lets
    | dsimp +zetaDelta only

theorem State.enterZone_keeps (z : Nat) {m₀ : Nat} {u₀ s : State} (hk : Keeps m₀ u₀ s) (hm : Parts m₀ 8193 := by first | decide | exact Parts.sub (by assumption) (by decide)) : Keeps m₀ u₀ (State.enterZone s z) := by
  unfold State.enterZone
  try extract_lets
  repeat' first
    | exact Parts.sub hm (by decide)
    | with_reducible exact hk
    | with_reducible exact Keeps.refl _ _
    | with_reducible apply State.setB_keeps
    | with_reducible apply State.updLdg_keeps
    | with_reducible apply Keeps.ite
    | with_reducible apply Keeps.iteSnd
    | with_reducible apply Keeps.iteFst
    | refine Keeps.sndOf (by assumption) ?_
    | refine Keeps.fstOf (by assumption) ?_
    | with_reducible assumption
    | with_reducible exact fun _ w => w
    | with_reducible (intro _)
    | split
    | extract_lets
    | dsimp +zetaDelta only

theorem State.showZone_keeps  {m₀ : Nat} {u₀ s : State} (hk : Keeps m₀ u₀ s) (hm : Parts m₀ 2105869 := by first | decide | exact Parts.sub (by assumption) (by decide)) : Keeps m₀ u₀ (State.showZone s) := by
  unfold State.showZone
  try extract_lets
  repeat' first
    | exact Parts.sub hm (by decide)
    | with_reducible exact hk
    | with_reducible exact Keeps.refl _ _
    | with_reducible apply State.event_keeps
    | with_reducible apply State.raise_keeps
    | with_reducible apply State.set_keeps
    | with_reducible apply State.updLdg_keeps
    | with_reducible apply Keeps.ite
    | with_reducible apply Keeps.iteSnd
    | with_reducible apply Keeps.iteFst
    | refine Keeps.sndOf (by assumption) ?_
    | refine Keeps.fstOf (by assumption) ?_
    | with_reducible assumption
    | with_reducible exact fun _ w => w
    | with_reducible (intro _)
    | split
    | extract_lets
    | dsimp +zetaDelta only

theorem State.checkStale_keeps  {m₀ : Nat} {u₀ s : State} (hk : Keeps m₀ u₀ s) (hm : Parts m₀ 2097677 := by first | decide | exact Parts.sub (by assumption) (by decide)) : Keeps m₀ u₀ (State.checkStale s) := by
  unfold State.checkStale
  try extract_lets
  repeat' first
    | exact Parts.sub hm (by decide)
    | with_reducible exact hk
    | with_reducible exact Keeps.refl _ _
    | with_reducible apply State.event_keeps
    | with_reducible apply State.setB_keeps
    | with_reducible apply Keeps.ite
    | with_reducible apply Keeps.iteSnd
    | with_reducible apply Keeps.iteFst
    | refine Keeps.sndOf (by assumption) ?_
    | refine Keeps.fstOf (by assumption) ?_
    | with_reducible assumption
    | with_reducible exact fun _ w => w
    | with_reducible (intro _)
    | split
    | extract_lets
    | dsimp +zetaDelta only

theorem State.dropAbsent_keeps  {m₀ : Nat} {u₀ s : State} (hk : Keeps m₀ u₀ s) (hm : Parts m₀ 2155021 := by first | decide | exact Parts.sub (by assumption) (by decide)) : Keeps m₀ u₀ (State.dropAbsent s) := by
  unfold State.dropAbsent
  try extract_lets
  repeat' first
    | exact Parts.sub hm (by decide)
    | with_reducible exact hk
    | with_reducible exact Keeps.refl _ _
    | with_reducible apply State.event_keeps
    | with_reducible apply State.htAbandon_keeps
    | with_reducible apply State.set_keeps
    | with_reducible apply State.updLdg_keeps
    | with_reducible apply Keeps.foldl
    | with_reducible apply Keeps.foldlFst
    | with_reducible apply Keeps.foldlSnd
    | with_reducible apply Keeps.ite
    | with_reducible apply Keeps.iteSnd
    | with_reducible apply Keeps.iteFst
    | refine Keeps.sndOf (by assumption) ?_
    | refine Keeps.fstOf (by assumption) ?_
    | with_reducible assumption
    | with_reducible exact fun _ w => w
    | with_reducible (intro _)
    | split
    | extract_lets
    | dsimp +zetaDelta only

theorem State.rehAbandon_keeps  {m₀ : Nat} {u₀ s : State} (hk : Keeps m₀ u₀ s) (hm : Parts m₀ 2109965 := by first | decide | exact Parts.sub (by assumption) (by decide)) : Keeps m₀ u₀ (State.rehAbandon s) := by
  unfold State.rehAbandon
  try extract_lets
  repeat' first
    | exact Parts.sub hm (by decide)
    | with_reducible exact hk
    | with_reducible exact Keeps.refl _ _
    | with_reducible apply State.cancelTasks_keeps
    | with_reducible apply State.event_keeps
    | with_reducible apply State.set_keeps
    | with_reducible apply State.setB_keeps
    | with_reducible apply State.updLdg_keeps
    | with_reducible apply Keeps.ite
    | with_reducible apply Keeps.iteSnd
    | with_reducible apply Keeps.iteFst
    | refine Keeps.sndOf (by assumption) ?_
    | refine Keeps.fstOf (by assumption) ?_
    | with_reducible assumption
    | with_reducible exact fun _ w => w
    | with_reducible (intro _)
    | split
    | extract_lets
    | dsimp +zetaDelta only

theorem State.closeFlash_keeps  {m₀ : Nat} {u₀ s : State} (hk : Keeps m₀ u₀ s) (hm : Parts m₀ 2105869 := by first | decide | exact Parts.sub (by assumption) (by decide)) : Keeps m₀ u₀ (State.closeFlash s) := by
  unfold State.closeFlash
  try extract_lets
  repeat' first
    | exact Parts.sub hm (by decide)
    | with_reducible exact hk
    | with_reducible exact Keeps.refl _ _
    | with_reducible apply State.event_keeps
    | with_reducible apply State.set_keeps
    | with_reducible apply State.setB_keeps
    | with_reducible apply State.updLdg_keeps
    | with_reducible apply Keeps.ite
    | with_reducible apply Keeps.iteSnd
    | with_reducible apply Keeps.iteFst
    | refine Keeps.sndOf (by assumption) ?_
    | refine Keeps.fstOf (by assumption) ?_
    | with_reducible assumption
    | with_reducible exact fun _ w => w
    | with_reducible (intro _)
    | split
    | extract_lets
    | dsimp +zetaDelta only

theorem State.showClose_keeps (f : CloseFig) {m₀ : Nat} {u₀ s : State} (hk : Keeps m₀ u₀ s) (hm : Parts m₀ 1 := by first | decide | exact Parts.sub (by assumption) (by decide)) : Keeps m₀ u₀ (State.showClose s f) := by
  unfold State.showClose
  try extract_lets
  repeat' first
    | exact Parts.sub hm (by decide)
    | with_reducible exact hk
    | with_reducible exact Keeps.refl _ _
    | with_reducible apply State.set_keeps
    | with_reducible apply Keeps.foldl
    | with_reducible apply Keeps.foldlFst
    | with_reducible apply Keeps.foldlSnd
    | with_reducible apply Keeps.ite
    | with_reducible apply Keeps.iteSnd
    | with_reducible apply Keeps.iteFst
    | refine Keeps.sndOf (by assumption) ?_
    | refine Keeps.fstOf (by assumption) ?_
    | with_reducible assumption
    | with_reducible exact fun _ w => w
    | with_reducible (intro _)
    | split
    | extract_lets
    | dsimp +zetaDelta only

theorem State.showDeficit_keeps (d : Nat) {m₀ : Nat} {u₀ s : State} (hk : Keeps m₀ u₀ s) (hm : Parts m₀ 2105869 := by first | decide | exact Parts.sub (by assumption) (by decide)) : Keeps m₀ u₀ (State.showDeficit s d) := by
  unfold State.showDeficit
  try extract_lets
  repeat' first
    | exact Parts.sub hm (by decide)
    | with_reducible exact hk
    | with_reducible exact Keeps.refl _ _
    | with_reducible apply State.event_keeps
    | with_reducible apply State.raise_keeps
    | with_reducible apply State.setB_keeps
    | with_reducible apply State.updLdg_keeps
    | with_reducible apply Keeps.ite
    | with_reducible apply Keeps.iteSnd
    | with_reducible apply Keeps.iteFst
    | refine Keeps.sndOf (by assumption) ?_
    | refine Keeps.fstOf (by assumption) ?_
    | with_reducible assumption
    | with_reducible exact fun _ w => w
    | with_reducible (intro _)
    | split
    | extract_lets
    | dsimp +zetaDelta only

theorem State.closeLedger_keeps  {m₀ : Nat} {u₀ s : State} (hk : Keeps m₀ u₀ s) (hm : Parts m₀ 2159117 := by first | decide | exact Parts.sub (by assumption) (by decide)) : Keeps m₀ u₀ (State.closeLedger s) := by
  unfold State.closeLedger
  try extract_lets
  repeat' first
    | exact Parts.sub hm (by decide)
    | with_reducible exact hk
    | with_reducible exact Keeps.refl _ _
    | with_reducible apply State.checkStale_keeps
    | with_reducible apply State.closeFlash_keeps
    | with_reducible apply State.dropAbsent_keeps
    | with_reducible apply State.enterZone_keeps
    | with_reducible apply State.htAbandon_keeps
    | with_reducible apply State.rehAbandon_keeps
    | with_reducible apply State.showClose_keeps
    | with_reducible apply State.showDeficit_keeps
    | with_reducible apply State.updLdg_keeps
    | with_reducible apply Keeps.ite
    | with_reducible apply Keeps.iteSnd
    | with_reducible apply Keeps.iteFst
    | refine Keeps.sndOf (by assumption) ?_
    | refine Keeps.fstOf (by assumption) ?_
    | with_reducible assumption
    | with_reducible exact fun _ w => w
    | with_reducible (intro _)
    | split
    | extract_lets
    | dsimp +zetaDelta only

theorem State.publishCredit_keeps (void : Bool) {m₀ : Nat} {u₀ s : State} (hk : Keeps m₀ u₀ s) (hm : Parts m₀ 2105869 := by first | decide | exact Parts.sub (by assumption) (by decide)) : Keeps m₀ u₀ (State.publishCredit s void) := by
  unfold State.publishCredit
  try extract_lets
  repeat' first
    | exact Parts.sub hm (by decide)
    | with_reducible exact hk
    | with_reducible exact Keeps.refl _ _
    | with_reducible apply State.publish_keeps
    | with_reducible apply State.showZone_keeps
    | with_reducible apply State.updLdg_keeps
    | with_reducible apply Keeps.foldl
    | with_reducible apply Keeps.foldlFst
    | with_reducible apply Keeps.foldlSnd
    | with_reducible apply Keeps.ite
    | with_reducible apply Keeps.iteSnd
    | with_reducible apply Keeps.iteFst
    | refine Keeps.sndOf (by assumption) ?_
    | refine Keeps.fstOf (by assumption) ?_
    | with_reducible assumption
    | with_reducible exact fun _ w => w
    | with_reducible (intro _)
    | split
    | extract_lets
    | dsimp +zetaDelta only

theorem State.ldgBoundary_keeps  {m₀ : Nat} {u₀ s : State} (hk : Keeps m₀ u₀ s) (hm : Parts m₀ 2155021 := by first | decide | exact Parts.sub (by assumption) (by decide)) : Keeps m₀ u₀ (State.ldgBoundary s) := by
  unfold State.ldgBoundary
  try extract_lets
  repeat' first
    | exact Parts.sub hm (by decide)
    | with_reducible exact hk
    | with_reducible exact Keeps.refl _ _
    | with_reducible apply State.htAbandon_keeps
    | with_reducible apply State.set_keeps
    | with_reducible apply State.updLdg_keeps
    | with_reducible apply Keeps.foldl
    | with_reducible apply Keeps.foldlFst
    | with_reducible apply Keeps.foldlSnd
    | with_reducible apply Keeps.ite
    | with_reducible apply Keeps.iteSnd
    | with_reducible apply Keeps.iteFst
    | refine Keeps.sndOf (by assumption) ?_
    | refine Keeps.fstOf (by assumption) ?_
    | with_reducible assumption
    | with_reducible exact fun _ w => w
    | with_reducible (intro _)
    | split
    | extract_lets
    | dsimp +zetaDelta only

end Sys2Proof.Machine
end

