-- ==== Sys2Proof/Laws/Keeps/Cache.lean ====
section
/-! SUPPORT. The operations of Cache keep the queue and a sound state. -/

set_option Elab.async false

namespace Sys2Proof.Machine

set_option linter.unreachableTactic false
set_option linter.unusedTactic false
set_option linter.unusedVariables false

theorem State.layRanks_keeps  {m₀ : Nat} {u₀ s : State} (hk : Keeps m₀ u₀ s) (hm : Parts m₀ 1 := by first | decide | exact Parts.sub (by assumption) (by decide)) : Keeps m₀ u₀ (State.layRanks s) := by
  unfold State.layRanks
  try extract_lets
  repeat' first
    | exact Parts.sub hm (by decide)
    | with_reducible exact hk
    | with_reducible exact Keeps.refl _ _
    | with_reducible apply State.set_keeps
    | with_reducible apply Keeps.foldl
    | with_reducible apply Keeps.foldlFst
    | with_reducible apply Keeps.foldlSnd
    | with_reducible apply Keeps.ite
    | with_reducible apply Keeps.iteSnd
    | with_reducible apply Keeps.iteFst
    | refine Keeps.sndOf (by assumption) ?_
    | refine Keeps.fstOf (by assumption) ?_
    | with_reducible assumption
    | with_reducible exact fun _ w => w
    | with_reducible (intro _)
    | split
    | extract_lets
    | dsimp +zetaDelta only

theorem execDramTraining_keeps (dimms : List Dimm) (speeds : List (BitVec 2)) {m₀ : Nat} {u₀ s : State} (hk : Keeps m₀ u₀ s) (hm : Parts m₀ 2425357 := by first | decide | exact Parts.sub (by assumption) (by decide)) : KeepsOut m₀ u₀ (execDramTraining dimms speeds s) := by
  unfold execDramTraining
  try extract_lets
  repeat' first
    | exact Parts.sub hm (by decide)
    | with_reducible exact hk
    | with_reducible exact Keeps.refl _ _
    | with_reducible apply State.event_keeps
    | with_reducible apply State.layRanks_keeps
    | with_reducible apply State.raise_keeps
    | with_reducible apply State.set_keeps
    | with_reducible apply State.setB_keeps
    | with_reducible apply State.updDrn_keeps
    | with_reducible apply State.updRst_keeps
    | with_reducible apply ok_keeps
    | with_reducible apply Keeps.foldl
    | with_reducible apply Keeps.foldlFst
    | with_reducible apply Keeps.foldlSnd
    | with_reducible apply KeepsOut.next
    | with_reducible apply Keeps.ite
    | with_reducible apply KeepsOut.ite
    | with_reducible apply Keeps.iteSnd
    | with_reducible apply Keeps.iteFst
    | refine Keeps.sndOf (by assumption) ?_
    | refine Keeps.fstOf (by assumption) ?_
    | with_reducible assumption
    | with_reducible exact fun _ w => w
    | with_reducible (intro _)
    | split
    | extract_lets
    | dsimp +zetaDelta only

theorem execDramReadComplete_keeps (la : BitVec 40) (err : Codeword) {m₀ : Nat} {u₀ s : State} (hk : Keeps m₀ u₀ s) (hm : Parts m₀ 2365967 := by first | decide | exact Parts.sub (by assumption) (by decide)) : KeepsOut m₀ u₀ (execDramReadComplete la err s) := by
  unfold execDramReadComplete
  try extract_lets
  repeat' first
    | exact Parts.sub hm (by decide)
    | with_reducible exact hk
    | with_reducible exact Keeps.refl _ _
    | with_reducible apply State.dramMove_keeps
    | with_reducible apply State.dramRead_keeps
    | with_reducible apply State.ueLine_keeps
    | with_reducible apply ok_keeps
    | with_reducible apply KeepsOut.next
    | with_reducible apply Keeps.ite
    | with_reducible apply KeepsOut.ite
    | with_reducible apply Keeps.iteSnd
    | with_reducible apply Keeps.iteFst
    | refine Keeps.sndOf (by assumption) ?_
    | refine Keeps.fstOf (by assumption) ?_
    | with_reducible assumption
    | with_reducible exact fun _ w => w
    | with_reducible (intro _)
    | split
    | extract_lets
    | dsimp +zetaDelta only

theorem execCeWindowExpiry_keeps  {m₀ : Nat} {u₀ s : State} (hk : Keeps m₀ u₀ s) (hm : Parts m₀ 2049 := by first | decide | exact Parts.sub (by assumption) (by decide)) : KeepsOut m₀ u₀ (execCeWindowExpiry s) := by
  unfold execCeWindowExpiry
  try extract_lets
  repeat' first
    | exact Parts.sub hm (by decide)
    | with_reducible exact hk
    | with_reducible exact Keeps.refl _ _
    | with_reducible apply State.set_keeps
    | with_reducible apply State.updCch_keeps
    | with_reducible apply ok_keeps
    | with_reducible apply Keeps.foldl
    | with_reducible apply Keeps.foldlFst
    | with_reducible apply Keeps.foldlSnd
    | with_reducible apply KeepsOut.next
    | with_reducible apply Keeps.ite
    | with_reducible apply KeepsOut.ite
    | with_reducible apply Keeps.iteSnd
    | with_reducible apply Keeps.iteFst
    | refine Keeps.sndOf (by assumption) ?_
    | refine Keeps.fstOf (by assumption) ?_
    | with_reducible assumption
    | with_reducible exact fun _ w => w
    | with_reducible exact fun _ w => Store.wf_put w _ _
    | with_reducible exact fun _ w => Store.wf_put (Store.wf_put w _ _) _ _
    | with_reducible exact fun _ w => Store.wf_keep w _
    | with_reducible exact fun _ _ => Store.wf_nil
    | with_reducible (intro _)
    | split
    | extract_lets
    | dsimp +zetaDelta only

theorem execRetireCommand_keeps (n : BitVec 5) {m₀ : Nat} {u₀ s : State} (hk : Keeps m₀ u₀ s) (hm : Parts m₀ 2099727 := by first | decide | exact Parts.sub (by assumption) (by decide)) : KeepsOut m₀ u₀ (execRetireCommand n s) := by
  unfold execRetireCommand
  try extract_lets
  repeat' first
    | exact Parts.sub hm (by decide)
    | with_reducible exact hk
    | with_reducible exact Keeps.refl _ _
    | with_reducible apply State.retireRequest_keeps
    | with_reducible apply ok_keeps
    | with_reducible apply KeepsOut.next
    | with_reducible apply Keeps.ite
    | with_reducible apply KeepsOut.ite
    | with_reducible apply Keeps.iteSnd
    | with_reducible apply Keeps.iteFst
    | refine Keeps.sndOf (by assumption) ?_
    | refine Keeps.fstOf (by assumption) ?_
    | with_reducible assumption
    | with_reducible exact fun _ w => w
    | with_reducible (intro _)
    | split
    | extract_lets
    | dsimp +zetaDelta only

theorem execRetirementBegin_keeps  {m₀ : Nat} {u₀ s : State} (hk : Keeps m₀ u₀ s) (hm : Parts m₀ 2099725 := by first | decide | exact Parts.sub (by assumption) (by decide)) : KeepsOut m₀ u₀ (execRetirementBegin s) := by
  unfold execRetirementBegin
  try extract_lets
  repeat' first
    | exact Parts.sub hm (by decide)
    | with_reducible exact hk
    | with_reducible exact Keeps.refl _ _
    | with_reducible apply State.event_keeps
    | with_reducible apply State.retireRefuse_keeps
    | with_reducible apply State.set_keeps
    | with_reducible apply State.setB_keeps
    | with_reducible apply State.updCch_keeps
    | with_reducible apply ok_keeps
    | with_reducible apply KeepsOut.next
    | with_reducible apply Keeps.ite
    | with_reducible apply KeepsOut.ite
    | with_reducible apply Keeps.iteSnd
    | with_reducible apply Keeps.iteFst
    | refine Keeps.sndOf (by assumption) ?_
    | refine Keeps.fstOf (by assumption) ?_
    | with_reducible assumption
    | with_reducible exact fun _ w => w
    | with_reducible exact fun _ w => Store.wf_put w _ _
    | with_reducible exact fun _ w => Store.wf_put (Store.wf_put w _ _) _ _
    | with_reducible exact fun _ w => Store.wf_keep w _
    | with_reducible exact fun _ _ => Store.wf_nil
    | with_reducible (intro _)
    | split
    | extract_lets
    | dsimp +zetaDelta only

theorem execRetirementCutover_keeps  {m₀ : Nat} {u₀ s : State} (hk : Keeps m₀ u₀ s) (hm : Parts m₀ 2099757 := by first | decide | exact Parts.sub (by assumption) (by decide)) : KeepsOut m₀ u₀ (execRetirementCutover s) := by
  unfold execRetirementCutover
  try extract_lets
  repeat' first
    | exact Parts.sub hm (by decide)
    | with_reducible exact hk
    | with_reducible exact Keeps.refl _ _
    | with_reducible apply State.event_keeps
    | with_reducible apply State.flashWrite_keeps
    | with_reducible apply State.set_keeps
    | with_reducible apply State.setB_keeps
    | with_reducible apply State.updCch_keeps
    | with_reducible apply ok_keeps
    | with_reducible apply Keeps.foldl
    | with_reducible apply Keeps.foldlFst
    | with_reducible apply Keeps.foldlSnd
    | with_reducible apply KeepsOut.next
    | with_reducible apply Keeps.ite
    | with_reducible apply KeepsOut.ite
    | with_reducible apply Keeps.iteSnd
    | with_reducible apply Keeps.iteFst
    | refine Keeps.sndOf (by assumption) ?_
    | refine Keeps.fstOf (by assumption) ?_
    | with_reducible assumption
    | with_reducible exact fun _ w => w
    | exact fun _ w => Store.wf_foldlPut _ _ _ (Store.wf_keep w _)
    | with_reducible exact fun _ w => Store.wf_put w _ _
    | with_reducible exact fun _ w => Store.wf_put (Store.wf_put w _ _) _ _
    | with_reducible exact fun _ w => Store.wf_keep w _
    | with_reducible exact fun _ _ => Store.wf_nil
    | with_reducible (intro _)
    | split
    | extract_lets
    | dsimp +zetaDelta only

theorem execXlateStart_keeps (hi : Word) {m₀ : Nat} {u₀ s : State} (hk : Keeps m₀ u₀ s) (hm : Parts m₀ 1 := by first | decide | exact Parts.sub (by assumption) (by decide)) : KeepsOut m₀ u₀ (execXlateStart hi s) := by
  unfold execXlateStart
  try extract_lets
  repeat' first
    | exact Parts.sub hm (by decide)
    | with_reducible exact hk
    | with_reducible exact Keeps.refl _ _
    | with_reducible apply State.set_keeps
    | with_reducible apply State.setB_keeps
    | with_reducible apply ok_keeps
    | with_reducible apply KeepsOut.next
    | with_reducible apply Keeps.ite
    | with_reducible apply KeepsOut.ite
    | with_reducible apply Keeps.iteSnd
    | with_reducible apply Keeps.iteFst
    | refine Keeps.sndOf (by assumption) ?_
    | refine Keeps.fstOf (by assumption) ?_
    | with_reducible assumption
    | with_reducible exact fun _ w => w
    | with_reducible (intro _)
    | split
    | extract_lets
    | dsimp +zetaDelta only

end Sys2Proof.Machine
end

