-- ==== Sys2Proof/Laws/Keeps/Digest.lean ====
section
/-! SUPPORT. The operations of Digest keep the queue and a sound state. -/

set_option Elab.async false

namespace Sys2Proof.Machine

set_option linter.unreachableTactic false
set_option linter.unusedTactic false
set_option linter.unusedVariables false

theorem State.digestStart_keeps (g : Agent) (alg : BitVec 2) (keyslot : BitVec 5) {m₀ : Nat} {u₀ s : State} (hk : Keeps m₀ u₀ s) (hm : Parts m₀ 2097741 := by first | decide | exact Parts.sub (by assumption) (by decide)) : Keeps m₀ u₀ (State.digestStart s g alg keyslot) := by
  unfold State.digestStart
  try dsimp only
  repeat' first
    | exact Parts.sub hm (by decide)
    | with_reducible exact hk
    | with_reducible exact Keeps.refl _ _
    | with_reducible apply State.dgeAsk_keeps
    | with_reducible apply State.dgeEnd_keeps
    | with_reducible apply State.dgeRelease_keeps
    | with_reducible apply State.dgeStatus_keeps
    | with_reducible apply State.set_keeps
    | with_reducible apply State.updDge_keeps
    | exact fun _ w => w
    | with_reducible (intro _)
    | split

theorem State.digestResume_keeps (g : Agent) (n : BitVec 2) {m₀ : Nat} {u₀ s : State} (hk : Keeps m₀ u₀ s) (hm : Parts m₀ 2097741 := by first | decide | exact Parts.sub (by assumption) (by decide)) : Keeps m₀ u₀ (State.digestResume s g n) := by
  unfold State.digestResume
  try dsimp only
  repeat' first
    | exact Parts.sub hm (by decide)
    | with_reducible exact hk
    | with_reducible exact Keeps.refl _ _
    | with_reducible apply State.dgeAsk_keeps
    | with_reducible apply State.dgeEnd_keeps
    | with_reducible apply State.dgeExpire_keeps
    | with_reducible apply State.dgeRelease_keeps
    | with_reducible apply State.dgeStatus_keeps
    | exact fun _ w => w
    | with_reducible (intro _)
    | split

theorem State.digestRequest_keeps (x : Agent × Sum (BitVec 2 × BitVec 5) (BitVec 2)) {m₀ : Nat} {u₀ s : State} (hk : Keeps m₀ u₀ s) (hm : Parts m₀ 2097741 := by first | decide | exact Parts.sub (by assumption) (by decide)) : Keeps m₀ u₀ (State.digestRequest s x) := by
  unfold State.digestRequest
  try dsimp only
  repeat' first
    | exact Parts.sub hm (by decide)
    | with_reducible exact hk
    | with_reducible exact Keeps.refl _ _
    | with_reducible apply State.digestResume_keeps
    | with_reducible apply State.digestStart_keeps
    | exact fun _ w => w
    | with_reducible (intro _)
    | split

theorem execDigestStart_keeps (g : Agent) (alg : BitVec 2) (keyslot : BitVec 5) (also : List (Agent × Sum (BitVec 2 × BitVec 5) (BitVec 2))) {m₀ : Nat} {u₀ s : State} (hk : Keeps m₀ u₀ s) (hm : Parts m₀ 2097741 := by first | decide | exact Parts.sub (by assumption) (by decide)) : KeepsOut m₀ u₀ (execDigestStart g alg keyslot also s) := by
  unfold execDigestStart
  try dsimp only
  repeat' first
    | exact Parts.sub hm (by decide)
    | with_reducible exact hk
    | with_reducible exact Keeps.refl _ _
    | with_reducible apply State.digestRequest_keeps
    | with_reducible apply ok_keeps
    | with_reducible apply Keeps.foldl
    | with_reducible apply Keeps.foldlFst
    | with_reducible apply Keeps.foldlSnd
    | with_reducible apply KeepsOut.next
    | exact fun _ w => w
    | with_reducible (intro _)
    | split

theorem execDigestResume_keeps (g : Agent) (n : BitVec 2) (also : List (Agent × Sum (BitVec 2 × BitVec 5) (BitVec 2))) {m₀ : Nat} {u₀ s : State} (hk : Keeps m₀ u₀ s) (hm : Parts m₀ 2097741 := by first | decide | exact Parts.sub (by assumption) (by decide)) : KeepsOut m₀ u₀ (execDigestResume g n also s) := by
  unfold execDigestResume
  try dsimp only
  repeat' first
    | exact Parts.sub hm (by decide)
    | with_reducible exact hk
    | with_reducible exact Keeps.refl _ _
    | with_reducible apply State.digestRequest_keeps
    | with_reducible apply ok_keeps
    | with_reducible apply Keeps.foldl
    | with_reducible apply Keeps.foldlFst
    | with_reducible apply Keeps.foldlSnd
    | with_reducible apply KeepsOut.next
    | exact fun _ w => w
    | with_reducible (intro _)
    | split

theorem execDigestAbort_keeps (g : Agent) {m₀ : Nat} {u₀ s : State} (hk : Keeps m₀ u₀ s) (hm : Parts m₀ 65 := by first | decide | exact Parts.sub (by assumption) (by decide)) : KeepsOut m₀ u₀ (execDigestAbort g s) := by
  unfold execDigestAbort
  try dsimp only
  repeat' first
    | exact Parts.sub hm (by decide)
    | with_reducible exact hk
    | with_reducible exact Keeps.refl _ _
    | with_reducible apply State.dgeDrop_keeps
    | with_reducible apply ok_keeps
    | with_reducible apply KeepsOut.next
    | exact fun _ w => w
    | with_reducible (intro _)
    | split

theorem execDigestDataWrite_keeps (g : Agent) (w : Word) {m₀ : Nat} {u₀ s : State} (hk : Keeps m₀ u₀ s) (hm : Parts m₀ 65 := by first | decide | exact Parts.sub (by assumption) (by decide)) : KeepsOut m₀ u₀ (execDigestDataWrite g w s) := by
  unfold execDigestDataWrite
  try dsimp only
  repeat' first
    | exact Parts.sub hm (by decide)
    | with_reducible exact hk
    | with_reducible exact Keeps.refl _ _
    | with_reducible apply State.dgeEnd_keeps
    | with_reducible apply State.dgeRelease_keeps
    | with_reducible apply State.dgeStatus_keeps
    | with_reducible apply State.set_keeps
    | with_reducible apply State.updDge_keeps
    | with_reducible apply ok_keeps
    | with_reducible apply KeepsOut.next
    | exact fun _ w => w
    | with_reducible (intro _)
    | split

theorem State.dgeFill_keeps  {m₀ : Nat} {u₀ s : State} (hk : Keeps m₀ u₀ s) (hm : Parts m₀ 64 := by first | decide | exact Parts.sub (by assumption) (by decide)) : Keeps m₀ u₀ (State.dgeFill s) := by
  unfold State.dgeFill
  try dsimp only
  repeat' first
    | exact Parts.sub hm (by decide)
    | with_reducible exact hk
    | with_reducible exact Keeps.refl _ _
    | with_reducible apply State.updDge_keeps
    | exact fun _ w => w
    | with_reducible (intro _)
    | split

theorem execDigestBlockDone_keeps  {m₀ : Nat} {u₀ s : State} (hk : Keeps m₀ u₀ s) (hm : Parts m₀ 2097741 := by first | decide | exact Parts.sub (by assumption) (by decide)) : KeepsOut m₀ u₀ (execDigestBlockDone s) := by
  unfold execDigestBlockDone
  try dsimp only
  repeat' first
    | exact Parts.sub hm (by decide)
    | with_reducible exact hk
    | with_reducible exact Keeps.refl _ _
    | with_reducible apply State.dgeFill_keeps
    | with_reducible apply State.dgeRelease_keeps
    | with_reducible apply State.dgeResult_keeps
    | with_reducible apply State.dgeYield_keeps
    | with_reducible apply State.updDge_keeps
    | with_reducible apply ok_keeps
    | with_reducible apply KeepsOut.next
    | exact fun _ w => w
    | with_reducible (intro _)
    | split

theorem execDigestOwnerTimeout_keeps  {m₀ : Nat} {u₀ s : State} (hk : Keeps m₀ u₀ s) (hm : Parts m₀ 65 := by first | decide | exact Parts.sub (by assumption) (by decide)) : KeepsOut m₀ u₀ (execDigestOwnerTimeout s) := by
  unfold execDigestOwnerTimeout
  try dsimp only
  repeat' first
    | exact Parts.sub hm (by decide)
    | with_reducible exact hk
    | with_reducible exact Keeps.refl _ _
    | with_reducible apply State.dgeEnd_keeps
    | with_reducible apply State.dgeRelease_keeps
    | with_reducible apply ok_keeps
    | with_reducible apply KeepsOut.next
    | exact fun _ w => w
    | with_reducible (intro _)
    | split

theorem execDigestContextExpiry_keeps (n : BitVec 2) {m₀ : Nat} {u₀ s : State} (hk : Keeps m₀ u₀ s) (hm : Parts m₀ 65 := by first | decide | exact Parts.sub (by assumption) (by decide)) : KeepsOut m₀ u₀ (execDigestContextExpiry n s) := by
  unfold execDigestContextExpiry
  try dsimp only
  repeat' first
    | exact Parts.sub hm (by decide)
    | with_reducible exact hk
    | with_reducible exact Keeps.refl _ _
    | with_reducible apply State.dgeExpire_keeps
    | with_reducible apply ok_keeps
    | with_reducible apply KeepsOut.next
    | exact fun _ w => w
    | with_reducible (intro _)
    | split

theorem State.dgeImported_keeps (n : Nat) (intact : Bool) {m₀ : Nat} {u₀ s : State} (hk : Keeps m₀ u₀ s) (hm : Parts m₀ 2097741 := by first | decide | exact Parts.sub (by assumption) (by decide)) : Keeps m₀ u₀ (State.dgeImported s n intact) := by
  unfold State.dgeImported
  try dsimp only
  repeat' first
    | exact Parts.sub hm (by decide)
    | with_reducible exact hk
    | with_reducible exact Keeps.refl _ _
    | with_reducible apply State.dgeEnd_keeps
    | with_reducible apply State.dgeFill_keeps
    | with_reducible apply State.dgeFree_keeps
    | with_reducible apply State.dgeRelease_keeps
    | with_reducible apply State.dgeYield_keeps
    | with_reducible apply State.set_keeps
    | with_reducible apply State.updDge_keeps
    | exact fun _ w => w
    | with_reducible (intro _)
    | split

theorem execContextExportImportDone_keeps (intact : Bool) {m₀ : Nat} {u₀ s : State} (hk : Keeps m₀ u₀ s) (hm : Parts m₀ 2097741 := by first | decide | exact Parts.sub (by assumption) (by decide)) : KeepsOut m₀ u₀ (execContextExportImportDone intact s) := by
  unfold execContextExportImportDone
  try dsimp only
  repeat' first
    | exact Parts.sub hm (by decide)
    | with_reducible exact hk
    | with_reducible exact Keeps.refl _ _
    | with_reducible apply State.dgeImported_keeps
    | with_reducible apply State.dgeNext_keeps
    | with_reducible apply State.updDge_keeps
    | with_reducible apply ok_keeps
    | with_reducible apply KeepsOut.next
    | exact fun _ w => w
    | with_reducible (intro _)
    | split

theorem execImport_keeps (g : Agent) (slot : BitVec 5) (key : BitVec 16) {m₀ : Nat} {u₀ s : State} (hk : Keeps m₀ u₀ s) (hm : Parts m₀ 2097773 := by first | decide | exact Parts.sub (by assumption) (by decide)) : KeepsOut m₀ u₀ (execImport g slot key s) := by
  unfold execImport
  try dsimp only
  repeat' first
    | exact Parts.sub hm (by decide)
    | with_reducible exact hk
    | with_reducible exact Keeps.refl _ _
    | with_reducible apply State.keyCell_keeps
    | with_reducible apply State.keyRefuse_keeps
    | with_reducible apply ok_keeps
    | with_reducible apply KeepsOut.next
    | exact fun _ w => w
    | with_reducible (intro _)
    | split

theorem execExport_keeps (g : Agent) (slot : BitVec 5) (key : BitVec 16) {m₀ : Nat} {u₀ s : State} (hk : Keeps m₀ u₀ s) (hm : Parts m₀ 1 := by first | decide | exact Parts.sub (by assumption) (by decide)) : KeepsOut m₀ u₀ (execExport g slot key s) := by
  unfold execExport
  try dsimp only
  repeat' first
    | exact Parts.sub hm (by decide)
    | with_reducible exact hk
    | with_reducible exact Keeps.refl _ _
    | with_reducible apply State.set_keeps
    | with_reducible apply State.setB_keeps
    | with_reducible apply State.setKeyIo_keeps
    | with_reducible apply ok_keeps
    | with_reducible apply KeepsOut.next
    | exact fun _ w => w
    | with_reducible (intro _)
    | split

theorem execLock_keeps (g : Agent) (slot : BitVec 5) (key : BitVec 16) {m₀ : Nat} {u₀ s : State} (hk : Keeps m₀ u₀ s) (hm : Parts m₀ 2097741 := by first | decide | exact Parts.sub (by assumption) (by decide)) : KeepsOut m₀ u₀ (execLock g slot key s) := by
  unfold execLock
  try dsimp only
  repeat' first
    | exact Parts.sub hm (by decide)
    | with_reducible exact hk
    | with_reducible exact Keeps.refl _ _
    | with_reducible apply State.keyDone_keeps
    | with_reducible apply State.keyRefuse_keeps
    | with_reducible apply State.setSlot_keeps
    | with_reducible apply ok_keeps
    | with_reducible apply KeepsOut.next
    | exact fun _ w => w
    | with_reducible (intro _)
    | split

theorem execErase_keeps (g : Agent) (slot : BitVec 5) (key : BitVec 16) {m₀ : Nat} {u₀ s : State} (hk : Keeps m₀ u₀ s) (hm : Parts m₀ 2097773 := by first | decide | exact Parts.sub (by assumption) (by decide)) : KeepsOut m₀ u₀ (execErase g slot key s) := by
  unfold execErase
  try dsimp only
  repeat' first
    | exact Parts.sub hm (by decide)
    | with_reducible exact hk
    | with_reducible exact Keeps.refl _ _
    | with_reducible apply State.keyCell_keeps
    | with_reducible apply State.keyRefuse_keeps
    | with_reducible apply ok_keeps
    | with_reducible apply KeepsOut.next
    | exact fun _ w => w
    | with_reducible (intro _)
    | split

theorem execCompare_keeps (g : Agent) (slot : BitVec 5) (key : BitVec 16) {m₀ : Nat} {u₀ s : State} (hk : Keeps m₀ u₀ s) (hm : Parts m₀ 2097677 := by first | decide | exact Parts.sub (by assumption) (by decide)) : KeepsOut m₀ u₀ (execCompare g slot key s) := by
  unfold execCompare
  try dsimp only
  repeat' first
    | exact Parts.sub hm (by decide)
    | with_reducible exact hk
    | with_reducible exact Keeps.refl _ _
    | with_reducible apply State.keyDone_keeps
    | with_reducible apply State.keyRefuse_keeps
    | with_reducible apply ok_keeps
    | with_reducible apply KeepsOut.next
    | exact fun _ w => w
    | with_reducible (intro _)
    | split

theorem execLoadescrow_keeps (g : Agent) (key : BitVec 16) {m₀ : Nat} {u₀ s : State} (hk : Keeps m₀ u₀ s) (hm : Parts m₀ 2097775 := by first | decide | exact Parts.sub (by assumption) (by decide)) : KeepsOut m₀ u₀ (execLoadescrow g key s) := by
  unfold execLoadescrow
  try dsimp only
  repeat' first
    | exact Parts.sub hm (by decide)
    | with_reducible exact hk
    | with_reducible exact Keeps.refl _ _
    | with_reducible apply State.draw_keeps
    | with_reducible apply State.keyCell_keeps
    | with_reducible apply State.keyRefuse_keeps
    | with_reducible apply ok_keeps
    | with_reducible apply KeepsOut.next
    | exact fun _ w => w
    | with_reducible (intro _)
    | split

theorem execKeyOpSeven_keeps (g : Agent) (key : BitVec 16) {m₀ : Nat} {u₀ s : State} (hk : Keeps m₀ u₀ s) (hm : Parts m₀ 1 := by first | decide | exact Parts.sub (by assumption) (by decide)) : KeepsOut m₀ u₀ (execKeyOpSeven g key s) := by
  unfold execKeyOpSeven
  try dsimp only
  repeat' first
    | exact Parts.sub hm (by decide)
    | with_reducible exact hk
    | with_reducible exact Keeps.refl _ _
    | with_reducible apply State.set_keeps
    | with_reducible apply ok_keeps
    | with_reducible apply KeepsOut.next
    | exact fun _ w => w
    | with_reducible (intro _)
    | split

theorem State.loadSlot_keeps (table : List Byte) (n : Nat) {m₀ : Nat} {u₀ s : State} (hk : Keeps m₀ u₀ s) (hm : Parts m₀ 2097740 := by first | decide | exact Parts.sub (by assumption) (by decide)) : Keeps m₀ u₀ (State.loadSlot s table n) := by
  unfold State.loadSlot
  try dsimp only
  repeat' first
    | exact Parts.sub hm (by decide)
    | with_reducible exact hk
    | with_reducible exact Keeps.refl _ _
    | with_reducible apply State.event_keeps
    | with_reducible apply State.setSlot_keeps
    | exact fun _ w => w
    | with_reducible (intro _)
    | split

theorem execKeySlotLoad_keeps  {m₀ : Nat} {u₀ s : State} (hk : Keeps m₀ u₀ s) (hm : Parts m₀ 2097740 := by first | decide | exact Parts.sub (by assumption) (by decide)) : KeepsOut m₀ u₀ (execKeySlotLoad s) := by
  unfold execKeySlotLoad
  try dsimp only
  repeat' first
    | exact Parts.sub hm (by decide)
    | with_reducible exact hk
    | with_reducible exact Keeps.refl _ _
    | with_reducible apply State.loadSlot_keeps
    | with_reducible apply State.updDge_keeps
    | with_reducible apply ok_keeps
    | with_reducible apply Keeps.foldl
    | with_reducible apply Keeps.foldlFst
    | with_reducible apply Keeps.foldlSnd
    | with_reducible apply KeepsOut.next
    | exact fun _ w => w
    | with_reducible (intro _)
    | split

end Sys2Proof.Machine
end

