-- ==== Sys2Proof/Laws/Keeps/LinkOps.lean ====
section
/-! SUPPORT. The operations of LinkOps keep the queue and a sound state. -/

set_option Elab.async false

namespace Sys2Proof.Machine

set_option linter.unreachableTactic false
set_option linter.unusedTactic false
set_option linter.unusedVariables false

theorem State.markRecov_keeps  {m₀ : Nat} {u₀ s : State} (hk : Keeps m₀ u₀ s) (hm : Parts m₀ 524288 := by first | decide | exact Parts.sub (by assumption) (by decide)) : Keeps m₀ u₀ (State.markRecov s) := by
  unfold State.markRecov
  try dsimp only
  repeat' first
    | exact Parts.sub hm (by decide)
    | with_reducible exact hk
    | with_reducible exact Keeps.refl _ _
    | with_reducible apply State.updMlk_keeps
    | exact fun _ w => w
    | with_reducible (intro _)
    | split

theorem State.badLane_keeps (n : Nat) {m₀ : Nat} {u₀ s : State} (hk : Keeps m₀ u₀ s) (hm : Parts m₀ 2097677 := by first | decide | exact Parts.sub (by assumption) (by decide)) : Keeps m₀ u₀ (State.badLane s n) := by
  unfold State.badLane
  try dsimp only
  repeat' first
    | exact Parts.sub hm (by decide)
    | with_reducible exact hk
    | with_reducible exact Keeps.refl _ _
    | with_reducible apply State.event_keeps
    | with_reducible apply State.setB_keeps
    | exact fun _ w => w
    | with_reducible (intro _)
    | split

theorem State.enterAtt_keeps (a : Nat) {m₀ : Nat} {u₀ s : State} (hk : Keeps m₀ u₀ s) (hm : Parts m₀ 524289 := by first | decide | exact Parts.sub (by assumption) (by decide)) : Keeps m₀ u₀ (State.enterAtt s a) := by
  unfold State.enterAtt
  try dsimp only
  repeat' first
    | exact Parts.sub hm (by decide)
    | with_reducible exact hk
    | with_reducible exact Keeps.refl _ _
    | with_reducible apply State.setB_keeps
    | with_reducible apply State.updMlk_keeps
    | with_reducible apply Keeps.foldl
    | with_reducible apply Keeps.foldlFst
    | with_reducible apply Keeps.foldlSnd
    | exact fun _ w => w
    | with_reducible (intro _)
    | split

theorem State.linkClear_keeps  {m₀ : Nat} {u₀ s : State} (hk : Keeps m₀ u₀ s) (hm : Parts m₀ 524289 := by first | decide | exact Parts.sub (by assumption) (by decide)) : Keeps m₀ u₀ (State.linkClear s) := by
  unfold State.linkClear
  try dsimp only
  repeat' first
    | exact Parts.sub hm (by decide)
    | with_reducible exact hk
    | with_reducible exact Keeps.refl _ _
    | with_reducible apply State.set_keeps
    | with_reducible apply State.setB_keeps
    | with_reducible apply State.updMlk_keeps
    | with_reducible apply Keeps.foldl
    | with_reducible apply Keeps.foldlFst
    | with_reducible apply Keeps.foldlSnd
    | exact fun _ w => w
    | with_reducible (intro _)
    | split

theorem State.nextFlit_keeps  {m₀ : Nat} {u₀ s : State} (hk : Keeps m₀ u₀ s) (hm : Parts m₀ 524289 := by first | decide | exact Parts.sub (by assumption) (by decide)) : Keeps m₀ u₀ (State.nextFlit s).2 := by
  unfold State.nextFlit
  try dsimp only
  repeat' first
    | exact Parts.sub hm (by decide)
    | with_reducible exact hk
    | with_reducible exact Keeps.refl _ _
    | with_reducible apply State.count_keeps
    | with_reducible apply State.updMlk_keeps
    | exact fun _ w => w
    | with_reducible (intro _)
    | split

theorem State.emitFrame_keeps (l : List Nat) {m₀ : Nat} {u₀ s : State} (hk : Keeps m₀ u₀ s) (hm : Parts m₀ 2621440 := by first | decide | exact Parts.sub (by assumption) (by decide)) : Keeps m₀ u₀ (State.emitFrame s l) := by
  unfold State.emitFrame
  try dsimp only
  repeat' first
    | exact Parts.sub hm (by decide)
    | with_reducible exact hk
    | with_reducible exact Keeps.refl _ _
    | with_reducible apply State.emit_keeps
    | with_reducible apply State.updMlk_keeps
    | with_reducible apply Keeps.foldl
    | with_reducible apply Keeps.foldlFst
    | with_reducible apply Keeps.foldlSnd
    | exact fun _ w => w
    | with_reducible (intro _)
    | split

theorem State.sendFlit_keeps  {m₀ : Nat} {u₀ s : State} (hk : Keeps m₀ u₀ s) (hm : Parts m₀ 2621443 := by first | decide | exact Parts.sub (by assumption) (by decide)) : Keeps m₀ u₀ (State.sendFlit s) := by
  unfold State.sendFlit
  try dsimp only
  repeat' first
    | exact Parts.sub hm (by decide)
    | with_reducible exact hk
    | with_reducible exact Keeps.refl _ _
    | with_reducible apply State.draw_keeps
    | with_reducible apply State.emitFrame_keeps
    | with_reducible apply State.nextFlit_keeps
    | with_reducible apply State.updMlk_keeps
    | exact fun _ w => w
    | with_reducible (intro _)
    | split

theorem State.linkFlush_keeps {m₀ : Nat} {u : State} : ∀ (n : Nat) {s : State}, Keeps m₀ u s →
    ∀ (hm : Parts m₀ 2621443 := by first | decide | exact Parts.sub (by assumption) (by decide)), Keeps m₀ u (State.linkFlush n s)
  | 0, _, h, _ => h
  | n + 1, s, h, hm => by
    unfold State.linkFlush
    split
    · exact h
    · exact State.linkFlush_keeps n (State.sendFlit_keeps h)

theorem State.linkIdle_keeps  {m₀ : Nat} {u₀ s : State} (hk : Keeps m₀ u₀ s) (hm : Parts m₀ 2621443 := by first | decide | exact Parts.sub (by assumption) (by decide)) : Keeps m₀ u₀ (State.linkIdle s) := by
  unfold State.linkIdle
  try dsimp only
  repeat' first
    | exact Parts.sub hm (by decide)
    | with_reducible exact hk
    | with_reducible exact Keeps.refl _ _
    | with_reducible apply State.linkClear_keeps
    | with_reducible apply State.linkFlush_keeps
    | with_reducible apply State.updMlk_keeps
    | exact fun _ w => w
    | with_reducible (intro _)
    | split

end Sys2Proof.Machine
end

