-- ==== Sys2Proof/Laws/Keeps/MtxOps.lean ====
section
/-! SUPPORT. The operations of MtxOps keep the queue and a sound state. -/

set_option Elab.async false

namespace Sys2Proof.Machine

set_option linter.unreachableTactic false
set_option linter.unusedTactic false
set_option linter.unusedVariables false

theorem State.showPair_keeps  {m₀ : Nat} {u₀ s : State} (hk : Keeps m₀ u₀ s) (hm : Parts m₀ 1 := by first | decide | exact Parts.sub (by assumption) (by decide)) : Keeps m₀ u₀ (State.showPair s) := by
  unfold State.showPair
  try dsimp only
  repeat' first
    | exact Parts.sub hm (by decide)
    | with_reducible exact hk
    | with_reducible exact Keeps.refl _ _
    | with_reducible apply State.set64_keeps
    | with_reducible apply State.setB_keeps
    | exact fun _ w => w
    | with_reducible (intro _)
    | split

theorem State.updPair_keeps (f : PairRec → PairRec) {m₀ : Nat} {u₀ s : State} (hk : Keeps m₀ u₀ s) (hm : Parts m₀ 1048577 := by first | decide | exact Parts.sub (by assumption) (by decide)) : Keeps m₀ u₀ (State.updPair s f) := by
  unfold State.updPair
  try dsimp only
  repeat' first
    | exact Parts.sub hm (by decide)
    | with_reducible exact hk
    | with_reducible exact Keeps.refl _ _
    | with_reducible apply State.showPair_keeps
    | with_reducible apply State.updMtx_keeps
    | exact fun _ w => w
    | with_reducible (intro _)
    | split

theorem State.writePair_keeps (busy : Bool) {m₀ : Nat} {u₀ s : State} (hk : Keeps m₀ u₀ s) (hm : Parts m₀ 3146284 := by first | decide | exact Parts.sub (by assumption) (by decide)) : Keeps m₀ u₀ (State.writePair s busy) := by
  unfold State.writePair
  try dsimp only
  repeat' first
    | exact Parts.sub hm (by decide)
    | with_reducible exact hk
    | with_reducible exact Keeps.refl _ _
    | with_reducible apply State.flashWrite_keeps
    | with_reducible apply State.updMtx_keeps
    | exact fun _ w => w
    | with_reducible (intro _)
    | split

theorem State.loadPair_keeps  {m₀ : Nat} {u₀ s : State} (hk : Keeps m₀ u₀ s) (hm : Parts m₀ 1048577 := by first | decide | exact Parts.sub (by assumption) (by decide)) : Keeps m₀ u₀ (State.loadPair s) := by
  unfold State.loadPair
  try dsimp only
  repeat' first
    | exact Parts.sub hm (by decide)
    | with_reducible exact hk
    | with_reducible exact Keeps.refl _ _
    | with_reducible apply State.showPair_keeps
    | with_reducible apply State.updMtx_keeps
    | exact fun _ w => w
    | with_reducible (intro _)
    | split

theorem Keeps.mirror {m₀ : Nat} {u s : State} (h : Keeps m₀ u s) (a : Mlk) (b : Mtx)
    (hm : Parts m₀ 1572864 := by first | decide | exact Parts.sub (by assumption) (by decide)) :
    Keeps m₀ u { s with mlk := a, mtx := b } := State.updMtx_keeps (State.updMlk_keeps h fun _ => a) fun _ => b

theorem State.mirrorReset_keeps {m₀ : Nat} {u s : State} (h : Keeps m₀ u s) (hm : Parts m₀ 1572865 := by first | decide | exact Parts.sub (by assumption) (by decide)) : Keeps m₀ u (State.mirrorReset s) := by
  unfold State.mirrorReset
  extract_lets s1 p
  have k : Keeps m₀ u s1 := State.setB_keeps (State.dropRegs_keeps h _) _ _
  clear_value s1 p
  exact State.showPair_keeps (k.mirror _ _)

theorem State.mirrorRepower_keeps  {m₀ : Nat} {u₀ s : State} (hk : Keeps m₀ u₀ s) (hm : Parts m₀ 1572865 := by first | decide | exact Parts.sub (by assumption) (by decide)) : Keeps m₀ u₀ (State.mirrorRepower s) := by
  unfold State.mirrorRepower
  try dsimp only
  repeat' first
    | exact Parts.sub hm (by decide)
    | with_reducible exact hk
    | with_reducible exact Keeps.refl _ _
    | with_reducible apply State.mirrorReset_keeps
    | with_reducible apply State.updMtx_keeps
    | exact fun _ w => w
    | with_reducible (intro _)
    | split

theorem State.sendClear_keeps (b : List Byte) {m₀ : Nat} {u₀ s : State} (hk : Keeps m₀ u₀ s) (hm : Parts m₀ 524288 := by first | decide | exact Parts.sub (by assumption) (by decide)) : Keeps m₀ u₀ (State.sendClear s b) := by
  unfold State.sendClear
  try dsimp only
  repeat' first
    | exact Parts.sub hm (by decide)
    | with_reducible exact hk
    | with_reducible exact Keeps.refl _ _
    | with_reducible apply State.updMlk_keeps
    | exact fun _ w => w
    | with_reducible (intro _)
    | split

theorem State.closeGroup_keeps  {m₀ : Nat} {u₀ s : State} (hk : Keeps m₀ u₀ s) (hm : Parts m₀ 1572864 := by first | decide | exact Parts.sub (by assumption) (by decide)) : Keeps m₀ u₀ (State.closeGroup s) := by
  unfold State.closeGroup
  try dsimp only
  repeat' first
    | exact Parts.sub hm (by decide)
    | with_reducible exact hk
    | with_reducible exact Keeps.refl _ _
    | with_reducible apply State.updMlk_keeps
    | with_reducible apply State.updMtx_keeps
    | exact fun _ w => w
    | with_reducible (intro _)
    | split

theorem State.sendRec_keeps (b : List Byte) {m₀ : Nat} {u₀ s : State} (hk : Keeps m₀ u₀ s) (hm : Parts m₀ 1572864 := by first | decide | exact Parts.sub (by assumption) (by decide)) : Keeps m₀ u₀ (State.sendRec s b) := by
  unfold State.sendRec
  try dsimp only
  repeat' first
    | exact Parts.sub hm (by decide)
    | with_reducible exact hk
    | with_reducible exact Keeps.refl _ _
    | with_reducible apply State.closeGroup_keeps
    | with_reducible apply State.updMtx_keeps
    | exact fun _ w => w
    | with_reducible (intro _)
    | split

theorem State.lose_keeps (gs : List Nat) {m₀ : Nat} {u₀ s : State} (hk : Keeps m₀ u₀ s) (hm : Parts m₀ 1048577 := by first | decide | exact Parts.sub (by assumption) (by decide)) : Keeps m₀ u₀ (State.lose s gs) := by
  unfold State.lose
  try dsimp only
  repeat' first
    | exact Parts.sub hm (by decide)
    | with_reducible exact hk
    | with_reducible exact Keeps.refl _ _
    | with_reducible apply State.setB_keeps
    | with_reducible apply State.updMtx_keeps
    | with_reducible apply Keeps.foldl
    | with_reducible apply Keeps.foldlFst
    | with_reducible apply Keeps.foldlSnd
    | exact fun _ w => w
    | with_reducible (intro _)
    | split

theorem State.openBreak_keeps (q : Nat) {m₀ : Nat} {u₀ s : State} (hk : Keeps m₀ u₀ s) (hm : Parts m₀ 1048576 := by first | decide | exact Parts.sub (by assumption) (by decide)) : Keeps m₀ u₀ (State.openBreak s q) := by
  unfold State.openBreak
  try dsimp only
  repeat' first
    | exact Parts.sub hm (by decide)
    | with_reducible exact hk
    | with_reducible exact Keeps.refl _ _
    | with_reducible apply State.updMtx_keeps
    | exact fun _ w => w
    | with_reducible (intro _)
    | split

theorem State.ackShow_keeps  {m₀ : Nat} {u₀ s : State} (hk : Keeps m₀ u₀ s) (hm : Parts m₀ 2097413 := by first | decide | exact Parts.sub (by assumption) (by decide)) : Keeps m₀ u₀ (State.ackShow s) := by
  unfold State.ackShow
  try dsimp only
  repeat' first
    | exact Parts.sub hm (by decide)
    | with_reducible exact hk
    | with_reducible exact Keeps.refl _ _
    | with_reducible apply State.ackRise_keeps
    | exact fun _ w => w
    | with_reducible (intro _)
    | split

theorem State.syncAcked_keeps  {m₀ : Nat} {u₀ s : State} (hk : Keeps m₀ u₀ s) (hm : Parts m₀ 3146253 := by first | decide | exact Parts.sub (by assumption) (by decide)) : Keeps m₀ u₀ (State.syncAcked s) := by
  unfold State.syncAcked
  try dsimp only
  repeat' first
    | exact Parts.sub hm (by decide)
    | with_reducible exact hk
    | with_reducible exact Keeps.refl _ _
    | with_reducible apply State.event_keeps
    | with_reducible apply State.set_keeps
    | with_reducible apply State.setB_keeps
    | with_reducible apply State.updMtx_keeps
    | exact fun _ w => w
    | with_reducible (intro _)
    | split

theorem State.ackThrough_keeps (q0 : Nat) {m₀ : Nat} {u₀ s : State} (hk : Keeps m₀ u₀ s) (hm : Parts m₀ 3146509 := by first | decide | exact Parts.sub (by assumption) (by decide)) : Keeps m₀ u₀ (State.ackThrough s q0) := by
  unfold State.ackThrough
  try dsimp only
  repeat' first
    | exact Parts.sub hm (by decide)
    | with_reducible exact hk
    | with_reducible exact Keeps.refl _ _
    | with_reducible apply State.aamDone_keeps
    | with_reducible apply State.ackShow_keeps
    | with_reducible apply State.refused_keeps
    | with_reducible apply State.syncAcked_keeps
    | with_reducible apply State.updMtx_keeps
    | exact fun _ w => w
    | with_reducible (intro _)
    | split

theorem State.ackRefused_keeps (q : Nat) {m₀ : Nat} {u₀ s : State} (hk : Keeps m₀ u₀ s) (hm : Parts m₀ 1048833 := by first | decide | exact Parts.sub (by assumption) (by decide)) : Keeps m₀ u₀ (State.ackRefused s q) := by
  unfold State.ackRefused
  try dsimp only
  repeat' first
    | exact Parts.sub hm (by decide)
    | with_reducible exact hk
    | with_reducible exact Keeps.refl _ _
    | with_reducible apply State.lose_keeps
    | with_reducible apply State.openBreak_keeps
    | with_reducible apply State.updMtx_keeps
    | with_reducible apply State.updPq_keeps
    | exact fun _ w => w
    | with_reducible (intro _)
    | split

theorem State.sendStamps_keeps  {m₀ : Nat} {u₀ s : State} (hk : Keeps m₀ u₀ s) (hm : Parts m₀ 1572864 := by first | decide | exact Parts.sub (by assumption) (by decide)) : Keeps m₀ u₀ (State.sendStamps s) := by
  unfold State.sendStamps
  try dsimp only
  repeat' first
    | exact Parts.sub hm (by decide)
    | with_reducible exact hk
    | with_reducible exact Keeps.refl _ _
    | with_reducible apply State.sendRec_keeps
    | with_reducible apply State.updMtx_keeps
    | with_reducible apply Keeps.foldl
    | with_reducible apply Keeps.foldlFst
    | with_reducible apply Keeps.foldlSnd
    | exact fun _ w => w
    | with_reducible (intro _)
    | split

theorem State.sendStamp_keeps (p : Port) (v tail : Nat) {m₀ : Nat} {u₀ s : State} (hk : Keeps m₀ u₀ s) (hm : Parts m₀ 1572864 := by first | decide | exact Parts.sub (by assumption) (by decide)) : Keeps m₀ u₀ (State.sendStamp s p v tail) := by
  unfold State.sendStamp
  try dsimp only
  repeat' first
    | exact Parts.sub hm (by decide)
    | with_reducible exact hk
    | with_reducible exact Keeps.refl _ _
    | with_reducible apply State.sendStamps_keeps
    | with_reducible apply State.updMtx_keeps
    | exact fun _ w => w
    | with_reducible (intro _)
    | split

theorem State.sessionEnd_keeps (cause : Nat) {m₀ : Nat} {u₀ s : State} (hk : Keeps m₀ u₀ s) (hm : Parts m₀ 3670797 := by first | decide | exact Parts.sub (by assumption) (by decide)) : Keeps m₀ u₀ (State.sessionEnd s cause) := by
  unfold State.sessionEnd
  try dsimp only
  repeat' first
    | exact Parts.sub hm (by decide)
    | with_reducible exact hk
    | with_reducible exact Keeps.refl _ _
    | with_reducible apply State.aamRelease_keeps
    | with_reducible apply State.event_keeps
    | with_reducible apply State.lose_keeps
    | with_reducible apply State.openBreak_keeps
    | with_reducible apply State.raise_keeps
    | with_reducible apply State.set_keeps
    | with_reducible apply State.updMlk_keeps
    | with_reducible apply State.updMtx_keeps
    | exact fun _ w => w
    | with_reducible (intro _)
    | split

theorem State.sessionQuit_keeps (cause : Nat) {m₀ : Nat} {u₀ s : State} (hk : Keeps m₀ u₀ s) (hm : Parts m₀ 3670797 := by first | decide | exact Parts.sub (by assumption) (by decide)) : Keeps m₀ u₀ (State.sessionQuit s cause) := by
  unfold State.sessionQuit
  try dsimp only
  repeat' first
    | exact Parts.sub hm (by decide)
    | with_reducible exact hk
    | with_reducible exact Keeps.refl _ _
    | with_reducible apply State.event_keeps
    | with_reducible apply State.sendClear_keeps
    | with_reducible apply State.sessionEnd_keeps
    | exact fun _ w => w
    | with_reducible (intro _)
    | split

theorem State.faultMark_keeps  {m₀ : Nat} {u₀ s : State} (hk : Keeps m₀ u₀ s) (hm : Parts m₀ 3670799 := by first | decide | exact Parts.sub (by assumption) (by decide)) : Keeps m₀ u₀ (State.faultMark s) := by
  unfold State.faultMark
  try dsimp only
  repeat' first
    | exact Parts.sub hm (by decide)
    | with_reducible exact hk
    | with_reducible exact Keeps.refl _ _
    | with_reducible apply State.event_keeps
    | with_reducible apply State.linkIdle_keeps
    | with_reducible apply State.raise_keeps
    | with_reducible apply State.sendClear_keeps
    | with_reducible apply State.sessionEnd_keeps
    | with_reducible apply State.set_keeps
    | with_reducible apply State.setB_keeps
    | with_reducible apply State.updMtx_keeps
    | exact fun _ w => w
    | with_reducible (intro _)
    | split

theorem State.mtxProto_keeps  {m₀ : Nat} {u₀ s : State} (hk : Keeps m₀ u₀ s) (hm : Parts m₀ 3670799 := by first | decide | exact Parts.sub (by assumption) (by decide)) : Keeps m₀ u₀ (State.mtxProto s) := by
  unfold State.mtxProto
  try dsimp only
  repeat' first
    | exact Parts.sub hm (by decide)
    | with_reducible exact hk
    | with_reducible exact Keeps.refl _ _
    | with_reducible apply State.count_keeps
    | with_reducible apply State.faultMark_keeps
    | with_reducible apply State.updMtx_keeps
    | exact fun _ w => w
    | with_reducible (intro _)
    | split

theorem State.sessionRefuse_keeps (reason : Nat) {m₀ : Nat} {u₀ s : State} (hk : Keeps m₀ u₀ s) (hm : Parts m₀ 3670797 := by first | decide | exact Parts.sub (by assumption) (by decide)) : Keeps m₀ u₀ (State.sessionRefuse s reason) := by
  unfold State.sessionRefuse
  try dsimp only
  repeat' first
    | exact Parts.sub hm (by decide)
    | with_reducible exact hk
    | with_reducible exact Keeps.refl _ _
    | with_reducible apply State.event_keeps
    | with_reducible apply State.sendClear_keeps
    | with_reducible apply State.sessionEnd_keeps
    | with_reducible apply State.setB_keeps
    | with_reducible apply State.updMtx_keeps
    | exact fun _ w => w
    | with_reducible (intro _)
    | split

theorem State.sendHello_keeps  {m₀ : Nat} {u₀ s : State} (hk : Keeps m₀ u₀ s) (hm : Parts m₀ 3670605 := by first | decide | exact Parts.sub (by assumption) (by decide)) : Keeps m₀ u₀ (State.sendHello s) := by
  unfold State.sendHello
  try dsimp only
  repeat' first
    | exact Parts.sub hm (by decide)
    | with_reducible exact hk
    | with_reducible exact Keeps.refl _ _
    | with_reducible apply State.dgeRequest_keeps
    | with_reducible apply State.sendClear_keeps
    | with_reducible apply State.updMtx_keeps
    | exact fun _ w => w
    | with_reducible (intro _)
    | split

theorem State.deriveKeys_keeps (key mine peer : List Byte) {m₀ : Nat} {u₀ s : State} (hk : Keeps m₀ u₀ s) (hm : Parts m₀ 3146317 := by first | decide | exact Parts.sub (by assumption) (by decide)) : Keeps m₀ u₀ (State.deriveKeys s key mine peer) := by
  unfold State.deriveKeys
  try dsimp only
  repeat' first
    | exact Parts.sub hm (by decide)
    | with_reducible exact hk
    | with_reducible exact Keeps.refl _ _
    | with_reducible apply State.dgeRequest_keeps
    | with_reducible apply State.updMtx_keeps
    | exact fun _ w => w
    | with_reducible (intro _)
    | split

theorem State.setupStep_keeps  {m₀ : Nat} {u₀ s : State} (hk : Keeps m₀ u₀ s) (hm : Parts m₀ 3670861 := by first | decide | exact Parts.sub (by assumption) (by decide)) : Keeps m₀ u₀ (State.setupStep s) := by
  unfold State.setupStep
  try dsimp only
  repeat' first
    | exact Parts.sub hm (by decide)
    | with_reducible exact hk
    | with_reducible exact Keeps.refl _ _
    | with_reducible apply State.deriveKeys_keeps
    | with_reducible apply State.dgeRequest_keeps
    | with_reducible apply State.sendClear_keeps
    | with_reducible apply State.sessionRefuse_keeps
    | with_reducible apply State.updMtx_keeps
    | exact fun _ w => w
    | with_reducible (intro _)
    | split

theorem State.pairCommitted_keeps (b : List Byte) (good : Bool) {m₀ : Nat} {u₀ s : State} (hk : Keeps m₀ u₀ s) (hm : Parts m₀ 3670861 := by first | decide | exact Parts.sub (by assumption) (by decide)) : Keeps m₀ u₀ (State.pairCommitted s b good) := by
  unfold State.pairCommitted
  try dsimp only
  repeat' first
    | exact Parts.sub hm (by decide)
    | with_reducible exact hk
    | with_reducible exact Keeps.refl _ _
    | with_reducible apply State.sendHello_keeps
    | with_reducible apply State.sessionEnd_keeps
    | with_reducible apply State.setupStep_keeps
    | with_reducible apply State.updMtx_keeps
    | exact fun _ w => w
    | with_reducible (intro _)
    | split

theorem State.adoptMirror_keeps (thru : Nat) {m₀ : Nat} {u₀ s : State} (hk : Keeps m₀ u₀ s) (hm : Parts m₀ 3414541 := by first | decide | exact Parts.sub (by assumption) (by decide)) : Keeps m₀ u₀ (State.adoptMirror s thru) := by
  unfold State.adoptMirror
  try dsimp only
  repeat' first
    | exact Parts.sub hm (by decide)
    | with_reducible exact hk
    | with_reducible exact Keeps.refl _ _
    | with_reducible apply State.enqueue_keeps
    | with_reducible apply State.event_keeps
    | with_reducible apply State.markDirty_keeps
    | with_reducible apply State.raise_keeps
    | with_reducible apply State.setB_keeps
    | with_reducible apply State.updCch_keeps
    | with_reducible apply State.updMtx_keeps
    | with_reducible apply State.writeLine_keeps
    | with_reducible apply Keeps.foldl
    | with_reducible apply Keeps.foldlFst
    | with_reducible apply Keeps.foldlSnd
    | exact fun _ w => w
    | exact fun _ w => Store.wf_put w _ _
    | exact fun _ w => Store.wf_put (Store.wf_put w _ _) _ _
    | exact fun _ w => Store.wf_keep w _
    | exact fun _ _ => Store.wf_nil
    | with_reducible (intro _)
    | split

end Sys2Proof.Machine
end

