-- ==== Sys2Proof/Laws/Keeps/StewardOps.lean ====
section
/-! SUPPORT. The operations of StewardOps keep the queue and a sound state. -/

set_option Elab.async false

namespace Sys2Proof.Machine

set_option linter.unreachableTactic false
set_option linter.unusedTactic false
set_option linter.unusedVariables false

theorem State.stagedStop_keeps {m₀ : Nat} {u s : State} (h : Keeps m₀ u s) (hm : Parts m₀ 2097727 := by first | decide | exact Parts.sub (by assumption) (by decide)) : Keeps m₀ u (State.stagedStop s) := by
  unfold State.stagedStop
  extract_lets d s1
  have k_1 : Keeps m₀ u s1 := by
    unfold s1
    split
    · exact State.slotWritten_keeps (hm := Parts.sub hm (by decide)) _ (State.programStaged_keeps _ _ false d.1 _ (fun _ => rfl) (State.draw_keeps (hm := Parts.sub hm (by decide)) h) (hm := Parts.sub hm (by decide)))
    · exact State.shadeTouched_keeps (hm := Parts.sub hm (by decide)) _ (State.openSector_keeps _ d.1 _ (fun _ => rfl) (State.draw_keeps (hm := Parts.sub hm (by decide)) h) (hm := Parts.sub hm (by decide)))
    · exact h
  clear_value s1
  exact Keeps.ite (fun _ => State.flashNext_keeps (hm := Parts.sub hm (by decide)) (State.updCfl_keeps k_1 _ (fun _ w => w) (hm := Parts.sub hm (by decide)))) fun _ => h

theorem State.stagedAbandon_keeps  {m₀ : Nat} {u₀ s : State} (hk : Keeps m₀ u₀ s) (hm : Parts m₀ 2097855 := by first | decide | exact Parts.sub (by assumption) (by decide)) : Keeps m₀ u₀ (State.stagedAbandon s) := by
  unfold State.stagedAbandon
  try extract_lets
  repeat' first
    | exact Parts.sub hm (by decide)
    | with_reducible exact hk
    | with_reducible exact Keeps.refl _ _
    | with_reducible apply State.event_keeps
    | with_reducible apply State.flashResult_keeps
    | with_reducible apply State.set_keeps
    | with_reducible apply State.setB_keeps
    | with_reducible apply State.stagedStop_keeps
    | with_reducible apply State.updStw_keeps
    | with_reducible apply Keeps.ite
    | with_reducible apply Keeps.iteSnd
    | with_reducible apply Keeps.iteFst
    | refine Keeps.sndOf (by assumption) ?_
    | refine Keeps.fstOf (by assumption) ?_
    | with_reducible assumption
    | with_reducible exact fun _ w => w
    | with_reducible (intro _)
    | split
    | extract_lets
    | dsimp +zetaDelta only

theorem State.stwRestart_keeps  {m₀ : Nat} {u₀ s : State} (hk : Keeps m₀ u₀ s) (hm : Parts m₀ 2102015 := by first | decide | exact Parts.sub (by assumption) (by decide)) : Keeps m₀ u₀ (State.stwRestart s) := by
  unfold State.stwRestart
  try extract_lets
  repeat' first
    | exact Parts.sub hm (by decide)
    | with_reducible exact hk
    | with_reducible exact Keeps.refl _ _
    | with_reducible apply State.abandonFlash_keeps
    | with_reducible apply State.count_keeps
    | with_reducible apply State.dgeDrop_keeps
    | with_reducible apply State.event_keeps
    | with_reducible apply State.set_keeps
    | with_reducible apply State.stagedAbandon_keeps
    | with_reducible apply State.updDsp_keeps
    | with_reducible apply State.updStw_keeps
    | with_reducible apply Keeps.ite
    | with_reducible apply Keeps.iteSnd
    | with_reducible apply Keeps.iteFst
    | refine Keeps.sndOf (by assumption) ?_
    | refine Keeps.fstOf (by assumption) ?_
    | with_reducible assumption
    | with_reducible exact fun _ w => w
    | with_reducible (intro _)
    | split
    | extract_lets
    | dsimp +zetaDelta only

theorem State.stwAnswer_keeps (g : Option Port) (op code : Nat) (results : List Nat) {m₀ : Nat} {u₀ s : State} (hk : Keeps m₀ u₀ s) (hm : Parts m₀ 2097153 := by first | decide | exact Parts.sub (by assumption) (by decide)) : Keeps m₀ u₀ (State.stwAnswer s g op code results) := by
  unfold State.stwAnswer
  try extract_lets
  repeat' first
    | exact Parts.sub hm (by decide)
    | with_reducible exact hk
    | with_reducible exact Keeps.refl _ _
    | with_reducible apply State.emit_keeps
    | with_reducible apply State.set_keeps
    | with_reducible apply State.setB_keeps
    | with_reducible apply Keeps.foldl
    | with_reducible apply Keeps.foldlFst
    | with_reducible apply Keeps.foldlSnd
    | with_reducible apply Keeps.ite
    | with_reducible apply Keeps.iteSnd
    | with_reducible apply Keeps.iteFst
    | refine Keeps.sndOf (by assumption) ?_
    | refine Keeps.fstOf (by assumption) ?_
    | with_reducible assumption
    | with_reducible exact fun _ w => w
    | with_reducible (intro _)
    | split
    | extract_lets
    | dsimp +zetaDelta only

theorem State.stwCommand_keeps (g : Option Port) (op : Nat) {f : State → State} {m₀ : Nat} {u s : State} (h : Keeps m₀ u s)
    (hf : ∀ t, Keeps m₀ u t → Keeps m₀ u (f t)) (hm : Parts m₀ 2097281 := by first | decide | exact Parts.sub (by assumption) (by decide)) : Keeps m₀ u (State.stwCommand s g op f) := by
  unfold State.stwCommand
  split
  · split
    · exact h
    · extract_lets s1
      have k_1 : Keeps m₀ u s1 := State.setB_keeps (State.set_keeps (State.updStw_keeps h _) _ _) _ _
      exact Keeps.ite (fun _ => hf _ k_1) fun _ => State.stwAnswer_keeps _ _ _ _ k_1
  · exact Keeps.ite (fun _ => hf _ h) fun _ => h

theorem State.updateBegin_keeps (viaPldm : Bool) (size : Nat) {m₀ : Nat} {u₀ s : State} (hk : Keeps m₀ u₀ s) (hm : Parts m₀ 129 := by first | decide | exact Parts.sub (by assumption) (by decide)) : Keeps m₀ u₀ (State.updateBegin s viaPldm size) := by
  unfold State.updateBegin
  try extract_lets
  repeat' first
    | exact Parts.sub hm (by decide)
    | with_reducible exact hk
    | with_reducible exact Keeps.refl _ _
    | with_reducible apply State.set_keeps
    | with_reducible apply State.updStw_keeps
    | with_reducible apply Keeps.ite
    | with_reducible apply Keeps.iteSnd
    | with_reducible apply Keeps.iteFst
    | refine Keeps.sndOf (by assumption) ?_
    | refine Keeps.fstOf (by assumption) ?_
    | with_reducible assumption
    | with_reducible exact fun _ w => w
    | with_reducible (intro _)
    | split
    | extract_lets
    | dsimp +zetaDelta only

theorem State.updateTake_keeps (b : List Byte) {m₀ : Nat} {u₀ s : State} (hk : Keeps m₀ u₀ s) (hm : Parts m₀ 128 := by first | decide | exact Parts.sub (by assumption) (by decide)) : Keeps m₀ u₀ (State.updateTake s b) := by
  unfold State.updateTake
  try extract_lets
  repeat' first
    | exact Parts.sub hm (by decide)
    | with_reducible exact hk
    | with_reducible exact Keeps.refl _ _
    | with_reducible apply State.updStw_keeps
    | with_reducible apply Keeps.ite
    | with_reducible apply Keeps.iteSnd
    | with_reducible apply Keeps.iteFst
    | refine Keeps.sndOf (by assumption) ?_
    | refine Keeps.fstOf (by assumption) ?_
    | with_reducible assumption
    | with_reducible exact fun _ w => w
    | with_reducible (intro _)
    | split
    | extract_lets
    | dsimp +zetaDelta only

theorem State.updateDrop_keeps  {m₀ : Nat} {u₀ s : State} (hk : Keeps m₀ u₀ s) (hm : Parts m₀ 2097855 := by first | decide | exact Parts.sub (by assumption) (by decide)) : Keeps m₀ u₀ (State.updateDrop s) := by
  unfold State.updateDrop
  try extract_lets
  repeat' first
    | exact Parts.sub hm (by decide)
    | with_reducible exact hk
    | with_reducible exact Keeps.refl _ _
    | with_reducible apply State.set_keeps
    | with_reducible apply State.stagedStop_keeps
    | with_reducible apply State.updStw_keeps
    | with_reducible apply Keeps.ite
    | with_reducible apply Keeps.iteSnd
    | with_reducible apply Keeps.iteFst
    | refine Keeps.sndOf (by assumption) ?_
    | refine Keeps.fstOf (by assumption) ?_
    | with_reducible assumption
    | with_reducible exact fun _ w => w
    | with_reducible (intro _)
    | split
    | extract_lets
    | dsimp +zetaDelta only

theorem State.updateAnswer_keeps (code : Nat) {m₀ : Nat} {u₀ s : State} (hk : Keeps m₀ u₀ s) (hm : Parts m₀ 2097153 := by first | decide | exact Parts.sub (by assumption) (by decide)) : Keeps m₀ u₀ (State.updateAnswer s code) := by
  unfold State.updateAnswer
  try extract_lets
  repeat' first
    | exact Parts.sub hm (by decide)
    | with_reducible exact hk
    | with_reducible exact Keeps.refl _ _
    | with_reducible apply State.emit_keeps
    | with_reducible apply State.stwAnswer_keeps
    | with_reducible apply Keeps.ite
    | with_reducible apply Keeps.iteSnd
    | with_reducible apply Keeps.iteFst
    | refine Keeps.sndOf (by assumption) ?_
    | refine Keeps.fstOf (by assumption) ?_
    | with_reducible assumption
    | with_reducible exact fun _ w => w
    | with_reducible (intro _)
    | split
    | extract_lets
    | dsimp +zetaDelta only

theorem State.updateRefused_keeps (code : Nat) {m₀ : Nat} {u₀ s : State} (hk : Keeps m₀ u₀ s) (hm : Parts m₀ 2097805 := by first | decide | exact Parts.sub (by assumption) (by decide)) : Keeps m₀ u₀ (State.updateRefused s code) := by
  unfold State.updateRefused
  try extract_lets
  repeat' first
    | exact Parts.sub hm (by decide)
    | with_reducible exact hk
    | with_reducible exact Keeps.refl _ _
    | with_reducible apply State.event_keeps
    | with_reducible apply State.set_keeps
    | with_reducible apply State.updStw_keeps
    | with_reducible apply State.updateAnswer_keeps
    | with_reducible apply Keeps.ite
    | with_reducible apply Keeps.iteSnd
    | with_reducible apply Keeps.iteFst
    | refine Keeps.sndOf (by assumption) ?_
    | refine Keeps.fstOf (by assumption) ?_
    | with_reducible assumption
    | with_reducible exact fun _ w => w
    | with_reducible (intro _)
    | split
    | extract_lets
    | dsimp +zetaDelta only

theorem State.stageDone_keeps (good : Bool) {m₀ : Nat} {u₀ s : State} (hk : Keeps m₀ u₀ s) (hm : Parts m₀ 2097805 := by first | decide | exact Parts.sub (by assumption) (by decide)) : Keeps m₀ u₀ (State.stageDone s good) := by
  unfold State.stageDone
  try extract_lets
  repeat' first
    | exact Parts.sub hm (by decide)
    | with_reducible exact hk
    | with_reducible exact Keeps.refl _ _
    | with_reducible apply State.event_keeps
    | with_reducible apply State.set_keeps
    | with_reducible apply State.updStw_keeps
    | with_reducible apply State.updateAnswer_keeps
    | with_reducible apply Keeps.ite
    | with_reducible apply Keeps.iteSnd
    | with_reducible apply Keeps.iteFst
    | refine Keeps.sndOf (by assumption) ?_
    | refine Keeps.fstOf (by assumption) ?_
    | with_reducible assumption
    | with_reducible exact fun _ w => w
    | with_reducible (intro _)
    | split
    | extract_lets
    | dsimp +zetaDelta only

theorem State.updateEnd_keeps (waits : Nat) {m₀ : Nat} {u₀ s : State} (hk : Keeps m₀ u₀ s) (hm : Parts m₀ 2097837 := by first | decide | exact Parts.sub (by assumption) (by decide)) : Keeps m₀ u₀ (State.updateEnd s waits) := by
  unfold State.updateEnd
  try extract_lets
  repeat' first
    | exact Parts.sub hm (by decide)
    | with_reducible exact hk
    | with_reducible exact Keeps.refl _ _
    | with_reducible apply State.emit_keeps
    | with_reducible apply State.flashWrite_keeps
    | with_reducible apply State.set_keeps
    | with_reducible apply State.stageDone_keeps
    | with_reducible apply State.updStw_keeps
    | with_reducible apply State.updateRefused_keeps
    | with_reducible apply Keeps.ite
    | with_reducible apply Keeps.iteSnd
    | with_reducible apply Keeps.iteFst
    | refine Keeps.sndOf (by assumption) ?_
    | refine Keeps.fstOf (by assumption) ?_
    | with_reducible assumption
    | with_reducible exact fun _ w => w
    | with_reducible (intro _)
    | split
    | extract_lets
    | dsimp +zetaDelta only

theorem State.activate_keeps (block : Nat) {m₀ : Nat} {u₀ s : State} (hk : Keeps m₀ u₀ s) (hm : Parts m₀ 2102015 := by first | decide | exact Parts.sub (by assumption) (by decide)) : Keeps m₀ u₀ (State.activate s block) := by
  unfold State.activate
  try extract_lets
  repeat' first
    | exact Parts.sub hm (by decide)
    | with_reducible exact hk
    | with_reducible exact Keeps.refl _ _
    | with_reducible apply State.flashWrite_keeps
    | with_reducible apply State.set_keeps
    | with_reducible apply State.stwRestart_keeps
    | with_reducible apply State.updStw_keeps
    | with_reducible apply Keeps.ite
    | with_reducible apply Keeps.iteSnd
    | with_reducible apply Keeps.iteFst
    | refine Keeps.sndOf (by assumption) ?_
    | refine Keeps.fstOf (by assumption) ?_
    | with_reducible assumption
    | with_reducible exact fun _ w => w
    | with_reducible (intro _)
    | split
    | extract_lets
    | dsimp +zetaDelta only

theorem State.unconfirmedStart_keeps  {m₀ : Nat} {u₀ s : State} (hk : Keeps m₀ u₀ s) (hm : Parts m₀ 2097836 := by first | decide | exact Parts.sub (by assumption) (by decide)) : Keeps m₀ u₀ (State.unconfirmedStart s) := by
  unfold State.unconfirmedStart
  try extract_lets
  repeat' first
    | exact Parts.sub hm (by decide)
    | with_reducible exact hk
    | with_reducible exact Keeps.refl _ _
    | with_reducible apply State.event_keeps
    | with_reducible apply State.flashWrite_keeps
    | with_reducible apply State.updStw_keeps
    | with_reducible apply Keeps.ite
    | with_reducible apply Keeps.iteSnd
    | with_reducible apply Keeps.iteFst
    | refine Keeps.sndOf (by assumption) ?_
    | refine Keeps.fstOf (by assumption) ?_
    | with_reducible assumption
    | with_reducible exact fun _ w => w
    | with_reducible (intro _)
    | split
    | extract_lets
    | dsimp +zetaDelta only

theorem State.wallTime_keeps (sec : Nat) {m₀ : Nat} {u₀ s : State} (hk : Keeps m₀ u₀ s) (hm : Parts m₀ 2097677 := by first | decide | exact Parts.sub (by assumption) (by decide)) : Keeps m₀ u₀ (State.wallTime s sec) := by
  unfold State.wallTime
  try extract_lets
  repeat' first
    | exact Parts.sub hm (by decide)
    | with_reducible exact hk
    | with_reducible exact Keeps.refl _ _
    | with_reducible apply State.eventWith_keeps
    | with_reducible apply State.set64_keeps
    | with_reducible apply Keeps.ite
    | with_reducible apply Keeps.iteSnd
    | with_reducible apply Keeps.iteFst
    | refine Keeps.sndOf (by assumption) ?_
    | refine Keeps.fstOf (by assumption) ?_
    | with_reducible assumption
    | with_reducible exact fun _ w => w
    | with_reducible (intro _)
    | split
    | extract_lets
    | dsimp +zetaDelta only

end Sys2Proof.Machine
end

