-- ==== Sys2Proof/Laws/Keeps/Flash.lean ====
section
/-! SUPPORT. The operations of Flash keep the queue and a sound state. -/

set_option Elab.async false

namespace Sys2Proof.Machine

set_option linter.unreachableTactic false
set_option linter.unusedTactic false
set_option linter.unusedVariables false

theorem Cfl.appendCell_wf (ty : Nat) (p : List Byte) {c : Cfl} (h : Store.wf 0xFF c.bytes = true) :
    Store.wf 0xFF (c.appendCell ty p).bytes = true := Cfl.programBytes_wf _ _ _ h

theorem State.writeDone_keeps (w : IWrite) (good : Bool) {m₀ : Nat} {u₀ s : State} (hk : Keeps m₀ u₀ s) (hm : Parts m₀ 3671037 := by first | decide | exact Parts.sub (by assumption) (by decide)) : Keeps m₀ u₀ (State.writeDone s w good) := by
  unfold State.writeDone
  try extract_lets
  repeat' first
    | refine State.programStaged_keeps _ _ _ _ _ (fun _ => rfl) ?_
    | exact Parts.sub hm (by decide)
    | with_reducible exact hk
    | with_reducible exact Keeps.refl _ _
    | with_reducible apply State.exchangeFailed_keeps
    | with_reducible apply State.keyCellDone_keeps
    | with_reducible apply State.pairCommitted_keeps
    | with_reducible apply State.set_keeps
    | with_reducible apply State.setB_keeps
    | with_reducible apply State.slotWritten_keeps
    | with_reducible apply State.stageDone_keeps
    | with_reducible apply State.swapFailed_keeps
    | with_reducible apply State.swapRequested_keeps
    | with_reducible apply State.updEvr_keeps
    | with_reducible apply State.updStw_keeps
    | with_reducible apply Keeps.ite
    | with_reducible apply Keeps.iteSnd
    | with_reducible apply Keeps.iteFst
    | refine Keeps.sndOf (by assumption) ?_
    | refine Keeps.fstOf (by assumption) ?_
    | with_reducible assumption
    | with_reducible exact fun _ w => w
    | exact fun _ w => w
    | with_reducible exact fun _ w => Store.wf_put w _ _
    | with_reducible exact fun _ w => Store.wf_put (Store.wf_put w _ _) _ _
    | with_reducible exact fun _ w => Store.wf_keep w _
    | with_reducible exact fun _ _ => Store.wf_nil
    | with_reducible (intro _)
    | split
    | extract_lets
    | dsimp +zetaDelta only

theorem State.commitWrite_keeps (w : IWrite) {m₀ : Nat} {u₀ s : State} (hk : Keeps m₀ u₀ s) (hm : Parts m₀ 3671037 := by first | decide | exact Parts.sub (by assumption) (by decide)) : Keeps m₀ u₀ (State.commitWrite s w) := by
  unfold State.commitWrite
  try extract_lets
  repeat' first
    | exact Parts.sub hm (by decide)
    | with_reducible exact hk
    | with_reducible exact Keeps.refl _ _
    | with_reducible apply State.set_keeps
    | with_reducible apply State.updCfl_keeps
    | with_reducible apply State.updEvr_keeps
    | with_reducible apply State.writeDone_keeps
    | with_reducible apply Keeps.ite
    | with_reducible apply Keeps.iteSnd
    | with_reducible apply Keeps.iteFst
    | refine Keeps.sndOf (by assumption) ?_
    | refine Keeps.fstOf (by assumption) ?_
    | with_reducible assumption
    | with_reducible exact fun _ w => w
    | exact fun _ w => Cfl.programBytes_wf _ _ _ w
    | exact fun _ w => Cfl.programStaged_wf _ _ _ _ w
    | exact fun _ w => Cfl.appendCell_wf _ _ w
    | with_reducible exact fun _ w => Store.wf_put w _ _
    | with_reducible exact fun _ w => Store.wf_put (Store.wf_put w _ _) _ _
    | with_reducible exact fun _ w => Store.wf_keep w _
    | with_reducible exact fun _ _ => Store.wf_nil
    | with_reducible (intro _)
    | split
    | extract_lets
    | dsimp +zetaDelta only

theorem State.failWrite_keeps (w : IWrite) {m₀ : Nat} {u s : State} (h : Keeps m₀ u s) (hm : Parts m₀ 3671039 := by first | decide | exact Parts.sub (by assumption) (by decide)) : Keeps m₀ u (State.failWrite s w) := by
  unfold State.failWrite
  split
  · exact State.writeDone_keeps _ _ (State.programStaged_keeps _ _ false s.draw.1 _ (fun _ => rfl) (State.draw_keeps h))
  · exact State.writeDone_keeps _ _ h

theorem State.backDone_keeps (how : FlashEnd) {m₀ : Nat} {u s : State} (hk : Keeps m₀ u s) (hm : Parts m₀ 2097710 := by first | decide | exact Parts.sub (by assumption) (by decide)) : Keeps m₀ u (State.backDone s how) := by
  unfold State.backDone
  split
  · exact hk
  · next sec n _ =>
    split
    · refine State.flashNext_keeps (State.updCfl_keeps hk _ fun c w => ?_)
      exact Cfl.eraseSector_wf sec w
    · split
      · exact State.updCfl_keeps hk _ fun _ w => w
      · extract_lets d t
        have k_t : Keeps m₀ u t := by
          unfold t
          have k_d : Keeps m₀ u d.2 := State.draw_keeps hk
          clear_value d
          refine State.updCfl_keeps k_d _ fun c w => ?_
          have k := Cfl.openSector_wf sec d.1 w
          generalize c.openSector sec d.1 = x at k ⊢
          exact k
        clear_value t
        exact State.flashNext_keeps (Keeps.ite (fun _ => State.event_keeps _ _ k_t) fun _ => k_t)

theorem State.eraseFailed_keeps (sec : Nat) (how : FlashEnd) {m₀ : Nat} {u s : State} (h : Keeps m₀ u s) (hm : Parts m₀ 2097727 := by first | decide | exact Parts.sub (by assumption) (by decide)) : Keeps m₀ u (State.eraseFailed s sec how) := by
  unfold State.eraseFailed
  extract_lets d t
  have k_t : Keeps m₀ u t := State.shadeTouched_keeps _ (State.openSector_keeps _ d.1 _ (fun _ => rfl) (State.draw_keeps h))
  clear_value t
  exact Keeps.ite (fun _ => State.event_keeps _ _ k_t) fun _ => k_t

theorem State.flashDone_keeps (how : FlashEnd) {m₀ : Nat} {u s : State} (hk : Keeps m₀ u s) (hm : Parts m₀ 3671039 := by first | decide | exact Parts.sub (by assumption) (by decide)) : Keeps m₀ u (State.flashDone s how) := by
  unfold State.flashDone
  split
  · exact State.backDone_keeps how hk
  · extract_lets s0 good report
    have k_s0 : Keeps m₀ u s0 := State.updCfl_keeps hk _ fun _ w => w
    have a_report : ∀ t g compat code sec, Keeps m₀ u t → Keeps m₀ u (report t g compat code sec) := by
      intro t g compat code sec ht
      unfold report
      split
      · exact State.compatResult_keeps _ ht
      · exact State.flashResult_keeps _ _ _ ht
    have k_go : ∀ (t : State) (g : Agent) (compat : Bool) (code sec : Nat), Keeps m₀ u t →
        Keeps m₀ u (report t g compat code sec).flashNext := fun t g c code sec ht =>
      State.flashNext_keeps (a_report t g c code sec ht)
    have k_er : ∀ (t : State) (n : Nat) (f : Cfl → Cfl), (∀ c, (f c).bytes = (c.eraseSector n).bytes) → Keeps m₀ u t →
        Keeps m₀ u (t.updCfl f) := fun t n f e ht => State.updCfl_keeps ht _ fun c w => by
      rw [e]; exact Cfl.eraseSector_wf n w
    have k_eq : ∀ (t : State) (f : Cfl → Cfl), (∀ c, (f c).bytes = c.bytes) → Keeps m₀ u t →
        Keeps m₀ u (t.updCfl f) := fun t f e ht => State.updCfl_keeps ht _ fun c w => by
      rw [e]; exact w
    have k_prog : ∀ (t : State) (w : List (Nat × Nat)), Keeps m₀ u t → Keeps m₀ u (t.updCfl fun c => c.programWords w) :=
      fun t w ht => State.updCfl_keeps ht _ fun _ h => Cfl.programWords_wf _ _ h
    clear_value report s0 good
    split
    · split
      · exact k_go _ _ _ _ _ (State.shadeTouched_keeps _ (k_prog _ _ k_s0))
      · exact k_go _ _ _ _ _ (State.shadeTouched_keeps _ (k_prog _ _ (State.draw_keeps k_s0)))
    · split
      · exact k_go _ _ _ _ _ (State.shadeTouched_keeps _ (k_er _ _ _ (by intro _; rfl) k_s0))
      · split
        · exact k_eq _ _ (by intro _; rfl) hk
        · exact k_go _ _ _ _ _ (State.eraseFailed_keeps _ _ k_s0)
    · exact k_go _ _ _ _ _ k_s0
    · refine State.flashNext_keeps (Keeps.ite (fun _ => ?_) fun _ => ?_)
      · exact State.commitWrite_keeps _ k_s0
      · exact State.failWrite_keeps _ k_s0
    · split
      · exact State.writeStep_keeps _ _ (State.shadeTouched_keeps _ (k_er _ _ _ (by intro _; rfl) k_s0))
      · split
        · exact k_eq _ _ (by intro _; rfl) hk
        · exact State.flashNext_keeps (State.writeDone_keeps _ _ (State.eraseFailed_keeps _ _ k_s0))
    · exact State.flashNext_keeps (State.writeDone_keeps _ _ k_s0)

theorem State.cmd0_keeps (x : Agent × Word) {m₀ : Nat} {u₀ s : State} (hk : Keeps m₀ u₀ s) (hm : Parts m₀ 2097709 := by first | decide | exact Parts.sub (by assumption) (by decide)) : Keeps m₀ u₀ (State.cmd0 s x) := by
  unfold State.cmd0
  try extract_lets
  repeat' first
    | exact Parts.sub hm (by decide)
    | with_reducible exact hk
    | with_reducible exact Keeps.refl _ _
    | with_reducible apply State.endCompat_keeps
    | with_reducible apply State.endSeq_keeps
    | with_reducible apply State.flashNext_keeps
    | with_reducible apply State.flashResult_keeps
    | with_reducible apply State.updCfl_keeps
    | with_reducible apply Keeps.ite
    | with_reducible apply Keeps.iteSnd
    | with_reducible apply Keeps.iteFst
    | refine Keeps.sndOf (by assumption) ?_
    | refine Keeps.fstOf (by assumption) ?_
    | with_reducible assumption
    | with_reducible exact fun _ w => w
    | with_reducible exact fun _ w => Store.wf_put w _ _
    | with_reducible exact fun _ w => Store.wf_put (Store.wf_put w _ _) _ _
    | with_reducible exact fun _ w => Store.wf_keep w _
    | with_reducible exact fun _ _ => Store.wf_nil
    | with_reducible (intro _)
    | split
    | extract_lets
    | dsimp +zetaDelta only

theorem execNativeCmd0_keeps (g : Agent) (w : Word) (also : List (Agent × Word)) {m₀ : Nat} {u₀ s : State} (hk : Keeps m₀ u₀ s) (hm : Parts m₀ 2097709 := by first | decide | exact Parts.sub (by assumption) (by decide)) : KeepsOut m₀ u₀ (execNativeCmd0 g w also s) := by
  unfold execNativeCmd0
  try extract_lets
  repeat' first
    | exact Parts.sub hm (by decide)
    | with_reducible exact hk
    | with_reducible exact Keeps.refl _ _
    | with_reducible apply State.cmd0_keeps
    | with_reducible apply ok_keeps
    | with_reducible apply Keeps.foldl
    | with_reducible apply Keeps.foldlFst
    | with_reducible apply Keeps.foldlSnd
    | with_reducible apply KeepsOut.next
    | with_reducible apply Keeps.ite
    | with_reducible apply KeepsOut.ite
    | with_reducible apply Keeps.iteSnd
    | with_reducible apply Keeps.iteFst
    | refine Keeps.sndOf (by assumption) ?_
    | refine Keeps.fstOf (by assumption) ?_
    | with_reducible assumption
    | with_reducible exact fun _ w => w
    | with_reducible (intro _)
    | split
    | extract_lets
    | dsimp +zetaDelta only

theorem execNativeCmd1_keeps (g : Agent) (w : Word) {m₀ : Nat} {u₀ s : State} (hk : Keeps m₀ u₀ s) (hm : Parts m₀ 2097709 := by first | decide | exact Parts.sub (by assumption) (by decide)) : KeepsOut m₀ u₀ (execNativeCmd1 g w s) := by
  unfold execNativeCmd1
  try extract_lets
  repeat' first
    | exact Parts.sub hm (by decide)
    | with_reducible exact hk
    | with_reducible exact Keeps.refl _ _
    | with_reducible apply State.endSeq_keeps
    | with_reducible apply State.updCfl_keeps
    | with_reducible apply ok_keeps
    | with_reducible apply KeepsOut.next
    | with_reducible apply Keeps.ite
    | with_reducible apply KeepsOut.ite
    | with_reducible apply Keeps.iteSnd
    | with_reducible apply Keeps.iteFst
    | refine Keeps.sndOf (by assumption) ?_
    | refine Keeps.fstOf (by assumption) ?_
    | with_reducible assumption
    | with_reducible exact fun _ w => w
    | with_reducible exact fun _ w => Store.wf_put w _ _
    | with_reducible exact fun _ w => Store.wf_put (Store.wf_put w _ _) _ _
    | with_reducible exact fun _ w => Store.wf_keep w _
    | with_reducible exact fun _ _ => Store.wf_nil
    | with_reducible (intro _)
    | split
    | extract_lets
    | dsimp +zetaDelta only

theorem execNativeDataWrite_keeps (g : Agent) (off : BitVec 26) (w : Word) (full : Bool) {m₀ : Nat} {u₀ s : State} (hk : Keeps m₀ u₀ s) (hm : Parts m₀ 2097709 := by first | decide | exact Parts.sub (by assumption) (by decide)) : KeepsOut m₀ u₀ (execNativeDataWrite g off w full s) := by
  unfold execNativeDataWrite
  try extract_lets
  repeat' first
    | exact Parts.sub hm (by decide)
    | with_reducible exact hk
    | with_reducible exact Keeps.refl _ _
    | with_reducible apply State.endSeq_keeps
    | with_reducible apply State.updCfl_keeps
    | with_reducible apply ok_keeps
    | with_reducible apply KeepsOut.next
    | with_reducible apply Keeps.ite
    | with_reducible apply KeepsOut.ite
    | with_reducible apply Keeps.iteSnd
    | with_reducible apply Keeps.iteFst
    | refine Keeps.sndOf (by assumption) ?_
    | refine Keeps.fstOf (by assumption) ?_
    | with_reducible assumption
    | with_reducible exact fun _ w => w
    | with_reducible exact fun _ w => Store.wf_put w _ _
    | with_reducible exact fun _ w => Store.wf_put (Store.wf_put w _ _) _ _
    | with_reducible exact fun _ w => Store.wf_keep w _
    | with_reducible exact fun _ _ => Store.wf_nil
    | with_reducible (intro _)
    | split
    | extract_lets
    | dsimp +zetaDelta only

theorem State.startOp_keeps (g : Agent) (compat : Bool) (sec : Nat) (isProgram : Bool) (o : FlashOp) {m₀ : Nat} {u₀ s : State} (hk : Keeps m₀ u₀ s) (hm : Parts m₀ 2097709 := by first | decide | exact Parts.sub (by assumption) (by decide)) : Keeps m₀ u₀ (State.startOp s g compat sec isProgram o) := by
  unfold State.startOp
  try extract_lets
  repeat' first
    | exact Parts.sub hm (by decide)
    | with_reducible exact hk
    | with_reducible exact Keeps.refl _ _
    | with_reducible apply State.compatResult_keeps
    | with_reducible apply State.flashNext_keeps
    | with_reducible apply State.flashResult_keeps
    | with_reducible apply State.updCfl_keeps
    | with_reducible apply Keeps.ite
    | with_reducible apply Keeps.iteSnd
    | with_reducible apply Keeps.iteFst
    | refine Keeps.sndOf (by assumption) ?_
    | refine Keeps.fstOf (by assumption) ?_
    | with_reducible assumption
    | with_reducible exact fun _ w => w
    | with_reducible exact fun _ w => Store.wf_put w _ _
    | with_reducible exact fun _ w => Store.wf_put (Store.wf_put w _ _) _ _
    | with_reducible exact fun _ w => Store.wf_keep w _
    | with_reducible exact fun _ _ => Store.wf_nil
    | with_reducible (intro _)
    | split
    | extract_lets
    | dsimp +zetaDelta only

theorem State.cmd2_keeps (g : Agent) (cc : Nat) (w : Word) {m₀ : Nat} {u₀ s : State} (hk : Keeps m₀ u₀ s) (hm : Parts m₀ 2097709 := by first | decide | exact Parts.sub (by assumption) (by decide)) : Keeps m₀ u₀ (State.cmd2 s g cc w) := by
  unfold State.cmd2
  try extract_lets
  repeat' first
    | exact Parts.sub hm (by decide)
    | with_reducible exact hk
    | with_reducible exact Keeps.refl _ _
    | with_reducible apply State.endSeq_keeps
    | with_reducible apply State.flashNext_keeps
    | with_reducible apply State.flashResult_keeps
    | with_reducible apply State.startOp_keeps
    | with_reducible apply State.updCfl_keeps
    | with_reducible apply Keeps.ite
    | with_reducible apply Keeps.iteSnd
    | with_reducible apply Keeps.iteFst
    | refine Keeps.sndOf (by assumption) ?_
    | refine Keeps.fstOf (by assumption) ?_
    | with_reducible assumption
    | with_reducible exact fun _ w => w
    | with_reducible exact fun _ w => Store.wf_put w _ _
    | with_reducible exact fun _ w => Store.wf_put (Store.wf_put w _ _) _ _
    | with_reducible exact fun _ w => Store.wf_keep w _
    | with_reducible exact fun _ _ => Store.wf_nil
    | with_reducible (intro _)
    | split
    | extract_lets
    | dsimp +zetaDelta only

theorem execProgram_keeps (g : Agent) (w : Word) {m₀ : Nat} {u₀ s : State} (hk : Keeps m₀ u₀ s) (hm : Parts m₀ 2097709 := by first | decide | exact Parts.sub (by assumption) (by decide)) : KeepsOut m₀ u₀ (execProgram g w s) := by
  unfold execProgram
  try extract_lets
  repeat' first
    | exact Parts.sub hm (by decide)
    | with_reducible exact hk
    | with_reducible exact Keeps.refl _ _
    | with_reducible apply State.cmd2_keeps
    | with_reducible apply ok_keeps
    | with_reducible apply KeepsOut.next
    | with_reducible apply Keeps.ite
    | with_reducible apply KeepsOut.ite
    | with_reducible apply Keeps.iteSnd
    | with_reducible apply Keeps.iteFst
    | refine Keeps.sndOf (by assumption) ?_
    | refine Keeps.fstOf (by assumption) ?_
    | with_reducible assumption
    | with_reducible exact fun _ w => w
    | with_reducible (intro _)
    | split
    | extract_lets
    | dsimp +zetaDelta only

theorem execEraseSector_keeps (g : Agent) (w : Word) {m₀ : Nat} {u₀ s : State} (hk : Keeps m₀ u₀ s) (hm : Parts m₀ 2097709 := by first | decide | exact Parts.sub (by assumption) (by decide)) : KeepsOut m₀ u₀ (execEraseSector g w s) := by
  unfold execEraseSector
  try extract_lets
  repeat' first
    | exact Parts.sub hm (by decide)
    | with_reducible exact hk
    | with_reducible exact Keeps.refl _ _
    | with_reducible apply State.cmd2_keeps
    | with_reducible apply ok_keeps
    | with_reducible apply KeepsOut.next
    | with_reducible apply Keeps.ite
    | with_reducible apply KeepsOut.ite
    | with_reducible apply Keeps.iteSnd
    | with_reducible apply Keeps.iteFst
    | refine Keeps.sndOf (by assumption) ?_
    | refine Keeps.fstOf (by assumption) ?_
    | with_reducible assumption
    | with_reducible exact fun _ w => w
    | with_reducible (intro _)
    | split
    | extract_lets
    | dsimp +zetaDelta only

theorem execBlankCheck_keeps (g : Agent) (w : Word) {m₀ : Nat} {u₀ s : State} (hk : Keeps m₀ u₀ s) (hm : Parts m₀ 2097709 := by first | decide | exact Parts.sub (by assumption) (by decide)) : KeepsOut m₀ u₀ (execBlankCheck g w s) := by
  unfold execBlankCheck
  try extract_lets
  repeat' first
    | exact Parts.sub hm (by decide)
    | with_reducible exact hk
    | with_reducible exact Keeps.refl _ _
    | with_reducible apply State.cmd2_keeps
    | with_reducible apply ok_keeps
    | with_reducible apply KeepsOut.next
    | with_reducible apply Keeps.ite
    | with_reducible apply KeepsOut.ite
    | with_reducible apply Keeps.iteSnd
    | with_reducible apply Keeps.iteFst
    | refine Keeps.sndOf (by assumption) ?_
    | refine Keeps.fstOf (by assumption) ?_
    | with_reducible assumption
    | with_reducible exact fun _ w => w
    | with_reducible (intro _)
    | split
    | extract_lets
    | dsimp +zetaDelta only

theorem execFlashOperationComplete_keeps (how : FlashEnd) {m₀ : Nat} {u₀ s : State} (hk : Keeps m₀ u₀ s) (hm : Parts m₀ 3671039 := by first | decide | exact Parts.sub (by assumption) (by decide)) : KeepsOut m₀ u₀ (execFlashOperationComplete how s) := by
  unfold execFlashOperationComplete
  try extract_lets
  repeat' first
    | exact Parts.sub hm (by decide)
    | with_reducible exact hk
    | with_reducible exact Keeps.refl _ _
    | with_reducible apply State.flashDone_keeps
    | with_reducible apply ok_keeps
    | with_reducible apply KeepsOut.next
    | with_reducible apply Keeps.ite
    | with_reducible apply KeepsOut.ite
    | with_reducible apply Keeps.iteSnd
    | with_reducible apply Keeps.iteFst
    | refine Keeps.sndOf (by assumption) ?_
    | refine Keeps.fstOf (by assumption) ?_
    | with_reducible assumption
    | with_reducible exact fun _ w => w
    | with_reducible (intro _)
    | split
    | extract_lets
    | dsimp +zetaDelta only

theorem execFlashSequenceTimeout_keeps  {m₀ : Nat} {u₀ s : State} (hk : Keeps m₀ u₀ s) (hm : Parts m₀ 2097709 := by first | decide | exact Parts.sub (by assumption) (by decide)) : KeepsOut m₀ u₀ (execFlashSequenceTimeout s) := by
  unfold execFlashSequenceTimeout
  try extract_lets
  repeat' first
    | exact Parts.sub hm (by decide)
    | with_reducible exact hk
    | with_reducible exact Keeps.refl _ _
    | with_reducible apply State.endCompat_keeps
    | with_reducible apply State.endSeq_keeps
    | with_reducible apply State.event_keeps
    | with_reducible apply ok_keeps
    | with_reducible apply KeepsOut.next
    | with_reducible apply Keeps.ite
    | with_reducible apply KeepsOut.ite
    | with_reducible apply Keeps.iteSnd
    | with_reducible apply Keeps.iteFst
    | refine Keeps.sndOf (by assumption) ?_
    | refine Keeps.fstOf (by assumption) ?_
    | with_reducible assumption
    | with_reducible exact fun _ w => w
    | with_reducible (intro _)
    | split
    | extract_lets
    | dsimp +zetaDelta only

theorem execCompatKeyWrite_keeps (g : Agent) (w : Word) {m₀ : Nat} {u₀ s : State} (hk : Keeps m₀ u₀ s) (hm : Parts m₀ 2097709 := by first | decide | exact Parts.sub (by assumption) (by decide)) : KeepsOut m₀ u₀ (execCompatKeyWrite g w s) := by
  unfold execCompatKeyWrite
  try extract_lets
  repeat' first
    | exact Parts.sub hm (by decide)
    | with_reducible exact hk
    | with_reducible exact Keeps.refl _ _
    | with_reducible apply State.compatResult_keeps
    | with_reducible apply State.endCompat_keeps
    | with_reducible apply State.flashNext_keeps
    | with_reducible apply State.updCfl_keeps
    | with_reducible apply ok_keeps
    | with_reducible apply KeepsOut.next
    | with_reducible apply Keeps.ite
    | with_reducible apply KeepsOut.ite
    | with_reducible apply Keeps.iteSnd
    | with_reducible apply Keeps.iteFst
    | refine Keeps.sndOf (by assumption) ?_
    | refine Keeps.fstOf (by assumption) ?_
    | with_reducible assumption
    | with_reducible exact fun _ w => w
    | with_reducible exact fun _ w => Store.wf_put w _ _
    | with_reducible exact fun _ w => Store.wf_put (Store.wf_put w _ _) _ _
    | with_reducible exact fun _ w => Store.wf_keep w _
    | with_reducible exact fun _ _ => Store.wf_nil
    | with_reducible (intro _)
    | split
    | extract_lets
    | dsimp +zetaDelta only

theorem State.compatCmd_keeps (g : Agent) (cmd : Nat) {m₀ : Nat} {u₀ s : State} (hk : Keeps m₀ u₀ s) (hm : Parts m₀ 2097709 := by first | decide | exact Parts.sub (by assumption) (by decide)) : Keeps m₀ u₀ (State.compatCmd s g cmd) := by
  unfold State.compatCmd
  try extract_lets
  repeat' first
    | exact Parts.sub hm (by decide)
    | with_reducible exact hk
    | with_reducible exact Keeps.refl _ _
    | with_reducible apply State.endCompat_keeps
    | with_reducible apply State.flashNext_keeps
    | with_reducible apply State.updCfl_keeps
    | with_reducible apply Keeps.ite
    | with_reducible apply Keeps.iteSnd
    | with_reducible apply Keeps.iteFst
    | refine Keeps.sndOf (by assumption) ?_
    | refine Keeps.fstOf (by assumption) ?_
    | with_reducible assumption
    | with_reducible exact fun _ w => w
    | with_reducible exact fun _ w => Store.wf_put w _ _
    | with_reducible exact fun _ w => Store.wf_put (Store.wf_put w _ _) _ _
    | with_reducible exact fun _ w => Store.wf_keep w _
    | with_reducible exact fun _ _ => Store.wf_nil
    | with_reducible (intro _)
    | split
    | extract_lets
    | dsimp +zetaDelta only

theorem State.compatAddr_keeps (g : Agent) (a : Nat) {m₀ : Nat} {u₀ s : State} (hk : Keeps m₀ u₀ s) (hm : Parts m₀ 2097709 := by first | decide | exact Parts.sub (by assumption) (by decide)) : Keeps m₀ u₀ (State.compatAddr s g a) := by
  unfold State.compatAddr
  try extract_lets
  repeat' first
    | exact Parts.sub hm (by decide)
    | with_reducible exact hk
    | with_reducible exact Keeps.refl _ _
    | with_reducible apply State.endCompat_keeps
    | with_reducible apply State.startOp_keeps
    | with_reducible apply State.updCfl_keeps
    | with_reducible apply Keeps.ite
    | with_reducible apply Keeps.iteSnd
    | with_reducible apply Keeps.iteFst
    | refine Keeps.sndOf (by assumption) ?_
    | refine Keeps.fstOf (by assumption) ?_
    | with_reducible assumption
    | with_reducible exact fun _ w => w
    | with_reducible exact fun _ w => Store.wf_put w _ _
    | with_reducible exact fun _ w => Store.wf_put (Store.wf_put w _ _) _ _
    | with_reducible exact fun _ w => Store.wf_keep w _
    | with_reducible exact fun _ _ => Store.wf_nil
    | with_reducible (intro _)
    | split
    | extract_lets
    | dsimp +zetaDelta only

theorem execCompatProgramWord_keeps (g : Agent) (w : Word) {m₀ : Nat} {u₀ s : State} (hk : Keeps m₀ u₀ s) (hm : Parts m₀ 2097709 := by first | decide | exact Parts.sub (by assumption) (by decide)) : KeepsOut m₀ u₀ (execCompatProgramWord g w s) := by
  unfold execCompatProgramWord
  try extract_lets
  repeat' first
    | exact Parts.sub hm (by decide)
    | with_reducible exact hk
    | with_reducible exact Keeps.refl _ _
    | with_reducible apply State.compatResult_keeps
    | with_reducible apply State.endCompat_keeps
    | with_reducible apply State.flashNext_keeps
    | with_reducible apply State.startOp_keeps
    | with_reducible apply State.updCfl_keeps
    | with_reducible apply ok_keeps
    | with_reducible apply KeepsOut.next
    | with_reducible apply Keeps.ite
    | with_reducible apply KeepsOut.ite
    | with_reducible apply Keeps.iteSnd
    | with_reducible apply Keeps.iteFst
    | refine Keeps.sndOf (by assumption) ?_
    | refine Keeps.fstOf (by assumption) ?_
    | with_reducible assumption
    | with_reducible exact fun _ w => w
    | with_reducible exact fun _ w => Store.wf_put w _ _
    | with_reducible exact fun _ w => Store.wf_put (Store.wf_put w _ _) _ _
    | with_reducible exact fun _ w => Store.wf_keep w _
    | with_reducible exact fun _ _ => Store.wf_nil
    | with_reducible (intro _)
    | split
    | extract_lets
    | dsimp +zetaDelta only

theorem execCompatEraseSector_keeps (g : Agent) (a : BitVec 26) {m₀ : Nat} {u₀ s : State} (hk : Keeps m₀ u₀ s) (hm : Parts m₀ 2097709 := by first | decide | exact Parts.sub (by assumption) (by decide)) : KeepsOut m₀ u₀ (execCompatEraseSector g a s) := by
  unfold execCompatEraseSector
  try extract_lets
  repeat' first
    | exact Parts.sub hm (by decide)
    | with_reducible exact hk
    | with_reducible exact Keeps.refl _ _
    | with_reducible apply State.compatAddr_keeps
    | with_reducible apply ok_keeps
    | with_reducible apply KeepsOut.next
    | with_reducible apply Keeps.ite
    | with_reducible apply KeepsOut.ite
    | with_reducible apply Keeps.iteSnd
    | with_reducible apply Keeps.iteFst
    | refine Keeps.sndOf (by assumption) ?_
    | refine Keeps.fstOf (by assumption) ?_
    | with_reducible assumption
    | with_reducible exact fun _ w => w
    | with_reducible (intro _)
    | split
    | extract_lets
    | dsimp +zetaDelta only

theorem execCompatBlankCheck_keeps (g : Agent) (a : BitVec 26) {m₀ : Nat} {u₀ s : State} (hk : Keeps m₀ u₀ s) (hm : Parts m₀ 2097709 := by first | decide | exact Parts.sub (by assumption) (by decide)) : KeepsOut m₀ u₀ (execCompatBlankCheck g a s) := by
  unfold execCompatBlankCheck
  try extract_lets
  repeat' first
    | exact Parts.sub hm (by decide)
    | with_reducible exact hk
    | with_reducible exact Keeps.refl _ _
    | with_reducible apply State.compatAddr_keeps
    | with_reducible apply ok_keeps
    | with_reducible apply KeepsOut.next
    | with_reducible apply Keeps.ite
    | with_reducible apply KeepsOut.ite
    | with_reducible apply Keeps.iteSnd
    | with_reducible apply Keeps.iteFst
    | refine Keeps.sndOf (by assumption) ?_
    | refine Keeps.fstOf (by assumption) ?_
    | with_reducible assumption
    | with_reducible exact fun _ w => w
    | with_reducible (intro _)
    | split
    | extract_lets
    | dsimp +zetaDelta only

theorem execCompatAbort_keeps (g : Agent) {m₀ : Nat} {u₀ s : State} (hk : Keeps m₀ u₀ s) (hm : Parts m₀ 2097709 := by first | decide | exact Parts.sub (by assumption) (by decide)) : KeepsOut m₀ u₀ (execCompatAbort g s) := by
  unfold execCompatAbort
  try extract_lets
  repeat' first
    | exact Parts.sub hm (by decide)
    | with_reducible exact hk
    | with_reducible exact Keeps.refl _ _
    | with_reducible apply State.compatCmd_keeps
    | with_reducible apply ok_keeps
    | with_reducible apply KeepsOut.next
    | with_reducible apply Keeps.ite
    | with_reducible apply KeepsOut.ite
    | with_reducible apply Keeps.iteSnd
    | with_reducible apply Keeps.iteFst
    | refine Keeps.sndOf (by assumption) ?_
    | refine Keeps.fstOf (by assumption) ?_
    | with_reducible assumption
    | with_reducible exact fun _ w => w
    | with_reducible (intro _)
    | split
    | extract_lets
    | dsimp +zetaDelta only

theorem execFlagScan_keeps  {m₀ : Nat} {u₀ s : State} (hk : Keeps m₀ u₀ s) (hm : Parts m₀ 3146285 := by first | decide | exact Parts.sub (by assumption) (by decide)) : KeepsOut m₀ u₀ (execFlagScan s) := by
  unfold execFlagScan
  try extract_lets
  repeat' first
    | exact Parts.sub hm (by decide)
    | with_reducible exact hk
    | with_reducible exact Keeps.refl _ _
    | with_reducible apply State.event_keeps
    | with_reducible apply State.flashNext_keeps
    | with_reducible apply State.loadPair_keeps
    | with_reducible apply State.updCfl_keeps
    | with_reducible apply ok_keeps
    | with_reducible apply Keeps.foldl
    | with_reducible apply Keeps.foldlFst
    | with_reducible apply Keeps.foldlSnd
    | with_reducible apply KeepsOut.next
    | with_reducible apply Keeps.ite
    | with_reducible apply KeepsOut.ite
    | with_reducible apply Keeps.iteSnd
    | with_reducible apply Keeps.iteFst
    | refine Keeps.sndOf (by assumption) ?_
    | refine Keeps.fstOf (by assumption) ?_
    | with_reducible assumption
    | with_reducible exact fun _ w => w
    | with_reducible exact fun _ w => Store.wf_put w _ _
    | with_reducible exact fun _ w => Store.wf_put (Store.wf_put w _ _) _ _
    | with_reducible exact fun _ w => Store.wf_keep w _
    | with_reducible exact fun _ _ => Store.wf_nil
    | with_reducible (intro _)
    | split
    | extract_lets
    | dsimp +zetaDelta only

theorem execBootSelect_keeps (g : Agent) (block : Bool) (key : BitVec 16) {m₀ : Nat} {u₀ s : State} (hk : Keeps m₀ u₀ s) (hm : Parts m₀ 2097708 := by first | decide | exact Parts.sub (by assumption) (by decide)) : KeepsOut m₀ u₀ (execBootSelect g block key s) := by
  unfold execBootSelect
  try extract_lets
  repeat' first
    | exact Parts.sub hm (by decide)
    | with_reducible exact hk
    | with_reducible exact Keeps.refl _ _
    | with_reducible apply State.flashWrite_keeps
    | with_reducible apply ok_keeps
    | with_reducible apply KeepsOut.next
    | with_reducible apply Keeps.ite
    | with_reducible apply KeepsOut.ite
    | with_reducible apply Keeps.iteSnd
    | with_reducible apply Keeps.iteFst
    | refine Keeps.sndOf (by assumption) ?_
    | refine Keeps.fstOf (by assumption) ?_
    | with_reducible assumption
    | with_reducible exact fun _ w => w
    | with_reducible (intro _)
    | split
    | extract_lets
    | dsimp +zetaDelta only

end Sys2Proof.Machine
end

