-- ==== Sys2Proof/Laws/Keeps/Ledger.lean ====
section
/-! SUPPORT. The operations of Ledger keep the queue and a sound state. -/

set_option Elab.async false

namespace Sys2Proof.Machine

set_option linter.unreachableTactic false
set_option linter.unusedTactic false
set_option linter.unusedVariables false

theorem execHealthFiguresStale_keeps  {m₀ : Nat} {u₀ s : State} (hk : Keeps m₀ u₀ s) (hm : Parts m₀ 2097677 := by first | decide | exact Parts.sub (by assumption) (by decide)) : KeepsOut m₀ u₀ (execHealthFiguresStale s) := by
  unfold execHealthFiguresStale
  try extract_lets
  repeat' first
    | exact Parts.sub hm (by decide)
    | with_reducible exact hk
    | with_reducible exact Keeps.refl _ _
    | with_reducible apply State.checkStale_keeps
    | with_reducible apply ok_keeps
    | with_reducible apply KeepsOut.next
    | with_reducible apply Keeps.ite
    | with_reducible apply KeepsOut.ite
    | with_reducible apply Keeps.iteSnd
    | with_reducible apply Keeps.iteFst
    | refine Keeps.sndOf (by assumption) ?_
    | refine Keeps.fstOf (by assumption) ?_
    | with_reducible assumption
    | with_reducible exact fun _ w => w
    | with_reducible (intro _)
    | split
    | extract_lets
    | dsimp +zetaDelta only

theorem State.rehBegin_keeps  {m₀ : Nat} {u₀ s : State} (hk : Keeps m₀ u₀ s) (hm : Parts m₀ 12289 := by first | decide | exact Parts.sub (by assumption) (by decide)) : Keeps m₀ u₀ (State.rehBegin s) := by
  unfold State.rehBegin
  try extract_lets
  repeat' first
    | exact Parts.sub hm (by decide)
    | with_reducible exact hk
    | with_reducible exact Keeps.refl _ _
    | with_reducible apply State.enqueue_keeps
    | with_reducible apply State.set_keeps
    | with_reducible apply State.setB_keeps
    | with_reducible apply State.updLdg_keeps
    | with_reducible apply Keeps.ite
    | with_reducible apply Keeps.iteSnd
    | with_reducible apply Keeps.iteFst
    | refine Keeps.sndOf (by assumption) ?_
    | refine Keeps.fstOf (by assumption) ?_
    | with_reducible assumption
    | with_reducible exact fun _ w => w
    | with_reducible (intro _)
    | split
    | extract_lets
    | dsimp +zetaDelta only

theorem execRehearsalGo_keeps  {m₀ : Nat} {u₀ s : State} (hk : Keeps m₀ u₀ s) (hm : Parts m₀ 12289 := by first | decide | exact Parts.sub (by assumption) (by decide)) : KeepsOut m₀ u₀ (execRehearsalGo s) := by
  unfold execRehearsalGo
  try extract_lets
  repeat' first
    | exact Parts.sub hm (by decide)
    | with_reducible exact hk
    | with_reducible exact Keeps.refl _ _
    | with_reducible apply State.rehBegin_keeps
    | with_reducible apply ok_keeps
    | with_reducible apply KeepsOut.next
    | with_reducible apply Keeps.ite
    | with_reducible apply KeepsOut.ite
    | with_reducible apply Keeps.iteSnd
    | with_reducible apply Keeps.iteFst
    | refine Keeps.sndOf (by assumption) ?_
    | refine Keeps.fstOf (by assumption) ?_
    | with_reducible assumption
    | with_reducible exact fun _ w => w
    | with_reducible (intro _)
    | split
    | extract_lets
    | dsimp +zetaDelta only

theorem execRehearsalScheduled_keeps  {m₀ : Nat} {u₀ s : State} (hk : Keeps m₀ u₀ s) (hm : Parts m₀ 12289 := by first | decide | exact Parts.sub (by assumption) (by decide)) : KeepsOut m₀ u₀ (execRehearsalScheduled s) := by
  unfold execRehearsalScheduled
  try extract_lets
  repeat' first
    | exact Parts.sub hm (by decide)
    | with_reducible exact hk
    | with_reducible exact Keeps.refl _ _
    | with_reducible apply State.rehBegin_keeps
    | with_reducible apply State.updLdg_keeps
    | with_reducible apply ok_keeps
    | with_reducible apply KeepsOut.next
    | with_reducible apply Keeps.ite
    | with_reducible apply KeepsOut.ite
    | with_reducible apply Keeps.iteSnd
    | with_reducible apply Keeps.iteFst
    | refine Keeps.sndOf (by assumption) ?_
    | refine Keeps.fstOf (by assumption) ?_
    | with_reducible assumption
    | with_reducible exact fun _ w => w
    | with_reducible (intro _)
    | split
    | extract_lets
    | dsimp +zetaDelta only

theorem execRehearsalEnd_keeps  {m₀ : Nat} {u₀ s : State} (hk : Keeps m₀ u₀ s) (hm : Parts m₀ 2105903 := by first | decide | exact Parts.sub (by assumption) (by decide)) : KeepsOut m₀ u₀ (execRehearsalEnd s) := by
  unfold execRehearsalEnd
  try extract_lets
  repeat' first
    | exact Parts.sub hm (by decide)
    | with_reducible exact hk
    | with_reducible exact Keeps.refl _ _
    | with_reducible apply State.draw_keeps
    | with_reducible apply State.event_keeps
    | with_reducible apply State.flashWrite_keeps
    | with_reducible apply State.set_keeps
    | with_reducible apply State.setB_keeps
    | with_reducible apply State.updLdg_keeps
    | with_reducible apply ok_keeps
    | with_reducible apply KeepsOut.next
    | with_reducible apply Keeps.ite
    | with_reducible apply KeepsOut.ite
    | with_reducible apply Keeps.iteSnd
    | with_reducible apply Keeps.iteFst
    | refine Keeps.sndOf (by assumption) ?_
    | refine Keeps.fstOf (by assumption) ?_
    | with_reducible assumption
    | with_reducible exact fun _ w => w
    | with_reducible (intro _)
    | split
    | extract_lets
    | dsimp +zetaDelta only

theorem execBankRelease_keeps (mod : BitVec 2) {m₀ : Nat} {u₀ s : State} (hk : Keeps m₀ u₀ s) (hm : Parts m₀ 2105869 := by first | decide | exact Parts.sub (by assumption) (by decide)) : KeepsOut m₀ u₀ (execBankRelease mod s) := by
  unfold execBankRelease
  try extract_lets
  repeat' first
    | exact Parts.sub hm (by decide)
    | with_reducible exact hk
    | with_reducible exact Keeps.refl _ _
    | with_reducible apply State.logRefusal_keeps
    | with_reducible apply State.set_keeps
    | with_reducible apply State.updLdg_keeps
    | with_reducible apply ok_keeps
    | with_reducible apply KeepsOut.next
    | with_reducible apply Keeps.ite
    | with_reducible apply KeepsOut.ite
    | with_reducible apply Keeps.iteSnd
    | with_reducible apply Keeps.iteFst
    | refine Keeps.sndOf (by assumption) ?_
    | refine Keeps.fstOf (by assumption) ?_
    | with_reducible assumption
    | with_reducible exact fun _ w => w
    | with_reducible (intro _)
    | split
    | extract_lets
    | dsimp +zetaDelta only

theorem execBankReleaseCancel_keeps (mod : BitVec 2) {m₀ : Nat} {u₀ s : State} (hk : Keeps m₀ u₀ s) (hm : Parts m₀ 8193 := by first | decide | exact Parts.sub (by assumption) (by decide)) : KeepsOut m₀ u₀ (execBankReleaseCancel mod s) := by
  unfold execBankReleaseCancel
  try extract_lets
  repeat' first
    | exact Parts.sub hm (by decide)
    | with_reducible exact hk
    | with_reducible exact Keeps.refl _ _
    | with_reducible apply State.set_keeps
    | with_reducible apply State.updLdg_keeps
    | with_reducible apply ok_keeps
    | with_reducible apply KeepsOut.next
    | with_reducible apply Keeps.ite
    | with_reducible apply KeepsOut.ite
    | with_reducible apply Keeps.iteSnd
    | with_reducible apply Keeps.iteFst
    | refine Keeps.sndOf (by assumption) ?_
    | refine Keeps.fstOf (by assumption) ?_
    | with_reducible assumption
    | with_reducible exact fun _ w => w
    | with_reducible (intro _)
    | split
    | extract_lets
    | dsimp +zetaDelta only

theorem execEnergyModuleReleased_keeps (mod : BitVec 2) {m₀ : Nat} {u₀ s : State} (hk : Keeps m₀ u₀ s) (hm : Parts m₀ 2130445 := by first | decide | exact Parts.sub (by assumption) (by decide)) : KeepsOut m₀ u₀ (execEnergyModuleReleased mod s) := by
  unfold execEnergyModuleReleased
  try extract_lets
  repeat' first
    | exact Parts.sub hm (by decide)
    | with_reducible exact hk
    | with_reducible exact Keeps.refl _ _
    | with_reducible apply State.event_keeps
    | with_reducible apply State.set_keeps
    | with_reducible apply State.setSwitch_keeps
    | with_reducible apply ok_keeps
    | with_reducible apply KeepsOut.next
    | with_reducible apply Keeps.ite
    | with_reducible apply KeepsOut.ite
    | with_reducible apply Keeps.iteSnd
    | with_reducible apply Keeps.iteFst
    | refine Keeps.sndOf (by assumption) ?_
    | refine Keeps.fstOf (by assumption) ?_
    | with_reducible assumption
    | with_reducible exact fun _ w => w
    | with_reducible (intro _)
    | split
    | extract_lets
    | dsimp +zetaDelta only

theorem execEnergyModuleAbsent_keeps (mod : BitVec 2) {m₀ : Nat} {u₀ s : State} (hk : Keeps m₀ u₀ s) (hm : Parts m₀ 8192 := by first | decide | exact Parts.sub (by assumption) (by decide)) : KeepsOut m₀ u₀ (execEnergyModuleAbsent mod s) := by
  unfold execEnergyModuleAbsent
  try extract_lets
  repeat' first
    | exact Parts.sub hm (by decide)
    | with_reducible exact hk
    | with_reducible exact Keeps.refl _ _
    | with_reducible apply State.updLdg_keeps
    | with_reducible apply ok_keeps
    | with_reducible apply KeepsOut.next
    | with_reducible apply Keeps.ite
    | with_reducible apply KeepsOut.ite
    | with_reducible apply Keeps.iteSnd
    | with_reducible apply Keeps.iteFst
    | refine Keeps.sndOf (by assumption) ?_
    | refine Keeps.fstOf (by assumption) ?_
    | with_reducible assumption
    | with_reducible exact fun _ w => w
    | with_reducible (intro _)
    | split
    | extract_lets
    | dsimp +zetaDelta only

end Sys2Proof.Machine
end

