-- ==== Sys2Proof/Laws/Keeps/SeqOps.lean ====
section
/-! SUPPORT. The operations of SeqOps keep the queue and a sound state. -/

set_option Elab.async false

namespace Sys2Proof.Machine

set_option linter.unreachableTactic false
set_option linter.unusedTactic false
set_option linter.unusedVariables false

theorem State.setRailSt_keeps (n : Nat) (r : RailSt) {m₀ : Nat} {u₀ s : State} (hk : Keeps m₀ u₀ s) (hm : Parts m₀ 32768 := by first | decide | exact Parts.sub (by assumption) (by decide)) : Keeps m₀ u₀ (State.setRailSt s n r) := by
  unfold State.setRailSt
  try extract_lets
  repeat' first
    | exact Parts.sub hm (by decide)
    | with_reducible exact hk
    | with_reducible exact Keeps.refl _ _
    | with_reducible apply State.updSeq_keeps
    | with_reducible apply Keeps.ite
    | with_reducible apply Keeps.iteSnd
    | with_reducible apply Keeps.iteFst
    | refine Keeps.sndOf (by assumption) ?_
    | refine Keeps.fstOf (by assumption) ?_
    | with_reducible assumption
    | with_reducible exact fun _ w => w
    | with_reducible (intro _)
    | split
    | extract_lets
    | dsimp +zetaDelta only

theorem State.setRail_keeps (n v : Nat) {m₀ : Nat} {u₀ s : State} (hk : Keeps m₀ u₀ s) (hm : Parts m₀ 1 := by first | decide | exact Parts.sub (by assumption) (by decide)) : Keeps m₀ u₀ (State.setRail s n v) := by
  unfold State.setRail
  try extract_lets
  repeat' first
    | exact Parts.sub hm (by decide)
    | with_reducible exact hk
    | with_reducible exact Keeps.refl _ _
    | with_reducible apply State.set_keeps
    | with_reducible apply Keeps.ite
    | with_reducible apply Keeps.iteSnd
    | with_reducible apply Keeps.iteFst
    | refine Keeps.sndOf (by assumption) ?_
    | refine Keeps.fstOf (by assumption) ?_
    | with_reducible assumption
    | with_reducible exact fun _ w => w
    | with_reducible (intro _)
    | split
    | extract_lets
    | dsimp +zetaDelta only

theorem State.showOrder_keeps  {m₀ : Nat} {u₀ s : State} (hk : Keeps m₀ u₀ s) (hm : Parts m₀ 1 := by first | decide | exact Parts.sub (by assumption) (by decide)) : Keeps m₀ u₀ (State.showOrder s) := by
  unfold State.showOrder
  try extract_lets
  repeat' first
    | exact Parts.sub hm (by decide)
    | with_reducible exact hk
    | with_reducible exact Keeps.refl _ _
    | with_reducible apply State.set_keeps
    | with_reducible apply Keeps.foldl
    | with_reducible apply Keeps.foldlFst
    | with_reducible apply Keeps.foldlSnd
    | with_reducible apply Keeps.ite
    | with_reducible apply Keeps.iteSnd
    | with_reducible apply Keeps.iteFst
    | refine Keeps.sndOf (by assumption) ?_
    | refine Keeps.fstOf (by assumption) ?_
    | with_reducible assumption
    | with_reducible exact fun _ w => w
    | with_reducible (intro _)
    | split
    | extract_lets
    | dsimp +zetaDelta only

theorem State.assertRst_keeps (g : Nat) {m₀ : Nat} {u₀ s : State} (hk : Keeps m₀ u₀ s) (hm : Parts m₀ 32769 := by first | decide | exact Parts.sub (by assumption) (by decide)) : Keeps m₀ u₀ (State.assertRst s g) := by
  unfold State.assertRst
  try extract_lets
  repeat' first
    | exact Parts.sub hm (by decide)
    | with_reducible exact hk
    | with_reducible exact Keeps.refl _ _
    | with_reducible apply State.set_keeps
    | with_reducible apply State.updSeq_keeps
    | with_reducible apply Keeps.ite
    | with_reducible apply Keeps.iteSnd
    | with_reducible apply Keeps.iteFst
    | refine Keeps.sndOf (by assumption) ?_
    | refine Keeps.fstOf (by assumption) ?_
    | with_reducible assumption
    | with_reducible exact fun _ w => w
    | with_reducible (intro _)
    | split
    | extract_lets
    | dsimp +zetaDelta only

theorem State.railOff_keeps (n code : Nat) {m₀ : Nat} {u₀ s : State} (hk : Keeps m₀ u₀ s) (hm : Parts m₀ 32769 := by first | decide | exact Parts.sub (by assumption) (by decide)) : Keeps m₀ u₀ (State.railOff s n code) := by
  unfold State.railOff
  try extract_lets
  repeat' first
    | exact Parts.sub hm (by decide)
    | with_reducible exact hk
    | with_reducible exact Keeps.refl _ _
    | with_reducible apply State.assertRst_keeps
    | with_reducible apply State.set_keeps
    | with_reducible apply State.setB_keeps
    | with_reducible apply State.setRail_keeps
    | with_reducible apply State.showOrder_keeps
    | with_reducible apply State.updSeq_keeps
    | with_reducible apply Keeps.ite
    | with_reducible apply Keeps.iteSnd
    | with_reducible apply Keeps.iteFst
    | refine Keeps.sndOf (by assumption) ?_
    | refine Keeps.fstOf (by assumption) ?_
    | with_reducible assumption
    | with_reducible exact fun _ w => w
    | with_reducible (intro _)
    | split
    | extract_lets
    | dsimp +zetaDelta only

theorem State.railsOff_keeps (l : List Nat) {m₀ : Nat} {u₀ s : State} (hk : Keeps m₀ u₀ s) (hm : Parts m₀ 32769 := by first | decide | exact Parts.sub (by assumption) (by decide)) : Keeps m₀ u₀ (State.railsOff s l) := by
  unfold State.railsOff
  try extract_lets
  repeat' first
    | exact Parts.sub hm (by decide)
    | with_reducible exact hk
    | with_reducible exact Keeps.refl _ _
    | with_reducible apply State.railOff_keeps
    | with_reducible apply Keeps.foldl
    | with_reducible apply Keeps.foldlFst
    | with_reducible apply Keeps.foldlSnd
    | with_reducible apply Keeps.ite
    | with_reducible apply Keeps.iteSnd
    | with_reducible apply Keeps.iteFst
    | refine Keeps.sndOf (by assumption) ?_
    | refine Keeps.fstOf (by assumption) ?_
    | with_reducible assumption
    | with_reducible exact fun _ w => w
    | with_reducible (intro _)
    | split
    | extract_lets
    | dsimp +zetaDelta only

theorem State.seqEvent_keeps (code rail src : Nat) {m₀ : Nat} {u₀ s : State} (hk : Keeps m₀ u₀ s) (hm : Parts m₀ 2130445 := by first | decide | exact Parts.sub (by assumption) (by decide)) : Keeps m₀ u₀ (State.seqEvent s code rail src) := by
  unfold State.seqEvent
  try extract_lets
  repeat' first
    | exact Parts.sub hm (by decide)
    | with_reducible exact hk
    | with_reducible exact Keeps.refl _ _
    | with_reducible apply State.eventWith_keeps
    | with_reducible apply State.set_keeps
    | with_reducible apply State.setB_keeps
    | with_reducible apply State.updSeq_keeps
    | with_reducible apply Keeps.ite
    | with_reducible apply Keeps.iteSnd
    | with_reducible apply Keeps.iteFst
    | refine Keeps.sndOf (by assumption) ?_
    | refine Keeps.fstOf (by assumption) ?_
    | with_reducible assumption
    | with_reducible exact fun _ w => w
    | with_reducible (intro _)
    | split
    | extract_lets
    | dsimp +zetaDelta only

theorem State.setDom_keeps (d : Nat) (on : Bool) {m₀ : Nat} {u₀ s : State} (hk : Keeps m₀ u₀ s) (hm : Parts m₀ 1 := by first | decide | exact Parts.sub (by assumption) (by decide)) : Keeps m₀ u₀ (State.setDom s d on) := by
  unfold State.setDom
  try extract_lets
  repeat' first
    | exact Parts.sub hm (by decide)
    | with_reducible exact hk
    | with_reducible exact Keeps.refl _ _
    | with_reducible apply State.set_keeps
    | with_reducible apply Keeps.ite
    | with_reducible apply Keeps.iteSnd
    | with_reducible apply Keeps.iteFst
    | refine Keeps.sndOf (by assumption) ?_
    | refine Keeps.fstOf (by assumption) ?_
    | with_reducible assumption
    | with_reducible exact fun _ w => w
    | with_reducible (intro _)
    | split
    | extract_lets
    | dsimp +zetaDelta only

theorem State.domLoses_keeps (d : Nat) {m₀ : Nat} {u₀ s : State} (hk : Keeps m₀ u₀ s) (hm : Parts m₀ 525409 := by first | decide | exact Parts.sub (by assumption) (by decide)) : Keeps m₀ u₀ (State.domLoses s d) := by
  unfold State.domLoses
  try extract_lets
  repeat' first
    | exact Parts.sub hm (by decide)
    | with_reducible exact hk
    | with_reducible exact Keeps.refl _ _
    | with_reducible apply State.dropRegs_keeps
    | with_reducible apply State.linkClear_keeps
    | with_reducible apply State.set_keeps
    | with_reducible apply State.updCfl_keeps
    | with_reducible apply State.updDge_keeps
    | with_reducible apply State.updHp_keeps
    | with_reducible apply Keeps.ite
    | with_reducible apply Keeps.iteSnd
    | with_reducible apply Keeps.iteFst
    | refine Keeps.sndOf (by assumption) ?_
    | refine Keeps.fstOf (by assumption) ?_
    | with_reducible assumption
    | with_reducible exact fun _ w => w
    | with_reducible exact fun _ w => Store.wf_put w _ _
    | with_reducible exact fun _ w => Store.wf_put (Store.wf_put w _ _) _ _
    | with_reducible exact fun _ w => Store.wf_keep w _
    | with_reducible exact fun _ _ => Store.wf_nil
    | with_reducible (intro _)
    | split
    | extract_lets
    | dsimp +zetaDelta only

theorem State.domsOff_keeps (l : List Nat) {m₀ : Nat} {u₀ s : State} (hk : Keeps m₀ u₀ s) (hm : Parts m₀ 558177 := by first | decide | exact Parts.sub (by assumption) (by decide)) : Keeps m₀ u₀ (State.domsOff s l) := by
  unfold State.domsOff
  try extract_lets
  repeat' first
    | exact Parts.sub hm (by decide)
    | with_reducible exact hk
    | with_reducible exact Keeps.refl _ _
    | with_reducible apply State.domLoses_keeps
    | with_reducible apply State.setDom_keeps
    | with_reducible apply State.updSeq_keeps
    | with_reducible apply Keeps.foldl
    | with_reducible apply Keeps.foldlFst
    | with_reducible apply Keeps.foldlSnd
    | with_reducible apply Keeps.ite
    | with_reducible apply Keeps.iteSnd
    | with_reducible apply Keeps.iteFst
    | refine Keeps.sndOf (by assumption) ?_
    | refine Keeps.fstOf (by assumption) ?_
    | with_reducible assumption
    | with_reducible exact fun _ w => w
    | with_reducible (intro _)
    | split
    | extract_lets
    | dsimp +zetaDelta only

theorem State.allDomsOff_keeps  {m₀ : Nat} {u₀ s : State} (hk : Keeps m₀ u₀ s) (hm : Parts m₀ 558177 := by first | decide | exact Parts.sub (by assumption) (by decide)) : Keeps m₀ u₀ (State.allDomsOff s) := by
  unfold State.allDomsOff
  try extract_lets
  repeat' first
    | exact Parts.sub hm (by decide)
    | with_reducible exact hk
    | with_reducible exact Keeps.refl _ _
    | with_reducible apply State.domsOff_keeps
    | with_reducible apply Keeps.ite
    | with_reducible apply Keeps.iteSnd
    | with_reducible apply Keeps.iteFst
    | refine Keeps.sndOf (by assumption) ?_
    | refine Keeps.fstOf (by assumption) ?_
    | with_reducible assumption
    | with_reducible exact fun _ w => w
    | with_reducible (intro _)
    | split
    | extract_lets
    | dsimp +zetaDelta only

theorem State.startRails_keeps  {m₀ : Nat} {u₀ s : State} (hk : Keeps m₀ u₀ s) (hm : Parts m₀ 32769 := by first | decide | exact Parts.sub (by assumption) (by decide)) : Keeps m₀ u₀ (State.startRails s) := by
  unfold State.startRails
  try extract_lets
  repeat' first
    | exact Parts.sub hm (by decide)
    | with_reducible exact hk
    | with_reducible exact Keeps.refl _ _
    | with_reducible apply State.setRail_keeps
    | with_reducible apply State.setRailSt_keeps
    | with_reducible apply State.updSeq_keeps
    | with_reducible apply Keeps.foldl
    | with_reducible apply Keeps.foldlFst
    | with_reducible apply Keeps.foldlSnd
    | with_reducible apply Keeps.ite
    | with_reducible apply Keeps.iteSnd
    | with_reducible apply Keeps.iteFst
    | refine Keeps.sndOf (by assumption) ?_
    | refine Keeps.fstOf (by assumption) ?_
    | with_reducible assumption
    | with_reducible exact fun _ w => w
    | with_reducible (intro _)
    | split
    | extract_lets
    | dsimp +zetaDelta only

theorem State.startDoms_keeps  {m₀ : Nat} {u₀ s : State} (hk : Keeps m₀ u₀ s) (hm : Parts m₀ 32768 := by first | decide | exact Parts.sub (by assumption) (by decide)) : Keeps m₀ u₀ (State.startDoms s) := by
  unfold State.startDoms
  try extract_lets
  repeat' first
    | exact Parts.sub hm (by decide)
    | with_reducible exact hk
    | with_reducible exact Keeps.refl _ _
    | with_reducible apply State.updSeq_keeps
    | with_reducible apply Keeps.foldl
    | with_reducible apply Keeps.foldlFst
    | with_reducible apply Keeps.foldlSnd
    | with_reducible apply Keeps.ite
    | with_reducible apply Keeps.iteSnd
    | with_reducible apply Keeps.iteFst
    | refine Keeps.sndOf (by assumption) ?_
    | refine Keeps.fstOf (by assumption) ?_
    | with_reducible assumption
    | with_reducible exact fun _ w => w
    | with_reducible (intro _)
    | split
    | extract_lets
    | dsimp +zetaDelta only

theorem State.domReport_keeps (mask : Nat) {m₀ : Nat} {u₀ s : State} (hk : Keeps m₀ u₀ s) (hm : Parts m₀ 32769 := by first | decide | exact Parts.sub (by assumption) (by decide)) : Keeps m₀ u₀ (State.domReport s mask) := by
  unfold State.domReport
  try extract_lets
  repeat' first
    | exact Parts.sub hm (by decide)
    | with_reducible exact hk
    | with_reducible exact Keeps.refl _ _
    | with_reducible apply State.setDom_keeps
    | with_reducible apply State.updSeq_keeps
    | with_reducible apply Keeps.foldl
    | with_reducible apply Keeps.foldlFst
    | with_reducible apply Keeps.foldlSnd
    | with_reducible apply Keeps.ite
    | with_reducible apply Keeps.iteSnd
    | with_reducible apply Keeps.iteFst
    | refine Keeps.sndOf (by assumption) ?_
    | refine Keeps.fstOf (by assumption) ?_
    | with_reducible assumption
    | with_reducible exact fun _ w => w
    | with_reducible (intro _)
    | split
    | extract_lets
    | dsimp +zetaDelta only

theorem State.startStretch_keeps (g : Nat) {m₀ : Nat} {u₀ s : State} (hk : Keeps m₀ u₀ s) (hm : Parts m₀ 32769 := by first | decide | exact Parts.sub (by assumption) (by decide)) : Keeps m₀ u₀ (State.startStretch s g) := by
  unfold State.startStretch
  try extract_lets
  repeat' first
    | exact Parts.sub hm (by decide)
    | with_reducible exact hk
    | with_reducible exact Keeps.refl _ _
    | with_reducible apply State.set_keeps
    | with_reducible apply State.updSeq_keeps
    | with_reducible apply Keeps.ite
    | with_reducible apply Keeps.iteSnd
    | with_reducible apply Keeps.iteFst
    | refine Keeps.sndOf (by assumption) ?_
    | refine Keeps.fstOf (by assumption) ?_
    | with_reducible assumption
    | with_reducible exact fun _ w => w
    | with_reducible (intro _)
    | split
    | extract_lets
    | dsimp +zetaDelta only

theorem State.railGood_keeps (n : Nat) {m₀ : Nat} {u₀ s : State} (hk : Keeps m₀ u₀ s) (hm : Parts m₀ 32769 := by first | decide | exact Parts.sub (by assumption) (by decide)) : Keeps m₀ u₀ (State.railGood s n) := by
  unfold State.railGood
  try extract_lets
  repeat' first
    | exact Parts.sub hm (by decide)
    | with_reducible exact hk
    | with_reducible exact Keeps.refl _ _
    | with_reducible apply State.setRail_keeps
    | with_reducible apply State.setRailSt_keeps
    | with_reducible apply State.showOrder_keeps
    | with_reducible apply State.startRails_keeps
    | with_reducible apply State.startStretch_keeps
    | with_reducible apply State.updSeq_keeps
    | with_reducible apply Keeps.ite
    | with_reducible apply Keeps.iteSnd
    | with_reducible apply Keeps.iteFst
    | refine Keeps.sndOf (by assumption) ?_
    | refine Keeps.fstOf (by assumption) ?_
    | with_reducible assumption
    | with_reducible exact fun _ w => w
    | with_reducible (intro _)
    | split
    | extract_lets
    | dsimp +zetaDelta only

theorem State.pdDone_keeps  {m₀ : Nat} {u₀ s : State} (hk : Keeps m₀ u₀ s) (hm : Parts m₀ 11109999 := by first | decide | exact Parts.sub (by assumption) (by decide)) : Keeps m₀ u₀ (State.pdDone s) := by
  unfold State.pdDone
  try extract_lets
  repeat' first
    | exact Parts.sub hm (by decide)
    | with_reducible exact hk
    | with_reducible exact Keeps.refl _ _
    | with_reducible apply State.coreStop_keeps
    | with_reducible apply State.enter_keeps
    | with_reducible apply State.event_keeps
    | with_reducible apply State.set_keeps
    | with_reducible apply State.updSeq_keeps
    | with_reducible apply Keeps.ite
    | with_reducible apply Keeps.iteSnd
    | with_reducible apply Keeps.iteFst
    | refine Keeps.sndOf (by assumption) ?_
    | refine Keeps.fstOf (by assumption) ?_
    | with_reducible assumption
    | with_reducible exact fun _ w => w
    | with_reducible (intro _)
    | split
    | extract_lets
    | dsimp +zetaDelta only

theorem State.pdStep_keeps  {m₀ : Nat} {u₀ s : State} (hk : Keeps m₀ u₀ s) (hm : Parts m₀ 11109999 := by first | decide | exact Parts.sub (by assumption) (by decide)) : Keeps m₀ u₀ (State.pdStep s) := by
  unfold State.pdStep
  try extract_lets
  repeat' first
    | exact Parts.sub hm (by decide)
    | with_reducible exact hk
    | with_reducible exact Keeps.refl _ _
    | with_reducible apply State.allDomsOff_keeps
    | with_reducible apply State.pdDone_keeps
    | with_reducible apply State.railOff_keeps
    | with_reducible apply State.updSeq_keeps
    | with_reducible apply Keeps.ite
    | with_reducible apply Keeps.iteSnd
    | with_reducible apply Keeps.iteFst
    | refine Keeps.sndOf (by assumption) ?_
    | refine Keeps.fstOf (by assumption) ?_
    | with_reducible assumption
    | with_reducible exact fun _ w => w
    | with_reducible (intro _)
    | split
    | extract_lets
    | dsimp +zetaDelta only

theorem State.powerDown_keeps  {m₀ : Nat} {u₀ s : State} (hk : Keeps m₀ u₀ s) (hm : Parts m₀ 11109999 := by first | decide | exact Parts.sub (by assumption) (by decide)) : Keeps m₀ u₀ (State.powerDown s) := by
  unfold State.powerDown
  try extract_lets
  repeat' first
    | exact Parts.sub hm (by decide)
    | with_reducible exact hk
    | with_reducible exact Keeps.refl _ _
    | with_reducible apply State.event_keeps
    | with_reducible apply State.pdStep_keeps
    | with_reducible apply State.railOff_keeps
    | with_reducible apply State.set_keeps
    | with_reducible apply State.setB_keeps
    | with_reducible apply State.updDrn_keeps
    | with_reducible apply State.updSeq_keeps
    | with_reducible apply Keeps.foldl
    | with_reducible apply Keeps.foldlFst
    | with_reducible apply Keeps.foldlSnd
    | with_reducible apply Keeps.ite
    | with_reducible apply Keeps.iteSnd
    | with_reducible apply Keeps.iteFst
    | refine Keeps.sndOf (by assumption) ?_
    | refine Keeps.fstOf (by assumption) ?_
    | with_reducible assumption
    | with_reducible exact fun _ w => w
    | with_reducible (intro _)
    | split
    | extract_lets
    | dsimp +zetaDelta only

theorem GroupOff.step_keeps (g : GroupOff) {m₀ : Nat} {u s : State} (h : Keeps m₀ u s) (hm : Parts m₀ 32769 := by first | decide | exact Parts.sub (by assumption) (by decide)) : Keeps m₀ u (GroupOff.step s g).1 := by
  unfold GroupOff.step
  split
  · exact h
  · exact State.railOff_keeps _ _ h

theorem State.groupStep_keeps (g : GroupOff) {m₀ : Nat} {u₀ s : State} (hk : Keeps m₀ u₀ s) (hm : Parts m₀ 32769 := by first | decide | exact Parts.sub (by assumption) (by decide)) : Keeps m₀ u₀ (State.groupStep s g) := by
  unfold State.groupStep
  try extract_lets
  repeat' first
    | exact Parts.sub hm (by decide)
    | with_reducible exact hk
    | with_reducible exact Keeps.refl _ _
    | with_reducible apply GroupOff.step_keeps
    | with_reducible apply State.updSeq_keeps
    | with_reducible apply Keeps.ite
    | with_reducible apply Keeps.iteSnd
    | with_reducible apply Keeps.iteFst
    | refine Keeps.sndOf (by assumption) ?_
    | refine Keeps.fstOf (by assumption) ?_
    | with_reducible assumption
    | with_reducible exact fun _ w => w
    | with_reducible (intro _)
    | split
    | extract_lets
    | dsimp +zetaDelta only

theorem State.groupBegin_keeps  {m₀ : Nat} {u₀ s : State} (hk : Keeps m₀ u₀ s) (hm : Parts m₀ 32769 := by first | decide | exact Parts.sub (by assumption) (by decide)) : Keeps m₀ u₀ (State.groupBegin s) := by
  unfold State.groupBegin
  try extract_lets
  repeat' first
    | exact Parts.sub hm (by decide)
    | with_reducible exact hk
    | with_reducible exact Keeps.refl _ _
    | with_reducible apply State.groupStep_keeps
    | with_reducible apply Keeps.foldl
    | with_reducible apply Keeps.foldlFst
    | with_reducible apply Keeps.foldlSnd
    | with_reducible apply Keeps.ite
    | with_reducible apply Keeps.iteSnd
    | with_reducible apply Keeps.iteFst
    | refine Keeps.sndOf (by assumption) ?_
    | refine Keeps.fstOf (by assumption) ?_
    | with_reducible assumption
    | with_reducible exact fun _ w => w
    | with_reducible (intro _)
    | split
    | extract_lets
    | dsimp +zetaDelta only

theorem State.groupDown_keeps (rails : List Nat) {m₀ : Nat} {u₀ s : State} (hk : Keeps m₀ u₀ s) (hm : Parts m₀ 32769 := by first | decide | exact Parts.sub (by assumption) (by decide)) : Keeps m₀ u₀ (State.groupDown s rails) := by
  unfold State.groupDown
  try extract_lets
  repeat' first
    | exact Parts.sub hm (by decide)
    | with_reducible exact hk
    | with_reducible exact Keeps.refl _ _
    | with_reducible apply State.groupBegin_keeps
    | with_reducible apply State.railsOff_keeps
    | with_reducible apply State.updSeq_keeps
    | with_reducible apply Keeps.foldl
    | with_reducible apply Keeps.foldlFst
    | with_reducible apply Keeps.foldlSnd
    | with_reducible apply Keeps.ite
    | with_reducible apply Keeps.iteSnd
    | with_reducible apply Keeps.iteFst
    | refine Keeps.sndOf (by assumption) ?_
    | refine Keeps.fstOf (by assumption) ?_
    | with_reducible assumption
    | with_reducible exact fun _ w => w
    | with_reducible (intro _)
    | split
    | extract_lets
    | dsimp +zetaDelta only

theorem State.groupUp_keeps (g : Nat) {m₀ : Nat} {u₀ s : State} (hk : Keeps m₀ u₀ s) (hm : Parts m₀ 32769 := by first | decide | exact Parts.sub (by assumption) (by decide)) : Keeps m₀ u₀ (State.groupUp s g) := by
  unfold State.groupUp
  try extract_lets
  repeat' first
    | exact Parts.sub hm (by decide)
    | with_reducible exact hk
    | with_reducible exact Keeps.refl _ _
    | with_reducible apply State.setRail_keeps
    | with_reducible apply State.startRails_keeps
    | with_reducible apply State.updSeq_keeps
    | with_reducible apply Keeps.foldl
    | with_reducible apply Keeps.foldlFst
    | with_reducible apply Keeps.foldlSnd
    | with_reducible apply Keeps.ite
    | with_reducible apply Keeps.iteSnd
    | with_reducible apply Keeps.iteFst
    | refine Keeps.sndOf (by assumption) ?_
    | refine Keeps.fstOf (by assumption) ?_
    | with_reducible assumption
    | with_reducible exact fun _ w => w
    | with_reducible (intro _)
    | split
    | extract_lets
    | dsimp +zetaDelta only

theorem State.adoptFigures_keeps (im : Image) {m₀ : Nat} {u₀ s : State} (hk : Keeps m₀ u₀ s) (hm : Parts m₀ 1 := by first | decide | exact Parts.sub (by assumption) (by decide)) : Keeps m₀ u₀ (State.adoptFigures s im) := by
  unfold State.adoptFigures
  try extract_lets
  repeat' first
    | exact Parts.sub hm (by decide)
    | with_reducible exact hk
    | with_reducible exact Keeps.refl _ _
    | with_reducible apply State.set_keeps
    | with_reducible apply Keeps.ite
    | with_reducible apply Keeps.iteSnd
    | with_reducible apply Keeps.iteFst
    | refine Keeps.sndOf (by assumption) ?_
    | refine Keeps.fstOf (by assumption) ?_
    | with_reducible assumption
    | with_reducible exact fun _ w => w
    | with_reducible (intro _)
    | split
    | extract_lets
    | dsimp +zetaDelta only

theorem State.showKinds_keeps  {m₀ : Nat} {u₀ s : State} (hk : Keeps m₀ u₀ s) (hm : Parts m₀ 1 := by first | decide | exact Parts.sub (by assumption) (by decide)) : Keeps m₀ u₀ (State.showKinds s) := by
  unfold State.showKinds
  try extract_lets
  repeat' first
    | exact Parts.sub hm (by decide)
    | with_reducible exact hk
    | with_reducible exact Keeps.refl _ _
    | with_reducible apply State.setRail_keeps
    | with_reducible apply Keeps.foldl
    | with_reducible apply Keeps.foldlFst
    | with_reducible apply Keeps.foldlSnd
    | with_reducible apply Keeps.ite
    | with_reducible apply Keeps.iteSnd
    | with_reducible apply Keeps.iteFst
    | refine Keeps.sndOf (by assumption) ?_
    | refine Keeps.fstOf (by assumption) ?_
    | with_reducible assumption
    | with_reducible exact fun _ w => w
    | with_reducible (intro _)
    | split
    | extract_lets
    | dsimp +zetaDelta only

theorem State.enLow_keeps (n : Nat) {m₀ : Nat} {u₀ s : State} (hk : Keeps m₀ u₀ s) (hm : Parts m₀ 32769 := by first | decide | exact Parts.sub (by assumption) (by decide)) : Keeps m₀ u₀ (State.enLow s n) := by
  unfold State.enLow
  try extract_lets
  repeat' first
    | exact Parts.sub hm (by decide)
    | with_reducible exact hk
    | with_reducible exact Keeps.refl _ _
    | with_reducible apply State.setRail_keeps
    | with_reducible apply State.updSeq_keeps
    | with_reducible apply Keeps.ite
    | with_reducible apply Keeps.iteSnd
    | with_reducible apply Keeps.iteFst
    | refine Keeps.sndOf (by assumption) ?_
    | refine Keeps.fstOf (by assumption) ?_
    | with_reducible assumption
    | with_reducible exact fun _ w => w
    | with_reducible (intro _)
    | split
    | extract_lets
    | dsimp +zetaDelta only

theorem State.startScans_keeps (l : List Nat) {m₀ : Nat} {u₀ s : State} (hk : Keeps m₀ u₀ s) (hm : Parts m₀ 32769 := by first | decide | exact Parts.sub (by assumption) (by decide)) : Keeps m₀ u₀ (State.startScans s l) := by
  unfold State.startScans
  try extract_lets
  repeat' first
    | exact Parts.sub hm (by decide)
    | with_reducible exact hk
    | with_reducible exact Keeps.refl _ _
    | with_reducible apply State.set_keeps
    | with_reducible apply State.setB_keeps
    | with_reducible apply State.updSeq_keeps
    | with_reducible apply Keeps.foldl
    | with_reducible apply Keeps.foldlFst
    | with_reducible apply Keeps.foldlSnd
    | with_reducible apply Keeps.ite
    | with_reducible apply Keeps.iteSnd
    | with_reducible apply Keeps.iteFst
    | refine Keeps.sndOf (by assumption) ?_
    | refine Keeps.fstOf (by assumption) ?_
    | with_reducible assumption
    | with_reducible exact fun _ w => w
    | with_reducible (intro _)
    | split
    | extract_lets
    | dsimp +zetaDelta only

theorem State.adoptRst_keeps  {m₀ : Nat} {u₀ s : State} (hk : Keeps m₀ u₀ s) (hm : Parts m₀ 32769 := by first | decide | exact Parts.sub (by assumption) (by decide)) : Keeps m₀ u₀ (State.adoptRst s) := by
  unfold State.adoptRst
  try extract_lets
  repeat' first
    | exact Parts.sub hm (by decide)
    | with_reducible exact hk
    | with_reducible exact Keeps.refl _ _
    | with_reducible apply State.assertRst_keeps
    | with_reducible apply State.startStretch_keeps
    | with_reducible apply Keeps.foldl
    | with_reducible apply Keeps.foldlFst
    | with_reducible apply Keeps.foldlSnd
    | with_reducible apply Keeps.ite
    | with_reducible apply Keeps.iteSnd
    | with_reducible apply Keeps.iteFst
    | refine Keeps.sndOf (by assumption) ?_
    | refine Keeps.fstOf (by assumption) ?_
    | with_reducible assumption
    | with_reducible exact fun _ w => w
    | with_reducible (intro _)
    | split
    | extract_lets
    | dsimp +zetaDelta only

theorem State.adopt_keeps (im : Image) {m₀ : Nat} {u₀ s : State} (hk : Keeps m₀ u₀ s) (hm : Parts m₀ 2655853 := by first | decide | exact Parts.sub (by assumption) (by decide)) : Keeps m₀ u₀ (State.adopt s im) := by
  unfold State.adopt
  extract_lets old new gone down0 down moved s1 s2 owned freed s3 s4 s5 s6 differ record s7
  have k_down0 : Keeps m₀ u₀ down0 := by
    unfold down0
    repeat' first
      | exact Parts.sub hm (by decide)
      | with_reducible exact hk
      | with_reducible exact Keeps.refl _ _
      | with_reducible apply State.groupDown_keeps
      | with_reducible apply Keeps.ite
      | with_reducible apply KeepsOut.ite
      | with_reducible apply Keeps.iteSnd
      | with_reducible apply Keeps.iteFst
      | refine Keeps.sndOf (by assumption) ?_
      | refine Keeps.fstOf (by assumption) ?_
      | with_reducible assumption
      | with_reducible exact fun _ w => w
      | with_reducible (intro _)
      | split
  have k_down : Keeps m₀ u₀ down := by
    unfold down
    repeat' first
      | with_reducible exact k_down0
      | exact Parts.sub hm (by decide)
      | with_reducible exact hk
      | with_reducible exact Keeps.refl _ _
      | with_reducible apply State.updSeq_keeps
      | with_reducible apply Keeps.foldl
      | with_reducible apply Keeps.foldlFst
      | with_reducible apply Keeps.foldlSnd
      | with_reducible apply Keeps.ite
      | with_reducible apply KeepsOut.ite
      | with_reducible apply Keeps.iteSnd
      | with_reducible apply Keeps.iteFst
      | refine Keeps.sndOf (by assumption) ?_
      | refine Keeps.fstOf (by assumption) ?_
      | with_reducible assumption
      | with_reducible exact fun _ w => w
      | with_reducible (intro _)
      | split
  have k_s1 : Keeps m₀ u₀ s1 := by
    unfold s1
    repeat' first
      | with_reducible exact k_down
      | with_reducible exact k_down0
      | exact Parts.sub hm (by decide)
      | with_reducible exact hk
      | with_reducible exact Keeps.refl _ _
      | with_reducible apply State.setRailSt_keeps
      | with_reducible apply Keeps.foldl
      | with_reducible apply Keeps.foldlFst
      | with_reducible apply Keeps.foldlSnd
      | with_reducible apply Keeps.ite
      | with_reducible apply KeepsOut.ite
      | with_reducible apply Keeps.iteSnd
      | with_reducible apply Keeps.iteFst
      | refine Keeps.sndOf (by assumption) ?_
      | refine Keeps.fstOf (by assumption) ?_
      | with_reducible assumption
      | with_reducible exact fun _ w => w
      | with_reducible (intro _)
      | split
  have k_s2 : Keeps m₀ u₀ s2 := by
    unfold s2
    repeat' first
      | with_reducible exact k_s1
      | with_reducible exact k_down
      | with_reducible exact k_down0
      | exact Parts.sub hm (by decide)
      | with_reducible exact hk
      | with_reducible exact Keeps.refl _ _
      | with_reducible apply State.set_keeps
      | with_reducible apply State.updSeq_keeps
      | with_reducible apply Keeps.ite
      | with_reducible apply KeepsOut.ite
      | with_reducible apply Keeps.iteSnd
      | with_reducible apply Keeps.iteFst
      | refine Keeps.sndOf (by assumption) ?_
      | refine Keeps.fstOf (by assumption) ?_
      | with_reducible assumption
      | with_reducible exact fun _ w => w
      | with_reducible (intro _)
      | split
  have k_s3 : Keeps m₀ u₀ s3 := by
    unfold s3
    repeat' first
      | with_reducible exact k_s2
      | with_reducible exact k_s1
      | with_reducible exact k_down
      | with_reducible exact k_down0
      | exact Parts.sub hm (by decide)
      | with_reducible exact hk
      | with_reducible exact Keeps.refl _ _
      | with_reducible apply State.enLow_keeps
      | with_reducible apply State.showKinds_keeps
      | with_reducible apply State.updSeq_keeps
      | with_reducible apply Keeps.foldl
      | with_reducible apply Keeps.foldlFst
      | with_reducible apply Keeps.foldlSnd
      | with_reducible apply Keeps.ite
      | with_reducible apply KeepsOut.ite
      | with_reducible apply Keeps.iteSnd
      | with_reducible apply Keeps.iteFst
      | refine Keeps.sndOf (by assumption) ?_
      | refine Keeps.fstOf (by assumption) ?_
      | with_reducible assumption
      | with_reducible exact fun _ w => w
      | with_reducible (intro _)
      | split
  have k_s4 : Keeps m₀ u₀ s4 := by
    unfold s4
    repeat' first
      | with_reducible exact k_s3
      | with_reducible exact k_s2
      | with_reducible exact k_s1
      | with_reducible exact k_down
      | with_reducible exact k_down0
      | exact Parts.sub hm (by decide)
      | with_reducible exact hk
      | with_reducible exact Keeps.refl _ _
      | with_reducible apply State.setRail_keeps
      | with_reducible apply Keeps.foldl
      | with_reducible apply Keeps.foldlFst
      | with_reducible apply Keeps.foldlSnd
      | with_reducible apply Keeps.ite
      | with_reducible apply KeepsOut.ite
      | with_reducible apply Keeps.iteSnd
      | with_reducible apply Keeps.iteFst
      | refine Keeps.sndOf (by assumption) ?_
      | refine Keeps.fstOf (by assumption) ?_
      | with_reducible assumption
      | with_reducible exact fun _ w => w
      | with_reducible (intro _)
      | split
  have k_s5 : Keeps m₀ u₀ s5 := by
    unfold s5
    repeat' first
      | with_reducible exact k_s4
      | with_reducible exact k_s3
      | with_reducible exact k_s2
      | with_reducible exact k_s1
      | with_reducible exact k_down
      | with_reducible exact k_down0
      | exact Parts.sub hm (by decide)
      | with_reducible exact hk
      | with_reducible exact Keeps.refl _ _
      | with_reducible apply State.adoptFigures_keeps
      | with_reducible apply State.adoptRst_keeps
      | with_reducible apply State.domsOff_keeps
      | with_reducible apply Keeps.ite
      | with_reducible apply KeepsOut.ite
      | with_reducible apply Keeps.iteSnd
      | with_reducible apply Keeps.iteFst
      | refine Keeps.sndOf (by assumption) ?_
      | refine Keeps.fstOf (by assumption) ?_
      | with_reducible assumption
      | with_reducible exact fun _ w => w
      | with_reducible (intro _)
      | split
  have k_s6 : Keeps m₀ u₀ s6 := by
    unfold s6
    repeat' first
      | with_reducible exact k_s5
      | with_reducible exact k_s4
      | with_reducible exact k_s3
      | with_reducible exact k_s2
      | with_reducible exact k_s1
      | with_reducible exact k_down
      | with_reducible exact k_down0
      | exact Parts.sub hm (by decide)
      | with_reducible exact hk
      | with_reducible exact Keeps.refl _ _
      | with_reducible apply State.startScans_keeps
      | with_reducible apply Keeps.ite
      | with_reducible apply KeepsOut.ite
      | with_reducible apply Keeps.iteSnd
      | with_reducible apply Keeps.iteFst
      | refine Keeps.sndOf (by assumption) ?_
      | refine Keeps.fstOf (by assumption) ?_
      | with_reducible assumption
      | with_reducible exact fun _ w => w
      | with_reducible (intro _)
      | split
  have k_s7 : Keeps m₀ u₀ s7 := by
    unfold s7
    repeat' first
      | with_reducible exact k_s6
      | with_reducible exact k_s5
      | with_reducible exact k_s4
      | with_reducible exact k_s3
      | with_reducible exact k_s2
      | with_reducible exact k_s1
      | with_reducible exact k_down
      | with_reducible exact k_down0
      | exact Parts.sub hm (by decide)
      | with_reducible exact hk
      | with_reducible exact Keeps.refl _ _
      | with_reducible apply State.flashWrite_keeps
      | with_reducible apply Keeps.ite
      | with_reducible apply KeepsOut.ite
      | with_reducible apply Keeps.iteSnd
      | with_reducible apply Keeps.iteFst
      | refine Keeps.sndOf (by assumption) ?_
      | refine Keeps.fstOf (by assumption) ?_
      | with_reducible assumption
      | with_reducible exact fun _ w => w
      | exact fun _ w => Evr.record_ring w _ _ _ _ _ _ _
      | with_reducible (intro _)
      | split
  clear_value old new gone down0 down moved s1 s2 owned freed s3 s4 s5 s6 differ record s7
  repeat' first
    | with_reducible exact k_s7
    | with_reducible exact k_s6
    | with_reducible exact k_s5
    | with_reducible exact k_s4
    | with_reducible exact k_s3
    | with_reducible exact k_s2
    | with_reducible exact k_s1
    | with_reducible exact k_down
    | with_reducible exact k_down0
    | exact Parts.sub hm (by decide)
    | with_reducible exact hk
    | with_reducible exact Keeps.refl _ _
    | with_reducible apply State.adoptFigures_keeps
    | with_reducible apply State.adoptRst_keeps
    | with_reducible apply State.domsOff_keeps
    | with_reducible apply State.enLow_keeps
    | with_reducible apply State.flashWrite_keeps
    | with_reducible apply State.groupDown_keeps
    | with_reducible apply State.set_keeps
    | with_reducible apply State.setRail_keeps
    | with_reducible apply State.setRailSt_keeps
    | with_reducible apply State.showKinds_keeps
    | with_reducible apply State.startRails_keeps
    | with_reducible apply State.startScans_keeps
    | with_reducible apply State.updSeq_keeps
    | with_reducible apply Keeps.foldl
    | with_reducible apply Keeps.foldlFst
    | with_reducible apply Keeps.foldlSnd
    | with_reducible apply Keeps.ite
    | with_reducible apply KeepsOut.ite
    | with_reducible apply Keeps.iteSnd
    | with_reducible apply Keeps.iteFst
    | refine Keeps.sndOf (by assumption) ?_
    | refine Keeps.fstOf (by assumption) ?_
    | with_reducible assumption
    | with_reducible exact fun _ w => w
    | exact fun _ w => Evr.record_ring w _ _ _ _ _ _ _
    | with_reducible (intro _)
    | split

theorem State.seqBoundary_keeps (report : Nat) {m₀ : Nat} {u₀ s : State} (hk : Keeps m₀ u₀ s) (hm : Parts m₀ 32769 := by first | decide | exact Parts.sub (by assumption) (by decide)) : Keeps m₀ u₀ (State.seqBoundary s report) := by
  unfold State.seqBoundary
  try extract_lets
  repeat' first
    | exact Parts.sub hm (by decide)
    | with_reducible exact hk
    | with_reducible exact Keeps.refl _ _
    | with_reducible apply State.domReport_keeps
    | with_reducible apply State.groupBegin_keeps
    | with_reducible apply State.startDoms_keeps
    | with_reducible apply State.startRails_keeps
    | with_reducible apply Keeps.ite
    | with_reducible apply Keeps.iteSnd
    | with_reducible apply Keeps.iteFst
    | refine Keeps.sndOf (by assumption) ?_
    | refine Keeps.fstOf (by assumption) ?_
    | with_reducible assumption
    | with_reducible exact fun _ w => w
    | with_reducible (intro _)
    | split
    | extract_lets
    | dsimp +zetaDelta only

end Sys2Proof.Machine
end

