-- ==== Sys2Proof/Laws/Keeps/VaultOps.lean ====
section
/-! SUPPORT. The operations of VaultOps keep the queue and a sound state. -/

set_option Elab.async false

namespace Sys2Proof.Machine

set_option linter.unreachableTactic false
set_option linter.unusedTactic false
set_option linter.unusedVariables false

theorem Vlt.tagLast_nand (v : Vlt) (b n : Nat) : (v.tagLast b n).nand = v.nand := by
  unfold Vlt.tagLast
  dsimp only
  split <;> rfl

theorem Vlt.eraseWhere_wf (p : Nat → Bool) {v : Vlt} (h : Store.wf none v.nand = true) :
    Store.wf none (v.eraseWhere p).nand = true := Store.wf_keep h _

theorem Store.wf_foldPut {α : Type} (k : α → Nat) (x : α → Option (List Byte)) : ∀ (l : List α) (m : Store (Option (List Byte))), Store.wf none m = true →
    Store.wf none (l.foldl (fun m c => Store.put none m (k c) (x c)) m) = true
  | [], _, h => h
  | c :: l, m, h => Store.wf_foldPut k x l _ (Store.wf_put h (k c) (x c))

theorem State.setBand_keeps (b : Band) {m₀ : Nat} {u₀ s : State} (hk : Keeps m₀ u₀ s) (hm : Parts m₀ 131072 := by first | decide | exact Parts.sub (by assumption) (by decide)) : Keeps m₀ u₀ (State.setBand s b) := by
  unfold State.setBand
  try extract_lets
  repeat' first
    | exact Parts.sub hm (by decide)
    | with_reducible exact hk
    | with_reducible exact Keeps.refl _ _
    | with_reducible apply State.updVlt_keeps
    | with_reducible apply Keeps.ite
    | with_reducible apply Keeps.iteSnd
    | with_reducible apply Keeps.iteFst
    | refine Keeps.sndOf (by assumption) ?_
    | refine Keeps.fstOf (by assumption) ?_
    | with_reducible assumption
    | with_reducible exact fun _ w => w
    | with_reducible exact fun _ w => Store.wf_put w _ _
    | with_reducible exact fun _ w => Store.wf_put (Store.wf_put w _ _) _ _
    | with_reducible exact fun _ w => Store.wf_keep w _
    | with_reducible exact fun _ _ => Store.wf_nil
    | with_reducible (intro _)
    | split
    | extract_lets
    | dsimp +zetaDelta only

theorem State.showSpace_keeps  {m₀ : Nat} {u₀ s : State} (hk : Keeps m₀ u₀ s) (hm : Parts m₀ 2097677 := by first | decide | exact Parts.sub (by assumption) (by decide)) : Keeps m₀ u₀ (State.showSpace s) := by
  unfold State.showSpace
  try extract_lets
  repeat' first
    | exact Parts.sub hm (by decide)
    | with_reducible exact hk
    | with_reducible exact Keeps.refl _ _
    | with_reducible apply State.event_keeps
    | with_reducible apply State.set_keeps
    | with_reducible apply State.setB_keeps
    | with_reducible apply Keeps.ite
    | with_reducible apply Keeps.iteSnd
    | with_reducible apply Keeps.iteFst
    | refine Keeps.sndOf (by assumption) ?_
    | refine Keeps.fstOf (by assumption) ?_
    | with_reducible assumption
    | with_reducible exact fun _ w => w
    | with_reducible (intro _)
    | split
    | extract_lets
    | dsimp +zetaDelta only

theorem State.openBand_keeps (blk : Nat) {m₀ : Nat} {u₀ s : State} (hk : Keeps m₀ u₀ s) (hm : Parts m₀ 2228749 := by first | decide | exact Parts.sub (by assumption) (by decide)) : Keeps m₀ u₀ (State.openBand s blk) := by
  unfold State.openBand
  try extract_lets
  repeat' first
    | exact Parts.sub hm (by decide)
    | with_reducible exact hk
    | with_reducible exact Keeps.refl _ _
    | with_reducible apply State.set64_keeps
    | with_reducible apply State.showSpace_keeps
    | with_reducible apply State.updVlt_keeps
    | with_reducible apply Keeps.foldl
    | with_reducible apply Keeps.foldlFst
    | with_reducible apply Keeps.foldlSnd
    | with_reducible apply Keeps.ite
    | with_reducible apply Keeps.iteSnd
    | with_reducible apply Keeps.iteFst
    | refine Keeps.sndOf (by assumption) ?_
    | refine Keeps.fstOf (by assumption) ?_
    | with_reducible assumption
    | with_reducible exact fun _ w => w
    | exact fun _ w => Vlt.eraseWhere_wf _ w
    | exact Vlt.eraseWhere_wf _ (by assumption)
    | with_reducible exact fun _ w => Store.wf_put w _ _
    | with_reducible exact fun _ w => Store.wf_put (Store.wf_put w _ _) _ _
    | with_reducible exact fun _ w => Store.wf_keep w _
    | with_reducible exact fun _ _ => Store.wf_nil
    | with_reducible (intro _)
    | split
    | extract_lets
    | dsimp +zetaDelta only

theorem State.roomy_keeps  {m₀ : Nat} {u₀ s : State} (hk : Keeps m₀ u₀ s) (hm : Parts m₀ 2228749 := by first | decide | exact Parts.sub (by assumption) (by decide)) : Keeps m₀ u₀ (State.roomy s) := by
  unfold State.roomy
  try extract_lets
  repeat' first
    | exact Parts.sub hm (by decide)
    | with_reducible exact hk
    | with_reducible exact Keeps.refl _ _
    | with_reducible apply State.openBand_keeps
    | with_reducible apply State.setBand_keeps
    | with_reducible apply Keeps.ite
    | with_reducible apply Keeps.iteSnd
    | with_reducible apply Keeps.iteFst
    | refine Keeps.sndOf (by assumption) ?_
    | refine Keeps.fstOf (by assumption) ?_
    | with_reducible assumption
    | with_reducible exact fun _ w => w
    | with_reducible (intro _)
    | split
    | extract_lets
    | dsimp +zetaDelta only

theorem State.writeSlot_keeps (ty flags pline key aux : Nat) (plain : List Byte) {m₀ : Nat} {u₀ s0 : State} (hk : Keeps m₀ u₀ s0) (hm : Parts m₀ 2232845 := by first | decide | exact Parts.sub (by assumption) (by decide)) : Keeps m₀ u₀ (State.writeSlot s0 ty flags pline key aux plain).2 := by
  unfold State.writeSlot
  try extract_lets
  repeat' first
    | exact Parts.sub hm (by decide)
    | with_reducible exact hk
    | with_reducible exact Keeps.refl _ _
    | with_reducible apply State.enqueue_keeps
    | with_reducible apply State.roomy_keeps
    | with_reducible apply State.setBand_keeps
    | with_reducible apply State.updVlt_keeps
    | with_reducible apply Keeps.ite
    | with_reducible apply Keeps.iteSnd
    | with_reducible apply Keeps.iteFst
    | refine Keeps.sndOf (by assumption) ?_
    | refine Keeps.fstOf (by assumption) ?_
    | with_reducible assumption
    | with_reducible exact fun _ w => w
    | with_reducible exact fun _ w => Store.wf_put w _ _
    | with_reducible exact fun _ w => Store.wf_put (Store.wf_put w _ _) _ _
    | with_reducible exact fun _ w => Store.wf_keep w _
    | with_reducible exact fun _ _ => Store.wf_nil
    | with_reducible (intro _)
    | split
    | extract_lets
    | dsimp +zetaDelta only

theorem State.writeParity_keeps (b : Band) (r : Nat) {m₀ : Nat} {u s : State} (hk : Keeps m₀ u s) (hm : Parts m₀ 131072 := by first | decide | exact Parts.sub (by assumption) (by decide)) : Keeps m₀ u (State.writeParity s b r) := by
  unfold State.writeParity
  refine Keeps.foldl (fun t n => Keeps.foldl (fun w q => ?_) _ (Keeps.refl _ t)) _ hk
  split
  · exact State.setBand_keeps _ (Keeps.refl _ w)
  · exact State.updVltHere_keeps (Keeps.refl _ w) _ (Store.wf_foldPut _ _ _ _)

theorem State.closeRow_keeps  {m₀ : Nat} {u₀ s : State} (hk : Keeps m₀ u₀ s) (hm : Parts m₀ 135169 := by first | decide | exact Parts.sub (by assumption) (by decide)) : Keeps m₀ u₀ (State.closeRow s) := by
  unfold State.closeRow
  try extract_lets
  repeat' first
    | exact Parts.sub hm (by decide)
    | with_reducible exact hk
    | with_reducible exact Keeps.refl _ _
    | with_reducible apply State.enqueue_keeps
    | with_reducible apply State.setBand_keeps
    | with_reducible apply State.writeParity_keeps
    | with_reducible apply Keeps.ite
    | with_reducible apply Keeps.iteSnd
    | with_reducible apply Keeps.iteFst
    | refine Keeps.sndOf (by assumption) ?_
    | refine Keeps.fstOf (by assumption) ?_
    | with_reducible assumption
    | with_reducible exact fun _ w => w
    | with_reducible (intro _)
    | split
    | extract_lets
    | dsimp +zetaDelta only

theorem State.closeBand_keeps  {m₀ : Nat} {u₀ s : State} (hk : Keeps m₀ u₀ s) (hm : Parts m₀ 135169 := by first | decide | exact Parts.sub (by assumption) (by decide)) : Keeps m₀ u₀ (State.closeBand s) := by
  unfold State.closeBand
  try extract_lets
  repeat' first
    | exact Parts.sub hm (by decide)
    | with_reducible exact hk
    | with_reducible exact Keeps.refl _ _
    | with_reducible apply State.closeRow_keeps
    | with_reducible apply State.set64_keeps
    | with_reducible apply State.setBand_keeps
    | with_reducible apply State.updVlt_keeps
    | with_reducible apply Keeps.ite
    | with_reducible apply Keeps.iteSnd
    | with_reducible apply Keeps.iteFst
    | refine Keeps.sndOf (by assumption) ?_
    | refine Keeps.fstOf (by assumption) ?_
    | with_reducible assumption
    | with_reducible exact fun _ w => w
    | with_reducible exact fun _ w => Store.wf_put w _ _
    | with_reducible exact fun _ w => Store.wf_put (Store.wf_put w _ _) _ _
    | with_reducible exact fun _ w => Store.wf_keep w _
    | with_reducible exact fun _ _ => Store.wf_nil
    | with_reducible (intro _)
    | split
    | extract_lets
    | dsimp +zetaDelta only

theorem State.writeTags_keeps (b : Band) (n : Nat) {m₀ : Nat} {u₀ s : State} (hk : Keeps m₀ u₀ s) (hm : Parts m₀ 2232845 := by first | decide | exact Parts.sub (by assumption) (by decide)) : Keeps m₀ u₀ (State.writeTags s b n) := by
  unfold State.writeTags
  try extract_lets
  repeat' first
    | exact Parts.sub hm (by decide)
    | with_reducible exact hk
    | with_reducible exact Keeps.refl _ _
    | with_reducible apply State.updVlt_keeps
    | with_reducible apply State.writeSlot_keeps
    | with_reducible apply Keeps.ite
    | with_reducible apply Keeps.iteSnd
    | with_reducible apply Keeps.iteFst
    | refine Keeps.sndOf (by assumption) ?_
    | refine Keeps.fstOf (by assumption) ?_
    | with_reducible assumption
    | with_reducible exact fun _ w => w
    | with_reducible exact fun _ w => Store.wf_put w _ _
    | with_reducible exact fun _ w => Store.wf_put (Store.wf_put w _ _) _ _
    | with_reducible exact fun _ w => Store.wf_keep w _
    | with_reducible exact fun _ _ => Store.wf_nil
    | with_reducible (intro _)
    | split
    | extract_lets
    | dsimp +zetaDelta only

theorem State.tagAll_keeps (whole : Bool) {m₀ : Nat} {u₀ s : State} (hk : Keeps m₀ u₀ s) (hm : Parts m₀ 2232845 := by first | decide | exact Parts.sub (by assumption) (by decide)) : Keeps m₀ u₀ (State.tagAll s whole) := by
  unfold State.tagAll
  try extract_lets
  repeat' first
    | exact Parts.sub hm (by decide)
    | with_reducible exact hk
    | with_reducible exact Keeps.refl _ _
    | with_reducible apply State.writeTags_keeps
    | with_reducible apply Keeps.foldl
    | with_reducible apply Keeps.foldlFst
    | with_reducible apply Keeps.foldlSnd
    | with_reducible apply Keeps.ite
    | with_reducible apply Keeps.iteSnd
    | with_reducible apply Keeps.iteFst
    | refine Keeps.sndOf (by assumption) ?_
    | refine Keeps.fstOf (by assumption) ?_
    | with_reducible assumption
    | with_reducible exact fun _ w => w
    | with_reducible (intro _)
    | split
    | extract_lets
    | dsimp +zetaDelta only

theorem State.touchPiece_keeps (g : Nat) {m₀ : Nat} {u₀ s : State} (hk : Keeps m₀ u₀ s) (hm : Parts m₀ 131072 := by first | decide | exact Parts.sub (by assumption) (by decide)) : Keeps m₀ u₀ (State.touchPiece s g) := by
  unfold State.touchPiece
  try extract_lets
  repeat' first
    | exact Parts.sub hm (by decide)
    | with_reducible exact hk
    | with_reducible exact Keeps.refl _ _
    | with_reducible apply State.updVlt_keeps
    | with_reducible apply Keeps.ite
    | with_reducible apply Keeps.iteSnd
    | with_reducible apply Keeps.iteFst
    | refine Keeps.sndOf (by assumption) ?_
    | refine Keeps.fstOf (by assumption) ?_
    | with_reducible assumption
    | with_reducible exact fun _ w => w
    | with_reducible exact fun _ w => Store.wf_put w _ _
    | with_reducible exact fun _ w => Store.wf_put (Store.wf_put w _ _) _ _
    | with_reducible exact fun _ w => Store.wf_keep w _
    | with_reducible exact fun _ _ => Store.wf_nil
    | with_reducible (intro _)
    | split
    | extract_lets
    | dsimp +zetaDelta only

theorem State.setVloc_keeps (g v c : Nat) {m₀ : Nat} {u₀ s : State} (hk : Keeps m₀ u₀ s) (hm : Parts m₀ 133120 := by first | decide | exact Parts.sub (by assumption) (by decide)) : Keeps m₀ u₀ (State.setVloc s g v c) := by
  unfold State.setVloc
  try extract_lets
  repeat' first
    | exact Parts.sub hm (by decide)
    | with_reducible exact hk
    | with_reducible exact Keeps.refl _ _
    | with_reducible apply State.setEntry_keeps
    | with_reducible apply State.touchPiece_keeps
    | with_reducible apply Keeps.ite
    | with_reducible apply Keeps.iteSnd
    | with_reducible apply Keeps.iteFst
    | refine Keeps.sndOf (by assumption) ?_
    | refine Keeps.fstOf (by assumption) ?_
    | with_reducible assumption
    | with_reducible exact fun _ w => w
    | with_reducible (intro _)
    | split
    | extract_lets
    | dsimp +zetaDelta only

theorem State.writeGranule_keeps (g kind : Nat) {m₀ : Nat} {u₀ s : State} (hk : Keeps m₀ u₀ s) (hm : Parts m₀ 2232845 := by first | decide | exact Parts.sub (by assumption) (by decide)) : Keeps m₀ u₀ (State.writeGranule s g kind).2 := by
  unfold State.writeGranule
  try extract_lets
  repeat' first
    | exact Parts.sub hm (by decide)
    | with_reducible exact hk
    | with_reducible exact Keeps.refl _ _
    | with_reducible apply State.updVlt_keeps
    | with_reducible apply State.writeSlot_keeps
    | with_reducible apply Keeps.ite
    | with_reducible apply Keeps.iteSnd
    | with_reducible apply Keeps.iteFst
    | refine Keeps.sndOf (by assumption) ?_
    | refine Keeps.fstOf (by assumption) ?_
    | with_reducible assumption
    | with_reducible exact fun _ w => w
    | with_reducible exact fun _ w => Store.wf_put w _ _
    | with_reducible exact fun _ w => Store.wf_put (Store.wf_put w _ _) _ _
    | with_reducible exact fun _ w => Store.wf_keep w _
    | with_reducible exact fun _ _ => Store.wf_nil
    | with_reducible (intro _)
    | split
    | extract_lets
    | dsimp +zetaDelta only

theorem State.ringWrite_keeps (m : Nat) (bytes : List Byte) {m₀ : Nat} {u₀ s : State} (hk : Keeps m₀ u₀ s) (hm : Parts m₀ 131072 := by first | decide | exact Parts.sub (by assumption) (by decide)) : Keeps m₀ u₀ (State.ringWrite s m bytes) := by
  unfold State.ringWrite
  try extract_lets
  repeat' first
    | exact Parts.sub hm (by decide)
    | with_reducible exact hk
    | with_reducible exact Keeps.refl _ _
    | with_reducible apply State.updVlt_keeps
    | with_reducible apply Keeps.foldl
    | with_reducible apply Keeps.foldlFst
    | with_reducible apply Keeps.foldlSnd
    | with_reducible apply Keeps.ite
    | with_reducible apply Keeps.iteSnd
    | with_reducible apply Keeps.iteFst
    | refine Keeps.sndOf (by assumption) ?_
    | refine Keeps.fstOf (by assumption) ?_
    | with_reducible assumption
    | with_reducible exact fun _ w => w
    | exact fun _ w => Vlt.eraseWhere_wf _ w
    | exact Vlt.eraseWhere_wf _ (by assumption)
    | with_reducible exact fun _ w => Store.wf_put w _ _
    | with_reducible exact fun _ w => Store.wf_put (Store.wf_put w _ _) _ _
    | with_reducible exact fun _ w => Store.wf_keep w _
    | with_reducible exact fun _ _ => Store.wf_nil
    | with_reducible (intro _)
    | split
    | extract_lets
    | dsimp +zetaDelta only

theorem State.reissue_keeps (v : Nat) (r : SlotRead) {m₀ : Nat} {u₀ s : State} (hk : Keeps m₀ u₀ s) (hm : Parts m₀ 2234893 := by first | decide | exact Parts.sub (by assumption) (by decide)) : Keeps m₀ u₀ (State.reissue s v r) := by
  unfold State.reissue
  try extract_lets
  repeat' first
    | exact Parts.sub hm (by decide)
    | with_reducible exact hk
    | with_reducible exact Keeps.refl _ _
    | with_reducible apply State.setVloc_keeps
    | with_reducible apply State.updVlt_keeps
    | with_reducible apply State.writeSlot_keeps
    | with_reducible apply Keeps.ite
    | with_reducible apply Keeps.iteSnd
    | with_reducible apply Keeps.iteFst
    | refine Keeps.sndOf (by assumption) ?_
    | refine Keeps.fstOf (by assumption) ?_
    | with_reducible assumption
    | with_reducible exact fun _ w => w
    | exact fun _ w => by rw [Vlt.tagLast_nand]; exact w
    | with_reducible exact fun _ w => Store.wf_put w _ _
    | with_reducible exact fun _ w => Store.wf_put (Store.wf_put w _ _) _ _
    | with_reducible exact fun _ w => Store.wf_keep w _
    | with_reducible exact fun _ _ => Store.wf_nil
    | with_reducible (intro _)
    | split
    | extract_lets
    | dsimp +zetaDelta only

theorem State.flushReissue_keeps  {m₀ : Nat} {u₀ s : State} (hk : Keeps m₀ u₀ s) (hm : Parts m₀ 2234893 := by first | decide | exact Parts.sub (by assumption) (by decide)) : Keeps m₀ u₀ (State.flushReissue s) := by
  unfold State.flushReissue
  try extract_lets
  repeat' first
    | exact Parts.sub hm (by decide)
    | with_reducible exact hk
    | with_reducible exact Keeps.refl _ _
    | with_reducible apply State.reissue_keeps
    | with_reducible apply State.updVlt_keeps
    | with_reducible apply Keeps.foldl
    | with_reducible apply Keeps.foldlFst
    | with_reducible apply Keeps.foldlSnd
    | with_reducible apply Keeps.ite
    | with_reducible apply Keeps.iteSnd
    | with_reducible apply Keeps.iteFst
    | refine Keeps.sndOf (by assumption) ?_
    | refine Keeps.fstOf (by assumption) ?_
    | with_reducible assumption
    | with_reducible exact fun _ w => w
    | with_reducible exact fun _ w => Store.wf_put w _ _
    | with_reducible exact fun _ w => Store.wf_put (Store.wf_put w _ _) _ _
    | with_reducible exact fun _ w => Store.wf_keep w _
    | with_reducible exact fun _ _ => Store.wf_nil
    | with_reducible (intro _)
    | split
    | extract_lets
    | dsimp +zetaDelta only

theorem State.seal_keeps (c : CrownIn) {m₀ : Nat} {u₀ s : State} (hk : Keeps m₀ u₀ s) (hm : Parts m₀ 2234893 := by first | decide | exact Parts.sub (by assumption) (by decide)) : Keeps m₀ u₀ (State.seal s c) := by
  unfold State.seal
  try extract_lets
  repeat' first
    | exact Parts.sub hm (by decide)
    | with_reducible exact hk
    | with_reducible exact Keeps.refl _ _
    | with_reducible apply State.closeRow_keeps
    | with_reducible apply State.flushReissue_keeps
    | with_reducible apply State.ringWrite_keeps
    | with_reducible apply State.set64_keeps
    | with_reducible apply State.setB_keeps
    | with_reducible apply State.showSpace_keeps
    | with_reducible apply State.tagAll_keeps
    | with_reducible apply State.updVlt_keeps
    | with_reducible apply Keeps.foldl
    | with_reducible apply Keeps.foldlFst
    | with_reducible apply Keeps.foldlSnd
    | with_reducible apply Keeps.ite
    | with_reducible apply Keeps.iteSnd
    | with_reducible apply Keeps.iteFst
    | refine Keeps.sndOf (by assumption) ?_
    | refine Keeps.fstOf (by assumption) ?_
    | with_reducible assumption
    | with_reducible exact fun _ w => w
    | with_reducible exact fun _ w => Store.wf_put w _ _
    | with_reducible exact fun _ w => Store.wf_put (Store.wf_put w _ _) _ _
    | with_reducible exact fun _ w => Store.wf_keep w _
    | with_reducible exact fun _ _ => Store.wf_nil
    | with_reducible (intro _)
    | split
    | extract_lets
    | dsimp +zetaDelta only

theorem State.showStripe_keeps  {m₀ : Nat} {u₀ s : State} (hk : Keeps m₀ u₀ s) (hm : Parts m₀ 1 := by first | decide | exact Parts.sub (by assumption) (by decide)) : Keeps m₀ u₀ (State.showStripe s) := by
  unfold State.showStripe
  try extract_lets
  repeat' first
    | exact Parts.sub hm (by decide)
    | with_reducible exact hk
    | with_reducible exact Keeps.refl _ _
    | with_reducible apply State.setB_keeps
    | with_reducible apply Keeps.ite
    | with_reducible apply Keeps.iteSnd
    | with_reducible apply Keeps.iteFst
    | refine Keeps.sndOf (by assumption) ?_
    | refine Keeps.fstOf (by assumption) ?_
    | with_reducible assumption
    | with_reducible exact fun _ w => w
    | with_reducible (intro _)
    | split
    | extract_lets
    | dsimp +zetaDelta only

theorem State.moduleFailed_keeps (m : Nat) {m₀ : Nat} {u₀ s : State} (hk : Keeps m₀ u₀ s) (hm : Parts m₀ 2097677 := by first | decide | exact Parts.sub (by assumption) (by decide)) : Keeps m₀ u₀ (State.moduleFailed s m) := by
  unfold State.moduleFailed
  try extract_lets
  repeat' first
    | exact Parts.sub hm (by decide)
    | with_reducible exact hk
    | with_reducible exact Keeps.refl _ _
    | with_reducible apply State.event_keeps
    | with_reducible apply State.raise_keeps
    | with_reducible apply State.set_keeps
    | with_reducible apply State.setB_keeps
    | with_reducible apply Keeps.ite
    | with_reducible apply Keeps.iteSnd
    | with_reducible apply Keeps.iteFst
    | refine Keeps.sndOf (by assumption) ?_
    | refine Keeps.fstOf (by assumption) ?_
    | with_reducible assumption
    | with_reducible exact fun _ w => w
    | with_reducible (intro _)
    | split
    | extract_lets
    | dsimp +zetaDelta only

theorem State.moduleAbsent_keeps (m : Nat) {m₀ : Nat} {u₀ s : State} (hk : Keeps m₀ u₀ s) (hm : Parts m₀ 2241037 := by first | decide | exact Parts.sub (by assumption) (by decide)) : Keeps m₀ u₀ (State.moduleAbsent s m) := by
  unfold State.moduleAbsent
  try extract_lets
  repeat' first
    | exact Parts.sub hm (by decide)
    | with_reducible exact hk
    | with_reducible exact Keeps.refl _ _
    | with_reducible apply State.closeBand_keeps
    | with_reducible apply State.moduleFailed_keeps
    | with_reducible apply State.rehAbandon_keeps
    | with_reducible apply State.set_keeps
    | with_reducible apply State.setB_keeps
    | with_reducible apply State.showStripe_keeps
    | with_reducible apply State.tagAll_keeps
    | with_reducible apply State.updVlt_keeps
    | with_reducible apply Keeps.ite
    | with_reducible apply Keeps.iteSnd
    | with_reducible apply Keeps.iteFst
    | refine Keeps.sndOf (by assumption) ?_
    | refine Keeps.fstOf (by assumption) ?_
    | with_reducible assumption
    | with_reducible exact fun _ w => w
    | with_reducible exact fun _ w => Store.wf_put w _ _
    | with_reducible exact fun _ w => Store.wf_put (Store.wf_put w _ _) _ _
    | with_reducible exact fun _ w => Store.wf_keep w _
    | with_reducible exact fun _ _ => Store.wf_nil
    | with_reducible (intro _)
    | split
    | extract_lets
    | dsimp +zetaDelta only

theorem State.markBad_keeps (eb : Nat) {m₀ : Nat} {u₀ s : State} (hk : Keeps m₀ u₀ s) (hm : Parts m₀ 2241069 := by first | decide | exact Parts.sub (by assumption) (by decide)) : Keeps m₀ u₀ (State.markBad s eb) := by
  unfold State.markBad
  try extract_lets
  repeat' first
    | exact Parts.sub hm (by decide)
    | with_reducible exact hk
    | with_reducible exact Keeps.refl _ _
    | with_reducible apply State.flashWrite_keeps
    | with_reducible apply State.moduleAbsent_keeps
    | with_reducible apply State.updVlt_keeps
    | with_reducible apply Keeps.ite
    | with_reducible apply Keeps.iteSnd
    | with_reducible apply Keeps.iteFst
    | refine Keeps.sndOf (by assumption) ?_
    | refine Keeps.fstOf (by assumption) ?_
    | with_reducible assumption
    | with_reducible exact fun _ w => w
    | with_reducible exact fun _ w => Store.wf_put w _ _
    | with_reducible exact fun _ w => Store.wf_put (Store.wf_put w _ _) _ _
    | with_reducible exact fun _ w => Store.wf_keep w _
    | with_reducible exact fun _ _ => Store.wf_nil
    | with_reducible (intro _)
    | split
    | extract_lets
    | dsimp +zetaDelta only

end Sys2Proof.Machine
end

