-- ==== Sys2Proof/Laws/Keeps/LogOps.lean ====
section
/-! SUPPORT. The operations of LogOps keep the queue and a sound state. -/

set_option Elab.async false

namespace Sys2Proof.Machine

set_option linter.unreachableTactic false
set_option linter.unusedTactic false
set_option linter.unusedVariables false

theorem State.unrecoverable_keeps (key : Nat) {m₀ : Nat} {u₀ s : State} (hk : Keeps m₀ u₀ s) (hm : Parts m₀ 2228749 := by first | decide | exact Parts.sub (by assumption) (by decide)) : Keeps m₀ u₀ (State.unrecoverable s key) := by
  unfold State.unrecoverable
  try extract_lets
  repeat' first
    | exact Parts.sub hm (by decide)
    | with_reducible exact hk
    | with_reducible exact Keeps.refl _ _
    | with_reducible apply State.count_keeps
    | with_reducible apply State.event_keeps
    | with_reducible apply State.raise_keeps
    | with_reducible apply State.setB_keeps
    | with_reducible apply State.updVlt_keeps
    | with_reducible apply Keeps.ite
    | with_reducible apply Keeps.iteSnd
    | with_reducible apply Keeps.iteFst
    | refine Keeps.sndOf (by assumption) ?_
    | refine Keeps.fstOf (by assumption) ?_
    | with_reducible assumption
    | with_reducible exact fun _ w => w
    | with_reducible exact fun _ w => Store.wf_put w _ _
    | with_reducible exact fun _ w => Store.wf_put (Store.wf_put w _ _) _ _
    | with_reducible exact fun _ w => Store.wf_keep w _
    | with_reducible exact fun _ _ => Store.wf_nil
    | with_reducible (intro _)
    | split
    | extract_lets
    | dsimp +zetaDelta only

theorem State.markBand_keeps (blk : Nat) {m₀ : Nat} {u₀ s : State} (hk : Keeps m₀ u₀ s) (hm : Parts m₀ 131072 := by first | decide | exact Parts.sub (by assumption) (by decide)) : Keeps m₀ u₀ (State.markBand s blk) := by
  unfold State.markBand
  try extract_lets
  repeat' first
    | exact Parts.sub hm (by decide)
    | with_reducible exact hk
    | with_reducible exact Keeps.refl _ _
    | with_reducible apply State.setBand_keeps
    | with_reducible apply Keeps.ite
    | with_reducible apply Keeps.iteSnd
    | with_reducible apply Keeps.iteFst
    | refine Keeps.sndOf (by assumption) ?_
    | refine Keeps.fstOf (by assumption) ?_
    | with_reducible assumption
    | with_reducible exact fun _ w => w
    | with_reducible (intro _)
    | split
    | extract_lets
    | dsimp +zetaDelta only

theorem State.chunkLost_keeps (ch t pl blk pg c : Nat) {m₀ : Nat} {u₀ s : State} (hk : Keeps m₀ u₀ s) (hm : Parts m₀ 2228749 := by first | decide | exact Parts.sub (by assumption) (by decide)) : Keeps m₀ u₀ (State.chunkLost s ch t pl blk pg c) := by
  unfold State.chunkLost
  try extract_lets
  repeat' first
    | exact Parts.sub hm (by decide)
    | with_reducible exact hk
    | with_reducible exact Keeps.refl _ _
    | with_reducible apply State.count_keeps
    | with_reducible apply State.event_keeps
    | with_reducible apply State.markBand_keeps
    | with_reducible apply State.unrecoverable_keeps
    | with_reducible apply Keeps.ite
    | with_reducible apply Keeps.iteSnd
    | with_reducible apply Keeps.iteFst
    | refine Keeps.sndOf (by assumption) ?_
    | refine Keeps.fstOf (by assumption) ?_
    | with_reducible assumption
    | with_reducible exact fun _ w => w
    | with_reducible (intro _)
    | split
    | extract_lets
    | dsimp +zetaDelta only

theorem State.relocate_keeps (g : Nat) {m₀ : Nat} {u₀ s : State} (hk : Keeps m₀ u₀ s) (hm : Parts m₀ 2232845 := by first | decide | exact Parts.sub (by assumption) (by decide)) : Keeps m₀ u₀ (State.relocate s g) := by
  unfold State.relocate
  try extract_lets
  repeat' first
    | exact Parts.sub hm (by decide)
    | with_reducible exact hk
    | with_reducible exact Keeps.refl _ _
    | with_reducible apply State.unrecoverable_keeps
    | with_reducible apply State.updVlt_keeps
    | with_reducible apply State.writeSlot_keeps
    | with_reducible apply Keeps.ite
    | with_reducible apply Keeps.iteSnd
    | with_reducible apply Keeps.iteFst
    | refine Keeps.sndOf (by assumption) ?_
    | refine Keeps.fstOf (by assumption) ?_
    | with_reducible assumption
    | with_reducible exact fun _ w => w
    | with_reducible exact fun _ w => Store.wf_put w _ _
    | with_reducible exact fun _ w => Store.wf_put (Store.wf_put w _ _) _ _
    | with_reducible exact fun _ w => Store.wf_keep w _
    | with_reducible exact fun _ _ => Store.wf_nil
    | with_reducible (intro _)
    | split
    | extract_lets
    | dsimp +zetaDelta only

theorem State.writePiece_keeps (n : Nat) {m₀ : Nat} {u₀ s : State} (hk : Keeps m₀ u₀ s) (hm : Parts m₀ 2232845 := by first | decide | exact Parts.sub (by assumption) (by decide)) : Keeps m₀ u₀ (State.writePiece s n) := by
  unfold State.writePiece
  try extract_lets
  repeat' first
    | exact Parts.sub hm (by decide)
    | with_reducible exact hk
    | with_reducible exact Keeps.refl _ _
    | with_reducible apply State.updVlt_keeps
    | with_reducible apply State.writeSlot_keeps
    | with_reducible apply Keeps.ite
    | with_reducible apply Keeps.iteSnd
    | with_reducible apply Keeps.iteFst
    | refine Keeps.sndOf (by assumption) ?_
    | refine Keeps.fstOf (by assumption) ?_
    | with_reducible assumption
    | with_reducible exact fun _ w => w
    | with_reducible exact fun _ w => Store.wf_put w _ _
    | with_reducible exact fun _ w => Store.wf_put (Store.wf_put w _ _) _ _
    | with_reducible exact fun _ w => Store.wf_keep w _
    | with_reducible exact fun _ _ => Store.wf_nil
    | with_reducible (intro _)
    | split
    | extract_lets
    | dsimp +zetaDelta only

theorem State.writeDir_keeps (d : Nat) {m₀ : Nat} {u₀ s : State} (hk : Keeps m₀ u₀ s) (hm : Parts m₀ 2232845 := by first | decide | exact Parts.sub (by assumption) (by decide)) : Keeps m₀ u₀ (State.writeDir s d) := by
  unfold State.writeDir
  try extract_lets
  repeat' first
    | exact Parts.sub hm (by decide)
    | with_reducible exact hk
    | with_reducible exact Keeps.refl _ _
    | with_reducible apply State.updVlt_keeps
    | with_reducible apply State.writeSlot_keeps
    | with_reducible apply Keeps.ite
    | with_reducible apply Keeps.iteSnd
    | with_reducible apply Keeps.iteFst
    | refine Keeps.sndOf (by assumption) ?_
    | refine Keeps.fstOf (by assumption) ?_
    | with_reducible assumption
    | with_reducible exact fun _ w => w
    | with_reducible exact fun _ w => Store.wf_put w _ _
    | with_reducible exact fun _ w => Store.wf_put (Store.wf_put w _ _) _ _
    | with_reducible exact fun _ w => Store.wf_keep w _
    | with_reducible exact fun _ _ => Store.wf_nil
    | with_reducible (intro _)
    | split
    | extract_lets
    | dsimp +zetaDelta only

theorem State.ckptRoot_keeps  {m₀ : Nat} {u₀ s : State} (hk : Keeps m₀ u₀ s) (hm : Parts m₀ 2232845 := by first | decide | exact Parts.sub (by assumption) (by decide)) : Keeps m₀ u₀ (State.ckptRoot s) := by
  unfold State.ckptRoot
  try extract_lets
  repeat' first
    | exact Parts.sub hm (by decide)
    | with_reducible exact hk
    | with_reducible exact Keeps.refl _ _
    | with_reducible apply State.updVlt_keeps
    | with_reducible apply State.writeDir_keeps
    | with_reducible apply State.writeSlot_keeps
    | with_reducible apply Keeps.foldl
    | with_reducible apply Keeps.foldlFst
    | with_reducible apply Keeps.foldlSnd
    | with_reducible apply Keeps.ite
    | with_reducible apply Keeps.iteSnd
    | with_reducible apply Keeps.iteFst
    | refine Keeps.sndOf (by assumption) ?_
    | refine Keeps.fstOf (by assumption) ?_
    | with_reducible assumption
    | with_reducible exact fun _ w => w
    | with_reducible exact fun _ w => Store.wf_put w _ _
    | with_reducible exact fun _ w => Store.wf_put (Store.wf_put w _ _) _ _
    | with_reducible exact fun _ w => Store.wf_keep w _
    | with_reducible exact fun _ _ => Store.wf_nil
    | with_reducible (intro _)
    | split
    | extract_lets
    | dsimp +zetaDelta only

theorem State.ckptBegin_keeps (drain : Bool) {m₀ : Nat} {u₀ s : State} (hk : Keeps m₀ u₀ s) (hm : Parts m₀ 135169 := by first | decide | exact Parts.sub (by assumption) (by decide)) : Keeps m₀ u₀ (State.ckptBegin s drain) := by
  unfold State.ckptBegin
  try extract_lets
  repeat' first
    | exact Parts.sub hm (by decide)
    | with_reducible exact hk
    | with_reducible exact Keeps.refl _ _
    | with_reducible apply State.enqueue_keeps
    | with_reducible apply State.setB_keeps
    | with_reducible apply State.updVlt_keeps
    | with_reducible apply Keeps.ite
    | with_reducible apply Keeps.iteSnd
    | with_reducible apply Keeps.iteFst
    | refine Keeps.sndOf (by assumption) ?_
    | refine Keeps.fstOf (by assumption) ?_
    | with_reducible assumption
    | with_reducible exact fun _ w => w
    | with_reducible exact fun _ w => Store.wf_put w _ _
    | with_reducible exact fun _ w => Store.wf_put (Store.wf_put w _ _) _ _
    | with_reducible exact fun _ w => Store.wf_keep w _
    | with_reducible exact fun _ _ => Store.wf_nil
    | with_reducible (intro _)
    | split
    | extract_lets
    | dsimp +zetaDelta only

theorem State.ckptPieces_keeps {m₀ : Nat} {u : State} : ∀ (n : Nat) {s : State}, Keeps m₀ u s →
    ∀ (hm : Parts m₀ 2232845 := by first | decide | exact Parts.sub (by assumption) (by decide)), Keeps m₀ u (State.ckptPieces n s)
  | 0, _, h, _ => h
  | n + 1, s, h, hm => by
    unfold State.ckptPieces
    split
    · exact h
    · split
      · exact h
      · split
        · exact State.ckptRoot_keeps h
        · exact State.ckptPieces_keeps n (State.updVlt_keeps (State.writePiece_keeps _ h) _ fun _ w => w)

theorem State.trickle_keeps (g : Nat) {m₀ : Nat} {u₀ s : State} (hk : Keeps m₀ u₀ s) (hm : Parts m₀ 2234893 := by first | decide | exact Parts.sub (by assumption) (by decide)) : Keeps m₀ u₀ (State.trickle s g) := by
  unfold State.trickle
  try extract_lets
  repeat' first
    | exact Parts.sub hm (by decide)
    | with_reducible exact hk
    | with_reducible exact Keeps.refl _ _
    | with_reducible apply State.setEntry_keeps
    | with_reducible apply State.updVlt_keeps
    | with_reducible apply State.writeGranule_keeps
    | with_reducible apply Keeps.ite
    | with_reducible apply Keeps.iteSnd
    | with_reducible apply Keeps.iteFst
    | refine Keeps.sndOf (by assumption) ?_
    | refine Keeps.fstOf (by assumption) ?_
    | with_reducible assumption
    | with_reducible exact fun _ w => w
    | with_reducible exact fun _ w => Store.wf_put w _ _
    | with_reducible exact fun _ w => Store.wf_put (Store.wf_put w _ _) _ _
    | with_reducible exact fun _ w => Store.wf_keep w _
    | with_reducible exact fun _ _ => Store.wf_nil
    | with_reducible (intro _)
    | split
    | extract_lets
    | dsimp +zetaDelta only

theorem State.trickleBeat_keeps  {m₀ : Nat} {u₀ s : State} (hk : Keeps m₀ u₀ s) (hm : Parts m₀ 131072 := by first | decide | exact Parts.sub (by assumption) (by decide)) : Keeps m₀ u₀ (State.trickleBeat s) := by
  unfold State.trickleBeat
  try extract_lets
  repeat' first
    | exact Parts.sub hm (by decide)
    | with_reducible exact hk
    | with_reducible exact Keeps.refl _ _
    | with_reducible apply State.updVlt_keeps
    | with_reducible apply Keeps.ite
    | with_reducible apply Keeps.iteSnd
    | with_reducible apply Keeps.iteFst
    | refine Keeps.sndOf (by assumption) ?_
    | refine Keeps.fstOf (by assumption) ?_
    | with_reducible assumption
    | with_reducible exact fun _ w => w
    | with_reducible exact fun _ w => Store.wf_put w _ _
    | with_reducible exact fun _ w => Store.wf_put (Store.wf_put w _ _) _ _
    | with_reducible exact fun _ w => Store.wf_keep w _
    | with_reducible exact fun _ _ => Store.wf_nil
    | with_reducible (intro _)
    | split
    | extract_lets
    | dsimp +zetaDelta only

theorem State.sheetFailed_keeps (ch t pl blk pg : Nat) {m₀ : Nat} {u₀ s : State} (hk : Keeps m₀ u₀ s) (hm : Parts m₀ 2243117 := by first | decide | exact Parts.sub (by assumption) (by decide)) : Keeps m₀ u₀ (State.sheetFailed s ch t pl blk pg) := by
  unfold State.sheetFailed
  try extract_lets
  repeat' first
    | exact Parts.sub hm (by decide)
    | with_reducible exact hk
    | with_reducible exact Keeps.refl _ _
    | with_reducible apply State.event_keeps
    | with_reducible apply State.flushReissue_keeps
    | with_reducible apply State.markBad_keeps
    | with_reducible apply State.markBand_keeps
    | with_reducible apply State.updVlt_keeps
    | with_reducible apply Keeps.ite
    | with_reducible apply Keeps.iteSnd
    | with_reducible apply Keeps.iteFst
    | refine Keeps.sndOf (by assumption) ?_
    | refine Keeps.fstOf (by assumption) ?_
    | with_reducible assumption
    | with_reducible exact fun _ w => w
    | with_reducible exact fun _ w => Store.wf_put w _ _
    | with_reducible exact fun _ w => Store.wf_put (Store.wf_put w _ _) _ _
    | with_reducible exact fun _ w => Store.wf_keep w _
    | with_reducible exact fun _ _ => Store.wf_nil
    | with_reducible (intro _)
    | split
    | extract_lets
    | dsimp +zetaDelta only

end Sys2Proof.Machine
end

