-- ==== Sys2Proof/Laws/Keeps/Vault.lean ====
section
/-! SUPPORT. The operations of Vault keep the queue and a sound state. -/

set_option Elab.async false

namespace Sys2Proof.Machine

set_option linter.unreachableTactic false
set_option linter.unusedTactic false
set_option linter.unusedVariables false

theorem execChunkReadComplete_keeps (ch : BitVec 5) (t : BitVec 3) (pl : BitVec 2) (blk : BitVec 14) (pg : BitVec 12) (chunk : BitVec 3) (levels : List (List Nat)) {m₀ : Nat} {u₀ s : State} (hk : Keeps m₀ u₀ s) (hm : Parts m₀ 2228749 := by first | decide | exact Parts.sub (by assumption) (by decide)) : KeepsOut m₀ u₀ (execChunkReadComplete ch t pl blk pg chunk levels s) := by
  unfold execChunkReadComplete
  try extract_lets
  repeat' first
    | exact Parts.sub hm (by decide)
    | with_reducible exact hk
    | with_reducible exact Keeps.refl _ _
    | with_reducible apply State.chunkLost_keeps
    | with_reducible apply State.count_keeps
    | with_reducible apply State.markBand_keeps
    | with_reducible apply State.updVlt_keeps
    | with_reducible apply ok_keeps
    | with_reducible apply KeepsOut.next
    | with_reducible apply Keeps.ite
    | with_reducible apply KeepsOut.ite
    | with_reducible apply Keeps.iteSnd
    | with_reducible apply Keeps.iteFst
    | refine Keeps.sndOf (by assumption) ?_
    | refine Keeps.fstOf (by assumption) ?_
    | with_reducible assumption
    | with_reducible exact fun _ w => w
    | with_reducible exact fun _ w => Store.wf_put w _ _
    | with_reducible exact fun _ w => Store.wf_put (Store.wf_put w _ _) _ _
    | with_reducible exact fun _ w => Store.wf_keep w _
    | with_reducible exact fun _ _ => Store.wf_nil
    | with_reducible (intro _)
    | split
    | extract_lets
    | dsimp +zetaDelta only

theorem execNandProgramComplete_keeps (ch : BitVec 5) (t : BitVec 3) (pl : BitVec 2) (blk : BitVec 14) (pg : BitVec 12) (good : Bool) {m₀ : Nat} {u₀ s : State} (hk : Keeps m₀ u₀ s) (hm : Parts m₀ 2243117 := by first | decide | exact Parts.sub (by assumption) (by decide)) : KeepsOut m₀ u₀ (execNandProgramComplete ch t pl blk pg good s) := by
  unfold execNandProgramComplete
  try extract_lets
  repeat' first
    | exact Parts.sub hm (by decide)
    | with_reducible exact hk
    | with_reducible exact Keeps.refl _ _
    | with_reducible apply State.sheetFailed_keeps
    | with_reducible apply ok_keeps
    | with_reducible apply KeepsOut.next
    | with_reducible apply Keeps.ite
    | with_reducible apply KeepsOut.ite
    | with_reducible apply Keeps.iteSnd
    | with_reducible apply Keeps.iteFst
    | refine Keeps.sndOf (by assumption) ?_
    | refine Keeps.fstOf (by assumption) ?_
    | with_reducible assumption
    | with_reducible exact fun _ w => w
    | with_reducible (intro _)
    | split
    | extract_lets
    | dsimp +zetaDelta only

theorem execNandEraseComplete_keeps (ch : BitVec 5) (t : BitVec 3) (pl : BitVec 2) (blk : BitVec 14) (good : Bool) {m₀ : Nat} {u₀ s : State} (hk : Keeps m₀ u₀ s) (hm : Parts m₀ 2241069 := by first | decide | exact Parts.sub (by assumption) (by decide)) : KeepsOut m₀ u₀ (execNandEraseComplete ch t pl blk good s) := by
  unfold execNandEraseComplete
  try extract_lets
  repeat' first
    | exact Parts.sub hm (by decide)
    | with_reducible exact hk
    | with_reducible exact Keeps.refl _ _
    | with_reducible apply State.event_keeps
    | with_reducible apply State.markBad_keeps
    | with_reducible apply State.updVlt_keeps
    | with_reducible apply ok_keeps
    | with_reducible apply KeepsOut.next
    | with_reducible apply Keeps.ite
    | with_reducible apply KeepsOut.ite
    | with_reducible apply Keeps.iteSnd
    | with_reducible apply Keeps.iteFst
    | refine Keeps.sndOf (by assumption) ?_
    | refine Keeps.fstOf (by assumption) ?_
    | with_reducible assumption
    | with_reducible exact fun _ w => w
    | exact fun _ w => Vlt.eraseWhere_wf _ w
    | exact Vlt.eraseWhere_wf _ (by assumption)
    | with_reducible exact fun _ w => Store.wf_put w _ _
    | with_reducible exact fun _ w => Store.wf_put (Store.wf_put w _ _) _ _
    | with_reducible exact fun _ w => Store.wf_keep w _
    | with_reducible exact fun _ _ => Store.wf_nil
    | with_reducible (intro _)
    | split
    | extract_lets
    | dsimp +zetaDelta only

theorem execBandOpen_keeps (blk : BitVec 14) {m₀ : Nat} {u₀ s : State} (hk : Keeps m₀ u₀ s) (hm : Parts m₀ 2232845 := by first | decide | exact Parts.sub (by assumption) (by decide)) : KeepsOut m₀ u₀ (execBandOpen blk s) := by
  unfold execBandOpen
  try extract_lets
  repeat' first
    | exact Parts.sub hm (by decide)
    | with_reducible exact hk
    | with_reducible exact Keeps.refl _ _
    | with_reducible apply State.closeBand_keeps
    | with_reducible apply State.openBand_keeps
    | with_reducible apply State.showSpace_keeps
    | with_reducible apply State.tagAll_keeps
    | with_reducible apply ok_keeps
    | with_reducible apply KeepsOut.next
    | with_reducible apply Keeps.ite
    | with_reducible apply KeepsOut.ite
    | with_reducible apply Keeps.iteSnd
    | with_reducible apply Keeps.iteFst
    | refine Keeps.sndOf (by assumption) ?_
    | refine Keeps.fstOf (by assumption) ?_
    | with_reducible assumption
    | with_reducible exact fun _ w => w
    | with_reducible (intro _)
    | split
    | extract_lets
    | dsimp +zetaDelta only

theorem execCheckpointTrigger_keeps  {m₀ : Nat} {u₀ s : State} (hk : Keeps m₀ u₀ s) (hm : Parts m₀ 135169 := by first | decide | exact Parts.sub (by assumption) (by decide)) : KeepsOut m₀ u₀ (execCheckpointTrigger s) := by
  unfold execCheckpointTrigger
  try extract_lets
  repeat' first
    | exact Parts.sub hm (by decide)
    | with_reducible exact hk
    | with_reducible exact Keeps.refl _ _
    | with_reducible apply State.ckptBegin_keeps
    | with_reducible apply ok_keeps
    | with_reducible apply KeepsOut.next
    | with_reducible apply Keeps.ite
    | with_reducible apply KeepsOut.ite
    | with_reducible apply Keeps.iteSnd
    | with_reducible apply Keeps.iteFst
    | refine Keeps.sndOf (by assumption) ?_
    | refine Keeps.fstOf (by assumption) ?_
    | with_reducible assumption
    | with_reducible exact fun _ w => w
    | with_reducible (intro _)
    | split
    | extract_lets
    | dsimp +zetaDelta only

theorem execEpochSeal_keeps  {m₀ : Nat} {u₀ s : State} (hk : Keeps m₀ u₀ s) (hm : Parts m₀ 3283565 := by first | decide | exact Parts.sub (by assumption) (by decide)) : KeepsOut m₀ u₀ (execEpochSeal s) := by
  unfold execEpochSeal
  try extract_lets
  repeat' first
    | exact Parts.sub hm (by decide)
    | with_reducible exact hk
    | with_reducible exact Keeps.refl _ _
    | with_reducible apply State.dgeTake_keeps
    | with_reducible apply State.event_keeps
    | with_reducible apply State.recorderCopy_keeps
    | with_reducible apply State.seal_keeps
    | with_reducible apply State.writePair_keeps
    | with_reducible apply ok_keeps
    | with_reducible apply KeepsOut.next
    | with_reducible apply Keeps.ite
    | with_reducible apply KeepsOut.ite
    | with_reducible apply Keeps.iteSnd
    | with_reducible apply Keeps.iteFst
    | refine Keeps.sndOf (by assumption) ?_
    | refine Keeps.fstOf (by assumption) ?_
    | with_reducible assumption
    | with_reducible exact fun _ w => w
    | exact fun _ w => Evr.record_ring w _ _ _ _ _ _ _
    | with_reducible (intro _)
    | split
    | extract_lets
    | dsimp +zetaDelta only

theorem execFullCopyComplete_keeps (g : BitVec 40) {m₀ : Nat} {u₀ s : State} (hk : Keeps m₀ u₀ s) (hm : Parts m₀ 2234893 := by first | decide | exact Parts.sub (by assumption) (by decide)) : KeepsOut m₀ u₀ (execFullCopyComplete g s) := by
  unfold execFullCopyComplete
  try extract_lets
  repeat' first
    | exact Parts.sub hm (by decide)
    | with_reducible exact hk
    | with_reducible exact Keeps.refl _ _
    | with_reducible apply State.setVloc_keeps
    | with_reducible apply State.showSpace_keeps
    | with_reducible apply State.showStripe_keeps
    | with_reducible apply State.tagAll_keeps
    | with_reducible apply State.updVlt_keeps
    | with_reducible apply ok_keeps
    | with_reducible apply KeepsOut.next
    | with_reducible apply Keeps.ite
    | with_reducible apply KeepsOut.ite
    | with_reducible apply Keeps.iteSnd
    | with_reducible apply Keeps.iteFst
    | refine Keeps.sndOf (by assumption) ?_
    | refine Keeps.fstOf (by assumption) ?_
    | with_reducible assumption
    | with_reducible exact fun _ w => w
    | with_reducible exact fun _ w => Store.wf_put w _ _
    | with_reducible exact fun _ w => Store.wf_put (Store.wf_put w _ _) _ _
    | with_reducible exact fun _ w => Store.wf_keep w _
    | with_reducible exact fun _ _ => Store.wf_nil
    | with_reducible (intro _)
    | split
    | extract_lets
    | dsimp +zetaDelta only

theorem execFlashModuleAbsent_keeps (mod : BitVec 2) {m₀ : Nat} {u₀ s : State} (hk : Keeps m₀ u₀ s) (hm : Parts m₀ 2241037 := by first | decide | exact Parts.sub (by assumption) (by decide)) : KeepsOut m₀ u₀ (execFlashModuleAbsent mod s) := by
  unfold execFlashModuleAbsent
  try extract_lets
  repeat' first
    | exact Parts.sub hm (by decide)
    | with_reducible exact hk
    | with_reducible exact Keeps.refl _ _
    | with_reducible apply State.moduleAbsent_keeps
    | with_reducible apply ok_keeps
    | with_reducible apply KeepsOut.next
    | with_reducible apply Keeps.ite
    | with_reducible apply KeepsOut.ite
    | with_reducible apply Keeps.iteSnd
    | with_reducible apply Keeps.iteFst
    | refine Keeps.sndOf (by assumption) ?_
    | refine Keeps.fstOf (by assumption) ?_
    | with_reducible assumption
    | with_reducible exact fun _ w => w
    | with_reducible (intro _)
    | split
    | extract_lets
    | dsimp +zetaDelta only

theorem execFlashModuleRelease_keeps (mod : BitVec 2) {m₀ : Nat} {u₀ s : State} (hk : Keeps m₀ u₀ s) (hm : Parts m₀ 2105869 := by first | decide | exact Parts.sub (by assumption) (by decide)) : KeepsOut m₀ u₀ (execFlashModuleRelease mod s) := by
  unfold execFlashModuleRelease
  try extract_lets
  repeat' first
    | exact Parts.sub hm (by decide)
    | with_reducible exact hk
    | with_reducible exact Keeps.refl _ _
    | with_reducible apply State.logRefusal_keeps
    | with_reducible apply State.set_keeps
    | with_reducible apply State.updLdg_keeps
    | with_reducible apply ok_keeps
    | with_reducible apply KeepsOut.next
    | with_reducible apply Keeps.ite
    | with_reducible apply KeepsOut.ite
    | with_reducible apply Keeps.iteSnd
    | with_reducible apply Keeps.iteFst
    | refine Keeps.sndOf (by assumption) ?_
    | refine Keeps.fstOf (by assumption) ?_
    | with_reducible assumption
    | with_reducible exact fun _ w => w
    | with_reducible (intro _)
    | split
    | extract_lets
    | dsimp +zetaDelta only

theorem execFlashReleaseRestripe_keeps  {m₀ : Nat} {u₀ s : State} (hk : Keeps m₀ u₀ s) (hm : Parts m₀ 2232845 := by first | decide | exact Parts.sub (by assumption) (by decide)) : KeepsOut m₀ u₀ (execFlashReleaseRestripe s) := by
  unfold execFlashReleaseRestripe
  try extract_lets
  repeat' first
    | exact Parts.sub hm (by decide)
    | with_reducible exact hk
    | with_reducible exact Keeps.refl _ _
    | with_reducible apply State.closeBand_keeps
    | with_reducible apply State.showStripe_keeps
    | with_reducible apply State.tagAll_keeps
    | with_reducible apply State.updVlt_keeps
    | with_reducible apply ok_keeps
    | with_reducible apply KeepsOut.next
    | with_reducible apply Keeps.ite
    | with_reducible apply KeepsOut.ite
    | with_reducible apply Keeps.iteSnd
    | with_reducible apply Keeps.iteFst
    | refine Keeps.sndOf (by assumption) ?_
    | refine Keeps.fstOf (by assumption) ?_
    | with_reducible assumption
    | with_reducible exact fun _ w => w
    | with_reducible exact fun _ w => Store.wf_put w _ _
    | with_reducible exact fun _ w => Store.wf_put (Store.wf_put w _ _) _ _
    | with_reducible exact fun _ w => Store.wf_keep w _
    | with_reducible exact fun _ _ => Store.wf_nil
    | with_reducible (intro _)
    | split
    | extract_lets
    | dsimp +zetaDelta only

theorem execFlashModuleReleased_keeps (mod : BitVec 2) {m₀ : Nat} {u₀ s : State} (hk : Keeps m₀ u₀ s) (hm : Parts m₀ 2269709 := by first | decide | exact Parts.sub (by assumption) (by decide)) : KeepsOut m₀ u₀ (execFlashModuleReleased mod s) := by
  unfold execFlashModuleReleased
  try extract_lets
  repeat' first
    | exact Parts.sub hm (by decide)
    | with_reducible exact hk
    | with_reducible exact Keeps.refl _ _
    | with_reducible apply State.event_keeps
    | with_reducible apply State.groupDown_keeps
    | with_reducible apply State.set_keeps
    | with_reducible apply State.showStripe_keeps
    | with_reducible apply State.updLdg_keeps
    | with_reducible apply State.updVlt_keeps
    | with_reducible apply ok_keeps
    | with_reducible apply KeepsOut.next
    | with_reducible apply Keeps.ite
    | with_reducible apply KeepsOut.ite
    | with_reducible apply Keeps.iteSnd
    | with_reducible apply Keeps.iteFst
    | refine Keeps.sndOf (by assumption) ?_
    | refine Keeps.fstOf (by assumption) ?_
    | with_reducible assumption
    | with_reducible exact fun _ w => w
    | with_reducible exact fun _ w => Store.wf_put w _ _
    | with_reducible exact fun _ w => Store.wf_put (Store.wf_put w _ _) _ _
    | with_reducible exact fun _ w => Store.wf_keep w _
    | with_reducible exact fun _ _ => Store.wf_nil
    | with_reducible (intro _)
    | split
    | extract_lets
    | dsimp +zetaDelta only

theorem execFlashModuleCancel_keeps (mod : BitVec 2) {m₀ : Nat} {u₀ s : State} (hk : Keeps m₀ u₀ s) (hm : Parts m₀ 1 := by first | decide | exact Parts.sub (by assumption) (by decide)) : KeepsOut m₀ u₀ (execFlashModuleCancel mod s) := by
  unfold execFlashModuleCancel
  try extract_lets
  repeat' first
    | exact Parts.sub hm (by decide)
    | with_reducible exact hk
    | with_reducible exact Keeps.refl _ _
    | with_reducible apply State.set_keeps
    | with_reducible apply ok_keeps
    | with_reducible apply KeepsOut.next
    | with_reducible apply Keeps.ite
    | with_reducible apply KeepsOut.ite
    | with_reducible apply Keeps.iteSnd
    | with_reducible apply Keeps.iteFst
    | refine Keeps.sndOf (by assumption) ?_
    | refine Keeps.fstOf (by assumption) ?_
    | with_reducible assumption
    | with_reducible exact fun _ w => w
    | with_reducible (intro _)
    | split
    | extract_lets
    | dsimp +zetaDelta only

theorem execFlashModuleAdd_keeps (mod : BitVec 2) (pages : List ParamPage) (marks : List BadMark) {m₀ : Nat} {u₀ s : State} (hk : Keeps m₀ u₀ s) (hm : Parts m₀ 2265645 := by first | decide | exact Parts.sub (by assumption) (by decide)) : KeepsOut m₀ u₀ (execFlashModuleAdd mod pages marks s) := by
  unfold execFlashModuleAdd
  extract_lets m s00 s0 found all s1 s2 tooMany s3
  have k_s00 : Keeps m₀ u₀ s00 := by
    unfold s00
    repeat' first
      | exact Store.wf_keep (by assumption) _
      | exact Parts.sub hm (by decide)
      | with_reducible exact hk
      | with_reducible exact Keeps.refl _ _
      | with_reducible apply State.set_keeps
      | with_reducible apply Keeps.ite
      | with_reducible apply KeepsOut.ite
      | with_reducible apply Keeps.iteSnd
      | with_reducible apply Keeps.iteFst
      | refine Keeps.sndOf (by assumption) ?_
      | refine Keeps.fstOf (by assumption) ?_
      | with_reducible assumption
      | with_reducible exact fun _ w => w
      | with_reducible (intro _)
      | split
  have k_s0 : Keeps m₀ u₀ s0 := by
    unfold s0
    repeat' first
      | with_reducible exact k_s00
      | exact Store.wf_keep (by assumption) _
      | exact Parts.sub hm (by decide)
      | with_reducible exact hk
      | with_reducible exact Keeps.refl _ _
      | with_reducible apply State.groupUp_keeps
      | with_reducible apply Keeps.ite
      | with_reducible apply KeepsOut.ite
      | with_reducible apply Keeps.iteSnd
      | with_reducible apply Keeps.iteFst
      | refine Keeps.sndOf (by assumption) ?_
      | refine Keeps.fstOf (by assumption) ?_
      | with_reducible assumption
      | with_reducible exact fun _ w => w
      | with_reducible (intro _)
      | split
  have k_s1 : Keeps m₀ u₀ s1 := by
    unfold s1
    repeat' first
      | with_reducible exact k_s0
      | with_reducible exact k_s00
      | exact Store.wf_keep (by assumption) _
      | exact Parts.sub hm (by decide)
      | with_reducible exact hk
      | with_reducible exact Keeps.refl _ _
      | with_reducible apply State.updVlt_keeps
      | with_reducible apply Keeps.ite
      | with_reducible apply KeepsOut.ite
      | with_reducible apply Keeps.iteSnd
      | with_reducible apply Keeps.iteFst
      | refine Keeps.sndOf (by assumption) ?_
      | refine Keeps.fstOf (by assumption) ?_
      | with_reducible assumption
      | with_reducible exact fun _ w => w
      | exact fun _ w => Vlt.eraseWhere_wf _ w
      | exact Vlt.eraseWhere_wf _ (by assumption)
      | with_reducible exact fun _ w => Store.wf_put w _ _
      | with_reducible exact fun _ w => Store.wf_put (Store.wf_put w _ _) _ _
      | with_reducible exact fun _ w => Store.wf_keep w _
      | with_reducible exact fun _ _ => Store.wf_nil
      | with_reducible (intro _)
      | split
  have k_s2 : Keeps m₀ u₀ s2 := by
    unfold s2
    repeat' first
      | with_reducible exact k_s1
      | with_reducible exact k_s0
      | with_reducible exact k_s00
      | exact Store.wf_keep (by assumption) _
      | exact Parts.sub hm (by decide)
      | with_reducible exact hk
      | with_reducible exact Keeps.refl _ _
      | with_reducible apply State.flashWrite_keeps
      | with_reducible apply Keeps.ite
      | with_reducible apply KeepsOut.ite
      | with_reducible apply Keeps.iteSnd
      | with_reducible apply Keeps.iteFst
      | refine Keeps.sndOf (by assumption) ?_
      | refine Keeps.fstOf (by assumption) ?_
      | with_reducible assumption
      | with_reducible exact fun _ w => w
      | with_reducible (intro _)
      | split
  have k_s3 : Keeps m₀ u₀ s3 := by
    unfold s3
    repeat' first
      | with_reducible exact k_s2
      | with_reducible exact k_s1
      | with_reducible exact k_s0
      | with_reducible exact k_s00
      | exact Store.wf_keep (by assumption) _
      | exact Parts.sub hm (by decide)
      | with_reducible exact hk
      | with_reducible exact Keeps.refl _ _
      | with_reducible apply State.set_keeps
      | with_reducible apply Keeps.ite
      | with_reducible apply KeepsOut.ite
      | with_reducible apply Keeps.iteSnd
      | with_reducible apply Keeps.iteFst
      | refine Keeps.sndOf (by assumption) ?_
      | refine Keeps.fstOf (by assumption) ?_
      | with_reducible assumption
      | with_reducible exact fun _ w => w
      | with_reducible (intro _)
      | split
  clear_value m s00 s0 found all s1 s2 tooMany s3
  repeat' first
    | with_reducible exact k_s3
    | with_reducible exact k_s2
    | with_reducible exact k_s1
    | with_reducible exact k_s0
    | with_reducible exact k_s00
    | exact Store.wf_keep (by assumption) _
    | exact Parts.sub hm (by decide)
    | with_reducible exact hk
    | with_reducible exact Keeps.refl _ _
    | with_reducible apply State.closeBand_keeps
    | with_reducible apply State.event_keeps
    | with_reducible apply State.flashWrite_keeps
    | with_reducible apply State.groupUp_keeps
    | with_reducible apply State.logRefusal_keeps
    | with_reducible apply State.moduleFailed_keeps
    | with_reducible apply State.set_keeps
    | with_reducible apply State.showStripe_keeps
    | with_reducible apply State.tagAll_keeps
    | with_reducible apply State.updVlt_keeps
    | with_reducible apply ok_keeps
    | with_reducible apply KeepsOut.next
    | with_reducible apply Keeps.ite
    | with_reducible apply KeepsOut.ite
    | with_reducible apply Keeps.iteSnd
    | with_reducible apply Keeps.iteFst
    | refine Keeps.sndOf (by assumption) ?_
    | refine Keeps.fstOf (by assumption) ?_
    | with_reducible assumption
    | with_reducible exact fun _ w => w
    | exact fun _ w => Vlt.eraseWhere_wf _ w
    | exact Vlt.eraseWhere_wf _ (by assumption)
    | with_reducible exact fun _ w => Store.wf_put w _ _
    | with_reducible exact fun _ w => Store.wf_put (Store.wf_put w _ _) _ _
    | with_reducible exact fun _ w => Store.wf_keep w _
    | with_reducible exact fun _ _ => Store.wf_nil
    | with_reducible (intro _)
    | split

theorem execVaultFormat_keeps (key : BitVec 16) (go : Bool) {m₀ : Nat} {u₀ s : State} (hk : Keeps m₀ u₀ s) (hm : Parts m₀ 3545965 := by first | decide | exact Parts.sub (by assumption) (by decide)) : KeepsOut m₀ u₀ (execVaultFormat key go s) := by
  unfold execVaultFormat
  try extract_lets
  repeat' first
    | exact Parts.sub hm (by decide)
    | with_reducible exact hk
    | with_reducible exact Keeps.refl _ _
    | with_reducible apply State.dgeRequest_keeps
    | with_reducible apply State.event_keeps
    | with_reducible apply State.recorderCopy_keeps
    | with_reducible apply State.seal_keeps
    | with_reducible apply State.set_keeps
    | with_reducible apply State.setB_keeps
    | with_reducible apply State.updPq_keeps
    | with_reducible apply State.updRst_keeps
    | with_reducible apply State.updVlt_keeps
    | with_reducible apply State.writePair_keeps
    | with_reducible apply ok_keeps
    | with_reducible apply KeepsOut.next
    | with_reducible apply Keeps.ite
    | with_reducible apply KeepsOut.ite
    | with_reducible apply Keeps.iteSnd
    | with_reducible apply Keeps.iteFst
    | refine Keeps.sndOf (by assumption) ?_
    | refine Keeps.fstOf (by assumption) ?_
    | with_reducible assumption
    | with_reducible exact fun _ w => w
    | exact fun _ w => Evr.record_ring w _ _ _ _ _ _ _
    | exact fun _ _ => rfl
    | with_reducible exact fun _ w => Store.wf_put w _ _
    | with_reducible exact fun _ w => Store.wf_put (Store.wf_put w _ _) _ _
    | with_reducible exact fun _ w => Store.wf_keep w _
    | with_reducible exact fun _ _ => Store.wf_nil
    | with_reducible (intro _)
    | split
    | extract_lets
    | dsimp +zetaDelta only

theorem execTrickle_keeps (g : BitVec 40) {m₀ : Nat} {u₀ s : State} (hk : Keeps m₀ u₀ s) (hm : Parts m₀ 2234909 := by first | decide | exact Parts.sub (by assumption) (by decide)) : KeepsOut m₀ u₀ (execTrickle g s) := by
  unfold execTrickle
  try extract_lets
  repeat' first
    | exact Parts.sub hm (by decide)
    | with_reducible exact hk
    | with_reducible exact Keeps.refl _ _
    | with_reducible apply State.dramAsk_keeps
    | with_reducible apply State.restoreImage_keeps
    | with_reducible apply State.retireTask_keeps
    | with_reducible apply State.trickle_keeps
    | with_reducible apply State.underBeat_keeps
    | with_reducible apply ok_keeps
    | with_reducible apply KeepsOut.next
    | with_reducible apply Keeps.ite
    | with_reducible apply KeepsOut.ite
    | with_reducible apply Keeps.iteSnd
    | with_reducible apply Keeps.iteFst
    | refine Keeps.sndOf (by assumption) ?_
    | refine Keeps.fstOf (by assumption) ?_
    | with_reducible assumption
    | with_reducible exact fun _ w => w
    | with_reducible (intro _)
    | split
    | extract_lets
    | dsimp +zetaDelta only

theorem execTrickleWriteComplete_keeps (g : BitVec 40) {m₀ : Nat} {u₀ s : State} (hk : Keeps m₀ u₀ s) (hm : Parts m₀ 2243085 := by first | decide | exact Parts.sub (by assumption) (by decide)) : KeepsOut m₀ u₀ (execTrickleWriteComplete g s) := by
  unfold execTrickleWriteComplete
  try extract_lets
  repeat' first
    | exact Parts.sub hm (by decide)
    | with_reducible exact hk
    | with_reducible exact Keeps.refl _ _
    | with_reducible apply State.clean_keeps
    | with_reducible apply State.setEntry_keeps
    | with_reducible apply State.setVloc_keeps
    | with_reducible apply State.showSpace_keeps
    | with_reducible apply State.tagAll_keeps
    | with_reducible apply State.updLdg_keeps
    | with_reducible apply State.updVlt_keeps
    | with_reducible apply ok_keeps
    | with_reducible apply KeepsOut.next
    | with_reducible apply Keeps.ite
    | with_reducible apply KeepsOut.ite
    | with_reducible apply Keeps.iteSnd
    | with_reducible apply Keeps.iteFst
    | refine Keeps.sndOf (by assumption) ?_
    | refine Keeps.fstOf (by assumption) ?_
    | with_reducible assumption
    | with_reducible exact fun _ w => w
    | with_reducible exact fun _ w => Store.wf_put w _ _
    | with_reducible exact fun _ w => Store.wf_put (Store.wf_put w _ _) _ _
    | with_reducible exact fun _ w => Store.wf_keep w _
    | with_reducible exact fun _ _ => Store.wf_nil
    | with_reducible (intro _)
    | split
    | extract_lets
    | dsimp +zetaDelta only

theorem execFull_keeps (bseq : BitVec 40) (count : BitVec 32) {m₀ : Nat} {u₀ s : State} (hk : Keeps m₀ u₀ s) (hm : Parts m₀ 2232861 := by first | decide | exact Parts.sub (by assumption) (by decide)) : KeepsOut m₀ u₀ (execFull bseq count s) := by
  unfold execFull
  try extract_lets
  repeat' first
    | exact Parts.sub hm (by decide)
    | with_reducible exact hk
    | with_reducible exact Keeps.refl _ _
    | with_reducible apply State.count_keeps
    | with_reducible apply State.relocate_keeps
    | with_reducible apply State.restoreImage_keeps
    | with_reducible apply State.retireTask_keeps
    | with_reducible apply State.showSpace_keeps
    | with_reducible apply State.showStripe_keeps
    | with_reducible apply State.underBeat_keeps
    | with_reducible apply ok_keeps
    | with_reducible apply Keeps.foldl
    | with_reducible apply Keeps.foldlFst
    | with_reducible apply Keeps.foldlSnd
    | with_reducible apply KeepsOut.next
    | with_reducible apply Keeps.ite
    | with_reducible apply KeepsOut.ite
    | with_reducible apply Keeps.iteSnd
    | with_reducible apply Keeps.iteFst
    | refine Keeps.sndOf (by assumption) ?_
    | refine Keeps.fstOf (by assumption) ?_
    | with_reducible assumption
    | with_reducible exact fun _ w => w
    | with_reducible (intro _)
    | split
    | extract_lets
    | dsimp +zetaDelta only

theorem execMapCkpt_keeps (count : BitVec 16) {m₀ : Nat} {u₀ s : State} (hk : Keeps m₀ u₀ s) (hm : Parts m₀ 2232861 := by first | decide | exact Parts.sub (by assumption) (by decide)) : KeepsOut m₀ u₀ (execMapCkpt count s) := by
  unfold execMapCkpt
  try extract_lets
  repeat' first
    | exact Parts.sub hm (by decide)
    | with_reducible exact hk
    | with_reducible exact Keeps.refl _ _
    | with_reducible apply State.ckptPieces_keeps
    | with_reducible apply State.count_keeps
    | with_reducible apply State.restoreImage_keeps
    | with_reducible apply State.retireTask_keeps
    | with_reducible apply State.tagAll_keeps
    | with_reducible apply State.underBeat_keeps
    | with_reducible apply ok_keeps
    | with_reducible apply KeepsOut.next
    | with_reducible apply Keeps.ite
    | with_reducible apply KeepsOut.ite
    | with_reducible apply Keeps.iteSnd
    | with_reducible apply Keeps.iteFst
    | refine Keeps.sndOf (by assumption) ?_
    | refine Keeps.fstOf (by assumption) ?_
    | with_reducible assumption
    | with_reducible exact fun _ w => w
    | with_reducible (intro _)
    | split
    | extract_lets
    | dsimp +zetaDelta only

theorem execParity_keeps (bseq : BitVec 40) (row : BitVec 16) {m₀ : Nat} {u₀ s : State} (hk : Keeps m₀ u₀ s) (hm : Parts m₀ 2234909 := by first | decide | exact Parts.sub (by assumption) (by decide)) : KeepsOut m₀ u₀ (execParity bseq row s) := by
  unfold execParity
  try extract_lets
  repeat' first
    | exact Parts.sub hm (by decide)
    | with_reducible exact hk
    | with_reducible exact Keeps.refl _ _
    | with_reducible apply State.flushReissue_keeps
    | with_reducible apply State.restoreImage_keeps
    | with_reducible apply State.retireTask_keeps
    | with_reducible apply State.tagAll_keeps
    | with_reducible apply State.underBeat_keeps
    | with_reducible apply State.writeParity_keeps
    | with_reducible apply ok_keeps
    | with_reducible apply KeepsOut.next
    | with_reducible apply Keeps.ite
    | with_reducible apply KeepsOut.ite
    | with_reducible apply Keeps.iteSnd
    | with_reducible apply Keeps.iteFst
    | refine Keeps.sndOf (by assumption) ?_
    | refine Keeps.fstOf (by assumption) ?_
    | with_reducible assumption
    | with_reducible exact fun _ w => w
    | with_reducible (intro _)
    | split
    | extract_lets
    | dsimp +zetaDelta only

theorem execHealth_keeps (g : BitVec 40) {m₀ : Nat} {u₀ s : State} (hk : Keeps m₀ u₀ s) (hm : Parts m₀ 4097 := by first | decide | exact Parts.sub (by assumption) (by decide)) : KeepsOut m₀ u₀ (execHealth g s) := by
  unfold execHealth
  try extract_lets
  repeat' first
    | exact Parts.sub hm (by decide)
    | with_reducible exact hk
    | with_reducible exact Keeps.refl _ _
    | with_reducible apply State.enqueue_keeps
    | with_reducible apply ok_keeps
    | with_reducible apply KeepsOut.next
    | with_reducible apply Keeps.ite
    | with_reducible apply KeepsOut.ite
    | with_reducible apply Keeps.iteSnd
    | with_reducible apply Keeps.iteFst
    | refine Keeps.sndOf (by assumption) ?_
    | refine Keeps.fstOf (by assumption) ?_
    | with_reducible assumption
    | with_reducible exact fun _ w => w
    | with_reducible (intro _)
    | split
    | extract_lets
    | dsimp +zetaDelta only

end Sys2Proof.Machine
end

