-- ==== Sys2Proof/Laws/Keeps/RestoreOps.lean ====
section
/-! SUPPORT. The operations of RestoreOps keep the queue and a sound state. -/

set_option Elab.async false

namespace Sys2Proof.Machine

set_option linter.unreachableTactic false
set_option linter.unusedTactic false
set_option linter.unusedVariables false

theorem State.pageScan_keeps  {m₀ : Nat} {u₀ s : State} (hk : Keeps m₀ u₀ s) (hm : Parts m₀ 2228748 := by first | decide | exact Parts.sub (by assumption) (by decide)) : Keeps m₀ u₀ (State.pageScan s) := by
  unfold State.pageScan
  try extract_lets
  repeat' first
    | exact Parts.sub hm (by decide)
    | with_reducible exact hk
    | with_reducible exact Keeps.refl _ _
    | with_reducible apply State.event_keeps
    | with_reducible apply State.updVlt_keeps
    | with_reducible apply stateOf_keeps
    | with_reducible apply Keeps.foldl
    | with_reducible apply Keeps.foldlFst
    | with_reducible apply Keeps.foldlSnd
    | with_reducible apply Keeps.ite
    | with_reducible apply Keeps.iteSnd
    | with_reducible apply Keeps.iteFst
    | refine Keeps.sndOf (by assumption) ?_
    | refine Keeps.fstOf (by assumption) ?_
    | with_reducible assumption
    | with_reducible exact fun _ w => w
    | with_reducible exact fun _ w => Store.wf_put w _ _
    | with_reducible exact fun _ w => Store.wf_put (Store.wf_put w _ _) _ _
    | with_reducible exact fun _ w => Store.wf_keep w _
    | with_reducible exact fun _ _ => Store.wf_nil
    | with_reducible (intro _)
    | split
    | extract_lets
    | dsimp +zetaDelta only

theorem State.putFigures_keeps (remap : List Byte) (cal : Store Nat) {m₀ : Nat} {u₀ s : State} (hk : Keeps m₀ u₀ s) (hm : Parts m₀ 10241 := by first | decide | exact Parts.sub (by assumption) (by decide)) : Keeps m₀ u₀ (State.putFigures s remap cal) := by
  unfold State.putFigures
  try extract_lets
  repeat' first
    | exact Parts.sub hm (by decide)
    | with_reducible exact hk
    | with_reducible exact Keeps.refl _ _
    | with_reducible apply State.layRanks_keeps
    | with_reducible apply State.updCch_keeps
    | with_reducible apply State.updLdg_keeps
    | with_reducible apply Keeps.ite
    | with_reducible apply Keeps.iteSnd
    | with_reducible apply Keeps.iteFst
    | refine Keeps.sndOf (by assumption) ?_
    | refine Keeps.fstOf (by assumption) ?_
    | with_reducible assumption
    | with_reducible exact fun _ w => w
    | with_reducible exact fun _ w => Store.wf_put w _ _
    | with_reducible exact fun _ w => Store.wf_put (Store.wf_put w _ _) _ _
    | with_reducible exact fun _ w => Store.wf_keep w _
    | with_reducible exact fun _ _ => Store.wf_nil
    | with_reducible (intro _)
    | split
    | extract_lets
    | dsimp +zetaDelta only

theorem State.loadCell_keeps  {m₀ : Nat} {u₀ s : State} (hk : Keeps m₀ u₀ s) (hm : Parts m₀ 10241 := by first | decide | exact Parts.sub (by assumption) (by decide)) : Keeps m₀ u₀ (State.loadCell s) := by
  unfold State.loadCell
  try extract_lets
  repeat' first
    | exact Parts.sub hm (by decide)
    | with_reducible exact hk
    | with_reducible exact Keeps.refl _ _
    | with_reducible apply State.putFigures_keeps
    | with_reducible apply Keeps.ite
    | with_reducible apply Keeps.iteSnd
    | with_reducible apply Keeps.iteFst
    | refine Keeps.sndOf (by assumption) ?_
    | refine Keeps.fstOf (by assumption) ?_
    | with_reducible assumption
    | with_reducible exact fun _ w => w
    | with_reducible (intro _)
    | split
    | extract_lets
    | dsimp +zetaDelta only

theorem State.loadFigures_keeps (c : List Byte) {m₀ : Nat} {u₀ s : State} (hk : Keeps m₀ u₀ s) (hm : Parts m₀ 10241 := by first | decide | exact Parts.sub (by assumption) (by decide)) : Keeps m₀ u₀ (State.loadFigures s c) := by
  unfold State.loadFigures
  try extract_lets
  repeat' first
    | exact Parts.sub hm (by decide)
    | with_reducible exact hk
    | with_reducible exact Keeps.refl _ _
    | with_reducible apply State.loadCell_keeps
    | with_reducible apply State.putFigures_keeps
    | with_reducible apply Keeps.ite
    | with_reducible apply Keeps.iteSnd
    | with_reducible apply Keeps.iteFst
    | refine Keeps.sndOf (by assumption) ?_
    | refine Keeps.fstOf (by assumption) ?_
    | with_reducible assumption
    | with_reducible exact fun _ w => w
    | with_reducible (intro _)
    | split
    | extract_lets
    | dsimp +zetaDelta only

theorem State.loadHorizons_keeps (c : List Byte) {m₀ : Nat} {u₀ s : State} (hk : Keeps m₀ u₀ s) (hm : Parts m₀ 65793 := by first | decide | exact Parts.sub (by assumption) (by decide)) : Keeps m₀ u₀ (State.loadHorizons s c) := by
  unfold State.loadHorizons
  try extract_lets
  repeat' first
    | exact Parts.sub hm (by decide)
    | with_reducible exact hk
    | with_reducible exact Keeps.refl _ _
    | with_reducible apply State.set64_keeps
    | with_reducible apply State.setB_keeps
    | with_reducible apply State.setLhz_keeps
    | with_reducible apply State.updDrn_keeps
    | with_reducible apply State.updPq_keeps
    | with_reducible apply Keeps.ite
    | with_reducible apply Keeps.iteSnd
    | with_reducible apply Keeps.iteFst
    | refine Keeps.sndOf (by assumption) ?_
    | refine Keeps.fstOf (by assumption) ?_
    | with_reducible assumption
    | with_reducible exact fun _ w => w
    | with_reducible (intro _)
    | split
    | extract_lets
    | dsimp +zetaDelta only

theorem State.takeCrown_keeps (c : List Byte) (refs : List CrownRef) (result : Nat) {m₀ : Nat} {u₀ s : State} (hk : Keeps m₀ u₀ s) (hm : Parts m₀ 2566925 := by first | decide | exact Parts.sub (by assumption) (by decide)) : Keeps m₀ u₀ (State.takeCrown s c refs result) := by
  unfold State.takeCrown
  try extract_lets
  repeat' first
    | exact Parts.sub hm (by decide)
    | with_reducible exact hk
    | with_reducible exact Keeps.refl _ _
    | with_reducible apply State.event_keeps
    | with_reducible apply State.loadFigures_keeps
    | with_reducible apply State.loadHorizons_keeps
    | with_reducible apply State.set_keeps
    | with_reducible apply State.set64_keeps
    | with_reducible apply State.setB_keeps
    | with_reducible apply State.updRst_keeps
    | with_reducible apply State.updVlt_keeps
    | with_reducible apply Keeps.foldl
    | with_reducible apply Keeps.foldlFst
    | with_reducible apply Keeps.foldlSnd
    | with_reducible apply Keeps.ite
    | with_reducible apply Keeps.iteSnd
    | with_reducible apply Keeps.iteFst
    | refine Keeps.sndOf (by assumption) ?_
    | refine Keeps.fstOf (by assumption) ?_
    | with_reducible assumption
    | with_reducible exact fun _ w => w
    | with_reducible exact fun _ w => Store.wf_put w _ _
    | with_reducible exact fun _ w => Store.wf_put (Store.wf_put w _ _) _ _
    | with_reducible exact fun _ w => Store.wf_keep w _
    | with_reducible exact fun _ _ => Store.wf_nil
    | with_reducible (intro _)
    | split
    | extract_lets
    | dsimp +zetaDelta only

theorem State.noCrown_keeps  {m₀ : Nat} {u₀ s : State} (hk : Keeps m₀ u₀ s) (hm : Parts m₀ 2097677 := by first | decide | exact Parts.sub (by assumption) (by decide)) : Keeps m₀ u₀ (State.noCrown s) := by
  unfold State.noCrown
  try extract_lets
  repeat' first
    | exact Parts.sub hm (by decide)
    | with_reducible exact hk
    | with_reducible exact Keeps.refl _ _
    | with_reducible apply State.event_keeps
    | with_reducible apply State.set_keeps
    | with_reducible apply State.updMbx_keeps
    | with_reducible apply Keeps.ite
    | with_reducible apply Keeps.iteSnd
    | with_reducible apply Keeps.iteFst
    | refine Keeps.sndOf (by assumption) ?_
    | refine Keeps.fstOf (by assumption) ?_
    | with_reducible assumption
    | with_reducible exact fun _ w => w
    | with_reducible (intro _)
    | split
    | extract_lets
    | dsimp +zetaDelta only

theorem State.crownSearch_keeps {m₀ : Nat} {u s : State} (hk : Keeps m₀ u s) (hm : Parts m₀ 2566925 := by first | decide | exact Parts.sub (by assumption) (by decide)) : Keeps m₀ u (State.crownSearch s) := by
  unfold State.crownSearch
  extract_lets mods pages magic top nextPos s1
  have k_1 : Keeps m₀ u s1 := by
    refine State.updRst_keeps (State.updVlt_keeps (State.pageScan_keeps (State.loadCell_keeps hk)) _ ?_) _
    exact fun _ w => w
  clear_value s1 nextPos top magic
  split
  · exact State.setB_keeps k_1 _ _
  · split
    · exact State.noCrown_keeps k_1
    · split
      · exact State.takeCrown_keeps _ _ _ k_1
      · split
        · split
          · exact State.event_keeps _ _ (State.takeCrown_keeps _ _ _ k_1)
          · exact State.noCrown_keeps k_1
        · exact State.noCrown_keeps k_1

theorem State.countMods_keeps (fits : Nat) {m₀ : Nat} {u₀ s : State} (hk : Keeps m₀ u₀ s) (hm : Parts m₀ 262145 := by first | decide | exact Parts.sub (by assumption) (by decide)) : Keeps m₀ u₀ (State.countMods s fits) := by
  unfold State.countMods
  try extract_lets
  repeat' first
    | exact Parts.sub hm (by decide)
    | with_reducible exact hk
    | with_reducible exact Keeps.refl _ _
    | with_reducible apply State.set_keeps
    | with_reducible apply State.showStripe_keeps
    | with_reducible apply State.updRst_keeps
    | with_reducible apply Keeps.foldl
    | with_reducible apply Keeps.foldlFst
    | with_reducible apply Keeps.foldlSnd
    | with_reducible apply Keeps.ite
    | with_reducible apply Keeps.iteSnd
    | with_reducible apply Keeps.iteFst
    | refine Keeps.sndOf (by assumption) ?_
    | refine Keeps.fstOf (by assumption) ?_
    | with_reducible assumption
    | with_reducible exact fun _ w => w
    | with_reducible (intro _)
    | split
    | extract_lets
    | dsimp +zetaDelta only

theorem State.countAndSearch_keeps (ps : List ParamPage) {m₀ : Nat} {u₀ s : State} (hk : Keeps m₀ u₀ s) (hm : Parts m₀ 2566925 := by first | decide | exact Parts.sub (by assumption) (by decide)) : Keeps m₀ u₀ (State.countAndSearch s ps) := by
  unfold State.countAndSearch
  try extract_lets
  repeat' first
    | exact Parts.sub hm (by decide)
    | with_reducible exact hk
    | with_reducible exact Keeps.refl _ _
    | with_reducible apply State.countMods_keeps
    | with_reducible apply State.crownSearch_keeps
    | with_reducible apply State.event_keeps
    | with_reducible apply State.set_keeps
    | with_reducible apply Keeps.foldl
    | with_reducible apply Keeps.foldlFst
    | with_reducible apply Keeps.foldlSnd
    | with_reducible apply Keeps.ite
    | with_reducible apply Keeps.iteSnd
    | with_reducible apply Keeps.iteFst
    | refine Keeps.sndOf (by assumption) ?_
    | refine Keeps.fstOf (by assumption) ?_
    | with_reducible assumption
    | with_reducible exact fun _ w => w
    | with_reducible (intro _)
    | split
    | extract_lets
    | dsimp +zetaDelta only

theorem State.checkEntry_keeps (g : Nat) {m₀ : Nat} {u₀ s : State} (hk : Keeps m₀ u₀ s) (hm : Parts m₀ 2230797 := by first | decide | exact Parts.sub (by assumption) (by decide)) : Keeps m₀ u₀ (State.checkEntry s g) := by
  unfold State.checkEntry
  try extract_lets
  repeat' first
    | exact Parts.sub hm (by decide)
    | with_reducible exact hk
    | with_reducible exact Keeps.refl _ _
    | with_reducible apply State.dirtyAdd_keeps
    | with_reducible apply State.event_keeps
    | with_reducible apply State.setEntry_keeps
    | with_reducible apply State.touchPiece_keeps
    | with_reducible apply Keeps.ite
    | with_reducible apply Keeps.iteSnd
    | with_reducible apply Keeps.iteFst
    | refine Keeps.sndOf (by assumption) ?_
    | refine Keeps.fstOf (by assumption) ?_
    | with_reducible assumption
    | with_reducible exact fun _ w => w
    | with_reducible (intro _)
    | split
    | extract_lets
    | dsimp +zetaDelta only

theorem State.poisonGranule_keeps (g : Nat) {m₀ : Nat} {u s : State} (hk : Keeps m₀ u s) (hm : Parts m₀ 395265 := by first | decide | exact Parts.sub (by assumption) (by decide)) : Keeps m₀ u (State.poisonGranule s g) := by
  unfold State.poisonGranule
  extract_lets s1 e1 s2 e2 s3
  have k_1 : Keeps m₀ u s1 := Keeps.foldl (fun t i => State.writeLine_keeps _ _ (Keeps.refl _ t)) _ hk
  have k_2 : Keeps m₀ u s2 := State.setEntry_keeps _ _ k_1
  have k_3 : Keeps m₀ u s3 := Keeps.ite (fun _ => k_2) fun _ => State.dirtyAdd_keeps _ (State.setEntry_keeps _ _ k_2)
  clear_value s3 s2 s1 e1 e2
  exact State.updCch_keeps (State.touchPiece_keeps _ k_3) _ fun _ w => w

theorem State.applyLineSlot_keeps (r : SlotRead) {m₀ : Nat} {u₀ s : State} (hk : Keeps m₀ u₀ s) (hm : Parts m₀ 395265 := by first | decide | exact Parts.sub (by assumption) (by decide)) : Keeps m₀ u₀ (State.applyLineSlot s r) := by
  unfold State.applyLineSlot
  try extract_lets
  repeat' first
    | exact Parts.sub hm (by decide)
    | with_reducible exact hk
    | with_reducible exact Keeps.refl _ _
    | with_reducible apply State.dirtyAdd_keeps
    | with_reducible apply State.setEntry_keeps
    | with_reducible apply State.touchPiece_keeps
    | with_reducible apply State.updCch_keeps
    | with_reducible apply State.writeLine_keeps
    | with_reducible apply Keeps.foldl
    | with_reducible apply Keeps.foldlFst
    | with_reducible apply Keeps.foldlSnd
    | with_reducible apply Keeps.ite
    | with_reducible apply Keeps.iteSnd
    | with_reducible apply Keeps.iteFst
    | refine Keeps.sndOf (by assumption) ?_
    | refine Keeps.fstOf (by assumption) ?_
    | with_reducible assumption
    | with_reducible exact fun _ w => w
    | with_reducible exact fun _ w => Store.wf_put w _ _
    | with_reducible exact fun _ w => Store.wf_put (Store.wf_put w _ _) _ _
    | with_reducible exact fun _ w => Store.wf_keep w _
    | with_reducible exact fun _ _ => Store.wf_nil
    | with_reducible (intro _)
    | split
    | extract_lets
    | dsimp +zetaDelta only

theorem State.showPct_keeps  {m₀ : Nat} {u₀ s : State} (hk : Keeps m₀ u₀ s) (hm : Parts m₀ 1 := by first | decide | exact Parts.sub (by assumption) (by decide)) : Keeps m₀ u₀ (State.showPct s) := by
  unfold State.showPct
  try extract_lets
  repeat' first
    | exact Parts.sub hm (by decide)
    | with_reducible exact hk
    | with_reducible exact Keeps.refl _ _
    | with_reducible apply State.set_keeps
    | with_reducible apply Keeps.foldl
    | with_reducible apply Keeps.foldlFst
    | with_reducible apply Keeps.foldlSnd
    | with_reducible apply Keeps.ite
    | with_reducible apply Keeps.iteSnd
    | with_reducible apply Keeps.iteFst
    | refine Keeps.sndOf (by assumption) ?_
    | refine Keeps.fstOf (by assumption) ?_
    | with_reducible assumption
    | with_reducible exact fun _ w => w
    | with_reducible (intro _)
    | split
    | extract_lets
    | dsimp +zetaDelta only

theorem State.answerWaiting_keeps (g : Nat) {m₀ : Nat} {u₀ s : State} (hk : Keeps m₀ u₀ s) (hm : Parts m₀ 2099200 := by first | decide | exact Parts.sub (by assumption) (by decide)) : Keeps m₀ u₀ (State.answerWaiting s g) := by
  unfold State.answerWaiting
  try extract_lets
  repeat' first
    | exact Parts.sub hm (by decide)
    | with_reducible exact hk
    | with_reducible exact Keeps.refl _ _
    | with_reducible apply State.answerRead_keeps
    | with_reducible apply State.updCch_keeps
    | with_reducible apply Keeps.foldl
    | with_reducible apply Keeps.foldlFst
    | with_reducible apply Keeps.foldlSnd
    | with_reducible apply Keeps.ite
    | with_reducible apply Keeps.iteSnd
    | with_reducible apply Keeps.iteFst
    | refine Keeps.sndOf (by assumption) ?_
    | refine Keeps.fstOf (by assumption) ?_
    | with_reducible assumption
    | with_reducible exact fun _ w => w
    | with_reducible exact fun _ w => Store.wf_put w _ _
    | with_reducible exact fun _ w => Store.wf_put (Store.wf_put w _ _) _ _
    | with_reducible exact fun _ w => Store.wf_keep w _
    | with_reducible exact fun _ _ => Store.wf_nil
    | with_reducible (intro _)
    | split
    | extract_lets
    | dsimp +zetaDelta only

theorem State.fetchDone_keeps (g : Nat) {m₀ : Nat} {u s : State} (hk : Keeps m₀ u s) (hm : Parts m₀ 2361869 := by first | decide | exact Parts.sub (by assumption) (by decide)) : Keeps m₀ u (State.fetchDone s g) := by
  unfold State.fetchDone
  extract_lets mask ls s1 e1 s2 s3 e2 u0 e3 u1 s4
  have k_1 : Keeps m₀ u s1 := Keeps.foldl (fun t i => Keeps.ite (fun _ => Keeps.refl _ t) fun _ => State.writeLine_keeps _ _ (Keeps.refl _ t)) _ hk
  have k_2 : Keeps m₀ u s2 := State.updCch_keeps (State.setEntry_keeps _ _ k_1) _ fun _ w => w
  have k_3 : Keeps m₀ u s3 := State.updRst_keeps k_2 _
  have k_t : Keeps m₀ u u0 := State.setEntry_keeps _ _ k_3
  have k_t1 : Keeps m₀ u u1 := Keeps.ite (fun _ => k_t) fun _ => State.dirtyAdd_keeps _ (State.setEntry_keeps _ _ k_t)
  have k_4 : Keeps m₀ u s4 := Keeps.ite (fun _ => k_3) fun _ => State.event_keeps _ _ (State.count_keeps k_t1 _ _)
  clear_value s4 u1 u0 s3 s2 s1 e1 e2 e3
  exact State.answerWaiting_keeps _ (Keeps.ite (fun _ => State.showPct_keeps k_4) fun _ => k_4)

end Sys2Proof.Machine
end

