-- ==== Sys2Proof/Laws/Keeps/Tiles.lean ====
section
/-! SUPPORT. The operations of Tiles keep the queue and a sound state. -/

set_option Elab.async false

namespace Sys2Proof.Machine

set_option linter.unreachableTactic false
set_option linter.unusedTactic false
set_option linter.unusedVariables false

theorem execTaskSubmit_keeps (g : Agent) (tile : BitVec 6) {m₀ : Nat} {u₀ s : State} (hk : Keeps m₀ u₀ s) (hm : Parts m₀ 2101773 := by first | decide | exact Parts.sub (by assumption) (by decide)) : KeepsOut m₀ u₀ (execTaskSubmit g tile s) := by
  unfold execTaskSubmit
  try dsimp only
  repeat' first
    | exact Parts.sub hm (by decide)
    | with_reducible exact hk
    | with_reducible exact Keeps.refl _ _
    | with_reducible apply State.addTask_keeps
    | with_reducible apply State.endTask_keeps
    | with_reducible apply State.event_keeps
    | with_reducible apply State.set_keeps
    | with_reducible apply ok_keeps
    | with_reducible apply KeepsOut.next
    | exact fun _ w => w
    | with_reducible (intro _)
    | split

theorem State.issueTask_keeps (k : Task) (e : Nat) {m₀ : Nat} {u₀ s : State} (hk : Keeps m₀ u₀ s) (hm : Parts m₀ 4096 := by first | decide | exact Parts.sub (by assumption) (by decide)) : Keeps m₀ u₀ (State.issueTask s k e) := by
  unfold State.issueTask
  try dsimp only
  repeat' first
    | exact Parts.sub hm (by decide)
    | with_reducible exact hk
    | with_reducible exact Keeps.refl _ _
    | with_reducible apply State.setTask_keeps
    | exact fun _ w => w
    | with_reducible (intro _)
    | split

theorem State.handTask_keeps (k : Task) (t e : Nat) {m₀ : Nat} {u₀ s : State} (hk : Keeps m₀ u₀ s) (hm : Parts m₀ 4096 := by first | decide | exact Parts.sub (by assumption) (by decide)) : Keeps m₀ u₀ (State.handTask s k t e) := by
  unfold State.handTask
  try dsimp only
  repeat' first
    | exact Parts.sub hm (by decide)
    | with_reducible exact hk
    | with_reducible exact Keeps.refl _ _
    | with_reducible apply State.issueTask_keeps
    | with_reducible apply State.updDsp_keeps
    | exact fun _ w => w
    | with_reducible (intro _)
    | split

theorem State.shardPick_keeps (t e : Nat) {m₀ : Nat} {u₀ s : State} (hk : Keeps m₀ u₀ s) (hm : Parts m₀ 4096 := by first | decide | exact Parts.sub (by assumption) (by decide)) : Keeps m₀ u₀ (State.shardPick s t e) := by
  unfold State.shardPick
  try dsimp only
  repeat' first
    | exact Parts.sub hm (by decide)
    | with_reducible exact hk
    | with_reducible exact Keeps.refl _ _
    | with_reducible apply State.handTask_keeps
    | exact fun _ w => w
    | with_reducible (intro _)
    | split

theorem execTaskPick_keeps (tile : BitVec 6) (engine : BitVec 4) {m₀ : Nat} {u₀ s : State} (hk : Keeps m₀ u₀ s) (hm : Parts m₀ 4096 := by first | decide | exact Parts.sub (by assumption) (by decide)) : KeepsOut m₀ u₀ (execTaskPick tile engine s) := by
  unfold execTaskPick
  try dsimp only
  repeat' first
    | exact Parts.sub hm (by decide)
    | with_reducible exact hk
    | with_reducible exact Keeps.refl _ _
    | with_reducible apply State.shardPick_keeps
    | with_reducible apply ok_keeps
    | with_reducible apply KeepsOut.next
    | exact fun _ w => w
    | with_reducible (intro _)
    | split

theorem State.issuePrepared_keeps  {m₀ : Nat} {u₀ s : State} (hk : Keeps m₀ u₀ s) (hm : Parts m₀ 4096 := by first | decide | exact Parts.sub (by assumption) (by decide)) : Keeps m₀ u₀ (State.issuePrepared s) := by
  unfold State.issuePrepared
  try dsimp only
  repeat' first
    | exact Parts.sub hm (by decide)
    | with_reducible exact hk
    | with_reducible exact Keeps.refl _ _
    | with_reducible apply State.issueTask_keeps
    | with_reducible apply State.updDsp_keeps
    | with_reducible apply Keeps.foldl
    | with_reducible apply Keeps.foldlFst
    | with_reducible apply Keeps.foldlSnd
    | exact fun _ w => w
    | with_reducible (intro _)
    | split

theorem execTaskSteal_keeps (thief : BitVec 6) (own : Option (BitVec 4)) {m₀ : Nat} {u₀ s : State} (hk : Keeps m₀ u₀ s) (hm : Parts m₀ 4097 := by first | decide | exact Parts.sub (by assumption) (by decide)) : KeepsOut m₀ u₀ (execTaskSteal thief own s) := by
  unfold execTaskSteal
  try dsimp only
  repeat' first
    | exact Parts.sub hm (by decide)
    | with_reducible exact hk
    | with_reducible exact Keeps.refl _ _
    | with_reducible apply State.count_keeps
    | with_reducible apply State.setTask_keeps
    | with_reducible apply State.shardPick_keeps
    | with_reducible apply ok_keeps
    | with_reducible apply KeepsOut.next
    | exact fun _ w => w
    | with_reducible (intro _)
    | split

theorem execTaskStealDelivery_keeps (thief : BitVec 6) {m₀ : Nat} {u₀ s : State} (hk : Keeps m₀ u₀ s) (hm : Parts m₀ 4096 := by first | decide | exact Parts.sub (by assumption) (by decide)) : KeepsOut m₀ u₀ (execTaskStealDelivery thief s) := by
  unfold execTaskStealDelivery
  try dsimp only
  repeat' first
    | exact Parts.sub hm (by decide)
    | with_reducible exact hk
    | with_reducible exact Keeps.refl _ _
    | with_reducible apply State.makeReady_keeps
    | with_reducible apply ok_keeps
    | with_reducible apply KeepsOut.next
    | exact fun _ w => w
    | with_reducible (intro _)
    | split

theorem State.yieldTask_keeps (k : Task) {m₀ : Nat} {u₀ s : State} (hk : Keeps m₀ u₀ s) (hm : Parts m₀ 4096 := by first | decide | exact Parts.sub (by assumption) (by decide)) : Keeps m₀ u₀ (State.yieldTask s k) := by
  unfold State.yieldTask
  try dsimp only
  repeat' first
    | exact Parts.sub hm (by decide)
    | with_reducible exact hk
    | with_reducible exact Keeps.refl _ _
    | with_reducible apply State.makeReady_keeps
    | exact fun _ w => w
    | with_reducible (intro _)
    | split

theorem State.waitTimeout_keeps (k : Task) {m₀ : Nat} {u₀ s : State} (hk : Keeps m₀ u₀ s) (hm : Parts m₀ 2101773 := by first | decide | exact Parts.sub (by assumption) (by decide)) : Keeps m₀ u₀ (State.waitTimeout s k) := by
  unfold State.waitTimeout
  try dsimp only
  repeat' first
    | exact Parts.sub hm (by decide)
    | with_reducible exact hk
    | with_reducible exact Keeps.refl _ _
    | with_reducible apply State.count_keeps
    | with_reducible apply State.event_keeps
    | with_reducible apply State.raise_keeps
    | with_reducible apply State.yieldTask_keeps
    | exact fun _ w => w
    | with_reducible (intro _)
    | split

theorem State.slicesEnd_keeps  {m₀ : Nat} {u₀ s : State} (hk : Keeps m₀ u₀ s) (hm : Parts m₀ 4096 := by first | decide | exact Parts.sub (by assumption) (by decide)) : Keeps m₀ u₀ (State.slicesEnd s) := by
  unfold State.slicesEnd
  try dsimp only
  repeat' first
    | exact Parts.sub hm (by decide)
    | with_reducible exact hk
    | with_reducible exact Keeps.refl _ _
    | with_reducible apply State.endTask_keeps
    | with_reducible apply State.yieldTask_keeps
    | with_reducible apply Keeps.foldl
    | with_reducible apply Keeps.foldlFst
    | with_reducible apply Keeps.foldlSnd
    | exact fun _ w => w
    | with_reducible (intro _)
    | split

theorem State.failTask_keeps (k : Task) {m₀ : Nat} {u₀ s : State} (hk : Keeps m₀ u₀ s) (hm : Parts m₀ 4097 := by first | decide | exact Parts.sub (by assumption) (by decide)) : Keeps m₀ u₀ (State.failTask s k) := by
  unfold State.failTask
  try dsimp only
  repeat' first
    | exact Parts.sub hm (by decide)
    | with_reducible exact hk
    | with_reducible exact Keeps.refl _ _
    | with_reducible apply State.addTask_keeps
    | with_reducible apply State.count_keeps
    | with_reducible apply State.endTask_keeps
    | exact fun _ w => w
    | with_reducible (intro _)
    | split

theorem State.finishTask_keeps (k : Task) {m₀ : Nat} {u₀ s : State} (hk : Keeps m₀ u₀ s) (hm : Parts m₀ 4096 := by first | decide | exact Parts.sub (by assumption) (by decide)) : Keeps m₀ u₀ (State.finishTask s k) := by
  unfold State.finishTask
  try dsimp only
  repeat' first
    | exact Parts.sub hm (by decide)
    | with_reducible exact hk
    | with_reducible exact Keeps.refl _ _
    | with_reducible apply State.endTask_keeps
    | exact fun _ w => w
    | with_reducible (intro _)
    | split

theorem execTaskSliceEnd_keeps (tid : Word) (r : SliceResult) {m₀ : Nat} {u₀ s : State} (hk : Keeps m₀ u₀ s) (hm : Parts m₀ 2101773 := by first | decide | exact Parts.sub (by assumption) (by decide)) : KeepsOut m₀ u₀ (execTaskSliceEnd tid r s) := by
  unfold execTaskSliceEnd
  try dsimp only
  repeat' first
    | exact Parts.sub hm (by decide)
    | with_reducible exact hk
    | with_reducible exact Keeps.refl _ _
    | with_reducible apply State.count_keeps
    | with_reducible apply State.endTask_keeps
    | with_reducible apply State.failTask_keeps
    | with_reducible apply State.finishTask_keeps
    | with_reducible apply State.setTask_keeps
    | with_reducible apply State.waitTimeout_keeps
    | with_reducible apply State.yieldTask_keeps
    | with_reducible apply ok_keeps
    | with_reducible apply KeepsOut.next
    | exact fun _ w => w
    | with_reducible (intro _)
    | split

theorem execWaitConditionMet_keeps (tid : Word) (recovery : Word) {m₀ : Nat} {u₀ s : State} (hk : Keeps m₀ u₀ s) (hm : Parts m₀ 2101773 := by first | decide | exact Parts.sub (by assumption) (by decide)) : KeepsOut m₀ u₀ (execWaitConditionMet tid recovery s) := by
  unfold execWaitConditionMet
  try dsimp only
  repeat' first
    | exact Parts.sub hm (by decide)
    | with_reducible exact hk
    | with_reducible exact Keeps.refl _ _
    | with_reducible apply State.count_keeps
    | with_reducible apply State.endTask_keeps
    | with_reducible apply State.event_keeps
    | with_reducible apply State.yieldTask_keeps
    | with_reducible apply ok_keeps
    | with_reducible apply KeepsOut.next
    | exact fun _ w => w
    | with_reducible (intro _)
    | split

theorem execWaitTimeout_keeps (tid : Word) (recovery : Word) {m₀ : Nat} {u₀ s : State} (hk : Keeps m₀ u₀ s) (hm : Parts m₀ 2101773 := by first | decide | exact Parts.sub (by assumption) (by decide)) : KeepsOut m₀ u₀ (execWaitTimeout tid recovery s) := by
  unfold execWaitTimeout
  try dsimp only
  repeat' first
    | exact Parts.sub hm (by decide)
    | with_reducible exact hk
    | with_reducible exact Keeps.refl _ _
    | with_reducible apply State.endTask_keeps
    | with_reducible apply State.waitTimeout_keeps
    | with_reducible apply ok_keeps
    | with_reducible apply KeepsOut.next
    | exact fun _ w => w
    | with_reducible (intro _)
    | split

theorem execTaskCancel_keeps (g : Agent) (tid : Word) (met : CancelMet) {m₀ : Nat} {u₀ s : State} (hk : Keeps m₀ u₀ s) (hm : Parts m₀ 2101773 := by first | decide | exact Parts.sub (by assumption) (by decide)) : KeepsOut m₀ u₀ (execTaskCancel g tid met s) := by
  unfold execTaskCancel
  try dsimp only
  repeat' first
    | exact Parts.sub hm (by decide)
    | with_reducible exact hk
    | with_reducible exact Keeps.refl _ _
    | with_reducible apply State.cancelTask_keeps
    | with_reducible apply execTaskPick_keeps
    | with_reducible apply execTaskSteal_keeps
    | with_reducible apply execWaitTimeout_keeps
    | with_reducible apply ok_keeps
    | with_reducible apply KeepsOut.next
    | exact fun _ w => w
    | with_reducible (intro _)
    | split

theorem execCompletionPop_keeps (g : Agent) {m₀ : Nat} {u₀ s : State} (hk : Keeps m₀ u₀ s) (hm : Parts m₀ 4096 := by first | decide | exact Parts.sub (by assumption) (by decide)) : KeepsOut m₀ u₀ (execCompletionPop g s) := by
  unfold execCompletionPop
  try dsimp only
  repeat' first
    | exact Parts.sub hm (by decide)
    | with_reducible exact hk
    | with_reducible exact Keeps.refl _ _
    | with_reducible apply State.set_keeps
    | with_reducible apply State.updDsp_keeps
    | with_reducible apply ok_keeps
    | with_reducible apply KeepsOut.next
    | exact fun _ w => w
    | with_reducible (intro _)
    | split

theorem execTileQuiesce_keeps (t : BitVec 6) {m₀ : Nat} {u₀ s : State} (hk : Keeps m₀ u₀ s) (hm : Parts m₀ 4096 := by first | decide | exact Parts.sub (by assumption) (by decide)) : KeepsOut m₀ u₀ (execTileQuiesce t s) := by
  unfold execTileQuiesce
  try dsimp only
  repeat' first
    | exact Parts.sub hm (by decide)
    | with_reducible exact hk
    | with_reducible exact Keeps.refl _ _
    | with_reducible apply State.askQuiesce_keeps
    | with_reducible apply ok_keeps
    | with_reducible apply KeepsOut.next
    | exact fun _ w => w
    | with_reducible (intro _)
    | split

theorem execTileOut_keeps (t : BitVec 6) {m₀ : Nat} {u₀ s : State} (hk : Keeps m₀ u₀ s) (hm : Parts m₀ 2101773 := by first | decide | exact Parts.sub (by assumption) (by decide)) : KeepsOut m₀ u₀ (execTileOut t s) := by
  unfold execTileOut
  try dsimp only
  repeat' first
    | exact Parts.sub hm (by decide)
    | with_reducible exact hk
    | with_reducible exact Keeps.refl _ _
    | with_reducible apply State.event_keeps
    | with_reducible apply State.set_keeps
    | with_reducible apply State.updDsp_keeps
    | with_reducible apply ok_keeps
    | with_reducible apply KeepsOut.next
    | exact fun _ w => w
    | with_reducible (intro _)
    | split

theorem execQuiesceTimeout_keeps (t : BitVec 6) {m₀ : Nat} {u₀ s : State} (hk : Keeps m₀ u₀ s) (hm : Parts m₀ 2101772 := by first | decide | exact Parts.sub (by assumption) (by decide)) : KeepsOut m₀ u₀ (execQuiesceTimeout t s) := by
  unfold execQuiesceTimeout
  try dsimp only
  repeat' first
    | exact Parts.sub hm (by decide)
    | with_reducible exact hk
    | with_reducible exact Keeps.refl _ _
    | with_reducible apply State.event_keeps
    | with_reducible apply State.updDsp_keeps
    | with_reducible apply ok_keeps
    | with_reducible apply KeepsOut.next
    | exact fun _ w => w
    | with_reducible (intro _)
    | split

theorem State.tileBack_keeps (n : Nat) {m₀ : Nat} {u₀ s : State} (hk : Keeps m₀ u₀ s) (hm : Parts m₀ 4097 := by first | decide | exact Parts.sub (by assumption) (by decide)) : Keeps m₀ u₀ (State.tileBack s n) := by
  unfold State.tileBack
  try dsimp only
  repeat' first
    | exact Parts.sub hm (by decide)
    | with_reducible exact hk
    | with_reducible exact Keeps.refl _ _
    | with_reducible apply State.set_keeps
    | with_reducible apply State.updDsp_keeps
    | exact fun _ w => w
    | with_reducible (intro _)
    | split

theorem execTileReturn_keeps (t : BitVec 6) {m₀ : Nat} {u₀ s : State} (hk : Keeps m₀ u₀ s) (hm : Parts m₀ 4097 := by first | decide | exact Parts.sub (by assumption) (by decide)) : KeepsOut m₀ u₀ (execTileReturn t s) := by
  unfold execTileReturn
  try dsimp only
  repeat' first
    | exact Parts.sub hm (by decide)
    | with_reducible exact hk
    | with_reducible exact Keeps.refl _ _
    | with_reducible apply State.tileBack_keeps
    | with_reducible apply ok_keeps
    | with_reducible apply KeepsOut.next
    | exact fun _ w => w
    | with_reducible (intro _)
    | split

theorem execMicrocodeRoll_keeps (maxout : BitVec 5) {m₀ : Nat} {u₀ s : State} (hk : Keeps m₀ u₀ s) (hm : Parts m₀ 2101773 := by first | decide | exact Parts.sub (by assumption) (by decide)) : KeepsOut m₀ u₀ (execMicrocodeRoll maxout s) := by
  unfold execMicrocodeRoll
  try dsimp only
  repeat' first
    | exact Parts.sub hm (by decide)
    | with_reducible exact hk
    | with_reducible exact Keeps.refl _ _
    | with_reducible apply State.logRefusal_keeps
    | with_reducible apply State.rollStep_keeps
    | with_reducible apply State.set_keeps
    | with_reducible apply State.updDsp_keeps
    | with_reducible apply ok_keeps
    | with_reducible apply KeepsOut.next
    | exact fun _ w => w
    | with_reducible (intro _)
    | split

theorem execRollAbort_keeps  {m₀ : Nat} {u₀ s : State} (hk : Keeps m₀ u₀ s) (hm : Parts m₀ 4097 := by first | decide | exact Parts.sub (by assumption) (by decide)) : KeepsOut m₀ u₀ (execRollAbort s) := by
  unfold execRollAbort
  try dsimp only
  repeat' first
    | exact Parts.sub hm (by decide)
    | with_reducible exact hk
    | with_reducible exact Keeps.refl _ _
    | with_reducible apply State.rollHalt_keeps
    | with_reducible apply State.set_keeps
    | with_reducible apply State.updDsp_keeps
    | with_reducible apply ok_keeps
    | with_reducible apply KeepsOut.next
    | exact fun _ w => w
    | with_reducible (intro _)
    | split

theorem execTileMicrocodeLoaded_keeps (t : BitVec 6) {m₀ : Nat} {u₀ s : State} (hk : Keeps m₀ u₀ s) (hm : Parts m₀ 1 := by first | decide | exact Parts.sub (by assumption) (by decide)) : KeepsOut m₀ u₀ (execTileMicrocodeLoaded t s) := by
  unfold execTileMicrocodeLoaded
  try dsimp only
  repeat' first
    | exact Parts.sub hm (by decide)
    | with_reducible exact hk
    | with_reducible exact Keeps.refl _ _
    | with_reducible apply State.set_keeps
    | with_reducible apply ok_keeps
    | with_reducible apply KeepsOut.next
    | exact fun _ w => w
    | with_reducible (intro _)
    | split

theorem State.rollStop_keeps  {m₀ : Nat} {u₀ s : State} (hk : Keeps m₀ u₀ s) (hm : Parts m₀ 2101773 := by first | decide | exact Parts.sub (by assumption) (by decide)) : Keeps m₀ u₀ (State.rollStop s) := by
  unfold State.rollStop
  try dsimp only
  repeat' first
    | exact Parts.sub hm (by decide)
    | with_reducible exact hk
    | with_reducible exact Keeps.refl _ _
    | with_reducible apply State.event_keeps
    | with_reducible apply State.rollHalt_keeps
    | with_reducible apply State.set_keeps
    | with_reducible apply State.updDsp_keeps
    | exact fun _ w => w
    | with_reducible (intro _)
    | split

theorem execTileSelfTestDone_keeps (t : BitVec 6) (pass : Bool) {m₀ : Nat} {u₀ s : State} (hk : Keeps m₀ u₀ s) (hm : Parts m₀ 2101773 := by first | decide | exact Parts.sub (by assumption) (by decide)) : KeepsOut m₀ u₀ (execTileSelfTestDone t pass s) := by
  unfold execTileSelfTestDone
  try dsimp only
  repeat' first
    | exact Parts.sub hm (by decide)
    | with_reducible exact hk
    | with_reducible exact Keeps.refl _ _
    | with_reducible apply State.event_keeps
    | with_reducible apply State.rollStop_keeps
    | with_reducible apply State.set_keeps
    | with_reducible apply State.tileBack_keeps
    | with_reducible apply State.updDsp_keeps
    | with_reducible apply ok_keeps
    | with_reducible apply KeepsOut.next
    | exact fun _ w => w
    | with_reducible (intro _)
    | split

theorem execTileSelfTestBoot_keeps (passed : BitVec 64) {m₀ : Nat} {u₀ s : State} (hk : Keeps m₀ u₀ s) (hm : Parts m₀ 2101773 := by first | decide | exact Parts.sub (by assumption) (by decide)) : KeepsOut m₀ u₀ (execTileSelfTestBoot passed s) := by
  unfold execTileSelfTestBoot
  try dsimp only
  repeat' first
    | exact Parts.sub hm (by decide)
    | with_reducible exact hk
    | with_reducible exact Keeps.refl _ _
    | with_reducible apply State.event_keeps
    | with_reducible apply State.moveBuckets_keeps
    | with_reducible apply State.set_keeps
    | with_reducible apply State.updDsp_keeps
    | with_reducible apply ok_keeps
    | with_reducible apply Keeps.foldl
    | with_reducible apply Keeps.foldlFst
    | with_reducible apply Keeps.foldlSnd
    | with_reducible apply KeepsOut.next
    | exact fun _ w => w
    | with_reducible (intro _)
    | split

end Sys2Proof.Machine
end

