-- ==== Sys2Proof/Laws/Keeps/Access.lean ====
section
/-! SUPPORT. The operations of Access keep the queue and a sound state. -/

set_option Elab.async false

namespace Sys2Proof.Machine

set_option linter.unreachableTactic false
set_option linter.unusedTactic false
set_option linter.unusedVariables false

theorem State.strayAccess_keeps (g : Agent) {m₀ : Nat} {u₀ s : State} (hk : Keeps m₀ u₀ s) (hm : Parts m₀ 2097677 := by first | decide | exact Parts.sub (by assumption) (by decide)) : Keeps m₀ u₀ (State.strayAccess s g) := by
  unfold State.strayAccess
  try extract_lets
  repeat' first
    | exact Parts.sub hm (by decide)
    | with_reducible exact hk
    | with_reducible exact Keeps.refl _ _
    | with_reducible apply State.accErr_keeps
    | with_reducible apply State.event_keeps
    | with_reducible apply Keeps.ite
    | with_reducible apply Keeps.iteSnd
    | with_reducible apply Keeps.iteFst
    | refine Keeps.sndOf (by assumption) ?_
    | refine Keeps.fstOf (by assumption) ?_
    | with_reducible assumption
    | with_reducible exact fun _ w => w
    | with_reducible (intro _)
    | split
    | extract_lets
    | dsimp +zetaDelta only

theorem execUnassignedAccess_keeps (g : Agent) (off : BitVec 27) (write : Bool) (full : Bool) {m₀ : Nat} {u₀ s : State} (hk : Keeps m₀ u₀ s) (hm : Parts m₀ 2097677 := by first | decide | exact Parts.sub (by assumption) (by decide)) : KeepsOut m₀ u₀ (execUnassignedAccess g off write full s) := by
  unfold execUnassignedAccess
  try extract_lets
  repeat' first
    | exact Parts.sub hm (by decide)
    | with_reducible exact hk
    | with_reducible exact Keeps.refl _ _
    | with_reducible apply State.emit_keeps
    | with_reducible apply State.strayAccess_keeps
    | with_reducible apply ok_keeps
    | with_reducible apply KeepsOut.next
    | with_reducible apply Keeps.ite
    | with_reducible apply KeepsOut.ite
    | with_reducible apply Keeps.iteSnd
    | with_reducible apply Keeps.iteFst
    | refine Keeps.sndOf (by assumption) ?_
    | refine Keeps.fstOf (by assumption) ?_
    | with_reducible assumption
    | with_reducible exact fun _ w => w
    | with_reducible (intro _)
    | split
    | extract_lets
    | dsimp +zetaDelta only

theorem execOffDomainAccess_keeps (g : Agent) (off : BitVec 27) (write : Bool) {m₀ : Nat} {u₀ s : State} (hk : Keeps m₀ u₀ s) (hm : Parts m₀ 2097153 := by first | decide | exact Parts.sub (by assumption) (by decide)) : KeepsOut m₀ u₀ (execOffDomainAccess g off write s) := by
  unfold execOffDomainAccess
  try extract_lets
  repeat' first
    | exact Parts.sub hm (by decide)
    | with_reducible exact hk
    | with_reducible exact Keeps.refl _ _
    | with_reducible apply State.accErr_keeps
    | with_reducible apply State.emit_keeps
    | with_reducible apply ok_keeps
    | with_reducible apply KeepsOut.next
    | with_reducible apply Keeps.ite
    | with_reducible apply KeepsOut.ite
    | with_reducible apply Keeps.iteSnd
    | with_reducible apply Keeps.iteFst
    | refine Keeps.sndOf (by assumption) ?_
    | refine Keeps.fstOf (by assumption) ?_
    | with_reducible assumption
    | with_reducible exact fun _ w => w
    | with_reducible (intro _)
    | split
    | extract_lets
    | dsimp +zetaDelta only

theorem State.latchRead_keeps (g : Agent) (off : Nat) (wide : Bool) {m₀ : Nat} {u₀ s : State} (hk : Keeps m₀ u₀ s) (hm : Parts m₀ 2097153 := by first | decide | exact Parts.sub (by assumption) (by decide)) : Keeps m₀ u₀ (State.latchRead s g off wide) := by
  unfold State.latchRead
  try extract_lets
  repeat' first
    | exact Parts.sub hm (by decide)
    | with_reducible exact hk
    | with_reducible exact Keeps.refl _ _
    | with_reducible apply State.emit_keeps
    | with_reducible apply State.set_keeps
    | with_reducible apply Keeps.ite
    | with_reducible apply Keeps.iteSnd
    | with_reducible apply Keeps.iteFst
    | refine Keeps.sndOf (by assumption) ?_
    | refine Keeps.fstOf (by assumption) ?_
    | with_reducible assumption
    | with_reducible exact fun _ w => w
    | with_reducible (intro _)
    | split
    | extract_lets
    | dsimp +zetaDelta only

theorem State.windowRead_keeps (g : Agent) (o : Nat) {m₀ : Nat} {u₀ s : State} (hk : Keeps m₀ u₀ s) (hm : Parts m₀ 2097677 := by first | decide | exact Parts.sub (by assumption) (by decide)) : Keeps m₀ u₀ (State.windowRead s g o) := by
  unfold State.windowRead
  try extract_lets
  repeat' first
    | exact Parts.sub hm (by decide)
    | with_reducible exact hk
    | with_reducible exact Keeps.refl _ _
    | with_reducible apply State.count_keeps
    | with_reducible apply State.emit_keeps
    | with_reducible apply State.event_keeps
    | with_reducible apply Keeps.ite
    | with_reducible apply Keeps.iteSnd
    | with_reducible apply Keeps.iteFst
    | refine Keeps.sndOf (by assumption) ?_
    | refine Keeps.fstOf (by assumption) ?_
    | with_reducible assumption
    | with_reducible exact fun _ w => w
    | with_reducible (intro _)
    | split
    | extract_lets
    | dsimp +zetaDelta only

theorem State.mbxRead_keeps (g : Agent) {m₀ : Nat} {u₀ s : State} (hk : Keeps m₀ u₀ s) (hm : Parts m₀ 2097280 := by first | decide | exact Parts.sub (by assumption) (by decide)) : Keeps m₀ u₀ (State.mbxRead s g) := by
  unfold State.mbxRead
  try extract_lets
  repeat' first
    | exact Parts.sub hm (by decide)
    | with_reducible exact hk
    | with_reducible exact Keeps.refl _ _
    | with_reducible apply State.emit_keeps
    | with_reducible apply State.updStw_keeps
    | with_reducible apply Keeps.ite
    | with_reducible apply Keeps.iteSnd
    | with_reducible apply Keeps.iteFst
    | refine Keeps.sndOf (by assumption) ?_
    | refine Keeps.fstOf (by assumption) ?_
    | with_reducible assumption
    | with_reducible exact fun _ w => w
    | with_reducible (intro _)
    | split
    | extract_lets
    | dsimp +zetaDelta only

theorem State.readReg_keeps (g : Agent) (off : Nat) {m₀ : Nat} {u₀ s : State} (hk : Keeps m₀ u₀ s) (hm : Parts m₀ 2097805 := by first | decide | exact Parts.sub (by assumption) (by decide)) : Keeps m₀ u₀ (State.readReg s g off) := by
  unfold State.readReg
  try extract_lets
  repeat' first
    | exact Parts.sub hm (by decide)
    | with_reducible exact hk
    | with_reducible exact Keeps.refl _ _
    | with_reducible apply State.accErr_keeps
    | with_reducible apply State.emit_keeps
    | with_reducible apply State.latchRead_keeps
    | with_reducible apply State.mbxRead_keeps
    | with_reducible apply State.set_keeps
    | with_reducible apply State.strayAccess_keeps
    | with_reducible apply State.windowRead_keeps
    | with_reducible apply Keeps.foldl
    | with_reducible apply Keeps.foldlFst
    | with_reducible apply Keeps.foldlSnd
    | with_reducible apply Keeps.ite
    | with_reducible apply Keeps.iteSnd
    | with_reducible apply Keeps.iteFst
    | refine Keeps.sndOf (by assumption) ?_
    | refine Keeps.fstOf (by assumption) ?_
    | with_reducible assumption
    | with_reducible exact fun _ w => w
    | with_reducible (intro _)
    | split
    | extract_lets
    | dsimp +zetaDelta only

theorem stateOf_keeps {o : Out} {m₀ : Nat} {u s : State} (hk : Keeps m₀ u s) (ho : KeepsOut m₀ u o) (hm : Parts m₀ 0 := by first | decide | exact Parts.sub (by assumption) (by decide)) : Keeps m₀ u (stateOf s o) := by
  unfold stateOf
  split
  · exact ho _ rfl
  · exact hk

theorem State.act_keeps (b : Bool) {m : State → Out} {m₀ : Nat} {u s : State} (hk : Keeps m₀ u s)
    (hg : ∀ t, Keeps m₀ u t → KeepsOut m₀ u (m t)) (hm : Parts m₀ 0 := by first | decide | exact Parts.sub (by assumption) (by decide)) : Keeps m₀ u (State.act s b m) :=
  Keeps.ite (fun _ => stateOf_keeps hk (hg _ hk)) fun _ => hk

theorem State.readAny_keeps (g : Agent) (off : Nat) {m₀ : Nat} {u₀ s : State} (hk : Keeps m₀ u₀ s) (hm : Parts m₀ 2097805 := by first | decide | exact Parts.sub (by assumption) (by decide)) : Keeps m₀ u₀ (State.readAny s g off) := by
  unfold State.readAny
  try extract_lets
  repeat' first
    | exact Parts.sub hm (by decide)
    | with_reducible exact hk
    | with_reducible exact Keeps.refl _ _
    | with_reducible apply State.act_keeps
    | with_reducible apply State.readReg_keeps
    | with_reducible apply execSnapDataRead_keeps
    | with_reducible apply Keeps.ite
    | with_reducible apply Keeps.iteSnd
    | with_reducible apply Keeps.iteFst
    | refine Keeps.sndOf (by assumption) ?_
    | refine Keeps.fstOf (by assumption) ?_
    | with_reducible assumption
    | with_reducible exact fun _ w => w
    | with_reducible (intro _)
    | split
    | extract_lets
    | dsimp +zetaDelta only

theorem State.readWide_keeps (g : Agent) (off : Nat) {m₀ : Nat} {u₀ s : State} (hk : Keeps m₀ u₀ s) (hm : Parts m₀ 2097805 := by first | decide | exact Parts.sub (by assumption) (by decide)) : Keeps m₀ u₀ (State.readWide s g off) := by
  unfold State.readWide
  try extract_lets
  repeat' first
    | exact Parts.sub hm (by decide)
    | with_reducible exact hk
    | with_reducible exact Keeps.refl _ _
    | with_reducible apply State.accErr_keeps
    | with_reducible apply State.emit_keeps
    | with_reducible apply State.latchRead_keeps
    | with_reducible apply State.readAny_keeps
    | with_reducible apply Keeps.ite
    | with_reducible apply Keeps.iteSnd
    | with_reducible apply Keeps.iteFst
    | refine Keeps.sndOf (by assumption) ?_
    | refine Keeps.fstOf (by assumption) ?_
    | with_reducible assumption
    | with_reducible exact fun _ w => w
    | with_reducible (intro _)
    | split
    | extract_lets
    | dsimp +zetaDelta only

theorem execLoReadLatch_keeps (g : Agent) (off : BitVec 27) (wide : Bool) {m₀ : Nat} {u₀ s : State} (hk : Keeps m₀ u₀ s) (hm : Parts m₀ 2097805 := by first | decide | exact Parts.sub (by assumption) (by decide)) : KeepsOut m₀ u₀ (execLoReadLatch g off wide s) := by
  unfold execLoReadLatch
  try extract_lets
  repeat' first
    | exact Parts.sub hm (by decide)
    | with_reducible exact hk
    | with_reducible exact Keeps.refl _ _
    | with_reducible apply State.accErr_keeps
    | with_reducible apply State.emit_keeps
    | with_reducible apply State.latchRead_keeps
    | with_reducible apply State.readWide_keeps
    | with_reducible apply ok_keeps
    | with_reducible apply KeepsOut.next
    | with_reducible apply Keeps.ite
    | with_reducible apply KeepsOut.ite
    | with_reducible apply Keeps.iteSnd
    | with_reducible apply Keeps.iteFst
    | refine Keeps.sndOf (by assumption) ?_
    | refine Keeps.fstOf (by assumption) ?_
    | with_reducible assumption
    | with_reducible exact fun _ w => w
    | with_reducible (intro _)
    | split
    | extract_lets
    | dsimp +zetaDelta only

theorem execReadClear_keeps (g : Agent) (off : BitVec 27) {m₀ : Nat} {u₀ s : State} (hk : Keeps m₀ u₀ s) (hm : Parts m₀ 2097805 := by first | decide | exact Parts.sub (by assumption) (by decide)) : KeepsOut m₀ u₀ (execReadClear g off s) := by
  unfold execReadClear
  try extract_lets
  repeat' first
    | exact Parts.sub hm (by decide)
    | with_reducible exact hk
    | with_reducible exact Keeps.refl _ _
    | with_reducible apply State.readAny_keeps
    | with_reducible apply ok_keeps
    | with_reducible apply KeepsOut.next
    | with_reducible apply Keeps.ite
    | with_reducible apply KeepsOut.ite
    | with_reducible apply Keeps.iteSnd
    | with_reducible apply Keeps.iteFst
    | refine Keeps.sndOf (by assumption) ?_
    | refine Keeps.fstOf (by assumption) ?_
    | with_reducible assumption
    | with_reducible exact fun _ w => w
    | with_reducible (intro _)
    | split
    | extract_lets
    | dsimp +zetaDelta only

theorem execGlbLockSet_keeps (g : Agent) {m₀ : Nat} {u₀ s : State} (hk : Keeps m₀ u₀ s) (hm : Parts m₀ 1 := by first | decide | exact Parts.sub (by assumption) (by decide)) : KeepsOut m₀ u₀ (execGlbLockSet g s) := by
  unfold execGlbLockSet
  try extract_lets
  repeat' first
    | exact Parts.sub hm (by decide)
    | with_reducible exact hk
    | with_reducible exact Keeps.refl _ _
    | with_reducible apply State.set_keeps
    | with_reducible apply ok_keeps
    | with_reducible apply KeepsOut.next
    | with_reducible apply Keeps.ite
    | with_reducible apply KeepsOut.ite
    | with_reducible apply Keeps.iteSnd
    | with_reducible apply Keeps.iteFst
    | refine Keeps.sndOf (by assumption) ?_
    | refine Keeps.fstOf (by assumption) ?_
    | with_reducible assumption
    | with_reducible exact fun _ w => w
    | with_reducible (intro _)
    | split
    | extract_lets
    | dsimp +zetaDelta only

theorem execMsixMessageSend_keeps (p : Port) (v : BitVec 6) {m₀ : Nat} {u₀ s : State} (hk : Keeps m₀ u₀ s) (hm : Parts m₀ 2097156 := by first | decide | exact Parts.sub (by assumption) (by decide)) : KeepsOut m₀ u₀ (execMsixMessageSend p v s) := by
  unfold execMsixMessageSend
  try extract_lets
  repeat' first
    | exact Parts.sub hm (by decide)
    | with_reducible exact hk
    | with_reducible exact Keeps.refl _ _
    | with_reducible apply State.sendMsix_keeps
    | with_reducible apply State.set_keeps
    | with_reducible apply State.updIrq_keeps
    | with_reducible apply ok_keeps
    | with_reducible apply KeepsOut.next
    | with_reducible apply Keeps.ite
    | with_reducible apply KeepsOut.ite
    | with_reducible apply Keeps.iteSnd
    | with_reducible apply Keeps.iteFst
    | refine Keeps.sndOf (by assumption) ?_
    | refine Keeps.fstOf (by assumption) ?_
    | with_reducible assumption
    | with_reducible exact fun _ w => w
    | with_reducible (intro _)
    | split
    | extract_lets
    | dsimp +zetaDelta only

theorem State.actPersist_keeps (g : Agent) (off : Nat) (w : Word) {m₀ : Nat} {u₀ s : State} (hk : Keeps m₀ u₀ s) (hm : Parts m₀ 3685135 := by first | decide | exact Parts.sub (by assumption) (by decide)) : Keeps m₀ u₀ (State.actPersist s g off w) := by
  unfold State.actPersist
  try extract_lets
  repeat' first
    | exact Parts.sub hm (by decide)
    | with_reducible exact hk
    | with_reducible exact Keeps.refl _ _
    | with_reducible apply State.act_keeps
    | with_reducible apply execBankRelease_keeps
    | with_reducible apply execBankReleaseCancel_keeps
    | with_reducible apply execPqBindWrite_keeps
    | with_reducible apply execRehearsalGo_keeps
    | with_reducible apply execRetireCommand_keeps
    | with_reducible apply execStampHiWrite_keeps
    | with_reducible apply execStampLoWrite_keeps
    | with_reducible apply execXlateStart_keeps
    | with_reducible apply Keeps.ite
    | with_reducible apply Keeps.iteSnd
    | with_reducible apply Keeps.iteFst
    | refine Keeps.sndOf (by assumption) ?_
    | refine Keeps.fstOf (by assumption) ?_
    | with_reducible assumption
    | with_reducible exact fun _ w => w
    | with_reducible (intro _)
    | split
    | extract_lets
    | dsimp +zetaDelta only

theorem State.actEnergy_keeps (off : Nat) (w : Word) {m₀ : Nat} {u₀ s : State} (hk : Keeps m₀ u₀ s) (hm : Parts m₀ 3668847 := by first | decide | exact Parts.sub (by assumption) (by decide)) : Keeps m₀ u₀ (State.actEnergy s off w) := by
  unfold State.actEnergy
  try extract_lets
  repeat' first
    | exact Parts.sub hm (by decide)
    | with_reducible exact hk
    | with_reducible exact Keeps.refl _ _
    | with_reducible apply State.act_keeps
    | with_reducible apply State.draw_keeps
    | with_reducible apply execBfRetry_keeps
    | with_reducible apply execEqualiseGo_keeps
    | with_reducible apply execFlashModuleAdd_keeps
    | with_reducible apply execFlashModuleCancel_keeps
    | with_reducible apply execFlashModuleRelease_keeps
    | with_reducible apply execHealthTestAbort_keeps
    | with_reducible apply execHealthTestGo_keeps
    | with_reducible apply execRangeIndexWrite_keeps
    | with_reducible apply execSetpointWrite_keeps
    | with_reducible apply execVaultEmpty_keeps
    | with_reducible apply execVaultFormat_keeps
    | with_reducible apply Keeps.ite
    | with_reducible apply Keeps.iteSnd
    | with_reducible apply Keeps.iteFst
    | refine Keeps.sndOf (by assumption) ?_
    | refine Keeps.fstOf (by assumption) ?_
    | with_reducible assumption
    | with_reducible exact fun _ w => w
    | with_reducible (intro _)
    | split
    | extract_lets
    | dsimp +zetaDelta only

theorem State.actMirror_keeps (off : Nat) (w : Word) {m₀ : Nat} {u₀ s : State} (hk : Keeps m₀ u₀ s) (hm : Parts m₀ 3803951 := by first | decide | exact Parts.sub (by assumption) (by decide)) : Keeps m₀ u₀ (State.actMirror s off w) := by
  unfold State.actMirror
  try extract_lets
  repeat' first
    | exact Parts.sub hm (by decide)
    | with_reducible exact hk
    | with_reducible exact Keeps.refl _ _
    | with_reducible apply State.act_keeps
    | with_reducible apply State.linkIdle_keeps
    | with_reducible apply State.sessionEnd_keeps
    | with_reducible apply State.sessionQuit_keeps
    | with_reducible apply execAdoptedRegionRelease_keeps
    | with_reducible apply execInjectCrcError_keeps
    | with_reducible apply execInjectLaneErrors_keeps
    | with_reducible apply execLinkRetrainCommand_keeps
    | with_reducible apply execQuarantineClear_keeps
    | with_reducible apply execResyncCommand_keeps
    | with_reducible apply execSessionEndCommand_keeps
    | with_reducible apply Keeps.ite
    | with_reducible apply Keeps.iteSnd
    | with_reducible apply Keeps.iteFst
    | refine Keeps.sndOf (by assumption) ?_
    | refine Keeps.fstOf (by assumption) ?_
    | with_reducible assumption
    | with_reducible exact fun _ w => w
    | with_reducible (intro _)
    | split
    | extract_lets
    | dsimp +zetaDelta only

theorem State.actControl_keeps (g : Agent) (off : Nat) (w : Word) {m₀ : Nat} {u₀ s : State} (hk : Keeps m₀ u₀ s) (hm : Parts m₀ 2134653 := by first | decide | exact Parts.sub (by assumption) (by decide)) : Keeps m₀ u₀ (State.actControl s g off w) := by
  unfold State.actControl
  try extract_lets
  repeat' first
    | exact Parts.sub hm (by decide)
    | with_reducible exact hk
    | with_reducible exact Keeps.refl _ _
    | with_reducible apply State.act_keeps
    | with_reducible apply execCompletionPop_keeps
    | with_reducible apply execManualRailOff_keeps
    | with_reducible apply execManualRailOn_keeps
    | with_reducible apply execMicrocodeRoll_keeps
    | with_reducible apply execRepower_keeps
    | with_reducible apply execRollAbort_keeps
    | with_reducible apply execRollback_keeps
    | with_reducible apply execShadeValidate_keeps
    | with_reducible apply execSwap_keeps
    | with_reducible apply execSwapCancel_keeps
    | with_reducible apply execTaskCancel_keeps
    | with_reducible apply execTaskSubmit_keeps
    | with_reducible apply execTileQuiesce_keeps
    | with_reducible apply execTileReturn_keeps
    | with_reducible apply execWarningCountClear_keeps
    | with_reducible apply Keeps.ite
    | with_reducible apply Keeps.iteSnd
    | with_reducible apply Keeps.iteFst
    | refine Keeps.sndOf (by assumption) ?_
    | refine Keeps.fstOf (by assumption) ?_
    | with_reducible assumption
    | with_reducible exact fun _ w => w
    | with_reducible (intro _)
    | split
    | extract_lets
    | dsimp +zetaDelta only

theorem State.actKey_keeps (g : Agent) (op : Nat) (slot : BitVec 5) (key : BitVec 16) {m₀ : Nat} {u₀ s : State} (hk : Keeps m₀ u₀ s) (hm : Parts m₀ 2097775 := by first | decide | exact Parts.sub (by assumption) (by decide)) : Keeps m₀ u₀ (State.actKey s g op slot key) := by
  unfold State.actKey
  try extract_lets
  repeat' first
    | exact Parts.sub hm (by decide)
    | with_reducible exact hk
    | with_reducible exact Keeps.refl _ _
    | with_reducible apply State.act_keeps
    | with_reducible apply execCompare_keeps
    | with_reducible apply execErase_keeps
    | with_reducible apply execExport_keeps
    | with_reducible apply execImport_keeps
    | with_reducible apply execKeyOpSeven_keeps
    | with_reducible apply execLoadescrow_keeps
    | with_reducible apply execLock_keeps
    | with_reducible apply Keeps.ite
    | with_reducible apply Keeps.iteSnd
    | with_reducible apply Keeps.iteFst
    | refine Keeps.sndOf (by assumption) ?_
    | refine Keeps.fstOf (by assumption) ?_
    | with_reducible assumption
    | with_reducible exact fun _ w => w
    | with_reducible (intro _)
    | split
    | extract_lets
    | dsimp +zetaDelta only

theorem State.actMailbox_keeps (p : Port) (op : Nat) {m₀ : Nat} {u₀ s : State} (hk : Keeps m₀ u₀ s) (hm : Parts m₀ 2102015 := by first | decide | exact Parts.sub (by assumption) (by decide)) : Keeps m₀ u₀ (State.actMailbox s p op) := by
  unfold State.actMailbox
  try extract_lets
  repeat' first
    | exact Parts.sub hm (by decide)
    | with_reducible exact hk
    | with_reducible exact Keeps.refl _ _
    | with_reducible apply State.act_keeps
    | with_reducible apply State.draw_keeps
    | with_reducible apply State.stwAnswer_keeps
    | with_reducible apply State.stwCommand_keeps
    | with_reducible apply execActivateFw_keeps
    | with_reducible apply execGetVersions_keeps
    | with_reducible apply execSetWalltime_keeps
    | with_reducible apply execUpdateBegin_keeps
    | with_reducible apply execUpdateCancel_keeps
    | with_reducible apply execUpdateData_keeps
    | with_reducible apply execUpdateEnd_keeps
    | with_reducible apply Keeps.ite
    | with_reducible apply Keeps.iteSnd
    | with_reducible apply Keeps.iteFst
    | refine Keeps.sndOf (by assumption) ?_
    | refine Keeps.fstOf (by assumption) ?_
    | with_reducible assumption
    | with_reducible exact fun _ w => w
    | with_reducible (intro _)
    | split
    | extract_lets
    | dsimp +zetaDelta only

theorem State.actTrust_keeps (g : Agent) (off : Nat) (w : Word) {m₀ : Nat} {u₀ s : State} (hk : Keeps m₀ u₀ s) (hm : Parts m₀ 2102015 := by first | decide | exact Parts.sub (by assumption) (by decide)) : Keeps m₀ u₀ (State.actTrust s g off w) := by
  unfold State.actTrust
  try extract_lets
  repeat' first
    | exact Parts.sub hm (by decide)
    | with_reducible exact hk
    | with_reducible exact Keeps.refl _ _
    | with_reducible apply State.act_keeps
    | with_reducible apply State.actKey_keeps
    | with_reducible apply State.actMailbox_keeps
    | with_reducible apply State.compatAddr_keeps
    | with_reducible apply State.compatCmd_keeps
    | with_reducible apply execBootSelect_keeps
    | with_reducible apply execChallenge_keeps
    | with_reducible apply execClear_keeps
    | with_reducible apply execCompatKeyWrite_keeps
    | with_reducible apply execCompatProgramWord_keeps
    | with_reducible apply execConfirm_keeps
    | with_reducible apply execDigestAbort_keeps
    | with_reducible apply execDigestDataWrite_keeps
    | with_reducible apply execDigestResume_keeps
    | with_reducible apply execDigestStart_keeps
    | with_reducible apply execEvrCursorWrite_keeps
    | with_reducible apply execKick_keeps
    | with_reducible apply execSeverityQuery_keeps
    | with_reducible apply execStewardRestart_keeps
    | with_reducible apply Keeps.ite
    | with_reducible apply Keeps.iteSnd
    | with_reducible apply Keeps.iteFst
    | refine Keeps.sndOf (by assumption) ?_
    | refine Keeps.fstOf (by assumption) ?_
    | with_reducible assumption
    | with_reducible exact fun _ w => w
    | with_reducible exact fun _ w => Store.wf_put w _ _
    | with_reducible exact fun _ w => Store.wf_put (Store.wf_put w _ _) _ _
    | with_reducible exact fun _ w => Store.wf_keep w _
    | with_reducible exact fun _ _ => Store.wf_nil
    | with_reducible (intro _)
    | split
    | extract_lets
    | dsimp +zetaDelta only

theorem State.actions_keeps (g : Agent) (off : Nat) (w : Word) {m₀ : Nat} {u₀ s : State} (hk : Keeps m₀ u₀ s) (hm : Parts m₀ 4193279 := by first | decide | exact Parts.sub (by assumption) (by decide)) : Keeps m₀ u₀ (State.actions s g off w) := by
  unfold State.actions
  try extract_lets
  repeat' first
    | exact Parts.sub hm (by decide)
    | with_reducible exact hk
    | with_reducible exact Keeps.refl _ _
    | with_reducible apply State.actControl_keeps
    | with_reducible apply State.actEnergy_keeps
    | with_reducible apply State.actMirror_keeps
    | with_reducible apply State.actPersist_keeps
    | with_reducible apply State.actTrust_keeps
    | with_reducible apply Keeps.ite
    | with_reducible apply Keeps.iteSnd
    | with_reducible apply Keeps.iteFst
    | refine Keeps.sndOf (by assumption) ?_
    | refine Keeps.fstOf (by assumption) ?_
    | with_reducible assumption
    | with_reducible exact fun _ w => w
    | with_reducible (intro _)
    | split
    | extract_lets
    | dsimp +zetaDelta only

theorem State.windowWrite_keeps (g : Agent) (o : Nat) (w : Word) (full : Bool) {m₀ : Nat} {u₀ s : State} (hk : Keeps m₀ u₀ s) (hm : Parts m₀ 2097709 := by first | decide | exact Parts.sub (by assumption) (by decide)) : Keeps m₀ u₀ (State.windowWrite s g o w full) := by
  unfold State.windowWrite
  try extract_lets
  repeat' first
    | exact Parts.sub hm (by decide)
    | with_reducible exact hk
    | with_reducible exact Keeps.refl _ _
    | with_reducible apply State.act_keeps
    | with_reducible apply State.cmd2_keeps
    | with_reducible apply execNativeCmd0_keeps
    | with_reducible apply execNativeCmd1_keeps
    | with_reducible apply execNativeDataWrite_keeps
    | with_reducible apply Keeps.ite
    | with_reducible apply Keeps.iteSnd
    | with_reducible apply Keeps.iteFst
    | refine Keeps.sndOf (by assumption) ?_
    | refine Keeps.fstOf (by assumption) ?_
    | with_reducible assumption
    | with_reducible exact fun _ w => w
    | with_reducible (intro _)
    | split
    | extract_lets
    | dsimp +zetaDelta only

theorem State.writeAt_keeps (g : Agent) (off : Nat) (w : Word) (be : BitVec 4) {m₀ : Nat} {u₀ s : State} (hk : Keeps m₀ u₀ s) (hm : Parts m₀ 4193279 := by first | decide | exact Parts.sub (by assumption) (by decide)) : Keeps m₀ u₀ (State.writeAt s g off w be) := by
  unfold State.writeAt
  try extract_lets
  repeat' first
    | exact Parts.sub hm (by decide)
    | with_reducible exact hk
    | with_reducible exact Keeps.refl _ _
    | with_reducible apply State.accErr_keeps
    | with_reducible apply State.actions_keeps
    | with_reducible apply State.strayAccess_keeps
    | with_reducible apply State.windowWrite_keeps
    | with_reducible apply State.writeFields_keeps
    | with_reducible apply Keeps.ite
    | with_reducible apply Keeps.iteSnd
    | with_reducible apply Keeps.iteFst
    | refine Keeps.sndOf (by assumption) ?_
    | refine Keeps.fstOf (by assumption) ?_
    | with_reducible assumption
    | with_reducible exact fun _ w => w
    | with_reducible (intro _)
    | split
    | extract_lets
    | dsimp +zetaDelta only

theorem State.writeReg_keeps (g : Agent) (t : RegTarget) (w : Word) (be : BitVec 4) {m₀ : Nat} {u₀ s : State} (hk : Keeps m₀ u₀ s) (hm : Parts m₀ 4193279 := by first | decide | exact Parts.sub (by assumption) (by decide)) : Keeps m₀ u₀ (State.writeReg s g t w be) := by
  unfold State.writeReg
  try extract_lets
  repeat' first
    | exact Parts.sub hm (by decide)
    | with_reducible exact hk
    | with_reducible exact Keeps.refl _ _
    | with_reducible apply State.set_keeps
    | with_reducible apply State.updIrq_keeps
    | with_reducible apply State.writeAt_keeps
    | with_reducible apply Keeps.ite
    | with_reducible apply Keeps.iteSnd
    | with_reducible apply Keeps.iteFst
    | refine Keeps.sndOf (by assumption) ?_
    | refine Keeps.fstOf (by assumption) ?_
    | with_reducible assumption
    | with_reducible exact fun _ w => w
    | with_reducible (intro _)
    | split
    | extract_lets
    | dsimp +zetaDelta only

theorem State.agentWrite_keeps (t : RegTarget) (x : Agent × Word × BitVec 4) {m₀ : Nat} {u₀ s : State} (hk : Keeps m₀ u₀ s) (hm : Parts m₀ 4193279 := by first | decide | exact Parts.sub (by assumption) (by decide)) : Keeps m₀ u₀ (State.agentWrite t s x) := by
  unfold State.agentWrite
  try extract_lets
  repeat' first
    | exact Parts.sub hm (by decide)
    | with_reducible exact hk
    | with_reducible exact Keeps.refl _ _
    | with_reducible apply State.writeReg_keeps
    | with_reducible apply Keeps.ite
    | with_reducible apply Keeps.iteSnd
    | with_reducible apply Keeps.iteFst
    | refine Keeps.sndOf (by assumption) ?_
    | refine Keeps.fstOf (by assumption) ?_
    | with_reducible assumption
    | with_reducible exact fun _ w => w
    | with_reducible (intro _)
    | split
    | extract_lets
    | dsimp +zetaDelta only

theorem execRegisterWrite_keeps (g : Agent) (t : RegTarget) (w : Word) (be : BitVec 4) (also : List (Agent × Word × BitVec 4)) {m₀ : Nat} {u₀ s : State} (hk : Keeps m₀ u₀ s) (hm : Parts m₀ 4193279 := by first | decide | exact Parts.sub (by assumption) (by decide)) : KeepsOut m₀ u₀ (execRegisterWrite g t w be also s) := by
  unfold execRegisterWrite
  try extract_lets
  repeat' first
    | exact Parts.sub hm (by decide)
    | with_reducible exact hk
    | with_reducible exact Keeps.refl _ _
    | with_reducible apply State.agentWrite_keeps
    | with_reducible apply ok_keeps
    | with_reducible apply Keeps.foldl
    | with_reducible apply Keeps.foldlFst
    | with_reducible apply Keeps.foldlSnd
    | with_reducible apply KeepsOut.next
    | with_reducible apply Keeps.ite
    | with_reducible apply KeepsOut.ite
    | with_reducible apply Keeps.iteSnd
    | with_reducible apply Keeps.iteFst
    | refine Keeps.sndOf (by assumption) ?_
    | refine Keeps.fstOf (by assumption) ?_
    | with_reducible assumption
    | with_reducible exact fun _ w => w
    | with_reducible (intro _)
    | split
    | extract_lets
    | dsimp +zetaDelta only

end Sys2Proof.Machine
end

