-- ==== Sys2Proof/Laws/Keeps/Beat.lean ====
section
/-! SUPPORT. The operations of Beat keep the queue and a sound state. -/

set_option Elab.async false

namespace Sys2Proof.Machine

set_option linter.unreachableTactic false
set_option linter.unusedTactic false
set_option linter.unusedVariables false

theorem State.nextBeat_keeps (back refclk aliveLow : Bool) {m₀ : Nat} {u₀ s : State} (hk : Keeps m₀ u₀ s) (hm : Parts m₀ 5785859 := by first | decide | exact Parts.sub (by assumption) (by decide)) : Keeps m₀ u₀ (State.nextBeat s back refclk aliveLow) := by
  unfold State.nextBeat
  try extract_lets
  repeat' first
    | exact Nat.zero_le _
    | exact fun _ _ => Nat.zero_le _
    | exact Parts.sub hm (by decide)
    | with_reducible exact hk
    | with_reducible exact Keeps.refl _ _
    | with_reducible apply State.dramBoundary_keeps
    | with_reducible apply State.updCtl_keeps
    | with_reducible apply State.updGlb_keeps
    | with_reducible apply State.updMlk_keeps
    | with_reducible apply State.updMtx_keeps
    | with_reducible apply State.updPq_keeps
    | with_reducible exact fun _ _ => rfl
    | with_reducible exact fun _ _ => ⟨rfl, rfl⟩
    | exact fun e => (Parts.holds (n := 22) (Parts.sub hm (by decide)) e).elim
    | exact fun e => (Parts.holds (n := 23) (Parts.sub hm (by decide)) e).elim
    | with_reducible apply Keeps.ite
    | with_reducible apply Keeps.iteSnd
    | with_reducible apply Keeps.iteFst
    | refine Keeps.sndOf (by assumption) ?_
    | refine Keeps.fstOf (by assumption) ?_
    | with_reducible assumption
    | with_reducible exact fun _ w => w
    | with_reducible exact fun _ w => Store.wf_put w _ _
    | with_reducible exact fun _ w => Store.wf_put (Store.wf_put w _ _) _ _
    | with_reducible exact fun _ w => Store.wf_keep w _
    | with_reducible exact fun _ _ => Store.wf_nil
    | with_reducible (intro _)
    | split
    | extract_lets
    | dsimp +zetaDelta only

theorem State.spanEnd_keeps (p : Port) {m₀ : Nat} {u₀ s : State} (hk : Keeps m₀ u₀ s) (hm : Parts m₀ 256 := by first | decide | exact Parts.sub (by assumption) (by decide)) : Keeps m₀ u₀ (State.spanEnd s p) := by
  unfold State.spanEnd
  try extract_lets
  repeat' first
    | exact Parts.sub hm (by decide)
    | with_reducible exact hk
    | with_reducible exact Keeps.refl _ _
    | with_reducible apply State.set_keeps
    | with_reducible apply State.updPq_keeps
    | with_reducible apply Keeps.ite
    | with_reducible apply Keeps.iteSnd
    | with_reducible apply Keeps.iteFst
    | refine Keeps.sndOf (by assumption) ?_
    | refine Keeps.fstOf (by assumption) ?_
    | with_reducible assumption
    | with_reducible exact fun _ w => w
    | with_reducible (intro _)
    | split
    | extract_lets
    | dsimp +zetaDelta only

theorem State.rangesEnd_keeps  {m₀ : Nat} {u₀ s : State} (hk : Keeps m₀ u₀ s) (hm : Parts m₀ 262145 := by first | decide | exact Parts.sub (by assumption) (by decide)) : Keeps m₀ u₀ (State.rangesEnd s) := by
  unfold State.rangesEnd
  try extract_lets
  repeat' first
    | exact Parts.sub hm (by decide)
    | with_reducible exact hk
    | with_reducible exact Keeps.refl _ _
    | with_reducible apply State.set_keeps
    | with_reducible apply State.updRst_keeps
    | with_reducible apply Keeps.ite
    | with_reducible apply Keeps.iteSnd
    | with_reducible apply Keeps.iteFst
    | refine Keeps.sndOf (by assumption) ?_
    | refine Keeps.fstOf (by assumption) ?_
    | with_reducible assumption
    | with_reducible exact fun _ w => w
    | with_reducible (intro _)
    | split
    | extract_lets
    | dsimp +zetaDelta only

theorem State.sealNow_keeps  {m₀ : Nat} {u₀ s : State} (hk : Keeps m₀ u₀ s) (hm : Parts m₀ 11109999 := by first | decide | exact Parts.sub (by assumption) (by decide)) : Keeps m₀ u₀ (State.sealNow s) := by
  unfold State.sealNow
  try extract_lets
  repeat' first
    | exact Parts.sub hm (by decide)
    | with_reducible exact hk
    | with_reducible exact Keeps.refl _ _
    | with_reducible apply State.enter_keeps
    | with_reducible apply State.powerDown_keeps
    | with_reducible apply State.updDrn_keeps
    | with_reducible apply State.updGlb_keeps
    | with_reducible exact fun _ _ => rfl
    | with_reducible exact fun _ _ => ⟨rfl, rfl⟩
    | exact fun e => (Parts.holds (n := 22) (Parts.sub hm (by decide)) e).elim
    | exact fun e => (Parts.holds (n := 23) (Parts.sub hm (by decide)) e).elim
    | with_reducible apply Keeps.ite
    | with_reducible apply Keeps.iteSnd
    | with_reducible apply Keeps.iteFst
    | refine Keeps.sndOf (by assumption) ?_
    | refine Keeps.fstOf (by assumption) ?_
    | with_reducible assumption
    | with_reducible exact fun _ w => w
    | with_reducible exact fun _ w => Store.wf_put w _ _
    | with_reducible exact fun _ w => Store.wf_put (Store.wf_put w _ _) _ _
    | with_reducible exact fun _ w => Store.wf_keep w _
    | with_reducible exact fun _ _ => Store.wf_nil
    | with_reducible (intro _)
    | split
    | extract_lets
    | dsimp +zetaDelta only

theorem execBeatBoundary_keeps (back refclk aliveLow : Bool) (report : BitVec 96) (pg : BitVec 48) {m₀ : Nat} {u₀ s : State} (hk : Keeps m₀ u₀ s) (hm : Parts m₀ 16777087 := by first | decide | exact Parts.sub (by assumption) (by decide)) : KeepsOut m₀ u₀ (execBeatBoundary back refclk aliveLow report pg s) := by
  unfold execBeatBoundary
  try extract_lets
  repeat' first
    | exact Parts.sub hm (by decide)
    | with_reducible exact hk
    | with_reducible exact Keeps.refl _ _
    | with_reducible apply State.abandonStep_keeps
    | with_reducible apply State.applyBound_keeps
    | with_reducible apply State.closeLedger_keeps
    | with_reducible apply State.coreStopDue_keeps
    | with_reducible apply State.ctlBoundary_keeps
    | with_reducible apply State.drainClose_keeps
    | with_reducible apply State.dueTasks_keeps
    | with_reducible apply State.issuePrepared_keeps
    | with_reducible apply State.judgePg_keeps
    | with_reducible apply State.ldgBoundary_keeps
    | with_reducible apply State.leaveBoot_keeps
    | with_reducible apply State.nextBeat_keeps
    | with_reducible apply State.offStep_keeps
    | with_reducible apply State.planClose_keeps
    | with_reducible apply State.rangesEnd_keeps
    | with_reducible apply State.releasePass_keeps
    | with_reducible apply State.sealNow_keeps
    | with_reducible apply State.seqBoundary_keeps
    | with_reducible apply State.shedQuiesce_keeps
    | with_reducible apply State.showPg_keeps
    | with_reducible apply State.slicesEnd_keeps
    | with_reducible apply State.spanEnd_keeps
    | with_reducible apply State.swapPass_keeps
    | with_reducible apply State.tileBoundary_keeps
    | with_reducible apply State.trickleBeat_keeps
    | with_reducible apply ok_keeps
    | with_reducible apply KeepsOut.next
    | with_reducible apply Keeps.ite
    | with_reducible apply KeepsOut.ite
    | with_reducible apply Keeps.iteSnd
    | with_reducible apply Keeps.iteFst
    | refine Keeps.sndOf (by assumption) ?_
    | refine Keeps.fstOf (by assumption) ?_
    | with_reducible assumption
    | with_reducible exact fun _ w => w
    | with_reducible (intro _)
    | split
    | extract_lets
    | dsimp +zetaDelta only

theorem State.resume_keeps  {m₀ : Nat} {u₀ s : State} (hk : Keeps m₀ u₀ s) (hm : Parts m₀ 65536 := by first | decide | exact Parts.sub (by assumption) (by decide)) : Keeps m₀ u₀ (State.resume s) := by
  unfold State.resume
  try extract_lets
  repeat' first
    | exact Parts.sub hm (by decide)
    | with_reducible exact hk
    | with_reducible exact Keeps.refl _ _
    | with_reducible apply State.updDrn_keeps
    | with_reducible apply Keeps.ite
    | with_reducible apply Keeps.iteSnd
    | with_reducible apply Keeps.iteFst
    | refine Keeps.sndOf (by assumption) ?_
    | refine Keeps.fstOf (by assumption) ?_
    | with_reducible assumption
    | with_reducible exact fun _ w => w
    | with_reducible (intro _)
    | split
    | extract_lets
    | dsimp +zetaDelta only

theorem execCreditPublication_keeps  {m₀ : Nat} {u₀ s : State} (hk : Keeps m₀ u₀ s) (hm : Parts m₀ 2175759 := by first | decide | exact Parts.sub (by assumption) (by decide)) : KeepsOut m₀ u₀ (execCreditPublication s) := by
  unfold execCreditPublication
  try extract_lets
  repeat' first
    | exact Parts.sub hm (by decide)
    | with_reducible exact hk
    | with_reducible exact Keeps.refl _ _
    | with_reducible apply State.admitAll_keeps
    | with_reducible apply State.publishCredit_keeps
    | with_reducible apply State.resume_keeps
    | with_reducible apply State.updGlb_keeps
    | with_reducible apply ok_keeps
    | with_reducible apply KeepsOut.next
    | with_reducible exact fun _ _ => rfl
    | with_reducible exact fun _ _ => ⟨rfl, rfl⟩
    | exact fun e => (Parts.holds (n := 22) (Parts.sub hm (by decide)) e).elim
    | exact fun e => (Parts.holds (n := 23) (Parts.sub hm (by decide)) e).elim
    | with_reducible apply Keeps.ite
    | with_reducible apply KeepsOut.ite
    | with_reducible apply Keeps.iteSnd
    | with_reducible apply Keeps.iteFst
    | refine Keeps.sndOf (by assumption) ?_
    | refine Keeps.fstOf (by assumption) ?_
    | with_reducible assumption
    | with_reducible exact fun _ w => w
    | with_reducible exact fun _ w => Store.wf_put w _ _
    | with_reducible exact fun _ w => Store.wf_put (Store.wf_put w _ _) _ _
    | with_reducible exact fun _ w => Store.wf_keep w _
    | with_reducible exact fun _ _ => Store.wf_nil
    | with_reducible (intro _)
    | split
    | extract_lets
    | dsimp +zetaDelta only

theorem execRefclkLoss_keeps  {m₀ : Nat} {u₀ s : State} (hk : Keeps m₀ u₀ s) (hm : Parts m₀ 3671823 := by first | decide | exact Parts.sub (by assumption) (by decide)) : KeepsOut m₀ u₀ (execRefclkLoss s) := by
  unfold execRefclkLoss
  try extract_lets
  repeat' first
    | exact Parts.sub hm (by decide)
    | with_reducible exact hk
    | with_reducible exact Keeps.refl _ _
    | with_reducible apply State.event_keeps
    | with_reducible apply State.linkDown_keeps
    | with_reducible apply State.updGlb_keeps
    | with_reducible apply State.updHp_keeps
    | with_reducible apply ok_keeps
    | with_reducible apply KeepsOut.next
    | with_reducible exact fun _ _ => rfl
    | with_reducible exact fun _ _ => ⟨rfl, rfl⟩
    | exact fun e => (Parts.holds (n := 22) (Parts.sub hm (by decide)) e).elim
    | exact fun e => (Parts.holds (n := 23) (Parts.sub hm (by decide)) e).elim
    | with_reducible apply Keeps.ite
    | with_reducible apply KeepsOut.ite
    | with_reducible apply Keeps.iteSnd
    | with_reducible apply Keeps.iteFst
    | refine Keeps.sndOf (by assumption) ?_
    | refine Keeps.fstOf (by assumption) ?_
    | with_reducible assumption
    | with_reducible exact fun _ w => w
    | with_reducible exact fun _ w => Store.wf_put w _ _
    | with_reducible exact fun _ w => Store.wf_put (Store.wf_put w _ _) _ _
    | with_reducible exact fun _ w => Store.wf_keep w _
    | with_reducible exact fun _ _ => Store.wf_nil
    | with_reducible (intro _)
    | split
    | extract_lets
    | dsimp +zetaDelta only

theorem execRefclkReturn_keeps  {m₀ : Nat} {u₀ s : State} (hk : Keeps m₀ u₀ s) (hm : Parts m₀ 2097678 := by first | decide | exact Parts.sub (by assumption) (by decide)) : KeepsOut m₀ u₀ (execRefclkReturn s) := by
  unfold execRefclkReturn
  try extract_lets
  repeat' first
    | exact Parts.sub hm (by decide)
    | with_reducible exact hk
    | with_reducible exact Keeps.refl _ _
    | with_reducible apply State.event_keeps
    | with_reducible apply State.updGlb_keeps
    | with_reducible apply ok_keeps
    | with_reducible apply KeepsOut.next
    | with_reducible exact fun _ _ => rfl
    | with_reducible exact fun _ _ => ⟨rfl, rfl⟩
    | exact fun e => (Parts.holds (n := 22) (Parts.sub hm (by decide)) e).elim
    | exact fun e => (Parts.holds (n := 23) (Parts.sub hm (by decide)) e).elim
    | with_reducible apply Keeps.ite
    | with_reducible apply KeepsOut.ite
    | with_reducible apply Keeps.iteSnd
    | with_reducible apply Keeps.iteFst
    | refine Keeps.sndOf (by assumption) ?_
    | refine Keeps.fstOf (by assumption) ?_
    | with_reducible assumption
    | with_reducible exact fun _ w => w
    | with_reducible exact fun _ w => Store.wf_put w _ _
    | with_reducible exact fun _ w => Store.wf_put (Store.wf_put w _ _) _ _
    | with_reducible exact fun _ w => Store.wf_keep w _
    | with_reducible exact fun _ _ => Store.wf_nil
    | with_reducible (intro _)
    | split
    | extract_lets
    | dsimp +zetaDelta only

end Sys2Proof.Machine
end

