-- ==== Sys2Proof/Laws/Keeps/Pins.lean ====
section
/-! SUPPORT. The operations of Pins keep the queue and a sound state. -/

set_option Elab.async false

namespace Sys2Proof.Machine

set_option linter.unreachableTactic false
set_option linter.unusedTactic false
set_option linter.unusedVariables false

theorem execJtagIdcode_keeps  {m₀ : Nat} {u₀ s : State} (hk : Keeps m₀ u₀ s) (hm : Parts m₀ 2098176 := by first | decide | exact Parts.sub (by assumption) (by decide)) : KeepsOut m₀ u₀ (execJtagIdcode s) := by
  unfold execJtagIdcode
  try dsimp only
  repeat' first
    | exact Parts.sub hm (by decide)
    | with_reducible exact hk
    | with_reducible exact Keeps.refl _ _
    | with_reducible apply State.emit_keeps
    | with_reducible apply State.updHp_keeps
    | with_reducible apply ok_keeps
    | with_reducible apply KeepsOut.next
    | exact fun _ w => w
    | with_reducible (intro _)
    | split

theorem State.jtagBypass_keeps  {m₀ : Nat} {u₀ s : State} (hk : Keeps m₀ u₀ s) (hm : Parts m₀ 2098176 := by first | decide | exact Parts.sub (by assumption) (by decide)) : Keeps m₀ u₀ (State.jtagBypass s) := by
  unfold State.jtagBypass
  try dsimp only
  repeat' first
    | exact Parts.sub hm (by decide)
    | with_reducible exact hk
    | with_reducible exact Keeps.refl _ _
    | with_reducible apply State.emit_keeps
    | with_reducible apply State.updHp_keeps
    | exact fun _ w => w
    | with_reducible (intro _)
    | split

theorem execJtagBypass_keeps  {m₀ : Nat} {u₀ s : State} (hk : Keeps m₀ u₀ s) (hm : Parts m₀ 2098176 := by first | decide | exact Parts.sub (by assumption) (by decide)) : KeepsOut m₀ u₀ (execJtagBypass s) := by
  unfold execJtagBypass
  try dsimp only
  repeat' first
    | exact Parts.sub hm (by decide)
    | with_reducible exact hk
    | with_reducible exact Keeps.refl _ _
    | with_reducible apply State.jtagBypass_keeps
    | with_reducible apply ok_keeps
    | with_reducible apply KeepsOut.next
    | exact fun _ w => w
    | with_reducible (intro _)
    | split

theorem execJtagPinControl_keeps  {m₀ : Nat} {u₀ s : State} (hk : Keeps m₀ u₀ s) (hm : Parts m₀ 2098176 := by first | decide | exact Parts.sub (by assumption) (by decide)) : KeepsOut m₀ u₀ (execJtagPinControl s) := by
  unfold execJtagPinControl
  try dsimp only
  repeat' first
    | exact Parts.sub hm (by decide)
    | with_reducible exact hk
    | with_reducible exact Keeps.refl _ _
    | with_reducible apply State.jtagBypass_keeps
    | with_reducible apply State.updHp_keeps
    | with_reducible apply ok_keeps
    | with_reducible apply KeepsOut.next
    | exact fun _ w => w
    | with_reducible (intro _)
    | split

end Sys2Proof.Machine
end

