-- ==== Sys2Proof/Laws/Keeps/TickOps.lean ====
section
/-! SUPPORT. The operations of TickOps keep the queue and a sound state. -/

set_option Elab.async false

namespace Sys2Proof.Machine

set_option linter.unreachableTactic false
set_option linter.unusedTactic false
set_option linter.unusedVariables false

theorem State.tick_keeps {m₀ : Nat} {u s : State} (h : Keeps m₀ u s) (hm : Parts m₀ 4194306 := by first | decide | exact Parts.sub (by assumption) (by decide)) : Keeps m₀ u (State.tick s) :=
  State.updGlb_keeps h _ (fun _ _ => Nat.min_le_left _ _) (fun e => (Parts.holds (n := 22) (hm.sub (by decide)) e).elim) fun _ _ => rfl

end Sys2Proof.Machine
end

