-- ==== Sys2Proof/WellFormed.lean ====
section
/-! DEFINITION. Well-formed commands: what an operand must be for the command to be one that the hardware can meet. A command's
meaning does not rest on it: an ill-formed command has no effect that the spec describes. -/

namespace Sys2Proof

open Sys2Proof.Machine

/-- Why a command is ill-formed. -/
inductive IllFormed where
  /-- A domain code is not one of the 96 domains (R381). -/
  | domain
  /-- A rail number is not one of the 48 rails (R370). -/
  | rail
  /-- The speeds of a training are not one for each of the 8 channels (R108). -/
  | speeds
  /-- A scan holds more conversions than there are scan inputs (R378). -/
  | scan
  /-- A sensor reading does not hold 16 sensors and 4 monitors (R453). -/
  | sensors
  /-- More bytes than one mailbox command carries (Table: Steward mailbox commands). -/
  | data
  /-- A CXL.mem address is not the address of a 64-byte line (R77). -/
  | line
  /-- An access is not aligned to 4 bytes (R473). -/
  | word
  /-- A chunk read gives no read level (R239). -/
  | levels
  /-- A scrub slice has more error patterns than lines (R128). -/
  | errors
deriving DecidableEq, Repr

/-- The domain code names a domain. -/
def onDomain (d : BitVec 7) : Option IllFormed := if d.toNat < 96 then none else some .domain

/-- The rail number names a rail. -/
def onRail (r : BitVec 6) : Option IllFormed := if r.toNat < 48 then none else some .rail

/-- A list has the length it must have. -/
def ofLength (e : IllFormed) (n k : Nat) : Option IllFormed := if n = k then none else some e

/-- An address names a line. -/
def onLine (a : Nat) : Option IllFormed := if a % 64 = 0 then none else some .line

/-- An offset names a register word. -/
def onWord (o : Nat) : Option IllFormed := if o % 4 = 0 then none else some .word

/-- The target of a write: a word of the control space, two neighbouring ones, or a function mask. In the flash window a narrower
write is one that the interface judges (R426). -/
def onTarget : RegTarget → Option IllFormed
  | .space o | .wide o _ => if 0x4000000 ≤ o.toNat then none else onWord o.toNat
  | .msixMask _ => none

/-- Why a command is ill-formed, or none. -/
def Instr.check : Instr → Option IllFormed
  | .beatBoundary .. | .creditPublication | .healthFiguresStale | .refclkLoss | .refclkReturn | .controlSample ..
  | .protectiveTrip .. | .faultRestart | .bfRunStart | .bfRunEnd | .bfRetry | .setpointWrite ..
  | .inmonTrip | .inputCollapse | .graceTimerExpiry | .rideThrough | .mrxWindowExpiry | .mirrorFence => none
  | .domainShed d => onDomain d
  | .crownWrite | .crownComplete | .warmResumeDecision | .warmServeEntry => none
  | .offDelayExpiry r => onRail r
  | .bankmonDrainFloor .. | .bankmonSealedFloor .. | .powerUpBegin | .powerUpComplete | .powerupHoldEnd | .coreStopRailOff => none
  | .cxlMemWrite _ a _ _ _ _ => onLine a.toNat
  | .heldWriteAdmit .. | .heldSpanStart .. => none
  | .cxlMemRead _ a _ _ => onLine a.toNat
  | .decoderCommit .. | .pqBindWrite .. | .stampLoWrite .. | .stampHiWrite .. | .globalPersistentFlush .. | .identifyMemoryDevice ..
  | .getHealthInfo .. | .getShutdownState .. | .setShutdownState .. | .getSupportedLogs .. | .getLog .. | .getEventRecords ..
  | .clearEventRecords .. | .getTimestamp .. | .setTimestamp .. | .getFwInfo .. | .unsupportedMailboxCommand .. | .hostLinkTrained ..
  | .perstAssert .. | .perstDeassert .. => none
  | .dramTraining _ l => ofLength .speeds l.length 8
  | .dramReadComplete .. | .ceWindowExpiry | .retireCommand .. | .retirementBegin | .retirementCutover | .xlateStart ..
  | .rehearsalGo | .rehearsalScheduled | .rehearsalEnd | .bankRelease .. | .bankReleaseCancel .. | .energyModuleReleased ..
  | .energyModuleAbsent .. | .bootEqualise | .bootEqualiseEnd | .healthTestGo | .healthTestScheduled | .healthTestRetry
  | .healthTestStepEnd | .healthTestRecharged | .healthTestAbort | .equaliseGo .. | .equaliseDone | .equaliseTimeout => none
  | .chunkReadComplete _ _ _ _ _ _ l => if l.isEmpty then some .levels else none
  | .nandProgramComplete .. | .nandEraseComplete .. | .bandOpen .. | .checkpointTrigger | .epochSeal | .trickleWriteComplete ..
  | .fullCopyComplete .. | .flashModuleAbsent .. | .flashModuleRelease .. | .flashReleaseRestripe | .flashModuleReleased .. | .flashModuleCancel ..
  | .flashModuleAdd .. | .vaultFormat .. | .flashModuleInserted .. | .crownSearch .. | .vaultEmpty .. | .mapLoad
  | .notesApply | .portsOpen | .lazyRestoreEnd | .fetchComplete .. | .rangeIndexWrite .. | .linkTrainingStart
  | .linkEqualiseEnd .. | .frameReceive .. | .attemptTimeout | .rtrnSendEnd | .linkRetrainCommand | .injectCrcError
  | .injectLaneErrors .. | .flitTransmit | .replayTimerExpiry | .sessionSetupStart | .hello | .response
  | .refuse | .setupTimeout | .sessionEndCommand | .quarantineClear | .resyncCommand | .groupVerify
  | .write | .data | .ack | .stamp | .heartbeat | .syncBegin
  | .syncEnd | .syncRepaired | .takeover | .pad | .receiveWriteTimeout | .sendCountedTimeout
  | .sendAbsoluteTimeout | .heartbeatSend | .heartbeatLoss | .partnerAliveInDeassert | .quarantineEnd | .quarantineCountReset
  | .fullSyncStart | .adoptedRegionRead .. | .adoptedRegionWrite .. | .adoptedRegionRelease .. | .ingestFlush .. | .ingestWriteComplete ..
  | .mirrorSend | .trickle .. | .drainExtent .. | .extentComplete .. | .restoreRow .. | .demandFetch .. => none
  | .scrub _ n _ l => if l.length ≤ n.toNat then none else some .errors
  | .full .. | .mapCkpt .. | .parity .. | .health .. | .taskSubmit .. | .taskPick ..
  | .taskSteal .. | .taskStealDelivery .. | .taskSliceEnd .. | .waitConditionMet .. | .waitTimeout .. | .taskCancel ..
  | .completionPop .. | .tileQuiesce .. | .tileOut .. | .quiesceTimeout .. | .tileReturn .. | .microcodeRoll ..
  | .rollAbort | .tileMicrocodeLoaded .. | .tileSelfTestDone .. | .tileSelfTestBoot .. => none
  | .scanComplete l _ => if l.length ≤ 64 then none else some .scan
  | .railTonExpiry r => onRail r
  | .railSettleExpiry r => onRail r
  | .railFdelayExpiry r => onRail r
  | .domainOnTimeout d => onDomain d
  | .domainFault d => onDomain d
  | .repower .. | .manualRailOn .. | .manualRailOff .. | .warningCountClear .. | .resetStretchExpiry .. | .droopTrip ..
  | .droopRelease .. | .snapDataRead .. | .vddaonPowerOn .. | .vddaonLoss | .bootImageValidate | .shadeValidate
  | .shadeValidationDone | .swap .. | .roleRecordCommitted | .swapEffect | .imageRelease | .swapCancel
  | .rollback .. | .nativeCmd0 .. | .nativeCmd1 .. | .nativeDataWrite .. | .program .. | .eraseSector ..
  | .blankCheck .. | .flashOperationComplete .. | .flashSequenceTimeout | .compatKeyWrite .. | .compatProgramWord .. | .compatEraseSector ..
  | .compatBlankCheck .. | .compatAbort .. | .flagScan | .bootSelect .. | .stewardStart .. | .recorderFlashCopy
  | .digestStart .. | .digestResume .. | .digestAbort .. | .digestDataWrite .. | .digestBlockDone | .digestOwnerTimeout
  | .digestContextExpiry .. | .importKey .. | .exportKey .. | .lock .. | .erase .. | .compare ..
  | .loadescrow .. | .keyOpSeven .. | .keySlotLoad | .watchdogExpiry | .stewardRestart .. | .confirm ..
  | .kick .. | .confirmTimeout => none
  | .sensorRead l m => (ofLength .sensors l.length 16).orElse fun _ => ofLength .sensors m.length 4
  | .getVersions .. | .updateBegin .. => none
  | .updateData _ _ l => if l.length ≤ 1024 then none else some .data
  | .updateEnd .. | .updateCancel .. | .activateFw .. | .setWalltime .. | .entdaa .. | .setdasa ..
  | .rstdaa | .enec | .disec | .getpid | .getbcr | .getdcr
  | .getmwl | .getmrl | .setEndpointId .. | .getEndpointId | .getEndpointUuid | .getMctpVersionSupport ..
  | .getMessageTypeSupport | .getVendorDefinedMessageSupport | .unsupportedMctpCommand .. | .unsupportedMessageType | .settid .. | .gettid
  | .getpldmversion .. | .getpldmtypes | .getpldmcommands .. | .getsensorreading .. | .getstatesensorreadings .. | .setnumericsensorenable ..
  | .getpdrrepositoryinfo | .getpdr .. | .seteventreceiver .. | .querydeviceidentifiers | .getfirmwareparameters | .requestupdate
  | .passcomponenttable | .updatecomponent .. | .activatefirmware | .getstatus | .cancelupdatecomponent | .cancelupdate
  | .evrCursorWrite .. | .severityQuery .. | .challenge .. | .clear .. | .challengeExpiry | .msixMessageSend ..
  | .glbLockSet .. | .unassignedAccess .. | .offDomainAccess .. => none
  | .loReadLatch _ o _ => onWord o.toNat
  | .readClear _ o => onWord o.toNat
  | .registerWrite _ t _ _ _ => onTarget t
  | .jtagIdcode | .jtagBypass | .jtagPinControl | .partnerAliveInAssert | .laneErrorWindowExpiry | .hostLinkDown ..
  | .contextExportImportDone .. | .requestfirmwaredataResponse .. => none

/-- The command is well-formed. -/
abbrev Instr.WellFormed (i : Instr) : Prop := i.check = none

end Sys2Proof
end

