-- ==== Sys2Proof/Tests/Slice0.lean ====
section
/-! SUPPORT. Tests of the model, each on one command: a state that meets the hypotheses of each clause of the statements,
refusals of ill-formed commands, and values that the spec writes out. -/

set_option maxRecDepth 8000
set_option Elab.async false
set_option linter.unusedVariables false

namespace Sys2Proof.Tests

open Sys2Proof Sys2Proof.Machine

/-- The bytes of an image section with little-endian values at places: offset, width, value. -/
def testSec (n : Nat) (l : List (Nat × Nat × Nat)) : List Byte :=
  (List.range n).map fun k =>
    match l.find? fun x => x.1 ≤ k ∧ k < x.1 + x.2.1 with
    | some x => BitVec.ofNat 8 (x.2.2 / 256 ^ (k - x.1))
    | none => 0

/-- The state after reset in an operating state. -/
def inState (o : OpState) : State := State.reset.updGlb fun g => { g with st := o }

/-- The state with domains on, by word of SEQ_DOMONk. -/
def withDomains (s : State) (k v : Nat) : State := s.set (SEQ_DOMON_DOMAINS k) v

/-- Every domain is on in SERVE: the hosts' accesses are answered. -/
def awake : State := withDomains (withDomains (withDomains (inState .serve) 0 0xFFFFFFFF) 1 0xFFFFFFFF) 2 0xFFFFFFFF

/-- The state with an active image. -/
def withImage (s : State) (i : Image) : State := s.updSti fun t => { t with active := some i }

/-- Bytes in the flash array from an address. -/
def withFlash (s : State) (a : Nat) (b : List Byte) : State :=
  s.updCfl fun c => { c with bytes := b.zipIdx.foldl (fun m x => Store.put 0xFF m (a + x.2) x.1) c.bytes }

/-- Port A's domains are on and its reset is released. -/
def linkable : State := (withDomains State.reset 2 (2 ^ 16 + 2 ^ 18)).updHp fun h => { h with perst := ⟨false, true⟩ }

/-- Port A serves, no decoder is committed. -/
def openState : State := (inState .serve).updHp fun h => { h with up := ⟨true, false⟩, fast := ⟨true, false⟩ }

/-- Port A serves a window of class D. -/
def openWindow : State :=
  ((openState.updPq fun q => { q with dec := [(0, ⟨0, 268435456, true, false⟩)] }).set (PQ_BIND_CLASS 0 0) 3).set (PQ_BIND_VALID 0 0) 1

/-- The same, with a queue share on tile 0. -/
def openRoom : State :=
  (withImage openWindow ⟨1, 0, [testSec 41 [(32, 8, 1), (40, 1, 1)]]⟩).updDsp fun d => { d with bucketTiles := [0] }

/-- A held write without bytes that may be admitted. -/
def oneHeld : State := openState.updPq fun q => { q with held := [⟨.pa, 3, 0, 0, 0, false, 7, 0⟩] }

/-- A write of port B has waited long. -/
def longHeld : State :=
  (openState.updPq fun q => { q with held := [⟨.pb, 3, 0, 0, 1, false, 7, 0⟩] }).updGlb fun g => { g with beat := 100000000 }

/-- An image with four phases, trip limits and unit gains governs; every conversion at mid-scale is quiet. -/
def imaged : State :=
  withImage State.reset ⟨1, 0, [[], [], [], testSec 176 [(1, 1, 4), (18, 2, 60000), (22, 2, 3000), (32, 2, 200), (128, 4, 4096), (132, 4, 4096),
    (136, 4, 4096), (140, 4, 4096), (144, 4, 4096), (148, 4, 4096)]]⟩

/-- Every conversion reads 1. -/
def quietCodes : BitVec 96 := 0x001001001001001001001001

/-- Forty tiles serve and a rehearsal may run. -/
def rehearsable : State :=
  ((withDomains (withDomains (inState .serve) 0 0xFFFFFFFF) 1 0xFF).set LDG_STATUS_ZONE 0).updDsp fun d => { d with tested := true }

/-- No domain is enabled by the table. -/
def domless : State := State.reset.updSeq fun q => { q with tbl := [[], [], [0]] }

/-- No rail and no domain is enabled, so that a power-up is done. -/
def poweredState : State := State.reset.updSeq fun q => { q with tbl := [[], [], [0]] }

/-- Rail 4 is manual. -/
def manualState : State := (inState .serve).updSeq fun q => { q with tbl := [testSec 200 [(160, 1, 3)], [], []] }

/-- Rail 4 is sequenced, off, in no group. -/
def sequencedState : State := (inState .serve).updSeq fun q => { q with tbl := [testSec 200 [(160, 1, 1), (164, 4, 0xFFFFFFFF), (170, 1, 0xFF)], [], []] }

/-- A waiting queue entry that replaces line 0. -/
def queuedEntry : QEntry := ⟨0, 0, 0, 0, fullMask, 0, 0, some 1, false, false, false, false, 0⟩

/-- The queue holds it. -/
def queuedState : State := (inState .serve).updPq fun q => { q with entries := [queuedEntry] }

/-- Module 0 is counted. -/
def modState : State := State.reset.set VLT_MODS_COUNTED 1

/-- Three modules, sixteen erase blocks, two for crowns. -/
def vaultImage : Image := ⟨1, 0, [[], [], [], [], [], [], [], [], [], testSec 16 [(0, 1, 4), (1, 1, 1), (2, 2, 64), (4, 2, 16), (6, 1, 2)]]⟩
def bandable : State := ((withImage (inState .serve) vaultImage).set VLT_MODS_COUNTED 7).setB VLT_STATUS_READY true

/-- Granule 0 is dirty, no image asks for reserved bands. -/
def trickleable : State :=
  (withImage (bandable.updCch fun c => { c with map := [(0, { MapEntry.none with dirty := true })] }) { vaultImage with
    secs := [[], [], [], [], [], [], [], [], [], testSec 16 [(0, 1, 4), (1, 1, 8), (2, 2, 4096), (4, 2, 16), (6, 1, 2)]] })

/-- A closed band with a live directory page. -/
def victimBand : Band := ⟨3, 0, 0, 0, 7, 0, 0, true, false⟩
def victimState : State := bandable.updVlt fun v => { v with bands := [victimBand], newBlocks := [3] }

/-- A band whose first row is full. -/
def rowBand : Band := ⟨3, 0, 0, 0, 7, 0, 1000, false, false⟩
def rowState : State := bandable.updVlt fun v => { v with bands := [rowBand] }

/-- A rehearsal of class A runs and granule 0 of class A is dirty. -/
def healthState : State :=
  ((inState .serve).updLdg fun l => { l with rehRun := some ⟨0, 0, 0, false, 7⟩ }).updCch fun c =>
    { c with map := [(0, { MapEntry.none with dirty := true, cls := some 0 })] }

/-- Module 0 is present and not counted. -/
def addState : State := (inState .serve).set VLT_MODS_PRESENT 1

/-- A restore that found an empty vault. -/
def mappable : State :=
  ((inState .restore).updRst fun r => { r with scanned := true, empty := true }).set VLT_RST_STATUS_RESULT 5

/-- The link may train. -/
def trainable : State := (withDomains (inState .serve) 2 (2 ^ 24 + 2 ^ 25 + 2 ^ 26)).set MLK_STATUS_LSTATE 0

/-- The link is up, in the middle of a marker interval. -/
def upLink : State :=
  ((inState .serve).set MLK_STATUS_LSTATE 3).updMlk fun m => { m with expect_ := 5, txnext := 1, fcnt := 1, half := none }

/-- A session may be set up. -/
def setupable : State := (upLink.set MTX_CTRL_EN 1).set MTX_STATUS_SESSION 0
def keyedState : State := setupable.updDge fun d => { d with slots := [(0, ⟨some (List.replicate 32 0), 1, false, 0, 0⟩)] }

/-- A record stands in front of the session's receive stream. -/
def recFront (b : List Byte) : State :=
  ((((inState .serve).set MTX_STATUS_SESSION 2).set MTX_PEERTHRU_LO_VALUE 1).updMtx fun m => { m with
    plain := b, begun := true, firstRec := false, wr := none, raised := false, pairBusy := false, zeroSeq := none })

/-- The bytes of a WRITE record: flags, sequence, length, byte enables. -/
def writeRec (fl q n be : Nat) : List Byte :=
  leBytes 1 1 ++ leBytes 1 fl ++ leBytes 2 0 ++ leBytes 2 n ++ leBytes 2 0 ++ leBytes 8 q ++ leBytes 8 0 ++ leBytes 8 be
def writeFront (q : Nat) : State := recFront (writeRec 0 q 0 0)
def longFront : State := recFront (writeRec 0 2 1 1)

/-- A write of 64 zero lines whose extent exists and whose credit does not. -/
def waitFront : State :=
  withImage (recFront (writeRec 1 2 64 (2 ^ 64 - 1))) ⟨1, 0, [[], [], [], [], [], [], [], [], testSec 40 [(1, 1, 1), (24, 8, 4096)]]⟩

/-- One line of the mirror's write may be admitted on tile 0. -/
def admitState : State :=
  (withImage openRoom ⟨1, 0, [testSec 41 [(32, 8, 1), (40, 1, 1)], [], [], [], [], [], [], [], testSec 40 [(1, 1, 1), (24, 8, 4096)]]⟩).setUnspent 2 1
def admitWrite : RxWrite := ⟨2, 0, 0, 1, 1, false, false, false, [0], 0, 0⟩

/-- A DATA record of one line in front. -/
def dataFront (w : Option RxWrite) : State :=
  (recFront (leBytes 1 2 ++ leBytes 1 0 ++ leBytes 1 1 ++ leBytes 5 0 ++ List.replicate 64 0)).updMtx fun m => { m with wr := w }

/-- The partner's region is adopted. -/
def adoptedState : State :=
  (withDomains (withImage (inState .serve) ⟨1, 0, [[], testSec 96 [(88, 8, 4096)]]⟩) 2 (2 ^ 24 + 2 ^ 25 + 2 ^ 26)).set MTX_ADOPT_ACTIVE 1

/-- One task in a state, waiting a million beats at most. -/
def aTask (st : TaskSt) : Task := ⟨0, 3, 0, true, 1000000, 0, false, 0, 0, 0, 0, none, 0, st, 0, false, false, 0, false, false, false, 0⟩
def taskState (st : TaskSt) : State := (inState .serve).updDsp fun d => { d with tasks := [aTask st] }

/-- Tile 0 serves. -/
def tileState : State := (withDomains (withDomains (inState .serve) 0 0xFFFFFFFF) 1 0xFFFFFFFF).updDsp fun d => { d with tested := true }

/-- The steward's submission registers hold a task. -/
def submitState : State := (tileState.set (DSP_SUB_BYTES 0 .stw) 3).set (DSP_SUB_BYTES 3 .stw) 7

/-- The role record names the slots 0, 1 and 2. -/
def roledState (o : OpState) : State := withFlash (withDomains (inState o) 2 (2 ^ 31)) (cellSector 2 * 65536) (cellBytes 2 1 (Roles.bytes ⟨0, 1, 2, 0⟩))

/-- A validated shade may be swapped in. -/
def swappable : State :=
  (((roledState .serve).set STI_STATUS_SHADE 3).set STI_STATUS_SWAP 0).updSti fun t => { t with shade := some Image.empty }

/-- Slot 1 may be exported under the escrow key of slot 2. -/
def exportState : State :=
  (withImage (inState .serve) ⟨1, 0, [[], [], [], [], [], [], [], [], [], [], testSec 136 [(5, 1, 2)]]⟩).updDge fun d => { d with
    slots := [(1, ⟨some (List.replicate 32 0), 1, false, 0, 1⟩), (2, ⟨some (List.replicate 32 0), 1, false, 0, 0⟩)] }

/-- The escrow slot 2 is empty and its policy lets an escrow key in. -/
def newEscrow : State := withImage (inState .serve) ⟨1, 0, [[], [], [], [], [], [], [], [], [], [], testSec 136 [(5, 1, 2), (17, 1, 2)]]⟩

/-- A key cell record without slots. -/
def keyCellState : State := withFlash (withDomains State.reset 2 (2 ^ 30 + 2 ^ 31)) (cellSector 6 * 65536) (cellBytes 6 1 [])


/-- BOOT with the control section in force and one energy module present. -/
def bootable : State :=
  (withImage (inState .boot) ⟨1, 0, [[], [], [], testSec 176 [(0, 1, 20)]]⟩).set LDG_BANKREL_PRESENT 1

/-- One DIMM of 32 GiB and one rank in the first slot of each channel. -/
def oneDimms : List Dimm := (List.range 8).map fun c => ⟨BitVec.ofNat 3 c, 0, true, true, true, false, 32, 1, 16⟩

/-- Rank 0 is in use, rank 1 a spare, and the retirement of rank 0 is asked for. -/
def retirable : State :=
  (((inState .serve).set (CCH_RANK_STATE 0) 1).set (CCH_RANK_STATE 1) 2).updCch fun c => { c with retReq := [0] }

/-- Rank 0 is copied to rank 1 in full. -/
def cuttable : State :=
  ((inState .serve).updCch fun c => { c with ret := some ⟨0, 1, 64, 64, [], 0, 0, 0⟩ }).updGlb fun g => { g with beat := 1 }

/-- A trained population, its ranks laid out. -/
def ranked : State := (((inState .boot).setB CCH_CFG_SIZE32 true).setB CCH_STATUS_POP_OK true).layRanks

/-- A parameter page of module 0. -/
def aPage : ParamPage := ⟨0, 0, 0, true, 0, 0, 0, 0, 0, 0⟩

/-- Sixteen flits of zeros as one group, its tag in the last of them. -/
def groupFlits (tag : List Byte) : List LFlit :=
  ⟨0, 3, List.replicate 304 0⟩ :: (List.replicate 14 ⟨1, 1, List.replicate 304 0⟩ ++ [⟨15, 1, List.replicate 288 0 ++ tag⟩])

/-- They stand in the queue of a session. -/
def groupState (tag : List Byte) : State :=
  (State.reset.set MTX_STATUS_SESSION 2).updMlk fun m => { m with rx := groupFlits tag }

/-- The tag that the group's bytes have under the empty key. -/
def groupTag : List Byte := gcmTag (aesKeys []) (beBytes 8 0) (beBytes 8 0 ++ beBytes 2 0 ++ List.replicate 6 0) (List.replicate 4848 0)

/-- The partner's region is adopted and the ports answer at full speed. -/
def answering : State :=
  ((withImage awake ⟨1, 0, [[], testSec 96 [(88, 8, 4096)]]⟩).set MTX_ADOPT_ACTIVE 1).updHp fun h => { h with up := ⟨true, true⟩, fast := ⟨true, true⟩ }

/-- Equal flits of zeros hold zeros. -/
theorem flitZeros (n m : Nat) : (List.replicate n (⟨1, 1, List.replicate m 0⟩ : LFlit)).flatMap LFlit.data = List.replicate (n * m) 0 := by
  induction n with
  | zero => simp
  | succ n ih =>
    rw [List.replicate_succ, List.flatMap_cons, ih, List.replicate_append_replicate]
    congr 1
    rw [Nat.succ_mul, Nat.add_comm]

/-- The group's bytes are zeros and the tag. -/
theorem groupFlits_data (tag : List Byte) : (groupFlits tag).flatMap LFlit.data = List.replicate 4848 0 ++ tag := by
  rw [groupFlits, List.flatMap_cons, List.flatMap_append, flitZeros, List.flatMap_cons, List.flatMap_nil, List.append_nil]
  show List.replicate 304 0 ++ (List.replicate (14 * 304) 0 ++ (List.replicate 288 0 ++ tag)) = _
  rw [← List.append_assoc, ← List.append_assoc, List.replicate_append_replicate, List.replicate_append_replicate]

/-- The group opens under the session's first key. -/
theorem groupState_opens :
    (groupState groupTag).sessionUp = true ∧ (groupState groupTag).mtx.plain = [] ∧
    (groupState groupTag).mlk.rx.take 16 = groupFlits groupTag ∧ (groupFlits groupTag).map LFlit.txf = 3 :: List.replicate 15 1 ∧
    gcmOpen (groupState groupTag).mtx.keyRx ((groupState groupTag).mtx.saltRx ++ beBytes 8 (groupState groupTag).mtx.gRx)
      (beBytes 8 (groupState groupTag).mtx.gRx ++ beBytes 2 ((groupFlits groupTag).getD 0 ⟨0, 0, []⟩).seq ++ List.replicate 6 0)
      (((groupFlits groupTag).flatMap LFlit.data).take 4848) (((groupFlits groupTag).flatMap LFlit.data).drop 4848) =
    some (gcmCrypt [] (beBytes 8 0) (List.replicate 4848 0)) := by
  refine ⟨rfl, rfl, rfl, rfl, ?_⟩
  rw [groupFlits_data, List.take_left' List.length_replicate, List.drop_left' List.length_replicate]
  exact if_pos rfl

/-- Pool 0 takes in every tile. -/
def poolImage : Image := ⟨1, 0, [testSec 8 [(0, 8, 2 ^ 64 - 1)]]⟩

/-- A ready task of pool 0 may be picked by tile 0. -/
def pickable : State := withImage (taskState .ready) poolImage

/-- Tile 0 may steal a ready task of priority 4 from its neighbour. -/
def stealable : State :=
  ((withImage (tileState.updDsp fun d => { d with tasks := [{ aTask .ready with tid := 1, prio := 4, pin := false, tile := 1 }] }) poolImage).setB
    DSP_CTRL_STEAL_EN true)

/-- The configuration flash is scanned and its domain is on. -/
def flashable : State := (withDomains State.reset 2 (2 ^ 31)).updCfl fun c => { c with ready := true }

/-- The steward may start. -/
def startable : State := (withDomains State.reset 2 (2 ^ 29 + 2 ^ 31)).updCfl fun c => { c with ready := true }
/-! Each check refuses an ill-formed command, and lets its neighbour pass. -/

theorem test_check_domain : (Instr.domainShed 96).check = some .domain ∧ (Instr.domainShed 95).check = none := by decide
theorem test_check_rail : (Instr.offDelayExpiry 48).check = some .rail ∧ (Instr.offDelayExpiry 47).check = none := by decide
theorem test_check_speeds : (Instr.dramTraining [] [0]).check = some .speeds ∧ (Instr.dramTraining [] (List.replicate 8 0)).check = none := by decide
theorem test_check_scan : (Instr.scanComplete (List.replicate 65 0) 0).check = some .scan := by decide
theorem test_check_sensors : (Instr.sensorRead (List.replicate 16 0) []).check = some .sensors := by decide
theorem test_check_data : (Instr.updateData none 0 (List.replicate 1025 0)).check = some .data := by decide
theorem test_check_line : (Instr.cxlMemRead .pa 32 0 0).check = some .line ∧ (Instr.cxlMemRead .pa 64 0 0).check = none := by decide
theorem test_check_word : (Instr.readClear .stw 2).check = some .word ∧ (Instr.readClear .stw 4).check = none ∧
    (Instr.registerWrite .stw (.wide 2 0) 0 15 []).check = some .word := by decide
theorem test_check_levels : (Instr.chunkReadComplete 0 0 0 0 0 0 []).check = some .levels := by decide
theorem test_check_errors : (Instr.scrub 0 0 false [0]).check = some .errors := by decide

/-- The state of a next state, for the tests. -/
def after (c : Instr) (s : State) (p : State → Bool) : Bool :=
  match exec c s with
  | .next t => p t
  | _ => false

/-! One step each on a small state; what is expected stands in the rule named. -/

/-- R23: a trip in SERVE starts GRACE. -/
theorem test_trip_grace : after .inmonTrip (inState .serve) (fun t => t.glb.st = .grace && (t.evr.ring.map Rec.code).contains 0x0601) = true := by decide
/-- R212: the input is back for 50 beats of a grace. -/
theorem test_ride_through : after .rideThrough ((inState .grace).updGlb fun g => { g with backBeats := 50 }) (fun t => t.glb.st = .serve) = true := by decide
/-- R42: a beat of 400 cycles begins again. -/
theorem test_beat_count : after (.beatBoundary true true false 0 0) (State.reset.updGlb fun g => { g with cycle := 399 }) (fun t => t.glb.beat = 1 && t.glb.cycle = 0) = true := by decide
/-- R472: a stray write is counted and recorded. -/
theorem test_stray_write : after (.unassignedAccess .hostA 0x3C true true) awake (fun t => t.get GLB_ACCERR_COUNT = 1 && t.evr.ring.map Rec.code = [0x0101]) = true := by decide
/-- R475: of writes of one cycle the steward's stands. -/
theorem test_same_cycle : after (.registerWrite .stw (.space 0x34) 1 15 [(.hostB, 2, 15), (.hostA, 4, 15)]) awake (fun t => t.word .hostA 0x34 = 1) = true := by decide
/-- R22: before BOOT no host is answered. -/
theorem test_unanswered : exec (.registerWrite .hostA (.space 0x34) 0 15 []) State.reset = .next State.reset := rfl
/-- R477: the counter of stray accesses clears for every agent. -/
theorem test_read_clear : after (.readClear .stw 0x38) (State.reset.set GLB_ACCERR_COUNT 5) (fun t => t.get GLB_ACCERR_COUNT = 0 && t.out = [.regData .stw 0x38 5]) = true := by decide
/-- R474: a write of an RW field reads back, and the bits above it are dropped. -/
theorem test_register_write : after (.registerWrite .hostB (.space 0x34) 0xF8 15 []) awake (fun t => t.word .hostA 0x34 = 8) = true := by decide
/-- R483: with the lock set the interrupt mask keeps its value. -/
theorem test_lock : after (.registerWrite .hostA (.space 0x28) 0 15 []) (awake.set (GLB_LOCK_LOCK .hostA) 1) (fun t => t.word .hostA 0x28 = 0xFFFFFFFF) = true := by decide
/-- R64: the upper half of the same instant goes into the agent's shadow. -/
theorem test_latch : after (.loReadLatch .hostA 0x14 true) (awake.updGlb fun g => { g with beat := 0x500000007 }) (fun t => t.out = [.regData .hostA 0x18 5, .regData .hostA 0x14 7]) = true := by decide
/-- R498: the identity code. -/
theorem test_idcode : after .jtagIdcode State.reset (fun t => t.out = [.jtag 0x1410056B 32]) = true := by decide
/-- R515: a write outside every window completes and is recorded. -/
theorem test_write_outside : after (.cxlMemWrite .pa 0 1 1 false 9) openState (fun t => t.out = [.wrCpl .pa 9] && t.evr.ring.map Rec.code = [0x0207]) = true := by decide
/-- R74: a binding of a free decoder is stored. -/
theorem test_bind : after (.pqBindWrite .pb 2 0x0000000B) awake (fun t => t.get (PQ_BIND_CLASS 1 2) = 3 && t.get (PQ_BIND_VALID 1 2) = 1) = true := by decide
/-- R462: the query register answers for the code written. -/
theorem test_severity : after (.severityQuery 0x0404) State.reset (fun t => t.word .hostA 0xE0024 = 0x70404) = true := by decide
/-- R456: the identities 0 and 0xFF are refused. -/
theorem test_endpoint : after (.setEndpointId 0xFF) (State.reset.set STW_STATUS_RUN 2) (fun t => t.stw.eid = State.reset.stw.eid && t.out = [.sideband 1 2 []]) = true := by decide

theorem witness_FrontCommandIsExecuted_step :
    ({ State.reset with pending := [.jtagIdcode] } : State).pending = .jtagIdcode :: [] := by decide

theorem witness_EmptyQueuePassesOneCycle_idle :
    State.reset.pending = [] := by decide

theorem witness_NoCommandTouchesTheQueue_all :
    exec .jtagIdcode State.reset = .next ((State.reset.updHp fun h => { h with jtagIr := 1 }).emit (.jtag 0x1410056B 32)) := rfl

theorem witness_EveryStepKeepsASoundState_all :
    State.reset.Inv ∧ step State.reset = .next (State.reset.updGlb fun g => { g with cycle := 1 }) := ⟨⟨by decide, by decide, by decide, by decide, by decide, by decide⟩, rfl⟩

theorem witness_HostLinkAndPortReset_trained :
    (linkable.hp.perst.get .pa = false ∧ linkable.domOn 80 = true ∧ linkable.domOn 82 = true ∧ linkable.glb.beatSrc = false) := by decide

theorem witness_HostLinkAndPortReset_trainedIs :
    ∃ (p : Port) (fast : Bool) (s : State), (¬ (s.hp.perst.get p ∨ !(s.domOn (80 + p.num) && s.domOn (82 + p.num)) ∨ s.glb.beatSrc)) := ⟨.pa, true, (awake.updHp fun h => { h with perst := ⟨false, true⟩ }), by decide⟩

theorem witness_WritesAdmittedOrHeld_closed :
    State.reset.portOpen .pa = false := by decide

theorem witness_WritesAdmittedOrHeld_outside :
    openState.portOpen .pa = true ∧ openState.window .pa 0 = none := by decide

theorem witness_WritesAdmittedOrHeld_held :
    openWindow.portOpen .pa = true ∧ openWindow.window .pa 0 = some (3, 0) ∧ openWindow.admits ⟨.pa, 3, 0, 0, 1, false, 0, 0⟩ = false ∧ (openWindow.heldOf .pa).length < 256 := by decide

theorem witness_WritesAdmittedOrHeld_admitted :
    openRoom.portOpen .pa = true ∧ openRoom.window .pa 0 = some (3, 0) ∧ openRoom.heldAhead .pa 3 = false ∧ openRoom.admits ⟨.pa, 3, 0, 0, 1, false, 0, 0⟩ = true ∧ openRoom.mirrored 3 = false := by decide

theorem witness_WritesAdmittedOrHeld_drainHeld :
    oneHeld.serving = true ∧ oneHeld.pq.held = [⟨.pa, 3, 0, 0, 0, false, 7, 0⟩] ∧ oneHeld.admits ⟨.pa, 3, 0, 0, 0, false, 7, 0⟩ = true := by decide

theorem witness_WritesAdmittedOrHeld_span :
    longHeld.serving = true ∧ longHeld.heldLong .pb = true ∧ longHeld.pq.span.get .pb = false := by decide

theorem witness_WritesAdmittedOrHeld_admittedIs :
    ∃ (p : Port) (hpa : BitVec 52) (data : Line) (mask : ByteMask) (poison : Bool) (tag : BitVec 16) (s : State) (c ca : Nat), (¬ (!s.portOpen p)) ∧ (s.window p hpa.toNat = some (c, ca)) ∧ (!s.heldAhead p c && s.admits (⟨p, c, ca / 64, data, mask, poison, tag.toNat, s.glb.beat⟩)) := ⟨.pa, 0, 0, 1, false, 0, openRoom, 3, 0, by decide⟩

theorem witness_BeatBoundaryAndBoundWrites_bound :
    ∃ (s : State) (b : BoundWrite), Store.wf 0 s.regs = true ∧ s.glb.bound = [b] ∧ b.due ≤ s.glb.beat := ⟨State.reset.bindWrite LDG_CTRL_UMBER_IRQ 1 |>.updGlb fun g => { g with beat := 1 }, _, by decide, rfl, by decide⟩

theorem witness_BeatBoundaryAndBoundWrites_waits :
    ∃ s : State, s.glb.bound ≠ [] ∧ ∀ b ∈ s.glb.bound, s.glb.beat < b.due := ⟨State.reset.bindWrite LDG_CTRL_UMBER_IRQ 1, by decide, by decide⟩

theorem witness_OnlyBoundariesAndVddaonMoveTheBeat_all :
    ∃ (c : Instr) (s t : State), (∀ a b d e f, c ≠ .beatBoundary a b d e f) ∧ (∀ v, c ≠ .vddaonPowerOn v) ∧ c ≠ .vddaonLoss ∧ exec c s = .next t := ⟨.creditPublication, State.reset, _, nofun, nofun, nofun, rfl⟩

theorem witness_TimerSourceAndPublication_loss :
    ∃ (s : State), s.glb.beatSrc = false ∧ s.get MLK_STATUS_LSTATE = 0 := ⟨State.reset, by decide⟩

theorem witness_TimerSourceAndPublication_lossAgain :
    ∃ s : State, s.glb.beatSrc = true := ⟨State.reset.updGlb fun g => { g with beatSrc := true }, rfl⟩

theorem witness_TimerSourceAndPublication_back :
    ∃ (s : State), s.glb.cycle = 0 ∧ s.glb.beatSrc = true ∧ 100 ≤ s.glb.refBeats := ⟨State.reset.updGlb fun g => { g with beatSrc := true, refBeats := 100 }, by decide⟩

theorem witness_TimerSourceAndPublication_backNo :
    ∃ (s : State), ¬(s.glb.cycle = 0 ∧ s.glb.beatSrc = true ∧ 100 ≤ s.glb.refBeats) := ⟨State.reset, by decide⟩

theorem witness_TimerSourceAndPublication_credit :
    ∃ s : State, Store.wf 0 s.regs = true ∧ s.glb.published = false ∧ s.pq.held = [] ∧ s.drn.stop = false ∧ s.sti.active ≠ none ∧ s.glb.st ≠ .powerup := ⟨(State.reset.updGlb fun g => { g with st := .serve }).updSti fun x => { x with active := some ⟨0, 0, []⟩ }, by decide⟩

theorem witness_TimerSourceAndPublication_again :
    ∃ s : State, s.glb.published = true := ⟨State.reset.updGlb fun g => { g with published := true }, rfl⟩

theorem witness_TimerSourceAndPublication_stale :
    ∃ (s : State), s.testStale = true ∧ s.bit LDG_STATUS_STALE = false := ⟨(State.reset.updLdg fun l => { l with test := some ⟨0, 0, 15, 0⟩ }).updGlb fun g => { g with beat := 1 }, by decide⟩

theorem witness_TimerSourceAndPublication_staleNo :
    ∃ (s : State), ¬(s.testStale = true ∧ s.bit LDG_STATUS_STALE = false) := ⟨State.reset, by decide⟩

theorem witness_TimerSourceAndPublication_creditIs :
    ∃ (s : State), (¬ (s.glb.published)) ∧ ((((s.publishCredit (s.drn.stop && decide (s.glb.beat ≤ s.drn.stopBeat))).updGlb fun g => { g with published := true }).resume).serving) := ⟨(State.reset.updGlb fun g => { g with st := .serve }), by decide⟩

theorem witness_TimerSourceAndPublication_creditElse :
    ∃ (s : State), (¬ (s.glb.published)) ∧ (¬ ((((s.publishCredit (s.drn.stop && decide (s.glb.beat ≤ s.drn.stopBeat))).updGlb fun g => { g with published := true }).resume).serving)) := ⟨State.reset, by decide⟩

theorem witness_ReadsDecodersAndBindings_closed :
    State.reset.portOpen .pa = false := by decide

theorem witness_ReadsDecodersAndBindings_outside :
    openState.portOpen .pa = true ∧ openState.window .pa 0 = none := by decide

theorem witness_ReadsDecodersAndBindings_restored :
    openWindow.portOpen .pa = true ∧ openWindow.window .pa 0 = some (3, 0) ∧ openWindow.entriesOf 0 = [] ∧ openWindow.inDram 0 = true ∧ openWindow.lineLost 0 = false := by decide

theorem witness_ReadsDecodersAndBindings_commit :
    ∃ (s : State) (p : Port) (k : BitVec 2) (base size : BitVec 52), s.answers p.agent = true ∧ s.commitFine p k.toNat base.toNat size.toNat = true := ⟨(awake.set (PQ_BIND_CLASS 0 0) 3).set (PQ_BIND_VALID 0 0) 1, .pa, 0, 0, 0#52, by decide⟩

theorem witness_ReadsDecodersAndBindings_commitBad :
    ∃ (s : State) (p : Port) (k : BitVec 2) (base size : BitVec 52), s.answers p.agent = true ∧ s.commitFine p k.toNat base.toNat size.toNat = false := ⟨awake, .pa, 0, 0, 0#52, by decide⟩

theorem witness_ReadsDecodersAndBindings_uncommit :
    awake.answers .hostA = true := by decide

theorem witness_ReadsDecodersAndBindings_bind :
    ∃ (s : State) (p : Port) (k : BitVec 2) (w : Word), s.answers p.agent = true ∧ (s.decoder p k.toNat).committed = false ∧ Store.wf 0 s.regs = true := ⟨awake, .pa, 0, 0#32, by decide⟩

theorem witness_ReadsDecodersAndBindings_bound :
    (openWindow.decoder .pa 0).committed = true := by decide

theorem witness_StampsAndPersistentFlush_lo :
    awake.answers .hostA = true := by decide

theorem witness_StampsAndPersistentFlush_frozen :
    awake.answers .hostA = true ∧ (awake.setB PQ_STATUS_HZ_FROZEN true).answers .hostA = true ∧ (awake.setB PQ_STATUS_HZ_FROZEN true).bit PQ_STATUS_HZ_FROZEN = true := by decide

theorem witness_StampsAndPersistentFlush_stale :
    awake.answers .hostA = true ∧ awake.bit PQ_STATUS_HZ_FROZEN = false ∧ (0#32).toNat + 2 ^ 32 * (0#32).toNat ≤ awake.pq.lastStamp.get .pa := by decide

theorem witness_StampsAndPersistentFlush_commits :
    awake.answers .hostA = true ∧ Store.wf 0 awake.regs = true ∧ awake.bit PQ_STATUS_HZ_FROZEN = false ∧ awake.get MTX_STATUS_SESSION = 0 ∧ awake.pq.lastStamp.get .pa < awake.pq.stampLo.get .pa + 2 ^ 32 * (1#32).toNat ∧ awake.pq.stampLo.get .pa < 2 ^ 32 ∧ awake.pq.lastMirror ≤ awake.acked ∧ awake.pq.pend.get .pa = [] := by decide

theorem witness_StampsAndPersistentFlush_foreign :
    awake.answers .hostB = true ∧ Port.pa ≠ .pb := by decide

theorem witness_StampsAndPersistentFlush_gpf :
    (awake.updHp fun h => { h with up := ⟨true, false⟩, fast := ⟨true, false⟩ }).answersFast .pa = true := by decide

theorem witness_StampsAndPersistentFlush_commitsIs :
    ∃ (g : Agent) (p : Port) (hi : Word) (lo : Option Word) (s : State), (¬ (!s.answers g)) ∧ (¬ (g ≠ p.agent)) ∧ (¬ (s.bit PQ_STATUS_HZ_FROZEN)) ∧ (s.pq.lastStamp.get p < ((match lo with | some w => w.toNat | none => s.pq.stampLo.get p) + 2 ^ 32 * hi.toNat)) := ⟨.hostA, .pa, 1, none, awake, by decide⟩

theorem witness_MemoryDeviceMailbox_identify :
    awake.answers .hostA = true := by decide

theorem witness_MemoryDeviceMailbox_health :
    awake.answers .hostA = true := by decide

theorem witness_MemoryDeviceMailbox_timeIs :
    ∃ (p : Port) (ns : BitVec 64) (s : State), (¬ (!s.answers p.agent)) := ⟨.pa, 0, awake, by decide⟩

theorem witness_DramLinesReadBackAsStored_read :
    State.reset.lineLost 0 = false := by decide

theorem witness_DramLinesReadBackAsStored_lost :
    (State.reset.updDrn fun d => { d with lostRanks := 1 }).lineLost 0 = true := by decide

theorem witness_ControlSampleOffAndFixedPoint_off :
    State.reset.sampleIndex < 400 / State.reset.sampleCycles ∧ State.reset.sampleCycles ≠ 8 ∧ Store.wf 0 State.reset.regs = true ∧ State.reset.mode = 0 ∧ State.reset.ctl.hand = 0 ∧ State.reset.ctl.hold = 0 := by decide

theorem witness_ControlSampleOffAndFixedPoint_law :
    ∃ (codes : BitVec 96) (s : State), s.sampleIndex < 400 / s.sampleCycles ∧ (s.sampleCycles ≠ 8 ∨ s.sampleIndex % 5 ≠ 1) ∧ Store.wf 0 s.regs = true ∧ (s.mode = 1 ∨ s.mode = 2 ∨ s.mode = 3) ∧ s.ctl.hand = 0 ∧
      s.ctl.hold = 0 ∧ s.bit CTL_STATUS_FMT = false ∧ s.ctl.bf = none ∧ s.ctl.ht = none ∧
      (∀ p, p < s.img.phases → ((s.senseOf codes).il.getD p 0).natAbs < 16 * s.img.iphTrip) ∧
      (s.senseOf codes).vbus < 16 * (s.img.vbusOv : Int) ∧ (s.senseOf codes).vbank < 16 * ((s.img.vchgMax : Int) + 1000) ∧
      0 < codeOf codes 4 ∧ codeOf codes 4 < 4095 ∧ 0 < codeOf codes 6 ∧ codeOf codes 6 < 4095 := ⟨quietCodes, imaged.setMode 1, by decide⟩

theorem witness_ControlSampleOffAndFixedPoint_sampleIs :
    ∃ (codes : BitVec 96) (s : State), (¬ (400 / s.sampleCycles ≤ s.sampleIndex)) ∧ (¬ (s.sampleCycles = 8 ∧ s.sampleIndex % 5 = 1)) := ⟨quietCodes, imaged, by decide⟩

theorem witness_ControlSampleOffAndFixedPoint_sampleOld :
    ∃ (codes : BitVec 96) (s : State), (¬ (400 / s.sampleCycles ≤ s.sampleIndex)) ∧ (s.sampleCycles = 8 ∧ s.sampleIndex % 5 = 1) := ⟨quietCodes, (withImage State.reset ⟨1, 0, [[], [], [], testSec 176 [(0, 1, 8)]]⟩).updCtl fun c => { c with sample := 1 }, by decide⟩

theorem witness_ControlSampleOffAndFixedPoint_sampleNone :
    ∃ (codes : BitVec 96) (s : State), (400 / s.sampleCycles ≤ s.sampleIndex) := ⟨quietCodes, State.reset.updCtl fun c => { c with sample := 40 }, by decide⟩

theorem witness_ProtectiveTripAndFaultRestart_trip :
    ∃ (codes : BitVec 96) (s : State) (p : Nat), Store.wf 0 s.regs = true ∧ s.mode = 2 ∧ s.ctl.hold = 0 ∧ s.ctl.ht = none ∧
      s.ctl.bf = none ∧ s.bit CTL_STATUS_FMT = false ∧ p < s.img.phases ∧ 16 * s.img.iphTrip ≤ ((s.senseOf codes).il.getD p 0).natAbs := ⟨BitVec.allOnes 96, imaged.setMode 2, 0, by decide⟩

theorem witness_ProtectiveTripAndFaultRestart_quiet :
    ∃ (codes : BitVec 96) (s : State), s.mode = 2 ∧ (∀ p, p < s.img.phases → ((s.senseOf codes).il.getD p 0).natAbs < 16 * s.img.iphTrip) ∧
      (s.senseOf codes).vbus < 16 * (s.img.vbusOv : Int) ∧ (s.senseOf codes).vbank < 16 * ((s.img.vchgMax : Int) + 1000) ∧
      0 < codeOf codes 4 ∧ codeOf codes 4 < 4095 ∧ 0 < codeOf codes 6 ∧ codeOf codes 6 < 4095 := ⟨quietCodes, imaged.setMode 2, by decide⟩

theorem witness_ProtectiveTripAndFaultRestart_held :
    State.reset.ctl.hold ≠ 41 := by decide

theorem witness_ProtectiveTripAndFaultRestart_restart :
    ∃ s : State, Store.wf 0 s.regs = true ∧ s.ctl.hold = 41 ∧ s.mode = 1 ∧ s.ctl.hand ≠ 1 ∧ s.bit CTL_CTRL_CHG_EN = true ∧ s.ctl.bf = none := ⟨(State.reset.setMode 1).updCtl fun c => { c with hold := 41 }, by decide⟩

theorem witness_ProtectiveTripAndFaultRestart_restartDis :
    ∃ s : State, Store.wf 0 s.regs = true ∧ s.ctl.hold = 41 ∧ s.mode = 2 := ⟨(State.reset.setMode 2).updCtl fun c => { c with hold := 41 }, by decide⟩

theorem witness_ProtectiveTripAndFaultRestart_tripIs :
    ∃ (codes : BitVec 96) (shoot : Bool) (s : State), (¬ (shoot ∧ s.comparing)) := ⟨0, false, State.reset, by decide⟩

theorem witness_ProtectiveTripAndFaultRestart_tripShoot :
    ∃ (codes : BitVec 96) (shoot : Bool) (s : State), (shoot ∧ s.comparing) := ⟨0, true, State.reset.setMode 1, by decide⟩

theorem witness_ProtectiveTripAndFaultRestart_restartIs :
    ∃ (s : State), (¬ (s.ctl.hold ≠ 41)) ∧ (s.mode = 2) := ⟨(State.reset.setMode 2).updCtl fun c => { c with hold := 41 }, by decide⟩

theorem witness_ProtectiveTripAndFaultRestart_restartChg :
    ∃ (s : State), (¬ (s.ctl.hold ≠ 41)) ∧ (¬ (s.mode = 2)) ∧ (¬ (s.mode = 0 ∨ s.ctl.hand = 1 ∨ s.ctl.hand = 3)) ∧ (¬ (s.mode = 4)) := ⟨(State.reset.setMode 1).updCtl fun c => { c with hold := 41 }, by decide⟩

theorem witness_BlockFloatingPointRunsAndSetPoints_start :
    ∃ (s : State), (s.mode = 1 ∨ s.mode = 2) ∧ s.ctl.hand = 0 ∧ s.ctl.hold = 0 ∧ s.get CTL_CTRL_BF_EN = 1 ∧ s.get CTL_STATUS_FMT ≠ 1 ∧
        s.ctl.bf = none ∧ s.get CTL_BF_FAILS < 8 ∧ s.ctl.runFrom + 1001 ≤ s.glb.beat := ⟨((State.reset.setMode 1).set CTL_CTRL_BF_EN 1).updGlb fun g => { g with beat := 1001 }, by decide⟩

theorem witness_BlockFloatingPointRunsAndSetPoints_startNo :
    ∃ (s : State), ¬((s.mode = 1 ∨ s.mode = 2) ∧ s.ctl.hand = 0 ∧ s.ctl.hold = 0 ∧ s.get CTL_CTRL_BF_EN = 1 ∧ s.get CTL_STATUS_FMT ≠ 1 ∧
        s.ctl.bf = none ∧ s.get CTL_BF_FAILS < 8 ∧ s.ctl.runFrom + 1001 ≤ s.glb.beat) := ⟨State.reset, by decide⟩

theorem witness_BlockFloatingPointRunsAndSetPoints_short :
    ∃ (s : State) (b : BfRun), s.ctl.bf = some b ∧ b.n < 64 := ⟨State.reset.updCtl fun c => { c with bf := some ⟨0, 0, c.nums, c.nums⟩ }, _, rfl, by decide⟩

theorem witness_BlockFloatingPointRunsAndSetPoints_passed :
    ∃ (s : State) (b : BfRun), s.ctl.bf = some b ∧ 64 ≤ b.n ∧ s.bit CTL_CTRL_BF_EN = true ∧ b.bad = 0 := ⟨(State.reset.setB CTL_CTRL_BF_EN true).updCtl fun c => { c with bf := some ⟨64, 0, c.nums, c.nums⟩ }, _, rfl, by decide, by decide, rfl⟩

theorem witness_BlockFloatingPointRunsAndSetPoints_failed :
    ∃ (s : State) (b : BfRun), s.ctl.bf = some b ∧ 64 ≤ b.n ∧ s.bit CTL_CTRL_BF_EN = true ∧ b.bad ≠ 0 := ⟨(State.reset.setB CTL_CTRL_BF_EN true).updCtl fun c => { c with bf := some ⟨64, 1, c.nums, c.nums⟩ }, _, rfl, by decide, by decide, by decide⟩

theorem witness_HealthTestBeginsOrIsRefused_begins :
    ∃ s : State, s.ctl.ht = none ∧ s.ctl.bf = none ∧ s.glb.st = .serve ∧ s.get LDG_STATUS_ZONE = 0 ∧ s.mode = 1 ∧ s.ctl.hand ≠ 1 ∧ 1000 ≤ s.ctl.nearRun ∧
        s.get LDG_BANKREL_PENDING = 0 := ⟨(((State.reset.setMode 1).set LDG_STATUS_ZONE 0).updGlb fun g => { g with st := .serve }).updCtl fun c => { c with nearRun := 1000 }, by decide⟩

theorem witness_HealthTestBeginsOrIsRefused_refused :
    ∃ s : State, ¬(s.ctl.ht = none ∧ s.glb.st = .serve ∧ s.get LDG_STATUS_ZONE = 0 ∧ s.mode = 1 ∧ s.ctl.hand ≠ 1 ∧ 1000 ≤ s.ctl.nearRun ∧
        s.get LDG_BANKREL_PENDING = 0) := ⟨State.reset, by decide⟩

theorem witness_HealthTestBeginsOrIsRefused_scheduled :
    ∃ s : State, s.get CTL_HT_CTRL_HOURS ≠ 0 ∧ s.ctl.htRef + s.get CTL_HT_CTRL_HOURS * 3600000000 + 1 ≤ s.glb.beat ∧ s.ctl.htWant = false := ⟨(State.reset.set CTL_HT_CTRL_HOURS 1).updGlb fun g => { g with beat := 3600000001 }, by decide⟩

theorem witness_HealthTestBeginsOrIsRefused_schedIs :
    ∃ (s : State), (s.get CTL_HT_CTRL_HOURS ≠ 0 ∧ s.expired s.ctl.htRef (s.get CTL_HT_CTRL_HOURS * 3600000000) ∧ !s.ctl.htWant) := ⟨(State.reset.set CTL_HT_CTRL_HOURS 1).updGlb fun g => { g with beat := 3600000001 }, by decide⟩

theorem witness_HealthTestBeginsOrIsRefused_notYet :
    State.reset.get CTL_HT_CTRL_HOURS = 0 ∨ State.reset.glb.beat ≤ State.reset.ctl.htRef + State.reset.get CTL_HT_CTRL_HOURS * 3600000000 := by decide

theorem witness_HealthTestBeginsOrIsRefused_retry :
    ∃ s : State, s.ctl.htWant = true ∧ s.ctl.htTry + 1001 ≤ s.glb.beat := ⟨(State.reset.updCtl fun c => { c with htWant := true }).updGlb fun g => { g with beat := 1001 }, by decide⟩

theorem witness_HealthTestBeginsOrIsRefused_abort :
    ∃ (s : State) (h : HtRun), s.ctl.ht = some h ∧ h.step < 5 ∧ Store.wf 0 s.regs = true ∧ s.bit CTL_CTRL_CHG_EN = true := ⟨State.reset.updCtl fun c => { c with ht := some ⟨1, 0, 0, 0, 0, 0, 0, 0⟩ }, _, rfl, by decide⟩

theorem witness_HealthTestBeginsOrIsRefused_abortIs :
    ∃ (s : State) (h : HtRun), s.ctl.ht = some h ∧ h.step < 5 := ⟨State.reset.updCtl fun c => { c with ht := some ⟨1, 0, 0, 0, 0, 0, 0, 0⟩ }, _, rfl, by decide⟩

theorem witness_HealthTestBeginsOrIsRefused_stepEnd :
    ∃ (s : State) (h : HtRun), s.ctl.ht = some h ∧ s.mode = 3 ∧ (h.step = 1 ∧ s.img.htRamp ≤ h.k ∨ h.step = 2 ∧ s.img.htN ≤ h.k) := ⟨(State.reset.setMode 3).updCtl fun c => { c with ht := some ⟨1, 5, 0, 0, 0, 0, 0, 0⟩ }, _, rfl, by decide⟩

theorem witness_HealthTestBeginsOrIsRefused_recharged :
    ∃ (s : State) (h : HtRun), s.ctl.ht = some h ∧ h.step = 5 ∧ s.mode = 1 ∧ s.ctl.hand = 0 ∧ s.nearVchg = true := ⟨(State.reset.setMode 1).updCtl fun c => { c with ht := some ⟨5, 0, 0, 0, 0, 0, 0, 0⟩ }, _, rfl, by decide⟩

theorem witness_EqualiseOfEnergyModules_go :
    ∃ (mod : BitVec 2) (s : State), Store.wf 0 s.regs = true ∧ s.eqMay mod.toNat = true ∧ s.mode = 1 ∧ s.ctl.hand = 0 ∧ s.ctl.eq = none ∧ s.ctl.eqWant = [] ∧ s.ctl.ht = none ∧ s.ctl.bf = none := ⟨0, ((State.reset.setMode 1).set LDG_BANKREL_PRESENT 1).updGlb fun g => { g with st := .serve }, by decide⟩

theorem witness_EqualiseOfEnergyModules_goNo :
    ∃ (mod : BitVec 2) (s : State), s.eqMay mod.toNat = false := ⟨0, State.reset, by decide⟩

theorem witness_EqualiseOfEnergyModules_goIs :
    ∃ (mod : BitVec 2) (s : State), s.eqMay mod.toNat := ⟨0, ((State.reset.setMode 1).set LDG_BANKREL_PRESENT 1).updGlb fun g => { g with st := .serve }, by decide⟩

theorem witness_EqualiseOfEnergyModules_done :
    ∃ (s : State) (e : EqRun), s.ctl.eq = some e ∧ e.boot = false ∧ e.met = e.mods ∧ s.mode = 4 ∧ Store.wf 0 s.regs = true := ⟨(State.reset.setMode 4).updCtl fun c => { c with eq := some ⟨1, false, 0, [], 0, 1⟩ }, _, rfl, by decide⟩

theorem witness_EqualiseOfEnergyModules_timeout :
    ∃ (s : State) (e : EqRun), s.ctl.eq = some e ∧ e.boot = false ∧ s.expired e.start s.img.eqBeats = true ∧ s.mode = 4 ∧ Store.wf 0 s.regs = true := ⟨((State.reset.setMode 4).updCtl fun c => { c with eq := some ⟨1, false, 0, [], 0, 0⟩ }).updGlb fun g => { g with beat := 1 }, _, rfl, by decide⟩

theorem witness_EqualiseOfEnergyModules_boot :
    ∃ s : State, Store.wf 0 s.regs = true ∧ s.glb.st = .boot ∧ s.ctlValid = true ∧ s.ctl.eqDone = false ∧ s.ctl.eq = none ∧ s.mode = 0 ∧ s.get LDG_BANKREL_PRESENT ≠ 0 := ⟨bootable, by decide⟩

theorem witness_EqualiseOfEnergyModules_bootIs :
    ∃ (s : State), (s.glb.st = .boot ∧ s.ctlValid ∧ !s.ctl.eqDone ∧ s.ctl.eq.isNone ∧ s.mode = 0) ∧ (¬ ((s.get LDG_BANKREL_PRESENT) = 0)) := ⟨bootable, by decide⟩

theorem witness_EqualiseOfEnergyModules_bootEnd :
    ∃ (s : State) (e : EqRun), s.ctl.eq = some e ∧ e.boot = true ∧ (e.met = e.mods ∨ s.expired e.start s.img.eqBeats = true) ∧ s.mode = 4 ∧ Store.wf 0 s.regs = true := ⟨(State.reset.setMode 4).updCtl fun c => { c with eq := some ⟨1, true, 0, [], 0, 1⟩ }, _, rfl, by decide⟩

theorem witness_EqualiseOfEnergyModules_doneIs :
    ∃ (s : State) (e : EqRun), (s.ctl.eq = some e) ∧ (¬ (e.boot ∨ e.met ≠ e.mods ∨ s.mode ≠ 4)) := ⟨(State.reset.setMode 4).updCtl fun c => { c with eq := some ⟨1, false, 0, [], 0, 1⟩ }, ⟨1, false, 0, [], 0, 1⟩, by decide⟩

theorem witness_EqualiseOfEnergyModules_timeoutIs :
    ∃ (s : State) (e : EqRun), (s.ctl.eq = some e) ∧ (¬ (e.boot ∨ !s.expired e.start s.img.eqBeats ∨ s.mode ≠ 4)) := ⟨((State.reset.setMode 4).updCtl fun c => { c with eq := some ⟨1, false, 0, [], 0, 0⟩ }).updGlb fun g => { g with beat := 1 }, ⟨1, false, 0, [], 0, 0⟩, by decide⟩

theorem witness_EqualiseOfEnergyModules_bootEndIs :
    ∃ (s : State) (e : EqRun), (s.ctl.eq = some e) ∧ (¬ (!e.boot ∨ s.mode ≠ 4 ∨ (e.met ≠ e.mods ∧ !s.expired e.start s.img.eqBeats))) := ⟨(State.reset.setMode 4).updCtl fun c => { c with eq := some ⟨1, true, 0, [], 0, 1⟩ }, ⟨1, true, 0, [], 0, 1⟩, by decide⟩

theorem witness_EqualiseOfEnergyModules_none :
    State.reset.ctl.eq = none := by decide

theorem witness_RehearsalsOfTheDrain_go :
    ∃ s : State, s.rehMay = true ∧ 1048576 ≤ s.get (CCH_DIRTY_GRANULES (if s.ldg.rehNext = 3 then 4 else s.ldg.rehNext)) := ⟨rehearsable.set (CCH_DIRTY_GRANULES 0) 1048576, by decide⟩

theorem witness_RehearsalsOfTheDrain_few :
    ∃ s : State, s.rehMay = true ∧ s.get (CCH_DIRTY_GRANULES (if s.ldg.rehNext = 3 then 4 else s.ldg.rehNext)) < 1048576 := ⟨rehearsable, by decide⟩

theorem witness_RehearsalsOfTheDrain_not :
    State.reset.rehMay = false := by decide

theorem witness_RehearsalsOfTheDrain_scheduled :
    ∃ s : State, s.rehMay = true ∧ s.get LDG_REH_HOURS ≠ 0 ∧ s.bit LDG_CTRL_REH_AUTO = true ∧ s.ldg.rehSince + s.get LDG_REH_HOURS * 3600000000 + 1 ≤ s.glb.beat := ⟨((rehearsable.set LDG_REH_HOURS 1).setB LDG_CTRL_REH_AUTO true).updGlb fun g => { g with beat := 3600000001 }, by decide⟩

theorem witness_RehearsalsOfTheDrain_goIs :
    ∃ (s : State), s.rehMay := ⟨rehearsable, by decide⟩

theorem witness_RehearsalsOfTheDrain_schedIs :
    ∃ (s : State), (s.get LDG_REH_HOURS ≠ 0 ∧ s.bit LDG_CTRL_REH_AUTO ∧ s.expired s.ldg.rehSince (s.get LDG_REH_HOURS * 3600000000) ∧ s.rehMay) := ⟨((rehearsable.set LDG_REH_HOURS 1).setB LDG_CTRL_REH_AUTO true).updGlb fun g => { g with beat := 3600000001 }, by decide⟩

theorem witness_RehearsalsOfTheDrain_endIs :
    ∃ (s : State) (r : Rehearsal), (s.ldg.rehRun = some r) ∧ (¬ (!s.expired r.start 20000)) := ⟨(State.reset.updLdg fun l => { l with rehRun := some ⟨0, 0, 4096, false, 0⟩ }).updGlb fun g => { g with beat := 20001 }, ⟨0, 0, 4096, false, 0⟩, by decide⟩

theorem witness_RehearsalsOfTheDrain_wait :
    ∃ (s : State) (r : Rehearsal), s.ldg.rehRun = some r ∧ s.glb.beat ≤ r.start + 20000 := ⟨State.reset.updLdg fun l => { l with rehRun := some ⟨0, 0, 0, false, 0⟩ }, _, rfl, by decide⟩

theorem witness_RehearsalsOfTheDrain_end :
    ∃ (s : State) (r : Rehearsal), s.ldg.rehRun = some r ∧ r.start + 20001 ≤ s.glb.beat ∧ 0 < r.bytes ∧ Store.wf 0 s.regs = true := ⟨(State.reset.updLdg fun l => { l with rehRun := some ⟨0, 0, 4096, false, 0⟩ }).updGlb fun g => { g with beat := 20001 }, _, rfl, by decide⟩

theorem witness_EnergyModuleReleaseAndAbsence_release :
    ∃ (s : State) (mod : BitVec 2), s.glb.st = .serve ∧ bitOf (s.get LDG_BANKREL_COUNTED &&& (15 ^^^ s.ldg.dropNext)) mod.toNat = true ∧
        s.get LDG_BANKREL_COUNTED &&& (15 ^^^ s.ldg.dropNext) ≠ 2 ^ mod.toNat := ⟨(State.reset.set LDG_BANKREL_COUNTED 3).updGlb fun g => { g with st := .serve }, 0, by decide⟩

theorem witness_EnergyModuleReleaseAndAbsence_releaseNo :
    ∃ (s : State) (mod : BitVec 2), ¬(s.glb.st = .serve ∧ bitOf (s.get LDG_BANKREL_COUNTED &&& (15 ^^^ s.ldg.dropNext)) mod.toNat = true ∧
        s.get LDG_BANKREL_COUNTED &&& (15 ^^^ s.ldg.dropNext) ≠ 2 ^ mod.toNat) := ⟨State.reset, 0, by decide⟩

theorem witness_EnergyModuleReleaseAndAbsence_cancel :
    ∃ (s : State) (mod : BitVec 2), bitOf (s.get LDG_BANKREL_PENDING) mod.toNat = true := ⟨State.reset.set LDG_BANKREL_PENDING 1, 0, by decide⟩

theorem witness_EnergyModuleReleaseAndAbsence_cancelNo :
    ∃ (s : State) (mod : BitVec 2), ¬(bitOf (s.get LDG_BANKREL_PENDING) mod.toNat = true) := ⟨State.reset, 0, by decide⟩

theorem witness_EnergyModuleReleaseAndAbsence_released :
    ∃ (s : State) (mod : BitVec 2), s.glb.st = .serve ∧ bitOf (s.get LDG_BANKREL_PENDING) mod.toNat = true ∧ bitOf (s.get LDG_BANKREL_COUNTED) mod.toNat = false ∧ 100 ≤ s.ldg.whiteRun := ⟨((inState .serve).set LDG_BANKREL_PENDING 1).updLdg fun l => { l with whiteRun := 100 }, 0, by decide⟩

theorem witness_EnergyModuleReleaseAndAbsence_releasedNo :
    ∃ (s : State) (mod : BitVec 2), ¬(s.glb.st = .serve ∧ bitOf (s.get LDG_BANKREL_PENDING) mod.toNat = true ∧ bitOf (s.get LDG_BANKREL_COUNTED) mod.toNat = false ∧ 100 ≤ s.ldg.whiteRun) := ⟨State.reset, 0, by decide⟩

theorem witness_EnergyModuleReleaseAndAbsence_absent :
    ∃ (s : State) (mod : BitVec 2), bitOf (s.get LDG_BANKREL_COUNTED) mod.toNat = true ∧ bitOf (s.get LDG_BANKREL_PRESENT) mod.toNat = false := ⟨State.reset.set LDG_BANKREL_COUNTED 1, 0, by decide⟩

theorem witness_EnergyModuleReleaseAndAbsence_absentNo :
    ∃ (s : State) (mod : BitVec 2), ¬(bitOf (s.get LDG_BANKREL_COUNTED) mod.toNat = true ∧ bitOf (s.get LDG_BANKREL_PRESENT) mod.toNat = false) := ⟨State.reset, 0, by decide⟩

theorem witness_InputTripByState_serve :
    ∃ s : State, Store.wf 0 s.regs = true ∧ s.glb.st = .serve := ⟨State.reset.updGlb fun g => { g with st := .serve }, by decide⟩

theorem witness_InputTripByState_others :
    ∃ s t : State, s.glb.st = .grace ∧ t.glb.st = .sealed := ⟨State.reset.updGlb fun g => { g with st := .grace }, State.reset.updGlb fun g => { g with st := .sealed }, by decide⟩

theorem witness_InputTripByState_serveIs :
    ∃ (s : State), s.glb.st = .serve := ⟨(State.reset.updGlb fun g => { g with st := .serve }), by decide⟩

theorem witness_InputTripByState_early :
    ∃ s : State, s.glb.st = .boot ∨ s.glb.st = .restore := ⟨State.reset.updGlb fun g => { g with st := .boot }, by decide⟩

theorem witness_InputTripByState_powerup :
    State.reset.glb.st = .powerup := by decide

theorem witness_DrainEntryAndRideThrough_collapse :
    ∃ s : State, s.glb.st = .grace := ⟨State.reset.updGlb fun g => { g with st := .grace }, rfl⟩

theorem witness_DrainEntryAndRideThrough_timer :
    ∃ s : State, s.glb.cycle = 0 ∧ s.glb.st = .grace ∧ s.expired s.drn.graceStart s.drn.graceLen = true := ⟨State.reset.updGlb fun g => { g with st := .grace, beat := 1 }, by decide⟩

theorem witness_DrainEntryAndRideThrough_collapseIs :
    ∃ (s : State), s.glb.st = .grace := ⟨(State.reset.updGlb fun g => { g with st := .grace }), by decide⟩

theorem witness_DrainEntryAndRideThrough_collapseNo :
    State.reset.glb.st ≠ .grace := by decide

theorem witness_DrainEntryAndRideThrough_timerIs :
    ∃ (s : State), s.glb.cycle = 0 ∧ s.glb.st = .grace ∧ s.expired s.drn.graceStart s.drn.graceLen = true := ⟨(State.reset.updGlb fun g => { g with st := .grace, beat := 1 }), by decide⟩

theorem witness_DrainEntryAndRideThrough_timerNo :
    ¬(State.reset.glb.cycle = 0 ∧ State.reset.glb.st = .grace ∧ State.reset.expired State.reset.drn.graceStart State.reset.drn.graceLen = true) := by decide

theorem witness_DrainEntryAndRideThrough_ride :
    ∃ s : State, Store.wf 0 s.regs = true ∧ s.glb.cycle = 0 ∧ s.glb.st = .grace ∧ 50 ≤ s.glb.backBeats ∧ s.expired s.drn.graceStart s.drn.graceLen = false := ⟨State.reset.updGlb fun g => { g with st := .grace, backBeats := 50 }, by decide⟩

theorem witness_DrainEntryAndRideThrough_rideIs :
    ∃ (s : State), s.glb.cycle = 0 ∧ s.glb.st = .grace ∧ 50 ≤ s.glb.backBeats ∧ s.expired s.drn.graceStart s.drn.graceLen = false := ⟨(State.reset.updGlb fun g => { g with st := .grace, backBeats := 50 }), by decide⟩

theorem witness_DrainEntryAndRideThrough_rideNo :
    ¬(State.reset.glb.cycle = 0 ∧ State.reset.glb.st = .grace ∧ 50 ≤ State.reset.glb.backBeats ∧ State.reset.expired State.reset.drn.graceStart State.reset.drn.graceLen = false) := by decide

theorem witness_DrainWindowsFenceAndExtents_window :
    ∃ s : State, s.glb.st = .drain ∧ s.bit DRN_STATUS_MWIN = true ∧ s.expired s.drn.start (s.get DRN_MRX_BEATS) = true := ⟨(State.reset.setB DRN_STATUS_MWIN true).updGlb fun g => { g with st := .drain, beat := 100000000 }, by decide⟩

theorem witness_DrainWindowsFenceAndExtents_windowIs :
    ∃ (s : State), s.glb.st = .drain ∧ s.bit DRN_STATUS_MWIN = true ∧ s.expired s.drn.start (s.get DRN_MRX_BEATS) = true := ⟨((State.reset.setB DRN_STATUS_MWIN true).updGlb fun g => { g with st := .drain, beat := 100000000 }), by decide⟩

theorem witness_DrainWindowsFenceAndExtents_windowNo :
    State.reset.glb.st ≠ .drain := by decide

theorem witness_DrainWindowsFenceAndExtents_fence :
    ∃ s : State, s.glb.st = .drain ∧ s.drn.sendsEnded = false ∧ s.sessionUp = true ∧ s.mtx.pendSync = none ∧ s.pq.entries.all (fun e => e.sent) = true := ⟨(State.reset.set MTX_STATUS_SESSION 2).updGlb fun g => { g with st := .drain }, by decide⟩

theorem witness_DrainWindowsFenceAndExtents_fenceIs :
    ∃ (s : State), s.glb.st = .drain ∧ s.drn.sendsEnded = false ∧ s.sessionUp = true ∧ s.mtx.pendSync = none ∧ s.pq.entries.all (fun e => e.sent) = true := ⟨((State.reset.set MTX_STATUS_SESSION 2).updGlb fun g => { g with st := .drain }), by decide⟩

theorem witness_DrainWindowsFenceAndExtents_fenceNo :
    State.reset.glb.st ≠ .drain := by decide

theorem witness_DrainWindowsFenceAndExtents_extentNo :
    State.reset.glb.st ≠ .drain := by decide

theorem witness_DrainWindowsFenceAndExtents_extentIs :
    ∃ (f : BitVec 40) (n : BitVec 32) (s : State), s.glb.st = .drain ∧ s.drn.open_.contains (s.rankAt f.toNat) = true ∧ s.passStopped (s.get DRN_STATUS_PASS) = false ∧ s.get DRN_STATUS_PASS < 7 := ⟨0, 0, (State.reset.updGlb fun g => { g with st := .drain }).updDrn fun d => { d with open_ := [State.reset.rankAt 0] }, by decide⟩

theorem witness_DrainWindowsFenceAndExtents_complete :
    ∃ (g : BitVec 40) (s : State) (f : InFlight), (s.vlt.inflight.find? fun x => x.kind = 1 && x.granule = g.toNat) = some f := ⟨5, State.reset.updVlt fun v => { v with inflight := [⟨0, 0, 0, 5, 1, 0⟩] }, _, rfl⟩

theorem witness_DrainWindowsFenceAndExtents_completeIs :
    ∃ (g : BitVec 40) (s : State) (f : InFlight), (s.vlt.inflight.find? fun x => x.kind = 1 && x.granule = g.toNat) = some f := ⟨5, State.reset.updVlt fun v => { v with inflight := [⟨0, 0, 0, 5, 1, 0⟩] }, _, rfl⟩

theorem witness_DrainWindowsFenceAndExtents_completeNo :
    (State.reset.vlt.inflight.find? fun x => x.kind = 1 && x.granule = 5) = none := by decide

theorem witness_DrainWindowsFenceAndExtents_floor :
    ∃ (c : BitVec 10) (s : State), s.glb.st = .drain ∧ c.toNat < s.get SEQ_BANKMON_DFLOOR ∧ s.drn.stopExt ≠ 2 ∧ s.get DRN_STATUS_PASS ≤ 8 ∧ s.drn.crownLeft = 0 ∧ s.drn.crowned = false := ⟨0, ((State.reset.updGlb fun g => { g with st := .drain }).set SEQ_BANKMON_DFLOOR 5), by decide⟩

theorem witness_DrainWindowsFenceAndExtents_floorNo :
    ¬(State.reset.glb.st = .drain ∧ (0#10).toNat < State.reset.get SEQ_BANKMON_DFLOOR ∧ State.reset.drn.stopExt ≠ 2 ∧ State.reset.get DRN_STATUS_PASS ≤ 8 ∧ State.reset.drn.crownLeft = 0 ∧ State.reset.drn.crowned = false) := by decide

theorem witness_CrownAndWarmResume_writeNo :
    State.reset.glb.st ≠ .drain := by decide

theorem witness_CrownAndWarmResume_writeIs :
    ∃ (s : State), s.glb.st = .drain ∧ s.get DRN_STATUS_PASS = 8 ∧ s.drn.crownLeft = 0 ∧ s.drn.crowned = false ∧ (s.vlt.inflight.any fun f => f.kind = 1) = false ∧ s.slotRoom = false ∧ (s.dgeTake .crown).1 = true := ⟨((State.reset.updGlb fun g => { g with st := .drain }).set DRN_STATUS_PASS 8), by decide⟩

theorem witness_CrownAndWarmResume_writeWaits :
    ∃ (s : State), s.glb.st = .drain ∧ s.get DRN_STATUS_PASS = 8 ∧ s.drn.crownLeft = 0 ∧ s.drn.crowned = false ∧ (s.vlt.inflight.any fun f => f.kind = 1) = false ∧ s.slotRoom = false ∧ (s.dgeTake .crown).1 = false := ⟨(((State.reset.updGlb fun g => { g with st := .drain }).set DRN_STATUS_PASS 8).updDge fun d => { d with owner := some ⟨.host .stw, 0, 0, 100, [], 0⟩, compressing := true }), by decide⟩

theorem witness_CrownAndWarmResume_completeIs :
    ∃ (s : State), s.glb.st = .drain ∧ s.drn.crownLeft ≠ 0 := ⟨((State.reset.updGlb fun g => { g with st := .drain }).updDrn fun d => { d with crownLeft := 3 }), by decide⟩

theorem witness_CrownAndWarmResume_complete :
    ∃ s : State, s.glb.st = .drain ∧ s.drn.crownLeft ≠ 0 := ⟨(State.reset.updGlb fun g => { g with st := .drain }).updDrn fun d => { d with crownLeft := 3 }, by decide⟩

theorem witness_CrownAndWarmResume_resume :
    ∃ s : State, s.glb.cycle = 0 ∧ s.glb.st = .drain ∧ s.drn.crowned = true ∧ s.drn.decided = 0 ∧ 50 ≤ s.glb.backBeats ∧ s.bit DRN_STATUS_PD_BEGUN = false ∧ s.drn.lostRanks = 0 := ⟨(State.reset.updGlb fun g => { g with st := .drain, backBeats := 50 }).updDrn fun d => { d with crowned := true }, by decide⟩

theorem witness_CrownAndWarmResume_resumeIs :
    ∃ (s : State), s.glb.cycle = 0 ∧ s.glb.st = .drain ∧ s.drn.crowned = true ∧ s.drn.decided = 0 ∧ 50 ≤ s.glb.backBeats ∧ s.bit DRN_STATUS_PD_BEGUN = false ∧ s.drn.lostRanks = 0 := ⟨((State.reset.updGlb fun g => { g with st := .drain, backBeats := 50 }).updDrn fun d => { d with crowned := true }), by decide⟩

theorem witness_CrownAndWarmResume_resumeNo :
    ¬(State.reset.glb.cycle = 0 ∧ State.reset.glb.st = .drain ∧ State.reset.drn.crowned = true ∧ State.reset.drn.decided = 0) := by decide

theorem witness_CrownAndWarmResume_serve :
    ∃ s : State, s.glb.cycle = 0 ∧ s.glb.st = .restore ∧ s.drn.toSealed = false ∧ s.rst.warm = true ∧ s.domsUp = true := ⟨(domless.updGlb fun g => { g with st := .restore }).updRst fun r => { r with warm := true }, by decide⟩

theorem witness_CrownAndWarmResume_serveIs :
    ∃ (s : State), s.glb.cycle = 0 ∧ s.glb.st = .restore ∧ s.drn.toSealed = false ∧ s.rst.warm = true ∧ s.domsUp = true := ⟨(domless.updGlb fun g => { g with st := .restore }).updRst fun r => { r with warm := true }, by decide⟩

theorem witness_CrownAndWarmResume_serveNo :
    State.reset.glb.st ≠ .restore := by decide

theorem witness_CrownAndWarmResume_shedIs :
    ∃ (d : BitVec 7) (s : State), s.glb.st = .drain ∧ d.toNat < 64 ∧ s.domOn d.toNat = true ∧ s.shedNow d.toNat = true ∧ 2 ≤ s.tile d.toNat ∧ (s.shedGroup d.toNat).contains 88 = false ∧ (s.shedGroup d.toNat).contains 80 = false := ⟨0, ((State.reset.set (TIL_STATUS_STATE 0) 2).set (SEQ_DOMON_DOMAINS 0) 1).updGlb fun g => { g with st := .drain }, by decide⟩

theorem witness_CrownAndWarmResume_shedPort :
    ∃ (d : BitVec 7) (s : State), s.glb.st = .drain ∧ 64 ≤ d.toNat ∧ d.toNat < 96 ∧ s.domOn d.toNat = true ∧ s.shedNow d.toNat = true := ⟨84, (State.reset.set (SEQ_DOMON_DOMAINS 2) (2 ^ 20)).updGlb fun g => { g with st := .drain }, by decide⟩

theorem witness_CrownAndWarmResume_shed :
    ∃ (d : BitVec 7) (s : State), s.glb.st = .drain ∧ d.toNat < 64 ∧ s.domOn d.toNat = true ∧ s.shedNow d.toNat = true := ⟨0, (State.reset.set (SEQ_DOMON_DOMAINS 0) 1).updGlb fun g => { g with st := .drain }, by decide⟩

theorem witness_PowerUpAndPowerDown_begin :
    ∃ s : State, s.mayPowerUp = true := ⟨State.reset.updGlb fun g => { g with st := .sealed, backBeats := 50, beat := 50001, cycle := 0 }, by decide⟩

theorem witness_PowerUpAndPowerDown_beginIs :
    ∃ (s : State), s.mayPowerUp := ⟨(State.reset.updGlb fun g => { g with st := .sealed, backBeats := 50, beat := 50001 }), by decide⟩

theorem witness_PowerUpAndPowerDown_beginNo :
    State.reset.glb.backBeats = 0 := by decide

theorem witness_PowerUpAndPowerDown_complete :
    ∃ s : State, s.glb.cycle = 0 ∧ s.glb.st = .powerup ∧ s.get SEQ_STATUS_PHASE = 1 ∧ s.seq.offReq = false ∧ s.powerUpDone = true := ⟨(poweredState.set SEQ_STATUS_PHASE 1), by decide⟩

theorem witness_PowerUpAndPowerDown_completeIs :
    ∃ (s : State), (s.atBoundary ∧ s.glb.st = .powerup ∧ s.get SEQ_STATUS_PHASE = 1 ∧ !s.seq.offReq ∧ s.powerUpDone) := ⟨poweredState.set SEQ_STATUS_PHASE 1, by decide⟩

theorem witness_PowerUpAndPowerDown_completeNo :
    ¬(State.reset.get SEQ_STATUS_PHASE = 1) := by decide

theorem witness_PowerUpAndPowerDown_holdEnd :
    ∃ (s : State), s.get SEQ_STATUS_PHASE = 4 ∧ s.seq.belowWarn = true ∧ 1 ≤ s.glb.backBeats := ⟨((State.reset.set SEQ_STATUS_PHASE 4).updSeq fun q => { q with belowWarn := true }).updGlb fun g => { g with backBeats := 1 }, by decide⟩

theorem witness_PowerUpAndPowerDown_holdEndNo :
    ∃ (s : State), ¬(s.get SEQ_STATUS_PHASE = 4 ∧ s.seq.belowWarn = true ∧ 1 ≤ s.glb.backBeats) := ⟨State.reset, by decide⟩

theorem witness_PowerUpAndPowerDown_coreStop :
    ∃ (s : State) (n b : Nat), s.glb.cycle = 0 ∧ s.seq.offCur = some (n, b) ∧ s.seq.coreStop = true ∧ b < s.glb.beat ∧ s.coreStopRails = [] := ⟨(State.reset.updSeq fun q => { q with offCur := some (0, 0), coreStop := true }).updGlb fun g => { g with beat := 1 }, 0, 0, rfl, rfl, rfl, by decide, by decide⟩

theorem witness_PowerUpAndPowerDown_offStepIs :
    ∃ (rail : BitVec 6) (s : State) (m b : Nat), (¬ (!s.atBoundary)) ∧ (s.seq.offCur = some (m, b)) ∧ (m = rail.toNat ∧ s.get SEQ_STATUS_PHASE = 3 ∧ !s.seq.coreStop ∧ s.expired b (s.offDly rail.toNat)) := ⟨4, (((State.reset.set SEQ_STATUS_PHASE 3).updSeq fun q => { q with offCur := some (4, 0) }).updGlb fun g => { g with beat := 100000000 }), 4, 0, by decide⟩

theorem witness_PowerUpAndPowerDown_sealedIs :
    ∃ (c : BitVec 10) (s : State), s.glb.st = .sealed ∧ c.toNat < s.get SEQ_BANKMON_SFLOOR ∧ s.mode ≠ 0 := ⟨0, ((State.reset.set SEQ_BANKMON_SFLOOR 1).setMode 2).updGlb fun g => { g with st := .sealed }, by decide⟩

theorem witness_PowerUpAndPowerDown_sealedFloor :
    ∃ (c : BitVec 10) (s : State), s.glb.st = .sealed ∧ c.toNat < s.get SEQ_BANKMON_SFLOOR ∧ s.mode ≠ 0 ∧ Store.wf 0 s.regs = true := ⟨0, ((State.reset.set SEQ_BANKMON_SFLOOR 1).setMode 2).updGlb fun g => { g with st := .sealed }, by decide⟩

theorem witness_ManualRailsDroopsAndSnapshots_on :
    ∃ (s : State) (rail : BitVec 6), s.manualMay rail.toNat = true := ⟨manualState, 4, by decide⟩

theorem witness_ManualRailsDroopsAndSnapshots_onNo :
    ∃ (s : State) (rail : BitVec 6), ¬(s.manualMay rail.toNat = true) := ⟨State.reset, 4, by decide⟩

theorem witness_ManualRailsDroopsAndSnapshots_off :
    ∃ (s : State) (rail : BitVec 6), s.manualMay rail.toNat = true := ⟨manualState, 4, by decide⟩

theorem witness_ManualRailsDroopsAndSnapshots_offNo :
    ∃ (s : State) (rail : BitVec 6), ¬(s.manualMay rail.toNat = true) := ⟨State.reset, 4, by decide⟩

theorem witness_ManualRailsDroopsAndSnapshots_repowerNo :
    State.reset.glb.st ≠ .serve := by decide

theorem witness_ManualRailsDroopsAndSnapshots_repower :
    ∃ (rail : BitVec 6) (s : State), s.glb.st = .serve ∧ rail.toNat < 48 ∧ s.railKind rail.toNat = 1 ∧ s.railOn rail.toNat = false ∧ s.railCore rail.toNat = false ∧ s.owned (s.railGroup rail.toNat) = false := ⟨4, sequencedState, by decide⟩

theorem witness_ManualRailsDroopsAndSnapshots_stretch :
    ∃ (g : BitVec 4) (s : State) (b : Nat), s.glb.cycle = 0 ∧ Store.get 0 s.seq.stretch g.toNat = b + 1 ∧ s.expired b (s.groupStretch g.toNat) = true := ⟨0, (State.reset.updSeq fun q => { q with stretch := [(0, 1)] }).updGlb fun g => { g with beat := 100000000 }, 0, rfl, rfl, rfl⟩

theorem witness_ManualRailsDroopsAndSnapshots_stretchNo :
    Store.get 0 State.reset.seq.stretch 0 = 0 := by decide

theorem witness_ManualRailsDroopsAndSnapshots_droop :
    ∃ (s : State) (t : BitVec 6), s.domOn t.toNat = true := ⟨State.reset.set (SEQ_DOMON_DOMAINS 0) 1, 0, by decide⟩

theorem witness_ManualRailsDroopsAndSnapshots_droopNo :
    ∃ (s : State) (t : BitVec 6), ¬(s.domOn t.toNat = true) := ⟨State.reset, 0, by decide⟩

theorem witness_ManualRailsDroopsAndSnapshots_release :
    ∃ (t : BitVec 6) (s : State), 4 ≤ s.droopsIn (quadrantOf t.toNat) ∧ (s.setB (SEQ_DROOPCNT_NOW t.toNat) false).droopsIn (quadrantOf t.toNat) < 4 := ⟨0, (((State.reset.setB (SEQ_DROOPCNT_NOW 0) true).setB (SEQ_DROOPCNT_NOW 1) true).setB (SEQ_DROOPCNT_NOW 2) true).setB (SEQ_DROOPCNT_NOW 3) true, by decide⟩

theorem witness_ManualRailsDroopsAndSnapshots_fabric :
    ∃ (s : State) (q : Nat), s.droopsIn q < 4 ∧ Store.get 0 s.seq.fabRel q < 400 * s.glb.beat + s.glb.cycle := ⟨State.reset.updGlb fun g => { g with beat := 1 }, 0, by decide⟩

theorem witness_ManualRailsDroopsAndSnapshots_snap :
    State.reset.answers .stw = true := by decide

theorem witness_ManualRailsDroopsAndSnapshots_repowerIs :
    ∃ (rail : BitVec 6) (s : State), (s.glb.st = .serve ∧ rail.toNat < 48 ∧ s.railKind rail.toNat = 1 ∧ !s.railOn rail.toNat ∧ !s.railCore rail.toNat ∧ !s.owned (s.railGroup rail.toNat)) := ⟨4, sequencedState, by decide⟩

theorem witness_ScansRailsAndDomains_scanNo :
    State.reset.seq.scanList = [] := by decide

theorem witness_ScansRailsAndDomains_scan :
    ∃ (codes : List (BitVec 12)) (s : State), s.glb.cycle = 0 ∧ s.seq.scanList ≠ [] ∧ s.seq.scanStart + cdiv s.seq.scanList.length 4 ≤ s.glb.beat ∧ s.seq.scanList.length ≤ codes.length := ⟨[5], (State.reset.updSeq fun q => { q with scanList := [63] }).updGlb fun g => { g with beat := 1 }, by decide⟩

theorem witness_ScansRailsAndDomains_scanQuiet :
    ∃ (codes : List (BitVec 12)) (s : State), s.glb.cycle = 0 ∧ s.seq.scanList ≠ [] ∧ s.seq.scanStart + cdiv s.seq.scanList.length 4 ≤ s.glb.beat ∧ s.seq.scanList.length ≤ codes.length ∧
      (∀ n ∈ s.seqRails, s.railScan n ∉ s.seq.scanList) ∧ s.seq.offReq = false ∧ s.sti.active = none ∧ s.ctl.eq = none ∧ s.glb.st ≠ .drain := ⟨[5], (State.reset.updSeq fun q => { q with scanList := [63] }).updGlb fun g => { g with beat := 1 }, by decide⟩

theorem witness_ScansRailsAndDomains_tonNo :
    State.reset.rail 0 ≠ 1 := by decide

theorem witness_ScansRailsAndDomains_ton :
    ∃ (rail : BitVec 6) (s : State), s.atBoundary = true ∧ s.rail rail.toNat = 1 ∧ s.railKind rail.toNat = 1 ∧ s.expired (s.railSt rail.toNat).start (s.railTon rail.toNat) = true := ⟨4, (sequencedState.setRail 4 1).updGlb fun g => { g with beat := 100000000 }, by decide⟩

theorem witness_ScansRailsAndDomains_settleNo :
    State.reset.rail 0 ≠ 2 := by decide

theorem witness_ScansRailsAndDomains_settle :
    ∃ (rail : BitVec 6) (s : State), s.atBoundary = true ∧ s.rail rail.toNat = 2 ∧ s.railKind rail.toNat = 1 ∧ s.seq.offReq = false ∧ s.expired (s.railSt rail.toNat).settle (s.railSettle rail.toNat) = true := ⟨4, (sequencedState.setRail 4 2).updGlb fun g => { g with beat := 100000000 }, by decide⟩

theorem witness_ScansRailsAndDomains_fdelayNo :
    State.reset.rail 0 ≠ 4 := by decide

theorem witness_ScansRailsAndDomains_fdelay :
    ∃ (rail : BitVec 6) (s : State), s.atBoundary = true ∧ s.rail rail.toNat = 4 ∧ s.expired (s.railSt rail.toNat).fault (s.railFDelay rail.toNat) = true := ⟨4, (sequencedState.setRail 4 4).updGlb fun g => { g with beat := 100000000 }, by decide⟩

theorem witness_ScansRailsAndDomains_scanIs :
    ∃ (codes : List (BitVec 12)) (pg : BitVec 48) (s : State), (¬ (!s.atBoundary ∨ s.seq.scanList = [] ∨ s.glb.beat < s.seq.scanStart + cdiv s.seq.scanList.length 4 ∨ codes.length < s.seq.scanList.length)) := ⟨[5], 0, (State.reset.updSeq fun q => { q with scanList := [63] }).updGlb fun g => { g with beat := 1 }, by decide⟩

theorem witness_ScansRailsAndDomains_tonIs :
    ∃ (rail : BitVec 6) (s : State), (s.atBoundary ∧ s.rail rail.toNat = 1 ∧ s.railKind rail.toNat = 1 ∧ s.expired (s.railSt rail.toNat).start (s.railTon rail.toNat)) := ⟨4, (((sequencedState.setRail 4 1)).updGlb fun g => { g with beat := 100000000 }), by decide⟩

theorem witness_ScansRailsAndDomains_settleIs :
    ∃ (rail : BitVec 6) (s : State), (s.atBoundary ∧ s.rail rail.toNat = 2 ∧ s.railKind rail.toNat = 1 ∧ s.expired (s.railSt rail.toNat).settle (s.railSettle rail.toNat)) := ⟨4, (((sequencedState.setRail 4 2)).updGlb fun g => { g with beat := 100000000 }), by decide⟩

theorem witness_ScansRailsAndDomains_fdelayIs :
    ∃ (rail : BitVec 6) (s : State), (s.atBoundary ∧ s.rail rail.toNat = 4 ∧ s.expired (s.railSt rail.toNat).fault (s.railFDelay rail.toNat)) := ⟨4, (((sequencedState.setRail 4 4)).updGlb fun g => { g with beat := 100000000 }), by decide⟩

theorem witness_ScansRailsAndDomains_domainIs :
    ∃ (d : BitVec 7) (s : State) (b : Nat), (Store.get 0 s.seq.domPend d.toNat = b + 1) ∧ s.expired b 8 := ⟨0, ((State.reset.updSeq fun q => { q with domPend := [(0, 1)] }).updGlb fun g => { g with beat := 9 }), 0, by decide⟩

theorem witness_ScansRailsAndDomains_faultIs :
    ∃ (d : BitVec 7) (s : State), (d.toNat < 96 ∧ s.domOn d.toNat) := ⟨0, State.reset.set (SEQ_DOMON_DOMAINS 0) 1, by decide⟩

theorem witness_ScansRailsAndDomains_domain :
    ∃ (d : BitVec 7) (s : State) (b : Nat), Store.get 0 s.seq.domPend d.toNat = b + 1 ∧ s.expired b 8 = true := ⟨0, (State.reset.updSeq fun q => { q with domPend := [(0, 1)] }).updGlb fun g => { g with beat := 9 }, 0, by decide⟩

theorem witness_ScansRailsAndDomains_fault :
    ∃ (d : BitVec 7) (s : State), d.toNat < 96 ∧ s.domOn d.toNat = true := ⟨0, State.reset.set (SEQ_DOMON_DOMAINS 0) 1, by decide⟩

theorem witness_DramTrainingRanksAndRetirement_trainBad :
    (inState .boot).glb.st = .boot ∧ populationOf [] = none := by decide

theorem witness_DramTrainingRanksAndRetirement_train :
    ∃ (dimms : List Dimm) (l : List (BitVec 2)) (s : State) (p : Bool × Bool × Bool), s.glb.st = .boot ∧ Store.wf 0 s.regs = true ∧ populationOf dimms = some p ∧ l ≠ [] ∧ ∀ x ∈ l, (if p.1 then 2 else 3) ≤ x.toNat := ⟨oneDimms, [3], inState .boot, (false, false, true), by decide⟩

theorem witness_DramTrainingRanksAndRetirement_trainIs :
    ∃ (dimms : List Dimm) (speeds : List (BitVec 2)) (s : State) (p : Bool × Bool × Bool), (¬ (s.glb.st ≠ .boot ∧ ¬(s.glb.st = .restore ∧ s.rst.coldRanks))) ∧ (populationOf dimms = some p) ∧ (¬ ((speeds.foldl (fun m x => min m x.toNat) (if p.1 then 2 else 3)) = 0)) ∧ (¬ ((speeds.foldl (fun m x => min m x.toNat) (if p.1 then 2 else 3)) < (if p.1 then 2 else 3))) := ⟨oneDimms, [3], inState .boot, (false, false, true), by decide⟩

theorem witness_DramTrainingRanksAndRetirement_window :
    ∃ s : State, s.get CCH_RET_WIN_BEATS ≠ 0 ∧ s.expired s.cch.winStart (s.get CCH_RET_WIN_BEATS) = true ∧ Store.wf 0 s.regs = true := ⟨(State.reset.set CCH_RET_WIN_BEATS 1).updGlb fun g => { g with beat := 2 }, by decide⟩

theorem witness_DramTrainingRanksAndRetirement_windowIs :
    ∃ (s : State), (s.get CCH_RET_WIN_BEATS ≠ 0 ∧ s.expired s.cch.winStart (s.get CCH_RET_WIN_BEATS)) := ⟨(State.reset.set CCH_RET_WIN_BEATS 1).updGlb fun g => { g with beat := 2 }, by decide⟩

theorem witness_DramTrainingRanksAndRetirement_windowNo :
    ¬(State.reset.expired State.reset.cch.winStart (State.reset.get CCH_RET_WIN_BEATS) = true) := by decide

theorem witness_DramTrainingRanksAndRetirement_retireNo :
    State.reset.retireReason 0 ≠ 0 := by decide

theorem witness_DramTrainingRanksAndRetirement_retire :
    ∃ (n : BitVec 5) (s : State), s.retireReason n.toNat = 0 ∧ bitOf s.sti.guardClasses 7 = false := ⟨0, ((State.reset.set (CCH_RANK_STATE 0) 1).set (CCH_RANK_STATE 1) 2).updGlb fun g => { g with st := .serve }, by decide⟩

theorem witness_DramTrainingRanksAndRetirement_beginNo :
    ∃ (s : State) (n : Nat) (rest : List Nat), s.glb.cycle = 0 ∧ bitOf s.sti.guardClasses 7 = false ∧ s.cch.retReq = n :: rest ∧ s.retireReason n ≠ 0 := ⟨State.reset.updCch fun c => { c with retReq := [0] }, 0, [], by decide⟩

theorem witness_DramTrainingRanksAndRetirement_begin :
    ∃ (s : State) (n : Nat) (rest : List Nat), s.glb.cycle = 0 ∧ bitOf s.sti.guardClasses 7 = false ∧ s.cch.retReq = n :: rest ∧ n < 32 ∧ s.retireReason n = 0 ∧ Store.wf 0 s.regs = true := ⟨retirable, 0, [], by decide⟩

theorem witness_DramTrainingRanksAndRetirement_beginIs :
    ∃ (s : State) (n k : Nat) (rest : List Nat), s.glb.cycle = 0 ∧ bitOf s.sti.guardClasses 7 = false ∧ s.cch.retReq = n :: rest ∧ s.retireReason n = 0 ∧ ((List.range 32).find? fun k => s.get (CCH_RANK_STATE k) = 2) = some k := ⟨retirable, 0, 1, [], by decide⟩

theorem witness_DramTrainingRanksAndRetirement_beginWaits :
    ∃ s : State, s.glb.cycle ≠ 0 ∨ bitOf s.sti.guardClasses 7 = true := ⟨State.reset.updSti fun x => { x with guardClasses := 128 }, by decide⟩

theorem witness_DramTrainingRanksAndRetirement_cutNo :
    State.reset.cch.ret = none := by decide

theorem witness_DramTrainingRanksAndRetirement_cut :
    ∃ (s : State) (r : Retire), (s.cch.ret = some r ∧ r.total ≤ r.copied ∧ s.glb.st = .serve ∧ s.glb.cycle = 0 ∧ r.doneBeat < s.glb.beat) ∧ r.src < 32 ∧ r.dst < 32 ∧ r.src ≠ r.dst ∧ Store.wf 0 s.regs = true := ⟨cuttable, ⟨0, 1, 64, 64, [], 0, 0, 0⟩, by decide⟩

theorem witness_DramTrainingRanksAndRetirement_cutIs :
    ∃ (s : State) (r : Retire), (s.cch.ret = some r) ∧ (¬ (r.copied < r.total ∨ s.glb.st ≠ .serve ∨ !s.atBoundary ∨ s.glb.beat ≤ r.doneBeat)) := ⟨cuttable, ⟨0, 1, 64, 64, [], 0, 0, 0⟩, by decide⟩

theorem witness_DramTrainingRanksAndRetirement_xlateIs :
    ∃ (hi : Word) (s : State) (n a : Nat), s.rankOf ((s.get CCH_XLATE_LO_CA + 2 ^ 32 * hi.toNat) / 4096) = some n ∧ s.rankOffset (s.get CCH_XLATE_LO_CA + 2 ^ 32 * hi.toNat) = some a := ⟨0, ranked, 0, 0, by decide⟩

theorem witness_ReadsFlushesAndScrub_clean :
    State.reset.lineLost 0 = false := by decide

theorem witness_ReadsFlushesAndScrub_flushNo :
    State.reset.qEntry 0 = none := by decide

theorem witness_ReadsFlushesAndScrub_flush :
    ∃ (id : BitVec 48) (s : State) (e : QEntry), s.qEntry id.toNat = some e ∧ e.issued = false ∧ (s.entriesOf e.line).find? (fun x => !x.issued) = some e ∧ s.oldShare e = false ∧ s.moverBusy e.tile < 64 := ⟨0, queuedState, queuedEntry, by decide⟩

theorem witness_ReadsFlushesAndScrub_flushed :
    ∃ (id : BitVec 48) (s : State) (e : QEntry), s.qEntry id.toNat = some e ∧ e.issued = false ∧ e.mask = fullMask ∧
      (s.entriesOf e.line).find? (fun x => !x.issued) = some e ∧ s.glb.st ≠ .drain ∧ s.inDram e.line = true ∧
      s.oldShare e = false ∧ s.moverBusy e.tile < 64 ∧ s.unrest (e.line / 64) = false ∧ Store.wf LineCell.zero s.cch.lines = true := ⟨0, queuedState, queuedEntry, by decide⟩

theorem witness_ReadsFlushesAndScrub_written :
    State.reset.qEntry 0 = none := by decide

theorem witness_ReadsFlushesAndScrub_completes :
    ∃ (id : BitVec 48) (s : State) (e : QEntry), s.qEntry id.toNat = some e ∧ e.issued = true ∧ e.flushed = false ∧ s.glb.st ≠ .drain := ⟨0, State.reset.updPq fun q => { q with entries := [{ queuedEntry with issued := true }] }, { queuedEntry with issued := true }, by decide⟩

theorem witness_ReadsFlushesAndScrub_scrubOut :
    State.reset.glb.st ≠ .serve := by decide

theorem witness_ReadsFlushesAndScrub_copyNone :
    ∃ s : State, s.glb.st = .serve ∧ s.cch.ret = none := ⟨State.reset.updGlb fun g => { g with st := .serve }, rfl, rfl⟩

theorem witness_ReadsFlushesAndScrub_patrolOff :
    ∃ s : State, s.glb.st = .serve ∧ s.get CCH_SCRUB_PASS_HOURS = 0 := ⟨(State.reset.updGlb fun g => { g with st := .serve }).set CCH_SCRUB_PASS_HOURS 0, by decide⟩

theorem witness_ReadsFlushesAndScrub_scrub :
    ∃ s : State, s.glb.st = .serve := ⟨State.reset.updGlb fun g => { g with st := .serve }, rfl⟩

theorem witness_ReadsFlushesAndScrub_flushIs :
    ∃ (id : BitVec 48) (err : Codeword) (tsBad : Bool) (tsFix : BitVec 6) (s : State) (e : QEntry), (s.qEntry id.toNat = some e) ∧ (¬ (e.issued ∨ ((s.entriesOf e.line).find? fun x => !x.issued) ≠ some e ∨ s.oldShare e ∨ 64 ≤ s.moverBusy e.tile)) ∧ (¬ (((if s.glb.st = .drain ∧ s.unrest (e.line / 64) then (s.underBeat (s.issueBeat fun k => k.ty = 1 && k.arg0 = e.id)).fetchDone (e.line / 64) else (s.underBeat (s.issueBeat fun k => k.ty = 1 && k.arg0 = e.id))).unrest (e.line / 64) && !(if s.glb.st = .drain ∧ s.unrest (e.line / 64) then (s.underBeat (s.issueBeat fun k => k.ty = 1 && k.arg0 = e.id)).fetchDone (e.line / 64) else (s.underBeat (s.issueBeat fun k => k.ty = 1 && k.arg0 = e.id))).inDram e.line) ∧ !(tsBad || e.mask = fullMask))) ∧ (¬ (((if s.glb.st = .drain ∧ s.unrest (e.line / 64) then (s.underBeat (s.issueBeat fun k => k.ty = 1 && k.arg0 = e.id)).fetchDone (e.line / 64) else (s.underBeat (s.issueBeat fun k => k.ty = 1 && k.arg0 = e.id))).unrest (e.line / 64) && !(if s.glb.st = .drain ∧ s.unrest (e.line / 64) then (s.underBeat (s.issueBeat fun k => k.ty = 1 && k.arg0 = e.id)).fetchDone (e.line / 64) else (s.underBeat (s.issueBeat fun k => k.ty = 1 && k.arg0 = e.id))).inDram e.line) ∧ !(if s.glb.st = .drain ∧ s.unrest (e.line / 64) then (s.underBeat (s.issueBeat fun k => k.ty = 1 && k.arg0 = e.id)).fetchDone (e.line / 64) else (s.underBeat (s.issueBeat fun k => k.ty = 1 && k.arg0 = e.id))).overlayRoom (e.line / 64))) := ⟨0, 0, false, 0, queuedState, queuedEntry, by decide⟩

theorem witness_ReadsFlushesAndScrub_patrolIs :
    ∃ (first : BitVec 40) (count : BitVec 32) (copy : Bool) (errs : List Codeword) (s : State), (¬ (s.glb.st ≠ .serve)) ∧ (¬ (copy)) ∧ (¬ (s.get CCH_SCRUB_PASS_HOURS = 0)) := ⟨0, 1, false, [], inState .serve, by decide⟩

theorem witness_ReadsFlushesAndScrub_copyIs :
    ∃ (first : BitVec 40) (count : BitVec 32) (copy : Bool) (errs : List Codeword) (s : State) (r : Retire), (¬ (s.glb.st ≠ .serve)) ∧ copy ∧ (s.cch.ret = some r) ∧ ((s.underBeat (s.issueBeat fun k => k.ty = 7)).copyAt r = first.toNat) := ⟨0, 1, true, [], ((inState .serve).updCch fun c => { c with ret := some ⟨0, 1, 0, 64, [], 0, 0, 0⟩ }), ⟨0, 1, 0, 64, [], 0, 0, 0⟩, by decide⟩

theorem witness_ChunksProgramsAndErases_chunk :
    ∃ (l : List (List Nat)) (s : State), s.modUp 0 = true ∧ s.goodLevel (s.rawChunk (chunkKey 0 0 0 0 0 0)) (l.take 1) = true := ⟨[[]], modState, by decide⟩

theorem witness_ChunksProgramsAndErases_chunkAway :
    ∃ s : State, s.modUp 0 = false ∧ s.rebuild 0 0 0 0 0 0 = none := ⟨State.reset, by decide⟩

theorem witness_ChunksProgramsAndErases_band :
    ∃ (blk : BitVec 14) (s : State), s.bit VLT_STATUS_READY = true ∧ s.img.crownBlocks ≤ blk.toNat ∧ blk.toNat < s.img.blocks ∧ s.bandFree blk.toNat = true ∧ s.openBandOf = none ∧ 3 ≤ ones 4 s.bandMods := ⟨3, bandable, by decide⟩

theorem witness_ChunksProgramsAndErases_bandNo :
    ones 4 State.reset.bandMods < 3 := by decide

theorem witness_ChunksProgramsAndErases_ckpt :
    ∃ s : State, s.bit VLT_STATUS_READY = true ∧ s.vlt.ckpt = none ∧ s.glb.st ≠ .drain ∧ s.get VLT_CKPT_MIB ≠ 0 ∧ 256 * s.get VLT_CKPT_MIB ≤ s.vlt.sinceCut := ⟨((State.reset.setB VLT_STATUS_READY true).set VLT_CKPT_MIB 1).updVlt fun v => { v with sinceCut := 256 }, by decide⟩

theorem witness_ChunksProgramsAndErases_ckptNo :
    State.reset.bit VLT_STATUS_READY = false := by decide

theorem witness_ChunksProgramsAndErases_seal :
    ∃ (s : State) (k : Ckpt), s.vlt.ckpt = some k ∧ k.done = true ∧ k.drain = false ∧ s.openBandOf = none := ⟨State.reset.updVlt fun v => { v with ckpt := some ⟨0, 0, [], true, false⟩ }, ⟨0, 0, [], true, false⟩, by decide⟩

theorem witness_ChunksProgramsAndErases_sealIs :
    ∃ (s : State) (k : Ckpt), (s.vlt.ckpt = some k) ∧ (k.done ∧ !k.drain ∧ !(match s.openBandOf with | some b => s.rowBusy b (b.next / max 1 (s.img.rowSlots b)) | none => false)) ∧ (s.dgeTake .crown).1 := ⟨State.reset.updVlt fun v => { v with ckpt := some ⟨0, 0, [], true, false⟩ }, ⟨0, 0, [], true, false⟩, by decide⟩

theorem witness_ChunksProgramsAndErases_sealNo :
    State.reset.vlt.ckpt = none := by decide

theorem witness_VaultTasksActOnlyWhenDue_trickleNo :
    State.reset.trickleMay 0 = false := by decide

theorem witness_VaultTasksActOnlyWhenDue_trickle :
    ∃ (g : BitVec 40) (s : State), s.trickleMay g.toNat = true ∧ s.tricklePace g.toNat = true ∧ s.dramMay 4 4096 = true := ⟨0, trickleable, by decide⟩

theorem witness_VaultTasksActOnlyWhenDue_trickleIs :
    ∃ (g : BitVec 40) (s : State), (¬ (!s.trickleMay g.toNat || !s.tricklePace g.toNat)) ∧ (¬ (!s.dramMay 4 4096)) := ⟨0, trickleable, by decide⟩

theorem witness_VaultTasksActOnlyWhenDue_done :
    ∃ (g : BitVec 40) (s : State) (f : InFlight), s.vlt.inflight.find? (fun f => f.kind = 0 && f.granule = g.toNat) = some f := ⟨0, State.reset.updVlt fun v => { v with inflight := [⟨5, 0, 0, 0, 0, 0⟩] }, _, rfl⟩

theorem witness_VaultTasksActOnlyWhenDue_copy :
    ∃ (g : BitVec 40) (s : State) (f : InFlight), s.vlt.inflight.find? (fun f => f.kind = 2 && f.granule = g.toNat) = some f := ⟨0, State.reset.updVlt fun v => { v with inflight := [⟨5, 0, 0, 0, 2, 0⟩] }, _, rfl⟩

theorem witness_VaultTasksActOnlyWhenDue_doneIs :
    ∃ (g : BitVec 40) (s : State) (f : InFlight), ((s.vlt.inflight.find? fun f => f.kind = 0 && f.granule = g.toNat) = some f) := ⟨0, State.reset.updVlt fun v => { v with inflight := [⟨5, 0, 0, 0, 0, 0⟩] }, ⟨5, 0, 0, 0, 0, 0⟩, by decide⟩

theorem witness_VaultTasksActOnlyWhenDue_copyIs :
    ∃ (g : BitVec 40) (s : State) (f : InFlight), ((s.vlt.inflight.find? fun f => f.kind = 2 && f.granule = g.toNat) = some f) := ⟨0, State.reset.updVlt fun v => { v with inflight := [⟨5, 0, 0, 0, 2, 0⟩] }, ⟨5, 0, 0, 0, 2, 0⟩, by decide⟩

theorem witness_VaultTasksActOnlyWhenDue_fullNo :
    State.reset.band 0 = none := by decide

theorem witness_VaultTasksActOnlyWhenDue_full :
    ∃ (bs : BitVec 40) (s : State) (b : Band), s.band bs.toNat = some b ∧ s.serving = true ∧ b.closed = true ∧ s.victim = some b := ⟨0, victimState, victimBand, by decide⟩

theorem witness_VaultTasksActOnlyWhenDue_parity :
    ∃ (bs : BitVec 40) (row : BitVec 16) (s : State) (b : Band), s.band bs.toNat = some b ∧ (row.toNat + 1) * s.img.rowSlots b ≤ b.next ∧ row.toNat < s.img.bandRows ∧ s.rowBusy b row.toNat = false ∧ s.bit VLT_STATUS_READY = true := ⟨0, 0, rowState, rowBand, by decide⟩

theorem witness_VaultTasksActOnlyWhenDue_fullIs :
    ∃ (bseq : BitVec 40) (count : BitVec 32) (s : State) (b : Band), (s.band bseq.toNat = some b) ∧ (s.serving ∧ b.closed ∧ ((s.dsp.tasks.any fun k => k.ty = 8 && k.arg0 = b.bseq) ∨ s.victim = some b)) := ⟨0, 1, victimState, victimBand, by decide⟩

theorem witness_VaultTasksActOnlyWhenDue_parityIs :
    ∃ (bseq : BitVec 40) (row : BitVec 16) (s : State) (b : Band), (s.band bseq.toNat = some b) ∧ ((s.bit VLT_STATUS_READY || s.glb.st = .drain) ∧ (row.toNat + 1) * s.img.rowSlots b ≤ b.next ∧ row.toNat < s.img.bandRows ∧ !s.rowBusy b row.toNat) := ⟨0, 0, rowState, rowBand, by decide⟩

theorem witness_VaultTasksActOnlyWhenDue_mapNo :
    State.reset.vlt.ckpt = none := by decide

theorem witness_VaultTasksActOnlyWhenDue_map :
    ∃ s : State, s.vlt.ckpt ≠ none := ⟨State.reset.updVlt fun v => { v with ckpt := some ⟨0, 0, [], false, false⟩ }, by decide⟩

theorem witness_VaultTasksActOnlyWhenDue_mapIs :
    ∃ (n : BitVec 16) (s : State) (k : Ckpt), s.vlt.ckpt.isSome ∧ (((State.ckptPieces (n.toNat + 1) (s.underBeat (s.issueBeat fun k => k.ty = 9))).tagAll true).restoreImage s.sti.active).vlt.ckpt = some k ∧ k.done = true := ⟨0, bandable.updVlt fun v => { v with ckpt := some ⟨0, 0, [], true, false⟩ }, ⟨0, 0, [], true, false⟩, by decide⟩

theorem witness_VaultTasksActOnlyWhenDue_health :
    ∃ (g : BitVec 40) (s : State) (r : Rehearsal), s.ldg.rehRun = some r ∧ s.classOf g.toNat = (if r.cls = 3 then 4 else r.cls) ∧ (s.entry g.toNat).dirty = true := ⟨0, healthState, _, rfl, by decide⟩

theorem witness_VaultTasksActOnlyWhenDue_healthNo :
    State.reset.ldg.rehRun = none := by decide

theorem witness_FlashModulesLeaveAndReturn_release :
    ∃ (s : State) (mod : BitVec 2), s.glb.st = .serve ∧ s.get VLT_MODS_COUNTED = 15 ∧ s.get VLT_MODS_PENDING = 0 := ⟨(State.reset.set VLT_MODS_COUNTED 15).updGlb fun g => { g with st := .serve }, 0, by decide⟩

theorem witness_FlashModulesLeaveAndReturn_releaseNo :
    ∃ (s : State) (mod : BitVec 2), ¬(s.glb.st = .serve ∧ s.get VLT_MODS_COUNTED = 15 ∧ s.get VLT_MODS_PENDING = 0) := ⟨State.reset, 0, by decide⟩

theorem witness_FlashModulesLeaveAndReturn_cancel :
    ∃ (s : State) (mod : BitVec 2), bitOf (s.get VLT_MODS_PENDING) mod.toNat = true ∧ bitOf (s.get VLT_MODS_COUNTED) mod.toNat = true ∧ bitOf s.vlt.released2 mod.toNat = false := ⟨(State.reset.set VLT_MODS_COUNTED 15).set VLT_MODS_PENDING 1, 0, by decide⟩

theorem witness_FlashModulesLeaveAndReturn_cancelNo :
    ∃ (s : State) (mod : BitVec 2), ¬(bitOf (s.get VLT_MODS_PENDING) mod.toNat = true ∧ bitOf (s.get VLT_MODS_COUNTED) mod.toNat = true ∧ bitOf s.vlt.released2 mod.toNat = false) := ⟨State.reset, 0, by decide⟩

theorem witness_FlashModulesLeaveAndReturn_restripe :
    ∃ s : State, s.get VLT_MODS_PENDING &&& s.get VLT_MODS_COUNTED ≠ 0 ∧ s.vlt.released2 = 0 ∧ 100 ≤ s.ldg.flashRun := ⟨((State.reset.set VLT_MODS_COUNTED 15).set VLT_MODS_PENDING 1).updLdg fun l => { l with flashRun := 100 }, by decide⟩

theorem witness_FlashModulesLeaveAndReturn_restripeIs :
    ∃ (s : State), ((s.get VLT_MODS_PENDING &&& s.get VLT_MODS_COUNTED) ≠ 0 ∧ s.vlt.released2 = 0 ∧ 100 ≤ s.ldg.flashRun) := ⟨((State.reset.set VLT_MODS_COUNTED 15).set VLT_MODS_PENDING 1).updLdg fun l => { l with flashRun := 100 }, by decide⟩

theorem witness_FlashModulesLeaveAndReturn_releasedIs :
    ∃ (mod : BitVec 2) (s : State), (bitOf s.vlt.released2 mod.toNat ∧ s.vlt.bands.all (fun b => !bitOf b.mods mod.toNat || s.bandFree b.blk)) := ⟨0, State.reset.updVlt fun v => { v with released2 := 1 }, by decide⟩

theorem witness_FlashModulesLeaveAndReturn_restripeNo :
    State.reset.ldg.flashRun < 100 := by decide

theorem witness_FlashModulesLeaveAndReturn_released :
    ∃ (mod : BitVec 2) (s : State), bitOf s.vlt.released2 mod.toNat = true ∧ ∀ b ∈ s.vlt.bands, bitOf b.mods mod.toNat = true → s.bandFree b.blk = true := ⟨0, State.reset.updVlt fun v => { v with released2 := 1 }, by decide⟩

theorem witness_FlashModulesLeaveAndReturn_releasedNo :
    bitOf State.reset.vlt.released2 0 = false := by decide

theorem witness_FlashModulesLeaveAndReturn_absent :
    ∃ (mod : BitVec 2) (s : State), bitOf (s.get VLT_MODS_PRESENT) mod.toNat = false ∧ s.modUp mod.toNat = true := ⟨0, (State.reset.set VLT_MODS_COUNTED 15).set VLT_MODS_PRESENT 0, by decide⟩

theorem witness_FlashModulesLeaveAndReturn_absentIs :
    ∃ (mod : BitVec 2) (s : State), bitOf (s.get VLT_MODS_PRESENT) mod.toNat = false := ⟨0, (State.reset.set VLT_MODS_COUNTED 15).set VLT_MODS_PRESENT 0, by decide⟩

theorem witness_FlashModulesLeaveAndReturn_addNo :
    State.reset.glb.st ≠ .serve := by decide

theorem witness_FlashModulesLeaveAndReturn_addBad :
    ∃ (mod : BitVec 2) (pages : List ParamPage) (marks : List BadMark) (s : State), (¬ (s.glb.st ≠ .serve)) ∧ (bitOf (s.get VLT_MODS_PRESENT) mod.toNat ∧ !bitOf (s.get VLT_MODS_COUNTED) mod.toNat) ∧ (!s.modFits pages mod.toNat) := ⟨0, [aPage], [], addState, by decide⟩

theorem witness_FlashModulesLeaveAndReturn_add :
    ∃ (mod : BitVec 2) (pages : List ParamPage) (marks : List BadMark) (s : State), (s.glb.st = .serve ∧ bitOf (s.get VLT_MODS_PRESENT) mod.toNat = true ∧ bitOf (s.get VLT_MODS_COUNTED) mod.toNat = false) ∧ s.modFits pages mod.toNat = true := ⟨0, [], [], addState, by decide⟩

theorem witness_FlashModulesLeaveAndReturn_addIs :
    ∃ (mod : BitVec 2) (pages : List ParamPage) (marks : List BadMark) (s : State), (¬ (s.glb.st ≠ .serve)) ∧ (bitOf (s.get VLT_MODS_PRESENT) mod.toNat ∧ !bitOf (s.get VLT_MODS_COUNTED) mod.toNat) ∧ (¬ (!s.modFits pages mod.toNat)) ∧ (¬ ((decide (16376 < (((if s.groupIsOff (s.img.modGroup mod.toNat) then (s.set VLT_MODCMD_MOD mod.toNat).groupUp (s.img.modGroup mod.toNat) else (s.set VLT_MODCMD_MOD mod.toNat)).vlt.badBlocks ++ (marks.map fun x => eblockKey (8 * mod.toNat + x.channel.toNat) x.target.toNat x.plane.toNat x.blk.toNat)).eraseDups).length) || decide (s.get VLT_FULL_BADMAX < ((((if s.groupIsOff (s.img.modGroup mod.toNat) then (s.set VLT_MODCMD_MOD mod.toNat).groupUp (s.img.modGroup mod.toNat) else (s.set VLT_MODCMD_MOD mod.toNat)).vlt.badBlocks ++ (marks.map fun x => eblockKey (8 * mod.toNat + x.channel.toNat) x.target.toNat x.plane.toNat x.blk.toNat)).eraseDups).filter fun k => keyChannel k / 8 = mod.toNat).length)))) := ⟨0, [], [], addState, by decide⟩

theorem witness_FlashModulesLeaveAndReturn_addFull :
    ∃ (mod : BitVec 2) (pages : List ParamPage) (marks : List BadMark) (s : State), (¬ (s.glb.st ≠ .serve)) ∧ (bitOf (s.get VLT_MODS_PRESENT) mod.toNat ∧ !bitOf (s.get VLT_MODS_COUNTED) mod.toNat) ∧ (¬ (!s.modFits pages mod.toNat)) ∧ ((decide (16376 < (((if s.groupIsOff (s.img.modGroup mod.toNat) then (s.set VLT_MODCMD_MOD mod.toNat).groupUp (s.img.modGroup mod.toNat) else (s.set VLT_MODCMD_MOD mod.toNat)).vlt.badBlocks ++ (marks.map fun x => eblockKey (8 * mod.toNat + x.channel.toNat) x.target.toNat x.plane.toNat x.blk.toNat)).eraseDups).length) || decide (s.get VLT_FULL_BADMAX < ((((if s.groupIsOff (s.img.modGroup mod.toNat) then (s.set VLT_MODCMD_MOD mod.toNat).groupUp (s.img.modGroup mod.toNat) else (s.set VLT_MODCMD_MOD mod.toNat)).vlt.badBlocks ++ (marks.map fun x => eblockKey (8 * mod.toNat + x.channel.toNat) x.target.toNat x.plane.toNat x.blk.toNat)).eraseDups).filter fun k => keyChannel k / 8 = mod.toNat).length))) := ⟨0, [], [⟨0, 0, 0, 5⟩], addState.set VLT_FULL_BADMAX 0, by decide⟩

theorem witness_FlashModulesLeaveAndReturn_formatNo :
    State.reset.glb.st ≠ .restore := by decide

theorem witness_FlashModulesLeaveAndReturn_format :
    ∃ (key : BitVec 16) (go : Bool) (s : State), (go = true ∧ key.toNat = 0x5646 ∧ s.glb.st = .restore ∧ s.bit VLT_STATUS_BLANK = true) ∧ Store.wf 0 s.regs = true := ⟨0x5646, true, (State.reset.setB VLT_STATUS_BLANK true).updGlb fun g => { g with st := .restore }, by decide⟩

theorem witness_FlashModulesLeaveAndReturn_formatIs :
    ∃ (key : BitVec 16) (go : Bool) (s : State), go = true ∧ key = 0x5646 ∧ s.glb.st = .restore ∧ s.bit VLT_STATUS_BLANK = true := ⟨0x5646, true, (State.reset.setB VLT_STATUS_BLANK true).updGlb fun g => { g with st := .restore }, by decide⟩

theorem witness_RestoreFindsItsCrownOrStops_searchNo :
    State.reset.glb.st ≠ .restore := by decide

theorem witness_RestoreFindsItsCrownOrStops_searchBlank :
    ∃ (pages : List ParamPage) (ch : BitVec 32) (s : State) (m : Nat), (s.glb.st = .restore ∧ s.rst.scanned = false ∧ s.rst.warm = false ∧ s.rst.coldRanks = false) ∧ s.bit VLT_RST_STATUS_WARM_REFUSED = false ∧ s.vlt.nand = [] ∧ Store.wf 0 s.regs = true ∧ m = ((List.range 4).filter (s.modFits pages)).foldl setBit 0 ∧ 3 ≤ ones 4 (s.get VLT_MODS_PRESENT &&& m) := ⟨[], 0, (State.reset.set VLT_MODS_PRESENT 7).updGlb fun g => { g with st := .restore }, 15, by decide⟩

theorem witness_RestoreFindsItsCrownOrStops_searchFew :
    ∃ (pages : List ParamPage) (ch : BitVec 32) (s : State) (m : Nat), (s.glb.st = .restore ∧ s.rst.scanned = false ∧ s.rst.warm = false ∧ s.rst.coldRanks = false) ∧ s.bit VLT_RST_STATUS_WARM_REFUSED = false ∧ s.vlt.nand = [] ∧ Store.wf 0 s.regs = true ∧ m = ((List.range 4).filter (s.modFits pages)).foldl setBit 0 ∧ ones 4 (s.get VLT_MODS_PRESENT &&& m) < 3 := ⟨[], 0, inState .restore, 15, by decide⟩

theorem witness_RestoreFindsItsCrownOrStops_searchIs :
    ∃ (pages : List ParamPage) (changed : BitVec 32) (s : State), (s.glb.st = .restore ∧ !s.rst.scanned ∧ !s.rst.warm ∧ !s.rst.coldRanks) := ⟨[], 0, inState .restore, by decide⟩

theorem witness_RestoreFindsItsCrownOrStops_insertNo :
    State.reset.glb.st ≠ .restore := by decide

theorem witness_RestoreFindsItsCrownOrStops_insert :
    ∃ (mod : BitVec 2) (s : State), s.glb.st = .restore ∧ s.get VLT_RST_STATUS_RESULT = 6 ∧ bitOf (s.get VLT_MODS_PRESENT) mod.toNat = true ∧ bitOf (s.get VLT_MODS_COUNTED) mod.toNat = false := ⟨0, ((State.reset.set VLT_MODS_PRESENT 1).set VLT_RST_STATUS_RESULT 6).updGlb fun g => { g with st := .restore }, by decide⟩

theorem witness_RestoreFindsItsCrownOrStops_insertBad :
    ∃ (mod : BitVec 2) (pages : List ParamPage) (s : State), (s.glb.st = .restore ∧ s.get VLT_RST_STATUS_RESULT = 6 ∧ bitOf (s.get VLT_MODS_PRESENT) mod.toNat ∧ !bitOf (s.get VLT_MODS_COUNTED) mod.toNat) ∧ (!s.modFits pages mod.toNat) := ⟨0, [aPage], ((State.reset.set VLT_MODS_PRESENT 1).set VLT_RST_STATUS_RESULT 6).updGlb fun g => { g with st := .restore }, by decide⟩

theorem witness_RestoreFindsItsCrownOrStops_insertFew :
    ∃ (mod : BitVec 2) (pages : List ParamPage) (s : State), (s.glb.st = .restore ∧ s.get VLT_RST_STATUS_RESULT = 6 ∧ bitOf (s.get VLT_MODS_PRESENT) mod.toNat ∧ !bitOf (s.get VLT_MODS_COUNTED) mod.toNat) ∧ (¬ (!s.modFits pages mod.toNat)) ∧ (ones 4 ((s.countMods (setBit s.rst.fits mod.toNat)).get VLT_MODS_COUNTED) < 3) := ⟨0, [], ((State.reset.set VLT_MODS_PRESENT 1).set VLT_RST_STATUS_RESULT 6).updGlb fun g => { g with st := .restore }, by decide⟩

theorem witness_RestoreFindsItsCrownOrStops_insertGo :
    ∃ (mod : BitVec 2) (pages : List ParamPage) (s : State), (s.glb.st = .restore ∧ s.get VLT_RST_STATUS_RESULT = 6 ∧ bitOf (s.get VLT_MODS_PRESENT) mod.toNat ∧ !bitOf (s.get VLT_MODS_COUNTED) mod.toNat) ∧ (¬ (!s.modFits pages mod.toNat)) ∧ (¬ (ones 4 ((s.countMods (setBit s.rst.fits mod.toNat)).get VLT_MODS_COUNTED) < 3)) := ⟨0, [], (((State.reset.set VLT_MODS_PRESENT 7).set VLT_RST_STATUS_RESULT 6).updGlb fun g => { g with st := .restore }).updRst fun r => { r with fits := 6 }, by decide⟩

theorem witness_RestoreFindsItsCrownOrStops_emptyNo :
    State.reset.get VLT_RST_STATUS_RESULT ≠ 3 := by decide

theorem witness_RestoreFindsItsCrownOrStops_empty :
    ∃ (key : BitVec 16) (e : Bool) (s : State), (e = true ∧ key.toNat = 0x4554 ∧ s.get VLT_RST_STATUS_RESULT = 3) ∧ Store.wf 0 s.regs = true := ⟨0x4554, true, State.reset.set VLT_RST_STATUS_RESULT 3, by decide⟩

theorem witness_RestoreFindsItsCrownOrStops_emptyIs :
    ∃ (key : BitVec 16) (empty : Bool) (s : State), (empty ∧ key = 0x4554 ∧ s.get VLT_RST_STATUS_RESULT = 3) := ⟨0x4554, true, State.reset.set VLT_RST_STATUS_RESULT 3, by decide⟩

theorem witness_RestoreFindsItsCrownOrStops_mapNo :
    State.reset.glb.st ≠ .restore := by decide

theorem witness_RestoreFindsItsCrownOrStops_mapEmpty :
    ∃ s : State, (s.glb.st = .restore ∧ s.rst.warm = false ∧ s.rst.scanned = true ∧ s.restorable = true ∧ s.rst.mapped = false) ∧ s.rst.empty = true ∧ Store.wf 0 s.regs = true := ⟨mappable, by decide⟩

theorem witness_RestoreFindsItsCrownOrStops_map :
    ∃ s : State, s.glb.st = .restore ∧ s.rst.warm = false ∧ s.rst.scanned = true ∧ s.restorable = true ∧ s.rst.mapped = false := ⟨mappable, by decide⟩

theorem witness_RestoreFindsItsCrownOrStops_mapIs :
    ∃ (s : State), (s.glb.st = .restore ∧ !s.rst.warm ∧ s.rst.scanned ∧ s.restorable ∧ !s.rst.mapped) := ⟨mappable, by decide⟩

theorem witness_RestoreFindsItsCrownOrStops_notesNo :
    State.reset.glb.st ≠ .restore := by decide

theorem witness_RestoreFindsItsCrownOrStops_notes :
    ∃ s : State, s.glb.st = .restore ∧ s.rst.mapped = true ∧ s.rst.noted = false := ⟨(State.reset.updGlb fun g => { g with st := .restore }).updRst fun r => { r with mapped := true }, rfl, rfl, rfl⟩

theorem witness_PortsOpenAndTheRestoreEnds_openNo :
    State.reset.glb.st ≠ .restore := by decide

theorem witness_PortsOpenAndTheRestoreEnds_open :
    ∃ s : State, (s.glb.cycle = 0 ∧ s.glb.st = .restore ∧ s.drn.toSealed = false ∧ s.rst.warm = false ∧ s.rst.scanned = true ∧ s.rst.mapped = true ∧ s.rst.noted = true ∧ s.restorable = true ∧ s.bit CCH_STATUS_POP_OK = true) ∧ bitOf (crFlags s.rst.crown) 4 = false := ⟨((mappable.updRst fun r => { r with mapped := true, noted := true }).setB CCH_STATUS_POP_OK true), by decide⟩

theorem witness_PortsOpenAndTheRestoreEnds_openAdopt :
    ∃ s : State, (s.glb.cycle = 0 ∧ s.glb.st = .restore ∧ s.drn.toSealed = false ∧ s.rst.warm = false ∧ s.rst.scanned = true ∧ s.rst.mapped = true ∧ s.rst.noted = true ∧ s.restorable = true ∧ s.bit CCH_STATUS_POP_OK = true) ∧ bitOf (crFlags s.rst.crown) 4 = true := ⟨((mappable.updRst fun r => { r with mapped := true, noted := true, crown := List.replicate 20 16 }).setB CCH_STATUS_POP_OK true), by decide⟩

theorem witness_PortsOpenAndTheRestoreEnds_demand :
    ∃ (g : BitVec 40) (s : State), s.serving = true ∧ ((s.entry g.toNat).fetch = true ∨ s.unrest g.toNat = true) ∧ s.inFetch g.toNat = false := ⟨0, (State.reset.updGlb fun g => { g with st := .serve }).updCch fun c => { c with unrest := [(0, 1)] }, by decide⟩

theorem witness_PortsOpenAndTheRestoreEnds_demandNo :
    State.reset.serving = false := by decide

theorem witness_PortsOpenAndTheRestoreEnds_fetchNo :
    State.reset.serving = false := by decide

theorem witness_PortsOpenAndTheRestoreEnds_fetch :
    ∃ (g : BitVec 40) (s : State), s.inFetch g.toNat = true ∧ s.serving = true := ⟨0, (State.reset.updGlb fun g => { g with st := .serve }).updRst fun r => { r with fetching := [(0, 1)] }, by decide⟩

theorem witness_PortsOpenAndTheRestoreEnds_openAdoptIs :
    ∃ (s : State), (s.atBoundary ∧ s.glb.st = .restore ∧ !s.drn.toSealed ∧ !s.rst.warm ∧ s.rst.scanned ∧ s.rst.mapped ∧ s.rst.noted ∧ s.restorable ∧ s.bit CCH_STATUS_POP_OK) ∧ bitOf (crFlags s.rst.crown) 4 := ⟨((mappable.updRst fun r => { r with mapped := true, noted := true, crown := List.replicate 20 16 }).setB CCH_STATUS_POP_OK true), by decide⟩

theorem witness_PortsOpenAndTheRestoreEnds_openIs :
    ∃ (s : State), (s.atBoundary ∧ s.glb.st = .restore ∧ !s.drn.toSealed ∧ !s.rst.warm ∧ s.rst.scanned ∧ s.rst.mapped ∧ s.rst.noted ∧ s.restorable ∧ s.bit CCH_STATUS_POP_OK) ∧ (¬ (bitOf (crFlags s.rst.crown) 4)) := ⟨((mappable.updRst fun r => { r with mapped := true, noted := true }).setB CCH_STATUS_POP_OK true), by decide⟩

theorem witness_PortsOpenAndTheRestoreEnds_fetchIs :
    ∃ (g : BitVec 40) (s : State), (s.inFetch g.toNat ∧ s.serving) := ⟨0, (State.reset.updGlb fun g => { g with st := .serve }).updRst fun r => { r with fetching := [(0, 1)] }, by decide⟩

theorem witness_PortsOpenAndTheRestoreEnds_rowIs :
    ∃ (first : BitVec 40) (count : BitVec 32) (s : State), (s.glb.lazyRestore ∧ s.serving) := ⟨0, 1, State.reset.updGlb fun g => { g with st := .serve, lazyRestore := true }, by decide⟩

theorem witness_PortsOpenAndTheRestoreEnds_rowNo :
    State.reset.glb.lazyRestore = false := by decide

theorem witness_PortsOpenAndTheRestoreEnds_row :
    ∃ s : State, s.glb.lazyRestore = true ∧ s.serving = true := ⟨State.reset.updGlb fun g => { g with st := .serve, lazyRestore := true }, by decide⟩

theorem witness_PortsOpenAndTheRestoreEnds_end :
    ∃ (s : State), s.glb.cycle = 0 ∧ s.glb.lazyRestore = true ∧ s.cch.unrest = [] := ⟨State.reset.updGlb fun g => { g with lazyRestore := true }, by decide⟩

theorem witness_PortsOpenAndTheRestoreEnds_endNo :
    ∃ (s : State), ¬(s.glb.cycle = 0 ∧ s.glb.lazyRestore = true ∧ s.cch.unrest = []) := ⟨State.reset, by decide⟩

theorem witness_PortsOpenAndTheRestoreEnds_index :
    ∃ (i : BitVec 23) (s : State) (r : Range), i.toNat < s.get VLT_RST_NRANGE_COUNT ∧ s.rst.ranges[i.toNat]? = some r := ⟨0, (State.reset.set VLT_RST_NRANGE_COUNT 1).updRst fun r => { r with ranges := [⟨0, 1, 0, 0⟩] }, _, by decide, rfl⟩

theorem witness_LinkTrainingAndRetrain_start :
    ∃ s : State, s.glb.st = .serve ∧ s.mlk.downAt = none ∧ s.get MLK_STATUS_LSTATE = 0 ∧ s.bit MLK_CTRL_EN = true ∧ s.bit MTX_STATUS_QUAR = false ∧ s.glb.beatSrc = false ∧ s.domOn 88 = true ∧ s.domOn 89 = true ∧ s.domOn 90 = true := ⟨trainable, by decide⟩

theorem witness_LinkTrainingAndRetrain_startNo :
    ¬(State.reset.glb.st = .restore ∨ State.reset.glb.st = .serve ∨ State.reset.glb.st = .grace) := by decide

theorem witness_LinkTrainingAndRetrain_equalise :
    ∃ s : State, s.get MLK_STATUS_LSTATE = 1 ∧ s.expired s.mlk.eqStart 500000 = true ∧ Store.wf 0 s.regs = true := ⟨(State.reset.set MLK_STATUS_LSTATE 1).updGlb fun g => { g with beat := 500001 }, by decide⟩

theorem witness_LinkTrainingAndRetrain_equaliseIs :
    ∃ (trained : BitVec 16) (pol : BitVec 16) (s : State), (s.get MLK_STATUS_LSTATE = 1 ∧ s.expired s.mlk.eqStart 500000) := ⟨0, 0, (State.reset.set MLK_STATUS_LSTATE 1).updGlb fun g => { g with beat := 500001 }, by decide⟩

theorem witness_LinkTrainingAndRetrain_equaliseNo :
    State.reset.get MLK_STATUS_LSTATE ≠ 1 := by decide

theorem witness_LinkTrainingAndRetrain_attempt :
    ∃ s : State, (s.get MLK_STATUS_LSTATE = 2 ∨ s.get MLK_STATUS_LSTATE = 4) ∧ s.expired s.mlk.attStart 10000 = true ∧ s.mlk.att < 6 := ⟨(State.reset.set MLK_STATUS_LSTATE 2).updGlb fun g => { g with beat := 10001 }, by decide⟩

theorem witness_LinkTrainingAndRetrain_attemptIs :
    ∃ (s : State), ((s.get MLK_STATUS_LSTATE = 2 ∨ s.get MLK_STATUS_LSTATE = 4) ∧ s.expired s.mlk.attStart 10000) ∧ (s.mlk.att < 6) := ⟨(State.reset.set MLK_STATUS_LSTATE 2).updGlb fun g => { g with beat := 10001 }, by decide⟩

theorem witness_LinkTrainingAndRetrain_attemptNo :
    ¬(State.reset.get MLK_STATUS_LSTATE = 2) := by decide

theorem witness_LinkTrainingAndRetrain_retrain :
    ∃ s : State, s.blockOff 0x70008 = false ∧ s.linkUp = true := ⟨(trainable.set MLK_STATUS_LSTATE 3), by decide⟩

theorem witness_LinkTrainingAndRetrain_retrainIs :
    ∃ s : State, s.blockOff 0x70008 = false := ⟨trainable, by decide⟩

theorem witness_LinkTrainingAndRetrain_blockOff :
    ∃ s : State, s.blockOff 0x70008 = true := ⟨State.reset, by decide⟩

theorem witness_LinkTrainingAndRetrain_retrainNo :
    ∃ s : State, s.blockOff 0x70008 = false ∧ s.linkUp = false := ⟨trainable, by decide⟩

theorem witness_LinkTrainingAndRetrain_rtrn :
    ∃ (s : State) (b : Nat), s.mlk.rtrn = some b ∧ s.expired b 1000 = true := ⟨(State.reset.updMlk fun m => { m with rtrn := some 0 }).updGlb fun g => { g with beat := 1001 }, 0, rfl, by decide⟩

theorem witness_LinkTrainingAndRetrain_window :
    ∃ (s : State), s.expired s.mlk.winStart 1000000 = true := ⟨State.reset.updGlb fun g => { g with beat := 1000001 }, by decide⟩

theorem witness_LinkTrainingAndRetrain_windowNo :
    ∃ (s : State), ¬(s.expired s.mlk.winStart 1000000 = true) := ⟨State.reset, by decide⟩

theorem witness_LinkTrainingAndRetrain_inject :
    ∃ s : State, s.blockOff 0x70008 = false := ⟨trainable, by decide⟩

theorem witness_FlitsFramesAndReplay_taken :
    ∃ (b : List Byte) (s : State), s.linkUp = true ∧ s.ackValid (bits (leAt b 0 8) 16 16) = true ∧ bits (leAt b 0 8) 32 3 = 1 ∧ bits (leAt b 0 8) 0 16 = s.mlk.expect_ := ⟨[5, 0, 0, 0, 1, 0, 0, 0], upLink, by decide⟩

theorem witness_FlitsFramesAndReplay_duplicate :
    ∃ (b : List Byte) (s : State), s.linkUp = true ∧ s.ackValid (bits (leAt b 0 8) 16 16) = true ∧ bits (leAt b 0 8) 32 3 = 1 ∧ 65024 ≤ seqDist (bits (leAt b 0 8) 0 16) s.mlk.expect_ := ⟨[4, 0, 0, 0, 1, 0, 0, 0], upLink, by decide⟩

theorem witness_FlitsFramesAndReplay_sends :
    ∃ (s : State) (f : LFlit) (rest : List LFlit), s.linkUp = true ∧ s.mlk.nakSend = false ∧ s.mlk.replay = none ∧ s.mlk.txq = f :: rest ∧ s.mlk.buf.length < 512 := ⟨upLink.updMlk fun m => { m with txq := [⟨0, 0, []⟩] }, _, _, by decide, rfl, rfl, rfl, by decide⟩

theorem witness_FlitsFramesAndReplay_bounded :
    ∃ s : State, s.mlk.buf ≠ [] ∧ s.get MLK_CTRL_REPLAY_MAX ≤ s.mlk.replays ∧ s.linkUp = true := ⟨upLink.updMlk fun m => { m with buf := [⟨0, 0, []⟩], replays := 100 }, by decide⟩

theorem witness_FlitsFramesAndReplay_receiveNo :
    State.reset.get MLK_STATUS_LSTATE < 2 := by decide

theorem witness_FlitsFramesAndReplay_receive :
    ∃ s : State, 2 ≤ s.get MLK_STATUS_LSTATE := ⟨upLink, by decide⟩

theorem witness_FlitsFramesAndReplay_receiveIs :
    ∃ s : State, 2 ≤ s.get MLK_STATUS_LSTATE := ⟨upLink, by decide⟩

theorem witness_FlitsFramesAndReplay_transmitNo :
    State.reset.get MLK_STATUS_LSTATE = 0 := by decide

theorem witness_FlitsFramesAndReplay_transmit :
    ∃ s : State, s.get MLK_STATUS_LSTATE ≠ 0 ∧ s.mlk.fcnt ≠ 0 ∧ s.mlk.half = none := ⟨upLink, by decide⟩

theorem witness_FlitsFramesAndReplay_timer :
    ∃ (s : State) (b : Nat) (f : LFlit) (rest : List LFlit), s.mlk.timer = some b ∧ s.mlk.buf = f :: rest ∧ s.linkUp = true ∧ s.expired b (s.get MLK_CTRL_REPLAY_BEATS) = true ∧ s.mlk.replays < s.get MLK_CTRL_REPLAY_MAX := ⟨((upLink.updMlk fun m => { m with buf := [⟨0, 0, []⟩], timer := some 0, replays := 0 }).set MLK_CTRL_REPLAY_MAX 4).updGlb fun g => { g with beat := 100000000 }, 0, _, _, rfl, rfl, by decide⟩

theorem witness_FlitsFramesAndReplay_timerNo :
    State.reset.mlk.timer = none := by decide

theorem witness_FlitsFramesAndReplay_transmitIs :
    ∃ (s : State), (¬ (s.get MLK_STATUS_LSTATE = 0)) := ⟨upLink, by decide⟩

theorem witness_FlitsFramesAndReplay_timerIs :
    ∃ (s : State) (b : Nat) (f : LFlit) (rest : List LFlit), s.mlk.timer = some b ∧ s.mlk.buf = f :: rest ∧ s.linkUp = true ∧ s.expired b (s.get MLK_CTRL_REPLAY_BEATS) = true := ⟨((upLink.updMlk fun m => { m with buf := [⟨0, 0, []⟩], timer := some 0, replays := 0 }).set MLK_CTRL_REPLAY_MAX 4).updGlb fun g => { g with beat := 100000000 }, 0, ⟨0, 0, []⟩, [], by decide⟩

theorem witness_SessionsBeginAndEnd_setupNo :
    State.reset.linkUp = false := by decide

theorem witness_SessionsBeginAndEnd_noKey :
    ∃ s : State, s.mirrorGuarded = false ∧ s.linkUp = true ∧ s.glb.st = .serve ∧ s.bit MTX_CTRL_EN = true ∧ s.bit MTX_STATUS_QUAR = false ∧ s.get MTX_STATUS_SESSION = 0 ∧ s.mtx.hold = none ∧ s.pairKey = none := ⟨setupable, by decide⟩

theorem witness_SessionsBeginAndEnd_setup :
    ∃ s : State, s.mirrorGuarded = false ∧ s.linkUp = true ∧ s.glb.st = .serve ∧ s.bit MTX_CTRL_EN = true ∧ s.bit MTX_STATUS_QUAR = false ∧ s.get MTX_STATUS_SESSION = 0 ∧ s.mtx.hold = none ∧ s.pairKey ≠ none := ⟨keyedState, by decide⟩

theorem witness_SessionsBeginAndEnd_setupGo :
    ∃ (s : State), (¬ (!(!s.mirrorGuarded && s.linkUp && decide (s.glb.st = .serve) && s.bit MTX_CTRL_EN && !s.bit MTX_STATUS_QUAR && decide (s.get MTX_STATUS_SESSION = 0) && (match s.mtx.hold with | some (b, k) => s.expired b k | none => true)))) ∧ (¬ (s.pairKey.isNone)) ∧ (¬ (s.mtx.count + 1 ≤ (match s.cell 3 with | some r => (pairOf r.payload).sessCnt | none => 0))) := ⟨keyedState, by decide⟩

theorem witness_SessionsBeginAndEnd_front :
    State.reset.clearFront.1 = none := by decide

theorem witness_SessionsBeginAndEnd_others :
    ∃ (s : State) (b : List Byte), s.clearFront.1 = some b ∧ s.sessionUp = false := ⟨State.reset.updMlk fun m => { m with rx := [⟨0, 0, [8]⟩] }, _, rfl, by decide⟩

theorem witness_SessionsBeginAndEnd_inSession :
    ∃ (s : State) (b : List Byte), s.clearFront.1 = some b ∧ s.sessionUp = true := ⟨(State.reset.updMlk fun m => { m with rx := [⟨0, 0, [8]⟩] }).set MTX_STATUS_SESSION 2, _, rfl, by decide⟩

theorem witness_SessionsBeginAndEnd_hello :
    ∃ (s : State) (b : List Byte), s.clearFront.1 = some b ∧ s.get MTX_STATUS_SESSION = 1 ∧ leAt b 0 1 = 8 := ⟨(State.reset.updMlk fun m => { m with rx := [⟨0, 0, [8]⟩] }).set MTX_STATUS_SESSION 1, _, rfl, by decide⟩

theorem witness_SessionsBeginAndEnd_response :
    ∃ (s : State) (b : List Byte), s.clearFront.1 = some b ∧ s.get MTX_STATUS_SESSION = 1 ∧ leAt b 0 1 = 9 ∧ s.mtx.respSent = true ∧ s.mirrorGuarded = false := ⟨((State.reset.updMlk fun m => { m with rx := [⟨0, 0, [9]⟩] }).set MTX_STATUS_SESSION 1).updMtx fun m => { m with respSent := true }, _, rfl, by decide⟩

theorem witness_SessionsBeginAndEnd_refuse :
    ∃ (s : State) (b : List Byte) (r : Nat), s.clearFront.1 = some b ∧ s.get MTX_STATUS_SESSION = 1 ∧ refuseReason b = some r := ⟨(State.reset.updMlk fun m => { m with rx := [⟨0, 0, [10, 6]⟩] }).set MTX_STATUS_SESSION 1, _, 6, rfl, by decide⟩

theorem witness_SessionsBeginAndEnd_refuseIs :
    ∃ (s : State) (b : List Byte) (t : State) (r : Nat), (s.clearFront = (some b, t)) ∧ (¬ (s.sessionUp)) ∧ (¬ (leAt b 0 1 = 8 ∨ leAt b 0 1 = 9)) ∧ (refuseReason b = some r) ∧ (s.get MTX_STATUS_SESSION = 1) := ⟨(State.reset.updMlk fun m => { m with rx := [⟨0, 0, [10, 6]⟩] }).set MTX_STATUS_SESSION 1, _, _, 6, rfl, by decide⟩

theorem witness_SessionsBeginAndEnd_refuseLate :
    ∃ (s : State) (b : List Byte) (t : State) (r : Nat), (s.clearFront = (some b, t)) ∧ (¬ (s.sessionUp)) ∧ (¬ (leAt b 0 1 = 8 ∨ leAt b 0 1 = 9)) ∧ (refuseReason b = some r) ∧ (¬ (s.get MTX_STATUS_SESSION = 1)) := ⟨(State.reset.updMlk fun m => { m with rx := [⟨0, 0, [10, 6]⟩] }), _, _, 6, rfl, by decide⟩

theorem witness_SessionsBeginAndEnd_timeout :
    ∃ s : State, s.get MTX_STATUS_SESSION = 1 ∧ s.mtx.myHello ≠ [] ∧ s.expired s.mtx.helloBeat 10000 = true := ⟨((State.reset.set MTX_STATUS_SESSION 1).updMtx fun m => { m with myHello := [8] }).updGlb fun g => { g with beat := 10001 }, by decide⟩

theorem witness_SessionsBeginAndEnd_timeoutIs :
    ∃ (s : State), (s.get MTX_STATUS_SESSION = 1 ∧ s.mtx.myHello ≠ [] ∧ s.expired s.mtx.helloBeat 10000) := ⟨((State.reset.set MTX_STATUS_SESSION 1).updMtx fun m => { m with myHello := [8] }).updGlb fun g => { g with beat := 10001 }, by decide⟩

theorem witness_SessionsBeginAndEnd_timeoutNo :
    State.reset.get MTX_STATUS_SESSION ≠ 1 := by decide

theorem witness_SessionsBeginAndEnd_end :
    trainable.blockOff 0x80064 = false := by decide

theorem witness_SessionsBeginAndEnd_clear :
    trainable.blockOff 0x80064 = false := by decide

theorem witness_SessionsBeginAndEnd_blockOff :
    State.reset.blockOff 0x80064 = true := by decide

theorem witness_SessionsBeginAndEnd_quarEnd :
    ∃ (s : State), s.bit MTX_STATUS_QUAR = true ∧ s.expired s.mtx.quarStart (quarBeats (s.get MTX_QUAR_LEVEL)) = true := ⟨(State.reset.setB MTX_STATUS_QUAR true).updGlb fun g => { g with beat := 100000000000000 }, by decide⟩

theorem witness_SessionsBeginAndEnd_quarEndNo :
    ∃ (s : State), ¬(s.bit MTX_STATUS_QUAR = true ∧ s.expired s.mtx.quarStart (quarBeats (s.get MTX_QUAR_LEVEL)) = true) := ⟨State.reset, by decide⟩

theorem witness_SessionsBeginAndEnd_quarReset :
    ∃ (s : State), s.sessionUp = true ∧ s.expired s.mtx.upSince 3600000000 = true := ⟨(State.reset.set MTX_STATUS_SESSION 2).updGlb fun g => { g with beat := 3600000001 }, by decide⟩

theorem witness_SessionsBeginAndEnd_quarResetNo :
    ∃ (s : State), ¬(s.sessionUp = true ∧ s.expired s.mtx.upSince 3600000000 = true) := ⟨State.reset, by decide⟩

theorem witness_RecordsExecuteOnceAndInOrder_notHere :
    State.reset.recType = none := by decide

theorem witness_RecordsExecuteOnceAndInOrder_verifyNo :
    State.reset.sessionUp = false := by decide

theorem witness_RecordsExecuteOnceAndInOrder_verify :
    ∃ s : State, s.sessionUp = true ∧ s.mtx.plain = [] := ⟨State.reset.set MTX_STATUS_SESSION 2, by decide⟩

theorem witness_RecordsExecuteOnceAndInOrder_verifyWaits :
    ∃ (s : State), (¬ (!s.sessionUp ∨ s.mtx.plain ≠ [])) ∧ (((s.mlk.rx.take 16).getD 0 ⟨0, 0, []⟩).txf = 0) := ⟨State.reset.set MTX_STATUS_SESSION 2, by decide⟩

theorem witness_RecordsExecuteOnceAndInOrder_verifyOdd :
    ∃ (s : State), (¬ (!s.sessionUp ∨ s.mtx.plain ≠ [])) ∧ (¬ (((s.mlk.rx.take 16).getD 0 ⟨0, 0, []⟩).txf = 0)) ∧ (((List.range (s.mlk.rx.take 16).length).any fun i => ((s.mlk.rx.take 16).getD i ⟨0, 0, []⟩).txf ≠ if i = 0 then 3 else 1)) := ⟨(State.reset.set MTX_STATUS_SESSION 2).updMlk fun m => { m with rx := [⟨0, 5, []⟩] }, by decide⟩

theorem witness_RecordsExecuteOnceAndInOrder_verifyShort :
    ∃ (s : State), (¬ (!s.sessionUp ∨ s.mtx.plain ≠ [])) ∧ (¬ (((s.mlk.rx.take 16).getD 0 ⟨0, 0, []⟩).txf = 0)) ∧ (¬ (((List.range (s.mlk.rx.take 16).length).any fun i => ((s.mlk.rx.take 16).getD i ⟨0, 0, []⟩).txf ≠ if i = 0 then 3 else 1))) ∧ ((s.mlk.rx.take 16).length < 16) := ⟨(State.reset.set MTX_STATUS_SESSION 2).updMlk fun m => { m with rx := [⟨0, 3, []⟩] }, by decide⟩

theorem witness_RecordsExecuteOnceAndInOrder_verifyGo :
    ∃ (s : State) (f : List LFlit) (p : List Byte), s.sessionUp = true ∧ s.mtx.plain = [] ∧ s.mlk.rx.take 16 = f ∧ f.map LFlit.txf = 3 :: List.replicate 15 1 ∧
      gcmOpen s.mtx.keyRx (s.mtx.saltRx ++ beBytes 8 s.mtx.gRx) (beBytes 8 s.mtx.gRx ++ beBytes 2 (f.getD 0 ⟨0, 0, []⟩).seq ++ List.replicate 6 0)
        ((f.flatMap LFlit.data).take 4848) ((f.flatMap LFlit.data).drop 4848) = some p := ⟨groupState groupTag, groupFlits groupTag, _, groupState_opens⟩

theorem witness_RecordsExecuteOnceAndInOrder_repeated :
    ∃ s : State, s.recType = some 1 ∧ s.mtx.firstRec = false ∧ s.mtx.wr = none ∧ leAt s.mtx.plain 1 1 < 4 ∧ s.seqClass (leAt s.mtx.plain 8 6) = 1 ∧ leAt s.mtx.plain 4 2 = 0 := ⟨writeFront 1, by decide⟩

theorem witness_RecordsExecuteOnceAndInOrder_outside :
    ∃ s : State, s.recType = some 1 ∧ s.mtx.firstRec = false ∧ s.mtx.wr = none ∧ leAt s.mtx.plain 1 1 < 4 ∧ s.seqClass (leAt s.mtx.plain 8 6) = 2 ∧ leAt s.mtx.plain 4 2 = 0 := ⟨writeFront 9, by decide⟩

theorem witness_RecordsExecuteOnceAndInOrder_taken :
    ∃ s u : State, s.recType = some 1 ∧ s.mtx.firstRec = false ∧ s.mtx.wr = none ∧ leAt s.mtx.plain 1 1 < 4 ∧ s.seqClass (leAt s.mtx.plain 8 6) = 0 ∧
      leAt s.mtx.plain 4 2 = 0 ∧ s.dropRec.rxDone (s.rxWrite s.mtx.plain false) = some u := ⟨writeFront 2, ((writeFront 2).dropRec.updMtx fun m => { m with wr := none }).processed 2, by decide⟩

theorem witness_RecordsExecuteOnceAndInOrder_admitted :
    ∃ (s : State) (w : RxWrite) (x : Nat), w.skip = false ∧ w.fine = true ∧ w.len ≠ 0 ∧ s.extentOf w = some x ∧ s.mAdmits w x = true := ⟨admitState, admitWrite, 0, by decide⟩

theorem witness_RecordsExecuteOnceAndInOrder_writeRepeated :
    ∃ (s : State), (¬ (s.recType ≠ some 1)) ∧ (¬ (!(s.preRec false).sessionUp)) ∧ (¬ (4 ≤ leAt s.mtx.plain 1 1)) ∧ ((s.preRec false).seqClass (leAt s.mtx.plain 8 6) = 1) := ⟨writeFront 1, by decide⟩

theorem witness_RecordsExecuteOnceAndInOrder_writeOutside :
    ∃ (s : State), (¬ (s.recType ≠ some 1)) ∧ (¬ (!(s.preRec false).sessionUp)) ∧ (¬ (4 ≤ leAt s.mtx.plain 1 1)) ∧ (¬ ((s.preRec false).seqClass (leAt s.mtx.plain 8 6) = 1)) ∧ ((s.preRec false).seqClass (leAt s.mtx.plain 8 6) = 2) := ⟨writeFront 9, by decide⟩

theorem witness_RecordsExecuteOnceAndInOrder_writeDone :
    ∃ (s : State) (u : State), (¬ (s.recType ≠ some 1)) ∧ (¬ (!(s.preRec false).sessionUp)) ∧ (¬ (4 ≤ leAt s.mtx.plain 1 1)) ∧ (¬ ((s.preRec false).seqClass (leAt s.mtx.plain 8 6) = 1)) ∧ (¬ ((s.preRec false).seqClass (leAt s.mtx.plain 8 6) = 2)) ∧ ((leAt s.mtx.plain 4 2 = 0 || bitOf (leAt s.mtx.plain 1 1) 0)) ∧ ((s.preRec false).dropRec.rxDone ((s.preRec false).rxWrite s.mtx.plain false) = some u) := ⟨writeFront 2, ((writeFront 2).dropRec.updMtx fun m => { m with wr := none }).processed 2, by decide⟩

theorem witness_RecordsExecuteOnceAndInOrder_writeOpens :
    ∃ (s : State), (¬ (s.recType ≠ some 1)) ∧ (¬ (!(s.preRec false).sessionUp)) ∧ (¬ (4 ≤ leAt s.mtx.plain 1 1)) ∧ (¬ ((s.preRec false).seqClass (leAt s.mtx.plain 8 6) = 1)) ∧ (¬ ((s.preRec false).seqClass (leAt s.mtx.plain 8 6) = 2)) ∧ (¬ ((leAt s.mtx.plain 4 2 = 0 || bitOf (leAt s.mtx.plain 1 1) 0))) := ⟨longFront, by decide⟩

theorem witness_RecordsExecuteOnceAndInOrder_opened :
    ∃ s : State, s.recType = some 1 ∧ s.mtx.firstRec = false ∧ s.mtx.wr = none ∧ leAt s.mtx.plain 1 1 < 4 ∧ s.seqClass (leAt s.mtx.plain 8 6) = 0 ∧ leAt s.mtx.plain 4 2 ≠ 0 ∧ bitOf (leAt s.mtx.plain 1 1) 0 = false := ⟨longFront, by decide⟩

theorem witness_RecordsExecuteOnceAndInOrder_waits :
    ∃ s : State, s.recType = some 1 ∧ s.mtx.firstRec = false ∧ s.mtx.wr = none ∧ leAt s.mtx.plain 1 1 < 4 ∧ s.seqClass (leAt s.mtx.plain 8 6) = 0 ∧ bitOf (leAt s.mtx.plain 1 1) 0 = true ∧ s.dropRec.rxDone (s.rxWrite s.mtx.plain false) = none := ⟨waitFront, by decide⟩

theorem witness_RecordsExecuteOnceAndInOrder_data :
    ∃ s : State, s.recType = some 2 ∧ leAt s.mtx.plain 1 1 < 2 ∧ leAt s.mtx.plain 2 1 ≠ 0 ∧ leAt s.mtx.plain 2 1 ≤ 64 ∧ s.mtx.wr = none ∧ s.mtx.zeroSeq = none := ⟨dataFront none, by decide⟩

theorem witness_RecordsExecuteOnceAndInOrder_lines :
    ∃ (s : State) (w : RxWrite), s.recType = some 2 ∧ leAt s.mtx.plain 1 1 < 2 ∧ leAt s.mtx.plain 2 1 ≠ 0 ∧ s.mtx.wr = some w ∧ w.seq % 2 ^ 32 = leAt s.mtx.plain 4 4 ∧ w.skip = false ∧ w.lines.length + leAt s.mtx.plain 2 1 < w.len := ⟨dataFront (some ⟨0, 0, 0, 4, 0, false, false, false, [], 0, 0⟩), _, by decide, by decide, by decide, rfl, by decide⟩

theorem witness_RecordsExecuteOnceAndInOrder_dataMore :
    ∃ (s : State) (w : RxWrite), (¬ (s.recType ≠ some 2)) ∧ (¬ ((2 ≤ leAt s.mtx.plain 1 1 ∨ (leAt s.mtx.plain 2 1) = 0 ∨ 64 < (leAt s.mtx.plain 2 1)))) ∧ (s.mtx.wr = some w) ∧ (¬ (w.seq % 2 ^ 32 ≠ leAt s.mtx.plain 4 4)) ∧ (¬ (w.skip)) ∧ (¬ (w.len < (w.lines ++ (List.range (leAt s.mtx.plain 2 1)).map fun i => BitVec.ofNat 512 (leAt s.mtx.plain (8 + 64 * i) 64)).length ∨ ((w.lines ++ (List.range (leAt s.mtx.plain 2 1)).map fun i => BitVec.ofNat 512 (leAt s.mtx.plain (8 + 64 * i) 64)).length = w.len ∧ !(bitOf (leAt s.mtx.plain 1 1) 0)))) ∧ (¬ ((bitOf (leAt s.mtx.plain 1 1) 0) ∧ (w.lines ++ (List.range (leAt s.mtx.plain 2 1)).map fun i => BitVec.ofNat 512 (leAt s.mtx.plain (8 + 64 * i) 64)).length < w.len)) ∧ (¬ ((bitOf (leAt s.mtx.plain 1 1) 0))) := ⟨dataFront (some ⟨0, 0, 0, 4, 0, false, false, false, [], 0, 0⟩), ⟨0, 0, 0, 4, 0, false, false, false, [], 0, 0⟩, by decide⟩

theorem witness_RecordsExecuteOnceAndInOrder_dataSkip :
    ∃ (s : State) (w : RxWrite), (¬ (s.recType ≠ some 2)) ∧ (¬ ((2 ≤ leAt s.mtx.plain 1 1 ∨ (leAt s.mtx.plain 2 1) = 0 ∨ 64 < (leAt s.mtx.plain 2 1)))) ∧ (s.mtx.wr = some w) ∧ (¬ (w.seq % 2 ^ 32 ≠ leAt s.mtx.plain 4 4)) ∧ w.skip := ⟨dataFront (some ⟨0, 0, 0, 4, 0, false, false, true, [], 0, 0⟩), ⟨0, 0, 0, 4, 0, false, false, true, [], 0, 0⟩, by decide⟩

theorem witness_RecordsExecuteOnceAndInOrder_ack :
    ∃ s : State, s.recType = some 3 ∧ s.mtx.firstRec = false ∧ s.mtx.wr = none ∧ leAt s.mtx.plain 1 1 < 2 ∧ leAt s.mtx.plain 2 2 < 5 := ⟨recFront (recAck 0 0 0), by decide⟩

theorem witness_RecordsExecuteOnceAndInOrder_ackIs :
    ∃ (s : State), (¬ (s.recType ≠ some 3)) ∧ (¬ (2 ≤ leAt s.mtx.plain 1 1 ∨ 5 ≤ leAt s.mtx.plain 2 2)) := ⟨recFront (recAck 0 0 0), by decide⟩

theorem witness_RecordsExecuteOnceAndInOrder_stamp :
    ∃ s : State, s.recType = some 4 ∧ s.mtx.firstRec = false ∧ s.mtx.wr = none ∧ leAt s.mtx.plain 1 1 = 0 := ⟨recFront (recStamp 0 5 0), by decide⟩

theorem witness_RecordsExecuteOnceAndInOrder_beat :
    ∃ s : State, s.recType = some 5 ∧ s.mtx.firstRec = false ∧ s.mtx.wr = none ∧ ¬(leAt s.mtx.plain 1 1 = 0 ∨ 8 ≤ leAt s.mtx.plain 1 1 ∨ 16 ≤ leAt s.mtx.plain 2 1 ∨ 3 ≤ leAt s.mtx.plain 3 1) ∧ s.glb.st = .serve ∧ s.mtx.plain.length = 32 ∧ s.mtx.raised = false := ⟨recFront (5 :: 3 :: List.replicate 30 0), by decide⟩

theorem witness_RecordsExecuteOnceAndInOrder_beatBad :
    ∃ (s : State), (¬ (s.recType ≠ some 5)) ∧ (leAt s.mtx.plain 1 1 = 0 ∨ 8 ≤ leAt s.mtx.plain 1 1 ∨ 16 ≤ leAt s.mtx.plain 2 1 ∨ 3 ≤ leAt s.mtx.plain 3 1) := ⟨recFront (5 :: List.replicate 31 0), by decide⟩

theorem witness_RecordsExecuteOnceAndInOrder_beatIs :
    ∃ (s : State), (¬ (s.recType ≠ some 5)) ∧ (¬ (leAt s.mtx.plain 1 1 = 0 ∨ 8 ≤ leAt s.mtx.plain 1 1 ∨ 16 ≤ leAt s.mtx.plain 2 1 ∨ 3 ≤ leAt s.mtx.plain 3 1)) := ⟨recFront (5 :: 3 :: List.replicate 30 0), by decide⟩

theorem witness_RecordsExecuteOnceAndInOrder_begin :
    ∃ s : State, s.recType = some 6 ∧ s.mtx.firstRec = false ∧ s.mtx.wr = none ∧ leAt s.mtx.plain 1 1 = 0 ∧ s.seqClass (leAt s.mtx.plain 16 6) = 0 := ⟨recFront (recSync 0 7 2), by decide⟩

theorem witness_RecordsExecuteOnceAndInOrder_beginIs :
    ∃ (s : State), (¬ (s.recType ≠ some 6 ∨ (leAt s.mtx.plain 1 1) = 1 ∨ (leAt s.mtx.plain 1 1) = 2)) ∧ (¬ (3 ≤ (leAt s.mtx.plain 1 1))) := ⟨recFront (recSync 0 7 2), by decide⟩

theorem witness_RecordsExecuteOnceAndInOrder_end :
    ∃ s : State, s.recType = some 6 ∧ s.mtx.firstRec = false ∧ s.mtx.wr = none ∧ leAt s.mtx.plain 1 1 = 1 ∧ s.seqClass (leAt s.mtx.plain 16 6) = 0 := ⟨recFront (recSync 1 7 2), by decide⟩

theorem witness_RecordsExecuteOnceAndInOrder_endIs :
    ∃ (s : State), (¬ (s.recType ≠ some 6 ∨ leAt s.mtx.plain 1 1 ≠ 1)) := ⟨recFront (recSync 1 7 2), by decide⟩

theorem witness_RecordsExecuteOnceAndInOrder_repaired :
    ∃ s : State, s.recType = some 6 ∧ s.mtx.firstRec = false ∧ s.mtx.wr = none ∧ leAt s.mtx.plain 1 1 = 2 ∧ s.seqClass (leAt s.mtx.plain 16 6) = 0 := ⟨recFront (recSync 2 7 2), by decide⟩

theorem witness_RecordsExecuteOnceAndInOrder_repairedIs :
    ∃ (s : State), (¬ (s.recType ≠ some 6 ∨ leAt s.mtx.plain 1 1 ≠ 2)) := ⟨recFront (recSync 2 7 2), by decide⟩

theorem witness_RecordsExecuteOnceAndInOrder_takeover :
    ∃ s : State, s.recType = some 7 ∧ s.mtx.firstRec = false ∧ s.mtx.wr = none := ⟨recFront (recTakeover 0 0 0), by decide⟩

theorem witness_RecordsExecuteOnceAndInOrder_pad :
    ∃ s : State, s.recType = some 0 := ⟨recFront [0], by decide⟩

theorem witness_RecordsExecuteOnceAndInOrder_padIs :
    ∃ (s : State), (s.recType = some 0) := ⟨recFront [0], by decide⟩

theorem witness_RecordsExecuteOnceAndInOrder_timeoutNo :
    State.reset.mtx.wr = none := by decide

theorem witness_RecordsExecuteOnceAndInOrder_notYet :
    ∃ (s : State) (w : RxWrite), s.mtx.wr = some w ∧ (s.wrWhole = true ∨ (s.mtx.clean < w.clean + 200 ∧ s.expired w.start 2000 = false)) := ⟨State.reset.updMtx fun m => { m with wr := some ⟨0, 0, 0, 4, 0, false, false, false, [], 0, 0⟩ }, ⟨0, 0, 0, 4, 0, false, false, false, [], 0, 0⟩, by decide⟩

theorem witness_RecordsExecuteOnceAndInOrder_timeout :
    ∃ (s : State) (w : RxWrite), s.mtx.wr = some w ∧ s.wrWhole = false ∧ w.clean + 200 ≤ s.mtx.clean := ⟨State.reset.updMtx fun m => { m with wr := some ⟨0, 0, 0, 4, 0, false, false, false, [], 0, 0⟩, clean := 200 }, _, rfl, by decide⟩

theorem witness_RecordsExecuteOnceAndInOrder_timeoutIs :
    ∃ (s : State) (w : RxWrite), (s.mtx.wr = some w) ∧ (!s.wrWhole ∧ (w.clean + 200 ≤ s.mtx.clean ∨ s.expired w.start 2000)) := ⟨State.reset.updMtx fun m => { m with wr := some ⟨0, 0, 0, 4, 0, false, false, false, [], 0, 0⟩, clean := 200 }, ⟨0, 0, 0, 4, 0, false, false, false, [], 0, 0⟩, by decide⟩

theorem witness_SendingHeartbeatsAndAdoption_sendNo :
    ∃ s : State, s.sessionUp = true ∧ (512 < s.mlk.buf.length + s.mlk.txq.length + 32 ∨ 8192 ≤ s.mtx.ring.length) := ⟨(State.reset.set MTX_STATUS_SESSION 2).updMlk fun m => { m with txq := List.replicate 481 ⟨0, 0, []⟩ }, by decide⟩

theorem witness_SendingHeartbeatsAndAdoption_sendEnded :
    ∃ s : State, s.glb.st = .drain ∧ s.drn.sendsEnded = true := ⟨(inState .drain).updDrn fun d => { d with sendsEnded := true }, by decide⟩

theorem witness_SendingHeartbeatsAndAdoption_lost :
    ∃ (s : State) (e : QEntry), s.sessionUp = false ∧ s.glb.st ≠ .drain ∧ s.unsent = some e ∧ s.mtx.pendSync = none ∧ s.setupHolds (e.seq.getD 0) = false ∧ s.mtx.lost.contains (e.line / 64) = false ∧ s.mtx.lost.length < 8192 := ⟨queuedState, queuedEntry, by decide⟩

theorem witness_SendingHeartbeatsAndAdoption_sendIs :
    ∃ (s : State), (¬ ((s.glb.st = .drain ∧ s.drn.sendsEnded) ∨ (s.sessionUp ∧ (512 < s.mlk.buf.length + s.mlk.txq.length + 32 ∨ 8192 ≤ s.mtx.ring.length)))) := ⟨queuedState, by decide⟩

theorem witness_SendingHeartbeatsAndAdoption_counted :
    ∃ (s : State) (r : RingEntry) (l : List RingEntry), s.mtx.ring = r :: l ∧ s.sessionUp = true ∧ r.clean + 200 ≤ s.mtx.clean ∧ s.expired r.beat 2000 = true := ⟨((State.reset.set MTX_STATUS_SESSION 2).updMtx fun m => { m with ring := [⟨1, none, 0, 0⟩], clean := 200 }).updGlb fun g => { g with beat := 2001 }, _, _, rfl, by decide⟩

theorem witness_SendingHeartbeatsAndAdoption_hb :
    ∃ s : State, s.sessionUp = true ∧ s.mtx.hbSent + s.get MTX_CTRL_HB_BEATS ≤ s.glb.beat := ⟨(State.reset.set MTX_STATUS_SESSION 2).updGlb fun g => { g with beat := 100000000 }, by decide⟩

theorem witness_SendingHeartbeatsAndAdoption_hbIs :
    ∃ (s : State), (s.sessionUp ∧ s.mtx.hbSent + s.get MTX_CTRL_HB_BEATS ≤ s.glb.beat) := ⟨(State.reset.set MTX_STATUS_SESSION 2).updGlb fun g => { g with beat := 100000000 }, by decide⟩

theorem witness_SendingHeartbeatsAndAdoption_hbNo :
    State.reset.sessionUp = false := by decide

theorem witness_SendingHeartbeatsAndAdoption_loss :
    ∃ s : State, s.mtx.hbLast ≠ 0 ∧ s.bit MTX_STATUS_HBLOST = false ∧ s.expired s.mtx.hbLast (s.get MTX_CTRL_HB_LOSS) = true := ⟨(State.reset.updMtx fun m => { m with hbLast := 1 }).updGlb fun g => { g with beat := 1000000000 }, by decide⟩

theorem witness_SendingHeartbeatsAndAdoption_lossTake :
    ∃ (s : State), (s.mtx.hbLast ≠ 0 ∧ !s.bit MTX_STATUS_HBLOST ∧ s.expired s.mtx.hbLast (s.get MTX_CTRL_HB_LOSS)) ∧ (!s.bit MTX_STATUS_ALIVE_IN) := ⟨((State.reset.updMtx fun m => { m with hbLast := 1 }).updGlb fun g => { g with beat := 1000000000 }), by decide⟩

theorem witness_SendingHeartbeatsAndAdoption_lossQuit :
    ∃ (s : State), (s.mtx.hbLast ≠ 0 ∧ !s.bit MTX_STATUS_HBLOST ∧ s.expired s.mtx.hbLast (s.get MTX_CTRL_HB_LOSS)) ∧ (¬ (!s.bit MTX_STATUS_ALIVE_IN)) ∧ s.sessionUp := ⟨(((State.reset.updMtx fun m => { m with hbLast := 1 }).updGlb fun g => { g with beat := 1000000000 }).setB MTX_STATUS_ALIVE_IN true).set MTX_STATUS_SESSION 2, by decide⟩

theorem witness_SendingHeartbeatsAndAdoption_lossOnly :
    ∃ (s : State), (s.mtx.hbLast ≠ 0 ∧ !s.bit MTX_STATUS_HBLOST ∧ s.expired s.mtx.hbLast (s.get MTX_CTRL_HB_LOSS)) ∧ (¬ (!s.bit MTX_STATUS_ALIVE_IN)) ∧ (¬ (s.sessionUp)) := ⟨((State.reset.updMtx fun m => { m with hbLast := 1 }).updGlb fun g => { g with beat := 1000000000 }).setB MTX_STATUS_ALIVE_IN true, by decide⟩

theorem witness_SendingHeartbeatsAndAdoption_lossNo :
    State.reset.mtx.hbLast = 0 := by decide

theorem witness_SendingHeartbeatsAndAdoption_alive :
    ∃ s : State, s.bit MTX_STATUS_ALIVE_IN = true ∧ 10 ≤ s.mtx.aliveLow := ⟨(State.reset.setB MTX_STATUS_ALIVE_IN true).updMtx fun m => { m with aliveLow := 10 }, by decide⟩

theorem witness_SendingHeartbeatsAndAdoption_aliveTake :
    ∃ (s : State), (s.bit MTX_STATUS_ALIVE_IN ∧ 10 ≤ s.mtx.aliveLow) ∧ s.bit MTX_STATUS_HBLOST := ⟨((State.reset.setB MTX_STATUS_ALIVE_IN true).updMtx fun m => { m with aliveLow := 10 }).setB MTX_STATUS_HBLOST true, by decide⟩

theorem witness_SendingHeartbeatsAndAdoption_aliveUp :
    ∃ (s : State), (s.bit MTX_STATUS_ALIVE_IN ∧ 10 ≤ s.mtx.aliveLow) ∧ (¬ (s.bit MTX_STATUS_HBLOST)) ∧ s.sessionUp := ⟨((State.reset.setB MTX_STATUS_ALIVE_IN true).updMtx fun m => { m with aliveLow := 10 }).set MTX_STATUS_SESSION 2, by decide⟩

theorem witness_SendingHeartbeatsAndAdoption_aliveOff :
    ∃ (s : State), (s.bit MTX_STATUS_ALIVE_IN ∧ 10 ≤ s.mtx.aliveLow) ∧ (¬ (s.bit MTX_STATUS_HBLOST)) ∧ (¬ (s.sessionUp)) := ⟨(State.reset.setB MTX_STATUS_ALIVE_IN true).updMtx fun m => { m with aliveLow := 10 }, by decide⟩

theorem witness_SendingHeartbeatsAndAdoption_aliveNo :
    State.reset.bit MTX_STATUS_ALIVE_IN = false := by decide

theorem witness_SendingHeartbeatsAndAdoption_full :
    ∃ s : State, s.sessionUp = true ∧ s.mtx.sync = 2 ∧ s.glb.lazyRestore = false := ⟨(State.reset.set MTX_STATUS_SESSION 2).updMtx fun m => { m with sync := 2 }, by decide⟩

theorem witness_SendingHeartbeatsAndAdoption_fullIs :
    ∃ (s : State), (s.sessionUp ∧ s.mtx.sync = 2 ∧ !s.glb.lazyRestore) := ⟨(State.reset.set MTX_STATUS_SESSION 2).updMtx fun m => { m with sync := 2 }, by decide⟩

theorem witness_SendingHeartbeatsAndAdoption_fullNo :
    State.reset.mtx.sync = 0 := by decide

theorem witness_SendingHeartbeatsAndAdoption_region :
    ∃ (p : Port) (off : BitVec 48) (s : State), s.answersFast p = true ∧ s.bit MTX_ADOPT_ACTIVE = true ∧ off.toNat < s.img.size 4 := ⟨.pa, 0, answering, by decide⟩

theorem witness_SendingHeartbeatsAndAdoption_regionNo :
    State.reset.answersFast .pa = false := by decide

theorem witness_SendingHeartbeatsAndAdoption_release :
    ∃ (key : BitVec 16) (s : State), s.blockOff 0x8004C = false ∧ key.toNat = 0x4144 ∧ s.glb.st = .serve ∧ s.bit MTX_ADOPT_ACTIVE = true := ⟨0x4144, adoptedState, by decide⟩

theorem witness_SendingHeartbeatsAndAdoption_releaseIs :
    ∃ (key : BitVec 16) (s : State), (¬ (s.blockOff 0x8004C)) ∧ (key.toNat = 0x4144 ∧ s.glb.st = .serve ∧ s.bit MTX_ADOPT_ACTIVE) := ⟨0x4144, adoptedState, by decide⟩

theorem witness_SendingHeartbeatsAndAdoption_releaseNo :
    State.reset.blockOff 0x8004C = true ∧ trainable.blockOff 0x8004C = false := by decide

theorem witness_TasksRunWaitAndComplete_refused :
    ∃ (g : Agent) (s : State), s.answers g = true ∧ s.submitCode g [] 0 ≠ 1 := ⟨.stw, State.reset, by decide⟩

theorem witness_TasksRunWaitAndComplete_accepted :
    ∃ (g : Agent) (tile : BitVec 6) (s : State), s.answers g = true ∧ s.submitCode g (((List.range 8).map fun n => leBytes 4 (s.get (DSP_SUB_BYTES n g))).flatten) tile.toNat = 1 ∧ s.get (DSP_SUB_BYTES 3 g) ≠ 0 ∧ s.get (DSP_SUB_BYTES 3 g) < 2 ^ 32 := ⟨.stw, 0, submitState, by decide⟩

theorem witness_TasksRunWaitAndComplete_submitIs :
    ∃ (g : Agent) (tile : BitVec 6) (s : State), (¬ (!s.answers g)) ∧ (¬ ((s.submitCode g (((List.range 8).map fun n => leBytes 4 (s.get (DSP_SUB_BYTES n g))).flatten) tile.toNat) ≠ 1)) := ⟨.stw, 0, submitState, by decide⟩

theorem witness_TasksRunWaitAndComplete_pickNo :
    ∃ (tile : BitVec 6) (e : BitVec 4) (s : State), ¬(s.engineFree (16 * tile.toNat + e.toNat) = true ∧ (∀ i < e.toNat, s.engineFree (16 * tile.toNat + i) = false) ∧ s.handedNow tile.toNat < 4) := ⟨0, 1, pickable, by decide⟩

theorem witness_TasksRunWaitAndComplete_pick :
    ∃ (tile : BitVec 6) (e : BitVec 4) (s : State) (k : Task), (s.engineFree (16 * tile.toNat + e.toNat) = true ∧ (∀ i < e.toNat, s.engineFree (16 * tile.toNat + i) = false) ∧ s.handedNow tile.toNat < 4) ∧ s.pick tile.toNat (16 * tile.toNat + e.toNat) = some k := ⟨0, 0, pickable, aTask .ready, by decide⟩

theorem witness_TasksRunWaitAndComplete_picked :
    ∃ (t e : Nat) (s : State) (k : Task), s.pick t e = some k := ⟨0, 0, pickable, aTask .ready, by decide⟩

theorem witness_TasksRunWaitAndComplete_stealNo :
    State.reset.dsp.tasks = [] := by decide

theorem witness_TasksRunWaitAndComplete_stealIs :
    ∃ (th : BitVec 6) (s : State) (v : Task), s.mayStealAt th.toNat = true ∧ s.stealChoice th.toNat = some v ∧ s.taskOf v.tid = some v := ⟨0, stealable, _, by decide, rfl, rfl⟩

theorem witness_TasksRunWaitAndComplete_stealLost :
    ∃ (th : BitVec 6) (e : BitVec 4) (s : State) (v : Task), s.mayStealAt th.toNat = true ∧ s.stealChoice th.toNat = some v ∧ s.engineTurn v.tile e.toNat = true ∧ s.pick v.tile (16 * v.tile + e.toNat) = some v := ⟨0, 0, stealable, _, by decide, rfl, by decide, rfl⟩

theorem witness_TasksRunWaitAndComplete_deliver :
    ∃ (th : BitVec 6) (s : State) (k : Task), s.dsp.tasks.find? (fun k => k.st = .moving th.toNat) = some k := ⟨1, taskState (.moving 1), aTask (.moving 1), by decide⟩

theorem witness_TasksRunWaitAndComplete_sliceNo :
    State.reset.taskOf 0 = none := by decide

theorem witness_TasksRunWaitAndComplete_slice :
    ∃ (tid : Word) (s : State) (k : Task), s.taskOf tid.toNat = some k ∧ k.st.isRunning = true := ⟨0, taskState (.running 0), aTask (.running 0), by decide⟩

theorem witness_TasksRunWaitAndComplete_ended :
    ∃ (s : State) (k : Task) (g : Agent), k.producer = some g ∧ (s.dsp.cpl.get g).length < 64 := ⟨State.reset, { aTask .ready with producer := some .stw }, .stw, rfl, by decide⟩

theorem witness_TasksRunWaitAndComplete_metNo :
    State.reset.taskOf 0 = none := by decide

theorem witness_TasksRunWaitAndComplete_met :
    ∃ (tid : Word) (s : State) (k : Task), s.taskOf tid.toNat = some k ∧ k.st = .waiting ∧ k.waitLow = false := ⟨0, taskState .waiting, aTask .waiting, by decide⟩

theorem witness_TasksRunWaitAndComplete_metIs :
    ∃ (tid : Word) (recovery : Word) (s : State) (k : Task), (s.taskOf tid.toNat = some k) ∧ (¬ (k.st ≠ .waiting)) ∧ (¬ (k.cancel)) := ⟨0, 0, taskState .waiting, aTask .waiting, by decide⟩

theorem witness_TasksRunWaitAndComplete_timeout :
    ∃ (tid r : Word) (s : State) (k : Task), s.taskOf tid.toNat = some k ∧ k.st = .waiting ∧ s.expired k.waitStart (min (k.waitBeats + (if k.waitLow then r.toNat else 0)) (10 * k.waitBeats)) = true := ⟨0, 0, (taskState .waiting).updGlb fun g => { g with beat := 100000000 }, aTask .waiting, by decide⟩

theorem witness_TasksRunWaitAndComplete_cancelNo :
    State.reset.taskOf 0 = none := by decide

theorem witness_TasksRunWaitAndComplete_cancel :
    ∃ (g : Agent) (tid : Word) (s : State) (k : Task), s.answers g = true ∧ s.taskOf tid.toNat = some k ∧ k.producer = some g ∧ k.st = .ready := ⟨.stw, 0, State.reset.updDsp fun d => { d with tasks := [{ aTask .ready with producer := some .stw }] }, { aTask .ready with producer := some .stw }, by decide⟩

theorem witness_TasksRunWaitAndComplete_pop :
    State.reset.answers .stw = true := by decide

theorem witness_TasksRunWaitAndComplete_unanswered :
    State.reset.answers .hostA = false := by decide

theorem witness_TilesLeaveReturnAndRoll_quiesceNo :
    State.reset.domOn 0 = false := by decide

theorem witness_TilesLeaveReturnAndRoll_quiesce :
    ∃ (t : BitVec 6) (s : State), s.domOn t.toNat = true ∧ s.inService t.toNat = true ∧ s.dsp.leaving.contains t.toNat = false ∧ s.outCount + 1 ≤ 24 := ⟨0, tileState, by decide⟩

theorem witness_TilesLeaveReturnAndRoll_out :
    ∃ (t : BitVec 6) (s : State), (s.tile t.toNat = 1 ∧ s.dsp.back.contains t.toNat = false ∧ s.shareOcc t.toNat = 0 ∧ (∀ k ∈ s.dsp.tasks, k.tile ≠ t.toNat)) ∧ s.dsp.roll = none := ⟨0, State.reset.set (TIL_STATUS_STATE 0) 1, by decide⟩

theorem witness_TilesLeaveReturnAndRoll_outNo :
    ¬(State.reset.tile 0 = 1) := by decide

theorem witness_TilesLeaveReturnAndRoll_outRoll :
    ∃ (t : BitVec 6) (s : State), (s.tile t.toNat = 1 ∧ !s.dsp.back.contains t.toNat ∧ s.shareOcc t.toNat = 0 ∧ !(s.dsp.tasks.any fun k => k.tile = t.toNat)) ∧ s.rollLoads t.toNat := ⟨0, ((State.reset.set (TIL_STATUS_STATE 0) 1).updDsp fun d => { d with roll := some ⟨[], [0], 0, 0, false, 1⟩ }), by decide⟩

theorem witness_TilesLeaveReturnAndRoll_timeout :
    ∃ (s : State) (t : BitVec 6), s.tile t.toNat = 1 ∧ s.expired (Store.get 0 s.dsp.since t.toNat - 1) (s.get DSP_CTRL_QUIESCE_BEATS) = true ∧ s.dsp.back.contains t.toNat = false := ⟨(State.reset.set (TIL_STATUS_STATE 0) 1).updGlb fun g => { g with beat := 1000000000000 }, 0, by decide⟩

theorem witness_TilesLeaveReturnAndRoll_timeoutNo :
    ∃ (s : State) (t : BitVec 6), ¬(s.tile t.toNat = 1 ∧ s.expired (Store.get 0 s.dsp.since t.toNat - 1) (s.get DSP_CTRL_QUIESCE_BEATS) = true ∧ s.dsp.back.contains t.toNat = false) := ⟨State.reset, 0, by decide⟩

theorem witness_TilesLeaveReturnAndRoll_return :
    ∃ (s : State) (t : BitVec 6), s.domOn t.toNat = true ∧ s.tile t.toNat = 2 ∧ s.dsp.back.contains t.toNat = false ∧ s.dsp.kept.contains t.toNat = false := ⟨tileState.set (TIL_STATUS_STATE 0) 2, 0, by decide⟩

theorem witness_TilesLeaveReturnAndRoll_returnNo :
    ∃ (s : State) (t : BitVec 6), ¬(s.domOn t.toNat = true ∧ s.tile t.toNat = 2 ∧ s.dsp.back.contains t.toNat = false ∧ s.dsp.kept.contains t.toNat = false) := ⟨State.reset, 0, by decide⟩

theorem witness_TilesLeaveReturnAndRoll_rollNo :
    State.reset.glb.st ≠ .serve := by decide

theorem witness_TilesLeaveReturnAndRoll_roll :
    ∃ (s : State) (n : Nat), s.stw.staged = some (2, n) ∧ s.glb.st = .serve ∧ s.dsp.roll = none ∧ Store.wf 0 s.regs = true := ⟨(State.reset.updStw fun w => { w with staged := some (2, 1) }).updGlb fun g => { g with st := .serve }, 1, by decide⟩

theorem witness_TilesLeaveReturnAndRoll_rollIs :
    ∃ (maxout : BitVec 5) (s : State) (slot : Nat), (s.stw.staged = some (2, slot)) ∧ (¬ (s.glb.st ≠ .serve)) ∧ (¬ (s.dsp.roll.isSome)) := ⟨0, (State.reset.updStw fun w => { w with staged := some (2, 1) }).updGlb fun g => { g with st := .serve }, 1, by decide⟩

theorem witness_TilesLeaveReturnAndRoll_abort :
    ∃ (s : State) (r : Roll), s.dsp.roll = some r := ⟨State.reset.updDsp fun d => { d with roll := some ⟨[], [], 0, 0, false, 1⟩ }, _, rfl⟩

theorem witness_TilesLeaveReturnAndRoll_loaded :
    ∃ (s : State) (t : BitVec 6), s.tile t.toNat = 3 := ⟨State.reset.set (TIL_STATUS_STATE 0) 3, 0, by decide⟩

theorem witness_TilesLeaveReturnAndRoll_loadedNo :
    ∃ (s : State) (t : BitVec 6), ¬(s.tile t.toNat = 3) := ⟨State.reset, 0, by decide⟩

theorem witness_TilesLeaveReturnAndRoll_testNo :
    State.reset.tile 0 ≠ 4 := by decide

theorem witness_TilesLeaveReturnAndRoll_test :
    ∃ (t : BitVec 6) (s : State) (r : Roll), s.tile t.toNat = 4 ∧ s.dsp.retried.contains t.toNat = false ∧ s.dsp.roll = some r ∧ s.glb.st ≠ .grace ∧ s.glb.st ≠ .drain := ⟨0, (State.reset.set (TIL_STATUS_STATE 0) 4).updDsp fun d => { d with roll := some ⟨[], [], 0, 0, false, 1⟩ }, _, by decide, by decide, rfl, by decide⟩

theorem witness_TilesLeaveReturnAndRoll_bootNo :
    State.reset.glb.st ≠ .boot := by decide

theorem witness_TilesLeaveReturnAndRoll_boot :
    ∃ s : State, s.glb.st = .boot ∧ Store.wf 0 s.regs = true := ⟨State.reset.updGlb fun g => { g with st := .boot }, by decide⟩

theorem witness_TilesLeaveReturnAndRoll_bootIs :
    ∃ (passed : BitVec 64) (s : State), (¬ (s.glb.st ≠ .boot)) ∧ (¬ (ones 64 passed.toNat < 40)) := ⟨0xFFFFFFFFFF, State.reset.updGlb fun g => { g with st := .boot }, by decide⟩

theorem witness_TilesLeaveReturnAndRoll_bootFew :
    ∃ (passed : BitVec 64) (s : State), (¬ (s.glb.st ≠ .boot)) ∧ (ones 64 passed.toNat < 40) := ⟨0, State.reset.updGlb fun g => { g with st := .boot }, by decide⟩

theorem witness_ImagesValidateAndSwap_bootNo :
    State.reset.glb.st ≠ .boot := by decide

theorem witness_ImagesValidateAndSwap_boot :
    ∃ (s : State) (r : Roles), s.glb.cycle = 0 ∧ s.glb.st = .boot ∧ s.sti.active = none ∧ s.roles = some r ∧ (s.macNeeded r.act = false ∨ (s.dgeTake .image).1 = true) := ⟨roledState .boot, ⟨0, 1, 2, 0⟩, by decide⟩

theorem witness_ImagesValidateAndSwap_bootIs :
    ∃ (s : State) (r : Roles), s.glb.cycle = 0 ∧ s.glb.st = .boot ∧ s.sti.active = none ∧ s.roles = some r := ⟨roledState .boot, ⟨0, 1, 2, 0⟩, by decide⟩

theorem witness_ImagesValidateAndSwap_validate :
    ∃ s : State, s.glb.st = .serve ∧ s.get STI_STATUS_SHADE ≠ 0 ∧ ¬(s.get STI_STATUS_SWAP = 1 ∨ s.get STI_STATUS_SWAP = 2) := ⟨(State.reset.set STI_STATUS_SHADE 1).updGlb fun g => { g with st := .serve }, by decide⟩

theorem witness_ImagesValidateAndSwap_doneNo :
    State.reset.get STI_STATUS_SHADE ≠ 2 := by decide

theorem witness_ImagesValidateAndSwap_done :
    ∃ (s : State) (r : Roles), s.get STI_STATUS_SHADE = 2 ∧ s.roleBusy = false ∧ s.roles = some r ∧ (s.macNeeded r.shd = false ∨ (s.dgeTake .image).1 = true) := ⟨(roledState .serve).set STI_STATUS_SHADE 2, ⟨0, 1, 2, 0⟩, by decide⟩

theorem witness_ImagesValidateAndSwap_doneIs :
    ∃ (s : State) (r : Roles), s.get STI_STATUS_SHADE = 2 ∧ s.roleBusy = false ∧ s.roles = some r := ⟨((roledState .serve).set STI_STATUS_SHADE 2), ⟨0, 1, 2, 0⟩, by decide⟩

theorem witness_ImagesValidateAndSwap_swap :
    ∃ (key : BitVec 16) (s : State) (sh : Image) (r : Roles), (key.toNat = 0x5357 ∧ s.glb.st = .serve ∧ s.sti.shade = some sh ∧ s.roles = some r ∧ s.get STI_STATUS_SHADE = 3 ∧ s.get STI_STATUS_SWAP = 0) ∧ s.swapCode s.img sh = 0 := ⟨0x5357, swappable, Image.empty, ⟨0, 1, 2, 0⟩, by decide⟩

theorem witness_ImagesValidateAndSwap_committed :
    ∃ (s : State) (p : RoleWrite), s.cfl.op = some (.internal (.role p)) := ⟨State.reset.updCfl fun c => { c with op := some (.internal (.role .swap)) }, .swap, rfl⟩

theorem witness_ImagesValidateAndSwap_effectNo :
    State.reset.sti.requested = none := by decide

theorem witness_ImagesValidateAndSwap_effect :
    ∃ (s : State) (b : Nat) (sh : Image), s.glb.cycle = 399 ∧ s.sti.requested = some b ∧ s.sti.shade = some sh ∧ s.get STI_STATUS_SWAP = 2 ∧ b ≤ s.glb.beat + 1 ∧ s.glb.st = .serve := ⟨((State.reset.set STI_STATUS_SWAP 2).updSti fun x => { x with requested := some 0, shade := some Image.empty }).updGlb fun g => { g with st := .serve, cycle := 399 }, 0, Image.empty, by decide⟩

theorem witness_ImagesValidateAndSwap_effectIs :
    ∃ (s : State), (s.glb.cycle = 399) := ⟨((State.reset.set STI_STATUS_SWAP 2).updSti fun x => { x with requested := some 0, shade := some Image.empty }).updGlb fun g => { g with st := .serve, cycle := 399 }, by decide⟩

theorem witness_ImagesValidateAndSwap_release :
    ∃ s : State, s.glb.cycle = 399 ∧ s.sti.retiring ≠ none ∧ s.sti.releaseBeat ≤ s.glb.beat + 1 ∧ ¬(s.get STI_STATUS_SWAP = 2 ∧ s.sti.requested = none) := ⟨(State.reset.updSti fun x => { x with retiring := some Image.empty }).updGlb fun g => { g with cycle := 399 }, by decide⟩

theorem witness_ImagesValidateAndSwap_releaseHeld :
    ∃ s : State, s.glb.cycle = 399 ∧ s.sti.retiring ≠ none ∧ s.sti.releaseBeat ≤ s.glb.beat + 1 ∧ s.get STI_STATUS_SWAP = 2 ∧ s.sti.requested = none := ⟨((State.reset.set STI_STATUS_SWAP 2).updSti fun x => { x with retiring := some Image.empty }).updGlb fun g => { g with cycle := 399 }, by decide⟩

theorem witness_ImagesValidateAndSwap_releaseNo :
    State.reset.sti.retiring = none := by decide

theorem witness_ImagesValidateAndSwap_cancelNo :
    State.reset.get STI_STATUS_SWAP ≠ 1 := by decide

theorem witness_ImagesValidateAndSwap_cancel :
    ∃ s : State, s.get STI_STATUS_SWAP = 1 ∧ Store.wf 0 s.regs = true := ⟨State.reset.set STI_STATUS_SWAP 1, by decide⟩

theorem witness_ImagesValidateAndSwap_cancelIs :
    ∃ (s : State), (¬ (s.get STI_STATUS_SWAP ≠ 1)) := ⟨State.reset.set STI_STATUS_SWAP 1, by decide⟩

theorem witness_ImagesValidateAndSwap_rollback :
    ∃ (key : BitVec 16) (s : State) (r : Roles), key.toNat = 0x5357 ∧ s.glb.st = .serve ∧ ¬(s.get STI_STATUS_SWAP = 1 ∨ s.get STI_STATUS_SWAP = 2) ∧ s.roles = some r := ⟨0x5357, roledState .serve, ⟨0, 1, 2, 0⟩, by decide⟩

theorem witness_ImagesValidateAndSwap_rollbackIs :
    ∃ (key : BitVec 16) (s : State) (r : Roles), key = 0x5357 ∧ s.glb.st = .serve ∧ ¬(s.get STI_STATUS_SWAP = 1 ∨ s.get STI_STATUS_SWAP = 2) ∧ s.roles = some r := ⟨0x5357, roledState .serve, ⟨0, 1, 2, 0⟩, by decide⟩

theorem witness_ImagesValidateAndSwap_swapIs :
    ∃ (key : BitVec 16) (s : State) (sh : Image) (r : Roles), key = 0x5357 ∧ s.glb.st = .serve ∧ s.sti.shade = some sh ∧ s.roles = some r ∧ s.get STI_STATUS_SHADE = 3 ∧ s.get STI_STATUS_SWAP = 0 ∧ s.swapCode s.img sh = 0 := ⟨0x5357, swappable, Image.empty, ⟨0, 1, 2, 0⟩, by decide⟩

theorem witness_FlashSequences_off :
    State.reset.flashAnswers .stw = false := by decide

theorem witness_FlashSequences_cmd0No :
    ∃ (w : Word) (s : State), w.toNat / 65536 ≠ 0x5AFE ∧ ∀ q, s.cfl.seq = some q → q.agent ≠ .stw := ⟨0, State.reset, by decide, nofun⟩

theorem witness_FlashSequences_cmd0Own :
    ∃ (g : Agent) (s : State) (q : NatSeq), s.flashAnswers g = true ∧ s.cfl.seq = some q ∧ q.agent = g := ⟨.stw, flashable.updCfl fun c => { c with seq := some ⟨.stw, 0, 1, [], 0⟩ }, _, by decide, rfl, rfl⟩

theorem witness_FlashSequences_cmd0 :
    ∃ (g : Agent) (w : Word) (s : State), s.flashAnswers g = true ∧ w.toNat / 65536 = 0x5AFE ∧ s.cfl.seq = none ∧ s.cfl.compat = none ∧ s.cfl.op = none ∧ s.cfl.queue = [] := ⟨.stw, 0x5AFE0010, flashable, by decide⟩

theorem witness_FlashSequences_cmd0Held :
    ∃ (g : Agent) (w : Word) (s : State), s.flashAnswers g = true ∧ w.toNat / 65536 = 0x5AFE ∧ s.cfl.op = some (.blank .hostA false 0) := ⟨.stw, 0x5AFE0010, flashable.updCfl fun c => { c with op := some (.blank .hostA false 0) }, by decide⟩

theorem witness_FlashSequences_noSeq :
    State.reset.cfl.seq = none := by decide

theorem witness_FlashSequences_cmd1 :
    ∃ (w : Word) (s : State) (q : NatSeq), s.flashAnswers q.agent = true ∧ s.cfl.seq = some q ∧ q.step = 1 ∧ w.toNat = 0xA5A50000 + (q.cc ^^^ 0xFF) := ⟨0xA5A500EF, flashable.updCfl fun c => { c with seq := some ⟨.stw, 0x10, 1, [], 0⟩ }, ⟨.stw, 0x10, 1, [], 0⟩, by decide⟩

theorem witness_FlashSequences_data :
    ∃ (s : State) (q : NatSeq), s.flashAnswers q.agent = true ∧ s.cfl.seq = some q ∧ q.step = 2 ∧ q.words = [] := ⟨flashable.updCfl fun c => { c with seq := some ⟨.stw, 0x10, 2, [], 0⟩ }, ⟨.stw, 0x10, 2, [], 0⟩, by decide⟩

theorem witness_FlashSequences_dataBad :
    ∃ (s : State) (q : NatSeq), s.flashAnswers q.agent = true ∧ s.cfl.seq = some q ∧ q.step = 2 ∧ q.cc = 0x10 ∧ q.words.getLast? = some (4, 0) := ⟨flashable.updCfl fun c => { c with seq := some ⟨.stw, 0x10, 2, [(4, 0)], 0⟩ }, ⟨.stw, 0x10, 2, [(4, 0)], 0⟩, by decide⟩

theorem witness_FlashSequences_cmd2Bad :
    ∃ (s : State) (q : NatSeq) (w : Word), s.flashAnswers q.agent = true ∧ s.cfl.seq = some q ∧ q.step = 2 ∧ q.cc = 0x10 ∧ w.toNat = 0x600D0010 ∧ q.words = [] := ⟨flashable.updCfl fun c => { c with seq := some ⟨.stw, 0x10, 2, [], 0⟩ }, ⟨.stw, 0x10, 2, [], 0⟩, 0x600D0010, by decide⟩

theorem witness_FlashSequences_start :
    ∃ (s : State) (q : NatSeq) (w : Word), s.flashAnswers q.agent = true ∧ s.cfl.seq = some q ∧ q.step = 2 ∧ q.words = [(0xB00000, 0)] ∧ s.mayWrite q.agent 176 = true ∧ s.cfl.read 0xB00000 4 = [0xFF, 0xFF, 0xFF, 0xFF] ∧ q.cc = 0x10 ∧ w.toNat = 0x600D0010 := ⟨flashable.updCfl fun c => { c with seq := some ⟨.stw, 0x10, 2, [(0xB00000, 0)], 0⟩ }, ⟨.stw, 0x10, 2, [(0xB00000, 0)], 0⟩, 0x600D0010, by decide⟩

theorem witness_FlashSequences_startOp :
    ∃ (s : State), s.mayWrite .stw 176 = true ∧ bitOf s.cfl.worn 176 = false ∧ bitOf s.cfl.half 176 = false := ⟨flashable, by decide⟩

theorem witness_FlashSequences_compatOff :
    State.reset.cfl.compat = none := by decide

theorem witness_FlashSequences_keys :
    ∃ s : State, s.flashAnswers .stw = true ∧ s.bit CFL_CTRL_COMPAT = true ∧ s.cfl.compat = none ∧ s.cfl.seq = none ∧ s.cfl.op = none ∧ s.cfl.queue = [] := ⟨flashable.setB CFL_CTRL_COMPAT true, by decide⟩

theorem witness_FlashSequences_compat :
    ∃ (s : State) (c : CompatSeq), s.flashAnswers c.agent = true ∧ s.bit CFL_CTRL_COMPAT = true ∧ s.cfl.compat = some c ∧ c.step = 4 ∧ s.mayWrite c.agent (c.addr / 65536) = true ∧ s.cfl.read c.addr 4 = [0xFF, 0xFF, 0xFF, 0xFF] := ⟨(flashable.setB CFL_CTRL_COMPAT true).updCfl fun c => { c with compat := some ⟨.stw, 4, 0xA0, 0xB00000, 0⟩ }, ⟨.stw, 4, 0xA0, 0xB00000, 0⟩, by decide⟩

theorem witness_OnlyCompletionsChangeFlash_same :
    ∃ t, exec (.bootSelect .hostA false 0) State.reset = .next t := ⟨_, rfl⟩

theorem witness_OnlyCompletionsChangeFlash_program :
    ∃ (s : State) (g : Agent) (sec : Nat) (l : List (Nat × Nat)), s.cfl.op = some (.program g false sec l) := ⟨State.reset.updCfl fun c => { c with op := some (.program .stw false 176 [(0xB00000, 0)]) }, _, _, _, rfl⟩

theorem witness_OnlyCompletionsChangeFlash_erase :
    ∃ (s : State) (g : Agent) (sec n : Nat), s.cfl.op = some (.erase g false sec n) ∧ n < 4 := ⟨State.reset.updCfl fun c => { c with op := some (.erase .stw false 176 1) }, .stw, 176, 1, by decide⟩

theorem witness_OnlyCompletionsChangeFlash_others :
    ∃ (s : State) (w : IWrite), s.cfl.op = some (.internal w) := ⟨State.reset.updCfl fun c => { c with op := some (.internal (.role .swap)) }, _, rfl⟩

theorem witness_OnlyCompletionsChangeFlash_clears :
    Store.wf 0xFF State.reset.cfl.bytes = true := by decide

theorem witness_OnlyCompletionsChangeFlash_idle :
    State.reset.cfl.op = none ∧ State.reset.cfl.bg = none := by decide

theorem witness_OnlyCompletionsChangeFlash_scan :
    ∃ s : State, s.domOn 95 = true ∧ s.cfl.ready = false := ⟨State.reset.set (SEQ_DOMON_DOMAINS 2) 2147483648, by decide⟩

theorem witness_OnlyCompletionsChangeFlash_scanIs :
    ∃ (s : State), (¬ (!s.domOn 95 ∨ s.cfl.ready)) := ⟨State.reset.set (SEQ_DOMON_DOMAINS 2) 2147483648, by decide⟩

theorem witness_OnlyCompletionsChangeFlash_select :
    ∃ (g : Agent) (key : BitVec 16) (s : State), s.flashAnswers .stw = true ∧ g = .stw ∧ key.toNat = 0x4254 := ⟨.stw, 0x4254, flashable, by decide⟩

theorem witness_DigestEngineOwnership_order :
    State.reset.answers .hostA = false := by decide

theorem witness_DigestEngineOwnership_again :
    ∃ (g : Agent) (s : State) (c : DgeComp), s.answers g = true ∧ s.dge.owner = some c ∧ c.who = .host g := ⟨.stw, State.reset.updDge fun d => { d with owner := some ⟨.host .stw, 0, 0, 4, [], 0⟩ }, ⟨.host .stw, 0, 0, 4, [], 0⟩, by decide⟩

theorem witness_DigestEngineOwnership_noKey :
    ∃ (g : Agent) (alg : BitVec 2) (k : BitVec 5) (s : State), s.answers g = true ∧ s.dge.owner = none ∧ 2 ≤ alg.toNat ∧ ¬((s.slot k.toNat).key ≠ none ∧ (s.slot k.toNat).use = 0) := ⟨.stw, 2, 0, State.reset, by decide⟩

theorem witness_DigestEngineOwnership_start :
    ∃ (g : Agent) (s : State), s.answers g = true ∧ s.dge.owner = none ∧ s.dge.transfer = 0 ∧ s.get (DGE_LEN_LEN g) ≠ 0 := ⟨.stw, State.reset.set (DGE_LEN_LEN .stw) 4, by decide⟩

theorem witness_DigestEngineOwnership_startIs :
    ∃ (g : Agent) (s : State), s.answers g = true ∧ s.dge.owner = none ∧ s.dge.transfer = 0 ∧ s.get (DGE_LEN_LEN g) ≠ 0 := ⟨.stw, State.reset.set (DGE_LEN_LEN .stw) 4, by decide⟩

theorem witness_DigestEngineOwnership_resumeNo :
    ∃ s : State, s.answers .stw = true ∧ s.dge.owner = none ∧ Store.get none s.dge.ctx 0 = none := ⟨State.reset, by decide⟩

theorem witness_DigestEngineOwnership_resumeOld :
    ∃ (g : Agent) (n : BitVec 2) (s : State) (c : DgeCtx), s.answers g = true ∧ s.dge.owner = none ∧ Store.get none s.dge.ctx n.toNat = some c ∧ c.comp.who = .host g ∧ s.expired c.beat 1000000 = true := ⟨.stw, 0, (State.reset.updDge fun d => { d with ctx := [(0, some ⟨⟨.host .stw, 0, 0, 4, [], 0⟩, 0, 0, []⟩)] }).updGlb fun g => { g with beat := 1000001 }, ⟨⟨.host .stw, 0, 0, 4, [], 0⟩, 0, 0, []⟩, by decide⟩

theorem witness_DigestEngineOwnership_resume :
    ∃ (g : Agent) (n : BitVec 2) (s : State) (c : DgeCtx), s.answers g = true ∧ s.dge.owner = none ∧ s.dge.transfer = 0 ∧ Store.get none s.dge.ctx n.toNat = some c ∧ c.comp.who = .host g ∧ s.expired c.beat 1000000 = false := ⟨.stw, 0, State.reset.updDge fun d => { d with ctx := [(0, some ⟨⟨.host .stw, 0, 0, 4, [], 0⟩, 0, 0, []⟩)] }, ⟨⟨.host .stw, 0, 0, 4, [], 0⟩, 0, 0, []⟩, by decide⟩

theorem witness_DigestEngineOwnership_resumeIs :
    ∃ (g : Agent) (n : BitVec 2) (s : State) (c : DgeCtx), s.answers g = true ∧ s.dge.owner = none ∧ s.dge.transfer = 0 ∧ Store.get none s.dge.ctx n.toNat = some c ∧ c.comp.who = .host g ∧ s.expired c.beat 1000000 = false := ⟨.stw, 0, State.reset.updDge fun d => { d with ctx := [(0, some ⟨⟨.host .stw, 0, 0, 4, [], 0⟩, 0, 0, []⟩)] }, ⟨⟨.host .stw, 0, 0, 4, [], 0⟩, 0, 0, []⟩, by decide⟩

theorem witness_DigestEngineOwnership_abort :
    ∃ (g : Agent) (s : State) (c : DgeComp), s.answers g = true ∧ s.dge.owner = some c ∧ c.who = .host g ∧ s.dge.wait = [] := ⟨.stw, State.reset.updDge fun d => { d with owner := some ⟨.host .stw, 0, 0, 4, [], 0⟩ }, ⟨.host .stw, 0, 0, 4, [], 0⟩, by decide⟩

theorem witness_DigestEngineOwnership_feed :
    ∃ (g : Agent) (s : State) (c : DgeComp), s.answers g = true ∧ s.dge.owner = some c ∧ c.who = .host g ∧ s.dge.transfer ≠ 2 ∧ c.full s.dge.compressing = false ∧ c.fed.length < c.len := ⟨.stw, State.reset.updDge fun d => { d with owner := some ⟨.host .stw, 0, 0, 4, [], 0⟩ }, ⟨.host .stw, 0, 0, 4, [], 0⟩, by decide⟩

theorem witness_DigestEngineOwnership_feedOther :
    State.reset.dge.owner = none := by decide

theorem witness_DigestEngineOwnership_blockNo :
    State.reset.dge.owner = none := by decide

theorem witness_DigestEngineOwnership_last :
    ∃ (g : Agent) (s : State) (c : DgeComp), s.dge.owner = some c ∧ c.who = .host g ∧ s.dge.compressing = true ∧ c.fed.length = c.len ∧ c.len ≤ c.done + blockSize c.alg := ⟨.stw, State.reset.updDge fun d => { d with owner := some ⟨.host .stw, 0, 0, 1, [7], 0⟩, compressing := true }, _, rfl, by decide⟩

theorem witness_DigestEngineOwnership_timeout :
    ∃ (s : State) (c : DgeComp) (g : Agent), s.dge.owner = some c ∧ c.who = .host g ∧ s.expired s.dge.lastWrite 1000 = true := ⟨(State.reset.updDge fun d => { d with owner := some ⟨.host .stw, 0, 0, 4, [], 0⟩ }).updGlb fun g => { g with beat := 1001 }, _, .stw, rfl, rfl, by decide⟩

theorem witness_DigestEngineOwnership_expiry :
    ∃ (n : BitVec 2) (s : State) (c : DgeCtx), Store.get none s.dge.ctx n.toNat = some c ∧ s.expired c.beat 1000000 = true ∧ s.dge.importing ≠ some n.toNat := ⟨0, (State.reset.updDge fun d => { d with ctx := [(0, some ⟨⟨.host .stw, 0, 0, 4, [], 0⟩, 0, 0, []⟩)] }).updGlb fun g => { g with beat := 1000001 }, _, rfl, by decide⟩

theorem witness_DigestEngineOwnership_moved :
    ∃ (s : State) (n : Nat), s.dge.transfer = 2 ∧ s.dge.importing = some n := ⟨State.reset.updDge fun d => { d with transfer := 2, importing := some 0 }, 0, by decide⟩

theorem witness_DigestEngineOwnership_imported :
    ∃ (s : State) (c : DgeComp) (x : DgeCtx) (fed : List Byte), s.dge.owner = some c ∧ c.who = .host .stw ∧ Store.get none s.dge.ctx 0 = some x ∧ c.alg < 2 ∧ s.dgeRestored x = some fed := ⟨State.reset.updDge fun d => { d with owner := some ⟨.host .stw, 0, 0, 4, [], 0⟩, ctx := [(0, some ⟨⟨.host .stw, 0, 0, 4, [], 0⟩, 0, 0, []⟩)] }, _, _, _, rfl, rfl, rfl, by decide, rfl⟩

theorem witness_DigestEngineOwnership_importBad :
    ∃ (s : State) (c : DgeComp) (x : DgeCtx), s.dge.transfer = 2 ∧ s.dge.importing = some 0 ∧ s.dge.owner = some c ∧ Store.get none s.dge.ctx 0 = some x ∧ 2 ≤ c.alg := ⟨State.reset.updDge fun d => { d with transfer := 2, importing := some 0, owner := some ⟨.host .stw, 2, 0, 4, [], 0⟩, ctx := [(0, some ⟨⟨.host .stw, 2, 0, 4, [], 0⟩, 0, 0, []⟩)] }, _, _, rfl, rfl, rfl, rfl, by decide⟩

theorem witness_DigestEngineOwnership_exportedIs :
    ∃ (intact : Bool) (s : State), (s.dge.transfer = 1) := ⟨true, State.reset.updDge fun d => { d with transfer := 1 }, by decide⟩

theorem witness_KeySlotsUnderTheirPolicy_closed :
    State.reset.keyCmdOk .hostA 0 = false := by decide

theorem witness_KeySlotsUnderTheirPolicy_kept :
    exec (.keyOpSeven .hostA 0) State.reset = .next State.reset := rfl

theorem witness_KeySlotsUnderTheirPolicy_importBad :
    State.reset.keyCmdOk .stw 0x4B59 = true := by decide

theorem witness_KeySlotsUnderTheirPolicy_import :
    State.reset.keyCmdOk .stw 0x4B59 = true := by decide

theorem witness_KeySlotsUnderTheirPolicy_importIs :
    State.reset.keyCmdOk .stw 0x4B59 = true := by decide

theorem witness_KeySlotsUnderTheirPolicy_export :
    ∃ (sl : BitVec 5) (s : State) (v e : List Byte), s.keyCmdOk .stw 0x4B59 = true ∧ (s.slot sl.toNat).key = some v ∧ s.keyOf s.policyImage.escrowKey = some e ∧ bitOf (s.slot sl.toNat).policy 0 = true ∧ sl.toNat ≠ s.policyImage.escrowKey := ⟨1, exportState, List.replicate 32 0, List.replicate 32 0, by decide⟩

theorem witness_KeySlotsUnderTheirPolicy_lock :
    ∃ (sl : BitVec 5) (s : State), s.keyCmdOk .stw 0x4B59 = true ∧ bitOf (s.slot sl.toNat).policy 2 = true := ⟨1, State.reset.setSlot 1 ⟨none, 0, false, 0, 4⟩, by decide⟩

theorem witness_KeySlotsUnderTheirPolicy_compare :
    ∃ (sl : BitVec 5) (s : State), s.keyCmdOk .stw 0x4B59 = true ∧ (s.slot sl.toNat).use = 6 := ⟨1, State.reset.setSlot 1 ⟨none, 0, false, 6, 0⟩, by decide⟩

theorem witness_KeySlotsUnderTheirPolicy_escrow :
    ∃ s : State, s.keyCmdOk .stw 0x4B59 = true ∧ (s.policyImage.escrowKey < 32 ∧ (s.slot s.policyImage.escrowKey).key = none ∧ bitOf (s.policyImage.slotPolicy s.policyImage.escrowKey) 1 = true) := ⟨newEscrow, by decide⟩

theorem witness_KeySlotsUnderTheirPolicy_load :
    ∃ (s : State) (r : CellRec), s.domOn 94 = true ∧ s.dge.loaded = false ∧ s.cell 6 = some r ∧ Store.wf ⟨none, 0, false, 0, 0⟩ s.dge.slots = true := ⟨keyCellState, ⟨1, cellSector 6, []⟩, by decide⟩

theorem witness_KeySlotsUnderTheirPolicy_loadIs :
    ∃ (s : State) (r : CellRec), (¬ (!s.domOn 94 ∨ s.dge.loaded)) ∧ (s.cell 6 = some r) := ⟨keyCellState, ⟨1, cellSector 6, []⟩, by decide⟩

theorem witness_StewardStartsAndConfirms_startNo :
    State.reset.domOn 93 = false := by decide

theorem witness_StewardStartsAndConfirms_start :
    ∃ (a b : Bool) (s : State), s.domOn 93 = true ∧ s.flashOn = true ∧ s.stwUp = false ∧ s.selectorBusy = false ∧ s.selBlock = 0 ∧ s.blockServes a 0 = true := ⟨true, true, startable, by decide⟩

theorem witness_StewardStartsAndConfirms_startIs :
    ∃ (a b : Bool) (s : State), s.domOn 93 = true ∧ s.flashOn = true ∧ s.stwUp = false ∧ s.selectorBusy = false ∧ s.blockServes (if s.selBlock = 0 then a else b) s.selBlock = true := ⟨true, true, startable, by decide⟩

theorem witness_StewardStartsAndConfirms_startTwin :
    ∃ (a b : Bool) (s : State), s.domOn 93 = true ∧ s.flashOn = true ∧ s.stwUp = false ∧ s.selectorBusy = false ∧ s.blockServes (if s.selBlock = 0 then a else b) s.selBlock = false ∧ s.blockServes (if 1 - s.selBlock = 0 then a else b) (1 - s.selBlock) = true := ⟨false, true, startable, by decide⟩

theorem witness_StewardStartsAndConfirms_startNone :
    ∃ (good0 good1 : Bool) (s : State), (¬ (!s.domOn 93 ∨ !s.flashOn ∨ s.stwUp ∨ s.selectorBusy)) ∧ (¬ ((fun (n : Nat) => s.blockServes (if n = 0 then good0 else good1) n) s.selBlock)) ∧ (¬ ((fun (n : Nat) => s.blockServes (if n = 0 then good0 else good1) n) (1 - s.selBlock))) := ⟨false, false, startable, by decide⟩

theorem witness_StewardStartsAndConfirms_watchdog :
    ∃ (s : State), s.stwUp = true ∧ s.expired s.stw.kick (1000 * s.get STW_CTRL_WDOG_MS) = true := ⟨(State.reset.set STW_STATUS_RUN 2).updGlb fun g => { g with beat := 100000000000 }, by decide⟩

theorem witness_StewardStartsAndConfirms_watchdogNo :
    ∃ (s : State), ¬(s.stwUp = true ∧ s.expired s.stw.kick (1000 * s.get STW_CTRL_WDOG_MS) = true) := ⟨State.reset, by decide⟩

theorem witness_StewardStartsAndConfirms_restart :
    ∃ (g : Agent) (key : BitVec 16) (s : State), s.answers g = true ∧ key = 0x5354 ∧ s.domOn 93 = true := ⟨.stw, 0x5354, State.reset.set (SEQ_DOMON_DOMAINS 2) 536870912, by decide⟩

theorem witness_StewardStartsAndConfirms_confirm :
    ∃ (s : State) (g : Agent), g = .stw ∧ s.get STW_STATUS_RUN = 3 := ⟨State.reset.set STW_STATUS_RUN 3, .stw, by decide⟩

theorem witness_StewardStartsAndConfirms_confirmNo :
    ∃ (s : State) (g : Agent), ¬(g = .stw ∧ s.get STW_STATUS_RUN = 3) := ⟨State.reset, .stw, by decide⟩

theorem witness_StewardStartsAndConfirms_kick :
    ∃ (s : State) (g : Agent), g = .stw ∧ s.stwUp = true := ⟨State.reset.set STW_STATUS_RUN 3, .stw, by decide⟩

theorem witness_StewardStartsAndConfirms_kickNo :
    ∃ (s : State) (g : Agent), ¬(g = .stw ∧ s.stwUp = true) := ⟨State.reset, .stw, by decide⟩

theorem witness_StewardStartsAndConfirms_unconfirmed :
    ∃ (s : State), s.get STW_STATUS_RUN = 3 ∧ s.expired s.stw.trialStart (1000000 * s.get STW_CTRL_CONFIRM_S) = true := ⟨(State.reset.set STW_STATUS_RUN 3).updGlb fun g => { g with beat := 100000000000 }, by decide⟩

theorem witness_StewardStartsAndConfirms_unconfirmedNo :
    ∃ (s : State), ¬(s.get STW_STATUS_RUN = 3 ∧ s.expired s.stw.trialStart (1000000 * s.get STW_CTRL_CONFIRM_S) = true) := ⟨State.reset, by decide⟩

theorem witness_StewardStartsAndConfirms_sense :
    ∃ s : State, s.stwUp = true ∧ s.stw.lastSense + 1000 ≤ s.glb.beat ∧ Store.wf 0 s.regs = true := ⟨(State.reset.set STW_STATUS_RUN 2).updGlb fun g => { g with beat := 1000 }, by decide⟩

theorem witness_StewardStartsAndConfirms_senseIs :
    ∃ (temps : List (BitVec 12)) (mv : List (BitVec 16)) (s : State), (s.stwUp ∧ s.stw.lastSense + 1000 ≤ s.glb.beat) := ⟨[], [], (State.reset.set STW_STATUS_RUN 2).updGlb fun g => { g with beat := 1000 }, by decide⟩

theorem witness_StewardStartsAndConfirms_senseNo :
    State.reset.stwUp = false := by decide

theorem witness_StewardMailboxAndUpdates_held :
    State.reset.stwUp = false := by decide

theorem witness_StewardMailboxAndUpdates_noSteward :
    ∃ (p : Port) (s : State), s.answers p.agent = true ∧ s.stw.mbxOwner = none ∧ s.stwUp = false := ⟨.pa, awake, by decide⟩

theorem witness_StewardMailboxAndUpdates_versions :
    ∃ s : State, s.stwUp = true := ⟨State.reset.set STW_STATUS_RUN 2, by decide⟩

theorem witness_StewardMailboxAndUpdates_begin :
    ∃ (size : Word) (s : State), s.stwUp = true ∧ s.stw.update = none ∧ s.mayUpdate = true ∧ packageSize size.toNat = true := ⟨300, (State.reset.set STW_STATUS_RUN 2).updGlb fun g => { g with st := .serve }, by decide⟩

theorem witness_StewardMailboxAndUpdates_data :
    ∃ (s : State) (u : Update), s.stwUp = true ∧ s.stw.update = some u ∧ s.mbxReceiving = true ∧ u.bytes.length + 1 ≤ u.size := ⟨((State.reset.set STW_STATUS_RUN 2).set STW_STATUS_UPD 1).updStw fun w => { w with update := some ⟨false, 300, [], false⟩ }, _, by decide, rfl, by decide⟩

theorem witness_StewardMailboxAndUpdates_end :
    ∃ (s : State) (u : Update), s.stwUp = true ∧ s.stw.update = some u ∧ s.mbxReceiving = true ∧ s.verifyPackage u ≠ 1 := ⟨((State.reset.set STW_STATUS_RUN 2).set STW_STATUS_UPD 1).updStw fun w => { w with update := some ⟨false, 300, [], false⟩ }, _, by decide, rfl, by decide⟩

theorem witness_StewardMailboxAndUpdates_cancel :
    ∃ s : State, s.stwUp = true ∧ s.staging = false := ⟨State.reset.set STW_STATUS_RUN 2, by decide⟩

theorem witness_StewardMailboxAndUpdates_commandsAre :
    ∃ (g : Option Port) (s : State), s.answersOpt g = true := ⟨none, State.reset, by decide⟩

theorem witness_StewardMailboxAndUpdates_activate :
    ∃ (s : State) (b : Nat), s.stwUp = true ∧ s.mayActivate = some b ∧ s.domOn 93 = true ∧ s.staging = false := ⟨(((State.reset.set STW_STATUS_RUN 2).set (SEQ_DOMON_DOMAINS 2) 536870912).updGlb fun g => { g with st := .serve }).updStw fun w => { w with staged := some (1, 1) }, 1, by decide⟩

theorem witness_StewardMailboxAndUpdates_walltime :
    ∃ s : State, s.stwUp = true ∧ Store.wf 0 s.regs = true := ⟨State.reset.set STW_STATUS_RUN 2, by decide⟩

theorem witness_SidebandAddressesAndControlMessages_silent :
    State.reset.stwUp = false := by decide

theorem witness_SidebandAddressesAndControlMessages_addr :
    ∃ (f : BitVec 7) (s : State), s.stwUp = true ∧ s.stw.dynAddr = 0 ∧ f.toNat = 0x58 + s.stw.straps % 4 := ⟨0x58, State.reset.set STW_STATUS_RUN 2, by decide⟩

theorem witness_SidebandAddressesAndControlMessages_smbus :
    State.reset.stw.i3c = false := by decide

theorem witness_SidebandAddressesAndControlMessages_i3c :
    ∃ s : State, s.stwUp = true ∧ s.stw.i3c = true := ⟨(State.reset.set STW_STATUS_RUN 2).updStw fun w => { w with i3c := true }, by decide⟩

theorem witness_SidebandAddressesAndControlMessages_mctp :
    ∃ (e : BitVec 8) (s : State), s.stwUp = true ∧ e ≠ 0 ∧ e ≠ 0xFF := ⟨9, State.reset.set STW_STATUS_RUN 2, by decide⟩

theorem witness_PldmBaseMonitoringAndUpdate_silent :
    State.reset.stwUp = false := by decide

theorem witness_PldmBaseMonitoringAndUpdate_base :
    ∃ (e : BitVec 8) (s : State), s.stwUp = true ∧ e ≠ 0 ∧ e ≠ 0xFF := ⟨9, State.reset.set STW_STATUS_RUN 2, by decide⟩

theorem witness_PldmBaseMonitoringAndUpdate_sensors :
    ∃ (i : BitVec 16) (s : State), s.stwUp = true ∧ s.sensorKnown i.toNat = true ∧ s.stw.sensorOff.contains i.toNat = false := ⟨3, State.reset.set STW_STATUS_RUN 2, by decide⟩

theorem witness_PldmBaseMonitoringAndUpdate_queries :
    ∃ s : State, s.stwUp = true := ⟨State.reset.set STW_STATUS_RUN 2, by decide⟩

theorem witness_PldmBaseMonitoringAndUpdate_request :
    ∃ s : State, s.stwUp = true ∧ s.stw.update = none ∧ s.glb.st = .serve := ⟨(State.reset.set STW_STATUS_RUN 2).updGlb fun g => { g with st := .serve }, by decide⟩

theorem witness_PldmBaseMonitoringAndUpdate_noUpdate :
    ∃ s : State, s.stwUp = true ∧ s.pldmUpdate = none := ⟨State.reset.set STW_STATUS_RUN 2, by decide⟩

theorem witness_PldmBaseMonitoringAndUpdate_component :
    ∃ (s : State) (u : Update), s.stwUp = true ∧ s.stw.update = some u ∧ u.viaPldm = true ∧ s.stw.pldm = 2 ∧ s.get STW_STATUS_UPD = 1 ∧ u.pulled = true ∧ u.bytes.length + 1 < u.size := ⟨((State.reset.set STW_STATUS_RUN 2).set STW_STATUS_UPD 1).updStw fun w => { w with pldm := 2, update := some ⟨true, 300, [], true⟩ }, _, by decide, rfl, by decide⟩

theorem witness_PldmBaseMonitoringAndUpdate_activate :
    ∃ (s : State) (b : Nat), s.stwUp = true ∧ s.mayActivate = some b := ⟨((State.reset.set STW_STATUS_RUN 2).updGlb fun g => { g with st := .serve }).updStw fun w => { w with staged := some (1, 1) }, 1, by decide⟩

theorem witness_PldmBaseMonitoringAndUpdate_cancel :
    ∃ (s : State) (u : Update), s.stwUp = true ∧ s.stw.update = some u ∧ u.viaPldm = true ∧ s.staging = false := ⟨(State.reset.set STW_STATUS_RUN 2).updStw fun w => { w with update := some ⟨true, 300, [], true⟩ }, _, by decide, rfl, by decide⟩

theorem witness_RecorderCursorsChallengesAndClears_cursor :
    ∃ (g : Agent) (seq : Word) (s : State), (¬ (!s.answers g)) := ⟨.stw, 5#32, State.reset, by decide⟩

theorem witness_RecorderCursorsChallengesAndClears_challenge :
    awake.answers .hostA = true ∧ State.reset.answers .stw = true ∧ (0x434C : BitVec 16) = 0x434C ∧ (0 : BitVec 16) ≠ 0x434C := by decide

theorem witness_RecorderCursorsChallengesAndClears_unanswered :
    State.reset.answers .hostA = false := by decide

theorem witness_RecorderCursorsChallengesAndClears_clearNo :
    awake.answers .hostA = true ∧ (0 : BitVec 16) ≠ 0x434C ∧ awake.evr.chal = none ∧ (∃ c, (State.reset.updEvr fun e => { e with chal := some ⟨.hostA, 0, 0, []⟩ }).evr.chal = some c ∧ c.agent ≠ .stw ∧ State.reset.answers .stw = true) := by decide

theorem witness_RecorderCursorsChallengesAndClears_clearIs :
    ∃ (g : Agent) (c : Challenge) (s : State), s.answers g = true ∧ s.evr.chal = some c ∧ c.agent = g := ⟨.hostA, ⟨.hostA, 0, 0, []⟩, awake.updEvr fun e => { e with chal := some ⟨.hostA, 0, 0, []⟩ }, by decide⟩

theorem witness_RecorderCursorsChallengesAndClears_clear :
    ∃ (g : Agent) (c : Challenge) (s : State), (s.answers g = true ∧ s.evr.chal = some c ∧ c.agent = g) ∧ Store.wf 0 s.regs = true := ⟨.hostA, ⟨.hostA, 0, 0, []⟩, awake.updEvr fun e => { e with chal := some ⟨.hostA, 0, 0, []⟩ }, by decide⟩

theorem witness_RecorderCursorsChallengesAndClears_expiry :
    ∃ (s : State), s.evr.chal.any (fun c => s.expired c.beat 1000000) = true := ⟨(State.reset.updEvr fun e => { e with chal := some ⟨.hostA, 0, 0, []⟩ }).updGlb fun g => { g with beat := 10000000 }, by decide⟩

theorem witness_RecorderCursorsChallengesAndClears_expiryNo :
    ∃ (s : State), ¬(s.evr.chal.any (fun c => s.expired c.beat 1000000) = true) := ⟨State.reset, by decide⟩

theorem witness_RecorderCursorsChallengesAndClears_copy :
    ∃ (s : State), s.expired s.evr.copyStart 3600000000 = true := ⟨State.reset.updGlb fun g => { g with beat := 100000000000 }, by decide⟩

theorem witness_RecorderCursorsChallengesAndClears_copyNo :
    ∃ (s : State), ¬(s.expired s.evr.copyStart 3600000000 = true) := ⟨State.reset, by decide⟩

theorem witness_RecorderCursorsChallengesAndClears_copied :
    State.reset.flashOn = false ∧ State.reset.evr.toCopy = [] := by decide

theorem witness_EachEventCodeHasTheSeverityOfTheTable_others :
    (0x0403 : Nat) ∉ ([0x0404, 0x0608, 0x0712, 0x0B0A, 0x0302, 0x0308, 0x040A, 0x0503, 0x0609, 0x060A, 0x060D, 0x070A, 0x0715, 0x0716, 0x0808, 0x0904, 0x0908, 0x0A08, 0x0A0B, 0x0A0C, 0x0B03, 0x0B07, 0x0B0B, 0x0B0C, 0x0B0E, 0x1007, 0x0101, 0x0110, 0x0201, 0x0202] ++ [0x0203, 0x0204, 0x0205, 0x0207, 0x0303, 0x0306, 0x0307, 0x0309, 0x030B, 0x030C, 0x0401, 0x0402, 0x0405, 0x0407, 0x0408, 0x040B, 0x040C, 0x0504, 0x0505, 0x0506, 0x0508, 0x0509, 0x050A, 0x050D, 0x0601, 0x0603, 0x0605, 0x0703, 0x0706, 0x0707] ++ [0x0708, 0x0709, 0x070C, 0x0711, 0x0718, 0x0719, 0x0802, 0x0803, 0x0804, 0x0805, 0x0806, 0x0807, 0x0902, 0x0903, 0x0909, 0x090A, 0x090B, 0x090C, 0x090D, 0x090E, 0x090F, 0x0914, 0x0916, 0x0917, 0x0A04, 0x0A07, 0x0A09, 0x0A0A, 0x0A0D, 0x0A0E] ++ [0x0B04, 0x0B08, 0x0B09, 0x0B0D, 0x0B0F, 0x0B10, 0x0B11, 0x0C02, 0x0C06, 0x0C08, 0x0D01, 0x0D02, 0x0D03, 0x0D04, 0x0D05, 0x0D06, 0x0D07, 0x0E01, 0x0E03, 0x0E04, 0x0F02, 0x0F04, 0x1002, 0x1004, 0x1005, 0x1006, 0x1008] : List Nat) := by decide

theorem witness_EachEventCodeHasTheSeverityOfTheTable_query :
    Store.wf 0 State.reset.regs = true := by decide

theorem witness_EventsAreRecordedAndInterruptsRaised_fold :
    ∃ (s : State) (r : Rec), s.evr.ring = [r] ∧ r.code = 0x0F02 ∧ r.src = 0 ∧ s.beat - r.lastBeat ≤ s.get EVR_RPTWIN_BEATS ∧ r.rep < 65535 ∧ s.get EVR_RPTWIN_BEATS ≠ 0 := ⟨(State.reset.set EVR_RPTWIN_BEATS 100).updEvr fun e => { e with ring := [⟨0, 0, 0x0F02, 0, false, false, 0, 0, 0, [], true⟩] }, _, rfl, by decide⟩

theorem witness_EventsAreRecordedAndInterruptsRaised_fresh :
    State.reset.evr.ring = [] := by decide

theorem witness_EventsAreRecordedAndInterruptsRaised_report :
    State.reset.get EVR_CTRL_IRQ_SEV ≤ severity 0x0404 := by decide

theorem witness_EventsAreRecordedAndInterruptsRaised_raise :
    ∃ s : State, bitOf (s.irq.istat.get .hostA) 8 = false ∧ s.enabled 8 = true ∧ bitOf (s.imask .hostA) 8 = false ∧ s.domOn 80 = true ∧ s.domOn 82 = true ∧ s.irq.funcMask.get .pa = false ∧ s.get (MSIX_CTL_MASK (s.get (vectorField 8 .hostA)) .hostA) = 0 ∧ s.hp.up.get .pa = true := ⟨(((State.reset.set (SEQ_DOMON_DOMAINS 2) (2 ^ 16 + 2 ^ 18)).set (GLB_IMASK0_MASK .hostA) 0).set (MSIX_CTL_MASK 8 .hostA) 0).updHp fun h => { h with up := ⟨true, false⟩ }, by decide⟩

theorem witness_AccessesPinsAndMessages_unassigned :
    awake.answers .hostA = true ∧ (0x3C : BitVec 27).toNat < 0x4000000 ∧ assigned .hostA 0x3C = false ∧ assigned .hostA 0x38 = true := by decide

theorem witness_AccessesPinsAndMessages_latch :
    awake.answers .hostA = true ∧ (0x14 : BitVec 27).toNat ∈ latchLo ∧ awake.blockOff 0x14 = false ∧ (0x38 : BitVec 27).toNat ∉ latchLo := by decide

theorem witness_AccessesPinsAndMessages_msix :
    ∃ s : State, 5 ∈ s.irq.held.get .pa ∧ s.hp.up.get .pa = true := ⟨(State.reset.updIrq fun i => { i with held := ⟨[5], []⟩ }).updHp fun h => { h with up := ⟨true, false⟩ }, by decide⟩

theorem witness_AccessesPinsAndMessages_msixHeld :
    ∃ (p : Port) (v : BitVec 6) (s : State), ((s.irq.held.get p).contains v.toNat ∧ s.hp.up.get p = true) := ⟨.pa, 5#6, (State.reset.updIrq fun i => { i with held := ⟨[5], []⟩ }).updHp fun h => { h with up := ⟨true, false⟩ }, by decide⟩

theorem witness_AccessesPinsAndMessages_msixPending :
    ∃ (p : Port) (v : BitVec 6) (s : State), (¬ ((s.irq.held.get p).contains v.toNat ∧ s.hp.up.get p = true)) ∧ (bitOf (s.irq.pba.get p) v.toNat ∧ s.get (MSIX_CTL_MASK v.toNat p.agent) = 0 ∧ s.irq.funcMask.get p = false) := ⟨.pa, 5#6, ((State.reset.set (MSIX_CTL_MASK 5 .hostA) 0).updIrq fun i => { i with pba := ⟨32, 0⟩ }), by decide⟩

theorem witness_AccessesPinsAndMessages_lockIs :
    ∃ (g : Agent) (s : State), (¬ (!s.answers g)) := ⟨.hostA, awake, by decide⟩

theorem witness_AccessesPinsAndMessages_lock :
    awake.answers .hostA = true ∧ State.reset.answers .stw = true := by decide

theorem witness_AccessesPinsAndMessages_unanswered :
    State.reset.answers .hostA = false := by decide

theorem witness_AccessesPinsAndMessages_jtag :
    State.reset.get SEQ_STATUS_PHASE = 0 := by decide

theorem witness_RegistersOfAnOffDomainReadZeroAndIgnoreWrites_off :
    ∃ (g : Agent) (off : BitVec 27) (s : State), s.answers g = true ∧ off.toNat < 0x4000000 ∧ assigned g off.toNat = true ∧ s.blockOff off.toNat = true ∧ off.toNat ∈ latchLo := ⟨.hostA, 0x80008, withDomains awake 2 0x3FFFFFF, by decide⟩

theorem witness_RegistersOfAnOffDomainReadZeroAndIgnoreWrites_blocks :
    (0x100000 : Nat) + 0x4000 * 3 ≤ 0x10C000 ∧ 0x10C000 < 0x100000 + 0x4000 * (3 + 1) := by decide

theorem witness_RegistersOfAnOffDomainReadZeroAndIgnoreWrites_onDomain :
    State.reset.blockOff 0xE0008 = false := by decide

theorem witness_ReadsAndWritesOfRegisters_read :
    ∃ (g : Agent) (off : BitVec 27), awake.answers g = true ∧ off.toNat < 0x4000000 ∧ assigned g off.toNat = true ∧ awake.blockOff off.toNat = false ∧ off.toNat ∉ latchLo ∧ off.toNat ≠ 0xF0104 ∧ off.toNat ≠ 0xA0040 := ⟨.hostA, 0x38, by decide⟩

theorem witness_ReadsAndWritesOfRegisters_readIs :
    ∃ (g : Agent) (off : BitVec 27) (s : State), (¬ (!s.answers g)) := ⟨.hostA, 0x38#27, awake, by decide⟩

theorem witness_ReadsAndWritesOfRegisters_writeIs :
    awake.answers .hostB = true := by decide

theorem witness_ReadsAndWritesOfRegisters_order :
    (RegTarget.space 0x34) ≠ .space 0xD0008 ∧ (RegTarget.space 0x34) ≠ .space 0x7FFFFF0 := by decide

theorem witness_ReadsAndWritesOfRegisters_stray :
    awake.answers .hostA = true ∧ (0x38 : BitVec 27).toNat < 0x4000000 ∧ assigned .hostA 0x3C = false ∧ (3 : BitVec 4) ≠ 15 := by decide

theorem witness_ReadsAndWritesOfRegisters_funcMask :
    awake.answers Port.pa.agent = true := by decide

theorem witness_ReadsAndWritesOfRegisters_write :
    (0x34 : BitVec 27).toNat ∈ ([0x20, 0x24, 0x28, 0x2C, 0x30, 0x34, 0x38, 0x40, 0x60] : List Nat) ∧ awake.answers .hostA = true ∧ Store.wf 0 awake.regs = true := by decide

theorem witness_OperatingStateMovesOnlyAsListed_moves :
    ∃ (c : Instr) (s t : State), exec c s = .next t ∧ (match c with | .vddaonLoss => False | .vddaonPowerOn .. => False | _ => True) ∧ t.glb.st ≠ s.glb.st := ⟨.rideThrough, State.reset.updGlb fun g => { g with st := .grace, backBeats := 50 }, _, rfl, trivial, by decide⟩

theorem witness_OperatingStateMovesOnlyAsListed_boot :
    ∃ (s t : State), exec .rideThrough s = .next t ∧ t.glb.st = .serve := ⟨State.reset.updGlb fun g => { g with st := .grace, backBeats := 50 }, _, rfl, by decide⟩

end Sys2Proof.Tests
end

section
/-! PROOFS. The operating state: which operations keep it, which may seal the controller, and the moves of every command (R23). -/

namespace Sys2Proof.Machine

/-- Every part of the state but the operating state: a change of these parts leaves GLB_STATE.STATE as it is. -/
abbrev allButOp : Nat := 0x7FFFFF

theorem Keeps.st {s t : State} (h : Keeps allButOp s t) : t.glb.st = s.glb.st := h.op rfl

/-- The operating state stands or becomes SEALED. -/
def Seals (s t : State) : Prop := t.glb.st = s.glb.st ∨ t.glb.st = .sealed

theorem Seals.refl (s : State) : Seals s s := .inl rfl

theorem Seals.trans {s t u : State} (h : Seals s t) (k : Seals t u) : Seals s u := by
  obtain k | k := k
  · unfold Seals; rw [k]; exact h
  · exact .inr k

theorem Keeps.seals {s t : State} (h : Keeps allButOp s t) : Seals s t := .inl h.st

/-- What leaves the operating state alone may follow, or come before, what may seal. -/
theorem Seals.keeps {s t u : State} (h : Seals s t) (k : Keeps allButOp t u) : Seals s u := h.trans k.seals

theorem Seals.ite {c : Prop} [Decidable c] {s t u : State} (h : c → Seals s t) (k : ¬c → Seals s u) :
    Seals s (if c then t else u) := by
  split
  · exact h ‹_›
  · exact k ‹_›

theorem Seals.foldl {α : Type} {g : State → α → State} (hg : ∀ t a, Seals t (g t a)) :
    ∀ (l : List α) (s : State), Seals s (l.foldl g s)
  | [], s => .refl s
  | a :: l, s => (hg s a).trans (Seals.foldl hg l _)

theorem State.enter_seals (s : State) : Seals s (s.enter .sealed) := .inr rfl

/-- No change yet: the start of a chain of changes of `allButOp`. -/
theorem Keeps.start (s : State) : Keeps allButOp s s := .refl _ s

theorem State.pdDone_seals (s : State) : Seals s s.pdDone := by
  unfold State.pdDone
  extract_lets hold s1 s2 s3
  have k1 : Keeps allButOp s s1 := State.set_keeps (State.updSeq_keeps (.start s) _) _ _
  have k2 : Keeps allButOp s s2 := .ite (fun _ => k1) fun _ => State.event_keeps _ _ k1
  have k3 : Keeps allButOp s s3 := .ite (fun _ => State.event_keeps _ _ k2) fun _ => k2
  exact .ite (fun _ => k3.seals.trans s3.enter_seals) fun _ => k3.seals

theorem State.pdStep_seals (s : State) : Seals s s.pdStep := by
  unfold State.pdStep
  split
  · exact s.pdDone_seals
  · exact (State.updSeq_keeps (State.railOff_keeps _ _
      (.ite (fun _ => State.allDomsOff_keeps (.start s)) fun _ => .start s)) _).seals

theorem State.powerDown_seals (s : State) : Seals s s.powerDown := by
  unfold State.powerDown
  extract_lets s1 s2 s3
  have k1 : Keeps allButOp s s1 := State.updDrn_keeps (State.setB_keeps (State.set_keeps (.start s) _ _) _ _) _
  have k2 : Keeps allButOp s s2 := Keeps.foldl (fun t _ => State.railOff_keeps _ _ (.start t)) _ k1
  have k3 : Keeps allButOp s s3 := State.event_keeps _ _ (State.updSeq_keeps k2 _)
  exact k3.seals.trans s3.pdStep_seals

theorem State.abandon_seals (s : State) (bad : List Nat) (rail src : Nat) : Seals s (s.abandon bad rail src) := by
  unfold State.abandon
  extract_lets ramp s1 s2
  have k1 : Keeps allButOp s s1 := State.set_keeps (State.railsOff_keeps _ (.start s)) _ _
  have k2 : Keeps allButOp s s2 :=
    State.updSeq_keeps (Keeps.foldl (fun t _ => State.setRail_keeps _ _ (.start t)) _ k1) _
  exact (State.seqEvent_keeps _ _ _ k2).seals.trans (State.powerDown_seals _)

theorem State.abandonFor_seals (s : State) (d : Nat) : Seals s (s.abandonFor d) :=
  .ite (fun _ => s.abandon_seals _ _ _) fun _ => (State.updSeq_keeps (.start s) _).seals

theorem State.abandonStep_seals (s : State) : Seals s s.abandonStep := by
  unfold State.abandonStep
  split
  · have k := fun f => (State.updSeq_keeps (.start s) f).seals
    exact .ite (fun _ => (k _).trans (State.abandon_seals _ _ _ _)) fun _ => k _
  · exact .refl s

theorem State.coreStopStep_seals (s : State) : Seals s s.coreStopStep := by
  unfold State.coreStopStep
  split
  · exact s.pdDone_seals
  · exact (State.updSeq_keeps (State.railOff_keeps _ _ (.start s)) _).seals

theorem State.coreStopBegin_seals (s : State) (n src : Nat) : Seals s (s.coreStopBegin n src) := by
  unfold State.coreStopBegin
  extract_lets s1 s2 s3
  have k3 : Seals s s3 := .inr rfl
  exact (k3.keeps (State.updSeq_keeps (.start s3) _)).trans (State.coreStopStep_seals _)

theorem State.coreStop_seals (s : State) (n src : Nat) : Seals s (s.coreStop n src) :=
  .ite (fun _ => s.coreStopBegin_seals _ _) fun _ => (State.updSeq_keeps (.start s) _).seals

theorem State.coreStopDue_seals (s : State) : Seals s s.coreStopDue := by
  unfold State.coreStopDue
  split
  · exact (State.updSeq_keeps (.start s) _).seals.trans (State.coreStopBegin_seals _ _ _)
  · exact .refl s

theorem State.offStep_seals (s : State) : Seals s s.offStep :=
  .ite (fun _ => s.powerDown_seals) fun _ => .refl s

theorem State.railBad_seals (s : State) (n : Nat) : Seals s (s.railBad n) := by
  unfold State.railBad
  extract_lets g s1 phase r s2 s3
  have k1 : Keeps allButOp s s1 := State.railFault_keeps _ (.start s)
  have off : ∀ code, Keeps allButOp s (((s1.railsOff (s.withDesc [n])).setRail n 5).seqEvent code n (srcRail n)) :=
    fun code => State.seqEvent_keeps _ _ _ (State.setRail_keeps _ _ (State.railsOff_keeps _ k1))
  have k2 : Keeps allButOp s s2 := State.setRailSt_keeps _ _ (State.setRail_keeps _ _ k1)
  have k3 : Keeps allButOp s s3 := .ite (fun _ => State.setB_keeps k2 _ _) fun _ => k2
  refine .ite (fun _ => .ite (fun _ => ?coreStopRuns) fun _ => ?powersDown) fun _ =>
    .ite (fun _ => .ite (fun _ => ?owned) fun _ => .ite (fun _ => ?offAsked) fun _ => ?abandons) fun _ =>
    .ite (fun _ => ?core) fun _ => .ite (fun _ => ?ownedLater) fun _ => ?timed
  case coreStopRuns => exact (State.railsOff_keeps _ k1).seals
  case powersDown => exact (off _).seals
  case owned => exact (State.groupFail_keeps _ _ k1).seals
  case offAsked => exact (off _).seals
  case abandons => exact k1.seals.trans (s1.abandon_seals _ _ _)
  case core => exact (State.setRail_keeps _ _ k1).seals.trans (State.coreStop_seals _ _ _)
  case ownedLater => exact (State.groupFail_keeps _ _ k1).seals
  case timed => exact (State.seqEvent_keeps _ _ _ k3).seals

theorem State.startFail_seals (s : State) (n : Nat) : Seals s (s.startFail n) := by
  unfold State.startFail
  extract_lets g s1 l s2
  have k1 : Keeps allButOp s s1 := State.railFault_keeps _ (.start s)
  have off : ∀ code, Keeps allButOp s (((s1.railsOff (s.withDesc [n])).setRail n 5).seqEvent code n (srcRail n)) :=
    fun code => State.seqEvent_keeps _ _ _ (State.setRail_keeps _ _ (State.railsOff_keeps _ k1))
  refine .ite (fun _ => .ite (fun _ => ?owned) fun _ => .ite (fun _ => ?offAsked) fun _ => ?abandons) fun _ =>
    .ite (fun _ => ?ownedLater) fun _ => ?alone
  case owned => exact (State.groupFail_keeps _ _ k1).seals
  case offAsked => exact (off _).seals
  case abandons => exact k1.seals.trans (s1.abandon_seals _ _ _)
  case ownedLater => exact (State.groupFail_keeps _ _ k1).seals
  case alone => exact (State.updSeq_keeps (off _) _).seals

theorem State.judgeRail_seals (s : State) (n : Nat) (inR inW : Bool) : Seals s (s.judgeRail n inR inW) := by
  unfold State.judgeRail
  extract_lets r f k s1 k' r1 s2
  have k2 : Keeps allButOp s s2 := State.setRailSt_keeps _ _ (State.judgeWarn_keeps _ _ (.start s))
  refine .ite (fun _ => .ite (fun _ => ?settles) fun _ => ?counts) fun _ =>
    .ite (fun _ => .ite (fun _ => .refl s) fun _ => s.startFail_seals n) fun _ =>
    .ite (fun _ => .ite (fun _ => k2.seals.trans (s2.railBad_seals n)) fun _ => k2.seals) fun _ => .refl s
  case settles => exact (State.setRailSt_keeps _ _ (State.setRail_keeps _ _ (.start s))).seals
  case counts => exact (State.setRailSt_keeps _ _ (.start s)).seals

theorem State.judge_seals (s : State) (scan : List (Nat × Nat)) (pg : Nat) : Seals s (s.judge scan pg) := by
  refine Seals.foldl (fun t n => ?_) _ s
  split
  · exact .refl t
  · exact t.judgeRail_seals _ _ _

theorem State.judgePg_seals (s : State) (pg : Nat) : Seals s (s.judgePg pg) :=
  .ite (fun _ => .refl s) fun _ => Seals.foldl (fun t _ => t.judgeRail_seals _ _ _) _ s

theorem State.domFault_seals (s : State) (d : Nat) : Seals s (s.domFault d) := by
  unfold State.domFault
  extract_lets s0 s1 f s2 s3 phase
  have k0 : Keeps allButOp s s0 := .ite (fun _ => State.domOutcome_keeps _ (.start s)) fun _ => .start s
  have k2 : Keeps allButOp s s2 :=
    State.raise_keeps _ (State.setB_keeps (State.set_keeps (State.domsOff_keeps _ k0) _ _) _ _)
  have k3 : Keeps allButOp s s3 := State.seqEvent_keeps _ _ _ k2
  have out : Seals s (s3.domOutcome d) := (State.domOutcome_keeps _ k3).seals
  exact .ite (fun _ => .ite (fun _ => out) fun _ => .ite (fun _ => k3.seals) fun _ => k3.seals.trans (s3.abandonFor_seals d))
    fun _ => .ite (fun _ => .ite (fun _ => k3.seals.trans (s3.coreStop_seals _ _)) fun _ =>
      .ite (fun _ => k3.seals) fun _ => out) fun _ => k3.seals

/-- The trip that waits for the boundary seals a controller in POWERUP, BOOT or RESTORE. -/
theorem State.sealNow_seals (s : State) : Seals s s.sealNow := by
  unfold State.sealNow
  split
  · exact .refl s
  · extract_lets s1
    have k1 : Keeps allButOp s s1 := State.updDrn_keeps (.start s) _
    have e := s1.enter_seals
    have l : Seals (s1.enter .sealed) ((s1.enter .sealed).updGlb fun g => { g with lazyRestore := false }) := .inl rfl
    split
    · exact k1.seals.trans e
    · exact k1.seals.trans (e.trans (State.powerDown_seals _))
    · exact k1.seals.trans (e.trans (l.trans (State.powerDown_seals _)))
    all_goals exact k1.seals

/-- The moves of the operating state that a command may make: it stands, or a table row of R23 is taken; a loss or a return of
VDDAON puts it to POWERUP (R21). -/
inductive OpMove : Instr → OpState → OpState → Prop
  | stands (c : Instr) (o : OpState) : OpMove c o o
  | seals (c : Instr) (o : OpState) : OpMove c o .sealed
  | boots : OpMove .powerUpComplete .powerup .boot
  | leavesBoot (b r a : Bool) (m : BitVec 96) (pg : BitVec 48) : OpMove (.beatBoundary b r a m pg) .boot .restore
  | opensPorts : OpMove .portsOpen .restore .serve
  | servesWarm : OpMove .warmServeEntry .restore .serve
  | trips : OpMove .inmonTrip .serve .grace
  | ridesThrough : OpMove .rideThrough .grace .serve
  | timesOut : OpMove .graceTimerExpiry .grace .drain
  | collapses : OpMove .inputCollapse .grace .drain
  | resumes : OpMove .warmResumeDecision .drain .restore
  | powersUp : OpMove .powerUpBegin .sealed .powerup
  | losesVddaon (o : OpState) : OpMove .vddaonLoss o .powerup
  | regainsVddaon (straps : BitVec 4) (o : OpState) : OpMove (.vddaonPowerOn straps) o .powerup

section
variable {c : Instr} {s t : State} {o : Out}

theorem OpMove.ofSeals (k : Seals s t) : OpMove c s.glb.st t.glb.st := by
  obtain k | k := k <;> rw [k]
  · exact .stands _ _
  · exact .seals _ _

theorem OpMove.ofKeeps (k : KeepsOut allButOp s o) (h : o = .next t) : OpMove c s.glb.st t.glb.st := .ofSeals (k t h).seals

/-- A command that seals at most. -/
def SealsOut (s : State) (o : Out) : Prop := ∀ t, o = .next t → Seals s t

theorem SealsOut.next (h : Seals s t) : SealsOut s (.next t) := fun _ e => Host.Outcome.next.inj e ▸ h

theorem SealsOut.ite {p : Prop} [Decidable p] {a b : Out} (h : p → SealsOut s a) (k : ¬p → SealsOut s b) :
    SealsOut s (if p then a else b) := by
  split
  · exact h ‹_›
  · exact k ‹_›

theorem SealsOut.refl (s : State) : SealsOut s (ok s) := .next (.refl s)

theorem execScanComplete_seals (codes : List (BitVec 12)) (pg : BitVec 48) (s : State) :
    SealsOut s (execScanComplete codes pg s) := by
  unfold execScanComplete
  extract_lets l scan s1 s2 s3
  have k2 : Keeps allButOp s s2 :=
    State.updSeq_keeps (State.showPg_keeps _ (Keeps.foldl (fun t _ => State.set_keeps (.start t) _ _) _ (.start s))) _
  have k3 : Seals s s3 := ((k2.seals.trans (s2.judge_seals _ _)).trans (State.offStep_seals _)).keeps
    (State.eqScan_keeps (State.showPresence_keeps (.start _)))
  exact .ite (fun _ => .refl s) fun _ => .next (k3.keeps (State.drainAdvance_keeps (State.startScans_keeps _ (.start s3))))

theorem execRailTonExpiry_seals (rail : BitVec 6) (s : State) : SealsOut s (execRailTonExpiry rail s) :=
  .ite (fun _ => .next ((s.startFail_seals _).trans (State.offStep_seals _))) fun _ => .refl s

theorem execRailSettleExpiry_seals (rail : BitVec 6) (s : State) : SealsOut s (execRailSettleExpiry rail s) :=
  .ite (fun _ => .next (((State.railGood_keeps _ (.start s)).seals.trans (State.offStep_seals _)).keeps
    (State.repowerDone_keeps (.start _)))) fun _ => .refl s

theorem execOffDelayExpiry_seals (rail : BitVec 6) (s : State) : SealsOut s (execOffDelayExpiry rail s) := by
  refine .ite (fun _ => .refl s) fun _ => ?_
  split
  · exact .ite (fun _ => .next s.pdStep_seals) fun _ => .refl s
  · split
    · exact .next (State.groupStep_keeps _ (.start s)).seals
    · exact .refl s

theorem execCoreStopRailOff_seals (s : State) : SealsOut s (execCoreStopRailOff s) := by
  unfold execCoreStopRailOff
  split
  · exact .ite (fun _ => .next s.coreStopStep_seals) fun _ => .refl s
  · exact .refl s

theorem execDomainOnTimeout_seals (d : BitVec 7) (s : State) : SealsOut s (execDomainOnTimeout d s) := by
  unfold execDomainOnTimeout
  split
  · exact .refl s
  · exact .ite (fun _ => .next (s.domFault_seals _)) fun _ => .refl s

theorem execDomainFault_seals (d : BitVec 7) (s : State) : SealsOut s (execDomainFault d s) :=
  .ite (fun _ => .next ((s.domFault_seals _).keeps (State.drainAdvance_keeps (.start _)))) fun _ => .refl s

/-- A change into a state entered at `e`, followed by what leaves the operating state alone. -/
theorem Keeps.entered {e : State} {x : OpState} (k : Keeps allButOp e t) (hx : e.glb.st = x) (m : OpMove c s.glb.st x) :
    OpMove c s.glb.st t.glb.st := by rw [k.st, hx]; exact m

theorem State.leaveBoot_st (s : State) :
    s.leaveBoot.glb.st = s.glb.st ∨ (s.glb.st = .boot ∧ s.leaveBoot.glb.st = .restore) := by
  unfold State.leaveBoot
  split
  · exact .inr ⟨by simp_all, rfl⟩
  · exact .inl rfl

theorem execBeatBoundary_opMove {b r a : Bool} {m : BitVec 96} {pg : BitVec 48} (h : execBeatBoundary b r a m pg s = .next t) :
    OpMove (.beatBoundary b r a m pg) s.glb.st t.glb.st := by
  unfold execBeatBoundary at h
  extract_lets s1 s2 s3 at h
  have k1 : Keeps allButOp s s1 := State.ldgBoundary_keeps (State.trickleBeat_keeps (State.swapPass_keeps
    (State.releasePass_keeps (State.applyBound_keeps (State.nextBeat_keeps _ _ _ (.start s))))))
  have kj := State.showPg_keeps pg.toNat (State.seqBoundary_keeps m.toNat (.start s1))
  have k2 : Seals s s2 := ((((k1.seals.keeps kj).trans (State.judgePg_seals _ _)).trans (State.abandonStep_seals _)).trans
    (State.offStep_seals _)).trans (State.coreStopDue_seals _)
  have k3 : Keeps allButOp s2 s3 := State.spanEnd_keeps _ (State.spanEnd_keeps _ (State.ctlBoundary_keeps
    (State.issuePrepared_keeps (State.slicesEnd_keeps (State.tileBoundary_keeps (.start s2))))))
  have k4 := State.rangesEnd_keeps (State.drainClose_keeps (State.planClose_keeps (State.closeLedger_keeps (.start s3))))
  have k5 : Seals s s3.closeLedger.planClose.drainClose.rangesEnd.sealNow :=
    ((k2.keeps k3).keeps k4).trans (State.sealNow_seals _)
  rw [← Host.Outcome.next.inj h]
  rw [(State.dueTasks_keeps (State.shedQuiesce_keeps (.start _))).st]
  obtain e | ⟨hb, e⟩ := State.leaveBoot_st s3.closeLedger.planClose.drainClose.rangesEnd.sealNow
  · rw [e]; exact .ofSeals k5
  · rw [e]
    obtain k5 | k5 := k5
    · rw [← k5, hb]; exact .leavesBoot ..
    · rw [k5] at hb; nomatch hb

theorem execInmonTrip_opMove (h : execInmonTrip s = .next t) : OpMove .inmonTrip s.glb.st t.glb.st := by
  unfold execInmonTrip at h
  extract_lets s0 asserted g1 g2 g3 q1 at h
  have k0 : Keeps allButOp s s0 := State.updGlb_keeps (.start s) _ (fun _ => id) (fun _ _ => ⟨rfl, rfl⟩) fun _ _ => rfl
  have ka : Keeps allButOp s asserted := State.updDrn_keeps k0 _
  have bound : OpMove .inmonTrip s.glb.st ((asserted.updDrn fun d => { d with toSealed := true }).tripBlocks).glb.st :=
    .ofSeals (State.tripBlocks_keeps (State.updDrn_keeps ka _)).seals
  split at h
  case h_1 hs =>
    have kt : Keeps allButOp (asserted.stopAdmission.enter .grace) (((g3.raise 0).event 0x0601 0).tripBlocks) :=
      State.tripBlocks_keeps (State.event_keeps _ _ (State.raise_keeps _ (State.setB_keeps (State.set64_keeps
        (State.updDrn_keeps (.start _) _) _ _ _) _ _)))
    rw [← Host.Outcome.next.inj h]
    exact kt.entered rfl (hs ▸ .trips)
  case h_2 => exact .ofKeeps (KeepsOut.next (State.ctlTrip_keeps k0)) h
  case h_3 => exact .ofKeeps (KeepsOut.next (State.ctlTrip_keeps k0)) h
  case h_4 => exact .ofKeeps (KeepsOut.next (State.ctlTrip_keeps ka)) h
  case h_5 =>
    refine .ofKeeps (KeepsOut.ite (fun _ => .next (State.updSeq_keeps ka _)) fun _ =>
      .ite (fun _ => .next ?_) fun _ => .next ?_) h
    · exact State.event_keeps _ _ (State.updSeq_keeps (State.updDrn_keeps ka _) _)
    · exact State.updDrn_keeps ka _
  case h_6 => exact Host.Outcome.next.inj h ▸ bound
  case h_7 => exact Host.Outcome.next.inj h ▸ bound

/-- DRAIN entry leaves the operating state at DRAIN. -/
theorem State.drainEnter_st (s : State) (cause : Nat) : (s.drainEnter cause).glb.st = .drain := by
  unfold State.drainEnter
  extract_lets s1 s2 s3 s4 s5 s6 s7 peer window s8 s9 s10
  have k2 : Keeps allButOp (s.enter .drain) s2 :=
    State.setB_keeps (State.aamRelease_keeps (State.updPq_keeps (.start _) _)) _ _
  have k5 : Keeps allButOp (s.enter .drain) s5 := State.updDrn_keeps (State.raise_keeps _ (State.event_keeps _ _
    (State.voidCredit_keeps _ (State.voidCredit_keeps _ k2)))) _
  have k7 : Keeps allButOp (s.enter .drain) s7 := State.set_keeps (State.set_keeps (State.setB_keeps (State.setB_keeps
    (State.setB_keeps (State.set_keeps k5 _ _) _ _) _ _) _ _) _ _) _ _
  have k8 : Keeps allButOp (s.enter .drain) s8 := .ite (fun _ => State.setB_keeps k7 _ _) fun _ =>
    State.event_keeps _ _ (State.updMtx_keeps (State.voidCredit_keeps _ k7) _)
  have k9 : Keeps allButOp (s.enter .drain) s9 := State.clearReport_keeps (State.rehAbandon_keeps (State.retireAbandon_keeps
    (State.dropFetches_keeps (State.drainCancel_keeps k8))))
  have k10 : Keeps allButOp (s.enter .drain) s10 :=
    State.dgeDropAll_keeps _ _ (State.abandonFlash_keeps _ (State.abandonFlash_keeps _ k9))
  exact (State.drainAdvance_keeps (.ite (fun _ => State.collapseFlash_keeps k10) fun _ => k10)).st

theorem execInputCollapse_opMove (h : execInputCollapse s = .next t) : OpMove .inputCollapse s.glb.st t.glb.st := by
  unfold execInputCollapse at h
  split at h
  case isTrue hs =>
    rw [← Host.Outcome.next.inj h, s.drainEnter_st 2, hs]
    exact .collapses
  case isFalse => exact .ofKeeps (KeepsOut.next (State.collapseFlash_keeps (.start s))) h

theorem execGraceTimerExpiry_opMove (h : execGraceTimerExpiry s = .next t) : OpMove .graceTimerExpiry s.glb.st t.glb.st := by
  unfold execGraceTimerExpiry at h
  split at h
  case isTrue hs =>
    obtain ⟨-, hst, -⟩ := hs
    rw [← Host.Outcome.next.inj h, s.drainEnter_st 1, hst]
    exact .timesOut
  case isFalse => exact .ofKeeps (KeepsOut.next (.start s)) h

theorem execRideThrough_opMove (h : execRideThrough s = .next t) : OpMove .rideThrough s.glb.st t.glb.st := by
  unfold execRideThrough at h
  split at h
  case isTrue hs =>
    obtain ⟨-, hst, -⟩ := hs
    extract_lets s1 at h
    have k : Keeps allButOp (s.enter .serve) s1 := State.setB_keeps (State.updDrn_keeps (.start _) _) _ _
    have k' := State.closeAgain_keeps (State.event_keeps 0x0602 0
      (State.setB_keeps (State.toCharge_keeps true (State.keptBack_keeps k)) DSP_STATUS_ROLL_PAUSED false))
    rw [← Host.Outcome.next.inj h]
    exact k'.entered rfl (hst ▸ .ridesThrough)
  case isFalse => exact .ofKeeps (KeepsOut.next (.start s)) h

theorem execWarmResumeDecision_opMove (h : execWarmResumeDecision s = .next t) :
    OpMove .warmResumeDecision s.glb.st t.glb.st := by
  unfold execWarmResumeDecision at h
  split at h
  case isTrue hs =>
    obtain ⟨-, hst, -⟩ := hs
    split at h
    case isTrue =>
      extract_lets s1 s2 s3 s4 s5 s6 s7 at h
      have k3 : Keeps allButOp (s.enter .restore) s3 := State.set_keeps (State.toCharge_keeps _ (State.raise_keeps _
        (State.event_keeps _ _ (State.setB_keeps (State.copyReport_keeps (State.set_keeps (State.updDrn_keeps (.start _) _) _ _))
          _ _)))) _ _
      have resumed : ∀ {u}, Keeps allButOp (s.enter .restore) u → OpMove .warmResumeDecision s.glb.st u.glb.st :=
        fun k => k.entered rfl (hst ▸ .resumes)
      split at h
      case isTrue =>
        rw [← Host.Outcome.next.inj h]
        exact resumed (State.updRst_keeps (State.updCch_keeps (State.repower_keeps k3) _ (by exact fun _ w => w)) _)
      case isFalse =>
        have k6 : Keeps allButOp (s.enter .restore) s6 := State.updCch_keeps (State.updRst_keeps (State.event_keeps _ _
          (State.setB_keeps k3 _ _)) _) _ (fun _ _ => Store.wf_nil)
        rw [← Host.Outcome.next.inj h]
        exact resumed (Keeps.foldl (fun u _ => .ite (fun _ => State.groupUp_keeps _ (.start u)) fun _ => .start u) _
          (State.repower_keeps (State.setB_keeps k6 _ _)))
    case isFalse =>
      rw [← Host.Outcome.next.inj h]
      exact .ofSeals ((State.pdBegin_keeps (State.set_keeps (State.updDrn_keeps (.start s) _) _ _)).seals.trans
        (State.powerDown_seals _))
  case isFalse => exact .ofKeeps (KeepsOut.next (.start s)) h

theorem execPowerUpBegin_opMove (h : execPowerUpBegin s = .next t) : OpMove .powerUpBegin s.glb.st t.glb.st := by
  unfold execPowerUpBegin at h
  split at h
  case isTrue hm =>
    extract_lets g s0 s1 s2 s3 s4 s5 at h
    have k5 : Keeps allButOp (s0.enter .powerup) s5 := State.updHp_keeps (State.updSeq_keeps (Keeps.foldl
      (fun u _ => .ite (fun _ => State.setRail_keeps _ _ (.start u)) fun _ => .start u) _
      (Keeps.foldl (fun u _ => State.set_keeps (.start u) _ _) _ (State.set_keeps (State.event_keeps _ _ (.start _)) _ _))) _) _
    have k := State.startRails_keeps (State.updDrn_keeps (State.showKinds_keeps (State.ctlOff_keeps k5))
      (fun d => { d with toSealed := false, pfwIn := true }))
    have hs : s.glb.st = .powerup ∨ s.glb.st = .sealed := by
      unfold State.mayPowerUp at hm
      simp only [Bool.and_eq_true, Bool.or_eq_true, decide_eq_true_eq] at hm
      exact hm.2.imp id And.left
    rw [← Host.Outcome.next.inj h]
    refine k.entered rfl ?_
    obtain hs | hs := hs <;> rw [hs]
    · exact .stands _ _
    · exact .powersUp
  case isFalse => exact .ofKeeps (KeepsOut.next (.start s)) h

theorem State.bootReset_st (s : State) : s.bootReset.glb.st = .boot := by
  unfold State.bootReset
  extract_lets s1 cfl dge stw mbx ctl vlt s2 drn s3 failed
  exact (Keeps.foldl (fun u _ => State.set_keeps (.start u) _ _) _ (State.mirrorReset_keeps (.start s3))).st

theorem execPowerUpComplete_opMove (h : execPowerUpComplete s = .next t) : OpMove .powerUpComplete s.glb.st t.glb.st := by
  unfold execPowerUpComplete at h
  split at h
  case isTrue hs =>
    obtain ⟨-, hst, -⟩ := hs
    rw [← Host.Outcome.next.inj h, State.set_glb, State.bootReset_st, hst]
    exact .boots
  case isFalse => exact .ofKeeps (KeepsOut.next (.start s)) h

theorem execPortsOpen_opMove (h : execPortsOpen s = .next t) : OpMove .portsOpen s.glb.st t.glb.st := by
  unfold execPortsOpen at h
  split at h
  case isTrue hs =>
    obtain ⟨-, hst, -⟩ := hs
    extract_lets e s1 s2 p s3 s4 s5 at h
    have k5 : Keeps allButOp (s3.updGlb fun g => { g with st := .serve, lazyRestore := true }) s5 :=
      State.event_keeps _ _ (State.keptBack_keeps (State.rollDrop_keeps (State.restoreTasks_keeps (.start _))))
    have opened : ∀ {u}, Keeps allButOp (s3.updGlb fun g => { g with st := .serve, lazyRestore := true }) u →
        OpMove .portsOpen s.glb.st u.glb.st := fun k => k.entered rfl (hst ▸ .opensPorts)
    split at h <;> rw [← Host.Outcome.next.inj h]
    · exact opened (State.closeAgain_keeps (State.adoptMirror_keeps _ k5))
    · exact opened (State.closeAgain_keeps k5)
  case isFalse => exact .ofKeeps (KeepsOut.next (.start s)) h

theorem execWarmServeEntry_opMove (h : execWarmServeEntry s = .next t) : OpMove .warmServeEntry s.glb.st t.glb.st := by
  unfold execWarmServeEntry at h
  split at h
  case isTrue hs =>
    obtain ⟨-, hst, -⟩ := hs
    extract_lets s1 s2 s3 s4 s5 at h
    have k5 : Keeps allButOp s4 s5 := State.event_keeps _ _ (State.moveBuckets_keeps
      (.ite (fun _ => State.restoreTasks_keeps (.start _)) fun _ => .start _))
    rw [← Host.Outcome.next.inj h]
    exact (State.closeAgain_keeps (.ite (fun _ => State.adoptMirror_keeps _ k5) fun _ => k5)).entered rfl
      (hst ▸ .servesWarm)
  case isFalse => exact .ofKeeps (KeepsOut.next (.start s)) h

theorem execVddaonLoss_opMove (h : execVddaonLoss s = .next t) : OpMove .vddaonLoss s.glb.st t.glb.st := by
  rw [← Host.Outcome.next.inj h]
  exact .losesVddaon _

theorem execVddaonPowerOn_opMove {straps : BitVec 4} (h : execVddaonPowerOn straps s = .next t) :
    OpMove (.vddaonPowerOn straps) s.glb.st t.glb.st := by
  unfold execVddaonPowerOn at h
  extract_lets e s1 s2 s3 at h
  have k1 : Keeps allButOp s.vddReset s1 := State.updStw_keeps (State.updDge_keeps (State.entropy_keeps (.start _)) _) _
  have k2 : Keeps allButOp s.vddReset s2 := by
    unfold s2
    split
    · exact State.set_keeps (State.updSeq_keeps k1 _) _ _
    · exact State.event_keeps _ _ (State.updSeq_keeps k1 _)
  have k3 : Keeps allButOp s.vddReset s3 := State.updDrn_keeps (State.updSeq_keeps k2 _) _
  rw [← Host.Outcome.next.inj h]
  exact (State.showKinds_keeps (State.startScans_keeps _ k3)).entered rfl (.regainsVddaon _ _)

/-- What a step can do to the operating state: every command that answers a next state makes a move of `OpMove`. -/
theorem exec_opMove (c : Instr) (ht : exec c s = .next t) : OpMove c s.glb.st t.glb.st := by
  have hk := Keeps.start s
  cases c with
  | beatBoundary back refclk aliveLow report pg => exact execBeatBoundary_opMove ht
  | creditPublication => exact .ofKeeps (execCreditPublication_keeps hk) ht
  | healthFiguresStale => exact .ofKeeps (execHealthFiguresStale_keeps hk) ht
  | refclkLoss => exact .ofKeeps (execRefclkLoss_keeps hk) ht
  | refclkReturn => exact .ofKeeps (execRefclkReturn_keeps hk) ht
  | controlSample codes => exact .ofKeeps (execControlSample_keeps codes hk) ht
  | protectiveTrip codes shoot => exact .ofKeeps (execProtectiveTrip_keeps codes shoot hk) ht
  | faultRestart => exact .ofKeeps (execFaultRestart_keeps hk) ht
  | bfRunStart => exact .ofKeeps (execBfRunStart_keeps hk) ht
  | bfRunEnd => exact .ofKeeps (execBfRunEnd_keeps hk) ht
  | bfRetry => exact .ofKeeps (execBfRetry_keeps hk) ht
  | setpointWrite reg w => exact .ofKeeps (execSetpointWrite_keeps reg w hk) ht
  | inmonTrip => exact execInmonTrip_opMove ht
  | inputCollapse => exact execInputCollapse_opMove ht
  | graceTimerExpiry => exact execGraceTimerExpiry_opMove ht
  | rideThrough => exact execRideThrough_opMove ht
  | mrxWindowExpiry => exact .ofKeeps (execMrxWindowExpiry_keeps hk) ht
  | mirrorFence => exact .ofKeeps (execMirrorFence_keeps hk) ht
  | domainShed d => exact .ofKeeps (execDomainShed_keeps d hk) ht
  | crownWrite => exact .ofKeeps (execCrownWrite_keeps hk) ht
  | crownComplete => exact .ofKeeps (execCrownComplete_keeps hk) ht
  | warmResumeDecision => exact execWarmResumeDecision_opMove ht
  | warmServeEntry => exact execWarmServeEntry_opMove ht
  | offDelayExpiry rail => exact .ofSeals (execOffDelayExpiry_seals rail s t ht)
  | bankmonDrainFloor code => exact .ofKeeps (execBankmonDrainFloor_keeps code hk) ht
  | bankmonSealedFloor code => exact .ofKeeps (execBankmonSealedFloor_keeps code hk) ht
  | powerUpBegin => exact execPowerUpBegin_opMove ht
  | powerUpComplete => exact execPowerUpComplete_opMove ht
  | powerupHoldEnd => exact .ofKeeps (execPowerupHoldEnd_keeps hk) ht
  | coreStopRailOff => exact .ofSeals (execCoreStopRailOff_seals s t ht)
  | cxlMemWrite p hpa data mask poison tag => exact .ofKeeps (execCxlMemWrite_keeps p hpa data mask poison tag hk) ht
  | heldWriteAdmit p => exact .ofKeeps (execHeldWriteAdmit_keeps p hk) ht
  | heldSpanStart p => exact .ofKeeps (execHeldSpanStart_keeps p hk) ht
  | cxlMemRead p hpa tag err => exact .ofKeeps (execCxlMemRead_keeps p hpa tag err hk) ht
  | decoderCommit p k base size commit => exact .ofKeeps (execDecoderCommit_keeps p k base size commit hk) ht
  | pqBindWrite p k w => exact .ofKeeps (execPqBindWrite_keeps p k w hk) ht
  | stampLoWrite g p v => exact .ofKeeps (execStampLoWrite_keeps g p v hk) ht
  | stampHiWrite g p hi lo => exact .ofKeeps (execStampHiWrite_keeps g p hi lo hk) ht
  | globalPersistentFlush p => exact .ofKeeps (execGlobalPersistentFlush_keeps p hk) ht
  | identifyMemoryDevice p => exact .ofKeeps (execIdentifyMemoryDevice_keeps p hk) ht
  | getHealthInfo p => exact .ofKeeps (execGetHealthInfo_keeps p hk) ht
  | getShutdownState p => exact .ofKeeps (execGetShutdownState_keeps p hk) ht
  | setShutdownState p v => exact .ofKeeps (execSetShutdownState_keeps p v hk) ht
  | getSupportedLogs p => exact .ofKeeps (execGetSupportedLogs_keeps p hk) ht
  | getLog p => exact .ofKeeps (execGetLog_keeps p hk) ht
  | getEventRecords p => exact .ofKeeps (execGetEventRecords_keeps p hk) ht
  | clearEventRecords p h => exact .ofKeeps (execClearEventRecords_keeps p h hk) ht
  | getTimestamp p => exact .ofKeeps (execGetTimestamp_keeps p hk) ht
  | setTimestamp p ns => exact .ofKeeps (execSetTimestamp_keeps p ns hk) ht
  | getFwInfo p => exact .ofKeeps (execGetFwInfo_keeps p hk) ht
  | unsupportedMailboxCommand p op => exact .ofKeeps (execUnsupportedMailboxCommand_keeps p op hk) ht
  | hostLinkTrained p fast => exact .ofKeeps (execHostLinkTrained_keeps p fast hk) ht
  | perstAssert p => exact .ofKeeps (execPerstAssert_keeps p hk) ht
  | perstDeassert p => exact .ofKeeps (execPerstDeassert_keeps p hk) ht
  | dramTraining dimms speeds => exact .ofKeeps (execDramTraining_keeps dimms speeds hk) ht
  | dramReadComplete la err => exact .ofKeeps (execDramReadComplete_keeps la err hk) ht
  | ceWindowExpiry => exact .ofKeeps (execCeWindowExpiry_keeps hk) ht
  | retireCommand n => exact .ofKeeps (execRetireCommand_keeps n hk) ht
  | retirementBegin => exact .ofKeeps (execRetirementBegin_keeps hk) ht
  | retirementCutover => exact .ofKeeps (execRetirementCutover_keeps hk) ht
  | xlateStart hi => exact .ofKeeps (execXlateStart_keeps hi hk) ht
  | rehearsalGo => exact .ofKeeps (execRehearsalGo_keeps hk) ht
  | rehearsalScheduled => exact .ofKeeps (execRehearsalScheduled_keeps hk) ht
  | rehearsalEnd => exact .ofKeeps (execRehearsalEnd_keeps hk) ht
  | bankRelease mod => exact .ofKeeps (execBankRelease_keeps mod hk) ht
  | bankReleaseCancel mod => exact .ofKeeps (execBankReleaseCancel_keeps mod hk) ht
  | energyModuleReleased mod => exact .ofKeeps (execEnergyModuleReleased_keeps mod hk) ht
  | energyModuleAbsent mod => exact .ofKeeps (execEnergyModuleAbsent_keeps mod hk) ht
  | bootEqualise => exact .ofKeeps (execBootEqualise_keeps hk) ht
  | bootEqualiseEnd => exact .ofKeeps (execBootEqualiseEnd_keeps hk) ht
  | healthTestGo => exact .ofKeeps (execHealthTestGo_keeps hk) ht
  | healthTestScheduled => exact .ofKeeps (execHealthTestScheduled_keeps hk) ht
  | healthTestRetry => exact .ofKeeps (execHealthTestRetry_keeps hk) ht
  | healthTestStepEnd => exact .ofKeeps (execHealthTestStepEnd_keeps hk) ht
  | healthTestRecharged => exact .ofKeeps (execHealthTestRecharged_keeps hk) ht
  | healthTestAbort => exact .ofKeeps (execHealthTestAbort_keeps hk) ht
  | equaliseGo mod => exact .ofKeeps (execEqualiseGo_keeps mod hk) ht
  | equaliseDone => exact .ofKeeps (execEqualiseDone_keeps hk) ht
  | equaliseTimeout => exact .ofKeeps (execEqualiseTimeout_keeps hk) ht
  | chunkReadComplete ch t pl blk pg chunk levels => exact .ofKeeps (execChunkReadComplete_keeps ch t pl blk pg chunk levels hk) ht
  | nandProgramComplete ch t pl blk pg good => exact .ofKeeps (execNandProgramComplete_keeps ch t pl blk pg good hk) ht
  | nandEraseComplete ch t pl blk good => exact .ofKeeps (execNandEraseComplete_keeps ch t pl blk good hk) ht
  | bandOpen blk => exact .ofKeeps (execBandOpen_keeps blk hk) ht
  | checkpointTrigger => exact .ofKeeps (execCheckpointTrigger_keeps hk) ht
  | epochSeal => exact .ofKeeps (execEpochSeal_keeps hk) ht
  | trickleWriteComplete g => exact .ofKeeps (execTrickleWriteComplete_keeps g hk) ht
  | fullCopyComplete g => exact .ofKeeps (execFullCopyComplete_keeps g hk) ht
  | flashModuleAbsent mod => exact .ofKeeps (execFlashModuleAbsent_keeps mod hk) ht
  | flashModuleRelease mod => exact .ofKeeps (execFlashModuleRelease_keeps mod hk) ht
  | flashReleaseRestripe => exact .ofKeeps (execFlashReleaseRestripe_keeps hk) ht
  | flashModuleReleased mod => exact .ofKeeps (execFlashModuleReleased_keeps mod hk) ht
  | flashModuleCancel mod => exact .ofKeeps (execFlashModuleCancel_keeps mod hk) ht
  | flashModuleAdd mod pages marks => exact .ofKeeps (execFlashModuleAdd_keeps mod pages marks hk) ht
  | vaultFormat key go => exact .ofKeeps (execVaultFormat_keeps key go hk) ht
  | flashModuleInserted mod pages => exact .ofKeeps (execFlashModuleInserted_keeps mod pages hk) ht
  | crownSearch pages changed => exact .ofKeeps (execCrownSearch_keeps pages changed hk) ht
  | vaultEmpty key empty => exact .ofKeeps (execVaultEmpty_keeps key empty hk) ht
  | mapLoad => exact .ofKeeps (execMapLoad_keeps hk) ht
  | notesApply => exact .ofKeeps (execNotesApply_keeps hk) ht
  | portsOpen => exact execPortsOpen_opMove ht
  | lazyRestoreEnd => exact .ofKeeps (execLazyRestoreEnd_keeps hk) ht
  | fetchComplete g => exact .ofKeeps (execFetchComplete_keeps g hk) ht
  | rangeIndexWrite idx => exact .ofKeeps (execRangeIndexWrite_keeps idx hk) ht
  | linkTrainingStart => exact .ofKeeps (execLinkTrainingStart_keeps hk) ht
  | linkEqualiseEnd trained pol => exact .ofKeeps (execLinkEqualiseEnd_keeps trained pol hk) ht
  | frameReceive f missed reversed => exact .ofKeeps (execFrameReceive_keeps f missed reversed hk) ht
  | attemptTimeout => exact .ofKeeps (execAttemptTimeout_keeps hk) ht
  | rtrnSendEnd => exact .ofKeeps (execRtrnSendEnd_keeps hk) ht
  | linkRetrainCommand => exact .ofKeeps (execLinkRetrainCommand_keeps hk) ht
  | injectCrcError => exact .ofKeeps (execInjectCrcError_keeps hk) ht
  | injectLaneErrors lane n => exact .ofKeeps (execInjectLaneErrors_keeps lane n hk) ht
  | flitTransmit => exact .ofKeeps (execFlitTransmit_keeps hk) ht
  | replayTimerExpiry => exact .ofKeeps (execReplayTimerExpiry_keeps hk) ht
  | sessionSetupStart => exact .ofKeeps (execSessionSetupStart_keeps hk) ht
  | hello => exact .ofKeeps (execHello_keeps hk) ht
  | response => exact .ofKeeps (execResponse_keeps hk) ht
  | refuse => exact .ofKeeps (execRefuse_keeps hk) ht
  | setupTimeout => exact .ofKeeps (execSetupTimeout_keeps hk) ht
  | sessionEndCommand => exact .ofKeeps (execSessionEndCommand_keeps hk) ht
  | quarantineClear => exact .ofKeeps (execQuarantineClear_keeps hk) ht
  | resyncCommand => exact .ofKeeps (execResyncCommand_keeps hk) ht
  | groupVerify => exact .ofKeeps (execGroupVerify_keeps hk) ht
  | write => exact .ofKeeps (execWrite_keeps hk) ht
  | data => exact .ofKeeps (execData_keeps hk) ht
  | ack => exact .ofKeeps (execAck_keeps hk) ht
  | stamp => exact .ofKeeps (execStamp_keeps hk) ht
  | heartbeat => exact .ofKeeps (execHeartbeat_keeps hk) ht
  | syncBegin => exact .ofKeeps (execSyncBegin_keeps hk) ht
  | syncEnd => exact .ofKeeps (execSyncEnd_keeps hk) ht
  | syncRepaired => exact .ofKeeps (execSyncRepaired_keeps hk) ht
  | takeover => exact .ofKeeps (execTakeover_keeps hk) ht
  | pad => exact .ofKeeps (execPad_keeps hk) ht
  | receiveWriteTimeout => exact .ofKeeps (execReceiveWriteTimeout_keeps hk) ht
  | sendCountedTimeout => exact .ofKeeps (execSendCountedTimeout_keeps hk) ht
  | sendAbsoluteTimeout => exact .ofKeeps (execSendAbsoluteTimeout_keeps hk) ht
  | heartbeatSend => exact .ofKeeps (execHeartbeatSend_keeps hk) ht
  | heartbeatLoss => exact .ofKeeps (execHeartbeatLoss_keeps hk) ht
  | partnerAliveInDeassert => exact .ofKeeps (execPartnerAliveInDeassert_keeps hk) ht
  | quarantineEnd => exact .ofKeeps (execQuarantineEnd_keeps hk) ht
  | quarantineCountReset => exact .ofKeeps (execQuarantineCountReset_keeps hk) ht
  | fullSyncStart => exact .ofKeeps (execFullSyncStart_keeps hk) ht
  | adoptedRegionRead p off tag err => exact .ofKeeps (execAdoptedRegionRead_keeps p off tag err hk) ht
  | adoptedRegionWrite p => exact .ofKeeps (execAdoptedRegionWrite_keeps p hk) ht
  | adoptedRegionRelease key => exact .ofKeeps (execAdoptedRegionRelease_keeps key hk) ht
  | ingestFlush id err tsBad tsFix => exact .ofKeeps (execIngestFlush_keeps id err tsBad tsFix hk) ht
  | ingestWriteComplete id chanDead => exact .ofKeeps (execIngestWriteComplete_keeps id chanDead hk) ht
  | mirrorSend => exact .ofKeeps (execMirrorSend_keeps hk) ht
  | trickle g => exact .ofKeeps (execTrickle_keeps g hk) ht
  | drainExtent first count => exact .ofKeeps (execDrainExtent_keeps first count hk) ht
  | extentComplete g => exact .ofKeeps (execExtentComplete_keeps g hk) ht
  | restoreRow first count => exact .ofKeeps (execRestoreRow_keeps first count hk) ht
  | demandFetch g => exact .ofKeeps (execDemandFetch_keeps g hk) ht
  | scrub first count copy errs => exact .ofKeeps (execScrub_keeps first count copy errs hk) ht
  | full bseq count => exact .ofKeeps (execFull_keeps bseq count hk) ht
  | mapCkpt count => exact .ofKeeps (execMapCkpt_keeps count hk) ht
  | parity bseq row => exact .ofKeeps (execParity_keeps bseq row hk) ht
  | health g => exact .ofKeeps (execHealth_keeps g hk) ht
  | taskSubmit g tile => exact .ofKeeps (execTaskSubmit_keeps g tile hk) ht
  | taskPick tile engine => exact .ofKeeps (execTaskPick_keeps tile engine hk) ht
  | taskSteal thief own => exact .ofKeeps (execTaskSteal_keeps thief own hk) ht
  | taskStealDelivery thief => exact .ofKeeps (execTaskStealDelivery_keeps thief hk) ht
  | taskSliceEnd tid r => exact .ofKeeps (execTaskSliceEnd_keeps tid r hk) ht
  | waitConditionMet tid recovery => exact .ofKeeps (execWaitConditionMet_keeps tid recovery hk) ht
  | waitTimeout tid recovery => exact .ofKeeps (execWaitTimeout_keeps tid recovery hk) ht
  | taskCancel g tid met => exact .ofKeeps (execTaskCancel_keeps g tid met hk) ht
  | completionPop g => exact .ofKeeps (execCompletionPop_keeps g hk) ht
  | tileQuiesce t => exact .ofKeeps (execTileQuiesce_keeps t hk) ht
  | tileOut t => exact .ofKeeps (execTileOut_keeps t hk) ht
  | quiesceTimeout t => exact .ofKeeps (execQuiesceTimeout_keeps t hk) ht
  | tileReturn t => exact .ofKeeps (execTileReturn_keeps t hk) ht
  | microcodeRoll maxout => exact .ofKeeps (execMicrocodeRoll_keeps maxout hk) ht
  | rollAbort => exact .ofKeeps (execRollAbort_keeps hk) ht
  | tileMicrocodeLoaded t => exact .ofKeeps (execTileMicrocodeLoaded_keeps t hk) ht
  | tileSelfTestDone t pass => exact .ofKeeps (execTileSelfTestDone_keeps t pass hk) ht
  | tileSelfTestBoot passed => exact .ofKeeps (execTileSelfTestBoot_keeps passed hk) ht
  | scanComplete codes pg => exact .ofSeals (execScanComplete_seals codes pg s t ht)
  | railTonExpiry rail => exact .ofSeals (execRailTonExpiry_seals rail s t ht)
  | railSettleExpiry rail => exact .ofSeals (execRailSettleExpiry_seals rail s t ht)
  | railFdelayExpiry rail => exact .ofKeeps (execRailFdelayExpiry_keeps rail hk) ht
  | domainOnTimeout d => exact .ofSeals (execDomainOnTimeout_seals d s t ht)
  | domainFault d => exact .ofSeals (execDomainFault_seals d s t ht)
  | repower rail => exact .ofKeeps (execRepower_keeps rail hk) ht
  | manualRailOn rail => exact .ofKeeps (execManualRailOn_keeps rail hk) ht
  | manualRailOff rail => exact .ofKeeps (execManualRailOff_keeps rail hk) ht
  | warningCountClear rail => exact .ofKeeps (execWarningCountClear_keeps rail hk) ht
  | resetStretchExpiry g => exact .ofKeeps (execResetStretchExpiry_keeps g hk) ht
  | droopTrip t => exact .ofKeeps (execDroopTrip_keeps t hk) ht
  | droopRelease t => exact .ofKeeps (execDroopRelease_keeps t hk) ht
  | snapDataRead g => exact .ofKeeps (execSnapDataRead_keeps g hk) ht
  | vddaonPowerOn straps => exact execVddaonPowerOn_opMove ht
  | vddaonLoss => exact execVddaonLoss_opMove ht
  | bootImageValidate => exact .ofKeeps (execBootImageValidate_keeps hk) ht
  | shadeValidate => exact .ofKeeps (execShadeValidate_keeps hk) ht
  | shadeValidationDone => exact .ofKeeps (execShadeValidationDone_keeps hk) ht
  | swap key => exact .ofKeeps (execSwap_keeps key hk) ht
  | roleRecordCommitted => exact .ofKeeps (execRoleRecordCommitted_keeps hk) ht
  | swapEffect => exact .ofKeeps (execSwapEffect_keeps hk) ht
  | imageRelease => exact .ofKeeps (execImageRelease_keeps hk) ht
  | swapCancel => exact .ofKeeps (execSwapCancel_keeps hk) ht
  | rollback key => exact .ofKeeps (execRollback_keeps key hk) ht
  | nativeCmd0 g w also => exact .ofKeeps (execNativeCmd0_keeps g w also hk) ht
  | nativeCmd1 g w => exact .ofKeeps (execNativeCmd1_keeps g w hk) ht
  | nativeDataWrite g off w full => exact .ofKeeps (execNativeDataWrite_keeps g off w full hk) ht
  | program g w => exact .ofKeeps (execProgram_keeps g w hk) ht
  | eraseSector g w => exact .ofKeeps (execEraseSector_keeps g w hk) ht
  | blankCheck g w => exact .ofKeeps (execBlankCheck_keeps g w hk) ht
  | flashOperationComplete how => exact .ofKeeps (execFlashOperationComplete_keeps how hk) ht
  | flashSequenceTimeout => exact .ofKeeps (execFlashSequenceTimeout_keeps hk) ht
  | compatKeyWrite g w => exact .ofKeeps (execCompatKeyWrite_keeps g w hk) ht
  | compatProgramWord g w => exact .ofKeeps (execCompatProgramWord_keeps g w hk) ht
  | compatEraseSector g a => exact .ofKeeps (execCompatEraseSector_keeps g a hk) ht
  | compatBlankCheck g a => exact .ofKeeps (execCompatBlankCheck_keeps g a hk) ht
  | compatAbort g => exact .ofKeeps (execCompatAbort_keeps g hk) ht
  | flagScan => exact .ofKeeps (execFlagScan_keeps hk) ht
  | bootSelect g block key => exact .ofKeeps (execBootSelect_keeps g block key hk) ht
  | stewardStart good0 good1 => exact .ofKeeps (execStewardStart_keeps good0 good1 hk) ht
  | recorderFlashCopy => exact .ofKeeps (execRecorderFlashCopy_keeps hk) ht
  | digestStart g alg keyslot also => exact .ofKeeps (execDigestStart_keeps g alg keyslot also hk) ht
  | digestResume g n also => exact .ofKeeps (execDigestResume_keeps g n also hk) ht
  | digestAbort g => exact .ofKeeps (execDigestAbort_keeps g hk) ht
  | digestDataWrite g w => exact .ofKeeps (execDigestDataWrite_keeps g w hk) ht
  | digestBlockDone => exact .ofKeeps (execDigestBlockDone_keeps hk) ht
  | digestOwnerTimeout => exact .ofKeeps (execDigestOwnerTimeout_keeps hk) ht
  | digestContextExpiry n => exact .ofKeeps (execDigestContextExpiry_keeps n hk) ht
  | importKey g slot key => exact .ofKeeps (execImport_keeps g slot key hk) ht
  | exportKey g slot key => exact .ofKeeps (execExport_keeps g slot key hk) ht
  | lock g slot key => exact .ofKeeps (execLock_keeps g slot key hk) ht
  | erase g slot key => exact .ofKeeps (execErase_keeps g slot key hk) ht
  | compare g slot key => exact .ofKeeps (execCompare_keeps g slot key hk) ht
  | loadescrow g key => exact .ofKeeps (execLoadescrow_keeps g key hk) ht
  | keyOpSeven g key => exact .ofKeeps (execKeyOpSeven_keeps g key hk) ht
  | keySlotLoad => exact .ofKeeps (execKeySlotLoad_keeps hk) ht
  | watchdogExpiry => exact .ofKeeps (execWatchdogExpiry_keeps hk) ht
  | stewardRestart g key => exact .ofKeeps (execStewardRestart_keeps g key hk) ht
  | confirm g => exact .ofKeeps (execConfirm_keeps g hk) ht
  | kick g => exact .ofKeeps (execKick_keeps g hk) ht
  | confirmTimeout => exact .ofKeeps (execConfirmTimeout_keeps hk) ht
  | sensorRead temps mv => exact .ofKeeps (execSensorRead_keeps temps mv hk) ht
  | getVersions g => exact .ofKeeps (execGetVersions_keeps g hk) ht
  | updateBegin g size => exact .ofKeeps (execUpdateBegin_keeps g size hk) ht
  | updateData g off data => exact .ofKeeps (execUpdateData_keeps g off data hk) ht
  | updateEnd g => exact .ofKeeps (execUpdateEnd_keeps g hk) ht
  | updateCancel g => exact .ofKeeps (execUpdateCancel_keeps g hk) ht
  | activateFw g => exact .ofKeeps (execActivateFw_keeps g hk) ht
  | setWalltime g sec => exact .ofKeeps (execSetWalltime_keeps g sec hk) ht
  | entdaa addr => exact .ofKeeps (execEntdaa_keeps addr hk) ht
  | setdasa static addr => exact .ofKeeps (execSetdasa_keeps static addr hk) ht
  | rstdaa => exact .ofKeeps (execRstdaa_keeps hk) ht
  | enec => exact .ofKeeps (execEnec_keeps hk) ht
  | disec => exact .ofKeeps (execDisec_keeps hk) ht
  | getpid => exact .ofKeeps (execGetpid_keeps hk) ht
  | getbcr => exact .ofKeeps (execGetbcr_keeps hk) ht
  | getdcr => exact .ofKeeps (execGetdcr_keeps hk) ht
  | getmwl => exact .ofKeeps (execGetmwl_keeps hk) ht
  | getmrl => exact .ofKeeps (execGetmrl_keeps hk) ht
  | setEndpointId eid => exact .ofKeeps (execSetEndpointId_keeps eid hk) ht
  | getEndpointId => exact .ofKeeps (execGetEndpointId_keeps hk) ht
  | getEndpointUuid => exact .ofKeeps (execGetEndpointUuid_keeps hk) ht
  | getMctpVersionSupport ty => exact .ofKeeps (execGetMctpVersionSupport_keeps ty hk) ht
  | getMessageTypeSupport => exact .ofKeeps (execGetMessageTypeSupport_keeps hk) ht
  | getVendorDefinedMessageSupport => exact .ofKeeps (execGetVendorDefinedMessageSupport_keeps hk) ht
  | unsupportedMctpCommand cmd => exact .ofKeeps (execUnsupportedMctpCommand_keeps cmd hk) ht
  | unsupportedMessageType => exact .ofKeeps (execUnsupportedMessageType_keeps hk) ht
  | settid tid => exact .ofKeeps (execSettid_keeps tid hk) ht
  | gettid => exact .ofKeeps (execGettid_keeps hk) ht
  | getpldmversion ty => exact .ofKeeps (execGetpldmversion_keeps ty hk) ht
  | getpldmtypes => exact .ofKeeps (execGetpldmtypes_keeps hk) ht
  | getpldmcommands ty => exact .ofKeeps (execGetpldmcommands_keeps ty hk) ht
  | getsensorreading id => exact .ofKeeps (execGetsensorreading_keeps id hk) ht
  | getstatesensorreadings id => exact .ofKeeps (execGetstatesensorreadings_keeps id hk) ht
  | setnumericsensorenable id enable => exact .ofKeeps (execSetnumericsensorenable_keeps id enable hk) ht
  | getpdrrepositoryinfo => exact .ofKeeps (execGetpdrrepositoryinfo_keeps hk) ht
  | getpdr handle => exact .ofKeeps (execGetpdr_keeps handle hk) ht
  | seteventreceiver enable eid => exact .ofKeeps (execSeteventreceiver_keeps enable eid hk) ht
  | querydeviceidentifiers => exact .ofKeeps (execQuerydeviceidentifiers_keeps hk) ht
  | getfirmwareparameters => exact .ofKeeps (execGetfirmwareparameters_keeps hk) ht
  | requestupdate => exact .ofKeeps (execRequestupdate_keeps hk) ht
  | passcomponenttable => exact .ofKeeps (execPasscomponenttable_keeps hk) ht
  | updatecomponent size => exact .ofKeeps (execUpdatecomponent_keeps size hk) ht
  | activatefirmware => exact .ofKeeps (execActivatefirmware_keeps hk) ht
  | getstatus => exact .ofKeeps (execGetstatus_keeps hk) ht
  | cancelupdatecomponent => exact .ofKeeps (execCancelupdatecomponent_keeps hk) ht
  | cancelupdate => exact .ofKeeps (execCancelupdate_keeps hk) ht
  | evrCursorWrite g seq => exact .ofKeeps (execEvrCursorWrite_keeps g seq hk) ht
  | severityQuery code => exact .ofKeeps (execSeverityQuery_keeps code hk) ht
  | challenge g key => exact .ofKeeps (execChallenge_keeps g key hk) ht
  | clear g key => exact .ofKeeps (execClear_keeps g key hk) ht
  | challengeExpiry => exact .ofKeeps (execChallengeExpiry_keeps hk) ht
  | msixMessageSend p v => exact .ofKeeps (execMsixMessageSend_keeps p v hk) ht
  | glbLockSet g => exact .ofKeeps (execGlbLockSet_keeps g hk) ht
  | unassignedAccess g off write full => exact .ofKeeps (execUnassignedAccess_keeps g off write full hk) ht
  | offDomainAccess g off write => exact .ofKeeps (execOffDomainAccess_keeps g off write hk) ht
  | loReadLatch g off wide => exact .ofKeeps (execLoReadLatch_keeps g off wide hk) ht
  | readClear g off => exact .ofKeeps (execReadClear_keeps g off hk) ht
  | registerWrite g t w be also => exact .ofKeeps (execRegisterWrite_keeps g t w be also hk) ht
  | jtagIdcode => exact .ofKeeps (execJtagIdcode_keeps hk) ht
  | jtagBypass => exact .ofKeeps (execJtagBypass_keeps hk) ht
  | jtagPinControl => exact .ofKeeps (execJtagPinControl_keeps hk) ht
  | partnerAliveInAssert => exact .ofKeeps (execPartnerAliveInAssert_keeps hk) ht
  | laneErrorWindowExpiry => exact .ofKeeps (execLaneErrorWindowExpiry_keeps hk) ht
  | hostLinkDown p => exact .ofKeeps (execHostLinkDown_keeps p hk) ht
  | contextExportImportDone intact => exact .ofKeeps (execContextExportImportDone_keeps intact hk) ht
  | requestfirmwaredataResponse data => exact .ofKeeps (execRequestfirmwaredataResponse_keeps data hk) ht

/-- The table of R23: the pairs of an old and a new operating state. -/
def movesOfR23 : List (OpState × OpState) :=
  [(.powerup, .boot), (.powerup, .sealed), (.boot, .restore), (.boot, .sealed), (.restore, .sealed), (.restore, .serve),
    (.serve, .grace), (.grace, .serve), (.grace, .drain), (.drain, .restore), (.drain, .sealed), (.serve, .sealed),
    (.grace, .sealed), (.sealed, .powerup)]

/-- A move that is no loss or return of VDDAON and changes the operating state is in the table of R23. -/
theorem OpMove.listed {c : Instr} {a b : OpState} (m : OpMove c a b) (hl : c ≠ .vddaonLoss) (hp : ∀ x, c ≠ .vddaonPowerOn x)
    (hne : b ≠ a) : (a, b) ∈ movesOfR23 := by
  cases m with
  | stands => exact absurd rfl hne
  | seals =>
    cases a with
    | sealed => exact absurd rfl hne
    | _ => decide
  | losesVddaon => exact absurd rfl hl
  | regainsVddaon => exact absurd rfl (hp _)
  | _ => decide

end

/-- Settles O60: each clause is read off the list of moves. -/
theorem operatingStateMovesOnlyAsListed : Obligations.OperatingStateMovesOnlyAsListed := by
  unfold Obligations.OperatingStateMovesOnlyAsListed
  refine ⟨fun c s t h hc hne => (exec_opMove c h).listed ?_ ?_ hne, fun c s t h hne => ?_⟩
  · rintro rfl; exact hc
  · rintro x rfl; exact hc
  · have m := exec_opMove c h
    generalize s.glb.st = a at m hne
    generalize t.glb.st = b at m hne
    cases m with
    | stands => exact absurd rfl hne
    | _ => simp

end Sys2Proof.Machine
end

section
/-! PROOFS. The host links and PERST (R22, R69, R485, R502). -/

namespace Sys2Proof.Machine

@[simp] theorem Two.get_set_same {α : Type} (t : Two α) (p : Port) (x : α) : (t.set p x).get p = x := by cases p <;> rfl

@[simp] theorem Tri.get_set_same {α : Type} (t : Tri α) (g : Agent) (x : α) : (t.set g x).get g = x := by cases g <;> rfl

section
variable (s : State) (p : Port)

/-- A field whose key is dropped reads its reset value (R484). -/
theorem State.get_dropRegs {q : Nat → Bool} {f : Fld} (h : q f.key = true) : (s.dropRegs q).get f = f.reset := by
  unfold State.get State.dropRegs
  simp [Store.get_keep, h]

@[simp] theorem State.setDecoder_regs (k : Nat) (d : Decoder) : (s.setDecoder p k d).regs = s.regs := rfl
@[simp] theorem State.setDecoder_irq (k : Nat) (d : Decoder) : (s.setDecoder p k d).irq = s.irq := rfl
@[simp] theorem State.setDecoder_evr (k : Nat) (d : Decoder) : (s.setDecoder p k d).evr = s.evr := rfl
@[simp] theorem State.setDecoder_entries (k : Nat) (d : Decoder) : (s.setDecoder p k d).pq.entries = s.pq.entries := rfl
@[simp] theorem State.setDecoder_held (k : Nat) (d : Decoder) : (s.setDecoder p k d).pq.held = s.pq.held := rfl

/-- A port's reset puts its MSI-X state and interrupt status to their reset values (R485). -/
theorem State.portReset_irq : (s.portReset p).irq = { s.irq with
    istat := s.irq.istat.set p.agent 0, pba := s.irq.pba.set p 0, held := s.irq.held.set p [],
    funcMask := s.irq.funcMask.set p false } := by
  simp [State.portReset, State.agentReset]

/-- A port's reset puts its host's recorder cursor to its reset value (R485). -/
theorem State.portReset_evr : (s.portReset p).evr = { s.evr with
    cursor := s.evr.cursor.set p.agent 0, gen := s.evr.gen.set p.agent 0 } := by
  simp [State.portReset, State.agentReset]

/-- After a port's reset every per-agent register of its host reads its reset value (R478, R485). -/
theorem State.get_portReset {f : Fld} (h : keyAgent f.key = p.agent.code) : (s.portReset p).get f = f.reset := by
  have hr : (s.portReset p).regs = (s.dropRegs fun k => keyAgent k = p.agent.code).regs := by
    simp [State.portReset, State.agentReset]
  rw [State.get_of_regs hr]
  exact s.get_dropRegs (by simp [h])

theorem State.portReset_entries : (s.portReset p).pq.entries = s.pq.entries := by
  simp [State.portReset, State.agentReset]

theorem State.portReset_held : (s.portReset p).pq.held = s.pq.held := by
  simp [State.portReset, State.agentReset]

theorem State.portReset_hp : (s.portReset p).hp = s.hp := (State.portReset_keeps p (.refl 0x3FFBFF s)).hp rfl

/-- A link that is down closes its port to CXL.mem (R22). -/
theorem State.portOpen_of_down {s : State} (h : s.hp.up.get p = false) : s.portOpen p = false := by
  simp [State.portOpen, State.cxl, h]

theorem execHostLinkTrained_up (fast : Bool)
    (h : ¬(s.hp.perst.get p ∨ !(s.domOn (80 + p.num) && s.domOn (82 + p.num)) ∨ s.glb.beatSrc)) :
    execHostLinkTrained p fast s = .next (s.updHp fun h => { h with up := h.up.set p true, fast := h.fast.set p fast }) :=
  if_neg h

/-- What PERST does before the port's own reset: the open work of its host is abandoned (R485). -/
theorem State.perstAbandon_keeps : Keeps 0x20026D s ((s.abandonFlash p.agent).dgeDrop p.agent 13) :=
  State.dgeDrop_keeps _ _ (State.abandonFlash_keeps _ (.refl _ s))

end

/-- Settles O7: every clause follows from what the four commands write, PERST by the lemmas about `portReset`. -/
theorem hostLinkAndPortReset : Obligations.HostLinkAndPortReset := by
  unfold Obligations.HostLinkAndPortReset
  refine ⟨fun p fast s hp h80 h82 hb => ?trained, fun p s => ?down, fun p s => ?perst, fun _ _ => rfl,
    fun p fast s h => execHostLinkTrained_up s p fast h, fun _ _ => rfl, fun _ _ => rfl⟩
  case trained =>
    refine ⟨_, execHostLinkTrained_up s p fast (by simp [hp, h80, h82, hb]), rfl, ?_⟩
    have hs : (s.updHp fun h => { h with up := h.up.set p true, fast := h.fast.set p fast }).serving = s.serving := rfl
    simp [State.portOpen, State.cxl, hs]
  case down => exact ⟨_, rfl, rfl, State.portOpen_of_down p (Two.get_set_same _ _ _)⟩
  case perst =>
    have k := s.perstAbandon_keeps p
    have ke := (execPerstAssert_keeps p (.refl 0x20176D s)) _ rfl
    refine ⟨_, rfl, ?hp, State.portOpen_of_down p ?up, ?rest⟩
    case hp => rw [State.updHp_hp, State.portReset_hp, k.hp rfl]
    case up => simp
    case rest =>
      simp only [State.updHp_irq, State.updHp_evr, State.updHp_pq, State.portReset_irq, State.portReset_evr, Two.get_set_same,
        Tri.get_set_same, State.get_updHp, State.portReset_entries, State.portReset_held, k.pq rfl, true_and]
      exact ⟨fun f hf => State.get_portReset _ p hf, ke.cch rfl, ke.vlt rfl, congrArg Glb.st (ke.glb rfl)⟩

end Sys2Proof.Machine
end

section
/-! PROOFS. The ports open and the restore ends (R274 to R285). -/

namespace Sys2Proof.Machine

/-- A figure that no step of a fold changes is the same after it. -/
theorem foldl_eq_of_step {σ α β : Type} {f : σ → β} {g : σ → α → σ} (h : ∀ t a, f (g t a) = f t) :
    ∀ (l : List α) (s : σ), f (l.foldl g s) = f s
  | [], _ => rfl
  | a :: l, s => (foldl_eq_of_step h l _).trans (h s a)

section
variable (s : State)

/-- PORTS_OPEN applies (R274): the boundary of a cold RESTORE that is bound for no other state, with the crown search, the map and the
notes done, a result that allows it and a sound population. -/
def State.MayOpen : Prop :=
  s.atBoundary ∧ s.glb.st = .restore ∧ !s.drn.toSealed ∧ !s.rst.warm ∧ s.rst.scanned ∧ s.rst.mapped ∧ s.rst.noted ∧ s.restorable ∧
    s.bit CCH_STATUS_POP_OK

theorem State.mayOpen_iff : s.MayOpen ↔ s.glb.cycle = 0 ∧ s.glb.st = .restore ∧ s.drn.toSealed = false ∧ s.rst.warm = false ∧
    s.rst.scanned = true ∧ s.rst.mapped = true ∧ s.rst.noted = true ∧ s.restorable = true ∧ s.bit CCH_STATUS_POP_OK = true := by
  simp [State.MayOpen, State.atBoundary]

/-- The new epoch and the new band of PORTS_OPEN (R274). -/
def State.openEpoch : State :=
  let s1 := (s.set64 VLT_EPOCH_LO_EPOCH VLT_EPOCH_HI_EPOCH (s.vlt.maxEpoch + 1)).setB VLT_STATUS_READY true
  match s1.freeBands with
  | blk :: _ => s1.openBand blk
  | [] => s1

/-- The log begins in the new epoch, and a checkpoint of it is not yet due (R251, R274). -/
def State.startLog : State :=
  let p := s.openEpoch.logPlace
  (s.openEpoch.updVlt fun v => { v with
    startB := p.1, startI := p.2, cutBeat := s.glb.beat, sinceCut := 0, maxEpoch := s.vlt.maxEpoch + 1, tagDone := [],
    tagPlain := [] }).showSpace

/-- PORTS_OPEN up to the adoption of the partner's data and the close of the beat (R274). -/
def State.openPorts : State :=
  (s.startLog.updGlb fun g => { g with st := .serve, lazyRestore := true }).restoreTasks.rollDrop.keptBack.event 0x0713 0

variable {s}

theorem execPortsOpen_adopts (h : s.MayOpen) (hf : bitOf (crFlags s.rst.crown) 4) :
    execPortsOpen s = .next (s.openPorts.adoptMirror s.openPorts.drn.lastM).closeAgain :=
  (if_pos h).trans (if_pos hf)

theorem execPortsOpen_plain (h : s.MayOpen) (hf : ¬bitOf (crFlags s.rst.crown) 4) :
    execPortsOpen s = .next s.openPorts.closeAgain :=
  (if_pos h).trans (if_neg hf)

variable (s)

theorem State.openEpoch_keeps : Keeps 0x22020D s s.openEpoch := by
  unfold State.openEpoch
  extract_lets s1
  have k1 : Keeps 0x22020D s s1 := State.setB_keeps (State.set64_keeps (.refl _ s) _ _ _) _ _
  split
  · exact State.openBand_keeps _ k1
  · exact k1

theorem State.startLog_keeps : Keeps 0x22020D s s.startLog :=
  State.showSpace_keeps (State.updVlt_keeps s.openEpoch_keeps _ (fun _ w => w))

theorem State.startLog_vlt : s.startLog.vlt.maxEpoch = s.vlt.maxEpoch + 1 ∧ s.startLog.vlt.sinceCut = 0 := by
  unfold State.startLog
  rw [(State.showSpace_keeps (.refl 0x20020D _)).vlt rfl]
  exact ⟨rfl, rfl⟩

/-- What follows the entry of SERVE touches registers, the dispatcher and what reports. -/
theorem State.openPorts_after :
    Keeps 0x20120D (s.startLog.updGlb fun g => { g with st := .serve, lazyRestore := true }) s.openPorts :=
  State.event_keeps _ _ (State.keptBack_keeps (State.rollDrop_keeps (State.restoreTasks_keeps (.refl _ _))))

theorem State.openPorts_glb : s.openPorts.glb = { s.glb with st := .serve, lazyRestore := true } := by
  rw [s.openPorts_after.glb rfl, State.updGlb_glb, s.startLog_keeps.glb rfl]

theorem State.openPorts_vlt : s.openPorts.vlt.maxEpoch = s.vlt.maxEpoch + 1 ∧ s.openPorts.vlt.sinceCut = 0 := by
  rw [s.openPorts_after.vlt rfl, State.updGlb_vlt]
  exact s.startLog_vlt

/-- PORTS_OPEN leaves alone the queue, the cache, the restore, the mirror and configuration flash up to an adoption. -/
theorem State.openPorts_frame : s.openPorts.pq = s.pq ∧ s.openPorts.cch = s.cch ∧ s.openPorts.rst = s.rst ∧
    s.openPorts.mtx = s.mtx ∧ s.openPorts.cfl = s.cfl := by
  have k := s.startLog_keeps
  have ka := s.openPorts_after
  rw [ka.pq rfl, ka.cch rfl, ka.rst rfl, ka.mtx rfl, ka.cfl rfl]
  simp [k.pq rfl, k.cch rfl, k.rst rfl, k.mtx rfl, k.cfl rfl]

/-- The planner draws a value that the spec leaves open, and changes nothing else of the beat timer (R219). -/
theorem State.plan_glb : s.plan.glb = { s.glb with free := s.plan.glb.free } := by
  unfold State.plan
  extract_lets dirty x d p
  have hd : d.2.glb = { s.glb with free := d.2.glb.free } := by
    unfold d
    split <;> rfl
  exact hd

theorem State.closeAgain_glb : s.closeAgain.glb = { s.glb with free := s.closeAgain.glb.free } := by
  have hc : s.closeLedger.glb = s.glb := (State.closeLedger_keeps (.refl 0x20F20D s)).glb rfl
  unfold State.closeAgain State.planClose
  split
  · rw [State.plan_glb, hc]
  · rw [hc]

/-- What the close at the entry of SERVE touches (R143). -/
theorem State.closeAgain_only : Keeps 0x21F20F s s.closeAgain := State.closeAgain_keeps (.refl _ s)

/-- A range list that a number has been cut out of does not hold it. -/
theorem inRanges_cutRange (l : List (Nat × Nat)) (g : Nat) : inRanges (cutRange l g) g = false := by
  unfold inRanges cutRange
  simp only [List.any_eq_false, List.mem_flatten, List.mem_map]
  rintro x ⟨_, ⟨r, -, rfl⟩, hx⟩
  split at hx
  · simp only [List.mem_append, List.mem_ite_nil_right, List.mem_singleton] at hx
    obtain ⟨-, rfl⟩ | ⟨-, rfl⟩ := hx
    · simp; omega
    · simp
  · simp only [List.mem_singleton] at hx
    subst hx
    simp only [Bool.and_eq_true, decide_eq_true_eq]
    assumption

/-- Writing lines leaves the fetches in flight alone. -/
theorem State.writeLine_fetching (la : Nat) (c : LineCell) : (s.writeLine la c).rst.fetching = s.rst.fetching := by
  unfold State.writeLine
  extract_lets g both dual s0 s1 any
  have h0 : s0.rst = s.rst := by unfold s0; split <;> rfl
  have h1 : s1.rst.fetching = s.rst.fetching := by unfold s1; simp [h0]
  split
  · exact h1
  · exact h1

/-- Answering the reads that wait for a granule sends their answers and changes only who waits. -/
theorem State.answerWaiting_unrest (g : Nat) : (s.answerWaiting g).cch.unrest = s.cch.unrest := by
  unfold State.answerWaiting
  exact foldl_eq_of_step (f := fun t : State => t.cch.unrest) (fun t w => by unfold State.answerRead; split <;> rfl) _ _

/-- A completed fetch restores its granule and is no longer in flight (R278). -/
theorem State.fetchDone_restores (g : Nat) : (s.fetchDone g).unrest g = false ∧
    (s.fetchDone g).rst.fetching = Store.put 0 s.rst.fetching g 0 := by
  unfold State.fetchDone
  extract_lets mask ls s1 e1 s2 s3 e3 u eu u1 s4
  have h1 : s1.rst.fetching = s.rst.fetching := foldl_eq_of_step (f := fun t : State => t.rst.fetching)
    (fun t i => by
      split
      · rfl
      · exact t.writeLine_fetching _ _) _ _
  have h3 : s3.rst.fetching = Store.put 0 s.rst.fetching g 0 := by rw [← h1]; rfl
  have hu : u1.cch.unrest = s3.cch.unrest ∧ u1.rst = s3.rst := by
    unfold u1
    split <;> exact ⟨rfl, rfl⟩
  have h4 : s4.cch.unrest = s3.cch.unrest ∧ s4.rst = s3.rst := by
    unfold s4
    split
    · exact ⟨rfl, rfl⟩
    · simpa using hu
  have shown : ∀ t : State, t.showPct.cch = t.cch ∧ t.showPct.rst = t.rst := fun _ => ⟨rfl, rfl⟩
  constructor
  · unfold State.unrest
    rw [State.answerWaiting_unrest, apply_ite State.cch, (shown s4).1, ite_self, h4.1]
    exact inRanges_cutRange _ _
  · rw [(State.answerWaiting_keeps g (.refl 0x200800 _)).rst rfl, apply_ite State.rst, (shown s4).2, ite_self, h4.2, h3]

variable {s}

theorem execDemandFetch_fetches {g : BitVec 40}
    (h : s.serving = true ∧ ((s.entry g.toNat).fetch = true ∨ s.unrest g.toNat = true) ∧ s.inFetch g.toNat = false) :
    execDemandFetch g s = .next (((s.setEntry g.toNat { s.entry g.toNat with fetch := true }).updRst fun r => { r with
      fetching := Store.put 0 r.fetching g.toNat ((s.entry g.toNat).vloc + 1) }).count VLT_RST_FETCH_FETCHES 1) :=
  if_pos (by simpa using h)

theorem execLazyRestoreEnd_iff : (s.atBoundary ∧ s.glb.lazyRestore ∧ s.cch.unrest.isEmpty) ↔
    s.glb.cycle = 0 ∧ s.glb.lazyRestore = true ∧ s.cch.unrest = [] := by
  simp [State.atBoundary]

end

/-- Settles O37: PORTS_OPEN through `openPorts`, a completed fetch through `fetchDone_restores`, the rest by the commands' guards. -/
theorem portsOpenAndTheRestoreEnds : Obligations.PortsOpenAndTheRestoreEnds := by
  unfold Obligations.PortsOpenAndTheRestoreEnds
  refine ⟨fun s h => if_neg (mt s.mayOpen_iff.mp h), fun s h hf => ?opens, fun s h hf => ?adopts,
    fun g s h => execDemandFetch_fetches h, fun g s h => if_neg (by simpa using h), fun g s h => if_neg (by simpa using h),
    fun g s h => ?fetched, fun s h hf => execPortsOpen_adopts h hf, fun s h hf => execPortsOpen_plain h hf,
    fun g s h => if_pos h, fun f n s h => if_pos h, fun f n s h => if_neg ?idle, fun f n s hl hs => ?row,
    fun s h => if_pos (execLazyRestoreEnd_iff.mpr h), fun s h => if_neg (mt execLazyRestoreEnd_iff.mp h),
    fun i s => ⟨fun r hi hr => ?inside, fun hi => if_neg (by omega)⟩⟩
  case opens =>
    have kc := s.openPorts.closeAgain_only
    obtain ⟨hpq, hcch, hrst, hmtx, hcfl⟩ := s.openPorts_frame
    obtain ⟨hmax, hcut⟩ := s.openPorts_vlt
    refine ⟨_, execPortsOpen_plain (s.mayOpen_iff.mpr h) (by simp [hf]), ?_, (kc.pq rfl).trans hpq, (kc.cch rfl).trans hcch,
      (kc.rst rfl).trans hrst, (kc.mtx rfl).trans hmtx, (kc.cfl rfl).trans hcfl, ?_, ?_⟩
    · rw [State.closeAgain_glb, State.openPorts_glb]
    · rw [kc.vlt rfl, hmax]
    · rw [kc.vlt rfl, hcut]
  case adopts =>
    let o := s.openPorts
    obtain ⟨-, -, -, -, hcfl⟩ := s.openPorts_frame
    obtain ⟨hmax, -⟩ := s.openPorts_vlt
    have ka : Keeps 0x341A0D o (o.adoptMirror o.drn.lastM) := State.adoptMirror_keeps _ (.refl _ o)
    have kc := (o.adoptMirror o.drn.lastM).closeAgain_only
    have hg : (o.adoptMirror o.drn.lastM).closeAgain.glb = { s.glb with
        st := .serve, lazyRestore := true, free := (o.adoptMirror o.drn.lastM).closeAgain.glb.free } := by
      rw [State.closeAgain_glb, ka.glb rfl, State.openPorts_glb]
    refine ⟨_, execPortsOpen_adopts (s.mayOpen_iff.mpr h) hf, ?_, ?_, ?_, ?_, ?_⟩
    · rw [hg]
    · rw [hg]
    · rw [hg]
    · rw [kc.cfl rfl, ka.cfl rfl, hcfl]
    · rw [kc.vlt rfl, ka.vlt rfl, hmax]
  case fetched =>
    have k := (execFetchComplete_keeps g (.refl 0x241A0D s)) _ (if_pos h)
    have kr : ∀ t p, Keeps 0x1000 t (State.retireTask t p) := fun t p => State.retireTask_keeps p (.refl _ t)
    obtain ⟨hun, hfe⟩ := (s.dramMove 4096).fetchDone_restores g.toNat
    refine ⟨_, if_pos h, ?_, ?_, ?_⟩
    · unfold State.unrest at hun ⊢
      rw [(kr _ _).cch rfl, hun]
    · rw [(kr _ _).rst rfl, hfe]
      rfl
    · exact ⟨k.glb rfl, k.pq rfl, k.cfl rfl, k.mtx rfl, k.vlt rfl⟩
  case idle =>
    rintro ⟨hl, hs⟩
    simp [hl, hs] at h
  case row =>
    have k := (execRestoreRow_keeps f n (.refl 0x241A1D s)) _ (if_pos ⟨hl, hs⟩)
    exact ⟨_, if_pos ⟨hl, hs⟩, k.glb rfl, k.pq rfl, k.cfl rfl, k.mtx rfl, k.vlt rfl⟩
  case inside =>
    refine (if_pos hi).trans ?_
    rw [hr]

end Sys2Proof.Machine
end

section
/-! PROOFS. Three statements that fail: an iff without one of its conditions, and two that hold for canonical tables only. -/

namespace Sys2Proof.Machine

/-- The always-on supply has been up for the minimum off time and the rails are down, but the controller is bound for SEALED. -/
def boundForSealed : State :=
  (State.reset.updGlb fun g => { g with beat := 50001 }).updDrn fun d => { d with toSealed := true }

/-- Refutes O27: its second clause gives the conditions of a power-up without `toSealed = false`. `boundForSealed` meets those it
names, and the trip that waits for the boundary keeps the power-up from beginning (R23, R393). -/
theorem not_powerUpAndPowerDown : ¬Obligations.PowerUpAndPowerDown := by
  unfold Obligations.PowerUpAndPowerDown
  rintro ⟨-, hiff, -⟩
  have hno : boundForSealed.mayPowerUp = false := by decide
  have hyes : boundForSealed.mayPowerUp = true := (hiff boundForSealed).mpr (by decide)
  rw [hno] at hyes
  nomatch hyes

/-- A table of unspent credit that lists stream 0 twice: it is not canonical, and taking stream 0 out of it once uncovers the other
entry. -/
def creditTwice : Store Nat := [(0, 5), (0, 7)]

/-- A controller in a given operating state whose credit table is `creditTwice`. -/
def doubleCredit (o : OpState) : State :=
  (State.reset.updGlb fun g => { g with st := o }).updLdg fun l => { l with unspent := creditTwice }

theorem doubleCredit_trip {t : State} (h : exec .inmonTrip (doubleCredit .serve) = .next t) : t.unspent 0 = 7 := by
  rw [← Host.Outcome.next.inj h]
  decide

theorem doubleCredit_collapse {t : State} (h : exec .inputCollapse (doubleCredit .grace) = .next t) : t.unspent 0 = 7 := by
  rw [← Host.Outcome.next.inj h]
  decide

/-- Refutes O23: its first clause asks for canonical registers and not for a canonical table of unspent credit. In SERVE with the
table `creditTwice` the trip leaves stream 0 with 7 lines of credit. -/
theorem not_inputTripByState : ¬Obligations.InputTripByState := by
  unfold Obligations.InputTripByState
  rintro ⟨hserve, -⟩
  obtain ⟨t, ht, -, -, -, hcred, -⟩ := hserve (doubleCredit .serve) (by decide) rfl
  obtain ⟨-, hzero⟩ := hcred 0 (by decide)
  rw [doubleCredit_trip ht] at hzero
  nomatch hzero

/-- Refutes O24: its first clause asks nothing of the table of unspent credit. In GRACE with the table `creditTwice` a collapse leaves
stream 0 with 7 lines of credit. -/
theorem not_drainEntryAndRideThrough : ¬Obligations.DrainEntryAndRideThrough := by
  unfold Obligations.DrainEntryAndRideThrough
  rintro ⟨hcollapse, -⟩
  obtain ⟨t, ht, -, -, -, -, -, hzero, -⟩ := hcollapse (doubleCredit .grace) rfl
  rw [doubleCredit_collapse ht] at hzero
  nomatch hzero

end Sys2Proof.Machine
end

section
/-! PROOFS. What every step keeps: a sound state, and the beat with its cycle but for the commands that move them (R42, R461). -/

namespace Sys2Proof.Machine

section
variable {s t : State} {o : Out}

/-- Every part of the state but the beat and its cycle. -/
abbrev allButClock : Nat := 0xBFFFFF

theorem KeepsOut.ofClock {m : Nat} (k : KeepsOut m s o)
    (hc : ∀ t, o = .next t → t.glb.beat = s.glb.beat ∧ t.glb.cycle = s.glb.cycle) : KeepsOut allButClock s o :=
  fun t e => Keeps.all (.refl _ s) (k t e).queue (k t e).inv fun _ => hc t e

/-- What is done in another beat and leaves the clock alone, taken back to its own beat, has left the clock alone (R54). -/
theorem State.inBeat_clock {b : Nat} (k : Keeps allButClock (s.inBeat b) t) :
    (t.inBeat s.glb.beat).glb.beat = s.glb.beat ∧ (t.inBeat s.glb.beat).glb.cycle = s.glb.cycle :=
  ⟨rfl, (k.clock rfl).2⟩

theorem execSwapEffect_keepsClock : KeepsOut allButClock s (execSwapEffect s) :=
  (execSwapEffect_keeps (.refl 0xFFFFFF s)).ofClock fun t e => by
    unfold execSwapEffect at e
    split at e <;> rw [← Host.Outcome.next.inj e]
    · exact State.inBeat_clock (State.swapPass_keeps (.refl _ _))
    · exact ⟨rfl, rfl⟩

theorem execImageRelease_keepsClock : KeepsOut allButClock s (execImageRelease s) :=
  (execImageRelease_keeps (.refl 0xFFFFFF s)).ofClock fun t e => by
    unfold execImageRelease at e
    split at e <;> rw [← Host.Outcome.next.inj e]
    · exact State.inBeat_clock (State.releasePass_keeps (.refl _ _))
    · exact ⟨rfl, rfl⟩

/-- The commands that move the beat or its cycle (R42, R44): the boundary, the loss and the return of VDDAON, and a control sample. -/
inductive MovesClock : Instr → Prop
  | boundary (back refclk aliveLow : Bool) (report : BitVec 96) (pg : BitVec 48) :
      MovesClock (.beatBoundary back refclk aliveLow report pg)
  | losesVddaon : MovesClock .vddaonLoss
  | regainsVddaon (straps : BitVec 4) : MovesClock (.vddaonPowerOn straps)
  | sample (codes : BitVec 96) : MovesClock (.controlSample codes)

/-- Every other command leaves the clock and the queue alone and keeps a sound state. -/
theorem exec_keepsClock (c : Instr) (hc : ¬MovesClock c) : KeepsOut allButClock s (exec c s) := by
  have hk : Keeps allButClock s s := .refl _ s
  cases c with
  | beatBoundary back refclk aliveLow report pg => exact absurd (.boundary back refclk aliveLow report pg) hc
  | creditPublication => exact execCreditPublication_keeps hk
  | healthFiguresStale => exact execHealthFiguresStale_keeps hk
  | refclkLoss => exact execRefclkLoss_keeps hk
  | refclkReturn => exact execRefclkReturn_keeps hk
  | controlSample codes => exact absurd (.sample codes) hc
  | protectiveTrip codes shoot => exact execProtectiveTrip_keeps codes shoot hk
  | faultRestart => exact execFaultRestart_keeps hk
  | bfRunStart => exact execBfRunStart_keeps hk
  | bfRunEnd => exact execBfRunEnd_keeps hk
  | bfRetry => exact execBfRetry_keeps hk
  | setpointWrite reg w => exact execSetpointWrite_keeps reg w hk
  | inmonTrip => exact execInmonTrip_keeps hk
  | inputCollapse => exact execInputCollapse_keeps hk
  | graceTimerExpiry => exact execGraceTimerExpiry_keeps hk
  | rideThrough => exact execRideThrough_keeps hk
  | mrxWindowExpiry => exact execMrxWindowExpiry_keeps hk
  | mirrorFence => exact execMirrorFence_keeps hk
  | domainShed d => exact execDomainShed_keeps d hk
  | crownWrite => exact execCrownWrite_keeps hk
  | crownComplete => exact execCrownComplete_keeps hk
  | warmResumeDecision => exact execWarmResumeDecision_keeps hk
  | warmServeEntry => exact execWarmServeEntry_keeps hk
  | offDelayExpiry rail => exact execOffDelayExpiry_keeps rail hk
  | bankmonDrainFloor code => exact execBankmonDrainFloor_keeps code hk
  | bankmonSealedFloor code => exact execBankmonSealedFloor_keeps code hk
  | powerUpBegin => exact execPowerUpBegin_keeps hk
  | powerUpComplete => exact execPowerUpComplete_keeps hk
  | powerupHoldEnd => exact execPowerupHoldEnd_keeps hk
  | coreStopRailOff => exact execCoreStopRailOff_keeps hk
  | cxlMemWrite p hpa data mask poison tag => exact execCxlMemWrite_keeps p hpa data mask poison tag hk
  | heldWriteAdmit p => exact execHeldWriteAdmit_keeps p hk
  | heldSpanStart p => exact execHeldSpanStart_keeps p hk
  | cxlMemRead p hpa tag err => exact execCxlMemRead_keeps p hpa tag err hk
  | decoderCommit p k base size commit => exact execDecoderCommit_keeps p k base size commit hk
  | pqBindWrite p k w => exact execPqBindWrite_keeps p k w hk
  | stampLoWrite g p v => exact execStampLoWrite_keeps g p v hk
  | stampHiWrite g p hi lo => exact execStampHiWrite_keeps g p hi lo hk
  | globalPersistentFlush p => exact execGlobalPersistentFlush_keeps p hk
  | identifyMemoryDevice p => exact execIdentifyMemoryDevice_keeps p hk
  | getHealthInfo p => exact execGetHealthInfo_keeps p hk
  | getShutdownState p => exact execGetShutdownState_keeps p hk
  | setShutdownState p v => exact execSetShutdownState_keeps p v hk
  | getSupportedLogs p => exact execGetSupportedLogs_keeps p hk
  | getLog p => exact execGetLog_keeps p hk
  | getEventRecords p => exact execGetEventRecords_keeps p hk
  | clearEventRecords p h => exact execClearEventRecords_keeps p h hk
  | getTimestamp p => exact execGetTimestamp_keeps p hk
  | setTimestamp p ns => exact execSetTimestamp_keeps p ns hk
  | getFwInfo p => exact execGetFwInfo_keeps p hk
  | unsupportedMailboxCommand p op => exact execUnsupportedMailboxCommand_keeps p op hk
  | hostLinkTrained p fast => exact execHostLinkTrained_keeps p fast hk
  | perstAssert p => exact execPerstAssert_keeps p hk
  | perstDeassert p => exact execPerstDeassert_keeps p hk
  | dramTraining dimms speeds => exact execDramTraining_keeps dimms speeds hk
  | dramReadComplete la err => exact execDramReadComplete_keeps la err hk
  | ceWindowExpiry => exact execCeWindowExpiry_keeps hk
  | retireCommand n => exact execRetireCommand_keeps n hk
  | retirementBegin => exact execRetirementBegin_keeps hk
  | retirementCutover => exact execRetirementCutover_keeps hk
  | xlateStart hi => exact execXlateStart_keeps hi hk
  | rehearsalGo => exact execRehearsalGo_keeps hk
  | rehearsalScheduled => exact execRehearsalScheduled_keeps hk
  | rehearsalEnd => exact execRehearsalEnd_keeps hk
  | bankRelease mod => exact execBankRelease_keeps mod hk
  | bankReleaseCancel mod => exact execBankReleaseCancel_keeps mod hk
  | energyModuleReleased mod => exact execEnergyModuleReleased_keeps mod hk
  | energyModuleAbsent mod => exact execEnergyModuleAbsent_keeps mod hk
  | bootEqualise => exact execBootEqualise_keeps hk
  | bootEqualiseEnd => exact execBootEqualiseEnd_keeps hk
  | healthTestGo => exact execHealthTestGo_keeps hk
  | healthTestScheduled => exact execHealthTestScheduled_keeps hk
  | healthTestRetry => exact execHealthTestRetry_keeps hk
  | healthTestStepEnd => exact execHealthTestStepEnd_keeps hk
  | healthTestRecharged => exact execHealthTestRecharged_keeps hk
  | healthTestAbort => exact execHealthTestAbort_keeps hk
  | equaliseGo mod => exact execEqualiseGo_keeps mod hk
  | equaliseDone => exact execEqualiseDone_keeps hk
  | equaliseTimeout => exact execEqualiseTimeout_keeps hk
  | chunkReadComplete ch t pl blk pg chunk levels => exact execChunkReadComplete_keeps ch t pl blk pg chunk levels hk
  | nandProgramComplete ch t pl blk pg good => exact execNandProgramComplete_keeps ch t pl blk pg good hk
  | nandEraseComplete ch t pl blk good => exact execNandEraseComplete_keeps ch t pl blk good hk
  | bandOpen blk => exact execBandOpen_keeps blk hk
  | checkpointTrigger => exact execCheckpointTrigger_keeps hk
  | epochSeal => exact execEpochSeal_keeps hk
  | trickleWriteComplete g => exact execTrickleWriteComplete_keeps g hk
  | fullCopyComplete g => exact execFullCopyComplete_keeps g hk
  | flashModuleAbsent mod => exact execFlashModuleAbsent_keeps mod hk
  | flashModuleRelease mod => exact execFlashModuleRelease_keeps mod hk
  | flashReleaseRestripe => exact execFlashReleaseRestripe_keeps hk
  | flashModuleReleased mod => exact execFlashModuleReleased_keeps mod hk
  | flashModuleCancel mod => exact execFlashModuleCancel_keeps mod hk
  | flashModuleAdd mod pages marks => exact execFlashModuleAdd_keeps mod pages marks hk
  | vaultFormat key go => exact execVaultFormat_keeps key go hk
  | flashModuleInserted mod pages => exact execFlashModuleInserted_keeps mod pages hk
  | crownSearch pages changed => exact execCrownSearch_keeps pages changed hk
  | vaultEmpty key empty => exact execVaultEmpty_keeps key empty hk
  | mapLoad => exact execMapLoad_keeps hk
  | notesApply => exact execNotesApply_keeps hk
  | portsOpen => exact execPortsOpen_keeps hk
  | lazyRestoreEnd => exact execLazyRestoreEnd_keeps hk
  | fetchComplete g => exact execFetchComplete_keeps g hk
  | rangeIndexWrite idx => exact execRangeIndexWrite_keeps idx hk
  | linkTrainingStart => exact execLinkTrainingStart_keeps hk
  | linkEqualiseEnd trained pol => exact execLinkEqualiseEnd_keeps trained pol hk
  | frameReceive f missed reversed => exact fun t e => (execFrameReceive_keeps f missed reversed hk) t e
  | attemptTimeout => exact execAttemptTimeout_keeps hk
  | rtrnSendEnd => exact execRtrnSendEnd_keeps hk
  | linkRetrainCommand => exact execLinkRetrainCommand_keeps hk
  | injectCrcError => exact execInjectCrcError_keeps hk
  | injectLaneErrors lane n => exact execInjectLaneErrors_keeps lane n hk
  | flitTransmit => exact execFlitTransmit_keeps hk
  | replayTimerExpiry => exact execReplayTimerExpiry_keeps hk
  | sessionSetupStart => exact execSessionSetupStart_keeps hk
  | hello => exact execHello_keeps hk
  | response => exact execResponse_keeps hk
  | refuse => exact execRefuse_keeps hk
  | setupTimeout => exact execSetupTimeout_keeps hk
  | sessionEndCommand => exact execSessionEndCommand_keeps hk
  | quarantineClear => exact execQuarantineClear_keeps hk
  | resyncCommand => exact execResyncCommand_keeps hk
  | groupVerify => exact execGroupVerify_keeps hk
  | write => exact execWrite_keeps hk
  | data => exact execData_keeps hk
  | ack => exact execAck_keeps hk
  | stamp => exact execStamp_keeps hk
  | heartbeat => exact execHeartbeat_keeps hk
  | syncBegin => exact execSyncBegin_keeps hk
  | syncEnd => exact execSyncEnd_keeps hk
  | syncRepaired => exact execSyncRepaired_keeps hk
  | takeover => exact execTakeover_keeps hk
  | pad => exact execPad_keeps hk
  | receiveWriteTimeout => exact execReceiveWriteTimeout_keeps hk
  | sendCountedTimeout => exact execSendCountedTimeout_keeps hk
  | sendAbsoluteTimeout => exact execSendAbsoluteTimeout_keeps hk
  | heartbeatSend => exact execHeartbeatSend_keeps hk
  | heartbeatLoss => exact execHeartbeatLoss_keeps hk
  | partnerAliveInDeassert => exact execPartnerAliveInDeassert_keeps hk
  | quarantineEnd => exact execQuarantineEnd_keeps hk
  | quarantineCountReset => exact execQuarantineCountReset_keeps hk
  | fullSyncStart => exact execFullSyncStart_keeps hk
  | adoptedRegionRead p off tag err => exact execAdoptedRegionRead_keeps p off tag err hk
  | adoptedRegionWrite p => exact execAdoptedRegionWrite_keeps p hk
  | adoptedRegionRelease key => exact execAdoptedRegionRelease_keeps key hk
  | ingestFlush id err tsBad tsFix => exact execIngestFlush_keeps id err tsBad tsFix hk
  | ingestWriteComplete id chanDead => exact execIngestWriteComplete_keeps id chanDead hk
  | mirrorSend => exact execMirrorSend_keeps hk
  | trickle g => exact execTrickle_keeps g hk
  | drainExtent first count => exact execDrainExtent_keeps first count hk
  | extentComplete g => exact execExtentComplete_keeps g hk
  | restoreRow first count => exact execRestoreRow_keeps first count hk
  | demandFetch g => exact execDemandFetch_keeps g hk
  | scrub first count copy errs => exact execScrub_keeps first count copy errs hk
  | full bseq count => exact execFull_keeps bseq count hk
  | mapCkpt count => exact execMapCkpt_keeps count hk
  | parity bseq row => exact execParity_keeps bseq row hk
  | health g => exact execHealth_keeps g hk
  | taskSubmit g tile => exact execTaskSubmit_keeps g tile hk
  | taskPick tile engine => exact execTaskPick_keeps tile engine hk
  | taskSteal thief own => exact execTaskSteal_keeps thief own hk
  | taskStealDelivery thief => exact execTaskStealDelivery_keeps thief hk
  | taskSliceEnd tid r => exact execTaskSliceEnd_keeps tid r hk
  | waitConditionMet tid recovery => exact execWaitConditionMet_keeps tid recovery hk
  | waitTimeout tid recovery => exact execWaitTimeout_keeps tid recovery hk
  | taskCancel g tid met => exact execTaskCancel_keeps g tid met hk
  | completionPop g => exact execCompletionPop_keeps g hk
  | tileQuiesce t => exact execTileQuiesce_keeps t hk
  | tileOut t => exact execTileOut_keeps t hk
  | quiesceTimeout t => exact execQuiesceTimeout_keeps t hk
  | tileReturn t => exact execTileReturn_keeps t hk
  | microcodeRoll maxout => exact execMicrocodeRoll_keeps maxout hk
  | rollAbort => exact execRollAbort_keeps hk
  | tileMicrocodeLoaded t => exact execTileMicrocodeLoaded_keeps t hk
  | tileSelfTestDone t pass => exact execTileSelfTestDone_keeps t pass hk
  | tileSelfTestBoot passed => exact execTileSelfTestBoot_keeps passed hk
  | scanComplete codes pg => exact execScanComplete_keeps codes pg hk
  | railTonExpiry rail => exact execRailTonExpiry_keeps rail hk
  | railSettleExpiry rail => exact execRailSettleExpiry_keeps rail hk
  | railFdelayExpiry rail => exact execRailFdelayExpiry_keeps rail hk
  | domainOnTimeout d => exact execDomainOnTimeout_keeps d hk
  | domainFault d => exact execDomainFault_keeps d hk
  | repower rail => exact execRepower_keeps rail hk
  | manualRailOn rail => exact execManualRailOn_keeps rail hk
  | manualRailOff rail => exact execManualRailOff_keeps rail hk
  | warningCountClear rail => exact execWarningCountClear_keeps rail hk
  | resetStretchExpiry g => exact execResetStretchExpiry_keeps g hk
  | droopTrip t => exact execDroopTrip_keeps t hk
  | droopRelease t => exact execDroopRelease_keeps t hk
  | snapDataRead g => exact execSnapDataRead_keeps g hk
  | vddaonPowerOn straps => exact absurd (.regainsVddaon straps) hc
  | vddaonLoss => exact absurd (.losesVddaon) hc
  | bootImageValidate => exact execBootImageValidate_keeps hk
  | shadeValidate => exact execShadeValidate_keeps hk
  | shadeValidationDone => exact execShadeValidationDone_keeps hk
  | swap key => exact execSwap_keeps key hk
  | roleRecordCommitted => exact execRoleRecordCommitted_keeps hk
  | swapEffect => exact execSwapEffect_keepsClock
  | imageRelease => exact execImageRelease_keepsClock
  | swapCancel => exact execSwapCancel_keeps hk
  | rollback key => exact execRollback_keeps key hk
  | nativeCmd0 g w also => exact execNativeCmd0_keeps g w also hk
  | nativeCmd1 g w => exact execNativeCmd1_keeps g w hk
  | nativeDataWrite g off w full => exact execNativeDataWrite_keeps g off w full hk
  | program g w => exact execProgram_keeps g w hk
  | eraseSector g w => exact execEraseSector_keeps g w hk
  | blankCheck g w => exact execBlankCheck_keeps g w hk
  | flashOperationComplete how => exact execFlashOperationComplete_keeps how hk
  | flashSequenceTimeout => exact execFlashSequenceTimeout_keeps hk
  | compatKeyWrite g w => exact execCompatKeyWrite_keeps g w hk
  | compatProgramWord g w => exact execCompatProgramWord_keeps g w hk
  | compatEraseSector g a => exact execCompatEraseSector_keeps g a hk
  | compatBlankCheck g a => exact execCompatBlankCheck_keeps g a hk
  | compatAbort g => exact execCompatAbort_keeps g hk
  | flagScan => exact execFlagScan_keeps hk
  | bootSelect g block key => exact execBootSelect_keeps g block key hk
  | stewardStart good0 good1 => exact execStewardStart_keeps good0 good1 hk
  | recorderFlashCopy => exact execRecorderFlashCopy_keeps hk
  | digestStart g alg keyslot also => exact execDigestStart_keeps g alg keyslot also hk
  | digestResume g n also => exact execDigestResume_keeps g n also hk
  | digestAbort g => exact execDigestAbort_keeps g hk
  | digestDataWrite g w => exact execDigestDataWrite_keeps g w hk
  | digestBlockDone => exact execDigestBlockDone_keeps hk
  | digestOwnerTimeout => exact execDigestOwnerTimeout_keeps hk
  | digestContextExpiry n => exact execDigestContextExpiry_keeps n hk
  | importKey g slot key => exact execImport_keeps g slot key hk
  | exportKey g slot key => exact execExport_keeps g slot key hk
  | lock g slot key => exact execLock_keeps g slot key hk
  | erase g slot key => exact execErase_keeps g slot key hk
  | compare g slot key => exact execCompare_keeps g slot key hk
  | loadescrow g key => exact execLoadescrow_keeps g key hk
  | keyOpSeven g key => exact execKeyOpSeven_keeps g key hk
  | keySlotLoad => exact execKeySlotLoad_keeps hk
  | watchdogExpiry => exact execWatchdogExpiry_keeps hk
  | stewardRestart g key => exact execStewardRestart_keeps g key hk
  | confirm g => exact execConfirm_keeps g hk
  | kick g => exact execKick_keeps g hk
  | confirmTimeout => exact execConfirmTimeout_keeps hk
  | sensorRead temps mv => exact execSensorRead_keeps temps mv hk
  | getVersions g => exact execGetVersions_keeps g hk
  | updateBegin g size => exact execUpdateBegin_keeps g size hk
  | updateData g off data => exact execUpdateData_keeps g off data hk
  | updateEnd g => exact execUpdateEnd_keeps g hk
  | updateCancel g => exact execUpdateCancel_keeps g hk
  | activateFw g => exact execActivateFw_keeps g hk
  | setWalltime g sec => exact execSetWalltime_keeps g sec hk
  | entdaa addr => exact execEntdaa_keeps addr hk
  | setdasa static addr => exact execSetdasa_keeps static addr hk
  | rstdaa => exact execRstdaa_keeps hk
  | enec => exact execEnec_keeps hk
  | disec => exact execDisec_keeps hk
  | getpid => exact execGetpid_keeps hk
  | getbcr => exact execGetbcr_keeps hk
  | getdcr => exact execGetdcr_keeps hk
  | getmwl => exact execGetmwl_keeps hk
  | getmrl => exact execGetmrl_keeps hk
  | setEndpointId eid => exact execSetEndpointId_keeps eid hk
  | getEndpointId => exact execGetEndpointId_keeps hk
  | getEndpointUuid => exact execGetEndpointUuid_keeps hk
  | getMctpVersionSupport ty => exact execGetMctpVersionSupport_keeps ty hk
  | getMessageTypeSupport => exact execGetMessageTypeSupport_keeps hk
  | getVendorDefinedMessageSupport => exact execGetVendorDefinedMessageSupport_keeps hk
  | unsupportedMctpCommand cmd => exact execUnsupportedMctpCommand_keeps cmd hk
  | unsupportedMessageType => exact execUnsupportedMessageType_keeps hk
  | settid tid => exact execSettid_keeps tid hk
  | gettid => exact execGettid_keeps hk
  | getpldmversion ty => exact execGetpldmversion_keeps ty hk
  | getpldmtypes => exact execGetpldmtypes_keeps hk
  | getpldmcommands ty => exact execGetpldmcommands_keeps ty hk
  | getsensorreading id => exact execGetsensorreading_keeps id hk
  | getstatesensorreadings id => exact execGetstatesensorreadings_keeps id hk
  | setnumericsensorenable id enable => exact execSetnumericsensorenable_keeps id enable hk
  | getpdrrepositoryinfo => exact execGetpdrrepositoryinfo_keeps hk
  | getpdr handle => exact execGetpdr_keeps handle hk
  | seteventreceiver enable eid => exact execSeteventreceiver_keeps enable eid hk
  | querydeviceidentifiers => exact execQuerydeviceidentifiers_keeps hk
  | getfirmwareparameters => exact execGetfirmwareparameters_keeps hk
  | requestupdate => exact execRequestupdate_keeps hk
  | passcomponenttable => exact execPasscomponenttable_keeps hk
  | updatecomponent size => exact execUpdatecomponent_keeps size hk
  | activatefirmware => exact execActivatefirmware_keeps hk
  | getstatus => exact execGetstatus_keeps hk
  | cancelupdatecomponent => exact execCancelupdatecomponent_keeps hk
  | cancelupdate => exact execCancelupdate_keeps hk
  | evrCursorWrite g seq => exact execEvrCursorWrite_keeps g seq hk
  | severityQuery code => exact execSeverityQuery_keeps code hk
  | challenge g key => exact execChallenge_keeps g key hk
  | clear g key => exact execClear_keeps g key hk
  | challengeExpiry => exact execChallengeExpiry_keeps hk
  | msixMessageSend p v => exact execMsixMessageSend_keeps p v hk
  | glbLockSet g => exact execGlbLockSet_keeps g hk
  | unassignedAccess g off write full => exact execUnassignedAccess_keeps g off write full hk
  | offDomainAccess g off write => exact execOffDomainAccess_keeps g off write hk
  | loReadLatch g off wide => exact execLoReadLatch_keeps g off wide hk
  | readClear g off => exact execReadClear_keeps g off hk
  | registerWrite g t w be also => exact execRegisterWrite_keeps g t w be also hk
  | jtagIdcode => exact execJtagIdcode_keeps hk
  | jtagBypass => exact execJtagBypass_keeps hk
  | jtagPinControl => exact execJtagPinControl_keeps hk
  | partnerAliveInAssert => exact execPartnerAliveInAssert_keeps hk
  | laneErrorWindowExpiry => exact execLaneErrorWindowExpiry_keeps hk
  | hostLinkDown p => exact execHostLinkDown_keeps p hk
  | contextExportImportDone intact => exact execContextExportImportDone_keeps intact hk
  | requestfirmwaredataResponse data => exact execRequestfirmwaredataResponse_keeps data hk

/-- Every command keeps a sound state and the queue. -/
theorem exec_keeps (c : Instr) (s : State) : KeepsOut 0xFFFFFF s (exec c s) := by
  have hk : Keeps 0xFFFFFF s s := .refl _ s
  by_cases hc : MovesClock c
  · cases hc with
    | boundary back refclk aliveLow report pg => exact execBeatBoundary_keeps back refclk aliveLow report pg hk
    | losesVddaon => exact execVddaonLoss_keeps hk
    | regainsVddaon straps => exact execVddaonPowerOn_keeps straps hk
    | sample codes => exact execControlSample_keeps codes hk
  · exact fun t e => Keeps.all hk (exec_keepsClock c hc t e).queue (exec_keepsClock c hc t e).inv nofun

/-- A control sample moves the cycle within its beat (R44). -/
theorem execControlSample_beat {codes : BitVec 96} (h : execControlSample codes s = .next t) : t.glb.beat = s.glb.beat := by
  unfold execControlSample at h
  extract_lets k s1 at h
  have k1 : ∀ l b, (s1.sampleNow l b).glb.beat = s.glb.beat := fun l b =>
    ((State.sampleNow_keeps l b (.refl allButClock s1)).clock rfl).1
  split at h
  · rw [← Host.Outcome.next.inj h]
  · split at h <;> rw [← Host.Outcome.next.inj h, k1]

/-- A cycle that passes is counted up to the last of the beat (R42). -/
theorem State.Inv.tick (i : s.Inv) : s.tick.Inv := { i with cycle := Nat.min_le_left _ _ }

theorem step_of_empty (h : s.pending = []) : step s = .next s.tick := by
  unfold step
  rw [h]

theorem step_of_front {c : Instr} {rest : List Instr} (h : s.pending = c :: rest) : step s = exec c { s with pending := rest } := by
  unfold step
  rw [h]

end

/-- Settles O2: an empty queue makes a step the tick of the beat clock. -/
theorem emptyQueuePassesOneCycle : Obligations.EmptyQueuePassesOneCycle := by
  unfold Obligations.EmptyQueuePassesOneCycle
  exact fun s h => step_of_empty h

/-- Settles O5: an idle step counts a cycle within its bound, and every command keeps a sound state. -/
theorem everyStepKeepsASoundState : Obligations.EveryStepKeepsASoundState := by
  unfold Obligations.EveryStepKeepsASoundState
  intro s t i h
  cases hp : s.pending with
  | nil =>
    rw [step_of_empty hp] at h
    rw [← Host.Outcome.next.inj h]
    exact i.tick
  | cons c rest =>
    rw [step_of_front hp] at h
    exact (exec_keeps c _ t h).inv { i with }

/-- Settles O10: a control sample keeps the beat, every other command that is not excepted the whole clock. -/
theorem onlyBoundariesAndVddaonMoveTheBeat : Obligations.OnlyBoundariesAndVddaonMoveTheBeat := by
  unfold Obligations.OnlyBoundariesAndVddaonMoveTheBeat
  intro c s t hb hp hl h
  by_cases hc : MovesClock c
  · cases hc with
    | boundary back refclk aliveLow report pg => exact absurd rfl (hb _ _ _ _ _)
    | losesVddaon => exact absurd rfl hl
    | regainsVddaon straps => exact absurd rfl (hp _)
    | sample codes => exact ⟨execControlSample_beat h, fun hne => absurd rfl (hne _)⟩
  · have k := (exec_keepsClock c hc t h).clock rfl
    exact ⟨k.1, fun _ => k.2⟩

end Sys2Proof.Machine
end

section
/-! PROOFS. The boundary of a beat and the writes bound to it; the state after reset (R42, R54, R56, R484). -/

namespace Sys2Proof.Machine

section
variable (s : State)

/-- The beat that begins is the next one, at its cycle 0 (R42). -/
theorem State.nextBeat_clock (back refclk aliveLow : Bool) :
    (s.nextBeat back refclk aliveLow).glb.beat = s.glb.beat + 1 ∧ (s.nextBeat back refclk aliveLow).glb.cycle = 0 := by
  unfold State.nextBeat
  extract_lets s1 s2
  have k2 : Keeps allButClock s1 s2 := State.updMtx_keeps (.refl _ s1) _
  exact (State.updPq_keeps (State.updCtl_keeps (State.dramBoundary_keeps (State.updMlk_keeps k2 _)) _) _).clock rfl

/-- What comes about at a boundary leaves the clock of the new beat alone. -/
theorem execBeatBoundary_clock {back refclk aliveLow : Bool} {report : BitVec 96} {pg : BitVec 48} {t : State}
    (h : execBeatBoundary back refclk aliveLow report pg s = .next t) : t.glb.beat = s.glb.beat + 1 ∧ t.glb.cycle = 0 := by
  unfold execBeatBoundary at h
  extract_lets s1 s2 s3 at h
  let b := s.nextBeat back refclk aliveLow
  have k1 : Keeps allButClock b s1 := State.ldgBoundary_keeps (State.trickleBeat_keeps (State.swapPass_keeps
    (State.releasePass_keeps (State.applyBound_keeps (.refl _ b)))))
  have k2 : Keeps allButClock b s2 := State.coreStopDue_keeps (State.offStep_keeps (State.abandonStep_keeps
    (State.judgePg_keeps _ (State.showPg_keeps _ (State.seqBoundary_keeps _ k1)))))
  have k3 : Keeps allButClock b s3 := State.spanEnd_keeps _ (State.spanEnd_keeps _ (State.ctlBoundary_keeps
    (State.issuePrepared_keeps (State.slicesEnd_keeps (State.tileBoundary_keeps k2)))))
  have k4 := State.sealNow_keeps (State.rangesEnd_keeps (State.drainClose_keeps (State.planClose_keeps
    (State.closeLedger_keeps k3))))
  have k := (State.dueTasks_keeps (State.shedQuiesce_keeps (State.leaveBoot_keeps k4))).clock rfl
  rw [← Host.Outcome.next.inj h, k.1, k.2]
  exact s.nextBeat_clock back refclk aliveLow

/-- With one write bound, and its boundary come, the field takes the value and nothing stays bound (R54, R56). -/
theorem State.applyBound_one {b : BoundWrite} (h : s.glb.bound = [b]) (hd : b.due ≤ s.glb.beat) :
    s.applyBound = (s.set b.fld b.val).updGlb fun g => { g with bound := [] } := by
  unfold State.applyBound State.updGlb
  simp [h, hd]

/-- Writes bound to later boundaries wait (R54, R56). -/
theorem State.applyBound_waits (h : ∀ b ∈ s.glb.bound, s.glb.beat < b.due) : s.applyBound = s := by
  have none_due : (s.glb.bound.filter fun b => b.due ≤ s.glb.beat) = [] := by
    simpa [List.filter_eq_nil_iff] using h
  have all_stay : (s.glb.bound.filter fun b => ¬b.due ≤ s.glb.beat) = s.glb.bound := by
    simpa [List.filter_eq_self] using h
  unfold State.applyBound State.updGlb
  simp only [none_due, List.foldl_nil, all_stay]

/-- A write given in the seam is bound to the boundary after the next (R54). -/
theorem State.boundBeat_eq : s.boundBeat = s.glb.beat + (if 360 ≤ s.glb.cycle then 2 else 1) := by
  unfold State.boundBeat State.inSeam
  split <;> simp_all

end

/-- Settles O9: the boundary by the clock of `nextBeat`, the bound writes by what `applyBound` makes of them. -/
theorem beatBoundaryAndBoundWrites : Obligations.BeatBoundaryAndBoundWrites := by
  unfold Obligations.BeatBoundaryAndBoundWrites
  refine ⟨fun back refclk aliveLow report pg s => ?boundary, fun _ _ _ _ _ _ => rfl, fun s b hw hb hd => ?due,
    fun s h => s.applyBound_waits h, fun s f v => ?seam⟩
  case boundary =>
    obtain ⟨hbeat, hcycle⟩ := execBeatBoundary_clock s (rfl : execBeatBoundary back refclk aliveLow report pg s = _)
    have k := (execBeatBoundary_keeps back refclk aliveLow report pg (.refl 0xFFFF7F s)) _ rfl
    exact ⟨_, rfl, hbeat, hcycle, k.stw rfl⟩
  case due =>
    rw [s.applyBound_one hb hd]
    refine ⟨State.get_set hw _ _, rfl, fun f hf => ?_⟩
    rw [State.get_updGlb]
    exact State.get_set_ne (hf _ (List.mem_singleton_self _)) _
  case seam =>
    unfold State.bindWrite
    rw [s.boundBeat_eq]
    rfl

/-- Every part of the state after reset is in its canonical form, and the beat is at its cycle 0. -/
theorem State.reset_inv : State.reset.Inv :=
  ⟨Store.wf_nil, Store.wf_nil, Store.wf_nil, Store.wf_nil, Nat.zero_le _, Nat.zero_le _⟩

/-- With no field stored, each reads its reset value (R484). -/
theorem State.get_reset (f : Fld) : State.reset.get f = f.reset := Nat.zero_xor _

/-- Settles O6: nothing is stored at reset, and the identity word is read for each agent. -/
theorem stateAfterResetIsSound : Obligations.StateAfterResetIsSound := by
  unfold Obligations.StateAfterResetIsSound
  refine ⟨State.reset_inv, State.get_reset, fun g => ?identity, rfl, rfl, rfl, rfl, rfl⟩
  case identity => cases g <;> decide

end Sys2Proof.Machine
end

section
/-! PROOFS. Two statements about a port's credit that hold for a canonical table of unspent credit only. -/

namespace Sys2Proof.Machine

/-- A controller in SERVE whose table of unspent credit lists stream 0 twice; the image in force gives no figure. -/
def imagedTwice : State := (doubleCredit .serve).updSti fun x => { x with active := some ⟨0, 0, []⟩ }

/-- The publication takes stream 0 out of the table once, and uncovers the other entry. -/
theorem imagedTwice_publication {t : State} (h : exec .creditPublication imagedTwice = .next t) : t.unspent 0 = 7 := by
  rw [← Host.Outcome.next.inj h]
  decide

/-- Refutes O11: its clause about the first CREDIT_PUBLICATION of a beat asks for canonical registers and not for a canonical table of
unspent credit. `imagedTwice` grants stream 0 nothing, and the publication leaves it 7 lines of credit. -/
theorem not_timerSourceAndPublication : ¬Obligations.TimerSourceAndPublication := by
  unfold Obligations.TimerSourceAndPublication
  rintro ⟨-, -, -, -, hpublish, -⟩
  obtain ⟨t, ht, -, -, -, -, hcred⟩ :=
    hpublish imagedTwice (by decide) (by decide) (by decide) (by decide) (by decide) (by decide)
  obtain ⟨-, -, hzero⟩ := hcred 0 (by decide)
  rw [imagedTwice_publication ht] at hzero
  exact absurd hzero (by decide)

/-- The table of unspent credit lists stream 0 twice, with one line first. -/
def oneLineTwice : Store Nat := [(0, 1), (0, 7)]

/-- Port A in SERVE with a committed window of class A, one line of queue share on tile 0, and `oneLineTwice` for its credit. -/
def lastLineTwice : State where
  __ := State.reset
  glb := { Glb.reset with st := .serve }
  hp := { Hp.reset with up := ⟨true, false⟩, fast := ⟨true, false⟩ }
  pq := { Pq.reset with dec := [(0, ⟨0, 268435456, true, false⟩)] }
  sti := { Sti.reset with active := some ⟨1, 0, [(List.range 41).map fun k => if k = 32 ∨ k = 40 then 1 else 0]⟩ }
  dsp := { Dsp.reset with bucketTiles := [0] }
  ldg := { Ldg.reset with unspent := oneLineTwice }

/-- The admission charges the last line of port A's credit, and uncovers the other entry. -/
theorem lastLineTwice_admission {t : State} (h : exec (.cxlMemWrite .pa 0 0 1 false 0) lastLineTwice = .next t) :
    t.unspent 0 = 7 := by
  rw [← Host.Outcome.next.inj h]
  decide

/-- Refutes O8: its clause about the admission of a write that is not mirrored asks nothing of the table of unspent credit. In
`lastLineTwice` port A has one line of credit; after the admission of a class A write it has 7. -/
theorem not_writesAdmittedOrHeld : ¬Obligations.WritesAdmittedOrHeld := by
  unfold Obligations.WritesAdmittedOrHeld
  rintro ⟨-, -, -, hadmit, -⟩
  obtain ⟨t, ht, -, -, -, -, hcharge, -⟩ := hadmit .pa 0 0 1 false 0 lastLineTwice 0 0
    (by decide) (by decide) (by decide) (by decide) (by decide) (by decide)
  have one : lastLineTwice.unspent 0 = 1 := by decide
  have left : t.unspent 0 = 1 - 1 := one ▸ hcharge
  rw [lastLineTwice_admission ht] at left
  nomatch left

end Sys2Proof.Machine
end

section
/-! PROOFS. A control sample of the hold-up converter: in off, and in fixed point with no limit met (R62, R169, R175 to R182). -/

namespace Sys2Proof.Machine

/-- A change of the registers and of the control engine leaves every other part of the state as it is. -/
theorem Keeps.eqn_regs_ctl {s t : State} (k : Keeps 0x4001 s t) : t = { s with regs := t.regs, ctl := t.ctl } := by
  rw [← k.glb rfl, ← k.irq rfl, ← k.evr rfl, ← k.sti rfl, ← k.cfl rfl, ← k.dge rfl, ← k.stw rfl, ← k.pq rfl, ← k.mbx rfl, ← k.hp rfl,
    ← k.cch rfl, ← k.dsp rfl, ← k.ldg rfl, ← k.seq rfl, ← k.drn rfl, ← k.vlt rfl, ← k.rst rfl, ← k.mlk rfl, ← k.mtx rfl, ← k.out rfl,
    ← k.queue]

section
variable {s : State} {F : Nat → Fld} {v : Nat → Nat}

/-- Writes of other fields leave a field alone. -/
theorem State.get_foldl_set_ne {f : Fld} {l : List Nat} (h : ∀ n ∈ l, (F n).key ≠ f.key) :
    (l.foldl (fun t n => t.set (F n) (v n)) s).get f = s.get f := by
  induction l generalizing s with
  | nil => rfl
  | cons n l ih =>
    exact (ih fun k hk => h k (List.mem_cons_of_mem n hk)).trans (State.get_set_ne (h n List.mem_cons_self) _)

/-- Of writes of distinct fields each field reads its own. -/
theorem State.get_foldl_set {n : Nat} {l : List Nat} (hF : ∀ k, (F k).key = (F n).key → k = n) (hw : Store.wf 0 s.regs = true)
    (hn : n ∈ l) : (l.foldl (fun t k => t.set (F k) (v k)) s).get (F n) = v n % 2 ^ (F n).width := by
  induction l generalizing s with
  | nil => nomatch hn
  | cons k l ih =>
    by_cases hl : n ∈ l
    · exact ih (State.wf_set hw _ _) hl
    · obtain rfl : n = k := (List.mem_cons.mp hn).resolve_right hl
      exact (State.get_foldl_set_ne fun k hk e => hl (hF k e ▸ hk)).trans (State.get_set hw _ _)

end

section
variable (s : State) (codes : BitVec 96)

/-- The fields that a sample writes at its begin. -/
def sampleFlds : List Fld := [0, 1, 2, 3, 4, 5, 6, 7].map CTL_MEAS_VALUE ++ [CTL_STATUS_DEAD]

/-- The begin of a sample: its conversions show, and the decisions of the sample before take effect (R62). -/
def State.sampleBegin : State :=
  (s.showMeas codes).applyDecision.updCtl fun c => { c with hold := if c.hold = 0 then 0 else min 41 (c.hold + 1) }

theorem State.sampleBegin_keeps : Keeps 0x4001 s (s.sampleBegin codes) :=
  State.updCtl_keeps (State.setB_keeps (State.updCtl_keeps (State.showMeas_keeps _ (.refl _ s)) _) _ _) _

theorem State.sampleBegin_ctl : (s.sampleBegin codes).ctl = { s.ctl with
    nums := s.ctl.next, on := s.ctl.nextOn, low := s.ctl.nextLow, zc := s.ctl.nextZc, hb := s.ctl.nextHb
    hold := if s.ctl.hold = 0 then 0 else min 41 (s.ctl.hold + 1) } := by
  unfold State.sampleBegin State.applyDecision
  simp [(State.showMeas_keeps codes (.refl 1 s)).ctl rfl]

theorem State.get_sampleBegin {f : Fld} (h : ∀ g ∈ sampleFlds, g.key ≠ f.key) : (s.sampleBegin codes).get f = s.get f := by
  unfold State.sampleBegin State.applyDecision State.showMeas
  rw [State.get_updCtl, State.get_setB_ne (h _ (by decide)), State.get_updCtl]
  exact State.get_foldl_set_ne fun n hn => h _ (List.mem_append_left _ (List.mem_map_of_mem hn))

/-- A channel shows the value of its conversion (R169). -/
theorem State.get_sampleBegin_meas (hw : Store.wf 0 s.regs = true) {n : Nat} (hn : n < 8) :
    (s.sampleBegin codes).get (CTL_MEAS_VALUE n) = ((s.img.sense n (codeOf codes n)) % 2 ^ 32).toNat := by
  have hdead : CTL_STATUS_DEAD.key ≠ (CTL_MEAS_VALUE n).key := by
    simp [Fld.key, CTL_STATUS_DEAD, CTL_MEAS_VALUE]
    omega
  have hkey : ∀ k, (CTL_MEAS_VALUE k).key = (CTL_MEAS_VALUE n).key → k = n := fun k hk => by
    simp only [Fld.key, CTL_MEAS_VALUE] at hk
    omega
  unfold State.sampleBegin State.applyDecision State.showMeas
  rw [State.get_updCtl, State.get_setB_ne hdead, State.get_updCtl, State.get_foldl_set hkey hw (List.mem_range.mpr hn)]
  refine Nat.mod_eq_of_lt ?_
  simp only [CTL_MEAS_VALUE]
  omega

theorem State.sampleBegin_mode : (s.sampleBegin codes).mode = s.mode := s.get_sampleBegin codes (by decide)

theorem State.sampleBegin_img : (s.sampleBegin codes).img = s.img := by
  unfold State.img
  rw [(s.sampleBegin_keeps codes).sti rfl]

theorem State.sampleBegin_hand (hh : s.ctl.hand = 0) : (s.sampleBegin codes).ctl.hand = 0 := by
  rw [s.sampleBegin_ctl codes, hh]

theorem State.sampleBegin_hold (ho : s.ctl.hold = 0) : (s.sampleBegin codes).ctl.hold = 0 := by
  rw [s.sampleBegin_ctl codes, ho]
  rfl

/-- The end of a sample: what it shows of the values in effect, and the conversions that it keeps (R170, R182). -/
def State.sampleEnd : State :=
  let s2 := if s.mode = 0 then s else s.showCtl
  s2.updCtl fun c => { c with codes := codes, nearNow := c.nearNow && s2.mode = 1 && s2.nearVchg }

/-- With no hand-over and no hold the comparators run, then the law of the mode, or none in off (R175, R179). -/
theorem State.sampleNow_settled (hh : s.ctl.hand = 0) (ho : s.ctl.hold = 0) {t : State}
    (ht : (s.sampleBegin codes).protect codes = t) : s.sampleNow codes true =
      (if (t.mode = 1 ∨ t.mode = 2 ∨ t.mode = 3) ∧ t.ctl.hold = 0 then t.lawSample (s.senseOf codes) else t.restSample).sampleEnd
        codes := by
  have hh0 := s.sampleBegin_hand codes hh
  have ho0 := s.sampleBegin_hold codes ho
  subst ht
  unfold State.sampleNow
  extract_lets m s0 t s1 s2
  have e0 : s0 = s.sampleBegin codes := rfl
  clear_value s0
  subst e0
  have e1 : s1 = if (t.mode = 1 ∨ t.mode = 2 ∨ t.mode = 3) ∧ t.ctl.hold = 0 then t.lawSample m else t.restSample :=
    (if_neg fun h => h.1 hh0).trans (if_neg fun h => h ho0)
  have et : t = (s.sampleBegin codes).protect codes := rfl
  rw [← et, ← e1]
  rfl

/-- In off with no hand-over the comparators count the conversions at an end of the range only (R179). -/
theorem State.protect_off (hm : s.mode = 0) (hh : s.ctl.hand = 0) : ∃ f, s.protect codes = s.updCtl f := by
  unfold State.protect
  extract_lets m edge s1
  exact ⟨_, if_pos (by simp [hm, hh])⟩

/-- In off, with no hand-over and no hold, a sample changes values of the engine only, beside what it shows (R171). -/
theorem State.sampleNow_off (hm : s.mode = 0) (hh : s.ctl.hand = 0) (ho : s.ctl.hold = 0) :
    (s.sampleNow codes true).regs = (s.sampleBegin codes).regs ∧ Keeps 0x4001 s (s.sampleNow codes true) := by
  have hm0 : (s.sampleBegin codes).mode = 0 := (s.sampleBegin_mode codes).trans hm
  obtain ⟨f, hp⟩ := (s.sampleBegin codes).protect_off codes hm0 (s.sampleBegin_hand codes hh)
  rw [s.sampleNow_settled codes hh ho hp]
  have kb := s.sampleBegin_keeps codes
  generalize s.sampleBegin codes = b at *
  have off : (b.updCtl f).mode = 0 := hm0
  have off' : (b.updCtl f).restSample.mode = 0 := hm0
  rw [if_neg (by simp [off])]
  unfold State.sampleEnd
  rw [if_pos off']
  exact ⟨rfl, State.updCtl_keeps (State.updCtl_keeps (State.updCtl_keeps kb f) _) _⟩

/-- No conversion of a sample meets a limit (R179). -/
structure State.Quiet : Prop where
  phases : ∀ p, p < s.img.phases → ((s.senseOf codes).il.getD p 0).natAbs < 16 * s.img.iphTrip
  bus : (s.senseOf codes).vbus < 16 * (s.img.vbusOv : Int)
  bank : (s.senseOf codes).vbank < 16 * ((s.img.vchgMax : Int) + 1000)
  low4 : 0 < codeOf codes 4
  high4 : codeOf codes 4 < 4095
  low6 : 0 < codeOf codes 6
  high6 : codeOf codes 6 < 4095

/-- Where no conversion meets a limit the comparators find no fault (R179). -/
theorem State.protect_quiet (q : s.Quiet codes) (hm : s.mode ≠ 0) :
    s.protect codes = s.updCtl fun c => { c with range4 := 0, range6 := 0, met := 0 } := by
  unfold State.protect
  extract_lets m edge s1 tripped met found
  have he : edge 4 = false ∧ edge 6 = false := by
    obtain ⟨-, -, -, low4, high4, low6, high6⟩ := q
    simp only [edge, Bool.or_eq_false_iff, decide_eq_false_iff_not]
    omega
  have htrip : tripped = 0 := List.foldlRecOn (motive := fun k => k = 0) _ _ rfl fun k hk p hp =>
    (if_neg (not_le.mpr (q.phases p (List.mem_range.mp hp)))).trans hk
  have hmet : met = List.replicate 4 false := by
    have hbus : ¬16 * (s.img.vbusOv : Int) ≤ m.vbus := not_le.mpr q.bus
    have hbank : ¬16 * ((s.img.vchgMax : Int) + 1000) ≤ m.vbank := not_le.mpr q.bank
    simp [met, htrip, hbus, hbank, s1, he]
  have none_met : ∀ i, met.getD i false = false := fun i => by
    rw [hmet, List.getD_eq_getElem?_getD, List.getElem?_getD_replicate_default_eq]
  have hfound : found = [] := by
    simp only [found, none_met, Bool.false_and]
    rfl
  rw [if_neg (by simp [hm]), hfound]
  simp only [none_met, s1, he]
  rfl

variable {s}

/-- In fixed point, with no parallel run and no health test, a sample keeps what the fixed-point law decides (R175 to R182). -/
theorem State.lawSample_fixed {m : Sense} (hf : s.bit CTL_STATUS_FMT = false) (hb : s.ctl.bf = none) (ht : s.ctl.ht = none)
    (hm : s.mode ≠ 0) : s.lawSample m =
      s.keepDecision (s.img.fixedStep s.mode (s.slewed s.ctl.nums 0) m ⟨s.ctl.on, s.ctl.low, s.ctl.zc⟩) := by
  have htarget : s.htTarget = 0 := by
    unfold State.htTarget
    rw [ht]
  have hbf : ∀ fx, s.bfSample m fx = s := fun fx => by
    unfold State.bfSample
    rw [hb]
  unfold State.lawSample
  simp [hf, hbf, htarget, ht, hm]

theorem State.Quiet.begin (q : s.Quiet codes) : (s.sampleBegin codes).Quiet codes := by
  have hi := s.sampleBegin_img codes
  obtain ⟨phases, bus, bank, low4, high4, low6, high6⟩ := q
  refine ⟨?_, ?_, ?_, low4, high4, low6, high6⟩
  all_goals
    unfold State.senseOf
    rwa [hi]

/-- The slewed set-points depend on the image and the targets alone (R182). -/
theorem State.slewed_begin (n : CtlNums) (i : Int) : (s.sampleBegin codes).slewed n i = s.slewed n i := by
  unfold State.slewed
  rw [s.sampleBegin_img codes]
  simp only [s.get_sampleBegin codes (f := CTL_SET_VBUS_TARGET) (by decide), s.get_sampleBegin codes (f := CTL_SET_VCHG_TARGET) (by decide),
    s.get_sampleBegin codes (f := CTL_SET_IBANK_CHG) (by decide), s.get_sampleBegin codes (f := CTL_SET_IBANK_DIS) (by decide)]

/-- What a sample keeps of a decision for the next one (R62). -/
def Ctl.decided (c : Ctl) (d : Decision) : Ctl :=
  { c with next := d.nums, nextOn := d.on, nextLow := d.low, nextZc := d.zc, nextHb := d.hb }

theorem State.keepDecision_ctl (d : Decision) : (s.keepDecision d).ctl = s.ctl.decided d := rfl

theorem State.keepDecision_mode (d : Decision) : (s.keepDecision d).mode = s.mode := State.get_set_ne (by decide) _

/-- The end of a sample shows values and keeps conversions; it changes no mode and no decision. -/
theorem State.sampleEnd_keeps : Keeps 0x4001 s (s.sampleEnd codes) := by
  unfold State.sampleEnd
  extract_lets s2
  have k2 : Keeps 0x4001 s s2 := .ite (fun _ => .refl _ s) fun _ => State.showCtl_keeps (.refl _ s)
  exact State.updCtl_keeps k2 _

theorem State.sampleEnd_ctl : ∃ b, (s.sampleEnd codes).ctl = { s.ctl with codes := codes, nearNow := b } := by
  unfold State.sampleEnd
  split
  · exact ⟨_, rfl⟩
  · exact ⟨_, rfl⟩

theorem State.sampleEnd_mode : (s.sampleEnd codes).mode = s.mode := by
  have hshow : s.showCtl.mode = s.mode := by
    unfold State.mode State.showCtl
    iterate 5 rw [State.get_set_ne (by decide)]
  unfold State.sampleEnd
  extract_lets s2
  have h2 : s2.mode = s.mode := by
    unfold s2
    split
    · rfl
    · exact hshow
  exact h2

/-- The decision that a sample in fixed point makes (R175 to R182). -/
def State.fixedDecision (s : State) (codes : BitVec 96) : Decision :=
  s.img.fixedStep s.mode (s.slewed s.ctl.next 0) (s.senseOf codes) ⟨s.ctl.nextOn, s.ctl.nextLow, s.ctl.nextZc⟩

/-- What a sample in fixed point leaves for its end: what the sample before decided is in effect, what the law decides is kept. -/
def State.fixedSample (s : State) (codes : BitVec 96) : State :=
  ((s.sampleBegin codes).updCtl fun c => { c with range4 := 0, range6 := 0, met := 0 }).keepDecision (s.fixedDecision codes)

theorem State.fixedSample_ctl (s : State) (codes : BitVec 96) : (s.fixedSample codes).ctl =
    ({ (s.sampleBegin codes).ctl with range4 := 0, range6 := 0, met := 0 } : Ctl).decided (s.fixedDecision codes) :=
  State.keepDecision_ctl _

theorem State.fixedSample_keeps (s : State) (codes : BitVec 96) : Keeps 0x4001 s (s.fixedSample codes) :=
  State.keepDecision_keeps _ (State.updCtl_keeps (s.sampleBegin_keeps codes) _)

theorem State.fixedSample_mode (s : State) (codes : BitVec 96) : (s.fixedSample codes).mode = s.mode := by
  unfold State.fixedSample
  rw [State.keepDecision_mode]
  unfold State.mode
  rw [State.get_updCtl]
  exact s.sampleBegin_mode codes

/-- In charge, discharge or a health test, in fixed point with no parallel run and no health test, with no limit met. -/
theorem State.sampleNow_fixed (q : s.Quiet codes) (hm : s.mode = 1 ∨ s.mode = 2 ∨ s.mode = 3) (hh : s.ctl.hand = 0)
    (ho : s.ctl.hold = 0) (hf : s.bit CTL_STATUS_FMT = false) (hb : s.ctl.bf = none) (ht : s.ctl.ht = none) :
    s.sampleNow codes true = (s.fixedSample codes).sampleEnd codes := by
  have hc := s.sampleBegin_ctl codes
  have hm0 := s.sampleBegin_mode codes
  have hi := s.sampleBegin_img codes
  have hsl := s.slewed_begin codes
  have hf0 : (s.sampleBegin codes).bit CTL_STATUS_FMT = false := by
    unfold State.bit
    rwa [s.get_sampleBegin codes (by decide)]
  have hp := (s.sampleBegin codes).protect_quiet codes (q.begin codes) (by omega)
  rw [s.sampleNow_settled codes hh ho hp]
  unfold State.fixedSample State.fixedDecision
  have hold := s.sampleBegin_hold codes ho
  generalize s.sampleBegin codes = b at *
  rw [← hm0] at hm
  rw [if_pos ⟨hm, hold⟩]
  have hb' : b.ctl.bf = none := by rw [hc, hb]
  have ht' : b.ctl.ht = none := by rw [hc, ht]
  have law := State.lawSample_fixed (s := b.updCtl fun c => { c with range4 := 0, range6 := 0, met := 0 })
    (m := s.senseOf codes) hf0 hb' ht' (by change b.mode ≠ 0; omega)
  have same : b.img.fixedStep b.mode (b.slewed b.ctl.nums 0) (s.senseOf codes) ⟨b.ctl.on, b.ctl.low, b.ctl.zc⟩ =
      s.img.fixedStep s.mode (s.slewed s.ctl.next 0) (s.senseOf codes) ⟨s.ctl.nextOn, s.ctl.nextLow, s.ctl.nextZc⟩ := by
    rw [hi, hm0, hsl, hc]
  rw [law, ← same]
  rfl

/-- The state in which the sample of the beat that is due begins: the beat stands at its cycle (R61). -/
def State.atSample (s : State) : State :=
  (s.updGlb fun g => { g with cycle := s.sampleIndex * s.sampleCycles }).updCtl fun c => { c with sample := s.sampleIndex + 1 }

theorem execControlSample_own (hk : ¬400 / s.sampleCycles ≤ s.sampleIndex) (hc : ¬(s.sampleCycles = 8 ∧ s.sampleIndex % 5 = 1)) :
    execControlSample codes s = .next (s.atSample.sampleNow codes true) := (if_neg hk).trans (if_neg hc)

theorem execControlSample_shared (hk : ¬400 / s.sampleCycles ≤ s.sampleIndex) (hc : s.sampleCycles = 8 ∧ s.sampleIndex % 5 = 1) :
    execControlSample codes s = .next (s.atSample.sampleNow s.ctl.codes false) := (if_neg hk).trans (if_pos hc)

/-- What a sample changes beside registers and the engine is the cycle of the beat. -/
theorem State.atSample_eqn {t : State} (k : Keeps 0x4001 s.atSample t) :
    t = { s with regs := t.regs, ctl := t.ctl, glb := { s.glb with cycle := s.sampleIndex * s.sampleCycles } } := k.eqn_regs_ctl

/-- A mode outside charge, discharge and health test drives no gate (R167). -/
theorem State.gates_of_off (hm : s.mode = 0) : s.gates = (0, 0) := by
  unfold State.gates
  simp [hm]

end

/-- Settles O16: in off by `sampleNow_off`, in fixed point by `sampleNow_fixed`; the rest is when the command acts. -/
theorem controlSampleOffAndFixedPoint : Obligations.ControlSampleOffAndFixedPoint := by
  unfold Obligations.ControlSampleOffAndFixedPoint
  refine ⟨fun codes s hk hc hw hm hh ho => ?off,
    fun codes s hk hc hw hm hh ho hf hb ht phases bus bank low4 high4 low6 high6 => ?fixed,
    fun codes s hk hc => execControlSample_own codes hk hc, fun codes s hk hc => execControlSample_shared codes hk hc,
    fun codes s hk => if_pos hk⟩
  case off =>
    obtain ⟨hregs, k⟩ := s.atSample.sampleNow_off codes hm hh ho
    have get (f : Fld) := State.get_of_regs hregs f
    refine ⟨_, execControlSample_own codes (by omega) (by omega), s.atSample_eqn k, State.gates_of_off ?mode, fun n hn => ?meas,
      fun f hf => ?others⟩
    case mode => exact (get _).trans ((s.atSample.sampleBegin_mode codes).trans hm)
    case meas => exact (get _).trans (s.atSample.get_sampleBegin_meas codes hw hn)
    case others => exact (get _).trans (s.atSample.get_sampleBegin codes hf)
  case fixed =>
    have q : s.atSample.Quiet codes := ⟨phases, bus, bank, low4, high4, low6, high6⟩
    have e := s.atSample.sampleNow_fixed codes q hm hh ho hf hb ht
    obtain ⟨b, hctl⟩ := (s.atSample.fixedSample codes).sampleEnd_ctl codes
    have hfixed := s.atSample.fixedSample_ctl codes
    have hbegin := s.atSample.sampleBegin_ctl codes
    refine ⟨_, execControlSample_own codes (by omega) (by omega), ?_⟩
    rw [e]
    refine ⟨s.atSample_eqn ?frame, ?mode, ?hold, ?_⟩
    case frame => exact (s.atSample.fixedSample_keeps codes).trans ((s.atSample.fixedSample codes).sampleEnd_keeps codes)
    case mode => exact (State.sampleEnd_mode codes).trans (s.atSample.fixedSample_mode codes)
    case hold =>
      rw [hctl, hfixed]
      exact s.atSample.sampleBegin_hold codes ho
    rw [hctl, hfixed, hbegin]
    exact ⟨rfl, rfl, rfl, rfl, rfl, rfl, rfl⟩

end Sys2Proof.Machine
end

section
/-! PROOFS. Structure images: validation, swap, release, cancel and rollback (R400 to R414, R54, R55, R510). -/

namespace Sys2Proof.Machine

section
variable {s t u : State} {f g : Fld}

/-- A field reads a value other than its reset value after that value is written, in any table. -/
theorem State.get_set_of_ne {v : Nat} (h : v % 2 ^ f.width ≠ f.reset) : (s.set f v).get f = v % 2 ^ f.width := by
  have hx : (v % 2 ^ f.width) ^^^ f.reset ≠ 0 := fun e => h (Nat.xor_eq_zero_iff.mp e)
  unfold State.get State.set Store.put
  dsimp only
  rw [if_neg hx, Store.get_insert, if_pos rfl, Nat.xor_assoc, Nat.xor_self, Nat.xor_zero]

theorem State.get_set64_ne {lo hi : Fld} (hl : lo.key ≠ f.key) (hh : hi.key ≠ f.key) (v : Nat) :
    (s.set64 lo hi v).get f = s.get f := (State.get_set_ne hh _).trans (State.get_set_ne hl _)

/-- Every shared register reads in `t` what it read in `s`; per-agent registers (R478) may differ. -/
def SharedKept (s t : State) : Prop := ∀ f : Fld, keyAgent f.key = 0 → t.get f = s.get f

theorem SharedKept.refl (s : State) : SharedKept s s := fun _ _ => rfl

theorem SharedKept.trans (h : SharedKept s t) (k : SharedKept t u) : SharedKept s u := fun f hf => (k f hf).trans (h f hf)

theorem SharedKept.of_regs (h : SharedKept s t) (k : u.regs = t.regs) : SharedKept s u :=
  fun f hf => (State.get_of_regs k f).trans (h f hf)

theorem SharedKept.event (h : SharedKept s t) (code src : Nat) : SharedKept s (t.event code src) := h.of_regs (by simp)

theorem SharedKept.raise (h : SharedKept s t) (n : Nat) : SharedKept s (t.raise n) := h.of_regs (by simp)

theorem SharedKept.ite {c : Prop} [Decidable c] (h : c → SharedKept s t) (k : ¬c → SharedKept s u) :
    SharedKept s (if c then t else u) := by
  split
  · exact h ‹_›
  · exact k ‹_›

theorem SharedKept.set (h : SharedKept s t) (hg : keyAgent g.key ≠ 0) (v : Nat) : SharedKept s (t.set g v) := by
  intro f hf
  have hne : g.key ≠ f.key := fun e => hg (by rw [e, hf])
  rw [State.get_set_ne hne, h f hf]

theorem SharedKept.dgeSt (h : SharedKept s t) (a : Agent) (v : Nat) : SharedKept s (t.dgeSt a v) :=
  h.set (by cases a <;> decide) v

theorem SharedKept.dgeStatus (h : SharedKept s t) (a : Agent) (v : Nat) : SharedKept s (t.dgeStatus a v) :=
  h.set (by cases a <;> decide) v

theorem SharedKept.dgeEnd (h : SharedKept s t) (w : DgeWho) (v : Nat) : SharedKept s (t.dgeEnd w v) := by
  unfold State.dgeEnd
  split
  · exact (h.dgeSt _ _).dgeStatus _ _
  · exact h

theorem SharedKept.dgeLost (h : SharedKept s t) (w : DgeWho) (v : Nat) : SharedKept s (t.dgeLost w v) := by
  unfold State.dgeLost
  split
  · exact (SharedKept.ite (fun _ => h.dgeSt _ _) fun _ => h).dgeStatus _ _
  · exact h

theorem SharedKept.dgeOwned (h : SharedKept s t) (w : DgeWho) : SharedKept s (t.dgeOwned w) := by
  unfold State.dgeOwned
  split
  · exact h.dgeStatus _ _
  · exact h

theorem SharedKept.dgeSave (h : SharedKept s t) (n : Nat) (c : DgeComp) : SharedKept s (t.dgeSave n c) := by
  unfold State.dgeSave
  extract_lets x s1
  have h1 : SharedKept s s1 := h.of_regs rfl
  split
  case h_1 a _ => exact (h1.dgeSt _ _).set (by cases a <;> decide) _
  case h_2 => exact h1

theorem SharedKept.dgeLose (h : SharedKept s t) (n : Nat) (w : DgeWho) (v : Nat) : SharedKept s (t.dgeLose n w v) :=
  have hfree : SharedKept s (t.dgeFree n) := h.of_regs rfl
  .ite (fun _ => hfree.dgeEnd w v) fun _ => hfree.dgeLost w v

theorem SharedKept.dgeEvict (h : SharedKept s t) : SharedKept s t.dgeEvict := by
  unfold State.dgeEvict
  split
  · exact h
  · split
    · exact h
    · exact ((h.dgeLose _ _ _).event _ _).raise _

theorem SharedKept.dgePreempt (h : SharedKept s t) (n : Nat) : SharedKept s (t.dgePreempt n) := by
  unfold State.dgePreempt
  split
  · exact h
  · exact (h.dgeSave _ _).of_regs rfl

theorem SharedKept.dgeYield (h : SharedKept s t) : SharedKept s t.dgeYield := by
  unfold State.dgeYield
  split
  · extract_lets s1
    have h1 : SharedKept s s1 := .ite (fun _ => h.dgeEvict) fun _ => h
    refine .ite (fun _ => h.dgeOwned _) fun _ => .ite (fun _ => h) fun _ => ?_
    split
    · exact h1.dgePreempt _
    · exact h1.dgeOwned _
  · exact h

/-- A request of the image block for the digest engine touches per-agent registers only (R439, R442). -/
theorem State.dgeRequest_shared (s : State) : SharedKept s (s.dgeRequest .image) :=
  .ite (fun _ => .refl s) fun _ => .ite (fun _ => (SharedKept.refl s).of_regs rfl) fun _ =>
    ((SharedKept.refl s).of_regs (u := s.updDge _) rfl).dgeYield

/-- The fields that a check of the archive writes, beside the digest engine's per-agent ones (R414). -/
def archiveFlds : List Fld := [STI_STATUS_ARCH_OK, STI_GEN_ARC_LO_VALUE, STI_GEN_ARC_HI_VALUE]

/-- A check of the archive leaves every other shared field alone. -/
theorem State.get_checkArchive (slot : Nat) (hf : keyAgent f.key = 0) (ha : ∀ g ∈ archiveFlds, g.key ≠ f.key) :
    (s.checkArchive slot).get f = s.get f := by
  have hd : SharedKept s (if s.macNeeded slot then s.dgeRequest .image else s) :=
    .ite (fun _ => s.dgeRequest_shared) fun _ => .refl s
  unfold State.checkArchive
  rw [State.get_set64_ne (ha _ (by decide)) (ha _ (by decide)), State.get_setB_ne (ha _ (by decide)), hd f hf]

end

section
variable {s : State}

/-- A refusal shows its code (R406). -/
theorem State.get_stiReason {v : Verdict} (h : v.code % 256 ≠ 0) : (s.stiReason v).get STI_REASON_CODE = v.code % 256 := by
  unfold State.stiReason
  rw [State.get_set_ne (by decide), State.get_set_ne (by decide)]
  exact State.get_set_of_ne h

theorem State.get_stiRefuse {v : Verdict} (h : v.code % 256 ≠ 0) : (s.stiRefuse v).get STI_REASON_CODE = v.code % 256 := by
  have hs1 : ((s.stiReason v).setB STI_STATUS_REFUSED true).get STI_REASON_CODE = v.code % 256 :=
    (State.get_setB_ne (by decide) _).trans (State.get_stiReason h)
  unfold State.stiRefuse
  extract_lets s1
  split
  · exact hs1
  · rw [State.get_raise, hs1]

/-- A refusal sets no other field of the image block than its reason and REFUSED. -/
theorem State.get_stiRefuse_ne {v : Verdict} {f : Fld}
    (h : ∀ g ∈ [STI_REASON_CODE, STI_REASON_SECTION, STI_REASON_OFFSET, STI_STATUS_REFUSED], g.key ≠ f.key) :
    (s.stiRefuse v).get f = s.get f := by
  have hs1 : ((s.stiReason v).setB STI_STATUS_REFUSED true).get f = s.get f := by
    unfold State.stiReason
    rw [State.get_setB_ne (h _ (by decide)), State.get_set_ne (h _ (by decide)), State.get_set_ne (h _ (by decide)),
      State.get_set_ne (h _ (by decide))]
  unfold State.stiRefuse
  extract_lets s1
  split
  · exact hs1
  · rw [State.get_raise, hs1]

/-- The image that comes into force is the active one; nothing else of the block's hidden state changes (R412). -/
theorem State.loadImage_sti (im : Image) : (s.loadImage im).sti = { s.sti with active := some im } := by
  unfold State.loadImage
  extract_lets s1 s2 s3 s4 s5
  let s0 := s.updSti fun x => { x with active := some im }
  have k1 : Keeps 0x5041 s0 s1 := State.layRanks_keeps (State.loadClasses_keeps _ (State.set64_keeps (.refl _ s0) _ _ _))
  have k2 : Keeps 0x5041 s0 s2 := Keeps.foldl (fun t _ => State.set_keeps (.refl _ t) _ _) _ k1
  have k3 : Keeps 0x5041 s0 s3 := State.set_keeps (State.loadControl_keeps _ k2) _ _
  have k4 : Keeps 0x5041 s0 s4 := State.set_keeps (State.set_keeps (State.set_keeps k3 _ _) _ _) _ _
  have k5 : Keeps 0x5041 s0 s5 := State.loadPolicies_keeps _ (State.set_keeps (State.set_keeps k4 _ _) _ _)
  exact (State.set_keeps (State.moveBuckets_keeps k5) _ _).sti rfl

/-- Every part of the state but the image block's own. -/
abbrev allButSti : Nat := 0xFFFFEF

/-- An image that comes into force in BOOT is the active one (R407). -/
theorem State.bootActivate_active (im : Image) : (s.bootActivate im).sti.active = some im := by
  unfold State.bootActivate
  extract_lets s1 s2
  have k1 : Keeps allButSti (s.loadImage im) s1 := State.showPresence_keeps (State.adopt_keeps _ (.refl _ _))
  have k : Keeps allButSti (s.loadImage im) s2.takeBase.copyReport.bootCharge :=
    State.bootCharge_keeps (State.copyReport_keeps (State.takeBase_keeps (State.set_keeps k1 _ _)))
  rw [k.sti rfl, State.loadImage_sti]

theorem State.checkArchive_sti (slot : Nat) : (s.checkArchive slot).sti = s.sti :=
  (State.checkArchive_keeps slot (.refl allButSti s)).sti rfl

end

section
variable {s : State} {slot : Nat} {step8 : Bool}

/-- The digest engine is no obstacle to the MAC step of a validation: it needs none, or the image block has the engine (R439). -/
def State.MacReady (s : State) (slot : Nat) : Prop := s.macNeeded slot = false ∨ (s.dgeTake .image).1 = true

theorem State.validateStep_of_ready (h : s.MacReady slot) :
    s.validateStep slot step8 = (some (s.validate slot step8), (s.validateStep slot step8).2) := by
  have he : (if s.macNeeded slot then s.dgeTake .image else (true, s)).1 = true := by
    split
    · exact h.resolve_left (by simp_all)
    · rfl
  unfold State.validateStep
  extract_lets e
  rw [show e.1 = true from he]
  rfl

end

end Sys2Proof.Machine
end

section
/-! PROOFS. What the flash interface leaves of its array when a write starts, and what a swap and a release do at their boundary
(R412, R428, R54, R55). -/

namespace Sys2Proof.Machine

section
variable (s : State)

@[simp] theorem State.backErase_bytes : s.backErase.cfl.bytes = s.cfl.bytes := by
  unfold State.backErase
  split <;> simp only [State.updCfl]

@[simp] theorem State.writeStep_bytes (w : IWrite) (n : Option Nat) : (s.writeStep w n).cfl.bytes = s.cfl.bytes := by
  unfold State.writeStep
  split
  · rfl
  · split
    · rw [State.event_cfl]
      rfl
    · rfl

@[simp] theorem State.startWrite_bytes (w : IWrite) : (s.startWrite w).cfl.bytes = s.cfl.bytes := by
  unfold State.startWrite
  extract_lets open_
  split
  · exact s.writeStep_bytes _ _
  · rfl

/-- An internal write that starts changes no byte of the array before it completes (R428). -/
theorem State.flashNext_bytes : s.flashNext.cfl.bytes = s.cfl.bytes := by
  unfold State.flashNext
  split
  · rfl
  · split
    · exact s.backErase_bytes
    · split
      · rw [State.backErase_bytes, State.startWrite_bytes]
        rfl
      · exact s.backErase_bytes

/-- A role record that is dropped leaves the array alone (R413). -/
theorem Cfl.dropSwap_bytes (c : Cfl) : c.dropSwap.bytes = c.bytes := by
  unfold Cfl.dropSwap
  extract_lets keep
  split <;> rfl

/-- What an internal write changes as it is queued: the flash interface and what reports. -/
theorem State.flashWrite_only (w : IWrite) : Keeps 0x20022C s (s.flashWrite w) := State.flashWrite_keeps w (.refl _ s)

theorem State.get_flashWrite (w : IWrite) (f : Fld) : (s.flashWrite w).get f = s.get f :=
  State.get_of_regs ((s.flashWrite_only w).regs rfl) f

/-- A swap takes effect at the boundary of the beat that the timer shows (R412, R54). -/
def State.SwapDue (b : Nat) (sh : Image) : Prop :=
  s.sti.requested = some b ∧ s.sti.shade = some sh ∧ s.get STI_STATUS_SWAP = 2 ∧ b ≤ s.glb.beat ∧ s.glb.st = .serve

variable {s}

/-- Without a due swap request the boundary swaps nothing (R412). -/
theorem State.swapPass_idle (h : s.sti.requested = none ∨ s.sti.shade = none ∨ s.get STI_STATUS_SWAP ≠ 2 ∨ s.glb.st ≠ .serve ∨
    ∃ b, s.sti.requested = some b ∧ s.glb.beat < b) : s.swapPass = s := by
  unfold State.swapPass
  split
  case h_1 b sh hb hsh =>
    refine if_pos ?_
    obtain h | h | h | h | ⟨b', hb', h⟩ := h
    · rw [hb] at h; nomatch h
    · rw [hsh] at h; nomatch h
    · exact .inl h
    · exact .inr (.inr h)
    · rw [hb] at hb'
      exact .inr (.inl (Option.some.inj hb' ▸ h))
  case h_2 => rfl

/-- A due swap: the shade is active, the old image retires for 3 beats, the request and its guards are gone, and SWAP and DONE show
it (R412, R55). -/
theorem State.swapPass_due {b : Nat} {sh : Image} (h : s.SwapDue b sh) :
    s.swapPass.sti = { s.sti with
      active := some sh, shade := none, retiring := s.sti.active, releaseBeat := s.glb.beat + 3, requested := none, guardSecs := 0
      guardClasses := 0, rollback := false } ∧
    s.swapPass.get STI_STATUS_SWAP = 3 ∧ s.swapPass.get STI_STATUS_DONE = 1 := by
  obtain ⟨hreq, hshade, hswap, hbeat, hst⟩ := h
  have act : ¬(s.get STI_STATUS_SWAP ≠ 2 ∨ s.glb.beat < b ∨ s.glb.st ≠ .serve) := by
    simp [hswap, hst]
    omega
  unfold State.swapPass
  split
  case h_2 hno => exact absurd hshade (hno _ _ hreq)
  case h_1 b' sh' hb' hsh' =>
    obtain rfl : b' = b := Option.some.inj (hb'.symm.trans hreq)
    obtain rfl : sh' = sh := Option.some.inj (hsh'.symm.trans hshade)
    rw [if_neg act]
    extract_lets old ext s0 s1 s2 s3 s4 s5 s6 s7 s8
    have k2 : Keeps allButSti s s2 := by
      have k0 : Keeps allButSti s s0 := .ite (fun _ => State.sessionQuit_keeps _ (.refl _ s)) fun _ => .refl _ s
      have k1 : Keeps allButSti s s1 := State.rehAbandon_keeps k0
      exact .ite (fun _ => State.htAbandon_keeps k1) fun _ => k1
    have h3 : s3.sti = { s.sti with
        active := some sh', shade := none, retiring := s.sti.active, releaseBeat := s.glb.beat + 3, requested := none, guardSecs := 0
        guardClasses := 0, rollback := false } := by
      unfold s3
      rw [State.loadImage_sti, State.updSti_sti, k2.sti rfl]
    have k8 : Keeps allButSti s3 s8 := by
      have k4 : Keeps allButSti s3 s4 := .ite (fun _ => State.adopt_keeps _ (.refl _ s3)) fun _ => .refl _ s3
      have k5 : Keeps allButSti s3 s5 := State.set_keeps (State.set_keeps (State.set_keeps k4 _ _) _ _) _ _
      have k7 : Keeps allButSti s3 s7 :=
        State.event_keeps _ _ (State.setB_keeps (State.set64_keeps (State.set64_keeps k5 _ _ _) _ _ _) _ _)
      exact .ite (fun _ => k7) fun _ => State.raise_keeps _ k7
    have get8 (f : Fld) : s8.get f = (s6.setB STI_STATUS_DONE true).get f := by
      unfold s8
      split
      · exact State.get_event _ _ _
      · exact (State.get_raise _ _).trans (State.get_event _ _ _)
    have swap8 : s8.get STI_STATUS_SWAP = 3 := by
      rw [get8, State.get_setB_ne (by decide), State.get_set64_ne (by decide) (by decide), State.get_set64_ne (by decide) (by decide)]
      exact State.get_set_of_ne (by decide)
    have done8 : s8.get STI_STATUS_DONE = 1 := (get8 _).trans (State.get_set_of_ne (by decide))
    have shown (f : Fld) (h1 : LDG_BANKREL_PRESENT.key ≠ f.key) (h2 : VLT_MODS_PRESENT.key ≠ f.key) :
        s8.showPresence.get f = s8.get f := by
      unfold State.showPresence
      split
      · rfl
      · exact (State.get_set_ne h2 _).trans (State.get_set_ne h1 _)
    have kp : Keeps allButSti s3 s8.showPresence := State.showPresence_keeps k8
    have swapP := (shown _ (by decide) (by decide)).trans swap8
    have doneP := (shown _ (by decide) (by decide)).trans done8
    split
    · exact ⟨(State.checkArchive_sti _).trans ((kp.sti rfl).trans h3),
        (State.get_checkArchive _ (by decide) (by decide)).trans swapP,
        (State.get_checkArchive _ (by decide) (by decide)).trans doneP⟩
    · exact ⟨(kp.sti rfl).trans h3, swapP, doneP⟩

end

end Sys2Proof.Machine
end

section
/-! PROOFS. The commands of the structure image, and the statement about them (R400 to R414, R54, R55, R510). -/

namespace Sys2Proof.Machine

section
variable {s : State} {r : Roles} {key : BitVec 16}

/-- What a validation in BOOT comes to: the active image, or the archive where steps 1 to 8 fail, comes into force, or neither, or
the MAC step waits for the digest engine (R407). -/
def State.bootOutcome (s : State) (r : Roles) : State :=
  match s.validateStep r.act false with
  | (none, t) => t
  | (some (_, some im), t) => (t.bootActivate im).checkArchive r.arc
  | (some (v, none), t) =>
    if 9 < v.code then t.bootRefuse v
    else match t.validateStep r.arc false with
      | (none, u) => u
      | (some (w, none), u) => (u.bootRefuse v).bootRefuse w
      | (some (_, some im), u) =>
        (((((u.bootRefuse v).flashWrite (.role .fall)).setB STI_STATUS_BOOTFALL true).event 0x0C06 0).bootActivate im).checkArchive r.act

theorem execBootImageValidate_idle (h : s.glb.cycle ≠ 0 ∨ s.glb.st ≠ .boot ∨ s.sti.active ≠ none ∨ s.roles = none) :
    execBootImageValidate s = .next s := by
  unfold execBootImageValidate
  split
  · rfl
  · next hgo =>
    have hnone : s.roles = none := by
      simp only [State.atBoundary, not_or, Option.isSome_iff_ne_none] at hgo
      simp_all
    rw [hnone]

theorem execBootImageValidate_runs (hc : s.glb.cycle = 0) (hs : s.glb.st = .boot) (ha : s.sti.active = none) (hr : s.roles = some r) :
    execBootImageValidate s = .next (s.bootOutcome r) := by
  unfold execBootImageValidate State.bootOutcome
  rw [if_neg (by simp [State.atBoundary, hc, hs, ha]), hr]
  dsimp only
  obtain ⟨_ | ⟨v, _ | im⟩, t⟩ := s.validateStep r.act false
  case none => rfl
  case some.some => rfl
  case some.none =>
    dsimp only
    split
    · rfl
    · obtain ⟨_ | ⟨w, _ | im⟩, u⟩ := t.validateStep r.arc false <;> rfl

/-- The image that a validation in BOOT finds sound is the active one. -/
theorem State.bootOutcome_active {im : Image} (hm : s.MacReady r.act) (hv : (s.validate r.act false).2 = some im) :
    (s.bootOutcome r).sti.active = some im := by
  have hstep := State.validateStep_of_ready (step8 := false) hm
  generalize s.validate r.act false = p at hstep hv
  obtain ⟨v, o⟩ := p
  obtain rfl : o = some im := hv
  unfold State.bootOutcome
  rw [hstep]
  exact (congrArg Sti.active (State.checkArchive_sti _)).trans (State.bootActivate_active _)

/-- After an exchange of R414 the new archive is checked with the end of its validation. -/
def State.checkExchanged (s t : State) (r : Roles) : State := if s.sti.rollback then t.checkArchive r.arc else t

theorem State.checkExchanged_sti (s t : State) : (s.checkExchanged t r).sti = t.sti := by
  unfold State.checkExchanged
  split
  · exact State.checkArchive_sti _
  · rfl

theorem State.get_checkExchanged (s t : State) {f : Fld} (hf : keyAgent f.key = 0) (ha : ∀ g ∈ archiveFlds, g.key ≠ f.key) :
    (s.checkExchanged t r).get f = t.get f := by
  unfold State.checkExchanged
  split
  · exact State.get_checkArchive _ hf ha
  · rfl

/-- What the validation of a shade comes to: it is valid, or invalid with its reason, or its MAC step waits (R408). -/
def State.shadeOutcome (s : State) (r : Roles) : State :=
  match s.validateStep r.shd (!s.sti.rollback) with
  | (none, t) => t
  | (some (v, none), t) => s.checkExchanged (((t.set STI_STATUS_SHADE 4).stiRefuse v).event 0x0C02 0) r
  | (some (_, some im), t) => s.checkExchanged ((((t.updSti fun x => { x with shade := some im }).set STI_STATUS_CHANGED
      (changedMask s.img im)).set STI_STATUS_SHADE 3).event 0x0C01 0) r

theorem execShadeValidationDone_idle (h : s.get STI_STATUS_SHADE ≠ 2 ∨ s.roleBusy = true) : execShadeValidationDone s = .next s :=
  if_pos h

theorem execShadeValidationDone_runs (h2 : s.get STI_STATUS_SHADE = 2) (hb : s.roleBusy = false) (hr : s.roles = some r) :
    execShadeValidationDone s = .next (s.shadeOutcome r) := by
  unfold execShadeValidationDone State.shadeOutcome
  rw [if_neg (by simp [h2, hb]), hr]
  dsimp only
  obtain ⟨_ | ⟨v, _ | im⟩, t⟩ := s.validateStep r.shd (!s.sti.rollback) <;> rfl

theorem State.validateStep_sti (slot : Nat) (step8 : Bool) : (s.validateStep slot step8).2.sti = s.sti :=
  (State.validateStep_keeps slot step8 (.refl allButSti s)).sti rfl

/-- A sound shade is kept and shows valid. -/
theorem State.shadeOutcome_valid {im : Image} (hm : s.MacReady r.shd) (hv : (s.validate r.shd (!s.sti.rollback)).2 = some im) :
    (s.shadeOutcome r).sti = { s.sti with shade := some im } ∧ (s.shadeOutcome r).get STI_STATUS_SHADE = 3 := by
  have hstep := State.validateStep_of_ready (step8 := !s.sti.rollback) hm
  have hsti := State.validateStep_sti (s := s) r.shd (!s.sti.rollback)
  generalize s.validate r.shd (!s.sti.rollback) = p at hstep hv
  obtain ⟨v, o⟩ := p
  obtain rfl : o = some im := hv
  unfold State.shadeOutcome
  rw [hstep]
  dsimp only
  rw [State.checkExchanged_sti, State.get_checkExchanged _ _ (by decide) (by decide), State.event_sti, State.get_event]
  refine ⟨?_, State.get_set_of_ne (by decide)⟩
  rw [State.set_sti, State.set_sti, State.updSti_sti, hsti]

/-- A faulty shade shows invalid. -/
theorem State.shadeOutcome_invalid (hm : s.MacReady r.shd) (hv : (s.validate r.shd (!s.sti.rollback)).2 = none) :
    (s.shadeOutcome r).sti = s.sti ∧ (s.shadeOutcome r).get STI_STATUS_SHADE = 4 := by
  have hstep := State.validateStep_of_ready (step8 := !s.sti.rollback) hm
  have hsti := State.validateStep_sti (s := s) r.shd (!s.sti.rollback)
  generalize s.validate r.shd (!s.sti.rollback) = p at hstep hv
  obtain ⟨v, o⟩ := p
  obtain rfl : o = none := hv
  unfold State.shadeOutcome
  rw [hstep]
  dsimp only
  rw [State.checkExchanged_sti, State.get_checkExchanged _ _ (by decide) (by decide), State.event_sti, State.get_event,
    State.get_stiRefuse_ne (by decide), (State.stiRefuse_keeps v (.refl allButSti _)).sti rfl, State.set_sti, hsti]
  exact ⟨rfl, State.get_set_of_ne (by decide)⟩

theorem State.swapOpen_iff : s.swapOpen = true ↔ s.get STI_STATUS_SWAP = 1 ∨ s.get STI_STATUS_SWAP = 2 := by
  simp [State.swapOpen]

theorem execShadeValidate_serves (hs : s.glb.st = .serve) (h0 : s.get STI_STATUS_SHADE ≠ 0) :
    execShadeValidate s = if s.swapOpen then .next (s.stiRefuse ⟨0x32, 0, 0⟩)
      else .next (((s.updSti fun x => { x with shade := none }).set STI_STATUS_SHADE 2).set STI_STATUS_CHANGED 0) :=
  (if_neg (by simp [hs])).trans ((if_neg (not_not.mpr hs)).trans (if_neg h0))

theorem swapKey_of_toNat (h : key.toNat = 0x5357) : key = 0x5357 := BitVec.eq_of_toNat_eq h

/-- The state that an accepted swap leaves before its role record is queued (R410, R411). -/
def State.swapAccepted (s : State) (sh : Image) : State :=
  (s.updSti fun x => { x with
    guardSecs := changedMask s.img sh, guardClasses := guardMask s.img sh, requested := none }).set STI_STATUS_SWAP 1

theorem execSwap_judged {sh : Image} (hk : key = 0x5357) (hs : s.glb.st = .serve) (hsh : s.sti.shade = some sh)
    (hr : s.roles = some r) (h3 : s.get STI_STATUS_SHADE = 3) (h0 : s.get STI_STATUS_SWAP = 0) :
    execSwap key s = if s.swapCode s.img sh ≠ 0 then .next (s.stiRefuse ⟨s.swapCode s.img sh, 0, 0⟩)
      else .next ((s.swapAccepted sh).flashWrite (.role .swap)) := by
  unfold execSwap
  rw [if_neg (not_not.mpr hk), if_neg (not_not.mpr hs), hsh, hr]
  dsimp only
  rw [if_neg (not_not.mpr h3), if_neg (not_not.mpr h0)]
  rfl

theorem execSwap_unready (hk : key = 0x5357) (hs : s.glb.st = .serve) (h : s.sti.shade = none ∨ s.roles = none) :
    execSwap key s = .next (s.stiRefuse ⟨0x31, 0, 0⟩) := by
  unfold execSwap
  rw [if_neg (not_not.mpr hk), if_neg (not_not.mpr hs)]
  split
  case h_1 hsh hr => rcases h with h | h <;> simp_all
  case h_2 => rfl

/-- What a rollback leaves: the archive is the shade to be validated, or the refusal (R414). -/
def State.rollbackOutcome (s : State) (r : Roles) : State :=
  if s.archOk r.arc then
    let s1 := ((s.checkArchive r.arc).updSti fun x => { x with shade := none, rollback := true }).flashWrite (.role .exchange)
    let s2 := (s1.set STI_STATUS_SHADE 2).set STI_STATUS_CHANGED 0
    (s2.set64 STI_GEN_SHD_LO_VALUE STI_GEN_SHD_HI_VALUE (leAt (s.slotBytes r.arc) 16 8)).event 0x0C07 0
  else (s.checkArchive r.arc).stiRefuse ⟨0x31, 0, 0⟩

theorem execRollback_runs (hk : key = 0x5357) (hs : s.glb.st = .serve) (ho : ¬(s.get STI_STATUS_SWAP = 1 ∨ s.get STI_STATUS_SWAP = 2))
    (hr : s.roles = some r) : execRollback key s = .next (s.rollbackOutcome r) := by
  unfold execRollback State.rollbackOutcome
  rw [if_neg (not_not.mpr hk), if_neg (not_not.mpr hs), if_neg (mt State.swapOpen_iff.mp ho), hr]
  dsimp only
  cases s.archOk r.arc <;> rfl

theorem State.rollbackOutcome_sound (h : s.archOk r.arc = true) :
    (s.rollbackOutcome r).sti = { s.sti with shade := none, rollback := true } ∧
    (s.rollbackOutcome r).get STI_STATUS_SHADE = 2 := by
  unfold State.rollbackOutcome
  rw [if_pos h]
  extract_lets s1 s2
  constructor
  · rw [State.event_sti, State.set64_sti]
    have hs1 : s1.sti = { s.sti with shade := none, rollback := true } := by
      rw [(State.flashWrite_only _ _).sti rfl, State.updSti_sti, State.checkArchive_sti]
    exact hs1
  · rw [State.get_event, State.get_set64_ne (by decide) (by decide), State.get_set_ne (by decide)]
    exact State.get_set_of_ne (by decide)

theorem State.rollbackOutcome_unsound (h : s.archOk r.arc = false) :
    (s.rollbackOutcome r).sti = s.sti ∧ (s.rollbackOutcome r).get STI_REASON_CODE = 0x31 := by
  unfold State.rollbackOutcome
  rw [if_neg (by simp [h])]
  refine ⟨?_, State.get_stiRefuse (by decide)⟩
  rw [(State.stiRefuse_keeps _ (.refl allButSti _)).sti rfl, State.checkArchive_sti]

/-- An image whose span ends at the boundary that the timer shows is released (R55, R412). -/
theorem State.releasePass_due (hret : s.sti.retiring ≠ none) (hb : s.sti.releaseBeat ≤ s.glb.beat)
    (hheld : ¬(s.get STI_STATUS_SWAP = 2 ∧ s.sti.requested = none)) :
    s.releasePass = ((s.updSti fun x => { x with retiring := none }).set STI_STATUS_SWAP 0).event 0x0C05 0 := by
  have hh : (decide (s.get STI_STATUS_SWAP = 2) && s.sti.requested.isNone) = false := by
    simpa [Option.isSome_iff_ne_none] using hheld
  unfold State.releasePass
  rw [if_pos ⟨Option.isSome_iff_ne_none.mpr hret, hb⟩, hh]
  rfl

/-- A swap that was held for the release counts as requested at its boundary (R54, R412). -/
theorem State.releasePass_held (hret : s.sti.retiring ≠ none) (hb : s.sti.releaseBeat ≤ s.glb.beat)
    (hswap : s.get STI_STATUS_SWAP = 2) (hreq : s.sti.requested = none) :
    s.releasePass = (s.updSti fun x => { x with retiring := none, requested := some (s.glb.beat + 1) }).event 0x0C05 0 := by
  have hh : (decide (s.get STI_STATUS_SWAP = 2) && s.sti.requested.isNone) = true := by
    simp [hswap, hreq]
  unfold State.releasePass
  rw [if_pos ⟨Option.isSome_iff_ne_none.mpr hret, hb⟩, hh]
  rfl

theorem State.releasePass_idle (h : s.sti.retiring = none ∨ s.glb.beat < s.sti.releaseBeat) : s.releasePass = s := by
  refine if_neg ?_
  rintro ⟨hret, hb⟩
  obtain h | h := h
  · rw [h] at hret; nomatch hret
  · omega

theorem execImageRelease_idle (h : s.sti.retiring = none ∨ s.glb.beat + 1 < s.sti.releaseBeat) : execImageRelease s = .next s := by
  unfold execImageRelease
  split
  · rw [State.releasePass_idle h]
    rfl
  · rfl

theorem execSwapEffect_idle (h : s.sti.requested = none ∨ s.sti.shade = none ∨ s.get STI_STATUS_SWAP ≠ 2 ∨ s.glb.st ≠ .serve ∨
    ∃ b, s.sti.requested = some b ∧ s.glb.beat + 1 < b) : execSwapEffect s = .next s := by
  unfold execSwapEffect
  split
  · rw [State.swapPass_idle h]
    rfl
  · rfl

/-- The state that a cancelled swap leaves before the next internal write starts (R413). -/
def State.swapCancelled (s : State) : State := (s.swapClear.stiReason ⟨0x3C, 0, 0⟩).updCfl Cfl.dropSwap

theorem State.swapCancelled_next : Keeps 0x20022C s.swapCancelled s.swapCancelled.flashNext := State.flashNext_keeps (.refl _ _)

theorem State.get_swapCancelled (hw : Store.wf 0 s.regs = true) : s.swapCancelled.get STI_STATUS_SWAP = 0 := by
  unfold State.swapCancelled State.stiReason State.swapClear
  rw [State.get_updCfl]
  iterate 3 rw [State.get_set_ne (by decide)]
  exact State.get_set hw _ _

theorem State.get_swapCancelled_code : s.swapCancelled.get STI_REASON_CODE = 0x3C :=
  State.get_stiReason (s := s.swapClear) (v := ⟨0x3C, 0, 0⟩) (by decide)

end

/-- Settles O45: each command by the lemma about its outcome, and the parts that it leaves alone by its `_keeps` lemma. -/
theorem imagesValidateAndSwap : Obligations.ImagesValidateAndSwap := by
  unfold Obligations.ImagesValidateAndSwap
  refine ⟨fun s h => execBootImageValidate_idle h, fun s r hc hs ha hr hm => ?boot, fun s r hc hs ha hr => ?bootIs,
    fun s => ⟨fun h => ?unconfigured, fun hb hs => ?shadeNotServing, fun hs h0 => ?noShade, fun hs h0 ho => ?shadeSwapOpen,
      fun hs h0 ho => ?validates⟩,
    fun s h => execShadeValidationDone_idle h, fun s r h2 hb hr hm => ?shade, fun s r h2 hb hr => ?shadeIs,
    fun key s => ⟨fun hk => ?noKey, fun hk hs => ?notServing, fun hk hs h => execSwap_unready (swapKey_of_toNat hk) hs h,
      fun hk hs ho => ?rollbackSwapOpen⟩,
    fun key s sh r h => ?swap, fun s => ⟨fun p h => ?committed, fun h => ?otherOperation⟩,
    fun s => ⟨fun h => ⟨if_neg h, if_neg h⟩, fun h => execSwapEffect_idle h⟩, fun s b sh h => ?effect, fun s h => if_pos h,
    fun s hc hret hb hheld => ?released, fun s hc hret hb hswap hreq => ?held, fun s h => execImageRelease_idle h,
    fun s h => if_pos h, fun s h hw => ?cancel, fun s h => if_neg h, fun key s r hk hs ho hr => ?rollback,
    fun key s r hk hs ho hr => ?rollbackIs, fun key s sh r hk hs hsh hr h3 h0 hcode => ?swapIs⟩
  case boot =>
    have e := execBootImageValidate_runs hc hs ha hr
    have k := (execBootImageValidate_keeps (.refl 0x28D67F s)) _ e
    exact ⟨_, e, k.stw rfl, k.pq rfl, k.cch rfl, k.ldg rfl, k.drn rfl, k.vlt rfl, k.rst rfl, k.mtx rfl,
      fun im hv => State.bootOutcome_active hm hv⟩
  case bootIs => exact execBootImageValidate_runs hc hs ha hr
  case unconfigured =>
    obtain ⟨hs, hu, ha⟩ := h
    exact if_pos ⟨hs, hu, by rw [ha]; rfl⟩
  case shadeNotServing => exact (if_neg fun h => hb h.1).trans (if_pos hs)
  case noShade => exact (if_neg (by simp [hs])).trans ((if_neg (not_not.mpr hs)).trans (if_pos h0))
  case shadeSwapOpen => exact (execShadeValidate_serves hs h0).trans (if_pos (State.swapOpen_iff.mpr ho))
  case validates => exact (execShadeValidate_serves hs h0).trans (if_neg (mt State.swapOpen_iff.mp ho))
  case shade =>
    have e := execShadeValidationDone_runs h2 hb hr
    have k := (execShadeValidationDone_keeps (.refl 0x28D67F s)) _ e
    refine ⟨_, e, k.pq rfl, k.cch rfl, k.vlt rfl, k.stw rfl, k.mtx rfl, ?active, fun im hv => ?valid,
      fun hv => State.shadeOutcome_invalid hm hv⟩
    case active =>
      cases hv : (s.validate r.shd (!s.sti.rollback)).2 with
      | none => rw [(State.shadeOutcome_invalid hm hv).1]
      | some im => rw [(State.shadeOutcome_valid hm hv).1]
    case valid =>
      obtain ⟨hsti, hget⟩ := State.shadeOutcome_valid hm hv
      exact ⟨by rw [hsti], hget⟩
  case shadeIs => exact execShadeValidationDone_runs h2 hb hr
  case noKey =>
    have hne : key ≠ 0x5357 := fun e => hk (by rw [e]; rfl)
    exact ⟨if_pos hne, if_pos hne⟩
  case notServing =>
    have hkey := not_not.mpr (swapKey_of_toNat hk)
    exact ⟨(if_neg hkey).trans (if_pos hs), (if_neg hkey).trans (if_pos hs)⟩
  case rollbackSwapOpen =>
    exact (if_neg (not_not.mpr (swapKey_of_toNat hk))).trans ((if_neg (not_not.mpr hs)).trans (if_pos (State.swapOpen_iff.mpr ho)))
  case swap =>
    obtain ⟨hk, hs, hsh, hr, h3, h0⟩ := h
    have e := execSwap_judged (swapKey_of_toNat hk) hs hsh hr h3 h0
    refine ⟨fun hc => e.trans (if_pos hc), fun hc => ?_⟩
    have e' := e.trans (if_neg (not_not.mpr hc))
    have k := (execSwap_keeps key (.refl 0x20023D s)) _ e'
    refine ⟨_, e', ?shows, (State.flashWrite_only _ _).sti rfl, k.glb rfl, k.dge rfl, k.stw rfl, k.pq rfl, k.hp rfl, k.cch rfl,
      k.dsp rfl, k.ldg rfl, k.ctl rfl, k.seq rfl, k.drn rfl, k.vlt rfl, k.rst rfl, k.mlk rfl, k.mtx rfl⟩
    rw [State.get_flashWrite]
    exact State.get_set_of_ne (by decide)
  case committed =>
    show execRoleRecordCommitted s = _
    unfold execRoleRecordCommitted
    split
    · rfl
    · next hno => exact absurd h (hno p)
  case otherOperation =>
    show execRoleRecordCommitted s = _
    unfold execRoleRecordCommitted
    split
    · next p hp => exact absurd hp (h p)
    · rfl
  case effect =>
    obtain ⟨hc, hreq, hshade, hswap, hb, hst⟩ := h
    have due : (s.inBeat (s.glb.beat + 1)).SwapDue b sh := ⟨hreq, hshade, hswap, hb, hst⟩
    obtain ⟨hsti, hget, hdone⟩ := State.swapPass_due due
    have e : execSwapEffect s = .next ((s.inBeat (s.glb.beat + 1)).swapPass.inBeat s.glb.beat) := if_pos hc
    have k := (execSwapEffect_keeps (.refl 0x78F77F s)) _ e
    exact ⟨_, e, hsti, hget, hdone, k.stw rfl, k.cch rfl, k.drn rfl, k.vlt rfl, k.rst rfl⟩
  case released =>
    refine (if_pos hc).trans ?_
    rw [State.releasePass_due (s := s.inBeat (s.glb.beat + 1)) hret hb hheld]
    rfl
  case held =>
    refine (if_pos hc).trans ?_
    rw [State.releasePass_held (s := s.inBeat (s.glb.beat + 1)) hret hb hswap hreq]
    rfl
  case cancel =>
    have e : execSwapCancel s = .next s.swapCancelled.flashNext := if_neg (not_not.mpr h)
    have k := (execSwapCancel_keeps (.refl 0x20023D s)) _ e
    have kn := State.swapCancelled_next (s := s)
    have get (f : Fld) : s.swapCancelled.flashNext.get f = s.swapCancelled.get f := State.get_of_regs (kn.regs rfl) f
    refine ⟨_, e, (get _).trans (State.get_swapCancelled hw), (get _).trans State.get_swapCancelled_code, kn.sti rfl, ?bytes,
      k.glb rfl, k.dge rfl, k.stw rfl, k.pq rfl, k.hp rfl, k.cch rfl, k.dsp rfl, k.ldg rfl, k.ctl rfl, k.seq rfl, k.drn rfl, k.vlt rfl,
      k.rst rfl, k.mlk rfl, k.mtx rfl⟩
    exact (State.flashNext_bytes _).trans (Cfl.dropSwap_bytes _)
  case rollback =>
    have e := execRollback_runs (swapKey_of_toNat hk) hs ho hr
    have k := (execRollback_keeps key (.refl 0x20027D s)) _ e
    exact ⟨_, e, k.glb rfl, k.stw rfl, k.pq rfl, k.hp rfl, k.cch rfl, k.dsp rfl, k.ldg rfl, k.ctl rfl, k.seq rfl, k.drn rfl, k.vlt rfl,
      k.rst rfl, k.mlk rfl, k.mtx rfl, State.rollbackOutcome_sound, State.rollbackOutcome_unsound⟩
  case rollbackIs => exact execRollback_runs hk hs ho hr
  case swapIs => exact (execSwap_judged hk hs hsh hr h3 h0).trans (if_neg (not_not.mpr hcode))

end Sys2Proof.Machine
end

section
/-! PROOFS. The line code RS(80,64) (R115, R118): what is stored is a codeword, and it reads back as stored. The
theorems here and below are elaborated one after another, which keeps the memory that the joined text takes within its limit. -/

set_option Elab.async false

namespace Sys2Proof.Machine

/-! ## Functions that respect exclusive or -/

/-- A function on the numbers below `2 ^ n` that takes the exclusive or of two of them to that of their values. -/
def XorLinear (n : Nat) (f : Nat → Nat) : Prop := ∀ a < 2 ^ n, ∀ b < 2 ^ n, f (a ^^^ b) = f a ^^^ f b

theorem XorLinear.map_zero {n : Nat} {f : Nat → Nat} (h : XorLinear n f) : f 0 = 0 := by
  have h0 := h 0 (by positivity) 0 (by positivity)
  simpa using h0

/-- Such a function is 0 everywhere once it is 0 at the powers of two. -/
theorem XorLinear.eq_zero {n : Nat} {f : Nat → Nat} (h : XorLinear n f) (hb : ∀ i < n, f (2 ^ i) = 0) :
    ∀ a < 2 ^ n, f a = 0 := by
  suffices hk : ∀ k ≤ n, ∀ a < 2 ^ k, f a = 0 from hk n le_rfl
  intro k
  induction k with
  | zero =>
    intro _ a ha
    obtain rfl : a = 0 := by omega
    exact h.map_zero
  | succ k ih =>
    intro hk a ha
    by_cases hlow : a < 2 ^ k
    · exact ih (by omega) a hlow
    · have hdiv : a / 2 ^ k = 1 := Nat.div_eq_of_lt_le (by omega) (by omega)
      have hrest : a ^^^ 2 ^ k < 2 ^ k := by
        refine Nat.lt_of_div_eq_zero (by positivity) ?_
        rw [Nat.xor_div_two_pow, hdiv, Nat.div_self (by positivity), Nat.xor_self]
      have hpow : 2 ^ k < 2 ^ n := Nat.pow_lt_pow_right (by norm_num) hk
      calc f a = f (2 ^ k ^^^ (a ^^^ 2 ^ k)) := by rw [Nat.xor_comm a, Nat.xor_xor_cancel_left]
        _ = f (2 ^ k) ^^^ f (a ^^^ 2 ^ k) := h _ hpow _ (hrest.trans hpow)
        _ = 0 := by rw [hb k hk, ih (by omega) _ hrest, Nat.xor_self]

/-! ## Multiplication -/

section
variable {c : Code}

/-- The polynomial of the field has degree `m`. -/
structure Code.Monic (c : Code) : Prop where
  lo : 2 ^ c.m ≤ c.poly
  hi : c.poly < 2 ^ (c.m + 1)

/-- Multiplication by x. -/
def Code.dbl (c : Code) (a : Nat) : Nat := if 2 ^ c.m ≤ 2 * a then (2 * a) ^^^ c.poly else 2 * a

theorem Code.mulBits_succ (n a b : Nat) :
    c.mulBits (n + 1) a b = (if b % 2 = 1 then a else 0) ^^^ c.mulBits n (c.dbl a) (b / 2) := rfl

theorem Code.dbl_zero : c.dbl 0 = 0 := if_neg (by simp)

theorem Code.dbl_lt (hc : c.Monic) {a : Nat} (ha : a < 2 ^ c.m) : c.dbl a < 2 ^ c.m := by
  unfold Code.dbl
  split
  case isTrue h =>
    have hi := hc.hi
    have top : ∀ x, 2 ^ c.m ≤ x → x < 2 ^ (c.m + 1) → x / 2 ^ c.m = 1 := fun x hl hu =>
      Nat.div_eq_of_lt_le (by omega) (by omega)
    refine Nat.lt_of_div_eq_zero (by positivity) ?_
    rw [Nat.xor_div_two_pow, top _ h (by omega), top _ hc.lo hi, Nat.xor_self]
  case isFalse h => omega

/-- The reduction of a doubled element, as its top bit decides. -/
def Code.reduced (c : Code) (x : Nat) : Nat := if x / 2 ^ c.m = 1 then x ^^^ c.poly else x

theorem Code.dbl_eq_reduced {a : Nat} (ha : a < 2 ^ c.m) : c.dbl a = c.reduced (2 * a) := by
  refine if_congr ⟨fun h => Nat.div_eq_of_lt_le (by omega) (by omega), fun h => ?_⟩ rfl rfl
  exact Nat.le_of_not_lt fun hlt => by simp [Nat.div_eq_of_lt hlt] at h

theorem Code.reduced_xor {x y : Nat} (hx : x < 2 ^ (c.m + 1)) (hy : y < 2 ^ (c.m + 1)) :
    c.reduced (x ^^^ y) = c.reduced x ^^^ c.reduced y := by
  have bit : ∀ z < 2 ^ (c.m + 1), z / 2 ^ c.m = 0 ∨ z / 2 ^ c.m = 1 := fun z hz =>
    Nat.le_one_iff_eq_zero_or_eq_one.mp
      (Nat.le_of_lt_succ (Nat.div_lt_of_lt_mul (show z < 2 ^ c.m * 2 by omega)))
  unfold Code.reduced
  rw [Nat.xor_div_two_pow]
  obtain ex | ex := bit x hx <;> obtain ey | ey := bit y hy <;> simp [ex, ey]
  · exact Nat.xor_assoc ..
  · exact Nat.xor_right_comm ..
  · rw [Nat.xor_comm y, Nat.xor_assoc, Nat.xor_xor_cancel_left]

theorem Code.dbl_xor : XorLinear c.m c.dbl := by
  intro a ha b hb
  have two : 2 * (a ^^^ b) = 2 * a ^^^ 2 * b := by
    simpa [Nat.shiftLeft_eq, mul_comm] using Nat.shiftLeft_xor_distrib (a := a) (b := b) (i := 1)
  rw [Code.dbl_eq_reduced (Nat.xor_lt_two_pow ha hb), Code.dbl_eq_reduced ha, Code.dbl_eq_reduced hb, two]
  exact Code.reduced_xor (by omega) (by omega)

@[simp] theorem Code.mulBits_zero (n b : Nat) : c.mulBits n 0 b = 0 := by
  induction n generalizing b with
  | zero => rfl
  | succ n ih => rw [Code.mulBits_succ, Code.dbl_zero, ih, ite_self, Nat.xor_self]

theorem Code.mulBits_lt (hc : c.Monic) (n b : Nat) {a : Nat} (ha : a < 2 ^ c.m) : c.mulBits n a b < 2 ^ c.m := by
  induction n generalizing a b with
  | zero => exact Nat.two_pow_pos _
  | succ n ih =>
    rw [Code.mulBits_succ]
    refine Nat.xor_lt_two_pow ?_ (ih _ (Code.dbl_lt hc ha))
    split
    · exact ha
    · exact Nat.two_pow_pos _

theorem Code.mulBits_xor (hc : c.Monic) (n b : Nat) {a d : Nat} (ha : a < 2 ^ c.m) (hd : d < 2 ^ c.m) :
    c.mulBits n (a ^^^ d) b = c.mulBits n a b ^^^ c.mulBits n d b := by
  induction n generalizing a d b with
  | zero => exact (Nat.xor_self 0).symm
  | succ n ih =>
    simp only [Code.mulBits_succ]
    rw [Code.dbl_xor a ha d hd, ih _ (Code.dbl_lt hc ha) (Code.dbl_lt hc hd)]
    split
    · rw [Nat.xor_assoc, Nat.xor_assoc, Nat.xor_left_comm d]
    · simp only [Nat.zero_xor]

theorem Code.mul_eq_mulBits {a b : Nat} (hb : b ≠ 0) : c.mul a b = c.mulBits c.m a b := by
  unfold Code.mul
  split
  case isTrue h => rw [h.resolve_right hb, Code.mulBits_zero]
  case isFalse => rfl

theorem Code.mul_lt (hc : c.Monic) (b : Nat) {a : Nat} (ha : a < 2 ^ c.m) : c.mul a b < 2 ^ c.m := by
  unfold Code.mul
  split
  · exact Nat.two_pow_pos _
  · exact Code.mulBits_lt hc _ _ ha

/-- Multiplication distributes over the sum of the field. -/
theorem Code.mul_xor (hc : c.Monic) (b : Nat) {a d : Nat} (ha : a < 2 ^ c.m) (hd : d < 2 ^ c.m) :
    c.mul (a ^^^ d) b = c.mul a b ^^^ c.mul d b := by
  by_cases hb : b = 0
  · simp [hb, Code.mul]
  · simpa only [Code.mul_eq_mulBits hb] using Code.mulBits_xor hc c.m b ha hd

/-- Multiplication goes through a factor x of its left side. -/
theorem Code.mulBits_dbl (hc : c.Monic) (n b : Nat) {a : Nat} (ha : a < 2 ^ c.m) :
    c.mulBits n (c.dbl a) b = c.dbl (c.mulBits n a b) := by
  induction n generalizing a b with
  | zero => exact Code.dbl_zero.symm
  | succ n ih =>
    have hd := Code.dbl_lt hc ha
    rw [Code.mulBits_succ, Code.mulBits_succ, ih _ hd]
    split
    · rw [Code.dbl_xor _ ha _ (Code.mulBits_lt hc n _ hd)]
    · rw [Nat.zero_xor, Nat.zero_xor]

theorem Code.mul_dbl (hc : c.Monic) (b : Nat) {a : Nat} (ha : a < 2 ^ c.m) : c.mul (c.dbl a) b = c.dbl (c.mul a b) := by
  by_cases hb : b = 0
  · simp [hb, Code.mul, Code.dbl_zero]
  · simpa only [Code.mul_eq_mulBits hb] using Code.mulBits_dbl hc c.m b ha

theorem Code.dbl_two_pow {i : Nat} (hi : i + 1 < c.m) : c.dbl (2 ^ i) = 2 ^ (i + 1) := by
  have hlt : 2 ^ (i + 1) < 2 ^ c.m := Nat.pow_lt_pow_right (by norm_num) hi
  rw [Code.dbl, ← Nat.pow_succ', if_neg (Nat.not_le.mpr hlt)]

/-! ## Values of words -/

/-- The symbols of a word lie in the field. -/
def Code.Word (c : Code) (w : List Nat) : Prop := ∀ k ∈ w, k < 2 ^ c.m

/-- The value at `x` of a word that goes on from a value. -/
def Code.evalFrom (c : Code) (x a : Nat) (w : List Nat) : Nat := w.foldl (fun acc k => c.mul acc x ^^^ k) a

theorem Code.evalHi_eq_evalFrom (x : Nat) (w : List Nat) : c.evalHi x w = c.evalFrom x 0 w := rfl

@[simp] theorem Code.evalFrom_nil (x a : Nat) : c.evalFrom x a [] = a := rfl

@[simp] theorem Code.evalFrom_cons (x a k : Nat) (w : List Nat) :
    c.evalFrom x a (k :: w) = c.evalFrom x (c.mul a x ^^^ k) w := rfl

theorem Code.evalFrom_append (x a : Nat) (v w : List Nat) :
    c.evalFrom x a (v ++ w) = c.evalFrom x (c.evalFrom x a v) w := List.foldl_append

/-- The value of a sum of words. -/
theorem Code.evalFrom_polyAdd (hc : c.Monic) (x : Nat) {a b : Nat} (ha : a < 2 ^ c.m) (hb : b < 2 ^ c.m) {v w : List Nat}
    (hl : v.length = w.length) (hv : c.Word v) (hw : c.Word w) :
    c.evalFrom x (a ^^^ b) (polyAdd v w) = c.evalFrom x a v ^^^ c.evalFrom x b w := by
  induction v generalizing a b w with
  | nil =>
    obtain rfl : w = [] := List.length_eq_zero_iff.mp hl.symm
    rfl
  | cons k v ih =>
    obtain _ | ⟨n, w⟩ := w
    · simp at hl
    · obtain ⟨hk, hv⟩ := List.forall_mem_cons.mp hv
      obtain ⟨hn, hw⟩ := List.forall_mem_cons.mp hw
      have next := ih (Nat.xor_lt_two_pow (Code.mul_lt hc x ha) hk) (Nat.xor_lt_two_pow (Code.mul_lt hc x hb) hn)
        (Nat.succ.inj hl) hv hw
      have mix : c.mul (a ^^^ b) x ^^^ (k ^^^ n) = (c.mul a x ^^^ k) ^^^ (c.mul b x ^^^ n) := by
        rw [Code.mul_xor hc x ha hb, Nat.xor_assoc, Nat.xor_assoc, Nat.xor_left_comm k]
      simp only [polyAdd, Code.evalFrom_cons, mix, next]

theorem Code.evalFrom_zero_replicate (x n : Nat) : c.evalFrom x 0 (List.replicate n 0) = 0 := by
  induction n with
  | zero => rfl
  | succ n ih => simpa [List.replicate_succ, Code.mul] using ih

theorem polyAdd_length {v w : List Nat} (h : v.length = w.length) : (polyAdd v w).length = w.length := by
  induction v generalizing w with
  | nil => rw [List.length_eq_zero_iff.mp h.symm]; rfl
  | cons k v ih =>
    obtain _ | ⟨n, w⟩ := w
    · simp at h
    · simp [polyAdd, ih (Nat.succ.inj h)]

theorem Code.Word.polyAdd {v w : List Nat} (hv : c.Word v) (hw : c.Word w) : c.Word (polyAdd v w) := by
  induction v generalizing w with
  | nil => simpa [Machine.polyAdd] using hw
  | cons k v ih =>
    obtain _ | ⟨n, w⟩ := w
    · exact hv
    · obtain ⟨hk, hv⟩ := List.forall_mem_cons.mp hv
      obtain ⟨hn, hw⟩ := List.forall_mem_cons.mp hw
      exact List.forall_mem_cons.mpr ⟨Nat.xor_lt_two_pow hk hn, ih hv hw⟩

/-- The value of a word times x. -/
theorem Code.evalFrom_dbl (hc : c.Monic) (x : Nat) {a : Nat} (ha : a < 2 ^ c.m) {w : List Nat} (hw : c.Word w) :
    c.evalFrom x (c.dbl a) (w.map c.dbl) = c.dbl (c.evalFrom x a w) := by
  induction w generalizing a with
  | nil => rfl
  | cons k w ih =>
    obtain ⟨hk, hw⟩ := List.forall_mem_cons.mp hw
    have ha' := Code.mul_lt hc x ha
    rw [List.map_cons, Code.evalFrom_cons, Code.evalFrom_cons, Code.mul_dbl hc x ha, ← Code.dbl_xor _ ha' _ hk,
      ih (Nat.xor_lt_two_pow ha' hk) hw]

theorem Code.evalFrom_lt (hc : c.Monic) (x : Nat) {a : Nat} (ha : a < 2 ^ c.m) {w : List Nat} (hw : c.Word w) :
    c.evalFrom x a w < 2 ^ c.m := by
  induction w generalizing a with
  | nil => exact ha
  | cons k w ih =>
    obtain ⟨hk, hw⟩ := List.forall_mem_cons.mp hw
    exact ih (Nat.xor_lt_two_pow (Code.mul_lt hc x ha) hk) hw

/-! ## The systematic encoder -/

/-- The generator without its leading coefficient, highest first. -/
def Code.tail (c : Code) : List Nat := c.generator.reverse.drop 1

/-- The generator without its leading coefficient, times an element. -/
def Code.tailTimes (c : Code) (a : Nat) : List Nat := c.tail.map (c.mul a)

/-- The generator vanishes at `x`. -/
def Code.Root (c : Code) (x : Nat) : Prop := c.evalFrom x 1 (c.tailTimes 1) = 0

theorem Code.tailTimes_word (hc : c.Monic) {a : Nat} (ha : a < 2 ^ c.m) : c.Word (c.tailTimes a) := by
  intro k hk
  obtain ⟨g, -, rfl⟩ := List.mem_map.mp hk
  exact Code.mul_lt hc g ha

theorem Code.tailTimes_xor (hc : c.Monic) {a b : Nat} (ha : a < 2 ^ c.m) (hb : b < 2 ^ c.m) :
    c.tailTimes (a ^^^ b) = polyAdd (c.tailTimes a) (c.tailTimes b) := by
  unfold Code.tailTimes
  induction c.tail with
  | nil => rfl
  | cons g l ih => simp [polyAdd, Code.mul_xor hc g ha hb, ih]

theorem Code.tailTimes_dbl (hc : c.Monic) {a : Nat} (ha : a < 2 ^ c.m) :
    c.tailTimes (c.dbl a) = (c.tailTimes a).map c.dbl := by
  rw [Code.tailTimes, Code.tailTimes, List.map_map]
  exact List.map_congr_left fun g _ => Code.mul_dbl hc g ha

/-- The multiples of the generator by the powers of x vanish at a root. -/
theorem Code.Root.powers {x : Nat} (hx : c.Root x) (hc : c.Monic) :
    ∀ i < c.m, c.evalFrom x (2 ^ i) (c.tailTimes (2 ^ i)) = 0 := by
  intro i hi
  induction i with
  | zero => exact hx
  | succ i ih =>
    have hlt : 2 ^ i < 2 ^ c.m := Nat.pow_lt_pow_right (by norm_num) (Nat.lt_of_succ_lt hi)
    rw [← Code.dbl_two_pow hi, Code.tailTimes_dbl hc hlt, Code.evalFrom_dbl hc x hlt (Code.tailTimes_word hc hlt),
      ih (Nat.lt_of_succ_lt hi), Code.dbl_zero]

/-- Every multiple of the generator vanishes at a root. -/
theorem Code.Root.times {x : Nat} (hx : c.Root x) (hc : c.Monic) :
    ∀ a < 2 ^ c.m, c.evalFrom x a (c.tailTimes a) = 0 := by
  refine XorLinear.eq_zero (fun a ha b hb => ?_) (hx.powers hc)
  rw [Code.tailTimes_xor hc ha hb]
  exact Code.evalFrom_polyAdd hc x ha hb (by simp [Code.tailTimes]) (Code.tailTimes_word hc ha) (Code.tailTimes_word hc hb)

theorem Code.encStep_cons (h s : Nat) (t : List Nat) :
    c.encStep c.generator (h :: t) s = polyAdd (t ++ [0]) (c.tailTimes (s ^^^ h)) := rfl

theorem Code.encStep_length {reg : List Nat} (hl : reg.length = c.tail.length) (hr : reg ≠ []) (s : Nat) :
    (c.encStep c.generator reg s).length = c.tail.length := by
  obtain ⟨h, t, rfl⟩ := List.exists_cons_of_ne_nil hr
  rw [Code.encStep_cons, polyAdd_length (by simpa [Code.tailTimes] using hl)]
  simp [Code.tailTimes]

theorem Code.Word.encStep (hc : c.Monic) {reg : List Nat} (hw : c.Word reg) (hr : reg ≠ []) {s : Nat} (hs : s < 2 ^ c.m) :
    c.Word (c.encStep c.generator reg s) := by
  obtain ⟨h, t, rfl⟩ := List.exists_cons_of_ne_nil hr
  obtain ⟨hh, ht⟩ := List.forall_mem_cons.mp hw
  refine Code.Word.polyAdd ?_ (Code.tailTimes_word hc (Nat.xor_lt_two_pow hs hh))
  exact List.forall_mem_append.mpr ⟨ht, by simp⟩

/-- A step of the encoder keeps the value 0 at a root: a message followed by its register is a word of the code. -/
theorem Code.Root.encStep {x : Nat} (hx : c.Root x) (hc : c.Monic) {reg : List Nat} (hl : reg.length = c.tail.length)
    (hr : reg ≠ []) (hw : c.Word reg) {a s : Nat} (ha : a < 2 ^ c.m) (hs : s < 2 ^ c.m) (h0 : c.evalFrom x a reg = 0) :
    c.evalFrom x (c.mul a x ^^^ s) (c.encStep c.generator reg s) = 0 := by
  obtain ⟨h, t, rfl⟩ := List.exists_cons_of_ne_nil hr
  obtain ⟨hh, ht⟩ := List.forall_mem_cons.mp hw
  have hfb := Nat.xor_lt_two_pow hs hh
  have hax := Code.mul_lt hc x ha
  have split : c.mul a x ^^^ s = (c.mul a x ^^^ h) ^^^ (s ^^^ h) := by
    rw [Nat.xor_assoc, Nat.xor_left_comm h, Nat.xor_self, Nat.xor_zero]
  have shifted : c.evalFrom x (c.mul a x ^^^ h) (t ++ [0]) = 0 := by
    rw [Code.evalFrom_append, ← Code.evalFrom_cons, h0]
    simp [Code.mul]
  rw [Code.encStep_cons, split, Code.evalFrom_polyAdd hc x (Nat.xor_lt_two_pow hax hh) hfb
    (by simpa [Code.tailTimes] using hl) (List.forall_mem_append.mpr ⟨ht, by simp⟩) (Code.tailTimes_word hc hfb),
    shifted, hx.times hc _ hfb, Nat.xor_self]

/-- The encoder from a register on, over a message: the value at a root stays 0, and the register keeps its form. -/
theorem Code.Root.encode {x : Nat} (hx : c.Root x) (hc : c.Monic) (hn : c.tail ≠ []) {msg : List Nat} (hm : c.Word msg)
    {reg : List Nat} (hl : reg.length = c.tail.length) (hw : c.Word reg) {a : Nat} (ha : a < 2 ^ c.m)
    (h0 : c.evalFrom x a reg = 0) : c.evalFrom x a (msg ++ msg.foldl (c.encStep c.generator) reg) = 0 := by
  induction msg generalizing reg a with
  | nil => exact h0
  | cons s msg ih =>
    obtain ⟨hs, hm⟩ := List.forall_mem_cons.mp hm
    have hr : reg ≠ [] := List.ne_nil_of_length_pos (hl ▸ List.length_pos_of_ne_nil hn)
    exact ih hm (Code.encStep_length hl hr s) (hw.encStep hc hr hs) (Nat.xor_lt_two_pow (Code.mul_lt hc x ha) hs)
      (hx.encStep hc hl hr hw ha hs h0)

/-- What the encoder leaves in its register has the form of the register that it began with. -/
theorem Code.encode_register (hc : c.Monic) (hn : c.tail ≠ []) {msg : List Nat} (hm : c.Word msg) {reg : List Nat}
    (hl : reg.length = c.tail.length) (hw : c.Word reg) :
    (msg.foldl (c.encStep c.generator) reg).length = c.tail.length ∧ c.Word (msg.foldl (c.encStep c.generator) reg) := by
  induction msg generalizing reg with
  | nil => exact ⟨hl, hw⟩
  | cons s msg ih =>
    obtain ⟨hs, hm⟩ := List.forall_mem_cons.mp hm
    have hr : reg ≠ [] := List.ne_nil_of_length_pos (hl ▸ List.length_pos_of_ne_nil hn)
    exact ih hm (Code.encStep_length hl hr s) (hw.encStep hc hr hs)

end

/-! ## The line code -/

theorem lineCode_monic : lineCode.Monic := ⟨by decide, by decide⟩

theorem lineCode_tail : lineCode.tail = [59, 13, 104, 189, 68, 209, 30, 8, 163, 65, 41, 229, 98, 50, 36, 59] := by decide

theorem lineCode_tail_ne : lineCode.tail ≠ [] := by simp [lineCode_tail]

theorem lineCode_root : ∀ j < 16, lineCode.Root (lineCode.alpha j) := by
  unfold Code.Root Code.tailTimes
  rw [lineCode_tail]
  decide

theorem lineCode_syndromes_zero {w : List Nat} :
    (lineCode.syndromes w).all (· = 0) = true ↔ ∀ j < 16, lineCode.evalFrom (lineCode.alpha j) 0 w = 0 := by
  simp [Code.syndromes, Code.evalHi_eq_evalFrom, lineCode]

/-- The register that the encoder begins with. -/
def zeroChecks : List Nat := List.replicate 16 0

theorem zeroChecks_length : zeroChecks.length = lineCode.tail.length := by simp [zeroChecks, lineCode_tail]

theorem zeroChecks_word : lineCode.Word zeroChecks := by
  intro k hk
  rw [List.eq_of_mem_replicate hk]
  decide

section
variable {msg : List Nat} (hm : lineCode.Word msg)
include hm

theorem lineCode_checks_length : (lineCode.checks msg).length = 16 := by
  have h := (Code.encode_register lineCode_monic lineCode_tail_ne hm zeroChecks_length zeroChecks_word).1
  rwa [lineCode_tail] at h

theorem lineCode_checks_word : lineCode.Word (lineCode.checks msg) :=
  (Code.encode_register lineCode_monic lineCode_tail_ne hm zeroChecks_length zeroChecks_word).2

/-- A message followed by its check symbols vanishes at every root of the line code (R115). -/
theorem lineCode_encode {j : Nat} (hj : j < 16) :
    lineCode.evalFrom (lineCode.alpha j) 0 (msg ++ lineCode.checks msg) = 0 :=
  (lineCode_root j hj).encode lineCode_monic lineCode_tail_ne hm zeroChecks_length zeroChecks_word (by decide)
    (Code.evalFrom_zero_replicate _ 16)

end

theorem lineSyms_word (l : Line) : lineCode.Word (lineSyms l) := by
  intro k hk
  obtain ⟨i, -, rfl⟩ := List.mem_map.mp hk
  exact Nat.mod_lt _ (Nat.two_pow_pos _)

theorem lineSyms_length (l : Line) : (lineSyms l).length = 64 := by simp [lineSyms]

/-! ## Symbols as bytes -/

theorem ofLe_lt : ∀ l : List Byte, ofLe l < 2 ^ (8 * l.length)
  | [] => by decide
  | b :: l => by
    have ih := ofLe_lt l
    have hb := b.isLt
    rw [List.length_cons, Nat.mul_succ, Nat.pow_add]
    simp only [ofLe]
    omega

theorem bits_zero_eight (v : Nat) : bits v 0 8 = v % 256 := by simp [bits]

theorem bits_succ_eight (v i : Nat) : bits v (8 * (i + 1)) 8 = bits (v / 256) (8 * i) 8 := by
  unfold bits
  rw [Nat.div_div_eq_div_mul, Nat.mul_succ, Nat.pow_add, Nat.mul_comm]

/-- Byte `i` of the number that a byte list spells. -/
theorem bits_ofLe : ∀ (l : List Byte) (i : Nat) (h : i < l.length), bits (ofLe l) (8 * i) 8 = (l[i]).toNat
  | b :: l, 0, _ => by
    have hb := b.isLt
    simp only [Nat.mul_zero, bits_zero_eight, ofLe, List.getElem_cons_zero]
    omega
  | b :: l, i + 1, h => by
    have hb := b.isLt
    have hdiv : ofLe (b :: l) / 256 = ofLe l := by
      simp only [ofLe]
      omega
    rw [bits_succ_eight, hdiv, bits_ofLe l i (Nat.lt_of_succ_lt_succ h), List.getElem_cons_succ]

/-- The first bytes of a number spell it again. -/
theorem ofLe_bits (n v : Nat) :
    ofLe ((List.range n).map fun i => BitVec.ofNat 8 (bits v (8 * i) 8)) = v % 2 ^ (8 * n) := by
  induction n generalizing v with
  | zero => simp [ofLe, Nat.mod_one]
  | succ n ih =>
    have tail : ((List.range n).map Nat.succ).map (fun i => BitVec.ofNat 8 (bits v (8 * i) 8)) =
        (List.range n).map fun i => BitVec.ofNat 8 (bits (v / 256) (8 * i) 8) := by
      rw [List.map_map]
      exact List.map_congr_left fun i _ => congrArg _ (bits_succ_eight v i)
    rw [List.range_succ_eq_map, List.map_cons, tail, ofLe, ih, Nat.mul_zero, bits_zero_eight, BitVec.toNat_ofNat,
      Nat.mul_succ, Nat.pow_add, Nat.mul_comm (2 ^ _), Nat.mod_mul, Nat.mod_mod]

/-- The symbols of a stored codeword are those that it was made of. -/
theorem codewordSyms_ofLe {w : List Nat} (hl : w.length = 80) (hw : lineCode.Word w) :
    codewordSyms (BitVec.ofNat 640 (ofLe (w.map (BitVec.ofNat 8)))) = w := by
  have hlt := ofLe_lt (w.map (BitVec.ofNat 8))
  rw [List.length_map, hl] at hlt
  refine List.ext_getElem (by simp [codewordSyms, hl]) fun i h1 h2 => ?_
  have hk : w[i] < 256 := hw _ (List.getElem_mem h2)
  simp only [codewordSyms, List.getElem_map, List.getElem_range, BitVec.toNat_ofNat]
  rw [Nat.mod_eq_of_lt hlt, bits_ofLe _ _ (by simpa using h2), List.getElem_map, BitVec.toNat_ofNat, Nat.mod_eq_of_lt hk]

/-- The symbols of a line spell it, whatever check symbols follow. -/
theorem symsLine_lineSyms (l : Line) (checks : List Nat) : symsLine (lineSyms l ++ checks) = l := by
  have htake : (lineSyms l ++ checks).take 64 = lineSyms l := by
    rw [← lineSyms_length l]
    exact List.take_left
  have hle : ofLe ((lineSyms l).map (BitVec.ofNat 8)) = l.toNat := by
    rw [lineSyms, List.map_map]
    exact (ofLe_bits 64 l.toNat).trans (Nat.mod_eq_of_lt l.isLt)
  rw [symsLine, htake, hle, BitVec.ofNat_toNat, BitVec.setWidth_eq]

/-! ## A stored line reads back -/

/-- The check symbols of a poison word (R118). -/
def inverted (w : List Nat) : List Nat := w.map (· ^^^ 0xFF)

theorem inverted_inverted (w : List Nat) : inverted (inverted w) = w := by
  simp only [inverted, List.map_map]
  exact List.map_id'' (fun k => Nat.xor_xor_cancel_right k 0xFF) w

theorem inverted_eq_polyAdd (w : List Nat) : inverted w = polyAdd w (List.replicate w.length 0xFF) := by
  induction w with
  | nil => rfl
  | cons k w ih => simpa [inverted, polyAdd, List.replicate_succ] using ih

theorem inverted_word {w : List Nat} (hw : lineCode.Word w) : lineCode.Word (inverted w) := by
  intro k hk
  obtain ⟨n, hn, rfl⟩ := List.mem_map.mp hk
  exact Nat.xor_lt_two_pow (hw n hn) (by decide)

theorem invertChecks_append {msg : List Nat} (hl : msg.length = 64) (w : List Nat) :
    invertChecks (msg ++ w) = msg ++ inverted w := by
  unfold invertChecks
  rw [← hl, List.take_left, List.drop_left]
  rfl

theorem encodeLine_sound (l : Line) : encodeLine l false = lineSyms l ++ lineCode.checks (lineSyms l) := by
  simp [encodeLine]

theorem encodeLine_poison (l : Line) : encodeLine l true = lineSyms l ++ inverted (lineCode.checks (lineSyms l)) := rfl

theorem encodeLine_word (l : Line) (poison : Bool) : lineCode.Word (encodeLine l poison) := by
  have hc := lineCode_checks_word (lineSyms_word l)
  cases poison with
  | false => rw [encodeLine_sound]; exact List.forall_mem_append.mpr ⟨lineSyms_word l, hc⟩
  | true => rw [encodeLine_poison]; exact List.forall_mem_append.mpr ⟨lineSyms_word l, inverted_word hc⟩

theorem encodeLine_length (l : Line) (poison : Bool) : (encodeLine l poison).length = 80 := by
  simp [encodeLine, lineSyms_length, lineCode_checks_length (lineSyms_word l)]

/-- The word of a line has no syndrome. -/
theorem encodeLine_syndromes (l : Line) : (lineCode.syndromes (encodeLine l false)).all (· = 0) = true := by
  rw [lineCode_syndromes_zero, encodeLine_sound]
  exact fun j hj => lineCode_encode (lineSyms_word l) hj

/-- The word of a poison line has the syndromes of its inversion: the one at alpha is not 0. -/
theorem encodeLine_poison_syndromes (l : Line) : ¬(lineCode.syndromes (encodeLine l true)).all (· = 0) = true := by
  rw [lineCode_syndromes_zero, encodeLine_poison]
  intro h
  have hw := lineSyms_word l
  have hlen := lineCode_checks_length hw
  have hp : lineCode.evalFrom (lineCode.alpha 1) 0 (lineSyms l) < 2 ^ lineCode.m :=
    Code.evalFrom_lt lineCode_monic _ (by decide) hw
  have hsum := Code.evalFrom_polyAdd lineCode_monic (lineCode.alpha 1) hp (by decide : 0 < 2 ^ lineCode.m)
    (w := List.replicate 16 0xFF) (by simpa using hlen) (lineCode_checks_word hw) (by unfold Code.Word; decide)
  have h1 := h 1 (by decide)
  rw [inverted_eq_polyAdd, hlen, Code.evalFrom_append, ← Nat.xor_zero (Code.evalFrom _ _ 0 (lineSyms l)), hsum,
    ← Code.evalFrom_append, lineCode_encode hw (by decide)] at h1
  exact absurd h1 (by decide)

theorem codewordSyms_codeword (c : LineCell) : codewordSyms c.codeword = encodeLine c.data c.poison :=
  codewordSyms_ofLe (encodeLine_length _ _) (encodeLine_word _ _)

/-- What a stored cell reads as where its word meets no error (R118). -/
def LineCell.outcome (c : LineCell) : ReadOutcome := if c.poison then .poison c.data [] else .good c.data

/-- A word that meets no error decodes to what was stored, as poison where the line stands as poison (R118). -/
theorem decodeLine_codeword (c : LineCell) : decodeLine c.codeword = c.outcome := by
  obtain ⟨l, poison⟩ := c
  unfold decodeLine
  simp only [codewordSyms_codeword]
  cases poison with
  | false => rw [if_pos (encodeLine_syndromes l), encodeLine_sound, symsLine_lineSyms]; rfl
  | true =>
    have back : invertChecks (encodeLine l true) = encodeLine l false := by
      rw [encodeLine_poison, invertChecks_append (lineSyms_length l), inverted_inverted, encodeLine_sound]
    rw [if_neg (encodeLine_poison_syndromes l), back, if_pos (encodeLine_syndromes l), encodeLine_sound, symsLine_lineSyms]
    rfl

/-- A read that meets no error, on a rank that is not lost, gives the stored cell and changes nothing (R118). -/
theorem State.readCell_stored (s : State) (c : LineCell) {rank : Option Nat} (sub : Nat)
    (h : ∀ n, rank = some n → bitOf s.drn.lostRanks n = false) : s.readCell c rank sub 0 = (c.outcome, s) := by
  have hd : decodeLine (c.codeword ^^^ 0) = c.outcome := (congrArg decodeLine BitVec.xor_zero).trans (decodeLine_codeword c)
  unfold State.readCell
  extract_lets lost o count
  have hlost : lost = false := by
    unfold lost
    split
    · exact h _ rfl
    · rfl
  have ho : o = c.outcome := (if_neg (by simp [hlost])).trans hd
  rw [ho]
  unfold LineCell.outcome
  cases c.poison <;> rfl

/-- A read that meets no error, on a line whose rank is not lost, gives the stored line and changes nothing (R118). -/
theorem State.dramRead_stored {s : State} {la : Nat} (h : s.lineLost la = false) :
    s.dramRead la 0 = ((s.line la).outcome, s) := by
  refine s.readCell_stored _ _ fun n hn => ?_
  simpa [State.lineLost, hn] using h

end Sys2Proof.Machine
end

section
/-! PROOFS. The persist path: reads, decoders, bindings and stamps (R70 to R105). -/

set_option Elab.async false

namespace Sys2Proof.Machine

section
variable {s : State} {p : Port}

/-- A command of an agent that the control space answers does what its row says (R22). -/
theorem State.if_answers {α : Type} {g : Agent} (h : s.answers g = true) (a b : α) : (if !s.answers g then a else b) = b :=
  if_neg (by simp [h])

/-! ## Reads -/

theorem execCxlMemRead_closed {hpa : BitVec 52} {tag : BitVec 16} {err : Codeword} (h : s.portOpen p = false) :
    execCxlMemRead p hpa tag err s = .next s := if_pos (by simp [h])

theorem execCxlMemRead_outside {hpa : BitVec 52} {tag : BitVec 16} {err : Codeword} (h : s.portOpen p = true)
    (hw : s.window p hpa.toNat = none) :
    execCxlMemRead p hpa tag err s = .next ((s.emit (.rdCpl p tag.toNat 0 true)).event 0x0207 (srcPort p)) := by
  simp [execCxlMemRead, h, hw]

theorem execCxlMemRead_inside {hpa : BitVec 52} {tag : BitVec 16} {err : Codeword} {c ca : Nat} (h : s.portOpen p = true)
    (hw : s.window p hpa.toNat = some (c, ca)) :
    execCxlMemRead p hpa tag err s = .next (s.serveRead ⟨p, tag.toNat, ca / 64, none⟩ err) := by
  simp [execCxlMemRead, h, hw]

theorem State.placeIn_dramMove (n spares fuel set j : Nat) :
    (s.dramMove n).placeIn spares fuel set j = s.placeIn spares fuel set j := by
  induction fuel generalizing set j with
  | zero => rfl
  | succ fuel ih => exact if_congr Iff.rfl rfl (ih _ _)

theorem State.rankOf_dramMove (n g : Nat) : (s.dramMove n).rankOf g = s.rankOf g :=
  congrArg (Option.map _) (State.placeIn_dramMove n _ _ _ _)

theorem State.lineLost_dramMove (n la : Nat) : (s.dramMove n).lineLost la = s.lineLost la := by
  unfold State.lineLost
  rw [State.rankOf_dramMove]
  rfl

/-- With no queue entry and no error on the codeword, a read forms the stored line and counts its 64 bytes (R92, R118). -/
theorem State.formRead_stored {la : Nat} (he : s.entriesOf la = []) (hd : s.inDram la = true) (hl : s.lineLost la = false) :
    s.formRead la 0 = (.line (s.line la), s.dramMove 64) := by
  have hr : (s.dramMove 64).dramRead la 0 = ((s.line la).outcome, s.dramMove 64) :=
    State.dramRead_stored ((State.lineLost_dramMove 64 la).trans hl)
  have plain (c : LineCell) : s.overEntries la c = c := by simp [State.overEntries, he]
  unfold State.formRead
  rw [if_neg (by simp [State.replaced, he]), if_neg (by simp [hd]), hr]
  unfold LineCell.outcome
  obtain ⟨l, poison⟩ := s.line la
  cases poison <;> simp [plain]

/-! ## Decoders and bindings -/

theorem State.commitFine_iff {k base size : Nat} : s.commitFine p k base size = true ↔
    s.get (PQ_BIND_VALID p.num k) = 1 ∧ s.get (PQ_BIND_CLASS p.num k) < 4 ∧
    s.get (PQ_BIND_OFF p.num k) * 2 ^ 28 + size ≤ s.img.size (s.get (PQ_BIND_CLASS p.num k)) ∧ size % 2 ^ 28 = 0 ∧
    base % 2 ^ 28 = 0 ∧ bitOf s.sti.guardClasses (s.get (PQ_BIND_CLASS p.num k)) = false := by
  simp only [State.commitFine, State.bit, Bool.and_eq_true, decide_eq_true_eq, Bool.not_eq_true', and_assoc]
  rfl

theorem execDecoderCommit_clears {k : BitVec 2} {base size : BitVec 52} (h : s.answers p.agent = true) :
    execDecoderCommit p k base size false s = .next (s.setDecoder p k.toNat ⟨base.toNat, size.toNat, false, false⟩) :=
  (State.if_answers h _ _).trans (if_pos rfl)

theorem execDecoderCommit_judged {k : BitVec 2} {base size : BitVec 52} (h : s.answers p.agent = true) :
    execDecoderCommit p k base size true s =
      if s.commitFine p k.toNat base.toNat size.toNat then
        .next (s.setDecoder p k.toNat ⟨base.toNat, size.toNat, true, false⟩)
      else .next ((s.setDecoder p k.toNat ⟨base.toNat, size.toNat, false, true⟩).event 0x0204 (srcPair 1 p.num k.toNat)) :=
  (State.if_answers h _ _).trans (if_neg (by decide))

/-- A field takes of a value what fits its width. -/
theorem State.set_mod (s : State) (f : Fld) (v : Nat) : s.set f (v % 2 ^ f.width) = s.set f v := by
  unfold State.set
  rw [Nat.mod_mod]

theorem execPqBindWrite_committed {k : BitVec 2} {w : Word} (h : (s.decoder p k.toNat).committed = true) :
    execPqBindWrite p k w s = .next s := if_pos h

theorem execPqBindWrite_free {k : BitVec 2} {w : Word} (h : (s.decoder p k.toNat).committed = false) :
    execPqBindWrite p k w s = .next (((s.set (PQ_BIND_CLASS p.num k.toNat) (w.toNat % 8)).set
      (PQ_BIND_VALID p.num k.toNat) (w.toNat / 8 % 2)).set (PQ_BIND_OFF p.num k.toNat) (w.toNat / 65536)) := by
  refine (if_neg (by simp [h])).trans ?_
  rw [← State.set_mod s (PQ_BIND_CLASS p.num k.toNat), ← State.set_mod _ (PQ_BIND_VALID p.num k.toNat)]
  rfl

end

/-- Settles O12: a read of a stored line by the line code's round trip, the decoders by the branches of their commands. That a
link of any speed has its decoder commits answered is the model's choice (log entry 31). -/
theorem readsDecodersAndBindings : Obligations.ReadsDecodersAndBindings := by
  unfold Obligations.ReadsDecodersAndBindings
  refine ⟨fun p hpa tag err s h => execCxlMemRead_closed h, fun p hpa tag err s h hw => execCxlMemRead_outside h hw,
    fun p hpa tag s c ca h hw he hd hl => ?stored,
    fun p k base size s ⟨h, hf⟩ => (execDecoderCommit_judged h).trans (if_pos hf),
    fun p k base size s ⟨h, hf⟩ => (execDecoderCommit_judged h).trans (if_neg (by simp [hf])),
    fun p k base size s => State.commitFine_iff, fun p k base size s h => execDecoderCommit_clears h,
    fun p k w s ⟨_, hc, _⟩ => execPqBindWrite_free hc, fun p k w s h => execPqBindWrite_committed h⟩
  case stored =>
    refine (execCxlMemRead_inside h hw).trans ?_
    rw [State.serveRead, State.formRead_stored he hd hl]
    rfl

/-! ## Stamps -/

section
variable {s : State} {p : Port}

theorem Port.agent_port (q : Port) : q.agent.port = some q := by cases q <;> rfl

theorem Port.agent_injective : Function.Injective Port.agent := fun p q h =>
  Option.some.inj ((Port.agent_port p).symm.trans ((congrArg Agent.port h).trans (Port.agent_port q)))

/-- A 64-bit value reads back from its two halves. -/
theorem State.get64_set64 (hw : Store.wf 0 s.regs = true) {lo hi : Fld} (hne : hi.key ≠ lo.key) (hlo : lo.width = 32)
    (hhi : hi.width = 32) {v : Nat} (hv : v < 2 ^ 64) : (s.set64 lo hi v).get64 lo hi = v := by
  unfold State.get64 State.set64
  rw [State.get_set_ne hne, State.get_set hw, State.get_set (State.wf_set hw _ _), hlo, hhi]
  omega

theorem State.get64_of_regs {t : State} (h : t.regs = s.regs) {lo hi : Fld} : t.get64 lo hi = s.get64 lo hi := by
  unfold State.get64
  rw [State.get_of_regs h, State.get_of_regs h]

theorem State.get64_set64_ne {lo hi lo' hi' : Fld} (hll : lo'.key ≠ lo.key) (hhl : hi'.key ≠ lo.key) (hlh : lo'.key ≠ hi.key)
    (hhh : hi'.key ≠ hi.key) (v : Nat) : (s.set64 lo' hi' v).get64 lo hi = s.get64 lo hi := by
  unfold State.get64
  rw [State.get_set64_ne hll hhl, State.get_set64_ne hlh hhh]

theorem State.wf_set64 (hw : Store.wf 0 s.regs = true) (lo hi : Fld) (v : Nat) : Store.wf 0 (s.set64 lo hi v).regs = true :=
  State.wf_set (State.wf_set hw _ _) _ _

/-- A write of the stamp registers takes the low half that was held (R95). -/
def State.takeLow (s : State) (p : Port) : State := s.updPq fun q => { q with stampLo := q.stampLo.set p 0 }

/-- The stamp that a write of the high half forms (R95). -/
def State.formed (s : State) (p : Port) (hi : Word) (lo : Option Word) : Nat :=
  (match lo with | some w => w.toNat | none => s.pq.stampLo.get p) + 2 ^ 32 * hi.toNat

/-- The last stamp and both horizons of a port take a value (R97, R101). -/
def State.stamped (s : State) (p : Port) (v : Nat) : State :=
  ((s.updPq fun q => { q with lastStamp := q.lastStamp.set p v }).setLhz p v).raiseMhz p v

theorem State.raiseMhz_regs (v : Nat) :
    (s.raiseMhz p v).regs = (s.set64 (PQ_MHZ_LO_HZ p.num) (PQ_MHZ_HI_HZ p.num) v).regs := by
  refine ((State.mhzEvents_keeps s (.refl 0x200004 (s.liftMhz p v))).regs rfl).trans ?_
  unfold State.liftMhz
  split <;> rfl

theorem State.raiseMhz_pq (v : Nat) : (s.raiseMhz p v).pq = { s.pq with rose := (s.raiseMhz p v).pq.rose } := by
  have h : (s.raiseMhz p v).pq = (s.liftMhz p v).pq := (State.mhzEvents_keeps s (.refl 0x200004 (s.liftMhz p v))).pq rfl
  rw [h]
  unfold State.liftMhz
  split <;> rfl

/-- A newer stamp with every sequence acknowledged and none pending commits at once (R97, R101). -/
theorem State.commitStamp_newer {v : Nat} (hv : s.pq.lastStamp.get p < v) (ht : s.pq.lastMirror ≤ s.acked)
    (hp : s.pq.pend.get p = []) : s.commitStamp p v = s.stamped p v :=
  (if_neg (Nat.not_le.mpr hv)).trans (if_pos ⟨ht, by simp [hp]⟩)

theorem State.stamped_only (v : Nat) : Keeps 0x200105 s (s.stamped p v) :=
  State.raiseMhz_keeps _ _ (State.set64_keeps (State.updPq_keeps (.refl _ s) _) _ _ _)

theorem State.stamped_pq (v : Nat) : (s.stamped p v).pq =
    { s.pq with lastStamp := s.pq.lastStamp.set p v, rose := (s.stamped p v).pq.rose } := State.raiseMhz_pq v

/-- A stamp that commits writes the two horizons of its port (R97, R101). -/
theorem State.stamped_regs (v : Nat) :
    (s.stamped p v).regs = ((s.setLhz p v).set64 (PQ_MHZ_LO_HZ p.num) (PQ_MHZ_HI_HZ p.num) v).regs := State.raiseMhz_regs v

section
variable {v : Nat} (hw : Store.wf 0 s.regs = true) (hv : v < 2 ^ 64)
include hw hv

theorem State.stamped_lhz : (s.stamped p v).lhz p = v := by
  refine (State.get64_of_regs (State.stamped_regs v)).trans ((State.get64_set64_ne ?_ ?_ ?_ ?_ v).trans
    (State.get64_set64 hw ?_ rfl rfl hv)) <;> cases p <;> decide

theorem State.stamped_mhz : (s.stamped p v).mhz p = v := by
  refine (State.get64_of_regs (State.stamped_regs v)).trans (State.get64_set64 (State.wf_set64 hw _ _ v) ?_ rfl rfl hv)
  cases p <;> decide

end

theorem State.stamped_session (v : Nat) : (s.stamped p v).get MTX_STATUS_SESSION = s.get MTX_STATUS_SESSION := by
  refine (State.get_of_regs (State.stamped_regs v) _).trans
    ((State.get_set64_ne ?_ ?_ v).trans (State.get_set64_ne ?_ ?_ v)) <;> cases p <;> decide

theorem State.sendStamp_alone {v tail : Nat} (h : s.get MTX_STATUS_SESSION = 0) : s.sendStamp p v tail = s :=
  if_neg (by simp [State.sessionUp, h])

theorem execStampHiWrite_own {hi : Word} {lo : Option Word} (h : s.answers p.agent = true) :
    execStampHiWrite p.agent p hi lo s =
      if s.bit PQ_STATUS_HZ_FROZEN then .next (s.takeLow p)
      else if s.pq.lastStamp.get p < s.formed p hi lo then
        .next (((s.takeLow p).commitStamp p (s.formed p hi lo)).sendStamp p (s.formed p hi lo) s.pq.lastMirror)
      else .next ((s.takeLow p).commitStamp p (s.formed p hi lo)) :=
  (State.if_answers h _ _).trans (if_neg (not_not.mpr rfl))

theorem execStampHiWrite_newer {hi : Word} {lo : Option Word} (h : s.answers p.agent = true)
    (hz : ¬s.bit PQ_STATUS_HZ_FROZEN = true) (hv : s.pq.lastStamp.get p < s.formed p hi lo) :
    execStampHiWrite p.agent p hi lo s =
      .next (((s.takeLow p).commitStamp p (s.formed p hi lo)).sendStamp p (s.formed p hi lo) s.pq.lastMirror) :=
  (execStampHiWrite_own h).trans ((if_neg hz).trans (if_pos hv))

/-- A stamp that is not newer is counted as stale (R97). -/
theorem execStampHiWrite_stale {hi : Word} {lo : Option Word} (h : s.answers p.agent = true)
    (hz : ¬s.bit PQ_STATUS_HZ_FROZEN = true) (hv : s.formed p hi lo ≤ s.pq.lastStamp.get p) :
    execStampHiWrite p.agent p hi lo s = .next ((s.takeLow p).count (PQ_STALE_COUNT p.num) 1) :=
  (execStampHiWrite_own h).trans ((if_neg hz).trans ((if_neg (Nat.not_lt.mpr hv)).trans (congrArg _ (if_pos hv))))

theorem execStampHiWrite_foreign {g : Agent} {hi : Word} {lo : Option Word} (h : s.answers g = true) (hg : g ≠ p.agent) :
    execStampHiWrite g p hi lo s = .next (s.stampForeign g) := (State.if_answers h _ _).trans (if_pos hg)

theorem execStampLoWrite_foreign {g : Agent} {w : Word} (h : s.answers g = true) (hg : g ≠ p.agent) :
    execStampLoWrite g p w s = .next (s.stampForeign g) := (State.if_answers h _ _).trans (if_neg hg)

/-- A host's foreign write is counted at its own port and recorded (R96). -/
theorem State.stampForeign_host (q : Port) :
    s.stampForeign q.agent = (s.count (PQ_STALE_COUNT q.num) 1).event 0x0201 (srcPort q) := by
  rw [State.stampForeign, Port.agent_port]

end

/-- Settles O13: each clause by the branch of the write that its premises name, the commit by what `stamped` writes. -/
theorem stampsAndPersistentFlush : Obligations.StampsAndPersistentFlush := by
  unfold Obligations.StampsAndPersistentFlush
  refine ⟨fun p v s h => (State.if_answers h _ _).trans (if_pos rfl),
    fun p hi lo s h hz => (execStampHiWrite_own h).trans (if_pos hz),
    fun p hi lo s h hz hv => execStampHiWrite_stale (lo := some lo) h (by simp [hz]) hv,
    fun p hi s h hw hz hs hv hlo ht hp => ?commits, fun p q v lo s h hpq => ?foreign, fun p s h => if_neg (by simp [h]), ?is⟩
  case commits =>
    have newer : (s.takeLow p).pq.lastStamp.get p < s.formed p hi none := hv
    have e := execStampHiWrite_newer h (by simp [hz]) newer
    have alone : ((s.takeLow p).stamped p (s.formed p hi none)).get MTX_STATUS_SESSION = 0 :=
      (State.stamped_session _).trans hs
    rw [State.commitStamp_newer newer ht hp, State.sendStamp_alone alone] at e
    have h64 : s.formed p hi none < 2 ^ 64 := by
      have := hi.isLt
      simp only [State.formed]
      omega
    have k : Keeps 0x200105 s ((s.takeLow p).stamped p (s.formed p hi none)) :=
      (State.updPq_keeps (.refl _ s) _).trans (State.stamped_only _)
    refine ⟨_, e, ?_, ?_, State.stamped_lhz hw h64, State.stamped_mhz hw h64, ?_, ?_, k.cch rfl, k.vlt rfl, k.mbx rfl⟩ <;>
      rw [State.stamped_pq] <;> rfl
  case foreign =>
    have hq : q.agent ≠ p.agent := fun e => hpq (Port.agent_injective e).symm
    have hs : Agent.stw ≠ p.agent := by cases p <;> decide
    rw [← State.stampForeign_host]
    exact ⟨execStampHiWrite_foreign h hq, execStampLoWrite_foreign h hq, execStampHiWrite_foreign rfl hs,
      execStampLoWrite_foreign rfl hs⟩
  case is =>
    intro g p hi lo s h hg hz hv
    obtain rfl : g = p.agent := not_not.mp hg
    exact execStampHiWrite_newer (by simpa using h) hz hv

end Sys2Proof.Machine
end

section
/-! PROOFS. The memory device mailbox of each port (R106, R455). -/

set_option Elab.async false

namespace Sys2Proof.Machine

section
variable {s : State}

/-- An event of a block that the logs do not mirror leaves the mailbox alone (R106). -/
theorem State.eventWith_mbx {code : Nat} (h : ¬(2 ≤ code / 256 ∧ code / 256 ≤ 4)) (src n : Nat) (l : List Nat) (b : Bool) :
    (s.eventWith code src n l b).mbx = s.mbx := by
  unfold State.eventWith
  extract_lets s1 s2 s3 hit s4
  have k3 : Keeps 0x20000C s2 s3 := State.pldmEvent_keeps _ (.refl _ s2)
  have k4 : Keeps 0x20000C s2 s4 := State.updEvr_keeps k3 _ fun _ h => h
  exact ((State.raiseAll_keeps _ k4).mbx rfl).trans (if_neg h)

/-- The wall clock's event is none of the mailbox's (R106, R455). -/
theorem State.wallTime_mbx (sec : Nat) : (s.wallTime sec).mbx = s.mbx := by
  unfold State.wallTime
  split
  · rfl
  · exact State.eventWith_mbx (by decide) _ _ _ _

end

/-- Settles O14: each clause is the answering branch of its command. That the mailbox answers on a link of any speed and that
CLEAR_EVENT_RECORDS clears by handle are the model's choices (log entries 31 and 33). -/
theorem memoryDeviceMailbox : Obligations.MemoryDeviceMailbox := by
  unfold Obligations.MemoryDeviceMailbox
  refine ⟨fun p s h => ⟨_, State.if_answers h _ _⟩, fun p s h => ⟨_, State.if_answers h _ _⟩,
    fun p v s h => ⟨State.if_answers h _ _, State.if_answers h _ _⟩,
    fun p s h => ⟨⟨_, State.if_answers h _ _⟩, ⟨_, State.if_answers h _ _⟩, _, State.if_answers h _ _⟩,
    fun p s h => State.if_answers h _ _, fun p s h => ⟨?clearAll, fun n => State.if_answers h _ _⟩,
    fun p ns s h => ⟨State.if_answers h _ _, ?setTime⟩, fun p op s h => State.if_answers h _ _, fun p ns s h => if_neg h⟩
  case clearAll =>
    rw [← List.filter_false (s.mbx.log.get p)]
    exact State.if_answers h _ _
  case setTime =>
    have k (u : State) : Keeps 0x20020D u (u.wallTime (ns.toNat / 1000000000)) := State.wallTime_keeps _ (.refl _ u)
    exact ⟨_, State.if_answers h _ _, State.wallTime_mbx _, ⟨_, rfl⟩, (k _).pq rfl, (k _).cch rfl, (k _).glb rfl⟩

end Sys2Proof.Machine
end

section
/-! PROOFS. The DRAM cache: reads, flushes and scrub (R115 to R132). -/

set_option Elab.async false

namespace Sys2Proof.Machine

section
variable {s : State}

/-! ## Reads -/

/-- A line of a lost rank reads as uncorrectable, whatever it meets (R386). -/
theorem State.dramRead_lost {la : Nat} (err : Codeword) (h : s.lineLost la = true) :
    s.dramRead la err = (.uncorrectable, s) := by
  unfold State.lineLost at h
  split at h
  · next n hn => simp [State.dramRead, State.readCell, hn, h]
  · nomatch h

end

/-- Settles O15: the line code's round trip on a rank that answers, and the outcome of a rank that is lost. -/
theorem dramLinesReadBackAsStored : Obligations.DramLinesReadBackAsStored :=
  ⟨fun _ _ h => State.dramRead_stored h, fun _ _ err h => State.dramRead_lost err h⟩

section
variable {s : State}

theorem State.retireRequest_lines (n : Nat) : (s.retireRequest n).cch.lines = s.cch.lines := by
  unfold State.retireRequest State.retireRefuse
  split
  · simp
  · split
    · simp [State.draw]
    · rfl

theorem State.flagRank_lines (n : Nat) : (s.flagRank n).cch.lines = s.cch.lines := by
  unfold State.flagRank
  extract_lets s1 s2 s3
  have h3 : s3.cch = s.cch := by unfold s3; split <;> simp [s2, s1]
  split
  · rw [State.retireRequest_lines, h3]
  · rw [h3]

theorem State.countCe_lines (n : Nat) (dev : Option Nat) : (s.countCe n dev).cch.lines = s.cch.lines := by
  unfold State.countCe
  extract_lets s1 r r' s2 thr run n1 new hit
  split
  · exact State.flagRank_lines n
  · rfl

/-- A read changes no stored line: what it corrects is written back as it stands (R118). -/
theorem State.dramRead_lines (la : Nat) (err : Codeword) : (s.dramRead la err).2.cch.lines = s.cch.lines := by
  unfold State.dramRead State.readCell
  extract_lets lost o count
  have hcount (ps : List Nat) : (count ps).cch.lines = s.cch.lines := by
    unfold count
    split
    · rfl
    · split
      · exact State.countCe_lines _ _
      · rfl
  clear_value o
  cases o with
  | good | uncorrectable => rfl
  | corrected _ ps | poison _ ps => exact hcount ps

theorem execDramReadComplete_clean {la : BitVec 40} (h : s.lineLost la.toNat = false) :
    execDramReadComplete la 0 s = .next (s.dramMove 64) := by
  unfold execDramReadComplete
  rw [State.dramRead_stored ((State.lineLost_dramMove 64 _).trans h)]
  unfold LineCell.outcome
  split <;> rfl

theorem execDramReadComplete_next (la : BitVec 40) (err : Codeword) : ∃ t, execDramReadComplete la err s = .next t := by
  unfold execDramReadComplete
  extract_lets r
  split <;> exact ⟨_, rfl⟩

/-! ## Flushes -/

/-- An entry's flush may issue: the entry has not issued, it is the first such one of its line, no other share holds an older entry of
its bucket, and the mover of its tile has room (R124, R346, R352). -/
def State.FlushMay (s : State) (e : QEntry) : Prop :=
  e.issued = false ∧ (s.entriesOf e.line).find? (fun x => !x.issued) = some e ∧ s.oldShare e = false ∧ s.moverBusy e.tile < 64

/-- The state that the flush of an entry meets: under the image of its issue beat, and in DRAIN with its granule fetched (R49, R282). -/
def State.flushBase (s : State) (e : QEntry) : State :=
  let u := s.underBeat (s.issueBeat fun k => k.ty = 1 && k.arg0 = e.id)
  if s.glb.st = .drain ∧ s.unrest (e.line / 64) then u.fetchDone (e.line / 64) else u

/-- The flush meets a granule that is not restored, on a line that the overlay does not hold (R277). -/
def State.flushFar (s : State) (e : QEntry) : Bool :=
  (s.flushBase e).unrest (e.line / 64) && !(s.flushBase e).inDram e.line

/-- The flush of an entry whose line can be written (R121, R124, R277, R348). -/
def State.flushed (s : State) (e : QEntry) (err : Codeword) (tsBad : Bool) (tsFix : BitVec 6) : State :=
  let s1 := if s.flushFar e then (s.flushBase e).queueFetch (e.line / 64) else s.flushBase e
  let s2 := if tsBad then s1.flushBad e else s1.flushLine e err
  let s3 := (((s2.count (TIL_TSERR_CORR e.tile) tsFix.toNat).dramMove e.flushBytes).markDirty (e.line / 64)).setQEntry
    { e with issued := true, sent := e.sent || tsBad, placed := s.glb.beat }
  let s4 := if s3.unrest (e.line / 64) then s3.overlayLine e.line else s3
  ((s4.restoreImage s.sti.active).retireTask fun k => k.ty = 1 && k.arg0 = e.id).drainAdvance

variable {id : BitVec 48} {e : QEntry} {err : Codeword} {tsBad : Bool} {tsFix : BitVec 6}

theorem execIngestFlush_none (h : s.qEntry id.toNat = none) : execIngestFlush id err tsBad tsFix s = .next s := by
  simp only [execIngestFlush, h]

theorem State.flushMay_iff : s.FlushMay e ↔
    ¬(e.issued ∨ ((s.entriesOf e.line).find? fun x => !x.issued) ≠ some e ∨ s.oldShare e ∨ 64 ≤ s.moverBusy e.tile) := by
  simp [State.FlushMay]

theorem execIngestFlush_waits (h : s.qEntry id.toNat = some e) (hm : ¬s.FlushMay e) :
    execIngestFlush id err tsBad tsFix s = .next s := by
  simp only [execIngestFlush, h]
  exact if_pos (not_not.mp (mt State.flushMay_iff.mpr hm))

/-- A flush that may issue fetches the granule first, or waits for room in the overlay, or writes the line (R277). -/
theorem execIngestFlush_may (h : s.qEntry id.toNat = some e) (hm : s.FlushMay e) :
    execIngestFlush id err tsBad tsFix s =
      if s.flushFar e ∧ !(tsBad || e.mask = fullMask) then
        .next (((s.flushBase e).queueFetch (e.line / 64)).restoreImage s.sti.active)
      else if s.flushFar e ∧ !(s.flushBase e).overlayRoom (e.line / 64) then .next ((s.flushBase e).restoreImage s.sti.active)
      else .next (s.flushed e err tsBad tsFix) := by
  simp only [execIngestFlush, h]
  exact if_neg (State.flushMay_iff.mp hm)

theorem execIngestFlush_next (h : s.qEntry id.toNat = some e) (hm : s.FlushMay e) :
    ∃ t, execIngestFlush id err tsBad tsFix s = .next t := by
  rw [execIngestFlush_may h hm]
  split
  · exact ⟨_, rfl⟩
  · split <;> exact ⟨_, rfl⟩

/-! ## A full line on a restored granule -/

/-- A write puts its line, whatever else it changes (R119, R123, R132). -/
theorem State.writeLine_lines (la : Nat) (c : LineCell) :
    (s.writeLine la c).cch.lines = Store.put LineCell.zero s.cch.lines la c := by
  unfold State.writeLine
  extract_lets g both dual s0 s1 any
  have h1 : s1.cch.lines = Store.put LineCell.zero s.cch.lines la c := by
    unfold s1 s0
    cases dual <;> rfl
  split <;> exact h1

theorem State.writeLine_unrest (la : Nat) (c : LineCell) : (s.writeLine la c).cch.unrest = s.cch.unrest := by
  unfold State.writeLine
  extract_lets g both dual s0 s1 any
  have h1 : s1.cch.unrest = s.cch.unrest := by
    unfold s1 s0
    cases dual <;> rfl
  split <;> exact h1

/-- Of the cache a mark changes the entry of its granule only (R124). -/
theorem State.markDirty_cch (g : Nat) :
    (s.markDirty g).cch = (s.setEntry g { s.entry g with dirty := true, wsince := true }).cch := by
  unfold State.markDirty
  extract_lets e s1
  split <;> rfl

/-- A map entry that is not the empty one reads back after it is written, in any table. -/
theorem State.entry_setEntry {g : Nat} {m : MapEntry} (h : m ≠ MapEntry.none) : (s.setEntry g m).entry g = m := by
  unfold State.entry State.setEntry Store.put
  simp only [State.updCch_cch]
  rw [if_neg h, Store.get_insert, if_pos rfl]

theorem State.entry_of_cch {t : State} (h : t.cch = s.cch) (g : Nat) : t.entry g = s.entry g := by
  unfold State.entry
  rw [h]

/-- A flush leaves its granule dirty (R124). -/
theorem State.markDirty_dirty (g : Nat) : ((s.markDirty g).entry g).dirty = true := by
  rw [State.entry_of_cch (State.markDirty_cch g), State.entry_setEntry fun h => nomatch (congrArg MapEntry.dirty h : true = false)]

/-- An entry replaced by one of its number is found under that number. -/
theorem State.qEntry_setQEntry {n : Nat} {x : QEntry} (h : s.qEntry n = some e) (hx : x.id = e.id) :
    (s.setQEntry x).qEntry n = some x := by
  have key : ((fun y : QEntry => decide (y.id = n)) ∘ fun y => if y.id = x.id then x else y) = fun y => decide (y.id = n) := by
    funext y
    by_cases hy : y.id = x.id <;> simp [hy]
  unfold State.qEntry State.setQEntry
  simp only [State.updPq_pq]
  rw [List.find?_map, key]
  unfold State.qEntry at h
  simp [h, hx]

theorem State.qEntry_of_pq {t : State} (h : t.pq = s.pq) (n : Nat) : t.qEntry n = s.qEntry n := by
  unfold State.qEntry
  rw [h]

theorem State.drainAdvance_idle (h : s.glb.st ≠ .drain) : s.drainAdvance = s := if_pos h

theorem State.flushBase_restored (hs : s.glb.st ≠ .drain) :
    s.flushBase e = s.underBeat (s.issueBeat fun k => k.ty = 1 && k.arg0 = e.id) := if_neg fun h => hs h.1

/-- The flush of a full line of a restored granule, up to the mark on its entry (R121, R124). -/
def State.flushFull (s : State) (e : QEntry) (tsFix : BitVec 6) : State :=
  ((((s.flushBase e).writeLine e.line ⟨e.data, e.poison⟩).count (TIL_TSERR_CORR e.tile) tsFix.toNat).dramMove
    e.flushBytes).markDirty (e.line / 64)

section
variable (hs : s.glb.st ≠ .drain)
include hs

theorem State.flushFull_keeps : Keeps 0x40811 s (s.flushFull e tsFix) := by
  unfold State.flushFull
  rw [State.flushBase_restored hs]
  exact State.markDirty_keeps _ (State.dramMove_keeps _ (State.count_keeps (State.writeLine_keeps _ _
    (State.underBeat_keeps _ (.refl _ s))) _ _))

theorem State.flushFull_lines :
    (s.flushFull e tsFix).cch.lines = Store.put LineCell.zero s.cch.lines e.line ⟨e.data, e.poison⟩ := by
  unfold State.flushFull
  rw [State.markDirty_cch, State.flushBase_restored hs]
  exact State.writeLine_lines _ _

theorem State.flushFull_unrest (g : Nat) : (s.flushFull e tsFix).unrest g = s.unrest g := by
  unfold State.flushFull State.unrest
  rw [State.markDirty_cch, State.flushBase_restored hs]
  exact congrArg (inRanges · g) (State.writeLine_unrest _ _)

variable (hu : s.unrest (e.line / 64) = false)
include hu

theorem State.flushFar_restored : s.flushFar e = false := by
  unfold State.flushFar
  rw [State.flushBase_restored hs]
  exact Bool.and_eq_false_imp.mpr fun h => absurd (hu.symm.trans h) Bool.false_ne_true

theorem State.flushed_full (hm : e.mask = fullMask) :
    s.flushed e err false tsFix = (((s.flushFull e tsFix).setQEntry { e with issued := true, placed := s.glb.beat }).restoreImage
      s.sti.active).retireTask fun k => k.ty = 1 && k.arg0 = e.id := by
  unfold State.flushed
  extract_lets s1 s2 s3 s4
  have h3 : s3 = (s.flushFull e tsFix).setQEntry { e with issued := true, placed := s.glb.beat } := by
    unfold s3 s2 s1
    rw [State.flushFar_restored hs hu, Bool.or_false]
    unfold State.flushLine
    simp only [hm]
    rfl
  have h4 : s4 = s3 := if_neg (by
    rw [h3]
    exact ne_true_of_eq_false ((State.flushFull_unrest hs _).trans hu))
  have k : Keeps 0x1110 (s.flushFull e tsFix) ((s4.restoreImage s.sti.active).retireTask fun k => k.ty = 1 && k.arg0 = e.id) := by
    rw [h4, h3]
    exact State.retireTask_keeps _ (State.restoreImage_keeps _ (State.setQEntry_keeps _ (.refl _ _)))
  have glb := (k.glb rfl).trans ((State.flushFull_keeps hs).glb rfl)
  rw [State.drainAdvance_idle (by rwa [glb]), h4, h3]

/-- The flush of a full line of a restored granule: the line holds the entry's data and poison, no other line changes, the granule is
dirty, and the entry has issued in this beat (R121, R124). -/
theorem State.flushed_full_after {n : Nat} (hm : e.mask = fullMask) (hq : s.qEntry n = some e)
    (hw : Store.wf LineCell.zero s.cch.lines = true) {t : State} (ht : s.flushed e err false tsFix = t) :
    t.line e.line = ⟨e.data, e.poison⟩ ∧ (∀ la, la ≠ e.line → t.line la = s.line la) ∧
      (t.entry (e.line / 64)).dirty = true ∧ t.qEntry n = some { e with issued := true, placed := s.glb.beat } := by
  rw [State.flushed_full hs hu hm] at ht
  have k : Keeps 0x1010 ((s.flushFull e tsFix).setQEntry { e with issued := true, placed := s.glb.beat }) t :=
    ht ▸ State.retireTask_keeps _ (State.restoreImage_keeps _ (.refl _ _))
  have hcch : t.cch = (s.flushFull e tsFix).cch := k.cch rfl
  have hlines : t.cch.lines = _ := (congrArg Cch.lines hcch).trans (State.flushFull_lines hs)
  refine ⟨?_, fun la hla => ?_, ?_, ?_⟩
  · rw [State.line, hlines, Store.get_put_same hw]
  · rw [State.line, hlines, Store.get_put_ne hla.symm, State.line]
  · rw [State.entry_of_cch hcch]
    exact State.markDirty_dirty _
  · have hf : (s.flushFull e tsFix).qEntry n = some e := (State.qEntry_of_pq ((State.flushFull_keeps hs).pq rfl) n).trans hq
    exact (State.qEntry_of_pq (k.pq rfl) n).trans (State.qEntry_setQEntry hf rfl)

end

/-! ## Completions of a flush -/

theorem execIngestWriteComplete_none {dead : Bool} (h : s.qEntry id.toNat = none) :
    execIngestWriteComplete id dead s = .next s := by
  simp only [execIngestWriteComplete, h]

theorem execIngestWriteComplete_idle {dead : Bool} (h : s.qEntry id.toNat = some e) (hi : e.issued = false ∨ e.flushed = true) :
    execIngestWriteComplete id dead s = .next s := by
  simp only [execIngestWriteComplete, h]
  exact if_pos (by simpa using hi)

/-- Outside DRAIN a completion shows the entry flushed, and entries flushed and sent leave (R78). -/
theorem execIngestWriteComplete_due {dead : Bool} (h : s.qEntry id.toNat = some e) (hi : e.issued = true) (hf : e.flushed = false)
    (hs : s.glb.st ≠ .drain) :
    execIngestWriteComplete id dead s = .next (s.setQEntry { e with flushed := true }).freeEntries := by
  simp only [execIngestWriteComplete, h]
  refine (if_neg (by simp [hi, hf])).trans ((if_neg fun hd => hs hd.2).trans ?_)
  exact congrArg _ (State.drainAdvance_idle hs)

/-! ## Scrub -/

variable {first : BitVec 40} {count : BitVec 32} {copy : Bool} {errs : List Codeword}

theorem execScrub_outside (h : s.glb.st ≠ .serve) : execScrub first count copy errs s = .next s := if_pos h

/-- A copying SCRUB at the line that the copy has come to takes one copy step per line (R132). -/
theorem execScrub_copy (h : s.glb.st = .serve) {r : Retire} (hr : s.cch.ret = some r)
    (ha : (s.underBeat (s.issueBeat fun k => k.ty = 7)).copyAt r = first.toNat) :
    execScrub first count true errs s = .next (((((List.range count.toNat).map fun i => errs.getD i 0).foldl State.copyStep
      (s.underBeat (s.issueBeat fun k => k.ty = 7))).restoreImage s.sti.active).retireTask fun k => k.ty = 7) := by
  refine (if_neg (not_not.mpr h)).trans ((if_pos rfl).trans ?_)
  simp only [hr]
  exact if_pos ha

theorem execScrub_noCopy (h : s.glb.st = .serve) (hr : s.cch.ret = none) : execScrub first count true errs s = .next s := by
  refine (if_neg (not_not.mpr h)).trans ((if_pos rfl).trans ?_)
  simp only [hr]

theorem execScrub_off (h : s.glb.st = .serve) (hp : s.get CCH_SCRUB_PASS_HOURS = 0) :
    execScrub first count false errs s = .next (s.setB CCH_STATUS_SCRUB_OFF true) :=
  (if_neg (not_not.mpr h)).trans ((if_neg Bool.false_ne_true).trans (if_pos hp))

/-- A patrol takes one step per line (R128). -/
theorem execScrub_patrol (h : s.glb.st = .serve) (hp : s.get CCH_SCRUB_PASS_HOURS ≠ 0) :
    execScrub first count false errs s =
      .next (((List.range count.toNat).foldl (fun v i => v.patrolStep (first.toNat + i) (errs.getD i 0))
        ((s.underBeat (s.issueBeat fun k => k.ty = 7)).setB CCH_STATUS_SCRUB_OFF false)).restoreImage s.sti.active |>.retireTask
          fun k => k.ty = 7) :=
  (if_neg (not_not.mpr h)).trans ((if_neg Bool.false_ne_true).trans (if_neg hp))

theorem execScrub_next (first : BitVec 40) (count : BitVec 32) (copy : Bool) (errs : List Codeword) (s : State) :
    ∃ t, execScrub first count copy errs s = .next t := by
  unfold execScrub
  extract_lets u es t
  split
  · exact ⟨_, rfl⟩
  · split
    · split
      · split <;> exact ⟨_, rfl⟩
      · exact ⟨_, rfl⟩
    · split <;> exact ⟨_, rfl⟩

end

/-- Settles O32: each clause is a branch of its command, the frames by what each command keeps. -/
theorem readsFlushesAndScrub : Obligations.ReadsFlushesAndScrub := by
  unfold Obligations.ReadsFlushesAndScrub
  refine ⟨fun la s h => execDramReadComplete_clean h, fun la err s => ?read, fun id err b f s h => ?flushNo,
    fun id err b f s e h hi hf ho hb => ?flush, fun id s e h hi hm hf hs hd ho hb hu hw => ?flushed, fun id s h b => ?doneNo,
    fun id b s e h hi hf hs => execIngestWriteComplete_due h hi hf hs, fun f n c l s h => execScrub_outside h,
    fun f n l s h hr => execScrub_noCopy h hr, fun f n l s h hp => execScrub_off h hp, fun f n c l s h => ?scrub,
    fun id err b f s e h hm hp ho => ?flushIs, fun f n c l s h hc hp => ?patrolIs, fun f n c l s r h hc hr ha => ?copyIs⟩
  case read =>
    obtain ⟨t, ht⟩ := execDramReadComplete_next (s := s) la err
    have k : Keeps 0x241A0F s t := execDramReadComplete_keeps la err (.refl _ s) rfl t ht
    exact ⟨t, ht, k.sti rfl, k.cfl rfl, k.dge rfl, k.stw rfl, k.pq rfl, k.hp rfl, k.ldg rfl, k.ctl rfl, k.seq rfl, k.drn rfl,
      k.vlt rfl, k.mlk rfl, k.mtx rfl, State.dramRead_lines _ _⟩
  case flushNo =>
    obtain h | ⟨e, h, hn⟩ := h
    · exact execIngestFlush_none h
    · refine execIngestFlush_waits h fun ⟨hi, hf, ho, hb⟩ => ?_
      obtain hn | hn | hn | hn := hn
      · exact absurd (hn.symm.trans hi) (by decide)
      · exact hn hf
      · exact absurd (hn.symm.trans ho) (by decide)
      · exact absurd hb (Nat.not_lt.mpr hn)
  case flush =>
    obtain ⟨t, ht⟩ := execIngestFlush_next (err := err) (tsBad := b) (tsFix := f) h ⟨hi, hf, ho, hb⟩
    have k : Keeps 0x379B1F s t := execIngestFlush_keeps id err b f (.refl _ s) rfl t ht
    exact ⟨t, ht, k.cfl rfl, k.dge rfl, k.stw rfl, k.hp rfl, k.ldg rfl, k.ctl rfl, k.mlk rfl⟩
  case flushed =>
    have far := State.flushFar_restored hs hu
    refine ⟨_, (execIngestFlush_may h ⟨hi, hf, ho, hb⟩).trans ((if_neg ?_).trans (if_neg ?_)),
      State.flushed_full_after hs hu hm h hw rfl⟩ <;> simp [far]
  case doneNo =>
    obtain h | ⟨e, h, hi⟩ := h
    · exact execIngestWriteComplete_none h
    · exact execIngestWriteComplete_idle h hi
  case scrub =>
    obtain ⟨t, ht⟩ := execScrub_next f n c l s
    have k : Keeps 0x241A1F s t := execScrub_keeps f n c l (.refl _ s) rfl t ht
    exact ⟨t, ht, k.cfl rfl, k.dge rfl, k.stw rfl, k.pq rfl, k.hp rfl, k.ldg rfl, k.ctl rfl, k.seq rfl, k.drn rfl, k.vlt rfl,
      k.mlk rfl, k.mtx rfl, k.op rfl⟩
  case flushIs =>
    exact (execIngestFlush_may h (State.flushMay_iff.mpr hm)).trans ((if_neg hp).trans (if_neg ho))
  case patrolIs =>
    obtain rfl := Bool.eq_false_of_not_eq_true hc
    exact execScrub_patrol (not_not.mp h) hp
  case copyIs =>
    subst hc
    exact execScrub_copy (not_not.mp h) hr ha

end Sys2Proof.Machine
end

section
/-! PROOFS. The vault's tasks: trickle, fulling, parity and checkpoints (R125, R157, R243, R251, R256, R257). -/

set_option Elab.async false

namespace Sys2Proof.Machine

section
variable {s : State} {g : BitVec 40} {f : InFlight}

/-! ## What the log's writes leave of lines and flights -/

theorem State.setVloc_lines (n v c : Nat) : (s.setVloc n v c).cch.lines = s.cch.lines := by
  unfold State.setVloc State.touchPiece
  split <;> rfl

theorem State.reissue_lines (s : State) (v : Nat) (r : SlotRead) : (s.reissue v r).cch.lines = s.cch.lines := by
  unfold State.reissue
  extract_lets w n mv mv1 s1
  have h1 : s1.cch = s.cch := (State.writeSlot_keeps _ _ _ _ _ _ (.refl 0x22120D s)).cch rfl
  split
  · exact congrArg Cch.lines h1
  · split
    · exact (State.setVloc_lines _ _ _).trans (congrArg Cch.lines h1)
    · exact congrArg Cch.lines h1

theorem State.flushReissue_lines : s.flushReissue.cch.lines = s.cch.lines := by
  unfold State.flushReissue
  extract_lets due got keys
  exact foldl_eq_of_step (f := fun t : State => t.cch.lines) (fun t (x : Nat × SlotRead) => t.reissue_lines x.1 x.2) _ _

theorem State.openBand_inflight (blk : Nat) : (s.openBand blk).vlt.inflight = s.vlt.inflight := by
  unfold State.openBand
  extract_lets mods holes b s1 page s2
  have h2 : s2.vlt.inflight = s1.vlt.inflight := by
    refine foldl_eq_of_step (f := fun t : State => t.vlt.inflight) (fun t x => ?_) _ _
    rfl
  rw [(State.showSpace_keeps (.refl 0x20020D _)).vlt rfl]
  exact h2

theorem State.roomy_inflight : s.roomy.vlt.inflight = s.vlt.inflight := by
  unfold State.roomy
  split
  · split
    · rfl
    · split
      · rfl
      · exact State.openBand_inflight _
  · split
    · rfl
    · exact State.openBand_inflight _

theorem State.writeSlot_inflight (ty flags pline key aux : Nat) (plain : List Byte) :
    (s.writeSlot ty flags pline key aux plain).2.vlt.inflight = s.vlt.inflight := by
  unfold State.writeSlot
  extract_lets u
  have hu : u.vlt.inflight = s.vlt.inflight := State.roomy_inflight
  split
  · exact hu
  · extract_lets x v d e at_ per rowEnd s1 s2
    have h1 : s1.vlt.inflight = s.vlt.inflight := hu
    have h2 : s2.vlt = s1.vlt :=
      (Keeps.ite (fun _ => State.enqueue_keeps _ _ _ _ _ _ _ (.refl 0x1001 s1)) fun _ => .refl _ s1).vlt rfl
    exact (congrArg Vlt.inflight h2).trans h1

theorem State.writeTags_inflight (b : Band) (n : Nat) : (s.writeTags b n).vlt.inflight = s.vlt.inflight := by
  unfold State.writeTags
  split
  · rfl
  · exact State.writeSlot_inflight _ _ _ _ _ _

/-- Tag tables are written at once: none of them is in flight afterwards (R248). -/
theorem State.tagAll_inflight (whole : Bool) : (s.tagAll whole).vlt.inflight = s.vlt.inflight := by
  unfold State.tagAll
  refine foldl_eq_of_step (f := fun t : State => t.vlt.inflight) (fun t x => ?_) _ _
  split
  · exact State.writeTags_inflight _ _
  · rfl

/-! ## Trickle -/

theorem execTrickle_idle (h : s.trickleMay g.toNat = false) : execTrickle g s = .next s := if_pos (by simp [h])

/-- A trickle that is due and within its pace (R125, R148, R256). -/
def State.trickleTask (s : State) (n : Nat) : State :=
  let u := (s.dramAsk 4 4096).underBeat (s.issueBeat fun k => k.ty = 3 && k.arg0 ≤ n && n < k.arg0 + k.count)
  ((u.trickle n).restoreImage s.sti.active).retireTask fun k => k.ty = 3 && k.arg0 + k.count = n + 1

theorem execTrickle_due (hm : ¬(!s.trickleMay g.toNat || !s.tricklePace g.toNat) = true) (hd : ¬(!s.dramMay 4 4096) = true) :
    execTrickle g s = .next (s.trickleTask g.toNat) := (if_neg hm).trans (if_neg hd)

/-- Of the cache a trickle changes the entry of its granule only (R125). -/
theorem State.trickle_cch (n : Nat) :
    (s.trickle n).cch = (s.setEntry n { s.entry n with wsince := false, trk := true }).cch :=
  (State.writeGranule_keeps n 0 (.refl 0x22120D _)).cch rfl

/-- Of the cache a request for bandwidth changes what it counts only (R127). -/
theorem State.dramAsk_cch (k n : Nat) : (s.dramAsk k n).cch =
    { s.cch with load := (s.dramAsk k n).cch.load, asked := (s.dramAsk k n).cch.asked } := by
  unfold State.dramAsk
  extract_lets may s1
  split <;> rfl

theorem State.trickleTask_cch (n : Nat) :
    (s.trickleTask n).cch.map = (s.setEntry n { s.entry n with wsince := false, trk := true }).cch.map ∧
      (s.trickleTask n).cch.lines = s.cch.lines := by
  unfold State.trickleTask
  extract_lets u
  have hu : u.cch = { s.cch with load := u.cch.load, asked := u.cch.asked } := State.dramAsk_cch 4 4096
  have ht : (((u.trickle n).restoreImage s.sti.active).retireTask fun k => k.ty = 3 && k.arg0 + k.count = n + 1).cch =
      (u.setEntry n { u.entry n with wsince := false, trk := true }).cch :=
    ((State.retireTask_keeps _ (State.restoreImage_keeps _ (.refl 0x1010 (u.trickle n)))).cch rfl).trans (State.trickle_cch n)
  rw [ht]
  unfold State.entry
  simp only [State.setEntry, State.updCch_cch]
  rw [hu]
  exact ⟨rfl, rfl⟩

/-! ## Completions of a trickle and of a copy -/

theorem execTrickleWriteComplete_none (h : s.vlt.inflight.find? (fun f => f.kind = 0 && f.granule = g.toNat) = none) :
    execTrickleWriteComplete g s = .next s := by
  simp only [execTrickleWriteComplete, h]

theorem execFullCopyComplete_none (h : s.vlt.inflight.find? (fun f => f.kind = 2 && f.granule = g.toNat) = none) :
    execFullCopyComplete g s = .next s := by
  simp only [execFullCopyComplete, h]

/-- The map entry of a granule whose trickle has been written (R125, R256). -/
def State.landEntry (s : State) (n : Nat) (f : InFlight) : State :=
  let s1 := (s.updVlt fun v => { v with inflight := v.inflight.erase f }).setVloc n f.vloc (s.classOf n)
  let s2 := s1.setEntry n { s1.entry n with trk := false }
  if (s2.entry n).wsince then s2 else s2.clean n

/-- A trickle has been written: its entry, the bytes of a rehearsal, tag tables and the space (R125, R157, R235, R248). -/
def State.trickleLanded (s : State) (n : Nat) (f : InFlight) : State :=
  let c := s.classOf n
  let s4 := (s.landEntry n f).updLdg fun l => { l with rehRun := l.rehRun.map fun r =>
    if c = (if r.cls = 3 then 4 else r.cls) then { r with bytes := r.bytes + 4096 } else r }
  (s4.tagAll true).showSpace

theorem execTrickleWriteComplete_lands (h : s.vlt.inflight.find? (fun f => f.kind = 0 && f.granule = g.toNat) = some f) :
    execTrickleWriteComplete g s = .next (s.trickleLanded g.toNat f) := by
  unfold execTrickleWriteComplete
  extract_lets n
  split
  case h_1 h0 => nomatch h0.symm.trans h
  case h_2 f' hf =>
    obtain rfl := Option.some.inj (hf.symm.trans h)
    rfl

theorem State.entry_setVloc {n : Nat} {m : MapEntry} (hm : s.entry n = m) (v c : Nat) :
    (s.setVloc n v c).entry n = { m with vloc := v, cls := some c } := by
  obtain rfl := hm
  have h : (s.setVloc n v c).cch = (s.setEntry n { s.entry n with vloc := v, cls := some c }).cch := by
    unfold State.setVloc State.touchPiece
    split <;> rfl
  rw [State.entry_of_cch h, State.entry_setEntry fun e => nomatch (congrArg MapEntry.cls e : some c = none)]

theorem State.landEntry_lines (n : Nat) : (s.landEntry n f).cch.lines = s.cch.lines := by
  unfold State.landEntry
  extract_lets s1 e1 s2
  have h2 : s2.cch.lines = s.cch.lines := State.setVloc_lines _ _ _
  split
  · exact h2
  · unfold State.clean
    extract_lets e
    split <;> exact h2

theorem State.clean_entry {n : Nat} {m : MapEntry} (hm : s.entry n = m) (hc : m.cls ≠ none) :
    (s.clean n).entry n = { m with dirty := false } := by
  obtain rfl := hm
  unfold State.clean
  extract_lets e
  split
  · exact State.entry_setEntry fun h => hc (congrArg MapEntry.cls h)
  · next hd =>
    show e = _
    rw [← Bool.eq_false_of_not_eq_true hd]

/-- The entry of a trickle that has been written holds the location, no TRK, and no DIRTY where no flush came between (R125). -/
theorem State.landEntry_entry {n : Nat} {m : MapEntry} (hm : s.entry n = m) : (s.landEntry n f).entry n =
    { m with vloc := f.vloc, cls := some (s.classOf n), trk := false, dirty := m.dirty && m.wsince } := by
  unfold State.landEntry
  extract_lets s1 e1 s2
  have h1 : s1.entry n = { m with vloc := f.vloc, cls := some (s.classOf n) } :=
    State.entry_setVloc (s := s.updVlt _) hm _ _
  have h2 : s2.entry n = { m with vloc := f.vloc, cls := some (s.classOf n), trk := false } := by
    unfold s2 e1
    rw [h1]
    exact State.entry_setEntry fun e => nomatch (congrArg MapEntry.cls e : some _ = none)
  split
  · next hw =>
    have hs : m.wsince = true := (congrArg MapEntry.wsince h2).symm.trans hw
    rw [h2, hs, Bool.and_true]
  · next hw =>
    have hs : m.wsince = false := (congrArg MapEntry.wsince h2).symm.trans (Bool.eq_false_of_not_eq_true hw)
    rw [State.clean_entry h2 (Option.some_ne_none _), hs, Bool.and_false]

/-- Tag tables and the space shown leave the cache alone. -/
theorem State.trickleLanded_cch (n : Nat) : (s.trickleLanded n f).cch = (s.landEntry n f).cch := by
  unfold State.trickleLanded
  extract_lets c s4
  exact (State.showSpace_keeps (State.tagAll_keeps true (State.updLdg_keeps (.refl 0x22320D (s.landEntry n f)) _))).cch rfl

/-- A copy of a granule has been written: the entry moves where it still holds the source (R257). -/
def State.copyEntry (s : State) (n : Nat) (f : InFlight) : State :=
  let s1 := s.updVlt fun v => { v with inflight := v.inflight.erase f }
  if (s1.entry n).vloc = f.src then s1.setVloc n f.vloc (s1.classOf n) else s1

theorem execFullCopyComplete_lands (h : s.vlt.inflight.find? (fun f => f.kind = 2 && f.granule = g.toNat) = some f) :
    execFullCopyComplete g s = .next (((s.copyEntry g.toNat f).tagAll true).showSpace.showStripe) := by
  unfold execFullCopyComplete
  split
  case h_1 h0 => nomatch h0.symm.trans h
  case h_2 f' hf =>
    obtain rfl := Option.some.inj (hf.symm.trans h)
    rfl

theorem State.setVloc_inflight (n v c : Nat) : (s.setVloc n v c).vlt.inflight = s.vlt.inflight := by
  unfold State.setVloc State.touchPiece
  split <;> rfl

theorem State.copyEntry_after (n : Nat) :
    ((s.copyEntry n f).entry n).vloc = (if (s.entry n).vloc = f.src then f.vloc else (s.entry n).vloc) ∧
      (s.copyEntry n f).vlt.inflight = s.vlt.inflight.erase f ∧ (s.copyEntry n f).cch.lines = s.cch.lines := by
  unfold State.copyEntry
  extract_lets s1
  split
  · next hv =>
    exact ⟨(congrArg MapEntry.vloc (State.entry_setVloc rfl _ _)).trans (if_pos hv).symm, State.setVloc_inflight _ _ _,
      State.setVloc_lines _ _ _⟩
  · next hv => exact ⟨(if_neg hv).symm, rfl, rfl⟩

/-! ## Fulling, parity, checkpoints and rehearsals -/

variable {bseq : BitVec 40} {count : BitVec 32} {row n : BitVec 16} {b : Band}

theorem execFull_noBand (h : s.band bseq.toNat = none) : execFull bseq count s = .next s := by
  simp only [execFull, h]

theorem execParity_noBand (h : s.band bseq.toNat = none) : execParity bseq row s = .next s := by
  simp only [execParity, h]

/-- Live granules of a victim band are copied, `n` of them (R257). -/
def State.fullTask (s : State) (b : Band) (n : Nat) : State :=
  let busy := fun (g : Nat) => s.vlt.inflight.any fun f => f.kind = 2 && f.granule = g
  let u := s.underBeat (s.issueBeat fun k => k.ty = 8 && k.arg0 = b.bseq)
  let s1 := (((s.liveGranules b).filter fun g => !busy g).take n |>.foldl State.relocate u).restoreImage s.sti.active
  (s1.retireTask fun k => k.ty = 8 && k.arg0 = b.bseq).showSpace.showStripe

theorem execFull_band (h : s.band bseq.toNat = some b) : execFull bseq count s =
    if s.serving ∧ b.closed ∧ ((s.dsp.tasks.any fun k => k.ty = 8 && k.arg0 = b.bseq) ∨ s.victim = some b) then
      .next (s.fullTask b count.toNat)
    else .next s := by
  unfold execFull
  rw [h]
  rfl

/-- The parity pages of a row are written, and the slots of failed sheets again (R243, R259). -/
def State.parityTask (s : State) (b : Band) (r : Nat) : State :=
  let u := s.underBeat (s.issueBeat fun k => k.ty = 10 && k.arg0 = b.bseq && k.arg1 = r)
  (((u.writeParity b r).flushReissue.tagAll true).restoreImage s.sti.active).retireTask fun k =>
    k.ty = 10 && k.arg0 = b.bseq && k.arg1 = r

theorem execParity_band (h : s.band bseq.toNat = some b) : execParity bseq row s =
    if (s.bit VLT_STATUS_READY || s.glb.st = .drain) ∧ (row.toNat + 1) * s.img.rowSlots b ≤ b.next ∧
        row.toNat < s.img.bandRows ∧ !s.rowBusy b row.toNat then
      .next (s.parityTask b row.toNat)
    else .next s := by
  unfold execParity
  rw [h]
  rfl

theorem State.parityTask_lines (r : Nat) : (s.parityTask b r).cch.lines = s.cch.lines := by
  unfold State.parityTask
  extract_lets u
  have kp : Keeps 0x20010 s (u.writeParity b r) := State.writeParity_keeps b r (State.underBeat_keeps _ (.refl _ s))
  have kt : Keeps 0x22121D (u.writeParity b r).flushReissue _ :=
    State.retireTask_keeps (fun k => k.ty = 10 && k.arg0 = b.bseq && k.arg1 = r)
      (State.restoreImage_keeps s.sti.active (State.tagAll_keeps true (.refl _ _)))
  rw [kt.cch rfl, State.flushReissue_lines, kp.cch rfl]

theorem execMapCkpt_none (h : s.vlt.ckpt = none) : execMapCkpt n s = .next s := if_pos (by simp [h])

theorem execMapCkpt_next (n : BitVec 16) (s : State) : ∃ t, execMapCkpt n s = .next t := by
  unfold execMapCkpt
  extract_lets u s1
  split
  · exact ⟨_, rfl⟩
  · split
    · split <;> exact ⟨_, rfl⟩
    · exact ⟨_, rfl⟩

/-- Pieces of the running checkpoint are written, then the tag tables that are due (R248, R251). -/
def State.ckptTask (s : State) (n : Nat) : State :=
  ((State.ckptPieces (n + 1) (s.underBeat (s.issueBeat fun k => k.ty = 9))).tagAll true).restoreImage s.sti.active

theorem execMapCkpt_done (h : s.vlt.ckpt.isSome = true) {k : Ckpt} (hk : (s.ckptTask n.toNat).vlt.ckpt = some k) (hd : k.done = true) :
    execMapCkpt n s = .next ((s.ckptTask n.toNat).retireTask fun t => t.ty = 9) := by
  unfold execMapCkpt
  extract_lets u s1
  have hs1 : s1.vlt.ckpt = some k := hk
  rw [if_neg (by simp [Option.isSome_iff_ne_none.mp h]), hs1]
  exact if_pos hd

theorem execHealth_due {r : Rehearsal} (h : s.ldg.rehRun = some r)
    (hg : s.classOf g.toNat = (if r.cls = 3 then 4 else r.cls) ∧ (s.entry g.toNat).dirty = true) :
    execHealth g s = .next (s.enqueue 3 7 3 1 g.toNat 0 false) := by
  unfold execHealth
  rw [h]
  exact if_pos hg

theorem execHealth_idle (h : s.ldg.rehRun = none ∨ (s.entry g.toNat).dirty = false) : execHealth g s = .next s := by
  unfold execHealth
  split
  · rfl
  · next r hr =>
    have hd := h.resolve_left (by simp [hr])
    exact if_neg (by simp [hd])

end

/-- Settles O34: each clause is a branch of its command, the frames by what each command keeps. -/
theorem vaultTasksActOnlyWhenDue : Obligations.VaultTasksActOnlyWhenDue := by
  unfold Obligations.VaultTasksActOnlyWhenDue
  refine ⟨fun g s h => execTrickle_idle h, fun g s ⟨hm, hp, hd⟩ => ?trickle, fun g s hm hd => execTrickle_due hm hd,
    fun g s => ⟨execTrickleWriteComplete_none, execFullCopyComplete_none⟩, fun g s f h => ?landed, fun g s f h => ?copied,
    fun g s f h => ?landedIs, fun g s f h => execFullCopyComplete_lands h,
    fun bs n r s h => ⟨execFull_noBand h, execParity_noBand h⟩, fun bs n s b ⟨h, hs, hc, hv⟩ => ?full,
    fun bs r s b ⟨h, hn, hr, hb, hy⟩ => ?parity, fun bs n s b h hd => (execFull_band h).trans (if_pos hd),
    fun bs r s b h hd => (execParity_band h).trans (if_pos hd), fun n s h => execMapCkpt_none h, fun n s h => ?ckpt,
    fun n s k h hk hd => execMapCkpt_done h hk hd, fun g s r ⟨h, hg⟩ => ⟨execHealth_due h hg, ?health⟩,
    fun g s h => execHealth_idle h⟩
  case trickle =>
    have e : execTrickle g s = .next (s.trickleTask g.toNat) := execTrickle_due (by simp [hm, hp]) (by simp [hd])
    have k : Keeps 0x221A1D s (s.trickleTask g.toNat) := execTrickle_keeps g (.refl _ s) rfl _ e
    obtain ⟨map, lines⟩ := State.trickleTask_cch (s := s) g.toNat
    exact ⟨_, e, map, lines, k.glb rfl, k.pq rfl, k.cfl rfl, k.stw rfl, k.mtx rfl⟩
  case landed =>
    have e := execTrickleWriteComplete_lands h
    have k : Keeps 0x223A0D s (s.trickleLanded g.toNat f) := execTrickleWriteComplete_keeps g (.refl _ s) rfl _ e
    have hc := State.trickleLanded_cch (s := s) (f := f) g.toNat
    refine ⟨_, e, ?_, ?_, fun hw => ?_, (congrArg Cch.lines hc).trans (State.landEntry_lines _), k.glb rfl, k.pq rfl, k.cfl rfl,
      k.stw rfl, k.mtx rfl⟩ <;> rw [State.entry_of_cch hc, State.landEntry_entry rfl]
    rw [hw, Bool.and_false]
  case landedIs =>
    refine (execTrickleWriteComplete_lands h).trans ?_
    unfold State.trickleLanded State.landEntry
    rfl
  case copied =>
    have e := execFullCopyComplete_lands h
    have k : Keeps 0x221A0D s (((s.copyEntry g.toNat f).tagAll true).showSpace.showStripe) :=
      execFullCopyComplete_keeps g (.refl _ s) rfl _ e
    have kt : Keeps 0x22120D (s.copyEntry g.toNat f) (((s.copyEntry g.toNat f).tagAll true).showSpace.showStripe) :=
      State.showStripe_keeps (State.showSpace_keeps (State.tagAll_keeps true (.refl _ _)))
    have ks : Keeps 0x20020D ((s.copyEntry g.toNat f).tagAll true) (((s.copyEntry g.toNat f).tagAll true).showSpace.showStripe) :=
      State.showStripe_keeps (State.showSpace_keeps (.refl _ _))
    obtain ⟨vloc, inflight, lines⟩ := State.copyEntry_after (s := s) (f := f) g.toNat
    refine ⟨_, e, ?_, ?_, (congrArg Cch.lines (kt.cch rfl)).trans lines, k.glb rfl, k.pq rfl, k.cfl rfl, k.stw rfl, k.mtx rfl⟩
    · rw [State.entry_of_cch (kt.cch rfl), vloc]
    · rw [ks.vlt rfl, State.tagAll_inflight, inflight]
  case full =>
    have e := (execFull_band (count := n) h).trans (if_pos ⟨hs, hc, .inr hv⟩)
    have k : Keeps 0x22121D s (s.fullTask b n.toNat) := execFull_keeps bs n (.refl _ s) rfl _ e
    exact ⟨_, e, k.cch rfl, k.glb rfl, k.pq rfl, k.cfl rfl, k.stw rfl, k.mtx rfl⟩
  case parity =>
    have e := (execParity_band (row := r) h).trans (if_pos ⟨by simp [hy], hn, hr, by simp [hb]⟩)
    have k : Keeps 0x221A1D s (s.parityTask b r.toNat) := execParity_keeps bs r (.refl _ s) rfl _ e
    exact ⟨_, e, State.parityTask_lines _, k.glb rfl, k.pq rfl, k.cfl rfl, k.stw rfl, k.mtx rfl⟩
  case ckpt =>
    obtain ⟨t, ht⟩ := execMapCkpt_next n s
    have k : Keeps 0x22121D s t := execMapCkpt_keeps n (.refl _ s) rfl t ht
    exact ⟨t, ht, k.cch rfl, k.glb rfl, k.pq rfl, k.cfl rfl, k.stw rfl, k.mtx rfl⟩
  case health =>
    have k : Keeps 0x1001 s (s.enqueue 3 7 3 1 g.toNat 0 false) := State.enqueue_keeps _ _ _ _ _ _ _ (.refl _ s)
    exact ⟨k.pq rfl, k.cch rfl, k.vlt rfl⟩

end Sys2Proof.Machine
end

section
/-! PROOFS. DRAM training, the corrected-word window, rank retirement and address translation (R107 to R134). -/

set_option Elab.async false

namespace Sys2Proof.Machine

section
variable {s : State}

/-! ## Training -/

/-- A field that no step of a fold changes reads the same after it. -/
theorem State.get_foldl_of_step {α : Type} {f : Fld} {g : State → α → State} (h : ∀ t a, (g t a).get f = t.get f) (l : List α)
    (t : State) : (l.foldl g t).get f = t.get f := foldl_eq_of_step (f := fun u : State => u.get f) h l t

/-- The fields of the ranks lie at and above those of rank 0. -/
theorem rankFlds_key (n : Nat) : (CCH_RANK_STATE 0).key ≤ (CCH_RANK_STATE n).key ∧
    (CCH_RANK_STATE 0).key ≤ (CCH_RANK_SET n).key ∧ (CCH_RANK_STATE 0).key ≤ (CCH_RANK_MEMBER n).key := by
  simp only [Fld.key, CCH_RANK_STATE, CCH_RANK_SET, CCH_RANK_MEMBER]
  omega

section
variable {f : Fld} (hf : f.key < (CCH_RANK_STATE 0).key) (n v : Nat)
include hf

/-! A field below those of the ranks stays as the ranks' are written. -/

theorem State.get_set_rankState : (s.set (CCH_RANK_STATE n) v).get f = s.get f :=
  State.get_set_ne (Nat.lt_of_lt_of_le hf (rankFlds_key n).1).ne' v

theorem State.get_set_rankSet : (s.set (CCH_RANK_SET n) v).get f = s.get f :=
  State.get_set_ne (Nat.lt_of_lt_of_le hf (rankFlds_key n).2.1).ne' v

theorem State.get_set_rankMember : (s.set (CCH_RANK_MEMBER n) v).get f = s.get f :=
  State.get_set_ne (Nat.lt_of_lt_of_le hf (rankFlds_key n).2.2).ne' v

theorem rankState_ne : f.key ≠ (CCH_RANK_STATE n).key := (Nat.lt_of_lt_of_le hf (rankFlds_key n).1).ne

end

/-- Laying out the ranks writes the ranks' fields, SPARES and LRANKS (R111). -/
theorem State.get_layRanks {f : Fld} (hf : f.key < (CCH_RANK_STATE 0).key) (h1 : CCH_CFG_SPARES.key ≠ f.key)
    (h2 : CCH_CFG_LRANKS.key ≠ f.key) : s.layRanks.get f = s.get f := by
  unfold State.layRanks
  extract_lets per clr nat placed gone moving
  have hclr : clr.get f = s.get f := by
    refine State.get_foldl_of_step (fun t n => ?_) _ _
    rw [State.get_set_rankMember hf, State.get_set_rankSet hf, State.get_set_rankState hf]
  have hnat : nat.get f = clr.get f := by
    refine State.get_foldl_of_step (fun t i => State.get_foldl_of_step (fun u c => ?_) _ _) _ _
    rw [State.get_set_rankState hf]
  have hplaced : placed.get f = nat.get f := by
    refine State.get_foldl_of_step (fun t i => State.get_foldl_of_step (fun u c => ?_) _ _) _ _
    rw [State.get_set_rankMember hf, State.get_set_rankSet hf, State.get_set_rankState hf]
  have hgone : gone.get f = placed.get f := by
    refine State.get_foldl_of_step (fun t n => ?_) _ _
    rw [State.get_set_rankState hf]
  have hmoving : moving.get f = gone.get f := by
    unfold moving
    split
    · rw [State.get_set_rankState hf, State.get_set_rankState hf]
    · rfl
  rw [State.get_set_ne h2, State.get_set_ne h1, hmoving, hgone, hplaced, hnat, hclr]

/-- The speed that a population is rated for (R107). -/
def ratedSpeed (p : Bool × Bool × Bool) : Nat := if p.1 then 2 else 3

/-- The least speed of the channels, the rated one at most (R108). -/
def leastSpeed (speeds : List (BitVec 2)) (m : Nat) : Nat := speeds.foldl (fun m x => min m x.toNat) m

theorem leastSpeed_of_le {m : Nat} : ∀ {l : List (BitVec 2)}, (∀ x ∈ l, m ≤ x.toNat) → leastSpeed l m = m
  | [], _ => rfl
  | x :: l, h => by
    have hx : min m x.toNat = m := Nat.min_eq_left (h x List.mem_cons_self)
    unfold leastSpeed
    rw [List.foldl_cons, hx]
    exact leastSpeed_of_le fun y hy => h y (List.mem_cons_of_mem x hy)

/-- The state after a population of the table has trained at a speed (R107, R108). -/
def State.trained (s : State) (p : Bool × Bool × Bool) (low : Nat) : State :=
  let s1 := ((s.setB CCH_CFG_DPC2 p.1).setB CCH_CFG_RANKS2 p.2.1).setB CCH_CFG_SIZE32 p.2.2
  (((s1.set CCH_CFG_SPEED low).setB CCH_STATUS_POP_OK true).layRanks.updDrn fun d =>
    { d with lostRanks := 0 }).updRst fun r => { r with coldRanks := false }

variable {dimms : List Dimm} {speeds : List (BitVec 2)} {p : Bool × Bool × Bool}

theorem execDramTraining_unknown (hs : s.glb.st = .boot) (hp : populationOf dimms = none) :
    execDramTraining dimms speeds s = .next ((s.set CCH_CFG_SPEED 0).setB CCH_STATUS_POP_OK false) := by
  unfold execDramTraining
  rw [hp]
  exact (if_neg fun h => h.1 hs).trans (congrArg _ (if_pos hs))

theorem execDramTraining_rated (hs : ¬(s.glb.st ≠ .boot ∧ ¬(s.glb.st = .restore ∧ s.rst.coldRanks)))
    (hp : populationOf dimms = some p) (h0 : leastSpeed speeds (ratedSpeed p) ≠ 0)
    (hl : ¬leastSpeed speeds (ratedSpeed p) < ratedSpeed p) :
    execDramTraining dimms speeds s = .next (s.trained p (leastSpeed speeds (ratedSpeed p))) := by
  unfold execDramTraining
  rw [hp]
  exact (if_neg hs).trans ((if_neg h0).trans (if_neg hl))

theorem State.trained_ranks (low : Nat) : (s.trained p low).drn = { s.drn with lostRanks := 0 } ∧
    (s.trained p low).rst = { s.rst with coldRanks := false } := by
  unfold State.trained
  extract_lets s1
  have k : Keeps 1 ((s1.set CCH_CFG_SPEED low).setB CCH_STATUS_POP_OK true) _ := State.layRanks_keeps (.refl _ _)
  refine ⟨?_, ?_⟩
  · rw [State.updRst_drn, State.updDrn_drn, k.drn rfl]
    rfl
  · rw [State.updRst_rst, State.updDrn_rst, k.rst rfl]
    rfl

theorem State.get_trained_speed {low : Nat} (h : low % 2 ^ 3 ≠ 0) : (s.trained p low).get CCH_CFG_SPEED = low % 2 ^ 3 := by
  unfold State.trained
  rw [State.get_updRst, State.get_updDrn, State.get_layRanks (by decide) (by decide) (by decide), State.get_setB_ne (by decide)]
  exact State.get_set_of_ne h

theorem State.get_trained_popOk (low : Nat) : (s.trained p low).get CCH_STATUS_POP_OK = 1 := by
  unfold State.trained
  rw [State.get_updRst, State.get_updDrn, State.get_layRanks (by decide) (by decide) (by decide)]
  exact State.get_set_of_ne (by decide)

/-! ## The corrected-word window -/

/-- The window restarts with every rank's count at 0 (R130). -/
def State.windowRestarted (s : State) : State :=
  (List.range 32).foldl (fun t n => t.set (CCH_RANK_CE_WIN n) 0) (s.updCch fun c => { c with winStart := s.glb.beat })

theorem execCeWindowExpiry_due (h : s.get CCH_RET_WIN_BEATS ≠ 0 ∧ s.expired s.cch.winStart (s.get CCH_RET_WIN_BEATS) = true) :
    execCeWindowExpiry s = .next s.windowRestarted := if_pos h

theorem execCeWindowExpiry_idle (h : ¬(s.get CCH_RET_WIN_BEATS ≠ 0 ∧ s.expired s.cch.winStart (s.get CCH_RET_WIN_BEATS) = true)) :
    execCeWindowExpiry s = .next s := if_neg h

/-- Beside the counts a restart of the window changes its begin only. -/
theorem State.windowRestarted_eqn : s.windowRestarted.cch = { s.cch with winStart := s.glb.beat } ∧
    s.windowRestarted = { s with regs := s.windowRestarted.regs, cch := s.windowRestarted.cch } := by
  have h : { s.windowRestarted with regs := [] } = { s with regs := [], cch := { s.cch with winStart := s.glb.beat } } :=
    foldl_eq_of_step (f := fun t : State => { t with regs := [] }) (g := fun t n => t.set (CCH_RANK_CE_WIN n) 0) (fun _ _ => rfl) _ _
  generalize s.windowRestarted = t at h ⊢
  exact ⟨congrArg State.cch h, congrArg (fun u : State => { u with regs := t.regs, cch := t.cch }) h⟩

theorem State.get_windowRestarted (hw : Store.wf 0 s.regs = true) {n : Nat} (hn : n < 32) :
    s.windowRestarted.get (CCH_RANK_CE_WIN n) = 0 := by
  refine State.get_foldl_set (v := fun _ => 0) (fun k hk => ?_) hw (List.mem_range.mpr hn)
  simp only [Fld.key, CCH_RANK_CE_WIN] at hk
  omega

/-! ## Retirement -/

variable {n k : Nat} {rest : List Nat} {r : Retire}

/-- A retirement of rank `n` to the spare `k` begins (R132 step 1). -/
def State.retireBegun (s : State) (n k : Nat) (rest : List Nat) : State :=
  let a := s.updCch fun c => { c with retReq := rest, ret := some ⟨n, k, 0, s.rankAll * 64, [], 0, 0, 0⟩ }
  let b := ((a.set (CCH_RANK_STATE n) 3).set (CCH_RANK_STATE k) 4).setB CCH_STATUS_RETIRING true
  let c := ((b.set CCH_RET_STATUS_FROM n).set CCH_RET_STATUS_TO k).setB CCH_RET_STATUS_ACTIVE true
  ((c.set CCH_RET_STATUS_PCT 0).set CCH_RET_STATUS_REASON 0).event 0x0304 (srcRank n)

theorem execRetirementBegin_none (h : s.cch.retReq = []) : execRetirementBegin s = .next s := by
  unfold execRetirementBegin
  rw [h]

theorem execRetirementBegin_waits (h : s.glb.cycle ≠ 0 ∨ bitOf s.sti.guardClasses 7 = true) : execRetirementBegin s = .next s := by
  unfold execRetirementBegin
  split
  · rfl
  · exact if_pos (h.imp_left fun hc => by simp [State.atBoundary, hc])

section
variable (hc : s.glb.cycle = 0) (hg : bitOf s.sti.guardClasses 7 = false) (hq : s.cch.retReq = n :: rest)
include hc hg hq

/-- A request that is refused as it begins leaves the list (R131). -/
theorem execRetirementBegin_refused (hr : s.retireReason n ≠ 0) : execRetirementBegin s =
    .next ((s.updCch fun c => { c with retReq := rest }).retireRefuse n (s.retireReason n)) := by
  unfold execRetirementBegin
  rw [hq]
  exact (if_neg (by simp [State.atBoundary, hc, hg])).trans (if_pos hr)

theorem execRetirementBegin_begins (hr : s.retireReason n = 0)
    (hk : ((List.range 32).find? fun k => s.get (CCH_RANK_STATE k) = 2) = some k) :
    execRetirementBegin s = .next (s.retireBegun n k rest) := by
  unfold execRetirementBegin
  rw [hq]
  refine (if_neg (by simp [State.atBoundary, hc, hg])).trans ((if_neg (not_not.mpr hr)).trans ?_)
  rw [hk]
  rfl

end

/-- With nothing against its retirement a rank is active, and there is a spare (R131). -/
theorem State.retireReason_zero (h : s.retireReason n = 0) : s.get (CCH_RANK_STATE n) = 1 ∧
    ∃ k, ((List.range 32).find? fun k => s.get (CCH_RANK_STATE k) = 2) = some k := by
  unfold State.retireReason at h
  split_ifs at h with hs hl hr hn hk
  refine ⟨not_not.mp hn, Option.isSome_iff_exists.mp (List.find?_isSome.mpr ?_)⟩
  simpa using hk

/-- The first spare. -/
theorem State.spare_first (hk : ((List.range 32).find? fun k => s.get (CCH_RANK_STATE k) = 2) = some k) :
    k < 32 ∧ s.get (CCH_RANK_STATE k) = 2 ∧ ∀ j, j < k → s.get (CCH_RANK_STATE j) ≠ 2 := by
  rw [List.find?_range_eq_some] at hk
  obtain ⟨h2, hm, hj⟩ := hk
  exact ⟨List.mem_range.mp hm, by simpa using h2, fun j h => by simpa using hj j h⟩

/-- What a begin touches beside the retirement that it starts. -/
theorem State.retireBegun_eqn : s.retireBegun n k rest =
    { s with
      regs := (s.retireBegun n k rest).regs, irq := (s.retireBegun n k rest).irq, evr := (s.retireBegun n k rest).evr
      mbx := (s.retireBegun n k rest).mbx, out := (s.retireBegun n k rest).out
      cch := { s.cch with retReq := rest, ret := some ⟨n, k, 0, s.rankAll * 64, [], 0, 0, 0⟩ } } :=
  (State.event_only _ _ _).eqn.trans (by unfold State.retireBegun; simp only [State.event_regs]; rfl)

/-- A rank's state reads as written, where that is not the state of reset. -/
theorem State.get_rankState {v : Nat} (hv : 0 < v) (h8 : v < 8) : (s.set (CCH_RANK_STATE n) v).get (CCH_RANK_STATE n) = v := by
  have h : v % 2 ^ (CCH_RANK_STATE n).width = v := Nat.mod_eq_of_lt h8
  exact (State.get_set_of_ne (h.symm ▸ hv.ne')).trans h

theorem rankState_key_ne (h : n ≠ k) : (CCH_RANK_STATE n).key ≠ (CCH_RANK_STATE k).key := by
  simp only [Fld.key, CCH_RANK_STATE]
  omega

/-- The ranks' states as a retirement begins (R132 step 1). -/
theorem State.get_retireBegun_ranks (hnk : n ≠ k) : (s.retireBegun n k rest).get (CCH_RANK_STATE n) = 3 ∧
    (s.retireBegun n k rest).get (CCH_RANK_STATE k) = 4 := by
  unfold State.retireBegun
  extract_lets a b c
  have hc (m : Nat) : ((((c.set CCH_RET_STATUS_PCT 0).set CCH_RET_STATUS_REASON 0).event 0x0304 (srcRank n)).get (CCH_RANK_STATE m))
      = ((a.set (CCH_RANK_STATE n) 3).set (CCH_RANK_STATE k) 4).get (CCH_RANK_STATE m) := by
    rw [State.get_event, State.get_set_ne (rankState_ne (by decide) m), State.get_set_ne (rankState_ne (by decide) m),
      State.get_setB_ne (rankState_ne (by decide) m), State.get_set_ne (rankState_ne (by decide) m),
      State.get_set_ne (rankState_ne (by decide) m), State.get_setB_ne (rankState_ne (by decide) m)]
  rw [hc, hc, State.get_set_ne (rankState_key_ne hnk.symm)]
  exact ⟨State.get_rankState (by decide) (by decide), State.get_rankState (by decide) (by decide)⟩

/-- What CCH_STATUS and CCH_RET_STATUS show as a retirement begins (R132 step 1). -/
theorem State.get_retireBegun_shown (hw : Store.wf 0 s.regs = true) (hn : n < 32) (hk : k < 32) :
    (s.retireBegun n k rest).get CCH_STATUS_RETIRING = 1 ∧ (s.retireBegun n k rest).get CCH_RET_STATUS_FROM = n ∧
      (s.retireBegun n k rest).get CCH_RET_STATUS_TO = k ∧ (s.retireBegun n k rest).get CCH_RET_STATUS_PCT = 0 := by
  unfold State.retireBegun
  extract_lets a b c
  have wb : Store.wf 0 b.regs = true := State.wf_setB (State.wf_set (State.wf_set hw _ _) _ _) _ _
  have wt : Store.wf 0 (b.set CCH_RET_STATUS_FROM n).regs = true := State.wf_set wb _ _
  have wc : Store.wf 0 c.regs = true := State.wf_setB (State.wf_set wt _ _) _ _
  refine ⟨?_, ?_, ?_, ?_⟩ <;> rw [State.get_event, State.get_set_ne (by decide)]
  · rw [State.get_set_ne (by decide), State.get_setB_ne (by decide), State.get_set_ne (by decide), State.get_set_ne (by decide)]
    exact State.get_set_of_ne (by decide)
  · rw [State.get_set_ne (by decide), State.get_setB_ne (by decide), State.get_set_ne (by decide), State.get_set wb]
    exact Nat.mod_eq_of_lt hn
  · rw [State.get_set_ne (by decide), State.get_setB_ne (by decide), State.get_set wt]
    exact Nat.mod_eq_of_lt hk
  · exact State.get_set wc _ _

/-- The spare takes the place of the outgoing rank (R132 steps 4 and 5). -/
def State.cutOver (s : State) (r : Retire) : State :=
  let key := ((List.range 32).find? fun n => Store.get none s.cch.remap n = some r.src).getD r.src
  let s1 := s.updCch fun c => { c with
    ret := none, remap := Store.put none c.remap key (some r.dst), retired := setBit c.retired r.src
    lines := r.spare.foldl (fun m l => Store.put LineCell.zero m l.1 l.2)
      (Store.keep (fun k => s.rankOf (k / 64) ≠ some r.src) c.lines) }
  let s2 := ((s1.set (CCH_RANK_STATE r.src) 5).set (CCH_RANK_STATE r.dst) 1).setB CCH_STATUS_RETIRING false
  let s3 := (s2.set (CCH_RANK_SET r.dst) (s.get (CCH_RANK_SET r.src))).set (CCH_RANK_MEMBER r.dst) (s.get (CCH_RANK_MEMBER r.src))
  (s3.setB CCH_RET_STATUS_ACTIVE false).event 0x0305 (srcRank r.src)

theorem execRetirementCutover_none (h : s.cch.ret = none) : execRetirementCutover s = .next s := by
  unfold execRetirementCutover
  rw [h]

theorem execRetirementCutover_judged (h : s.cch.ret = some r) : execRetirementCutover s =
    if r.copied < r.total ∨ s.glb.st ≠ .serve ∨ !s.atBoundary ∨ s.glb.beat ≤ r.doneBeat then .next s
    else .next ((s.cutOver r).flashWrite (.cell 4 (s.cutOver r).calCell)) := by
  unfold execRetirementCutover
  rw [h]
  rfl

theorem State.cutOver_cch : ∃ key lines, (s.cutOver r).cch = { s.cch with
    ret := none, remap := Store.put none s.cch.remap key (some r.dst), retired := setBit s.cch.retired r.src, lines := lines } := by
  unfold State.cutOver
  extract_lets key s1 s2 s3
  exact ⟨key, _, State.event_cch _ _ _⟩

theorem rankState_ne_member (n k : Nat) : (CCH_RANK_SET k).key ≠ (CCH_RANK_STATE n).key ∧
    (CCH_RANK_MEMBER k).key ≠ (CCH_RANK_STATE n).key := by
  simp only [Fld.key, CCH_RANK_STATE, CCH_RANK_SET, CCH_RANK_MEMBER]
  omega

/-- The ranks' states after a cutover (R132 step 5). -/
theorem State.get_cutOver_ranks (h : r.src ≠ r.dst) : (s.cutOver r).get (CCH_RANK_STATE r.src) = 5 ∧
    (s.cutOver r).get (CCH_RANK_STATE r.dst) = 1 := by
  unfold State.cutOver
  extract_lets key s1 s2 s3
  have h3 (m : Nat) : ((s3.setB CCH_RET_STATUS_ACTIVE false).event 0x0305 (srcRank r.src)).get (CCH_RANK_STATE m) =
      ((s1.set (CCH_RANK_STATE r.src) 5).set (CCH_RANK_STATE r.dst) 1).get (CCH_RANK_STATE m) := by
    obtain ⟨hset, hmember⟩ := rankState_ne_member m r.dst
    rw [State.get_event, State.get_setB_ne (rankState_ne (by decide) m), State.get_set_ne hmember, State.get_set_ne hset,
      State.get_setB_ne (rankState_ne (by decide) m)]
  rw [h3, h3, State.get_set_ne (rankState_key_ne h.symm)]
  exact ⟨State.get_rankState (by decide) (by decide), State.get_rankState (by decide) (by decide)⟩

/-- After a cutover no retirement shows (R132 step 5). -/
theorem State.get_cutOver_shown (hw : Store.wf 0 s.regs = true) : (s.cutOver r).get CCH_STATUS_RETIRING = 0 ∧
    (s.cutOver r).get CCH_RET_STATUS_ACTIVE = 0 := by
  unfold State.cutOver
  extract_lets key s1 s2 s3
  have w1 : Store.wf 0 ((s1.set (CCH_RANK_STATE r.src) 5).set (CCH_RANK_STATE r.dst) 1).regs = true :=
    State.wf_set (State.wf_set hw _ _) _ _
  have w3 : Store.wf 0 s3.regs = true := State.wf_set (State.wf_set (State.wf_setB w1 _ _) _ _) _ _
  refine ⟨?_, ?_⟩ <;> rw [State.get_event]
  · rw [State.get_setB_ne (by decide), State.get_set_rankMember (by decide), State.get_set_rankSet (by decide)]
    exact State.get_setB w1 _ _
  · exact State.get_setB w3 _ _

/-! ## Address translation -/

variable {hi : Word}

/-- The cache address that a write of the high half translates (R113). -/
def State.xlateAddress (s : State) (hi : Word) : Nat := s.get CCH_XLATE_LO_CA + 2 ^ 32 * hi.toNat

/-- The translation of an address to rank `n` at offset `a` of it (R113). -/
def State.xlated (s : State) (hi : Word) (n a : Nat) : State :=
  let x := Config.dramPlace a
  let b := ((s.set CCH_XLATE_HI_CA hi.toNat).set CCH_XLATE_OUT_PRANK n).set CCH_XLATE_OUT_SUBCH (s.xlateAddress hi / 64 % 2)
  (((b.set CCH_XLATE_OUT_BG x.1).set CCH_XLATE_OUT_BANK x.2.1).set CCH_XLATE_OUT_ROW x.2.2).setB CCH_XLATE_OUT_VALID true

theorem execXlateStart_outside (h : s.rankOf (s.xlateAddress hi / 4096) = none) :
    execXlateStart hi s = .next ((s.set CCH_XLATE_HI_CA hi.toNat).setB CCH_XLATE_OUT_VALID false) := by
  unfold State.xlateAddress at h
  unfold execXlateStart
  extract_lets s1 ca
  rw [h]

theorem execXlateStart_inside {a : Nat} (h : s.rankOf (s.xlateAddress hi / 4096) = some n)
    (ha : s.rankOffset (s.xlateAddress hi) = some a) : execXlateStart hi s = .next (s.xlated hi n a) := by
  unfold State.xlateAddress at h ha
  unfold execXlateStart
  extract_lets s1 ca
  rw [h, ha]
  rfl

/-- An address that a rank holds has an offset in it (R112). -/
theorem State.rankOffset_of_rankOf {ca : Nat} (h : s.rankOf (ca / 4096) = some n) : ∃ a, s.rankOffset ca = some a := by
  obtain ⟨p, hp, -⟩ := Option.map_eq_some_iff.mp h
  exact ⟨_, by rw [State.rankOffset, hp]; rfl⟩

theorem State.get_xlated (hw : Store.wf 0 s.regs = true) (hn : n < 32) (a : Nat) :
    (s.xlated hi n a).get CCH_XLATE_OUT_PRANK = n ∧ (s.xlated hi n a).get CCH_XLATE_OUT_VALID = 1 := by
  unfold State.xlated
  extract_lets x b
  refine ⟨?_, State.get_set_of_ne (by decide)⟩
  rw [State.get_setB_ne (by decide), State.get_set_ne (by decide), State.get_set_ne (by decide), State.get_set_ne (by decide),
    State.get_set_ne (by decide), State.get_set (State.wf_set hw _ _)]
  exact Nat.mod_eq_of_lt hn

end

/-- Settles O31: each clause is a branch of its command. That the first reason that fails is the one recorded, and that a begin sets
CCH_RET_STATUS.REASON to 0, are the model's choices (log entries 41 and 44). -/
theorem dramTrainingRanksAndRetirement : Obligations.DramTrainingRanksAndRetirement := by
  unfold Obligations.DramTrainingRanksAndRetirement
  refine ⟨fun dimms l s hs hp => execDramTraining_unknown hs hp, fun dimms l s p hs hw hp hl => ?trained,
    fun dimms l s p hs hp h0 hl => execDramTraining_rated hs hp h0 hl, fun s h hw => ?window,
    fun s h => execCeWindowExpiry_due h, fun s h => execCeWindowExpiry_idle h, fun n s h => congrArg _ (if_pos h),
    fun n s h hg => ?request,
    fun s => ⟨execRetirementBegin_none, fun n rest hc hg hq hr => execRetirementBegin_refused hc hg hq hr⟩,
    fun s n rest hc hg hq hn hr hw => ?begun, fun s n k rest hc hg hq hr hk => execRetirementBegin_begins hc hg hq hr hk,
    fun s h => execRetirementBegin_waits h, fun s h => ?cutNo, fun s r ⟨hr, ht, hs, hc, hb⟩ ⟨hsrc, hdst, hne, hw⟩ => ?cut,
    fun s r hr h => (execRetirementCutover_judged hr).trans (if_neg h), fun hi s => ?xlate,
    fun hi s n a hn ha => execXlateStart_inside hn ha⟩
  case trained =>
    have low : leastSpeed l (ratedSpeed p) = ratedSpeed p := leastSpeed_of_le hl
    have pos : ratedSpeed p % 2 ^ 3 ≠ 0 ∧ ratedSpeed p % 2 ^ 3 = ratedSpeed p := by
      unfold ratedSpeed
      split <;> decide
    have e : execDramTraining dimms l s = .next (s.trained p (ratedSpeed p)) := by
      rw [execDramTraining_rated (fun h => h.1 hs) hp (by omega) (by omega), low]
    have k : Keeps 0x25020D s (s.trained p (ratedSpeed p)) := execDramTraining_keeps dimms l (.refl _ s) rfl _ e
    obtain ⟨drn, rst⟩ := State.trained_ranks (s := s) (p := p) (ratedSpeed p)
    exact ⟨_, e, drn, rst, (State.get_trained_speed pos.1).trans pos.2, State.get_trained_popOk _, k.glb rfl, k.pq rfl, k.vlt rfl,
      k.cfl rfl⟩
  case window =>
    obtain ⟨cch, eqn⟩ := State.windowRestarted_eqn (s := s)
    exact ⟨_, execCeWindowExpiry_due h, cch, fun n hn => State.get_windowRestarted hw hn, eqn⟩
  case request =>
    exact congrArg _ ((if_neg (not_not.mpr h)).trans (if_neg (by simp [hg])))
  case begun =>
    obtain ⟨hactive, k, hk⟩ := State.retireReason_zero hr
    obtain ⟨hk32, hspare, hfirst⟩ := State.spare_first hk
    have hnk : n ≠ k := by
      rintro rfl
      omega
    have eqn := State.retireBegun_eqn (s := s) (n := n) (k := k) (rest := rest)
    obtain ⟨src, dst⟩ := State.get_retireBegun_ranks (s := s) (rest := rest) hnk
    obtain ⟨retiring, src', dst', pct⟩ := State.get_retireBegun_shown (rest := rest) hw hn hk32
    exact ⟨_, k, execRetirementBegin_begins hc hg hq hr hk, hk32, hspare, hfirst, congrArg State.cch eqn, src, dst, retiring, src',
      dst', pct, eqn.trans (by rw [congrArg State.cch eqn])⟩
  case cutNo =>
    obtain h | ⟨r, hr, h⟩ := h
    · exact execRetirementCutover_none h
    · exact (execRetirementCutover_judged hr).trans (if_pos (.inl h))
  case cut =>
    have e : execRetirementCutover s = .next ((s.cutOver r).flashWrite (.cell 4 (s.cutOver r).calCell)) :=
      (execRetirementCutover_judged hr).trans (if_neg (by simp [State.atBoundary, hs, hc]; omega))
    have k : Keeps 0x200A2D s ((s.cutOver r).flashWrite (.cell 4 (s.cutOver r).calCell)) :=
      execRetirementCutover_keeps (.refl _ s) rfl _ e
    obtain ⟨key, lines, cch⟩ := State.cutOver_cch (s := s) (r := r)
    have cch' := (((s.cutOver r).flashWrite_only (.cell 4 (s.cutOver r).calCell)).cch rfl).trans cch
    obtain ⟨src, dst⟩ := State.get_cutOver_ranks (s := s) hne
    obtain ⟨retiring, active⟩ := State.get_cutOver_shown (r := r) hw
    refine ⟨_, key, e, congrArg Cch.ret cch', congrArg Cch.remap cch', congrArg Cch.retired cch', ?_, ?_, ?_, ?_, k.glb rfl, k.pq rfl,
      k.vlt rfl, k.drn rfl⟩ <;> rwa [State.get_flashWrite]
  case xlate =>
    cases h : s.rankOf (s.xlateAddress hi / 4096) with
    | none => exact ⟨_, execXlateStart_outside h, rfl, fun _ => rfl, fun n hn => nomatch h.symm.trans hn⟩
    | some n =>
      obtain ⟨a, ha⟩ := State.rankOffset_of_rankOf h
      refine ⟨_, execXlateStart_inside h ha, rfl, fun hn => (nomatch h.symm.trans hn), fun m hm hw h32 => ?_⟩
      obtain rfl : n = m := Option.some.inj (h.symm.trans hm)
      exact State.get_xlated hw h32 a

end Sys2Proof.Machine
end

section
/-! PROOFS. The energy ledger: rehearsals of the drain, and the release and absence of energy modules (R36, R156 to R162). -/

set_option Elab.async false

namespace Sys2Proof.Machine

section
variable {s : State} {r : Rehearsal}

/-- A timeout has expired once its beats have passed after the one it started in, one for a length of 0 too (R58, R59). -/
theorem State.expired_iff (n k : Nat) : s.expired n k = true ↔ n + k + 1 ≤ s.glb.beat := by
  unfold State.expired
  split <;> simp_all

/-- A task that is put on a tile's list changes the dispatcher only (R351, R353). -/
theorem State.enqueue_eqn (ty prio pool count a0 a1 : Nat) (pin : Bool) :
    ∃ d, s.enqueue ty prio pool count a0 a1 pin = { s with dsp := d } := by
  unfold State.enqueue
  split
  · exact ⟨s.dsp, rfl⟩
  · exact ⟨_, rfl⟩

/-! ## A rehearsal begins -/

theorem State.rehMay_iff : s.rehMay = true ↔ s.glb.st = .serve ∧ s.glb.lazyRestore = false ∧ s.get LDG_STATUS_ZONE = 0 ∧
    s.cch.ret = none ∧ s.get LDG_BANKREL_PENDING = 0 ∧ s.get VLT_MODS_PENDING = 0 ∧ s.ctl.eq = none ∧ s.ldg.rehRun = none ∧
    40 ≤ ((List.range 64).filter s.inService).length := by
  simp [State.rehMay, and_assoc]

/-- The dirty granules of the class whose turn it is, as the cache counts them (R156). -/
def State.rehDirty (s : State) : Nat := s.get (CCH_DIRTY_GRANULES (if s.ldg.rehNext = 3 then 4 else s.ldg.rehNext))

/-- Under 4 GiB dirty the class is skipped, and the rotation goes on (R156). -/
theorem State.rehBegin_skips (h : s.rehDirty < 1048576) : s.rehBegin =
    (({ s with ldg := { s.ldg with rehNext := (s.ldg.rehNext + 1) % 4 } }.set LDG_REH_CLASS s.ldg.rehNext).set LDG_REH_RESULT 3) :=
  if_pos h

/-- The ledger of a rehearsal that runs from this beat on (R156, R157). -/
def State.rehLdg (s : State) : Ldg :=
  { s.ldg with rehNext := (s.ldg.rehNext + 1) % 4, rehRun := some ⟨s.ldg.rehNext, s.glb.beat, 0, s.useK3, s.rehMods⟩ }

/-- From 4 GiB dirty on the class is rehearsed: it is busy, and its HEALTH task is queued (R156, R157). -/
theorem State.rehBegin_starts (h : 1048576 ≤ s.rehDirty) : s.rehBegin =
    (({ s with ldg := s.rehLdg }.set LDG_REH_CLASS s.ldg.rehNext).setB LDG_REH_BUSY true).enqueue 11 7 3 20000
      (if s.ldg.rehNext = 3 then 4 else s.ldg.rehNext) 0 false :=
  if_neg (Nat.not_lt.mpr h)

theorem execRehearsalGo_begins (h : s.rehMay = true) : execRehearsalGo s = .next s.rehBegin := if_pos h

theorem execRehearsalGo_idle (h : s.rehMay = false) : execRehearsalGo s = .next s := if_neg (by simp [h])

theorem execRehearsalScheduled_begins (h : s.get LDG_REH_HOURS ≠ 0 ∧ s.bit LDG_CTRL_REH_AUTO = true ∧
    s.expired s.ldg.rehSince (s.get LDG_REH_HOURS * 3600000000) = true ∧ s.rehMay = true) :
    execRehearsalScheduled s = .next (s.updLdg fun l => { l with rehSince := s.glb.beat }).rehBegin := if_pos h

theorem execRehearsalScheduled_idle (h : s.rehMay = false) : execRehearsalScheduled s = .next s :=
  if_neg fun ⟨_, _, _, hmay⟩ => Bool.false_ne_true (h.symm.trans hmay)

/-! ## A rehearsal ends -/

/-- The coefficient that a rehearsal measures: the energy PDRAIN takes in 20,000 beats per GiB vaulted, rounded up; with no byte
vaulted a value left open (R157). -/
def State.rehFigure (s : State) (r : Rehearsal) : Nat :=
  if r.bytes = 0 then s.draw.1 else cdiv (s.img.pdrainMw * 1073741824 * 20000) (r.bytes * 1000000)

/-- The ledger of a rehearsal that has ended: its coefficient waits for the next boundary (R158). -/
def State.rehOver (s : State) (r : Rehearsal) (k : Nat) (l : Ldg) : Ldg :=
  { l with rehRun := none, newCal := l.newCal ++ [(s.boundBeat, calKey r.k3 r.cls, k)] }

/-- The end of a rehearsal with a coefficient, from the state that has drawn it: shown, recorded, and stored (R158, R159). -/
def State.rehEnded (s s0 : State) (r : Rehearsal) (k : Nat) : State :=
  let s2 := (((s0.updLdg (s.rehOver r k)).setB LDG_REH_BUSY false).set LDG_REH_RESULT 1).event 0x0406 0
  let s3 := if 125 * s.img.kdes r.k3 r.cls < 100 * k then s2.event 0x0407 0 else s2
  let stored := { s3 with ldg := { s3.ldg with cal := Store.put 0 s3.ldg.cal (calKey r.k3 r.cls) k } }
  s3.flashWrite (.cell 4 stored.calCell)

theorem execRehearsalEnd_running (hr : s.ldg.rehRun = some r) : execRehearsalEnd s = if !s.expired r.start 20000 then .next s else
    .next (s.rehEnded (if r.bytes = 0 then s.draw.2 else s) r (s.rehFigure r)) := by
  unfold execRehearsalEnd
  rw [hr]
  rfl

theorem execRehearsalEnd_waits (hr : s.ldg.rehRun = some r) (h : s.glb.beat ≤ r.start + 20000) : execRehearsalEnd s = .next s := by
  have hx : ¬s.expired r.start 20000 = true := fun hx => by
    have := (State.expired_iff _ _).mp hx
    omega
  exact (execRehearsalEnd_running hr).trans (if_pos (by simp [hx]))

/-- With bytes vaulted nothing is drawn: the rehearsal ends from the state itself (R157). -/
theorem execRehearsalEnd_measured (hr : s.ldg.rehRun = some r) (h : r.start + 20001 ≤ s.glb.beat) (hb : 0 < r.bytes) :
    execRehearsalEnd s =
      .next (s.rehEnded s r (cdiv (s.img.pdrainMw * 1073741824 * 20000) (r.bytes * 1000000))) := by
  have hx : s.expired r.start 20000 = true := (State.expired_iff _ _).mpr h
  rw [execRehearsalEnd_running hr, if_neg (by simp [hx]), State.rehFigure, if_neg hb.ne', if_neg hb.ne']

/-- Beside the ledger's own entry a rehearsal's end touches registers, the flash interface and what reports. -/
theorem State.rehEnded_keeps (s0 : State) (k : Nat) : Keeps 0x20022D (s0.updLdg (s.rehOver r k)) (s.rehEnded s0 r k) := by
  unfold State.rehEnded
  extract_lets s2 s3 stored
  have k2 : Keeps 0x20022D (s0.updLdg (s.rehOver r k)) s2 :=
    State.event_keeps _ _ (State.set_keeps (State.setB_keeps (.refl _ _) _ _) _ _)
  exact State.flashWrite_keeps _ (.ite (fun _ => State.event_keeps _ _ k2) fun _ => k2)

/-- Events and the flash write leave the registers as the end has set them. -/
theorem State.get_rehEnded (s0 : State) (k : Nat) (f : Fld) :
    (s.rehEnded s0 r k).get f = ((s0.setB LDG_REH_BUSY false).set LDG_REH_RESULT 1).get f := by
  unfold State.rehEnded
  extract_lets s2 s3 stored
  have h2 : s2.get f = ((s0.setB LDG_REH_BUSY false).set LDG_REH_RESULT 1).get f := State.get_event _ _ f
  rw [State.get_flashWrite, ← h2]
  unfold s3
  split
  · exact State.get_event _ _ f
  · rfl

/-- After a rehearsal BUSY is 0 and RESULT is 1 (R158). -/
theorem State.get_rehEnded_shown (hw : Store.wf 0 s.regs = true) (k : Nat) :
    (s.rehEnded s r k).get LDG_REH_BUSY = 0 ∧ (s.rehEnded s r k).get LDG_REH_RESULT = 1 := by
  refine ⟨?_, (State.get_rehEnded s k _).trans (State.get_set_of_ne (by decide))⟩
  rw [State.get_rehEnded, State.get_set_ne (by decide)]
  exact State.get_setB hw _ _

end

/-- Settles O21: each clause is a branch of its command. That a skipped class ends this start and advances the rotation, that
LDG_REH.CLASS names the skipped class, and that a flash-module change runs while VLT_MODS.PENDING shows one are the model's choices
(log entries 61, 66 and 67). -/
theorem rehearsalsOfTheDrain : Obligations.RehearsalsOfTheDrain := by
  unfold Obligations.RehearsalsOfTheDrain
  refine ⟨fun s hmay hd => ⟨_, execRehearsalGo_begins hmay, ?starts⟩,
    fun s hmay hd => (execRehearsalGo_begins hmay).trans (congrArg _ (State.rehBegin_skips hd)),
    fun s h => ⟨execRehearsalGo_idle h, execRehearsalScheduled_idle h⟩, fun s => State.rehMay_iff,
    fun s hmay hh ha hb => ?scheduled, fun s h => execRehearsalGo_begins h, fun s h => execRehearsalScheduled_begins h,
    fun s r hr hx => (execRehearsalEnd_running hr).trans (if_neg hx), fun s r hr hb => execRehearsalEnd_waits hr hb,
    fun s r hr hb h0 hw => ?measured⟩
  case starts =>
    rw [State.rehBegin_starts hd]
    obtain ⟨d, hq⟩ := State.enqueue_eqn (s := ({ s with ldg := s.rehLdg }.set LDG_REH_CLASS s.ldg.rehNext).setB LDG_REH_BUSY true)
      11 7 3 20000 (if s.ldg.rehNext = 3 then 4 else s.ldg.rehNext) 0 false
    rw [hq]
    exact ⟨rfl, rfl, rfl, rfl⟩
  case scheduled =>
    have hx : s.expired s.ldg.rehSince (s.get LDG_REH_HOURS * 3600000000) = true := (State.expired_iff _ _).mpr hb
    exact ⟨_, execRehearsalScheduled_begins ⟨hh, ha, hx, hmay⟩, execRehearsalGo_begins hmay⟩
  case measured =>
    intro k
    have keeps : Keeps 0x20022D (s.updLdg (s.rehOver r k)) (s.rehEnded s r k) := State.rehEnded_keeps s k
    obtain ⟨busy, result⟩ := State.get_rehEnded_shown (r := r) hw k
    exact ⟨_, execRehearsalEnd_measured hr hb h0, busy, result, keeps.ldg rfl, keeps.cch rfl, keeps.vlt rfl, keeps.pq rfl,
      keeps.glb rfl, keeps.ctl rfl⟩

section
variable {s : State} {mod : BitVec 2}

/-! ## Energy modules -/

/-- A module may be released in SERVE, while it counts at the next boundary and is not the only one to count there (R160, R161). -/
def State.MayRelease (s : State) (m : Nat) : Prop :=
  s.glb.st = .serve ∧ bitOf (s.get LDG_BANKREL_COUNTED &&& (15 ^^^ s.ldg.dropNext)) m = true ∧
    s.get LDG_BANKREL_COUNTED &&& (15 ^^^ s.ldg.dropNext) ≠ 2 ^ m

theorem execBankRelease_accepts (h : s.MayRelease mod.toNat) : execBankRelease mod s =
    .next { (s.set LDG_BANKREL_MOD mod.toNat).set LDG_BANKREL_PENDING (setBit (s.get LDG_BANKREL_PENDING) mod.toNat) with
      ldg := { s.ldg with dropNext := setBit s.ldg.dropNext mod.toNat, backNext := clrBit s.ldg.backNext mod.toNat } } := if_pos h

theorem execBankRelease_refuses (h : ¬s.MayRelease mod.toNat) : execBankRelease mod s =
    .next (if s.glb.st = .serve then s.set LDG_BANKREL_MOD mod.toNat else (s.set LDG_BANKREL_MOD mod.toNat).logRefusal 4) := if_neg h

theorem execBankReleaseCancel_pending (h : bitOf (s.get LDG_BANKREL_PENDING) mod.toNat = true) : execBankReleaseCancel mod s =
    .next { (s.set LDG_BANKREL_MOD mod.toNat).set LDG_BANKREL_PENDING (clrBit (s.get LDG_BANKREL_PENDING) mod.toNat) with
      ldg := { s.ldg with dropNext := clrBit s.ldg.dropNext mod.toNat, backNext := setBit s.ldg.backNext mod.toNat } } := if_pos h

theorem execBankReleaseCancel_idle (h : ¬bitOf (s.get LDG_BANKREL_PENDING) mod.toNat = true) : execBankReleaseCancel mod s =
    .next (s.set LDG_BANKREL_MOD mod.toNat) := if_neg h

/-- A pending module is released in SERVE once it no longer counts and 100 beats in a row were white (R161). -/
def State.ReleaseDue (s : State) (m : Nat) : Prop :=
  s.glb.st = .serve ∧ bitOf (s.get LDG_BANKREL_PENDING) m = true ∧ bitOf (s.get LDG_BANKREL_COUNTED) m = false ∧ 100 ≤ s.ldg.whiteRun

theorem execEnergyModuleReleased_due (h : s.ReleaseDue mod.toNat) : execEnergyModuleReleased mod s =
    .next ((((s.setSwitch 1 mod.toNat false).set LDG_BANKREL_PENDING (clrBit (s.get LDG_BANKREL_PENDING) mod.toNat)).set
      LDG_BANKREL_RELEASED (setBit (s.get LDG_BANKREL_RELEASED) mod.toNat)).event 0x0409 (srcModule mod.toNat)) := by
  obtain ⟨hs, hp, hc, hw⟩ := h
  exact if_pos ⟨hs, hp, by simp [hc], hw⟩

theorem execEnergyModuleReleased_idle (h : ¬s.ReleaseDue mod.toNat) : execEnergyModuleReleased mod s = .next s :=
  if_neg fun ⟨hs, hp, hc, hw⟩ => h ⟨hs, hp, by simpa using hc, hw⟩

theorem execEnergyModuleAbsent_eq : execEnergyModuleAbsent mod s =
    if bitOf (s.get LDG_BANKREL_COUNTED) mod.toNat = true ∧ bitOf (s.get LDG_BANKREL_PRESENT) mod.toNat = false then
      .next { s with ldg := { s.ldg with drops := setBit s.ldg.drops mod.toNat } }
    else .next s := by
  unfold execEnergyModuleAbsent
  simp only [Bool.not_eq_true']
  rfl

end

/-- Settles O22: each clause is a branch of its command. That a refusal in SERVE writes MOD and records nothing is the model's choice
(log entry 70); the code of the refusal recorded outside SERVE is a value left open (log entry 11). -/
theorem energyModuleReleaseAndAbsence : Obligations.EnergyModuleReleaseAndAbsence := by
  unfold Obligations.EnergyModuleReleaseAndAbsence
  exact ⟨fun mod s h => execBankRelease_accepts h, fun mod s h => execBankRelease_refuses h,
    fun mod s h => execBankReleaseCancel_pending h, fun mod s h => execBankReleaseCancel_idle h,
    fun mod s h => execEnergyModuleReleased_due h, fun mod s h => execEnergyModuleReleased_idle h,
    fun mod s h => execEnergyModuleAbsent_eq.trans (if_pos h), fun mod s h => execEnergyModuleAbsent_eq.trans (if_neg h)⟩

end Sys2Proof.Machine
end

section
/-! PROOFS. The control engine: the restart after a fault, parallel runs and set-points (R186 to R195, R516). -/

set_option Elab.async false

namespace Sys2Proof.Machine

/-! ## The restart after a fault -/

section
variable {s : State}

/-- At the end of a hold an engine outside discharge whose hand-over to discharge or to a health test is pending waits for that
hand-over's dead sample (R184, R189). -/
theorem execFaultRestart_handOver (hold : s.ctl.hold = 41) (hm : s.mode ≠ 2) (hh : s.ctl.hand = 1 ∨ s.ctl.hand = 3) :
    execFaultRestart s = .next ((s.updCtl fun c => { c with hold := 0 }).setB CTL_STATUS_FMT false) :=
  (if_neg (not_not.mpr hold)).trans ((if_neg hm).trans (if_pos (.inr hh)))

end

/-- Charge in SERVE at the end of a fault hold, with the bank near its set-point for 1,000 beats. -/
def heldInCharge : State :=
  (((State.reset.setMode 1).set LDG_STATUS_ZONE 0).updGlb fun g => { g with st := .serve }).updCtl fun c =>
    { c with hold := 41, nearRun := 1000 }

/-- A health test that begins there waits for the hold to end before its dead sample (R196). -/
def testDuringHold : State := heldInCharge.htTry

/-- Refutes O17: its clause about a restart in charge excludes a pending hand-over to discharge and not one to a health test. In
`testDuringHold` the restart leaves the hand-over to the test pending and asks for none to charge. -/
theorem not_protectiveTripAndFaultRestart : ¬Obligations.ProtectiveTripAndFaultRestart := by
  unfold Obligations.ProtectiveTripAndFaultRestart
  rintro ⟨-, -, -, hcharge, -⟩
  obtain ⟨t, ht, hand, -⟩ := hcharge testDuringHold (by decide) (by decide) (by decide) (by decide) (by decide) (by decide)
  have restart : exec .faultRestart testDuringHold = _ :=
    execFaultRestart_handOver (s := testDuringHold) (by decide) (by decide) (by decide)
  obtain rfl := Host.Outcome.next.inj (restart.symm.trans ht)
  have pending : testDuringHold.ctl.hand = 3 := by decide
  exact absurd (pending.symm.trans hand) (by decide)

/-! ## Parallel runs of block floating point -/

section
variable {s : State} {b : BfRun}

/-- A parallel run may open (R186, R188, R195). -/
def State.MayRun (s : State) : Prop :=
  (s.mode = 1 ∨ s.mode = 2) ∧ s.ctl.hand = 0 ∧ s.ctl.hold = 0 ∧ s.get CTL_CTRL_BF_EN = 1 ∧ s.get CTL_STATUS_FMT ≠ 1 ∧
    s.ctl.bf = none ∧ s.get CTL_BF_FAILS < 8 ∧ s.ctl.runFrom + 1001 ≤ s.glb.beat

theorem State.mayRun_iff : s.MayRun ↔ (s.mode = 1 ∨ s.mode = 2) ∧ s.ctl.hand = 0 ∧ s.ctl.hold = 0 ∧
    s.bit CTL_CTRL_BF_EN = true ∧ (!s.bit CTL_STATUS_FMT) = true ∧ s.ctl.bf.isNone = true ∧ s.get CTL_BF_FAILS < 8 ∧
    s.expired s.ctl.runFrom 1000 = true := by
  have waited : s.expired s.ctl.runFrom 1000 = true ↔ s.ctl.runFrom + 1001 ≤ s.glb.beat := State.expired_iff _ _
  simp [State.MayRun, State.bit, waited]

theorem execBfRunStart_opens (h : s.MayRun) : execBfRunStart s = .next
    ({ s with ctl := { s.ctl with bf := some ⟨0, 0, s.ctl.nums, s.ctl.nums⟩ } }.setB CTL_STATUS_PARALLEL true) :=
  if_pos (State.mayRun_iff.mp h)

theorem execBfRunStart_idle (h : ¬s.MayRun) : execBfRunStart s = .next s := if_neg fun k => h (State.mayRun_iff.mpr k)

/-- A run that is over, before its judgement shows (R186). -/
def State.runClosed (s : State) : State :=
  { s with ctl := { s.ctl with bf := none, runFrom := s.glb.beat } }.setB CTL_STATUS_PARALLEL false

/-- A run without a difference: block floating point takes over with its values (R186). -/
def State.runPassed (s : State) (b : BfRun) : State :=
  (((s.runClosed.updCtl fun c => { c with next := b.next }).setB CTL_STATUS_FMT true).set CTL_BF_FAILS 0).event 0x050B 0

/-- A run with a difference: the failure counts with its cause, and the eighth is recorded as such (R186). -/
def State.runFailed (s : State) (b : BfRun) : State :=
  let n := s.get CTL_BF_FAILS + 1
  let s2 := (((s.runClosed.set CTL_BF_FAILS n).set CTL_BF_LAST b.bad).setB CTL_STATUS_BF_REFUSED true).event 0x0504 0
  if n = 8 then s2.event 0x0505 0 else s2

theorem execBfRunEnd_open (hb : s.ctl.bf = some b) : execBfRunEnd s =
    if b.n < 64 then .next s else if !s.bit CTL_CTRL_BF_EN then .next s.dropBf
    else if b.bad = 0 then .next (s.runPassed b) else .next (s.runFailed b) := by
  unfold execBfRunEnd
  rw [hb]
  rfl

/-- A run of 64 samples is judged while BF_EN stands (R186, R195). -/
theorem execBfRunEnd_judges (hb : s.ctl.bf = some b) (hn : 64 ≤ b.n) (he : s.bit CTL_CTRL_BF_EN = true) : execBfRunEnd s =
    if b.bad = 0 then .next (s.runPassed b) else .next (s.runFailed b) := by
  rw [execBfRunEnd_open hb, if_neg (Nat.not_lt.mpr hn), if_neg (by simp [he])]

/-! ## Set-points -/

/-- A set-point is stored where it stands within its bounds (R516). -/
theorem State.setpoint_eq {f : Fld} {v : Nat} {p : Prop} [Decidable p] (h : s.setpointFine f v = true ↔ p) :
    s.setpoint f v = if p then s.set f v else s := if_congr h rfl rfl

theorem State.setpointFine_vbus (v : Nat) : s.setpointFine CTL_SET_VBUS_TARGET v = true ↔ 10800 ≤ v ∧ v ≤ 13200 := by
  simp [State.setpointFine]

theorem State.setpointFine_vchg (v : Nat) :
    s.setpointFine CTL_SET_VCHG_TARGET v = true ↔ s.img.vfloor + 1000 ≤ v ∧ v ≤ s.img.vchgMax := by
  have other : CTL_SET_VCHG_TARGET ≠ CTL_SET_VBUS_TARGET := by decide
  simp [State.setpointFine, other]

theorem State.setpointFine_ibankChg (v : Nat) : s.setpointFine CTL_SET_IBANK_CHG v = true ↔ 1 ≤ v ∧ v ≤ s.img.ibankChg := by
  have other : CTL_SET_IBANK_CHG ≠ CTL_SET_VBUS_TARGET ∧ CTL_SET_IBANK_CHG ≠ CTL_SET_VCHG_TARGET := by decide
  simp [State.setpointFine, other]

theorem State.setpointFine_ibankDis (v : Nat) : s.setpointFine CTL_SET_IBANK_DIS v = true ↔ 1 ≤ v ∧ v ≤ s.img.ibankDis := by
  have other : CTL_SET_IBANK_DIS ≠ CTL_SET_VBUS_TARGET ∧ CTL_SET_IBANK_DIS ≠ CTL_SET_VCHG_TARGET ∧
    CTL_SET_IBANK_DIS ≠ CTL_SET_IBANK_CHG := by decide
  simp [State.setpointFine, other]

/-- Storing a set-point leaves the image alone, and with it the bounds. -/
theorem State.setpoint_img (f : Fld) (v : Nat) : (s.setpoint f v).img = s.img := by
  unfold State.setpoint
  split
  · rfl
  · rfl

end

/-- Settles O18: runs by the branches of their commands, set-points by the bounds of each field. -/
theorem blockFloatingPointRunsAndSetPoints : Obligations.BlockFloatingPointRunsAndSetPoints := by
  unfold Obligations.BlockFloatingPointRunsAndSetPoints
  refine ⟨fun s h => execBfRunStart_opens h, fun s h => execBfRunStart_idle h,
    fun s b hb hn => (execBfRunEnd_open hb).trans (if_pos hn),
    fun s b hb hn he h0 => (execBfRunEnd_judges hb hn he).trans (if_pos h0),
    fun s b hb hn he h0 => (execBfRunEnd_judges hb hn he).trans (if_neg h0), fun s => rfl,
    fun w s => congrArg _ (State.setpoint_eq (State.setpointFine_vbus _)),
    fun w s => congrArg _ (State.setpoint_eq (State.setpointFine_vchg _)), fun w s => congrArg Host.Outcome.next ?currents⟩
  case currents =>
    have bounds : (s.setpoint CTL_SET_IBANK_CHG (w.toNat % 65536)).img.ibankDis = s.img.ibankDis := by rw [State.setpoint_img]
    rw [State.setpoint_eq (State.setpointFine_ibankDis _), bounds, State.setpoint_eq (State.setpointFine_ibankChg _)]

end Sys2Proof.Machine
end

section
/-! PROOFS. The control engine's health tests, and the ways back to charge (R184, R185, R196 to R200). -/

set_option Elab.async false

namespace Sys2Proof.Machine

section
variable {s : State} {f : Fld}

/-! ## Back to charge -/

theorem State.dropBf_ctl : s.dropBf.ctl = { s.ctl with bf := none, runFrom := s.dropBf.ctl.runFrom } := by
  unfold State.dropBf
  split
  · rfl
  · next h => exact congrArg (fun b => ({ s.ctl with bf := b } : Ctl)) (by simpa using h)

theorem State.dropBf_none (h : s.ctl.bf = none) : s.dropBf = s := if_neg (by simp [h])

theorem State.get_dropBf (h : CTL_STATUS_PARALLEL.key ≠ f.key) : s.dropBf.get f = s.get f := by
  unfold State.dropBf
  split
  · exact State.get_setB_ne h _
  · rfl

theorem State.wf_dropBf (hw : Store.wf 0 s.regs = true) : Store.wf 0 s.dropBf.regs = true := by
  unfold State.dropBf
  split
  · exact State.wf_setB hw _ _
  · exact hw

/-- The engine's values with all gates low. -/
def Ctl.gatesLow (c : Ctl) : Ctl := { c with on := 0, low := 15, zc := 0, nextOn := 0, nextLow := 15, nextZc := 0 }

theorem State.get_gatesLow (h : CTL_STATUS_PHASE_ON.key ≠ f.key) : s.gatesLow.get f = s.get f := State.get_set_ne h _

theorem State.wf_gatesLow (hw : Store.wf 0 s.regs = true) : Store.wf 0 s.gatesLow.regs = true := State.wf_set hw _ _

/-- The fields that a way back to charge, or to off where charge is not allowed, writes outside an equalise. -/
def chargeFlds : List Fld := [CTL_STATUS_PARALLEL, CTL_STATUS_PHASE_ON, CTL_STATUS_MODE, CTL_STATUS_LIMITER, CTL_STATUS_DEAD,
  CTL_STATUS_FMT, CTL_BF_FAILS]

theorem State.eqRelease_none (he : s.ctl.eq = none) : s.eqRelease = s := by
  unfold State.eqRelease
  rw [he]

/-- What stands before a way back to charge divides into charge and off: no parallel run, all gates low. -/
def State.restEngine (s : State) : State := s.dropBf.gatesLow

theorem State.restEngine_ctl : s.restEngine.ctl =
    ({ s.ctl with bf := none, runFrom := s.dropBf.ctl.runFrom } : Ctl).gatesLow :=
  congrArg Ctl.gatesLow State.dropBf_ctl

theorem State.get_restEngine (h : ∀ g ∈ chargeFlds, g.key ≠ f.key) : s.restEngine.get f = s.get f :=
  (State.get_gatesLow (h _ (by decide))).trans (State.get_dropBf (h _ (by decide)))

theorem State.restEngine_eq : s.restEngine.ctl.eq = s.ctl.eq := by
  rw [State.restEngine_ctl]
  rfl

theorem State.wf_restEngine (hw : Store.wf 0 s.regs = true) : Store.wf 0 s.restEngine.regs = true :=
  State.wf_gatesLow (State.wf_dropBf hw)

theorem State.get_ctlOff (he : s.ctl.eq = none) (h : ∀ g ∈ chargeFlds, g.key ≠ f.key) : s.ctlOff.get f = s.get f := by
  unfold State.ctlOff
  rw [State.eqRelease_none he, State.get_updCtl, State.get_setB_ne (h _ (by decide)), State.get_setB_ne (h _ (by decide)),
    State.get_set_ne (h _ (by decide))]
  exact (State.get_set_ne (h _ (by decide)) _).trans (State.get_restEngine h)

/-- The engine asks for the hand-over to charge, gates low (R185). -/
def State.chargeAsked (s : State) (ev : Bool) : State :=
  s.restEngine.updCtl fun c => { c with hand := 2, handEvent := ev, runFrom := s.glb.beat, hold := 0 }

theorem State.toCharge_allowed (ev : Bool) (h : s.bit CTL_CTRL_CHG_EN = true) : s.toCharge ev =
    if s.mode = 0 then ((s.chargeAsked ev).set CTL_BF_FAILS 0).setB CTL_STATUS_FMT false else s.chargeAsked ev :=
  if_neg (by simp [h])

theorem State.toCharge_forbidden (ev : Bool) (h : s.bit CTL_CTRL_CHG_EN = false) : s.toCharge ev = s.restEngine.ctlOff :=
  if_pos (by simp [h])

/-- A way back to charge leaves every other field alone (R185). -/
theorem State.get_toCharge (ev : Bool) (he : s.bit CTL_CTRL_CHG_EN = true ∨ s.ctl.eq = none) (h : ∀ g ∈ chargeFlds, g.key ≠ f.key) :
    (s.toCharge ev).get f = s.get f := by
  cases hc : s.bit CTL_CTRL_CHG_EN with
  | false =>
    have idle : s.restEngine.ctl.eq = none := State.restEngine_eq.trans (he.resolve_left (by simp [hc]))
    rw [State.toCharge_forbidden ev hc, State.get_ctlOff idle h, State.get_restEngine h]
  | true =>
    rw [State.toCharge_allowed ev hc]
    split
    · rw [State.get_setB_ne (h _ (by decide)), State.get_set_ne (h _ (by decide))]
      exact State.get_restEngine h
    · exact State.get_restEngine h

/-- Where charge is allowed the engine's values are those of the hand-over asked for (R185). -/
theorem State.toCharge_ctl (ev : Bool) (he : s.bit CTL_CTRL_CHG_EN = true) : (s.toCharge ev).ctl = (s.chargeAsked ev).ctl := by
  rw [State.toCharge_allowed ev he]
  split
  · rfl
  · rfl

theorem State.chargeAsked_ctl (ev : Bool) :
    (s.chargeAsked ev).ctl = { s.restEngine.ctl with hand := 2, handEvent := ev, runFrom := s.glb.beat, hold := 0 } := rfl

/-! ## Health tests -/

/-- A health test may begin (R196). -/
def State.MayTest (s : State) : Prop :=
  s.ctl.ht = none ∧ s.glb.st = .serve ∧ s.get LDG_STATUS_ZONE = 0 ∧ s.mode = 1 ∧ s.ctl.hand ≠ 1 ∧ 1000 ≤ s.ctl.nearRun ∧
    s.get LDG_BANKREL_PENDING = 0

/-- A test begins with step 1 and its dead sample pending, gates low, in fixed point (R196, R197). -/
theorem State.htTry_begins (h : s.MayTest) : s.htTry =
    ((((s.restEngine.updCtl fun c => { c with
      ht := some ⟨1, 0, s.modsIn, 0, 0, 0, 0, 0⟩, htWant := false, htRef := s.glb.beat, hand := 3 }).setB CTL_HT_STATUS_BUSY true).set
      CTL_HT_STATUS_STEP 1).setB CTL_STATUS_FMT false) := by
  obtain ⟨ht, h⟩ := h
  exact if_pos ⟨by simp [ht], h⟩

/-- A refusal shows and is recorded, and the test stays wanted (R196). -/
theorem State.htTry_refuses (h : ¬s.MayTest) : s.htTry =
    ((({ s with ctl := { s.ctl with htWant := true, htTry := s.glb.beat } }.set CTL_HT_STATUS_RESULT 4).setB CTL_STATUS_HT_DONE
      true).event 0x0508 0) :=
  if_neg fun ⟨ht, k⟩ => h ⟨by simpa using ht, k⟩

/-- The hours of the schedule have passed since its reference moment (R196). -/
def State.HoursPassed (s : State) : Prop :=
  s.get CTL_HT_CTRL_HOURS ≠ 0 ∧ s.ctl.htRef + s.get CTL_HT_CTRL_HOURS * 3600000000 + 1 ≤ s.glb.beat

theorem execHealthTestScheduled_due (h : s.HoursPassed) (hw : s.ctl.htWant = false) :
    execHealthTestScheduled s = .next s.htTry :=
  if_pos ⟨h.1, (State.expired_iff _ _).mpr h.2, by simp [hw]⟩

theorem execHealthTestScheduled_idle (h : ¬s.HoursPassed) : execHealthTestScheduled s = .next s :=
  if_neg fun ⟨hours, passed, _⟩ => h ⟨hours, (State.expired_iff _ _).mp passed⟩

/-- A refused test is tried again after 1,000 beats (R196). -/
def State.RetryDue (s : State) : Prop := s.ctl.htWant = true ∧ s.ctl.htTry + 1001 ≤ s.glb.beat

theorem execHealthTestRetry_due (h : s.RetryDue) : execHealthTestRetry s = .next s.htTry :=
  if_pos ⟨h.1, (State.expired_iff _ _).mpr h.2⟩

theorem execHealthTestRetry_idle (h : ¬s.RetryDue) : execHealthTestRetry s = .next s :=
  if_neg fun ⟨want, passed⟩ => h ⟨want, (State.expired_iff _ _).mp passed⟩

section
variable {h : HtRun}

/-- The engine after a test: none runs, and a hand-over to it is no longer pending. -/
def State.testOver (s : State) : State :=
  ({ s with ctl := { s.ctl with ht := none, hand := if s.ctl.hand = 3 then 0 else s.ctl.hand } }.setB CTL_HT_STATUS_BUSY false).set
    CTL_HT_STATUS_STEP 0

/-- In step H5 the published result stands (R200). -/
theorem State.htEnd_recharging (hh : s.ctl.ht = some h) (h5 : h.step = 5) : s.htEnd = s.testOver := by
  unfold State.htEnd
  rw [hh]
  exact if_pos h5

/-- Before step H5 a test that ends shows result 2 and is recorded (R200). -/
theorem State.htEnd_early (hh : s.ctl.ht = some h) (h5 : h.step < 5) : s.htEnd =
    ((s.testOver.set CTL_HT_STATUS_RESULT 2).setB CTL_STATUS_HT_DONE true).event 0x0508 0 := by
  unfold State.htEnd
  rw [hh]
  exact if_neg h5.ne

theorem State.htAbandon_none (hh : s.ctl.ht = none) : s.htAbandon = s := by
  unfold State.htAbandon
  rw [hh]

theorem State.htAbandon_early (hh : s.ctl.ht = some h) (h5 : h.step < 5) : s.htAbandon = s.htEnd.toCharge false := by
  unfold State.htAbandon
  rw [hh]
  exact if_neg h5.ne

/-- What a test that ends before step H5 shows (R200). -/
theorem State.get_htEnd_shown (hw : Store.wf 0 s.regs = true) (hh : s.ctl.ht = some h) (h5 : h.step < 5) :
    s.htEnd.get CTL_HT_STATUS_RESULT = 2 ∧ s.htEnd.get CTL_HT_STATUS_BUSY = 0 ∧ s.htEnd.get CTL_HT_STATUS_STEP = 0 ∧
      s.htEnd.get CTL_STATUS_HT_DONE = 1 := by
  have untouched {f : Fld} (hr : CTL_HT_STATUS_RESULT.key ≠ f.key) (hd : CTL_STATUS_HT_DONE.key ≠ f.key) :
      s.htEnd.get f = s.testOver.get f := by
    rw [State.htEnd_early hh h5, State.get_event, State.get_setB_ne hd, State.get_set_ne hr]
  refine ⟨?result, ?busy, ?step, ?done⟩
  case result =>
    rw [State.htEnd_early hh h5, State.get_event, State.get_setB_ne (by decide)]
    exact State.get_set_of_ne (by decide)
  case busy =>
    rw [untouched (by decide) (by decide)]
    exact (State.get_set_ne (by decide) _).trans (State.get_setB hw _ _)
  case step =>
    rw [untouched (by decide) (by decide)]
    exact State.get_set (State.wf_setB hw _ _) _ _
  case done =>
    rw [State.htEnd_early hh h5, State.get_event]
    exact State.get_set_of_ne (by decide)

theorem State.htEnd_ctl (hh : s.ctl.ht = some h) (h5 : h.step < 5) :
    s.htEnd.ctl = { s.ctl with ht := none, hand := if s.ctl.hand = 3 then 0 else s.ctl.hand } := by
  rw [State.htEnd_early hh h5, State.event_ctl]
  rfl

/-- The end of a test leaves the permission to charge alone. -/
theorem State.bit_htEnd_chgEn (hh : s.ctl.ht = some h) (h5 : h.step < 5) : s.htEnd.bit CTL_CTRL_CHG_EN = s.bit CTL_CTRL_CHG_EN := by
  unfold State.bit
  rw [State.htEnd_early hh h5, State.get_event, State.get_setB_ne (by decide), State.get_set_ne (by decide), State.testOver,
    State.get_set_ne (by decide), State.get_setB_ne (by decide)]
  rfl

/-- The samples of a step of a health test (R197). -/
def State.stepSamples (s : State) (n : Nat) : Nat :=
  if n = 1 ∨ n = 3 then s.img.htRamp else if n = 2 then s.img.htN else 128

/-- A step before the third that has run its samples is followed by the next (R197). -/
theorem execHealthTestStepEnd_advances (hh : s.ctl.ht = some h) (hm : s.mode = 3) (hk : s.stepSamples h.step ≤ h.k)
    (h3 : h.step < 3) : execHealthTestStepEnd s =
    .next ({ s with ctl := { s.ctl with ht := some { h with step := h.step + 1, k := 0 } } }.set CTL_HT_STATUS_STEP (h.step + 1)) := by
  have runs : ¬(s.mode ≠ 3 ∨ h.k < s.stepSamples h.step ∨ 5 ≤ h.step) := by omega
  unfold execHealthTestStepEnd
  rw [hh]
  exact (if_neg runs).trans ((if_neg (by omega)).trans (if_neg (by omega)))

theorem execHealthTestRecharged_near (hh : s.ctl.ht = some h) (h5 : h.step = 5) (hm : s.mode = 1) (hd : s.ctl.hand = 0)
    (hn : s.nearVchg = true) : execHealthTestRecharged s =
      .next (({ s with ctl := { s.ctl with ht := none } }.setB CTL_HT_STATUS_BUSY false).set CTL_HT_STATUS_STEP 0) := by
  unfold execHealthTestRecharged
  rw [hh]
  dsimp only
  have hand : (if s.ctl.hand = 3 then 0 else s.ctl.hand) = s.ctl.hand := if_neg (by omega)
  rw [if_pos ⟨h5, hm, hd, hn⟩, State.htEnd_recharging hh h5, State.testOver, hand]

end

end

/-- Settles O19: a try by `htTry_begins` and `htTry_refuses`, an abort by what `htEnd` shows and `toCharge` leaves alone, the rest by
the commands' branches. -/
theorem healthTestBeginsOrIsRefused : Obligations.HealthTestBeginsOrIsRefused := by
  unfold Obligations.HealthTestBeginsOrIsRefused
  refine ⟨fun s ht hb may => ⟨_, rfl, ?begins⟩, fun s h => congrArg _ (State.htTry_refuses h),
    fun s hh hp hw => ⟨_, execHealthTestScheduled_due ⟨hh, hp⟩ hw, rfl⟩, fun s => rfl, fun s h => if_pos h,
    fun s h => execHealthTestScheduled_idle ?notYet,
    fun s => ⟨fun h => ⟨_, execHealthTestRetry_due h, rfl⟩, fun h => execHealthTestRetry_idle h⟩,
    fun s => ⟨fun hh => congrArg _ (State.htAbandon_none hh), fun h hh h5 hw he => ⟨_, rfl, ?aborts⟩⟩,
    fun s h hh h5 => ⟨congrArg _ (State.htAbandon_early hh h5), State.htEnd_early hh h5⟩,
    fun s h hh hm done => done.elim (fun ⟨h1, hk⟩ => ?ramp) fun ⟨h2, hk⟩ => ?window,
    fun s h hh h5 hm hd hn => execHealthTestRecharged_near hh h5 hm hd hn⟩
  case begins =>
    rw [State.htTry_begins ⟨ht, may⟩, State.restEngine, State.dropBf_none hb]
    exact ⟨rfl, rfl, rfl, rfl, rfl, rfl, rfl⟩
  case notYet =>
    rintro ⟨hours, passed⟩
    exact h.elim hours fun early => by omega
  case ramp => exact execHealthTestStepEnd_advances hh hm ((if_pos (.inl h1)).trans_le hk) (by omega)
  case window => exact execHealthTestStepEnd_advances hh hm (((if_neg (by omega)).trans (if_pos h2)).trans_le hk) (by omega)
  case aborts =>
    have hen : s.htEnd.bit CTL_CTRL_CHG_EN = true := (State.bit_htEnd_chgEn hh h5).trans he
    obtain ⟨result, busy, step, done⟩ := State.get_htEnd_shown hw hh h5
    have stays {f : Fld} (hf : ∀ g ∈ chargeFlds, g.key ≠ f.key) : (s.htEnd.toCharge false).get f = s.htEnd.get f :=
      State.get_toCharge false (.inl hen) hf
    rw [State.htAbandon_early hh h5, State.toCharge_ctl false hen, State.chargeAsked_ctl, State.restEngine_ctl, State.htEnd_ctl hh h5,
      stays (by decide), stays (by decide), stays (by decide), stays (by decide)]
    exact ⟨rfl, rfl, result, busy, step, done⟩

end Sys2Proof.Machine
end

section
/-! PROOFS. The equalise of energy modules (R199, R201, R513). -/

set_option Elab.async false

namespace Sys2Proof.Machine

section
variable {s : State} {f : Fld} {e : EqRun} {own m : Nat} {lvl : Bool}

/-! ## Switches -/

/-- A field below those of the rails stays as a switch is driven (R371). -/
theorem State.get_setSwitch (hf : f.key < (SEQ_RAIL_STATE 0).key) : (s.setSwitch own m lvl).get f = s.get f := by
  unfold State.setSwitch
  split
  · rfl
  · refine State.get_set_ne ?_ _
    simp only [Fld.key, SEQ_RAIL_STATE] at hf ⊢
    omega

theorem State.setSwitch_ctl : (s.setSwitch own m lvl).ctl = s.ctl := (State.setSwitch_keeps own m lvl (.refl 0x8001 s)).ctl rfl

theorem State.wf_setSwitch (hw : Store.wf 0 s.regs = true) : Store.wf 0 (s.setSwitch own m lvl).regs = true := by
  unfold State.setSwitch
  split
  · exact hw
  · exact State.wf_set hw _ _

/-- Drive the switch rails of the energy modules of a mask. -/
def State.setSwitches (s : State) (own mods : Nat) (lvl : Bool) : State :=
  (modsOf mods).foldl (fun t m => t.setSwitch own m lvl) s

theorem State.get_setSwitches {mods : Nat} (hf : f.key < (SEQ_RAIL_STATE 0).key) : (s.setSwitches own mods lvl).get f = s.get f :=
  State.get_foldl_of_step (fun _ _ => State.get_setSwitch hf) _ _

theorem State.setSwitches_keeps {mods : Nat} : Keeps 0x8001 s (s.setSwitches own mods lvl) :=
  Keeps.foldl (fun t _ => State.setSwitch_keeps _ _ _ (.refl _ t)) _ (.refl _ s)

theorem State.setSwitches_ctl {mods : Nat} : (s.setSwitches own mods lvl).ctl = s.ctl := State.setSwitches_keeps.ctl rfl

theorem State.wf_setSwitches {mods : Nat} (hw : Store.wf 0 s.regs = true) : Store.wf 0 (s.setSwitches own mods lvl).regs = true :=
  List.foldlRecOn (motive := fun t : State => Store.wf 0 t.regs = true) _ _ hw fun _ ht _ _ => State.wf_setSwitch ht

/-! ## An equalise ends -/

/-- The end of an equalise opens the precharge switches of its modules and shows no equalise busy (R184, R201). -/
theorem State.eqRelease_some (he : s.ctl.eq = some e) : s.eqRelease =
    ((s.updCtl fun c => { c with eq := none, eqDone := c.eqDone || e.boot }).setSwitches 2 e.mods false).setB CTL_EQ_BUSY false := by
  unfold State.eqRelease
  rw [he]
  rfl

theorem State.eqRelease_ctl (he : s.ctl.eq = some e) :
    s.eqRelease.ctl = { s.ctl with eq := none, eqDone := s.ctl.eqDone || e.boot } := by
  rw [State.eqRelease_some he, State.setB_ctl, State.setSwitches_ctl]
  rfl

theorem State.get_eqRelease (he : s.ctl.eq = some e) (hb : CTL_EQ_BUSY.key ≠ f.key) (hf : f.key < (SEQ_RAIL_STATE 0).key) :
    s.eqRelease.get f = s.get f := by
  rw [State.eqRelease_some he, State.get_setB_ne hb, State.get_setSwitches hf, State.get_updCtl]

theorem State.get_eqRelease_busy (hw : Store.wf 0 s.regs = true) (he : s.ctl.eq = some e) : s.eqRelease.get CTL_EQ_BUSY = 0 := by
  rw [State.eqRelease_some he]
  exact State.get_setB (State.wf_setSwitches (s := s.updCtl _) hw) _ _

theorem State.wf_eqRelease (hw : Store.wf 0 s.regs = true) (he : s.ctl.eq = some e) : Store.wf 0 s.eqRelease.regs = true := by
  rw [State.eqRelease_some he]
  exact State.wf_setB (State.wf_setSwitches (s := s.updCtl _) hw) _ _

/-! ## Back to charge with no equalise -/

theorem State.ctlOff_ctl (he : s.ctl.eq = none) : s.ctlOff.ctl = { s.restEngine.ctl with hand := 0, hold := 0, eqWant := [] } := by
  unfold State.ctlOff
  rw [State.eqRelease_none he]
  rfl

theorem State.ctlOff_mode (hw : Store.wf 0 s.regs = true) (he : s.ctl.eq = none) : s.ctlOff.mode = 0 := by
  unfold State.ctlOff State.mode
  rw [State.eqRelease_none he, State.get_updCtl, State.get_setB_ne (by decide), State.get_setB_ne (by decide),
    State.get_set_ne (by decide)]
  exact State.get_set (State.wf_restEngine hw) _ _

/-- A way back to charge begins no equalise and forgets none that has ended (R185). -/
theorem State.toCharge_eq (ev : Bool) (he : s.ctl.eq = none) :
    (s.toCharge ev).ctl.eq = none ∧ (s.toCharge ev).ctl.eqDone = s.ctl.eqDone := by
  cases hc : s.bit CTL_CTRL_CHG_EN with
  | false =>
    rw [State.toCharge_forbidden ev hc, State.ctlOff_ctl (State.restEngine_eq.trans he)]
    simp only [State.restEngine_ctl]
    exact ⟨he, rfl⟩
  | true =>
    rw [State.toCharge_ctl ev hc, State.chargeAsked_ctl, State.restEngine_ctl]
    exact ⟨he, rfl⟩

/-- The engine is not in charge while a hand-over to it is only asked for (R185). -/
theorem State.toCharge_mode (ev : Bool) (hw : Store.wf 0 s.regs = true) (he : s.ctl.eq = none) (hm : s.mode ≠ 1) :
    (s.toCharge ev).mode ≠ 1 := by
  cases hc : s.bit CTL_CTRL_CHG_EN with
  | false =>
    rw [State.toCharge_forbidden ev hc, State.ctlOff_mode (State.wf_restEngine hw) (State.restEngine_eq.trans he)]
    decide
  | true =>
    have asked : (s.chargeAsked ev).mode = s.mode := (State.get_gatesLow (by decide)).trans (State.get_dropBf (by decide))
    rw [State.toCharge_allowed ev hc]
    split
    · have stays : (((s.chargeAsked ev).set CTL_BF_FAILS 0).setB CTL_STATUS_FMT false).mode = (s.chargeAsked ev).mode :=
        (State.get_setB_ne (by decide) _).trans (State.get_set_ne (by decide) _)
      rwa [stays, asked]
    · rwa [asked]

/-! ## An equalise of one module -/

theorem State.eqMay_iff : s.eqMay m = true ↔ s.glb.st = .serve ∧ bitOf (s.get LDG_BANKREL_PRESENT) m = true ∧
    bitOf (s.get LDG_BANKREL_COUNTED) m = false := by
  simp [State.eqMay, and_assoc]

/-- A module whose equalise is asked for in CTL_EQ and waits for charge (R201). -/
def State.eqAsked (s : State) (m : Nat) : State :=
  (s.set CTL_EQ_MOD m).updCtl fun c => { c with eqWant := c.eqWant ++ [m] }

theorem State.eqMay_eqAsked (k : Nat) : (s.eqAsked k).eqMay m = s.eqMay m := by
  unfold State.eqMay State.eqAsked
  simp only [State.get_updCtl, State.get_set_ne (s := s) (f := LDG_BANKREL_PRESENT) (g := CTL_EQ_MOD) (by decide),
    State.get_set_ne (s := s) (f := LDG_BANKREL_COUNTED) (g := CTL_EQ_MOD) (by decide)]
  rfl

theorem State.htEnd_none (h : s.ctl.ht = none) : s.htEnd = s := by
  unfold State.htEnd
  rw [h]

/-- The engine in equalise for a module: gates low, in fixed point, its precharge switch closed (R201). -/
def State.equalising (s : State) (m : Nat) (rest : List Nat) : State :=
  ((((((s.updCtl fun c => { c with eqWant := rest }).gatesLow.setMode 4).set CTL_STATUS_LIMITER 0).setB CTL_STATUS_FMT false).updCtl
    fun c => { c with eq := some ⟨2 ^ m, false, s.glb.beat, [], 2 ^ m, 0⟩, hold := 0 }).setSwitch 2 m true).setB CTL_EQ_BUSY true

/-- The fields that the start of an equalise writes beside those of the rails. -/
def equaliseFlds : List Fld := [CTL_STATUS_PHASE_ON, CTL_STATUS_MODE, CTL_STATUS_LIMITER, CTL_STATUS_FMT, CTL_EQ_BUSY]

theorem State.get_equalising {rest : List Nat} (h : ∀ g ∈ equaliseFlds, g.key ≠ f.key) (hf : f.key < (SEQ_RAIL_STATE 0).key) :
    (s.equalising m rest).get f = s.get f := by
  unfold State.equalising State.setMode
  rw [State.get_setB_ne (h _ (by decide)), State.get_setSwitch hf, State.get_updCtl, State.get_setB_ne (h _ (by decide)),
    State.get_set_ne (h _ (by decide)), State.get_set_ne (h _ (by decide)), State.get_gatesLow (h _ (by decide)), State.get_updCtl]

theorem State.equalising_mode {rest : List Nat} : (s.equalising m rest).mode = 4 := by
  unfold State.mode State.equalising
  rw [State.get_setB_ne (by decide), State.get_setSwitch (by decide), State.get_updCtl, State.get_setB_ne (by decide),
    State.get_set_ne (by decide)]
  exact State.get_set_of_ne (by decide)

theorem State.equalising_ctl {rest : List Nat} : (s.equalising m rest).ctl =
    { s.ctl.gatesLow with eqWant := rest, eq := some ⟨2 ^ m, false, s.glb.beat, [], 2 ^ m, 0⟩, hold := 0 } := by
  unfold State.equalising
  rw [State.setB_ctl, State.setSwitch_ctl]
  rfl

/-- In charge with no hand-over, no equalise, no test and no parallel run the oldest accepted module is taken (R171, R201). -/
theorem State.eqStart_takes {rest : List Nat} (hq : s.ctl.eqWant = m :: rest) (may : s.eqMay m = true) (hm : s.mode = 1)
    (hh : s.ctl.hand = 0) (he : s.ctl.eq = none) (ht : s.ctl.ht = none) (hb : s.ctl.bf = none) :
    s.eqStart = s.equalising m rest := by
  have test : (s.updCtl fun c => { c with eqWant := rest }).htEnd = s.updCtl fun c => { c with eqWant := rest } :=
    State.htEnd_none ht
  have run : (s.updCtl fun c => { c with eqWant := rest }).dropBf = s.updCtl fun c => { c with eqWant := rest } :=
    State.dropBf_none hb
  unfold State.eqStart
  rw [hq]
  dsimp only
  rw [if_neg (by simp [hm, hh, he]), if_neg (by simp [may]), test, run]
  rfl

theorem execEqualiseGo_accepts {mod : BitVec 2} (h : s.eqMay mod.toNat = true) :
    execEqualiseGo mod s = .next (s.eqAsked mod.toNat).eqStart := if_pos h

theorem execEqualiseGo_refuses {mod : BitVec 2} (h : s.eqMay mod.toNat = false) :
    execEqualiseGo mod s = .next ((s.set CTL_EQ_MOD mod.toNat).setB CTL_EQ_FAIL true) := if_neg (by simp [h])

/-- The modules of an equalise that is done have joined the bank: isolation switches closed, precharge switches open (R201). -/
def State.joined (s : State) (e : EqRun) : State :=
  let s2 := (s.setSwitches 1 e.mods true).eqRelease.setB CTL_EQ_DONE true
  (s2.set LDG_BANKREL_JOINED (s2.get LDG_BANKREL_JOINED ||| e.mods)).set LDG_BANKREL_RELEASED
    (s2.get LDG_BANKREL_RELEASED &&& (15 ^^^ e.mods))

theorem execEqualiseDone_of (he : s.ctl.eq = some e) : execEqualiseDone s =
    if e.boot ∨ e.met ≠ e.mods ∨ s.mode ≠ 4 then .next s
    else .next (((s.joined e).toCharge false).event 0x050C 0).htTry := by
  unfold execEqualiseDone
  rw [he]
  rfl

theorem execEqualiseDone_joins (he : s.ctl.eq = some e) (boot : e.boot = false) (met : e.met = e.mods) (hm : s.mode = 4) :
    execEqualiseDone s = .next (((s.joined e).toCharge false).event 0x050C 0).htTry :=
  (execEqualiseDone_of he).trans (if_neg (by simp [boot, met, hm]))

/-- The fields that a join writes beside those of the rails. -/
def joinFlds : List Fld := [CTL_EQ_BUSY, CTL_EQ_DONE, LDG_BANKREL_JOINED, LDG_BANKREL_RELEASED]

section
variable (he : s.ctl.eq = some e)
include he

/-- The equalise is the same when the isolation switches of its modules have closed. -/
theorem State.setSwitches_eq {mods : Nat} : (s.setSwitches own mods lvl).ctl.eq = some e := by rw [State.setSwitches_ctl, he]

theorem State.joined_ctl : (s.joined e).ctl = { s.ctl with eq := none, eqDone := s.ctl.eqDone || e.boot } :=
  (State.eqRelease_ctl (State.setSwitches_eq he)).trans (by rw [State.setSwitches_ctl])

theorem State.get_joined (h : ∀ g ∈ joinFlds, g.key ≠ f.key) (hf : f.key < (SEQ_RAIL_STATE 0).key) :
    (s.joined e).get f = s.get f := by
  unfold State.joined
  rw [State.get_set_ne (h _ (by decide)), State.get_set_ne (h _ (by decide)), State.get_setB_ne (h _ (by decide)),
    State.get_eqRelease (State.setSwitches_eq he) (h _ (by decide)) hf, State.get_setSwitches hf]

theorem State.wf_joined (hw : Store.wf 0 s.regs = true) : Store.wf 0 (s.joined e).regs = true :=
  State.wf_set (State.wf_set (State.wf_setB (State.wf_eqRelease (State.wf_setSwitches hw) (State.setSwitches_eq he)) _ _) _ _) _ _

/-- What a join shows: the equalise done and no longer busy, its modules joined (R201). -/
theorem State.get_joined_shown (hw : Store.wf 0 s.regs = true) : (s.joined e).get CTL_EQ_DONE = 1 ∧ (s.joined e).get CTL_EQ_BUSY = 0 ∧
    (s.joined e).get LDG_BANKREL_JOINED = (s.get LDG_BANKREL_JOINED ||| e.mods) % 16 := by
  have eq := State.setSwitches_eq (own := 1) (mods := e.mods) (lvl := true) he
  have hw1 : Store.wf 0 (s.setSwitches 1 e.mods true).regs = true := State.wf_setSwitches hw
  have hw2 := State.wf_setB (State.wf_eqRelease hw1 eq) CTL_EQ_DONE true
  unfold State.joined
  refine ⟨?done, ?busy, ?joined⟩
  case done =>
    rw [State.get_set_ne (by decide), State.get_set_ne (by decide)]
    exact State.get_set_of_ne (by decide)
  case busy =>
    rw [State.get_set_ne (by decide), State.get_set_ne (by decide), State.get_setB_ne (by decide)]
    exact State.get_eqRelease_busy hw1 eq
  case joined =>
    rw [State.get_set_ne (by decide), State.get_set hw2, State.get_setB_ne (by decide), State.get_eqRelease eq (by decide) (by decide),
      State.get_setSwitches (by decide)]
    rfl

end

/-- The outcome of an equalise that ends without its module (R201). -/
def State.timedOut (s : State) : State := s.eqRelease.setB CTL_EQ_FAIL true

theorem execEqualiseTimeout_of (he : s.ctl.eq = some e) : execEqualiseTimeout s =
    if e.boot ∨ !s.expired e.start s.img.eqBeats ∨ s.mode ≠ 4 then .next s
    else .next ((s.timedOut.toCharge false).event 0x050D 0) := by
  unfold execEqualiseTimeout
  rw [he]
  rfl

theorem execEqualiseTimeout_late (he : s.ctl.eq = some e) (boot : e.boot = false) (late : s.expired e.start s.img.eqBeats = true)
    (hm : s.mode = 4) : execEqualiseTimeout s = .next ((s.timedOut.toCharge false).event 0x050D 0) :=
  (execEqualiseTimeout_of he).trans (if_neg (by simp [boot, late, hm]))

/-! ## The equalise of BOOT -/

/-- The boot equalise takes all modules present (R513). -/
def State.bootEqualising (s : State) : State :=
  ((s.setMode 4).updCtl fun c => { c with
    eq := some ⟨s.get LDG_BANKREL_PRESENT, true, s.glb.beat, [], s.get LDG_BANKREL_PRESENT, 0⟩ }).setSwitches 2
      (s.get LDG_BANKREL_PRESENT) true

theorem execBootEqualise_takes (h : s.glb.st = .boot ∧ s.ctlValid ∧ !s.ctl.eqDone ∧ s.ctl.eq.isNone ∧ s.mode = 0)
    (hp : ¬s.get LDG_BANKREL_PRESENT = 0) : execBootEqualise s = .next s.bootEqualising := (if_pos h).trans (if_neg hp)

/-- The modules of the boot equalise that met the window count, and the engine is off (R513). -/
def State.bootCounted (s : State) (e : EqRun) : State :=
  ((s.setSwitches 1 e.met true).eqRelease.set LDG_BANKREL_COUNTED e.met).setMode 0

/-- Each module that did not meet the window is recorded (R513). -/
def State.recordMissed (s : State) (e : EqRun) : State :=
  ((modsOf e.mods).filter fun m => !bitOf e.met m).foldl (fun t m => t.event 0x050D (srcModule m)) s

theorem State.recordMissed_ctl : (s.recordMissed e).ctl = s.ctl :=
  foldl_eq_of_step (f := State.ctl) (fun _ _ => State.event_ctl _ _ _) _ _

theorem State.get_recordMissed : (s.recordMissed e).get f = s.get f :=
  State.get_foldl_of_step (fun _ _ => State.get_event _ _ _) _ _

theorem execBootEqualiseEnd_of (he : s.ctl.eq = some e) : execBootEqualiseEnd s =
    if !e.boot ∨ s.mode ≠ 4 ∨ (e.met ≠ e.mods ∧ !s.expired e.start s.img.eqBeats) then .next s
    else .next ((s.bootCounted e).recordMissed e).bootCharge := by
  unfold execBootEqualiseEnd
  rw [he]
  rfl

theorem execBootEqualiseEnd_ends (he : s.ctl.eq = some e) (boot : e.boot = true)
    (ended : e.met = e.mods ∨ s.expired e.start s.img.eqBeats = true) (hm : s.mode = 4) :
    execBootEqualiseEnd s = .next ((s.bootCounted e).recordMissed e).bootCharge := by
  refine (execBootEqualiseEnd_of he).trans (if_neg ?_)
  rintro (notBoot | away | ⟨notMet, early⟩)
  · simp [boot] at notBoot
  · exact away hm
  · simp [ended.resolve_left notMet] at early

/-- The entry to charge in BOOT begins no equalise and forgets none that has ended. -/
theorem State.bootCharge_eq (he : s.ctl.eq = none) : s.bootCharge.ctl.eq = none ∧ s.bootCharge.ctl.eqDone = s.ctl.eqDone := by
  unfold State.bootCharge
  split
  · exact State.toCharge_eq false he
  · exact ⟨he, rfl⟩

theorem State.get_bootCharge (he : s.ctl.eq = none) (h : ∀ g ∈ chargeFlds, g.key ≠ f.key) : s.bootCharge.get f = s.get f := by
  unfold State.bootCharge
  split
  · exact State.get_toCharge false (.inr he) h
  · rfl

section
variable (he : s.ctl.eq = some e)
include he

theorem State.bootCounted_ctl : (s.bootCounted e).ctl = { s.ctl with eq := none, eqDone := s.ctl.eqDone || e.boot } :=
  (State.eqRelease_ctl (State.setSwitches_eq he)).trans (by rw [State.setSwitches_ctl])

theorem State.get_bootCounted_shown (hw : Store.wf 0 s.regs = true) :
    (s.bootCounted e).get LDG_BANKREL_COUNTED = e.met % 16 ∧ (s.bootCounted e).get CTL_EQ_BUSY = 0 := by
  have eq := State.setSwitches_eq (own := 1) (mods := e.met) (lvl := true) he
  have hw1 : Store.wf 0 (s.setSwitches 1 e.met true).regs = true := State.wf_setSwitches hw
  refine ⟨?counted, ?busy⟩
  case counted => exact (State.get_set_ne (by decide) _).trans (State.get_set (State.wf_eqRelease hw1 eq) _ _)
  case busy =>
    exact (State.get_set_ne (by decide) _).trans ((State.get_set_ne (by decide) _).trans (State.get_eqRelease_busy hw1 eq))

end

end

section
variable {s : State} {e : EqRun}

/-- After an equalise that is done the engine is on its way back to charge, so the test it asks for waits (R196, R201). -/
theorem State.joined_asks_test (hw : Store.wf 0 s.regs = true) (he : s.ctl.eq = some e) (hm : s.mode = 4) :
    (((s.joined e).toCharge false).event 0x050C 0).htTry.ctl =
      { ((s.joined e).toCharge false).ctl with htWant := true, htTry := ((s.joined e).toCharge false).glb.beat } ∧
    ∀ f, CTL_HT_STATUS_RESULT.key ≠ f.key → CTL_STATUS_HT_DONE.key ≠ f.key →
      (((s.joined e).toCharge false).event 0x050C 0).htTry.get f = ((s.joined e).toCharge false).get f := by
  have idle : (s.joined e).ctl.eq = none := by rw [State.joined_ctl he]
  have mode : (s.joined e).mode = 4 := (State.get_joined he (by decide) (by decide)).trans hm
  have away : ((s.joined e).toCharge false).mode ≠ 1 := State.toCharge_mode false (State.wf_joined he hw) idle (by omega)
  have refused : ¬(((s.joined e).toCharge false).event 0x050C 0).MayTest := fun ⟨_, _, _, charge, _⟩ =>
    away ((State.get_event _ _ _).symm.trans charge)
  rw [State.htTry_refuses refused]
  refine ⟨?_, fun f hr hd => ?_⟩
  · rw [State.event_ctl, State.setB_ctl, State.set_ctl]
    dsimp only
    rw [State.event_ctl, State.event_glb]
  · rw [State.get_event, State.get_setB_ne hd, State.get_set_ne hr]
    exact State.get_event _ _ f

end

/-- Settles O20: what each command does by its branch, what the engine and the registers then are by the lemmas about `equalising`,
`joined`, `bootCounted` and the way back to charge, the parts that it leaves alone by its `_keeps` lemma. -/
theorem equaliseOfEnergyModules : Obligations.EqualiseOfEnergyModules := by
  unfold Obligations.EqualiseOfEnergyModules
  refine ⟨fun m s => State.eqMay_iff, fun mod s hw ⟨may, hm, hh, he, hq, ht, hb⟩ => ⟨_, execEqualiseGo_accepts may, ?go⟩,
    fun mod s h => execEqualiseGo_refuses h, fun mod s h => execEqualiseGo_accepts h,
    fun s e he boot met hm hw => ⟨_, execEqualiseDone_joins he boot met hm, ?done⟩,
    fun s e he boot late hm hw => ⟨_, execEqualiseTimeout_late he boot late hm, ?timeout⟩,
    fun s hw st valid notDone he hm hp => ⟨_, execBootEqualise_takes ⟨st, valid, by simp [notDone], by simp [he], hm⟩ hp, ?boot⟩,
    fun s h hp => execBootEqualise_takes h hp,
    fun s e he boot ended hm hw => ⟨_, execBootEqualiseEnd_ends he boot ended hm, ?bootEnd⟩,
    fun s e he h => (execEqualiseDone_of he).trans (if_neg h), fun s e he h => (execEqualiseTimeout_of he).trans (if_neg h),
    fun s e he h => (execBootEqualiseEnd_of he).trans (if_neg h), fun s he => ?none⟩
  case go =>
    have keeps := (execEqualiseGo_keeps mod (.refl 0x20C20D s)) _ (execEqualiseGo_accepts may)
    have asked : (s.eqAsked mod.toNat).mode = s.mode := State.get_set_ne (by decide) _
    have queue : (s.eqAsked mod.toNat).ctl.eqWant = [mod.toNat] := congrArg (· ++ [mod.toNat]) hq
    have start : (s.eqAsked mod.toNat).eqStart = (s.eqAsked mod.toNat).equalising mod.toNat [] :=
      State.eqStart_takes queue ((State.eqMay_eqAsked _).trans may) (asked.trans hm) hh he ht hb
    refine ⟨?mode, ?on, ?low, ?eq, ?busy, ?shown, keeps.cch rfl, keeps.vlt rfl, keeps.glb rfl, keeps.pq rfl⟩
    all_goals rw [start]
    case mode => exact State.equalising_mode
    case on => rw [State.equalising_ctl]; rfl
    case low => rw [State.equalising_ctl]; rfl
    case eq => rw [State.equalising_ctl]; rfl
    case busy => exact State.get_set_of_ne (by decide)
    case shown =>
      rw [State.get_equalising (by decide) (by decide)]
      exact (State.get_set hw _ _).trans (Nat.mod_eq_of_lt mod.isLt)
  case done =>
    have keeps := (execEqualiseDone_keeps (.refl 0x20C20D s)) _ (execEqualiseDone_joins he boot met hm)
    have idle : (s.joined e).ctl.eq = none := by rw [State.joined_ctl he]
    obtain ⟨hctl, hget⟩ := State.joined_asks_test hw he hm
    have stays {f : Fld} (hf : ∀ g ∈ chargeFlds, g.key ≠ f.key) : ((s.joined e).toCharge false).get f = (s.joined e).get f :=
      State.get_toCharge false (.inr idle) hf
    obtain ⟨shown, busy, joined⟩ := State.get_joined_shown he hw
    rw [hctl, hget _ (by decide) (by decide), hget _ (by decide) (by decide), hget _ (by decide) (by decide), stays (by decide),
      stays (by decide), stays (by decide)]
    exact ⟨(State.toCharge_eq false idle).1, shown, busy, joined, rfl, keeps.cch rfl, keeps.vlt rfl, keeps.glb rfl, keeps.pq rfl⟩
  case timeout =>
    have keeps := (execEqualiseTimeout_keeps (.refl 0x20C20D s)) _ (execEqualiseTimeout_late he boot late hm)
    have idle : s.timedOut.ctl.eq = none := congrArg Ctl.eq (State.eqRelease_ctl he)
    have stays {f : Fld} (hf : ∀ g ∈ chargeFlds, g.key ≠ f.key) :
        ((s.timedOut.toCharge false).event 0x050D 0).get f = s.timedOut.get f :=
      (State.get_event _ _ f).trans (State.get_toCharge false (.inr idle) hf)
    rw [stays (by decide), stays (by decide), stays (by decide), State.event_ctl]
    refine ⟨(State.toCharge_eq false idle).1, State.get_set_of_ne (by decide), ?busy, ?joined, keeps.cch rfl, keeps.vlt rfl,
      keeps.glb rfl, keeps.pq rfl⟩
    case busy => exact (State.get_setB_ne (by decide) _).trans (State.get_eqRelease_busy hw he)
    case joined => exact (State.get_setB_ne (by decide) _).trans (State.get_eqRelease he (by decide) (by decide))
  case boot =>
    have keeps : Keeps 0xC001 s s.bootEqualising :=
      Keeps.foldl (fun t _ => State.setSwitch_keeps _ _ _ (.refl _ t)) _ (State.updCtl_keeps (State.setMode_keeps _ (.refl _ s)) _)
    refine ⟨?mode, congrArg Ctl.eq State.setSwitches_ctl, keeps.cch rfl, keeps.glb rfl, keeps.evr rfl⟩
    case mode =>
      have four : (s.setMode 4).get CTL_STATUS_MODE = 4 := State.get_set_of_ne (by decide)
      exact (State.get_setSwitches (by decide)).trans ((State.get_updCtl _ _).trans four)
  case bootEnd =>
    have keeps := (execBootEqualiseEnd_keeps (.refl 0x20C20D s)) _ (execBootEqualiseEnd_ends he boot ended hm)
    have hctl : ((s.bootCounted e).recordMissed e).ctl = { s.ctl with eq := none, eqDone := s.ctl.eqDone || e.boot } :=
      State.recordMissed_ctl.trans (State.bootCounted_ctl he)
    have idle : ((s.bootCounted e).recordMissed e).ctl.eq = none := congrArg Ctl.eq hctl
    have stays {f : Fld} (hf : ∀ g ∈ chargeFlds, g.key ≠ f.key) :
        ((s.bootCounted e).recordMissed e).bootCharge.get f = (s.bootCounted e).get f :=
      (State.get_bootCharge idle hf).trans State.get_recordMissed
    obtain ⟨counted, busy⟩ := State.get_bootCounted_shown he hw
    obtain ⟨released, remembers⟩ := State.bootCharge_eq idle
    refine ⟨released, remembers.trans ?remembered, (stays (by decide)).trans counted, (stays (by decide)).trans busy,
      keeps.cch rfl, keeps.glb rfl⟩
    case remembered => rw [hctl, boot, Bool.or_true]
  case none =>
    unfold exec
    dsimp only
    unfold execEqualiseDone execEqualiseTimeout execBootEqualiseEnd
    rw [he]
    exact ⟨rfl, rfl, rfl⟩

end Sys2Proof.Machine
end

section
/-! PROOFS. The crown of a drain and what follows it: the recorder copy, the warm resume and the shed domains (R225 to R227, R283). -/

set_option Elab.async false

namespace Sys2Proof.Machine

section
variable {s : State} {d : BitVec 7}

/-! ## CROWN_WRITE -/

/-- The counts of what the drain leaves unsaved, and the notes, before the seal (R226, R252). -/
def State.crownNoted (s : State) : State :=
  let left := s.leftOver
  (((s.dgeTake .crown).2.set DRN_DROP_GRANULES (left.filter fun g => s.classOf g = 3).length).set DRN_UNSAVED_GRANULES
    (left.filter fun g => s.classOf g ≠ 3).length).writeNotes

/-- What the crown of a noted drain says (Table: Crown layout). -/
def State.drainCrown (a : State) : CrownIn :=
  ⟨a.drainFlags, a.epoch, a.get64 DRN_TRIP_LO_BEAT DRN_TRIP_HI_BEAT, a.drn.cause, a.drn.lastM, a.get DRN_DROP_GRANULES,
    a.get DRN_UNSAVED_GRANULES, a.crownStamps⟩

/-- The epoch sealed by the drain's crown, with a copy outstanding on each module that counts (R226). -/
def State.crownSealed (s : State) : State :=
  ((s.crownNoted.seal s.crownNoted.drainCrown).setB VLT_STATUS_READY false).updDrn fun x =>
    { x with crownLeft := s.crownNoted.get VLT_MODS_COUNTED }

/-- The crown is due in DRAIN once the passes are over, with no granule in flight and the drain's checkpoint done or no slot free
(R226). -/
def State.CrownDue (s : State) : Prop :=
  s.glb.st = .drain ∧ s.get DRN_STATUS_PASS = 8 ∧
    (s.drn.crownLeft = 0 && !s.drn.crowned && !(s.vlt.inflight.any fun f => f.kind = 1)) ∧
    ((match s.vlt.ckpt with | some k => k.drain && k.done | none => false) || !s.slotRoom)

theorem State.crownDue_of_full (h : s.glb.st = .drain ∧ s.get DRN_STATUS_PASS = 8 ∧ s.drn.crownLeft = 0 ∧ s.drn.crowned = false ∧
    (s.vlt.inflight.any fun f => f.kind = 1) = false ∧ s.slotRoom = false) : s.CrownDue := by
  obtain ⟨hst, hpass, hleft, hcr, hfly, hroom⟩ := h
  exact ⟨hst, hpass, by simp [hleft, hcr, hfly], by simp [hroom]⟩

theorem execCrownWrite_waits (h : s.CrownDue) (he : (s.dgeTake .crown).1 = false) :
    execCrownWrite s = .next (s.dgeTake .crown).2 :=
  (if_pos h).trans (if_pos (by simp [he]))

theorem execCrownWrite_seals (h : s.CrownDue) (he : (s.dgeTake .crown).1 = true) : execCrownWrite s = .next s.crownSealed :=
  (if_pos h).trans (if_neg (by simp [he]))

theorem execCrownWrite_idle (h : ¬s.CrownDue) : execCrownWrite s = .next s := if_neg h

/-- Taking the digest engine, the notes and the seal leave the drain's own figures alone. -/
theorem State.crownSealed_drn : s.crownSealed.drn = { s.drn with crownLeft := s.crownNoted.get VLT_MODS_COUNTED } := by
  have k : Keeps 0x221A4D s ((s.crownNoted.seal s.crownNoted.drainCrown).setB VLT_STATUS_READY false) :=
    State.setB_keeps (State.seal_keeps _ (State.writeNotes_keeps (State.set_keeps (State.set_keeps
      (State.dgeTake_keeps _ (.refl _ s)) _ _) _ _))) _ _
  unfold State.crownSealed
  rw [State.updDrn_drn, k.drn rfl]

/-- Due, the crown writer waits for the digest engine or writes; at any other time the command changes nothing. -/
theorem execCrownWrite_next (s : State) : ∃ t, execCrownWrite s = .next t ∧ ∃ n, t.drn = { s.drn with crownLeft := n } := by
  by_cases h : s.CrownDue
  · cases he : (s.dgeTake .crown).1 with
    | false => exact ⟨_, execCrownWrite_waits h he, s.drn.crownLeft, (State.dgeTake_keeps _ (.refl 0x20024D s)).drn rfl⟩
    | true => exact ⟨_, execCrownWrite_seals h he, _, State.crownSealed_drn⟩
  · exact ⟨s, execCrownWrite_idle h, s.drn.crownLeft, rfl⟩

/-! ## CROWN_COMPLETE -/

/-- The drain once the last copy of its crown is complete (R226). -/
def Drn.afterCrown (d : Drn) : Drn := { d with crownLeft := 0, crowned := true, recCopy := true }

theorem execCrownComplete_last (h : s.glb.st = .drain ∧ s.drn.crownLeft ≠ 0) : execCrownComplete s =
    .next ((({ s with drn := s.drn.afterCrown }.event 0x0606 0).writePair false).recorderCopy) := if_pos h

/-- The event, the pair record and the recorder copy touch what reports, configuration flash and the mirror's record. -/
theorem State.crownReported_keeps (s : State) : Keeps 0x30022C s (((s.event 0x0606 0).writePair false).recorderCopy) :=
  State.recorderCopy_keeps (State.writePair_keeps _ (State.event_keeps _ _ (.refl _ s)))

/-! ## WARM_RESUME_DECISION -/

/-- The decision is due at a boundary after the crown; with the input back for 50 beats, no power-down begun and no rank lost it is a
warm resume (R227, R283). -/
def State.WarmResumes (s : State) : Prop :=
  s.glb.cycle = 0 ∧ s.glb.st = .drain ∧ s.drn.crowned = true ∧ s.drn.decided = 0 ∧ 50 ≤ s.glb.backBeats ∧
    s.bit DRN_STATUS_PD_BEGUN = false ∧ s.drn.lostRanks = 0

/-- RESTORE is entered with admission open and PARTNER_ALIVE_OUT asserted (R283). -/
def State.resumeEntered (s : State) : State :=
  (s.enter .restore).updDrn fun d => { d with decided := 1, pfwIn := false, stop := false, aliveOut := true }

/-- The resume is reported, the hold-up converter charges, and the shed domains are repowered (R283, R284). -/
def State.resumePowered (s : State) : State :=
  let b := (((s.resumeEntered.set DRN_STATUS_PASS 0).copyReport.setB DRN_STATUS_WARM true).event 0x0607 0).raise 2
  ((b.toCharge true).set VLT_RST_STATUS_KIND 2).repower

theorem State.resumePowered_keeps (s : State) : Keeps 0x38C66D s.resumeEntered s.resumePowered :=
  State.repower_keeps (State.set_keeps (State.toCharge_keeps _ (State.raise_keeps _ (State.event_keeps _ _ (State.setB_keeps
    (State.copyReport_keeps (State.set_keeps (.refl _ _) _ _)) _ _)))) _ _)

theorem execWarmResumeDecision_resumes (h : s.WarmResumes) : execWarmResumeDecision s = .next
    ((s.resumePowered.updCch fun c => { c with selfRef := 0 }).updRst fun r => { r with warm := true, scanned := true }) := by
  obtain ⟨hc, hst, hcr, hdec, hback, hpd, hlost⟩ := h
  unfold execWarmResumeDecision
  rw [if_pos ⟨by simp [State.atBoundary, hc], hst, hcr, hdec⟩, if_pos ⟨hback, by simp [hpd]⟩]
  extract_lets s1 s2 s3
  rw [if_pos hlost]
  unfold s3
  rw [if_pos hlost]
  rfl

theorem execWarmResumeDecision_idle
    (h : ¬(s.glb.cycle = 0 ∧ s.glb.st = .drain ∧ s.drn.crowned = true ∧ s.drn.decided = 0)) :
    execWarmResumeDecision s = .next s :=
  if_neg (by simpa [State.atBoundary] using h)

/-! ## WARM_SERVE_ENTRY -/

/-- Writing lines leaves the kind of restore alone. -/
theorem State.writeLine_warm (la : Nat) (c : LineCell) : (s.writeLine la c).rst.warm = s.rst.warm := by
  unfold State.writeLine
  extract_lets g both dual s0 s1 any
  have h1 : s1.rst.warm = s.rst.warm := by
    unfold s1 s0
    split <;> rfl
  split <;> exact h1

/-- An adoption leaves the kind of restore alone (R342). -/
theorem State.adoptMirror_warm (thru : Nat) : (s.adoptMirror thru).rst.warm = s.rst.warm := by
  unfold State.adoptMirror
  extract_lets inc gs s1 s2
  have lines : ∀ t g, ((List.range 64).foldl (fun u i => State.writeLine u (64 * g + i) ⟨0, true⟩) t).rst.warm = t.rst.warm :=
    fun t g => foldl_eq_of_step (f := fun u : State => u.rst.warm) (fun u i => u.writeLine_warm _ _) _ t
  have h1 : s1.rst.warm = s.rst.warm := foldl_eq_of_step (f := fun u : State => u.rst.warm) (fun t g => by
    rw [(State.markDirty_keeps g (.refl 0x801 _)).rst rfl, lines]
    rfl) gs _
  have k : Keeps 0x20120D s1 ((((s2.event 0x090E 0).raise 20)).enqueue 3 4 0 (s.img.size 4 / 4096) (s.img.base 4 / 4096) 0 false) :=
    State.enqueue_keeps _ _ _ _ _ _ _ (State.raise_keeps _ (State.event_keeps _ _ (State.setB_keeps (State.setB_keeps
      (State.setB_keeps (State.setB_keeps (.refl _ s1) _ _) _ _) _ _) _ _)))
  split
  · rfl
  · rw [k.rst rfl, h1]

/-- A warm resume serves at a boundary of RESTORE that is bound for no other state, once every domain is on (R283). -/
def State.WarmServes (s : State) : Prop :=
  s.glb.cycle = 0 ∧ s.glb.st = .restore ∧ s.drn.toSealed = false ∧ s.rst.warm = true ∧ s.domsUp = true

/-- The warm resume is over: self-refresh ends, and the frozen horizons, the roll and the kept tiles are released (R103, R283). -/
def State.warmReleased (s : State) : State :=
  let a := (s.updCch fun c => { c with selfRef := 0 }).updRst fun r => { r with warm := false, ranges := [] }
  let b := (a.setB PQ_STATUS_HZ_FROZEN false).rollDrop.keptBack
  (((b.set VLT_RST_STATUS_KIND 2).set VLT_RST_STATUS_RESULT 1).set VLT_RST_NRANGE_COUNT 0).setB VLT_STATUS_READY true

/-- SERVE is entered with what is not yet restored left to the lazy restore (R283). -/
def State.warmEntered (s : State) : State :=
  let d := s.warmReleased.updGlb fun g => { g with st := .serve, lazyRestore := !s.cch.unrest.isEmpty }
  ((if d.glb.lazyRestore then d.restoreTasks else d).moveBuckets).event 0x0717 0

/-- The entry up to the close of the beat: after a lost partner its region is adopted (R342). -/
def State.warmAdopted (s : State) : State :=
  if s.bit DRN_STATUS_PARTNER_LOST then s.warmEntered.adoptMirror s.drn.lastM else s.warmEntered

theorem execWarmServeEntry_serves (h : s.WarmServes) : execWarmServeEntry s = .next s.warmAdopted.closeAgain :=
  if_pos (by simpa [State.WarmServes, State.atBoundary] using h)

theorem execWarmServeEntry_idle (h : ¬s.WarmServes) : execWarmServeEntry s = .next s :=
  if_neg (by simpa [State.WarmServes, State.atBoundary] using h)

theorem State.warmReleased_keeps (s : State) : Keeps 0x1001
    ((s.updCch fun c => { c with selfRef := 0 }).updRst fun r => { r with warm := false, ranges := [] }) s.warmReleased :=
  State.setB_keeps (State.set_keeps (State.set_keeps (State.set_keeps (State.keptBack_keeps (State.rollDrop_keeps
    (State.setB_keeps (.refl _ _) _ _))) _ _) _ _) _ _) _ _

/-- What follows the entry of SERVE up to an adoption touches registers, the dispatcher and what reports. -/
theorem State.warmEntered_keeps (s : State) : Keeps 0x20120D
    (s.warmReleased.updGlb fun g => { g with st := .serve, lazyRestore := !s.cch.unrest.isEmpty }) s.warmEntered :=
  State.event_keeps _ _ (State.moveBuckets_keeps (.ite (fun _ => State.restoreTasks_keeps (.refl _ _)) fun _ => .refl _ _))

theorem State.warmAdopted_keeps (s : State) : Keeps 0x341A0D s.warmEntered s.warmAdopted :=
  .ite (fun _ => State.adoptMirror_keeps _ (.refl _ _)) fun _ => .refl _ _

theorem State.warmAdopted_glb : s.warmAdopted.glb = { s.glb with st := .serve, lazyRestore := !s.cch.unrest.isEmpty } := by
  rw [s.warmAdopted_keeps.glb rfl, s.warmEntered_keeps.glb rfl, State.updGlb_glb, s.warmReleased_keeps.glb rfl]
  rfl

theorem State.warmAdopted_warm : s.warmAdopted.rst.warm = false := by
  have he : s.warmEntered.rst.warm = false := by
    rw [s.warmEntered_keeps.rst rfl, State.updGlb_rst, s.warmReleased_keeps.rst rfl]
    rfl
  unfold State.warmAdopted
  split
  · rw [State.adoptMirror_warm, he]
  · exact he

/-! ## DOMAIN_SHED -/

/-- A domain that is on and whose shedding condition holds goes off in DRAIN; a tile's once it is out of service (R225). -/
def State.Sheds (s : State) (n : Nat) : Prop :=
  s.glb.st = .drain ∧ n < 96 ∧ s.domOn n = true ∧ s.shedNow n = true ∧ (64 ≤ n ∨ 2 ≤ s.tile n)

/-- What leaves with the group of a domain before the group goes off: the mirror link with domain 88, the host links with 80 (R225). -/
def State.shedLinks (s : State) (l : List Nat) : State :=
  let a := if l.contains 88 then (s.sessionQuit 9).linkIdle else s
  if l.contains 80 then a.updHp fun h => { h with up := ⟨false, false⟩ } else a

theorem State.shedLinks_none {l : List Nat} (hlink : l.contains 88 = false) (hport : l.contains 80 = false) : s.shedLinks l = s := by
  unfold State.shedLinks
  rw [hlink, hport]
  rfl

theorem execDomainShed_sheds (h : s.Sheds d.toNat) : execDomainShed d s =
    .next (((s.shedLinks (s.shedGroup d.toNat)).domsOff (s.shedGroup d.toNat)).updDsp fun x =>
      { x with remap := x.remap || decide (d.toNat < 64) }) := if_pos h

theorem execDomainShed_idle (h : ¬s.Sheds d.toNat) : execDomainShed d s = .next s := if_neg h

theorem execDomainShed_next (d : BitVec 7) (s : State) : ∃ t, execDomainShed d s = .next t ∧ Keeps 0x38976F s t := by
  have shed := execDomainShed_keeps d (.refl 0x38976F s)
  by_cases h : s.Sheds d.toNat
  · exact ⟨_, execDomainShed_sheds h, shed _ (execDomainShed_sheds h)⟩
  · exact ⟨s, execDomainShed_idle h, .refl _ s⟩

end

/-- Settles O26: each clause is a branch of its command, the frames by what each command keeps. -/
theorem crownAndWarmResume : Obligations.CrownAndWarmResume := by
  unfold Obligations.CrownAndWarmResume
  refine ⟨fun s h => ⟨if_neg fun ⟨hd, _⟩ => h hd, if_neg fun ⟨hd, _⟩ => h hd, fun d => execDomainShed_idle fun ⟨hd, _⟩ => h hd⟩,
    fun s ⟨hst, hpass, hleft, hcr, hfly, hroom, htaken⟩ =>
      execCrownWrite_seals (State.crownDue_of_full ⟨hst, hpass, hleft, hcr, hfly, hroom⟩) htaken,
    fun s ⟨hst, hpass, hleft, hcr, hfly, hroom, hwaits⟩ =>
      execCrownWrite_waits (State.crownDue_of_full ⟨hst, hpass, hleft, hcr, hfly, hroom⟩) hwaits,
    fun s h => execCrownComplete_last h, fun s => ?written, fun s hst hleft => ?completed, fun s h => ?resumed,
    fun s h => execWarmResumeDecision_resumes h, fun s h => execWarmResumeDecision_idle h, fun s h => ?served,
    fun s h => execWarmServeEntry_serves h, fun s h => execWarmServeEntry_idle h,
    fun d s ⟨hst, hd, hon, hnow, htile, hlink, hport⟩ => ?tile, fun d s ⟨hst, hlo, hhi, hon, hnow⟩ => ?port, fun d s _ => ?frame⟩
  case written =>
    obtain ⟨t, ht, hdrn⟩ := execCrownWrite_next s
    have k := (execCrownWrite_keeps (.refl 0x231A4D s)) t ht
    exact ⟨t, ht, k.glb rfl, k.sti rfl, k.cfl rfl, k.stw rfl, k.pq rfl, k.hp rfl, k.ldg rfl, k.ctl rfl, k.seq rfl, k.rst rfl,
      k.mlk rfl, k.mtx rfl, hdrn⟩
  case completed =>
    have k := State.crownReported_keeps { s with drn := s.drn.afterCrown }
    exact ⟨_, execCrownComplete_last ⟨hst, hleft⟩, k.drn rfl, k.glb rfl, k.pq rfl, k.cch rfl, k.vlt rfl, k.dsp rfl⟩
  case resumed =>
    have k := s.resumePowered_keeps
    refine ⟨_, execWarmResumeDecision_resumes h, k.glb rfl, k.drn rfl, ?_, ?_, k.pq rfl,
      k.vlt rfl, k.dsp rfl, k.sti rfl⟩
    · exact congrArg (fun r : Rst => { r with warm := true, scanned := true }) (k.rst rfl)
    · exact congrArg (fun c : Cch => { c with selfRef := 0 }) (k.cch rfl)
  case served =>
    have kc := s.warmAdopted.closeAgain_only
    have k := (execWarmServeEntry_keeps (.refl 0xB5FA0F s)) _ (execWarmServeEntry_serves h)
    refine ⟨_, execWarmServeEntry_serves h, ?_, ?_, ?_, k.pq rfl, k.vlt rfl, k.cfl rfl, k.dge rfl, k.stw rfl, k.mlk rfl, k.sti rfl,
      k.hp rfl⟩
    · rw [State.closeAgain_glb, State.warmAdopted_glb]
    · rw [State.closeAgain_glb, State.warmAdopted_glb]
    · rw [kc.rst rfl, State.warmAdopted_warm]
  case tile =>
    refine (execDomainShed_sheds ⟨hst, by omega, hon, hnow, .inr htile⟩).trans ?_
    simp only [State.shedLinks_none hlink hport, hd, decide_true, Bool.or_true]
  case port =>
    refine (execDomainShed_sheds ⟨hst, hhi, hon, hnow, .inl hlo⟩).trans ?_
    simp only [Nat.not_lt.mpr hlo, decide_false, Bool.or_false]
    rfl
  case frame =>
    obtain ⟨t, ht, k⟩ := execDomainShed_next d s
    exact ⟨t, ht, k.drn rfl, k.cch rfl, k.vlt rfl, k.sti rfl, k.stw rfl, k.ctl rfl⟩

end Sys2Proof.Machine
end

section
/-! PROOFS. The close of the class M window in DRAIN (R216): a statement that holds for a canonical table of unspent credit only. -/

set_option Elab.async false

namespace Sys2Proof.Machine

/-- The close of an open window takes the mirror's stream out of the table of unspent credit once, and the drain that goes on leaves
the ledger alone. -/
theorem State.unspent_windowClosed {s : State} (h : s.bit DRN_STATUS_MWIN = true) (cause : Nat) :
    (s.mwinEnd cause).drainAdvance.unspent 2 = Store.get 0 (Store.put 0 s.ldg.unspent 2 0) 2 := by
  unfold State.unspent
  rw [(State.drainAdvance_keeps (.refl 0x239A0F (s.mwinEnd cause))).ldg rfl]
  unfold State.mwinEnd
  rw [if_pos h, (State.event_keeps _ _ (.refl 0x20020C _)).ldg rfl]
  rfl

theorem execMrxWindowExpiry_due {s : State} (h : s.glb.st = .drain ∧ s.bit DRN_STATUS_MWIN = true ∧
    s.expired s.drn.start (s.get DRN_MRX_BEATS) = true) : execMrxWindowExpiry s = .next (s.mwinEnd 4).drainAdvance := if_pos h

/-- A table of unspent credit that lists the mirror's stream twice: it is not canonical. -/
def mirrorTwice : Store Nat := [(2, 5), (2, 7)]

/-- A controller in DRAIN, past the MRX_BEATS beats of its open window, whose credit table is `mirrorTwice`. -/
def windowTwice : State :=
  ((State.reset.setB DRN_STATUS_MWIN true).updGlb fun g => { g with st := .drain, beat := 100000000 }).updLdg fun l =>
    { l with unspent := mirrorTwice }

theorem windowTwice_due : windowTwice.glb.st = .drain ∧ windowTwice.bit DRN_STATUS_MWIN = true ∧
    windowTwice.expired windowTwice.drn.start (windowTwice.get DRN_MRX_BEATS) = true := by decide

/-- The expiry takes the mirror's stream out of the table once, and uncovers the other entry. -/
theorem windowTwice_expiry {t : State} (h : exec .mrxWindowExpiry windowTwice = .next t) : t.unspent 2 = 7 := by
  obtain ⟨-, hopen, -⟩ := windowTwice_due
  rw [← Host.Outcome.next.inj ((execMrxWindowExpiry_due windowTwice_due).symm.trans h), State.unspent_windowClosed hopen]
  decide

/-- Refutes O25: its first clause asks nothing of the table of unspent credit. In DRAIN with the table `mirrorTwice` the expiry of the
class M window leaves the mirror's stream with 7 lines of credit. -/
theorem not_drainWindowsFenceAndExtents : ¬Obligations.DrainWindowsFenceAndExtents := by
  unfold Obligations.DrainWindowsFenceAndExtents
  rintro ⟨hwindow, -⟩
  obtain ⟨t, ht, -, hzero, -⟩ := hwindow windowTwice windowTwice_due
  rw [windowTwice_expiry ht] at hzero
  nomatch hzero

end Sys2Proof.Machine
end

section
/-! PROOFS. The tag tables of the vault: what their writes leave of the log, and two statements that forget them (R248, R250). -/

set_option Elab.async false

namespace Sys2Proof.Machine

section
variable {s : State}

/-! ## What a slot's write leaves of the log -/

theorem State.showSpace_vlt (s : State) : s.showSpace.vlt = s.vlt := (State.showSpace_keeps (.refl 0x20020D s)).vlt rfl

theorem State.showStripe_vlt (s : State) : s.showStripe.vlt = s.vlt := (State.showStripe_keeps (.refl 1 s)).vlt rfl

theorem State.openBand_tagDone (blk : Nat) : (s.openBand blk).vlt.tagDone = s.vlt.tagDone := by
  unfold State.openBand
  extract_lets mods holes b s1 page s2
  have h2 : s2.vlt.tagDone = s1.vlt.tagDone := by
    refine foldl_eq_of_step (f := fun t : State => t.vlt.tagDone) (fun t x => ?_) _ _
    rfl
  rw [State.showSpace_vlt]
  exact h2

theorem State.openBand_openB (blk : Nat) : (s.openBand blk).vlt.openB = some (s.vlt.maxB + 1) := by
  unfold State.openBand
  rw [State.showSpace_vlt]
  rfl

theorem State.roomy_tagDone : s.roomy.vlt.tagDone = s.vlt.tagDone := by
  unfold State.roomy
  split
  · split
    · rfl
    · split
      · rfl
      · exact State.openBand_tagDone _
  · split
    · rfl
    · exact State.openBand_tagDone _

/-- With no band open, a slot's write opens the lowest free band (R250). -/
theorem State.roomy_opens {blk : Nat} {l : List Nat} (ho : s.openBandOf = none) (hf : s.freeBands = blk :: l) :
    s.roomy = s.openBand blk := by
  unfold State.roomy
  rw [ho, hf]

/-- Of the open band and the tag tables a slot's write changes what the search for room changes. -/
theorem State.writeSlot_log (ty flags pline key aux : Nat) (plain : List Byte) :
    (s.writeSlot ty flags pline key aux plain).2.vlt.openB = s.roomy.vlt.openB ∧
      (s.writeSlot ty flags pline key aux plain).2.vlt.tagDone = s.roomy.vlt.tagDone := by
  unfold State.writeSlot
  extract_lets u
  split
  · exact ⟨rfl, rfl⟩
  · extract_lets x v d e at_ per rowEnd s1 s2
    have h2 : s2.vlt = s1.vlt :=
      (Keeps.ite (fun _ => State.enqueue_keeps _ _ _ _ _ _ _ (.refl 0x1001 s1)) fun _ => .refl _ s1).vlt rfl
    exact ⟨(congrArg Vlt.openB h2).trans rfl, (congrArg Vlt.tagDone h2).trans rfl⟩

/-! ## Tag tables -/

theorem State.writeTags_openB (b : Band) (n : Nat) (h : s.slotRoom = true) : (s.writeTags b n).vlt.openB = s.roomy.vlt.openB := by
  unfold State.writeTags
  rw [if_neg (by simp [h])]
  exact (State.writeSlot_log _ _ _ _ _ _).1

theorem State.writeTags_tagDone (b : Band) (n : Nat) (h : s.slotRoom = true) :
    (s.writeTags b n).vlt.tagDone = s.vlt.tagDone ++ [(b.bseq, n)] := by
  unfold State.writeTags
  rw [if_neg (by simp [h])]
  exact congrArg (· ++ [(b.bseq, n)]) ((State.writeSlot_log _ _ _ _ _ _).2.trans State.roomy_tagDone)

/-- The spans whose tag tables are due, in the order in which they are written (R248). -/
def State.dueTags (s : State) (whole : Bool) : List (Nat × Nat) :=
  s.vlt.bands.flatMap fun b => (s.tagSpans b whole).map fun n => (b.bseq, n)

/-- The one tag table that is due is written. -/
theorem State.tagAll_one {whole : Bool} {q n : Nat} {b : Band} (hd : s.dueTags whole = [(q, n)]) (hb : s.band q = some b) :
    s.tagAll whole = s.writeTags b n := by
  unfold State.tagAll
  rw [show s.vlt.bands.flatMap _ = [(q, n)] from hd, List.foldl_cons, List.foldl_nil, hb]

theorem State.tagAll_tagDone {whole : Bool} {q n : Nat} {b : Band} (hd : s.dueTags whole = [(q, n)]) (hb : s.band q = some b)
    (hr : s.slotRoom = true) : (s.tagAll whole).vlt.tagDone = s.vlt.tagDone ++ [(b.bseq, n)] := by
  rw [State.tagAll_one hd hb, State.writeTags_tagDone b n hr]

/-- With no band open, a tag table that is due opens the lowest free band (R248, R250). -/
theorem State.tagAll_openB {whole : Bool} {q n blk : Nat} {l : List Nat} {b : Band} (hd : s.dueTags whole = [(q, n)])
    (hb : s.band q = some b) (hr : s.slotRoom = true) (ho : s.openBandOf = none) (hf : s.freeBands = blk :: l) :
    (s.tagAll whole).vlt.openB = some (s.vlt.maxB + 1) := by
  rw [State.tagAll_one hd hb, State.writeTags_openB b n hr, State.roomy_opens ho hf, State.openBand_openB]

/-! ## The commands that write due tag tables -/

/-- BAND_OPEN may open the band on a block (R245, R250, R270), no band being open. -/
def State.MayOpenBand (s : State) (blk : Nat) : Prop :=
  s.bit VLT_STATUS_READY = true ∧ s.img.crownBlocks ≤ blk ∧ blk < s.img.blocks ∧ s.bandFree blk = true ∧ s.openBandOf = none ∧
    3 ≤ ones 4 s.bandMods

theorem execBandOpen_opens {blk : BitVec 14} (h : s.MayOpenBand blk.toNat) :
    execBandOpen blk s = .next ((s.closeBand.openBand blk.toNat).tagAll true).showSpace := by
  obtain ⟨hr, hlo, hhi, hfree, hopen, hmods⟩ := h
  unfold execBandOpen
  rw [hopen]
  exact if_pos ⟨hr, hlo, hhi, hfree, rfl, hmods⟩

/-- Step 2 of a release may begin (R261). -/
def State.MayRestripe (s : State) : Prop :=
  s.get VLT_MODS_PENDING &&& s.get VLT_MODS_COUNTED ≠ 0 ∧ s.vlt.released2 = 0 ∧ 100 ≤ s.ldg.flashRun

/-- The log as step 2 of a release leaves it before the tag tables: no band open, the modules off new bands (R261). -/
def State.releaseClosed (s : State) : State :=
  s.closeBand.updVlt fun v => { v with released2 := s.get VLT_MODS_PENDING &&& s.get VLT_MODS_COUNTED }

theorem execFlashReleaseRestripe_due (h : s.MayRestripe) :
    execFlashReleaseRestripe s = .next (s.releaseClosed.tagAll true).showStripe := if_pos h

end

/-! ## A vault with a tag table that waits -/

/-- An image of four planes, one target, 64 pages and 16 erase blocks, two of them for crowns. -/
def smallVault : Image := ⟨1, 0, List.replicate 9 [] ++ [[4, 1, 64, 0, 16, 0, 2]]⟩

/-- A band over four modules whose first row is written: 384 slots, of which the first 256 have no tag table yet. -/
def writtenBand (closed : Bool) : Band := ⟨3, 1, 0, 0, 15, 0, 384, closed, false⟩

/-- SERVE with four modules counted and a ready vault of that geometry. -/
def readyVault : State :=
  (((State.reset.updGlb fun g => { g with st := .serve }).updSti fun t => { t with active := some smallVault }).set VLT_MODS_COUNTED
    15).setB VLT_STATUS_READY true

/-- The ready vault with that band; `openB` says whether it is the open one. -/
def tagWaits (openB : Option Nat) : State :=
  readyVault.updVlt fun v => { v with
    bands := [writtenBand openB.isNone], openB := openB, maxB := 1, newBlocks := [3] }

theorem tagWaits_mayOpenBand : (tagWaits none).MayOpenBand 4 := by
  unfold State.MayOpenBand
  decide

/-- That vault as BAND_OPEN of block 4 leaves it before the tag tables. -/
def tagWaitsOpened : State := (tagWaits none).closeBand.openBand 4

theorem tagWaits_opens : execBandOpen 4 (tagWaits none) = .next (tagWaitsOpened.tagAll true).showSpace :=
  execBandOpen_opens tagWaits_mayOpenBand

/-- The tag table of the closed band is due, and the band just opened has room for it. -/
theorem tagWaitsOpened_due : tagWaitsOpened.dueTags true = [(1, 0)] ∧ tagWaitsOpened.band 1 = some (writtenBand true) ∧
    tagWaitsOpened.slotRoom = true := by
  decide

/-- Refutes O33: BAND_OPEN also writes the tag tables that are due (R248). In the vault `tagWaits none` it opens the band on block 4 and
writes the tag table of span 0 of band 1 into it, where the statement asks for the opened band alone. -/
theorem not_chunksProgramsAndErases : ¬Obligations.ChunksProgramsAndErases := by
  unfold Obligations.ChunksProgramsAndErases
  rintro ⟨-, -, -, -, hopen, -⟩
  obtain ⟨hexec, -⟩ := hopen 4 (tagWaits none) tagWaits_mayOpenBand
  have hvlt : (tagWaitsOpened.tagAll true).showSpace.vlt = tagWaitsOpened.showSpace.vlt :=
    congrArg State.vlt (Host.Outcome.next.inj (tagWaits_opens.symm.trans hexec))
  rw [State.showSpace_vlt, State.showSpace_vlt] at hvlt
  obtain ⟨hdue, hband, hroom⟩ := tagWaitsOpened_due
  have htags : tagWaitsOpened.vlt.tagDone ++ [(1, 0)] = tagWaitsOpened.vlt.tagDone :=
    (State.tagAll_tagDone hdue hband hroom).symm.trans (congrArg Vlt.tagDone hvlt)
  simp at htags

/-- The vault with its band still open, and the release of module 3 pending for 100 white beats. -/
def releaseWaits : State := ((tagWaits (some 1)).set VLT_MODS_PENDING 8).updLdg fun l => { l with flashRun := 100 }

theorem releaseWaits_mayRestripe : releaseWaits.MayRestripe := by
  unfold State.MayRestripe
  decide

/-- With its band closed the tag table of that band is due; no band is open for it, and block 2 is the lowest free one. -/
theorem releaseWaits_closed : releaseWaits.releaseClosed.dueTags true = [(1, 0)] ∧
    releaseWaits.releaseClosed.band 1 = some (writtenBand true) ∧ releaseWaits.releaseClosed.slotRoom = true ∧
    releaseWaits.releaseClosed.openBandOf = none ∧ releaseWaits.releaseClosed.freeBands = 2 :: (List.range 16).drop 4 := by
  decide

/-- Refutes O35: FLASH_RELEASE_RESTRIPE closes the open band and then writes the tag tables that are due (R248, R261). In
`releaseWaits` the tag table of the band just closed opens the next free band (R250), where the statement says that none is open. -/
theorem not_flashModulesLeaveAndReturn : ¬Obligations.FlashModulesLeaveAndReturn := by
  unfold Obligations.FlashModulesLeaveAndReturn
  rintro ⟨-, -, -, -, hrestripe, -⟩
  obtain ⟨hdue, hband, hroom, hnone, hfree⟩ := releaseWaits_closed
  obtain ⟨t, ht, -, hclosed, -⟩ := hrestripe releaseWaits releaseWaits_mayRestripe
  obtain rfl := Host.Outcome.next.inj ((execFlashReleaseRestripe_due releaseWaits_mayRestripe).symm.trans ht)
  have hopen := State.tagAll_openB hdue hband hroom hnone hfree
  rw [State.showStripe_vlt, hopen] at hclosed
  nomatch hclosed (by decide)

end Sys2Proof.Machine
end

section
/-! PROOFS. The notes of an emptied vault (R271, R273): a statement that forgets the counts of what a drain left unsaved. -/

set_option Elab.async false

namespace Sys2Proof.Machine

section
variable {s : State}

/-- With no crown to read notes from, the step ends with no ranges and with both counts of the last drain zero (R273). -/
def State.notesVoid (s : State) : State :=
  ((s.set DRN_DROP_GRANULES 0).set DRN_UNSAVED_GRANULES 0).updRst fun r => { r with noted := true, ranges := [] }

theorem execNotesApply_empty (hst : s.glb.st = .restore) (hmapped : s.rst.mapped = true) (hnoted : s.rst.noted = false)
    (hempty : s.rst.empty = true) : execNotesApply s = .next s.notesVoid :=
  (if_pos ⟨hst, hmapped, by simp [hnoted]⟩).trans (if_pos hempty)

theorem State.notesVoid_drop (hw : Store.wf 0 s.regs = true) : s.notesVoid.get DRN_DROP_GRANULES = 0 := by
  unfold State.notesVoid
  rw [State.get_updRst, State.get_set_ne (by decide), State.get_set hw]
  rfl

end

/-- RESTORE over an emptied vault whose map is loaded, after a drain that dropped three granules of class D. -/
def emptiedAfterDrop : State :=
  ((State.reset.updGlb fun g => { g with st := .restore }).updRst fun r => { r with
    scanned := true, empty := true, mapped := true }).set DRN_DROP_GRANULES 3

theorem emptiedAfterDrop_drop : Store.wf 0 emptiedAfterDrop.regs = true ∧ emptiedAfterDrop.get DRN_DROP_GRANULES = 3 := by
  decide

/-- Refutes O36: its last clause says that NOTES_APPLY in an empty vault changes the restore's own record alone, where the command also
zeroes the counts of what the last drain dropped and left unsaved (R273). In `emptiedAfterDrop` DRN_DROP_GRANULES goes from 3 to 0. -/
theorem not_restoreFindsItsCrownOrStops : ¬Obligations.RestoreFindsItsCrownOrStops := by
  unfold Obligations.RestoreFindsItsCrownOrStops
  rintro ⟨-, -, -, -, -, -, -, -, -, -, -, -, -, -, -, -, -, hnotes⟩
  obtain ⟨hempty, -⟩ := hnotes emptiedAfterDrop rfl rfl rfl
  have hstate := Host.Outcome.next.inj ((execNotesApply_empty rfl rfl rfl rfl).symm.trans (hempty rfl))
  obtain ⟨hw, hdrop⟩ := emptiedAfterDrop_drop
  have hkept : emptiedAfterDrop.notesVoid.get DRN_DROP_GRANULES = emptiedAfterDrop.get DRN_DROP_GRANULES :=
    State.get_of_regs (congrArg State.regs hstate) _
  rw [State.notesVoid_drop hw, hdrop] at hkept
  nomatch hkept

end Sys2Proof.Machine
end
